-- ==== Sys2Proof/Word.lean ====
section
/-! DEFINITION. The word types of the Vexdal ISA and their plainest arithmetic (R2, R3). -/

namespace Sys2Proof

/-- One byte. -/
abbrev Byte := BitVec 8
/-- One 32-bit value: a V or T register in one lane, an instruction word. -/
abbrev Word := BitVec 32
/-- One 64-bit value: a G register, a pointer. -/
abbrev DWord := BitVec 64
/-- A set of slots of a gang: bit s is slot s. -/
abbrev Mask := BitVec 32

/-- A slot mask holds slot `l`. -/
def Mask.has (m : Mask) (l : Nat) : Bool := m.getLsbD l

/-- The mask of one slot. -/
def Mask.one (l : Nat) : Mask := BitVec.twoPow 32 l

/-- The slots of a mask, ascending. -/
def Mask.slots (m : Mask) : List Nat := (List.range 32).filter (fun l => m.getLsbD l)

/-- The number of slots in a mask. -/
def Mask.count (m : Mask) : Nat := (Mask.slots m).length

/-- The lowest slot of a mask, 32 when it is empty. -/
def Mask.low (m : Mask) : Nat := (Mask.slots m).headD 32

/-- Little-endian bytes of a value, `n` of them (R3). -/
def toBytes : Nat → Nat → List Byte
  | 0, _ => []
  | n + 1, v => BitVec.ofNat 8 v :: toBytes n (v / 256)

/-- The value of little-endian bytes (R3). -/
def ofBytes : List Byte → Nat
  | [] => 0
  | b :: bs => b.toNat + 256 * ofBytes bs

/-- Bits [hi:lo] of a number (R2). -/
def bits (v lo n : Nat) : Nat := v / 2 ^ lo % 2 ^ n

end Sys2Proof
end

