-- ==== Sys2Proof/Config.lean ====
section
/-! DEFINITION. What an implementation fixes, and the free values: constants with no body, so that nothing can
be proved of their value (notes/assumptions 3, 12, 13). -/

namespace Sys2Proof.Config

/-- A fresh value the manual leaves open, drawn with the counter `State.freeCnt` (log 3). -/
opaque freeValue : Nat → DWord

/-- The result bits of an SFU function beyond the bounds of R442: one fixed function of the function's code
and the source's bits, the same on every unit (log 12). -/
opaque sfuBits : Nat → DWord → DWord

/-- The identity private key, sealed in module flash (R76, log 13). -/
opaque identitySeed : List Byte

/-- The Farurn configuration key, firmware key and service key that the boot ROM holds (R47, R49, R50). -/
opaque configKey : List Byte
opaque firmwareKey : List Byte
opaque serviceKey : List Byte

/-- What a byte of a flash slot holds that has never been erased (R46, R49): slot, offset (log 7). -/
opaque flashByte : Nat → Nat → Byte

/-- The bytes of the STATUS and MONITORS records, whose layouts the manual does not give: the record (0 STATUS, 1 MONITORS), the
numbers it reports, the offset (R69, log 14). -/
opaque recordByte : Nat → List Nat → Nat → Byte

end Sys2Proof.Config
end

