-- ==== Sys2Proof/Syntax.lean ====
section
/-! DEFINITION. The instructions and events of the Vexdal 9400: one constructor of `Instr` for each row of
spec/opcode_table.json. Register numbers and operation codes are data here; no raw encoding is left. -/

namespace Sys2Proof

/-- The PRED field (R351, R352): `neg` is bit [24], `n` the predicate number. -/
structure Pred where
  neg : Bool
  n : Fin 8
  deriving DecidableEq, Repr

/-- A lane source operand (R353). -/
inductive LSrc where
  | v (n : Fin 112)
  | t (n : Fin 8)
  | g (n : Fin 7)
  | lit (w : Word)
  deriving DecidableEq, Repr

/-- A lane destination (R353). -/
inductive LDst where
  | v (n : Fin 112)
  | t (n : Fin 8)
  deriving DecidableEq, Repr

/-- A uniform source operand (R354): `zero` is G62. -/
inductive USrc where
  | g (n : Fin 62)
  | zero
  | lit (w : Word)
  deriving DecidableEq, Repr

/-- A uniform destination (R354): `zero` is G62, whose writes are discarded. -/
inductive UDst where
  | g (n : Fin 62)
  | zero
  deriving DecidableEq, Repr

/-- Condition codes of ICMP and GCMP (R361), in the order of their codes. -/
inductive ICC where
  | eq | ne | lti | lei | gti | gei | ltn | len | gtn | gen
  deriving DecidableEq, Repr

/-- Condition codes of FCMP (R361), in the order of their codes. -/
inductive FCC where
  | eq | ne | lt | le | gt | ge | num | nan
  deriving DecidableEq, Repr

/-- Integer types of the long forms, TY 0x00 to 0x03 (R361). -/
inductive ITy where
  | n32 | i32 | n64 | i64
  deriving DecidableEq, Repr

/-- Float types of the long forms, TY 0x04 to 0x07 (R361). -/
inductive FTy where
  | f32 | f64 | bf16x2 | f16x2
  deriving DecidableEq, Repr

/-- All type codes TY (R361), in the order of their codes 0x00 to 0x12. -/
inductive Ty where
  | n32 | i32 | n64 | i64 | f32 | f64 | bf16x2 | f16x2 | n16x2 | i16x2
  | n8 | i8 | n16 | i16 | bf16 | f16 | e4m3 | e5m2 | e2m1
  deriving DecidableEq, Repr

/-- Types of REDUX and SHFL, TY 0x00 to 0x05 (R361). -/
inductive RTy where
  | n32 | i32 | n64 | i64 | f32 | f64
  deriving DecidableEq, Repr

/-- Element types of the block conversions (R436). -/
inductive QTy where
  | e4m3 | e5m2 | i8 | n8 | e2m1
  deriving DecidableEq, Repr

/-- Rounding modes (R296, R362). -/
inductive RMode where
  | rne | rz | rd | ru
  deriving DecidableEq, Repr

/-- Operations of REDUX (R361). -/
inductive ROp where
  | add | min | max | and | or | xor
  deriving DecidableEq, Repr

/-- SFU functions (R361), in the order of their codes 0x00 to 0x0A. -/
inductive SfuFn where
  | recip32 | rroot32 | root32 | pow2 | log2 | sine | cosine | htan | recip64 | rroot64 | root64
  deriving DecidableEq, Repr

/-- Atomic operations, in the order of R363. -/
inductive AOp where
  | add | xchg | cas | and | or | xor | min | max
  deriving DecidableEq, Repr

/-- Operations of the short ATOM (R361): 0 add … 6 max.i32. -/
inductive SAOp where
  | add | xchg | and | or | xor | minI | maxI
  deriving DecidableEq, Repr

/-- Operations of STRED (R461). -/
inductive StredOp where
  | add | and | or | xor | min | max
  deriving DecidableEq, Repr

/-- Access sizes SZ (R363). -/
inductive SZ where
  | n8 | i8 | n16 | i16 | n32 | n64
  deriving DecidableEq, Repr

/-- The unsigned sizes that stores take (R363). -/
inductive USZ where
  | n8 | n16 | n32 | n64
  deriving DecidableEq, Repr

/-- Scopes (R363). -/
inductive Scope where
  | gang | team | die | dev | sys
  deriving DecidableEq, Repr

/-- Orderings of an atomic with their scope (R363, R457). -/
inductive AOrd where
  | plain
  | acq (s : Scope)
  | rel (s : Scope)
  | ar (s : Scope)
  deriving DecidableEq, Repr

/-- Kinds of FENCE (R458). -/
inductive FKind where
  | rel | acq | sc
  deriving DecidableEq, Repr

/-- Special registers (R366), in the order of their numbers. -/
inductive SReg where
  | tlid | slot | gangid | teamid | widlo | widhi | cluster | die | role | now | tenant | rival
  | ldc | stc | cpc | tlc | trapvec | trapcause | storehash
  deriving DecidableEq, Repr

/-- The address part of an LM body (R358). -/
inductive LMAddr where
  | indexed (ws : Fin 8) (sc : Fin 4) (oc : Fin 16)
  | direct (ofs : BitVec 9)
  deriving DecidableEq, Repr

/-- A short memory operand: base G0 to G14 or none, and the rest (R358). -/
structure LMem where
  base : Option (Fin 15)
  addr : LMAddr
  deriving DecidableEq, Repr

/-- A long memory operand (R358): base G0 to G61 or none, index slot and scale, literal offset. -/
structure LXMem where
  base : Option (Fin 62)
  idx : Option (Fin 8 × Fin 4)
  off : Option Word
  deriving DecidableEq, Repr

/-- The offset of a uniform memory operand (R359 UM): OFS5 or a literal. -/
inductive UOff where
  | imm (o : BitVec 5)
  | lit (w : Word)
  deriving DecidableEq, Repr

/-- States of a tile slot (R327, R359 UMZ). -/
inductive TileState where
  | none | f32 | f64 | i64
  deriving DecidableEq, Repr

/-- Form of VTOG (R365). -/
inductive VtogM where
  | zext | sext | pair
  deriving DecidableEq, Repr

/-- Form of VOTE (R395). -/
inductive VoteM where
  | mask | some | every
  deriving DecidableEq, Repr

/-- One step of the part: an instruction of the Vexdal ISA with its operands, or an event. An event that the outside
(or the fetch) hands over carries what is handed over; every other event names what it concerns in the State's
`subj` (the comment beside it says what the numbers are): `qid` and `i` a command queue and an entry of it,
`r` and `b` a request and a part of it (its block). -/
inductive Instr where
  -- lane set, control (R415 to R420)
  | nop (p : Pred)
  | sreg (p : Pred) (d : LDst) (sr : SReg)
  | lbr (p : Pred) (ofs : BitVec 21)
  | lexit (p : Pred)
  | lbrRg (p : Pred) (ofs : BitVec 21) (liveG : BitVec 8) (liveQ : BitVec 7)
  -- lane set, short integer (R407, R412)
  | iadd (p : Pred) (d : LDst) (a b : LSrc)
  | isub (p : Pred) (d : LDst) (a b : LSrc)
  | imul (p : Pred) (d : LDst) (a b : LSrc)
  | and (p : Pred) (d : LDst) (a b : LSrc)
  | or (p : Pred) (d : LDst) (a b : LSrc)
  | xor (p : Pred) (d : LDst) (a b : LSrc)
  | shl (p : Pred) (d : LDst) (a b : LSrc)
  | shrN32 (p : Pred) (d : LDst) (a b : LSrc)
  | shrI32 (p : Pred) (d : LDst) (a b : LSrc)
  | iminI32 (p : Pred) (d : LDst) (a b : LSrc)
  | imaxI32 (p : Pred) (d : LDst) (a b : LSrc)
  | iminN32 (p : Pred) (d : LDst) (a b : LSrc)
  | imaxN32 (p : Pred) (d : LDst) (a b : LSrc)
  | icmp (p : Pred) (cc : ICC) (pd : Fin 8) (a b : LSrc)
  | fcmpF32 (p : Pred) (cc : FCC) (pd : Fin 8) (a b : LSrc)
  -- lane set, short float (R427)
  | faddF32 (p : Pred) (d : LDst) (a b : LSrc)
  | fsubF32 (p : Pred) (d : LDst) (a b : LSrc)
  | fmulF32 (p : Pred) (d : LDst) (a b : LSrc)
  | ffmaF32 (p : Pred) (d : LDst) (a b : LSrc)
  | fminF32 (p : Pred) (d : LDst) (a b : LSrc)
  | fmaxF32 (p : Pred) (d : LDst) (a b : LSrc)
  | fminnF32 (p : Pred) (d : LDst) (a b : LSrc)
  | fmaxnF32 (p : Pred) (d : LDst) (a b : LSrc)
  | faddF64 (p : Pred) (d : LDst) (a b : LSrc)
  | fmulF64 (p : Pred) (d : LDst) (a b : LSrc)
  | ffmaF64 (p : Pred) (d : LDst) (a b : LSrc)
  | faddBf16X2 (p : Pred) (d : LDst) (a b : LSrc)
  | fmulBf16X2 (p : Pred) (d : LDst) (a b : LSrc)
  | ffmaBf16X2 (p : Pred) (d : LDst) (a b : LSrc)
  | faddF16X2 (p : Pred) (d : LDst) (a b : LSrc)
  | fmulF16X2 (p : Pred) (d : LDst) (a b : LSrc)
  -- cross-lane, SFU, move (R416, R421, R423, R440)
  | redux (p : Pred) (op : ROp) (ty : RTy) (d : LDst) (a : LSrc)
  | shfl (p : Pred) (d : LDst) (a b : LSrc)
  | recipF32 (p : Pred) (d : LDst) (a : LSrc)
  | rrootF32 (p : Pred) (d : LDst) (a : LSrc)
  | rootF32 (p : Pred) (d : LDst) (a : LSrc)
  | pow2F32 (p : Pred) (d : LDst) (a : LSrc)
  | log2F32 (p : Pred) (d : LDst) (a : LSrc)
  | sineF32 (p : Pred) (d : LDst) (a : LSrc)
  | cosineF32 (p : Pred) (d : LDst) (a : LSrc)
  | htanF32 (p : Pred) (d : LDst) (a : LSrc)
  | recipF64 (p : Pred) (d : LDst) (a : LSrc)
  | rrootF64 (p : Pred) (d : LDst) (a : LSrc)
  | rootF64 (p : Pred) (d : LDst) (a : LSrc)
  | mov (p : Pred) (d : LDst) (a : LSrc)
  -- short memory (R450, R453)
  | ld (p : Pred) (d : LDst) (m : LMem)
  | st (p : Pred) (s : LSrc) (m : LMem)
  | lds (p : Pred) (d : LDst) (m : LMem)
  | sts (p : Pred) (s : LSrc) (m : LMem)
  | atom (p : Pred) (op : SAOp) (d : LDst) (base : Option (Fin 15)) (s : LSrc)
  | atomNoret (p : Pred) (op : SAOp) (base : Option (Fin 15)) (s : LSrc)
  -- long integer (R408)
  | iaddLong (p : Pred) (ty : ITy) (sat : Bool) (d : LDst) (a b : LSrc)
  | isubLong (p : Pred) (ty : ITy) (sat : Bool) (d : LDst) (a b : LSrc)
  | imulLong (p : Pred) (ty : ITy) (sat : Bool) (d : LDst) (a b : LSrc)
  | imulhi (p : Pred) (ty : ITy) (d : LDst) (a b : LSrc)
  | imad (p : Pred) (ty : ITy) (sat : Bool) (d : LDst) (a b c : LSrc)
  | andLong (p : Pred) (ty : ITy) (d : LDst) (a b : LSrc)
  | orLong (p : Pred) (ty : ITy) (d : LDst) (a b : LSrc)
  | xorLong (p : Pred) (ty : ITy) (d : LDst) (a b : LSrc)
  | andn (p : Pred) (ty : ITy) (d : LDst) (a b : LSrc)
  | not (p : Pred) (ty : ITy) (d : LDst) (a : LSrc)
  | shlLong (p : Pred) (ty : ITy) (d : LDst) (a b : LSrc)
  | shrLong (p : Pred) (ty : ITy) (d : LDst) (a b : LSrc)
  | iminLong (p : Pred) (ty : ITy) (d : LDst) (a b : LSrc)
  | imaxLong (p : Pred) (ty : ITy) (d : LDst) (a b : LSrc)
  | iabs (p : Pred) (ty : ITy) (sat : Bool) (d : LDst) (a : LSrc)
  | ineg (p : Pred) (ty : ITy) (sat : Bool) (d : LDst) (a : LSrc)
  | popc (p : Pred) (ty : ITy) (d : LDst) (a : LSrc)
  | clz (p : Pred) (ty : ITy) (d : LDst) (a : LSrc)
  | bitrev (p : Pred) (ty : ITy) (d : LDst) (a : LSrc)
  | xfld (p : Pred) (ty : ITy) (d : LDst) (a b : LSrc)
  | ifld (p : Pred) (ty : ITy) (d : LDst) (a b c : LSrc)
  | icmpLong (p : Pred) (ty : ITy) (cc : ICC) (pd : Fin 8) (a b : LSrc)
  | sel (p : Pred) (ty : ITy) (ps : Fin 8) (pn : Bool) (d : LDst) (a b : LSrc)
  | movLong (p : Pred) (ty : ITy) (d : LDst) (a : LSrc)
  -- long float (R428, R432)
  | faddLong (p : Pred) (ty : FTy) (rm : RMode) (ftz : Bool) (d : LDst) (a b : LSrc)
  | fsubLong (p : Pred) (ty : FTy) (rm : RMode) (ftz : Bool) (d : LDst) (a b : LSrc)
  | fmulLong (p : Pred) (ty : FTy) (rm : RMode) (ftz : Bool) (d : LDst) (a b : LSrc)
  | ffmaLong (p : Pred) (ty : FTy) (rm : RMode) (ftz : Bool) (d : LDst) (a b c : LSrc)
  | fminLong (p : Pred) (ty : FTy) (ftz : Bool) (d : LDst) (a b : LSrc)
  | fmaxLong (p : Pred) (ty : FTy) (ftz : Bool) (d : LDst) (a b : LSrc)
  | fminnLong (p : Pred) (ty : FTy) (ftz : Bool) (d : LDst) (a b : LSrc)
  | fmaxnLong (p : Pred) (ty : FTy) (ftz : Bool) (d : LDst) (a b : LSrc)
  | fabs (p : Pred) (ty : FTy) (d : LDst) (a : LSrc)
  | fneg (p : Pred) (ty : FTy) (d : LDst) (a : LSrc)
  | fcmpLong (p : Pred) (f64 : Bool) (cc : FCC) (ftz : Bool) (pd : Fin 8) (a b : LSrc)
  | fclass (p : Pred) (ty : FTy) (ftz : Bool) (d : LDst) (a : LSrc)
  -- conversion and blocks (R433, R436 to R438); SHFL long (R421)
  | cvt (p : Pred) (dty sty : Ty) (rm : RMode) (ftz sat : Bool) (d : LDst) (a : LSrc) (b : Option LSrc)
  | qblk (p : Pred) (ty : QTy) (rm : RMode) (d : LDst) (a : LSrc) (b : Option LSrc)
  | qblks (p : Pred) (ty : QTy) (rm : RMode) (sat : Bool) (d : LDst) (a b : LSrc) (c : Option LSrc)
  | dqblk (p : Pred) (ty : QTy) (rm : RMode) (ftz : Bool) (d : LDst) (a : LSrc) (b : Option LSrc)
  | shflLong (p : Pred) (bytlid : Bool) (ty : RTy) (d : LDst) (a b : LSrc) (pd : Option (Fin 8))
  -- long memory (R450, R453, R461, R464, R465)
  | ldLong (p : Pred) (sz : SZ) (acq : Option Scope) (nl1 : Bool) (d : LDst) (m : LXMem)
  | stLong (p : Pred) (sz : USZ) (rel : Option Scope) (s : LSrc) (m : LXMem)
  | ldsLong (p : Pred) (sz : SZ) (acq : Option Scope) (d : LDst) (m : LXMem)
  | stsLong (p : Pred) (sz : USZ) (rel : Option Scope) (s : LSrc) (m : LXMem)
  | atomLong (p : Pred) (op : AOp) (sz : SZ) (ord : AOrd) (d : Option LDst) (m : LXMem) (s : LSrc)
  | atoms (p : Pred) (op : AOp) (sz : SZ) (d : Option LDst) (m : LXMem) (s : LSrc)
  | pref (p : Pred) (slice : Bool) (m : LXMem)
  | dset (p : Pred) (s : LSrc) (m : LXMem)
  | dget (p : Pred) (d : LDst) (m : LXMem)
  | stmc (p : Pred) (sz : USZ) (rel : Option Scope) (s : LSrc) (m : LXMem) (gm : Fin 7)
  | stred (p : Pred) (op : StredOp) (sz : USZ) (rel : Option Scope) (s : LSrc) (m : LXMem) (gm : Fin 7)
  -- uniform set, control (R380 to R385, R398, R458)
  | runb (n : BitVec 5) (va : BitVec 7) (k : BitVec 4)
  | rune (va : BitVec 7) (k : BitVec 4)
  | waitc (p : Pred) (a b c d : BitVec 4)
  | bartm (p : Pred)
  | fence (p : Pred) (kind : FKind) (scope : Scope)
  | exit (p : Pred)
  | bra (p : Pred) (ofs : BitVec 21)
  | braq (p : Pred) (pl : Fin 8) (all : Bool) (ofs : BitVec 17)
  | call (p : Pred) (d : UDst) (ofs : BitVec 15)
  | ret (p : Pred) (a : USrc)
  | jmpg (p : Pred) (a : USrc)
  | trap (p : Pred) (ret : Bool)
  | bkpt (p : Pred) (tag : BitVec 16)
  | fwcall (p : Pred) (svc : BitVec 12)
  -- uniform set, scalar (R386 to R389)
  | gadd (p : Pred) (d : UDst) (a b : USrc)
  | gsub (p : Pred) (d : UDst) (a b : USrc)
  | gmul (p : Pred) (d : UDst) (a b : USrc)
  | gmulhiN64 (p : Pred) (d : UDst) (a b : USrc)
  | gmulhiI64 (p : Pred) (d : UDst) (a b : USrc)
  | gand (p : Pred) (d : UDst) (a b : USrc)
  | gor (p : Pred) (d : UDst) (a b : USrc)
  | gxor (p : Pred) (d : UDst) (a b : USrc)
  | gandn (p : Pred) (d : UDst) (a b : USrc)
  | gnot (p : Pred) (d : UDst) (a : USrc)
  | gpopc (p : Pred) (d : UDst) (a : USrc)
  | gclz (p : Pred) (d : UDst) (a : USrc)
  | gshl (p : Pred) (d : UDst) (a b : USrc)
  | gshr (p : Pred) (d : UDst) (a b : USrc)
  | gsar (p : Pred) (d : UDst) (a b : USrc)
  | grotl (p : Pred) (d : UDst) (a b : USrc)
  | gminI64 (p : Pred) (d : UDst) (a b : USrc)
  | gmaxI64 (p : Pred) (d : UDst) (a b : USrc)
  | gminN64 (p : Pred) (d : UDst) (a b : USrc)
  | gmaxN64 (p : Pred) (d : UDst) (a b : USrc)
  | gmov (p : Pred) (d : UDst) (a : USrc)
  | gmovN32 (p : Pred) (d : UDst) (a : USrc)
  | gmovI32 (p : Pred) (d : UDst) (a : USrc)
  | gcmp (p : Pred) (cc : ICC) (lo : Bool) (qd : Fin 8) (a b : USrc)
  | gsel (p : Pred) (f : Fin 8) (d : UDst) (a b : USrc)
  | qand (p : Pred) (qd qa : Fin 8) (na : Bool) (qb : Fin 8) (nb : Bool)
  | qor (p : Pred) (qd qa : Fin 8) (na : Bool) (qb : Fin 8) (nb : Bool)
  | qxor (p : Pred) (qd qa : Fin 8) (na : Bool) (qb : Fin 8) (nb : Bool)
  -- uniform set, special registers, moves, checkpoints (R393 to R397, R403)
  | sregUniform (p : Pred) (d : UDst) (sr : SReg)
  | sregw (p : Pred) (sr : SReg) (a : USrc)
  | vtog (p : Pred) (m : VtogM) (d : UDst) (v : Fin 112) (x : USrc)
  | gtov (p : Pred) (pair : Bool) (v : Fin 112) (g : USrc)
  | vote (p : Pred) (m : VoteM) (d : UDst) (pl : Fin 8)
  | pmark (p : Pred)
  -- uniform memory and scratchpad objects (R390, R466, R467, R470, R471)
  | ldUniform (p : Pred) (sz : SZ) (d : UDst) (b : USrc) (off : UOff)
  | stUniform (p : Pred) (sz : USZ) (s : UDst) (b : USrc) (off : UOff)
  | qsend (p : Pred) (space : Bool) (qd : Fin 8) (a b : USrc)
  | flinit (p : Pred) (a : USrc) (nslot1 : Fin 16) (slotb1 : BitVec 10)
  | flacq (p : Pred) (d : UDst) (a : USrc)
  | flrel (p : Pred) (a : USrc)
  | boarm (p : Pred) (a b : USrc)
  | bowait (p : Pred) (a : USrc)
  -- matrix engine and reservoirs (R473 to R481)
  | mres (p : Pred) (qd : Fin 8)
  | mrel (p : Pred)
  | mmaq (p : Pred) (a : USrc)
  | mdelta (p : Pred) (a : USrc)
  | mdrain (p : Pred) (a : USrc)
  | mzero (p : Pred) (tile : Fin 16) (st : TileState)
  | mstat (p : Pred) (d : UDst)
  | rsvinv (p : Pred) (a : USrc)
  | rsvinvClear (p : Pred) (a : USrc)
  | rsvq (p : Pred) (a b : USrc)
  -- copies, tasks, furrows (R482 to R491)
  | copyt (p : Pred) (d a b : USrc)
  | kick (p : Pred) (d a : USrc)
  | tdload (p : Pred) (d : UDst) (a : USrc)
  | tasksub (p : Pred) (space : Bool) (qd : Fin 8) (a : USrc)
  | taskdone (p : Pred)
  | fapp (p : Pred) (g : USrc) (v : Fin 112)
  | ftake (p : Pred) (g : USrc) (v : Fin 112) (pd : Fin 8)
  | dryw (p : Pred) (a : USrc)
  -- tournaments and rows (R492 to R495)
  | topen (p : Pred) (qd : Fin 8) (a : USrc)
  | trival (p : Pred) (qd : Fin 8) (a : USrc)
  | tscore (p : Pred) (qd : Fin 8)
  | tstat (p : Pred) (qd : Fin 8) (b : USrc)
  | tclose (p : Pred) (qd : Fin 8)
  | tcloseAbort (p : Pred) (qd : Fin 8)
  | spgrow (p : Pred) (qd : Fin 8)
  | rgive (p : Pred) (qd : Fin 8)
  | rclaim (p : Pred) (qd : Fin 8)
  -- events that carry what the outside, or the fetch, hands over
  | portLinkUp (port : Fin 32)
  | portLinkDown (port : Fin 32)
  | connectionFailure (conn : Nat)
  | connectionAuth (conn : Nat) (port : Fin 32) (key : List Byte)
  | uudPacket (port : Fin 32)
  | flowControlFrame (port : Fin 32)
  | oversizePacket (port : Fin 32)
  | rmaWrite (conn : Nat) (addr : DWord) (data : List Byte)
  | rmaRead (conn : Nat) (addr : DWord) (len : Nat)
  | peerDown (ctx peer : Nat)
  | meshLinkRetry (link : Fin 6)
  | meshLinkFatal (link : Fin 6)
  | syncMessage (offset : Int)
  | powerStep (watts : Nat)
  | tempThrottle (die : Fin 4)
  | monitorFatal (die : Fin 4)
  | wakeMessage (conn qid : Nat) (widx : Word)
  | lightFault (ctx : Nat) (va : DWord) (write : Bool)
  | strikeReport (die : Fin 4) (cluster : Option Nat)
  | debugRegWrite (gang : Nat) (reg : BitVec 8) (lanes : Mask) (value : DWord)
  | debugBreakpoint (gang : Nat) (addr : DWord)
  | unassignedEncoding (rsv : Bool)
  | rmaAtomic (conn : Nat) (addr : DWord) (op : AOp) (sz : SZ) (data cmp : DWord)
  -- bring-up, ports and module (R34 to R53, R75)
  | moduleReset
  | syncTimeout
  -- Casux commands (R57 to R76)
  | entryRead   -- qid : Nat
  | entryReread   -- qid : Nat
  | mirrorWrite   -- qid : Nat
  | commandBounce   -- qid : Nat
  | commandRestart   -- qid : Nat
  | launch   -- qid i : Nat
  | launchComplete   -- lid : Nat
  | task   -- qid i : Nat
  | copy   -- qid i : Nat
  | signalStore   -- qid i : Nat
  | signalAdd   -- qid i : Nat
  | wait   -- qid i : Nat
  | waitTimeout   -- qid i : Nat
  | mapInstall   -- qid i : Nat
  | mapRemove   -- qid i : Nat
  | mapGiveToHost   -- qid i : Nat
  | mapTakeFromHost   -- qid i : Nat
  | mgmtUnassigned   -- qid i : Nat
  | status   -- qid i : Nat
  | monitors   -- qid i : Nat
  | qcreate   -- qid i : Nat
  | qdestroy   -- qid i : Nat
  | ctxbind   -- qid i : Nat
  | ctxreset   -- qid i : Nat
  | flashwrite   -- qid i : Nat
  | flashverify   -- qid i : Nat
  | attest   -- qid i : Nat
  | modreset   -- qid i : Nat
  -- translation and requests (R72, R87 to R104, R188, R202 to R233)
  | migrationPullDone   -- pull : Nat
  | migrationPullFail   -- pull : Nat
  | walkComplete   -- walk : Nat
  | sluiceBounce   -- r b : Nat
  | cisternWake   -- r : Nat
  | reissue   -- cluster : Nat
  | requestAccept   -- r b : Nat
  | loadComplete   -- r b : Nat
  | storeAck   -- r b : Nat
  | scratchpadPerform   -- r : Nat
  | leaseExpiry   -- cluster blk : Nat
  | fenceResume   -- gang : Nat
  | sfuResult   -- cluster : Nat
  | fetchWake   -- ctx : Nat, page : Nat
  -- scheduling (R113 to R141, R173, R174)
  | teamPlace   -- die : Fin 4
  | stealRequest   -- lid : Nat, thief victim : Fin 4
  | stealAnswer   -- lid : Nat, thief victim : Fin 4, chunk : Option Nat
  | priorityAging
  | preempt   -- die : Fin 4
  | stopTimeout   -- gang : Nat
  | estivate   -- team : Nat
  | teamResume   -- team : Nat
  | taskDispatch   -- die : Fin 4
  | taskComplete   -- task : Nat
  | compaction   -- cluster : Nat
  | regroupWindowEnd   -- cluster : Nat
  | droughtSweep
  -- tournaments (R151 to R157)
  | allowanceReached   -- scope rival : Nat
  | roundEnd   -- scope : Nat
  -- reliability and replay (R253, R257, R273, R287)
  | groupRelease   -- team : Nat
  | retentionEntry   -- arr : Nat
  | retentionExitDone   -- arr : Nat
  | replayStall   -- ctx : Nat, die : Fin 4
  -- engines and debugger (R194, R195, R246, R329)
  | matrixOpComplete   -- cluster : Nat
  | copyComplete   -- cluster : Nat
  -- FWCALL services (R93, R204, R274, R277, R281)
  | mapins   -- gang : Nat
  | maprem   -- gang : Nat
  | mapget   -- gang : Nat
  | grant   -- gang : Nat
  | peerbind   -- gang : Nat
  | partset   -- gang : Nat
  | ctxpart   -- gang : Nat
  | sluiceset   -- gang : Nat
  | sluiceget   -- gang : Nat
  | censusStart   -- gang : Nat
  | censusStop   -- gang : Nat
  | sampleOn   -- gang : Nat
  | sampleOff   -- gang : Nat
  | recsessRecord   -- gang : Nat
  | recsessReplay   -- gang : Nat
  | recsessEnd   -- gang : Nat
  -- the last rows of the table
  | compactionDone   -- cluster : Nat
  | saveComplete   -- team : Nat
  | retentionEntryDone   -- arr : Nat
  deriving DecidableEq, Repr

end Sys2Proof
end

