-- ==== Sys2Proof/Machine/State.lean ====
section
/-! DEFINITION. The state of the 9400 as plain data, why a step can stop, and the state after reset. -/

namespace Sys2Proof.Machine

/-- A table by number, kept in ascending order of its keys with no key twice. -/
abbrev Map (α : Type) := List (Nat × α)

/-- One lane value for each of the 32 slots. -/
abbrev Row := List Word

/-! ## A gang -/

/-- Shape tags (R176). -/
inductive Tag where
  | uniform | affine | general
  deriving DecidableEq, Repr

/-- A V register: its shape tag and its 32 lane values. -/
structure VReg where
  tag : Tag
  row : Row
  deriving DecidableEq, Repr

/-- What a landing result writes. A `sr` write goes to TRAPVEC (`true`) or STOREHASH. -/
inductive Write where
  | v (n : Nat) (lanes : Mask) (row : Row)
  | t (n : Nat) (lanes : Mask) (row : Row)
  | p (n : Nat) (lanes : Mask) (bits : Mask)
  | g (n : Nat) (val : DWord)
  | q (n : Nat) (val : Bool)
  | sr (vec : Bool) (val : DWord)
  deriving DecidableEq, Repr

/-- A result on its way (R172, R182, R183, R377): the clk it lands; while its run (`run`, 0 for none) is open, the
position from which that run reads it; the run that issued it; whether its latency is fixed; the lanes of the path that
issued it, the address of the instruction, and the shape tag that the result brings (R176). -/
structure Pend where
  land : Nat
  pos : Nat
  run : Nat
  own : Nat
  fixed : Bool
  lanes : Mask
  addr : DWord
  tag : Tag
  w : Write
  deriving DecidableEq, Repr

/-- The run a path stands in (R180 to R185): its number, header, length, working set, the next position, the clk at
which staging has ended, the lanes that its last instruction has branched or ended (R418), whether it closes an interval, and its
ordering operations so far (R263). -/
structure Run where
  uid : Nat
  hdr : DWord
  n : Nat
  va : Nat
  k : Nat
  pos : Nat
  staged : Nat
  branch : List (Mask × DWord)
  exits : Mask
  regroup : Option (BitVec 8 × BitVec 7)
  closes : Bool
  sub : Nat
  deriving DecidableEq, Repr

/-- What a path waits for at the instruction where it stands (R134, R384, R385, R458, R401, R467, R470, R474, R480, R487, R491); `since` is the
clk at which its access arrives at the scratchpad; `work` names the uncounted request that waits in the queue of a unit, or in the cistern
for it. -/
inductive Wait where
  | none
  | ctr (a b c d : Nat)
  | bar
  | fence (kind : FKind) (scope : Scope) (upto : Nat)
  | fwcall (svc : Nat) (args : List DWord)
  | flacq (addr : DWord) (dest : UDst) (since : Nat)
  | bo (addr : DWord) (since : Nat)
  | dry (group : Nat)
  | task (addr : DWord)
  | regroup (addr : DWord)
  | fetch
  | rsv (key : Nat)
  | unit (ptr : DWord) (write : Bool)
  | work (id : Nat)
  | sub (req : Nat) (qd : Nat) (space : Bool)
  deriving DecidableEq, Repr

/-- A path: live lanes at one instruction address (R166), the turns of its gang since it last issued, the clk before
which it does not issue, what it waits for and the words of the instruction that waits. -/
structure Path where
  pc : DWord
  lanes : Mask
  run : Option Run
  starve : Nat
  hold : Nat
  wait : Wait
  wlen : Nat
  deriving DecidableEq, Repr

/-- A counted operation (R187, R188): the number of its request, its counter (0 LDC, 1 STC, 2 CPC, 3 TLC), complete. -/
structure Op where
  id : Nat
  cls : Nat
  done : Bool
  deriving DecidableEq, Repr

/-- A write of a gang that fences look at (R235): issue number, acknowledged, its GWCT, homed on another device,
an engine's. -/
structure GWrite where
  req : Nat
  seq : Nat
  acked : Bool
  gwct : Nat
  far : Bool
  deriving DecidableEq, Repr

/-- The lane of a slot (R110): its TLID and its work identifier. -/
structure Lane where
  tlid : Nat
  wid : DWord
  deriving DecidableEq, Repr

/-- A precise trap that waits for the gang's other path and its SFU operations (R190). -/
structure TrapPend where
  cause : Nat
  lanes : Mask
  inRun : Bool
  resume : DWord
  pc : DWord
  deriving DecidableEq, Repr

/-- How a gang stands to a stop (R139): running, stop requested at a clk (`asking`: it has not been looked at whether the gang
waits), stopped at a weir with these registers live,
stopped in full, all lanes exited (R382), ended for its team. -/
inductive GStop where
  | run
  | asking (clk : Nat)
  | asked (clk : Nat)
  | weir (p q : BitVec 8) (g : DWord) (v : BitVec 112)
  | full
  | ending
  | ended
  deriving DecidableEq, Repr

/-- A gang, or a control-core task (`core`). `errs`: the records of arithmetic errors that it has written: the number of the run (or of the
request or operation outside runs), the cause, the record's place in its context's error log (R193); `again`: the lanes of paths whose instruction issues again, counted already (R151);
`waitFrom`: the clk at which the gang began to wait (R134). -/
structure Gang where
  team : Nat
  gangid : Nat
  role : Nat
  cluster : Nat
  slot : Nat
  core : Option Nat
  base : Nat
  rows : Nat
  lanes : List (Option Lane)
  v : List VReg
  t : List Row
  p : List Mask
  g : List DWord
  q : List Bool
  paths : List Path
  pend : List Pend
  ops : List Op
  writes : List GWrite
  acq : List Nat
  seq : Nat
  trapvec : DWord
  trapcause : DWord
  storehash : DWord
  shadow : DWord × DWord
  inHandler : Bool
  saved : List (Mask × DWord)
  trapLanes : Mask
  trapPend : Option TrapPend
  rets : List DWord
  busyUntil : Nat
  pub : List Nat
  sfu : Nat
  uncounted : Option Nat
  errs : List (Nat × Nat × Nat)
  reqs : Nat
  stop : GStop
  taken : List (Nat × Nat)
  exitPc : DWord
  again : Mask
  waitFrom : Option Nat
  deriving DecidableEq, Repr

/-! ## The clk and the agenda -/

/-- The numbers of what an event concerns (see `Instr`). -/
structure Subj where
  a : Nat
  b : Nat
  c : Nat
  d : Nat
  deriving DecidableEq, Repr

/-- An event in flight: the clk at which it falls due, its row, what it concerns. -/
structure Item where
  due : Nat
  ev : Instr
  subj : Subj
  deriving DecidableEq, Repr

/-- A path's place in the issue groups of the present clk (R165 to R168). -/
structure Turn where
  gang : Nat
  lanes : Mask
  deriving DecidableEq, Repr

/-- The instruction that issues now: its gang, the lanes of its path, its address, how many words it has, its first word. -/
structure Cur where
  gang : Nat
  lanes : Mask
  pc : DWord
  len : Nat
  word : Word
  deriving DecidableEq, Repr

/-- The timebase and the bookkeeping of the step (log 2, log 3): the clk, the events in flight, the issue turns left in this
clk, the instruction that issues, what the event that is performed concerns, how far this clk is (0: waits to look at, 1: turns to give out, 2: turns to take), the
next unused number, free values drawn, each issue slot's last gang and the clk until which it is busy (by 4 cluster + slot). -/
structure Clk where
  now : Nat
  agenda : List Item
  turns : List Turn
  cur : Option Cur
  subj : Subj
  phase : Nat
  fresh : Nat
  freeCnt : Nat
  rr : Map Nat
  slotBusy : Map Nat
  deriving DecidableEq, Repr

/-! ## Requests (R105, R187, R202 to R212) -/

/-- What a request does: `tbl` reads the table of a multicast, which then follows; `unitRead` reads a record for a unit. -/
inductive RKind where
  | tbl | unitRead
  | ld | st | atom | dset | dget | pref | stmc | stred | uld | ust
  | lds | sts | atoms | flinit | flrel | boarm
  deriving DecidableEq, Repr

/-- Where a result goes: a V register or a pair, a T register, a G register (62: discarded), nowhere. -/
inductive Dest where
  | none
  | v (n : Nat) (pair : Bool)
  | t (n : Nat) (pair : Bool)
  | g (n : Nat)
  deriving DecidableEq, Repr

/-- One lane's access inside one block: the lane, the pointer, how many bytes, at which byte of the lane's value they
stand, and the destination of a multicast. -/
structure Acc where
  lane : Nat
  addr : DWord
  len : Nat
  off : Nat
  dest : Nat
  deriving DecidableEq, Repr

/-- How far a part has come: not sent, waiting for a walk, on its way to its home, accepted, in the cistern with the cause
and key of R208 and R209 and the class it was bounced from, woken at a clk, held by a protected team in a group, in
the part of it that its ordering operations make (R253, R263), done. -/
inductive PState where
  | idle
  | walking
  | flying
  | accepted
  | cistern (cause : Nat) (key : Nat) (qclass : Nat)
  | woken (clk : Nat)
  | held (group : Nat) (sub : Nat)
  | done
  deriving DecidableEq, Repr

/-- The home of an access (R198): a die slice, a scratchpad window, a request sorter of a stack, a peer, or a physical address
that does not exist, with the die that answers (R32). -/
inductive Home where
  | slice (die : Nat)
  | window (cluster : Nat)
  | sorter (stack : Nat)
  | peer (conn : Nat) (host : Bool)
  | out (die : Nat)
  deriving DecidableEq, Repr

/-- An L1 line (R196, R232): cluster, place of its block, tenant tag, data, descriptor, allocation tag, expiry, version,
last use. -/
structure L1Line where
  cluster : Nat
  loc : Nat
  tenant : Nat
  data : List Byte
  desc : BitVec 16
  tag : BitVec 4
  expiry : Nat
  ver : Nat
  last : Nat
  deriving DecidableEq, Repr

/-- The part of a request that touches one block of virtual address: its accesses, whether they are speculative accesses of
a rival (R147), its state, its leaf, home and the place of the block once it is translated, its latency and GWCT, the bytes
answered to each access (none where it failed), the line a fill will put into the L1, the clk at which it was sent, the class of its
latest bounce out of a shared queue (0xFF: none), the units it has passed, and the shared queue in which it waits: the class and
the clk at which its wait reaches the interval that the queue had when it entered (R202, R204). -/
structure Part where
  blk : DWord
  accs : List Acc
  spec : Bool
  st : PState
  leaf : DWord
  home : Option Home
  loc : Nat
  lat : Nat
  gwct : Nat
  data : List (List Byte)
  line : Option L1Line
  since : Nat
  qc : Nat
  hops : List (Nat × Nat)
  till : Option (Nat × Nat)
  deriving DecidableEq, Repr

/-- A memory request of a gang or control-core task, by its number: the fields of a cistern entry (R208; `seq` is SEQ) and what the
request carries. `bad`: lanes that failed at issue (R449); `home`: never served by an L1 (R236);
`fill`: fills the L1; `cls`: its counter, 4 for none; `plan`: the lanes of its path; `cancel`: lanes whose write-back a debugger has
cancelled in the first and in the second register (R195); `sel`, `denied`: destinations of a multicast (R462); `sample`: the lane sampled (R277); `grp`: the group that
holds its writes (R253). -/
structure Req where
  gang : Nat
  ctx : Nat
  kind : RKind
  pc : DWord
  runpc : DWord
  run : Nat
  base : DWord
  word : Word
  lanes : Mask
  bad : Mask
  dest : Dest
  sz : Nat
  signed : Bool
  op : AOp
  idx : List Word
  data : List DWord
  cmp : List DWord
  fill : Bool
  home : Bool
  acq : Bool
  cls : Nat
  btime : Nat
  seq : Nat
  issued : Nat
  plan : Mask
  cancel : Mask × Mask
  sel : Nat
  denied : Nat
  sample : Option Nat
  grp : Option (Nat × Nat)
  parts : List Part
  deriving DecidableEq, Repr

/-! ## The memory system -/

/-- Where a translation buffer stands (R85). -/
inductive Place where
  | cluster (n : Nat)
  | die (n : Nat)
  | walkAhead (n : Nat)
  deriving DecidableEq, Repr

/-- An entry of a translation buffer (R85): context, page number (VA / 65,536), size code, generation, leaf, last use. -/
structure TlbEnt where
  place : Place
  ctx : Nat
  page : Nat
  size : Nat
  gen : Nat
  leaf : DWord
  last : Nat
  deriving DecidableEq, Repr

/-- An entry of a walk cache (R86): die, context, level, VA bits above that level's index, table entry, last use. -/
structure WcEnt where
  die : Nat
  ctx : Nat
  level : Nat
  idx : Nat
  ent : DWord
  last : Nat
  deriving DecidableEq, Repr

/-- Who waits for a walk: a part of a request, a fetch, a copy or tile operation by its number (R85, R220). -/
inductive Waiter where
  | part (r b : Nat)
  | fetch (cluster : Nat)
  | op (id : Nat)
  deriving DecidableEq, Repr

/-- An outstanding walk (R87): its die, context, page, started (else it waits for one of the die's 64 places), generation at
its first step, waiters. -/
structure Walk where
  die : Nat
  ctx : Nat
  page : Nat
  started : Bool
  gen : Nat
  waiters : List Waiter
  deriving DecidableEq, Repr

/-- A fetch that waits for a page (R88), with what its error record names (R91): the gang and the lanes of the path that asked first, the
full pointer of the word, the run header. -/
structure FetchWait where
  ctx : Nat
  page : Nat
  cluster : Nat
  cause : Nat
  gang : Nat
  lanes : Mask
  addr : DWord
  runpc : DWord
  deriving DecidableEq, Repr

/-- A lease that a home has granted (R99, R232, R239): block, `far` where the holder is another device than the home's (the connection
of a peer, or one of this 9400's clusters where the block is homed on a peer), holder, the context whose copy it is, expiry. -/
structure Lease where
  loc : Nat
  far : Bool
  holder : Nat
  tenant : Nat
  expiry : Nat
  deriving DecidableEq, Repr

/-- A die-slice line (R99, R196, R497): block, tenant tag, pinned (HOME 01), last use, the clk at which its fill has arrived. -/
structure SliceLine where
  loc : Nat
  tenant : Nat
  pinned : Bool
  last : Nat
  filled : Nat
  deriving DecidableEq, Repr

/-- Retention of an SRAM array (R273): entering since a clk, in retention, leaving until a clk. -/
inductive RetState where
  | active
  | entering (since : Nat)
  | retained
  | leaving (till : Nat)
  deriving DecidableEq, Repr

/-- An SRAM array that has been used: its state and the clk of its last use. -/
structure RetArr where
  st : RetState
  last : Nat
  deriving DecidableEq, Repr

/-- A stored error of a block (R270, R271): the position and what is XORed there. -/
structure Flip where
  loc : Nat
  pos : Nat
  val : Byte
  deriving DecidableEq, Repr

/-- The memory system. `pins` counts the 64 KiB of HOME 01 pages of each die (R198). `bytes` holds every byte by its place: HBM by physical address (below 2^40), the management window
from 2^40, memory behind connection c from 2^64 (c + 1). A block's place (`loc`) is the place of its first byte / 64. -/
structure Mem where
  bytes : List Host.Cell
  desc : Map (BitVec 16)
  tags : Map (BitVec 4)
  flips : List Flip
  leases : List Lease
  slices : List SliceLine
  l1 : List L1Line
  noFill : List (Nat × Nat × Nat)
  vers : Map Nat
  tlb : List TlbEnt
  wcache : List WcEnt
  gens : Map Nat
  walks : Map Walk
  fetches : List FetchWait
  owner : Map (BitVec 16)
  roots : Map Nat
  reissued : Map Nat
  busy : Map Nat
  sluice : Map Nat
  ret : Map RetArr
  pins : Map Nat
  reqs : Map Req
  deriving DecidableEq, Repr

/-! ## Teams, launches, tasks -/

/-- Where a team comes from (R128). -/
inductive Source where
  | launch (lid : Nat)
  | task (tid : Nat)
  deriving DecidableEq, Repr

/-- The state of a team: on its cluster, stopping (R139), stopped, estivated (R135), a candidate to resume, ended. -/
inductive TState where
  | placed | stopping | stopped | estivated | candidate | ended
  deriving DecidableEq, Repr

/-- A tile slot (R327): its state and its elements that are not zero, by 128 i + j. The even slot of a pair holds the
elements of the pair. -/
structure Tile where
  st : TileState
  data : Map DWord
  deriving DecidableEq, Repr

/-- What a copy or tile operation shows in its gang's cistern (R208, R221, R484): the address of its instruction, its run header, its
word, the number of its run (0: none), SEQ, the clk of its first bounce (0: none yet), the class of its latest bounce out of a shared queue, the clk at
which it has been woken and waits for the reissue port (R211), and the shared queue in which a request of it waits: the class and the clk
at which that wait reaches the interval that the queue had when it entered (R202, R204). -/
structure OpEnt where
  ipc : DWord
  runpc : DWord
  word : Word
  run : Nat
  seq : Nat
  btime : Nat
  qc : Nat
  woken : Option Nat
  till : Option (Nat × Nat)
  deriving DecidableEq, Repr

/-- A tile operation (R319, R477): its gang, its counted operation, the address of its run header or its own, which (1 MMAQ,
2 MDELTA, 3 MDRAIN, 4 MZERO), its parameter block (offset and the 56 bytes, empty until they are read; for MZERO tile and state),
how far it is (0 its block is not read, 1 queued, 2 running, 3 ended), K-steps or rows done, the error found, VERSION read at
issue, its STATUS, the clk it started, its bounce (cause, key, class; cause 0x0300: it waits for the walk of a page, 0x02FF: in a shared
queue), its cistern entry, the clk at which it issued. -/
structure TileOp where
  gang : Nat
  id : Nat
  pc : DWord
  kind : Nat
  off : Nat
  blk : List Byte
  stage : Nat
  kdone : Nat
  err : Nat
  version : Nat
  status : DWord
  start : Option Nat
  bounce : Option (Nat × Nat × Nat)
  ent : OpEnt
  issued : Nat
  deriving DecidableEq, Repr

/-- A snapshot of a protected team (R258): the group it opens, the first number given out after it, gangs, scratchpad,
descriptors, tiles (none where the team did not hold the engine), whether the team was releasing the engine, rollbacks to it. -/
structure Snap where
  group : Nat
  point : Nat
  gangs : Map Gang
  sp : List Host.Cell
  spDesc : Map (BitVec 16)
  tiles : List Tile
  rel : Bool
  rolls : Nat
  deriving DecidableEq, Repr

/-- A held engine write (R253, R337): group, its number among engine writes, the operation and its gang, the ACCESS of its records, whether it has been
released and is on its way to its home, block pointer, bytes with their mask, descriptor, bytes that its barrier object counts. -/
structure HeldWrite where
  group : Nat
  num : Nat
  id : Nat
  gang : Nat
  acc : Nat
  sent : Bool
  bo : Option DWord
  ptr : DWord
  data : List (Option Byte)
  desc : Option (BitVec 16)
  deriving DecidableEq, Repr

/-- A protected team (R253, R258 to R268): the open group, closed groups with the clk of their release, snapshots (the
oldest first), held engine writes, held reservoir records (group, key, bytes), a close made for the barrier that the gangs stand at, the snapshot area and
the tile snapshot area (first granule and how many, R496); the register rows (gang and number) and scratchpad blocks that the latest snapshot has not
yet copied (R260) and those that a rollback has not yet restored (R266), and the clk before which the engine accepts no operation, since
a rollback restores its tiles until then (R338). -/
structure Prot where
  cur : Nat
  closed : List (Nat × Nat)
  snaps : List Snap
  held : List HeldWrite
  recs : List (Nat × Nat × List Byte)
  barred : Bool
  area : Nat × Nat
  tarea : Nat × Nat
  copyRows : List (Nat × Nat)
  copyBlks : List Nat
  restRows : List (Nat × Nat)
  restBlks : List Nat
  tileAt : Nat
  deriving DecidableEq, Repr

/-- A team, or a control-core task with its one gang: where its scratchpad lies in its cluster's, the clk at which the save of a
team that has left its cluster ends (0: none runs), the clk it was placed or became a candidate and by how much its priority
has risen since (R129), its save area, the interval of the dispatch class when it became a candidate (R130, R204), its rival, its scratchpad quota, and a growth granted with the clk at which SP becomes it (R159, R493). -/
structure Team where
  ctx : Nat
  src : Source
  teamid : Nat
  cluster : Nat
  gangs : List Nat
  spBase : Nat
  spSize : Nat
  sp : List Host.Cell
  spDesc : Map (BitVec 16)
  st : TState
  saveTill : Nat
  kill : Bool
  waitFrom : Option Nat
  estiv : Nat
  prio : Nat
  since : Nat
  age : Nat
  area : Nat × Nat
  bound : Nat
  rival : Option (Nat × Nat)
  quota : Nat
  grow : Option (Nat × Nat)
  lerr : Nat
  tiles : List Tile
  tops : List TileOp
  prot : Option Prot
  deriving DecidableEq, Repr

/-- A launch (R62, R108 to R115): its context, queue and entry, header, kernel with the load address of its code section and that of its
first instruction, arguments, the chunks of each share that are
not begun, the chunk each die has begun with its next team, teams placed and ended, the dies that have answered empty; the interval of the
dispatch class at its start, and for each die that has placed a team of it the clk of the last and the interval then (R130, R204). -/
structure Launch where
  ctx : Nat
  qid : Nat
  entry : Nat
  nfield : Nat
  cut : Nat
  roles : Nat
  prot : Bool
  chunk : Nat
  widths : List Nat
  extents : List Nat
  estiv : Nat
  lanes : Nat
  teams : Nat
  rows : Nat
  spad : Nat
  code : DWord
  start : DWord
  weirs : DWord
  weirCnt : Nat
  params : List (Nat × DWord)
  prio : Nat
  since : Nat
  age : Nat
  shares : Map (List Nat)
  begun : Map (Nat × Nat)
  placed : Nat
  ended : Nat
  dry : List Nat
  sess : Option (Nat × Nat)
  bound : Nat
  room : Map (Nat × Nat)
  deriving DecidableEq, Repr

/-- Where a task is (R123 to R127). -/
inductive KState where
  | waiting | ready | running (team : Nat) | ending (bounced : Bool)
  deriving DecidableEq, Repr

/-- A task (R120): the fields of its record, its table's die, its predecessors, its submitter, the interval of the dispatch class when it
became ready (R130, R204), and its save area while its last decrement is to do (R126). -/
structure Task where
  ctx : Nat
  die : Nat
  st : KState
  entry : DWord
  arg : DWord
  coord : DWord
  succ : DWord
  rbase : DWord
  rlen : Nat
  wbase : DWord
  wlen : Nat
  core : Bool
  rows : Nat
  gangs : Nat
  spad : Nat
  prio : Nat
  since : Nat
  age : Nat
  rival : Option (Nat × Nat)
  deps : List Nat
  parent : Option Nat
  source : Nat
  bound : Nat
  area : Nat × Nat
  deriving DecidableEq, Repr

/-- A submission that waits for room in a table (R487), an append (R489), a wake of a command queue (R472), or an instruction whose
request waits for the queue of a unit (R474). -/
inductive Uncounted where
  | tasksub (rec : List Byte) (die : Nat)
  | fapp (addr : DWord) (items : List DWord)
  | qsend (qid : Nat) (widx : Word)
  | issue (queue : Nat)
  deriving DecidableEq, Repr

/-- An uncounted request in its gang's cistern: what it does, why it waits and its WKEY (R208, R209), its entry. -/
structure Unc where
  gang : Nat
  what : Uncounted
  cause : Nat
  key : DWord
  ent : OpEnt
  deriving DecidableEq, Repr

/-- A furrow that its compaction unit holds (R131). -/
structure Furrow where
  ctx : Nat
  die : Nat
  addr : DWord
  base : DWord
  log2n : Nat
  group : Nat
  appended : Nat
  taken : Nat
  drained : Nat
  deriving DecidableEq, Repr

/-- What the drought detector keeps for a context and group (R133): last sweep's totals, when they were equal; reported. -/
structure Drought where
  app : Nat
  drn : Nat
  last : Option Nat
  report : Bool
  deriving DecidableEq, Repr

/-! ## Tournament scopes (R142 to R161) -/

/-- States of a rival (R153), in the order of their codes. -/
inductive RivState where
  | running | barrier | finished | faulted | overflowed | killed | winner
  deriving DecidableEq, Repr

/-- A block of a rival's write set (R147): its bytes under the byte mask, and the descriptor and the tag that the rival gave it. -/
structure WBlk where
  bytes : List (Option Byte)
  desc : Option (BitVec 16)
  tag : Option Nat
  deriving DecidableEq, Repr

/-- A rival: its count, posted score, write set by block of virtual address, private range. -/
structure Rival where
  st : RivState
  count : Nat
  score : Option DWord
  ws : Map WBlk
  pbase : DWord
  plen : Nat
  deriving DecidableEq, Repr

/-- States of a scope (R494), in the order of their codes 1 to 4. -/
inductive ScState where
  | opened | racing | decided | closed
  deriving DecidableEq, Repr

/-- A scope: opener team, A_0, score register, MODE, state, round, winner, NOWIN, rivals, and the commit that a
TCLOSE has begun: its gang, its counted operation, the clk of its last acknowledgement, its blocks have all been tried once. -/
structure Scp where
  opener : Nat
  a0 : Nat
  screg : Nat
  mode : Nat
  st : ScState
  round : Nat
  winner : Option Nat
  nowin : Bool
  rivals : List Rival
  commit : Option (Nat × Nat × Nat × Bool)
  deriving DecidableEq, Repr

/-! ## Engines -/

/-- A matrix engine (R316): holder, RELEASING, 16 tile slots, operations in order, K-steps of the running or last one. -/
structure Engine where
  holder : Option Nat
  releasing : Bool
  tiles : List Tile
  ops : List TileOp
  kdone : Nat
  deriving DecidableEq, Repr

/-- A copy (R483, R485): its gang, its counted operation, KICK, the three source registers, its progress in bytes, the
clk it started, its bounce (cause, key, class; causes 0x0300 and 0x02FF as in `TileOp`), the clk at which it entered the queue
of its engine and the interval that the queue had then (R202), the source blocks that its present pass has read (R218), its entry. -/
structure CopyOp where
  gang : Nat
  id : Nat
  kick : Bool
  d : DWord
  a : DWord
  b : DWord
  pc : DWord
  prog : Nat
  start : Option Nat
  bounce : Option (Nat × Nat × Nat)
  queued : Nat × Nat
  cache : Map (List Byte × Option (BitVec 16))
  ent : OpEnt
  deriving DecidableEq, Repr

/-- Acknowledgements on their way to a copy or tile operation (R245 to R248): the operation and its gang, the clk of their arrival, the
bytes they stand for, the barrier object whose COUNT they lower, the connection of a peer that sends them. -/
structure EAck where
  id : Nat
  gang : Nat
  due : Nat
  n : Nat
  bo : Option DWord
  conn : Option Nat
  ptr : DWord
  acc : Nat
  deriving DecidableEq, Repr

/-- An SFU operation (R184, R441): gang, clk at which it leaves the head of the queue and at which its result lands, function, destination, lanes, sources,
lanes whose write-back a debugger has cancelled (R195), the shape tag of the result (R176). -/
structure SfuOp where
  gang : Nat
  head : Nat
  due : Nat
  fn : SfuFn
  d : LDst
  lanes : Mask
  src : List DWord
  run : Nat
  pc : DWord
  hdr : DWord
  cancel : Mask × Mask
  tag : Tag
  deriving DecidableEq, Repr

/-- A regroup window (R173): cluster, team, LBR.rg address, its end, the gangs that have joined. -/
structure Window where
  cluster : Nat
  team : Nat
  addr : DWord
  due : Nat
  gangs : List Nat
  liveG : BitVec 8
  liveQ : BitVec 7
  deriving DecidableEq, Repr

/-- A compaction in progress (R118): it moves rows from a clk on; the gangs stop issuing. -/
structure Compact where
  since : Nat
  moving : Bool
  deriving DecidableEq, Repr

/-- A reservoir watch (R344): the die of its table, context, record, first block and count of a run of blocks. -/
structure Watch where
  die : Nat
  ctx : Nat
  idx : Nat
  loc : Nat
  cnt : Nat
  deriving DecidableEq, Repr

/-! ## Commands, connections, firmware (R42 to R76, R91, R97, R102) -/

/-- An entry that the command processor has copied (R59, R67, R68): its index, bytes, started at a clk, bounced, completed,
the clk at which it became the next to start. -/
structure Entry where
  idx : Nat
  bytes : List Byte
  started : Option Nat
  bounced : Bool
  done : Bool
  since : Nat
  prog : Nat
  deriving DecidableEq, Repr

/-- A command queue (R55 to R60). -/
structure Queue where
  ctx : Nat
  base : DWord
  log2 : Nat
  widx : Word
  ridx : Word
  prio : Nat
  mirror : DWord
  erraddr : DWord
  stopped : Bool
  rereads : Nat
  errs : Nat
  lastMirror : Option Nat
  dying : Bool
  entries : List Entry
  deriving DecidableEq, Repr

/-- The delivery modes of UET that the 9400 supports (R38). -/
inductive Delivery where
  | rud | rod | rudi
  deriving DecidableEq, Repr

/-- A UET connection (R38, R42, R50, R53, R102): its port, context, epoch, alive, delivery mode, and whether the 9400 has authenticated its
own side of the session with the identity key. -/
structure Conn where
  port : Nat
  ctx : Nat
  epoch : Nat
  up : Bool
  mode : Delivery
  cred : Bool
  deriving DecidableEq, Repr

/-- An entry of a context's peer table (R102). -/
structure Peer where
  conn : Nat
  base : DWord
  host : Bool
  epoch : Nat
  up : Bool
  deriving DecidableEq, Repr

/-- An error record (R91). -/
structure ErrRec where
  cause : Nat
  access : Nat
  tenant : Nat
  cluster : Nat
  gangid : Nat
  addr : DWord
  time : Nat
  lanes : Mask
  runpc : Word
  deriving DecidableEq, Repr

/-- A flash slot (R46, R49, R70): it has been erased, the bytes written since, a FIRST piece has been given since the last LAST
piece. What a slot that was never erased holds is a free value. -/
structure Slot where
  erased : Bool
  bytes : Map Byte
  first : Bool
  deriving DecidableEq, Repr

/-- What a die's monitors read (R52), set from outside: degrees Celsius, supply voltage in tenths of a percent from nominal, process. -/
structure Monitor where
  temp : Int
  volt : Int
  proc : Nat
  deriving DecidableEq, Repr

/-- An object that a loader has placed (R24 to R27, R141): context, load addresses of its code, weir table, kernel records,
parameters, and of every section by directory index, and the sizes of code and kernel records. -/
structure Obj where
  ctx : Nat
  code : DWord
  codeSize : Nat
  weirs : DWord
  krecs : DWord
  krecSize : Nat
  params : DWord
  sections : List DWord
  deriving DecidableEq, Repr

/-- A running census (R274, R275): its ranges, the clk it started, the counts of the states that are not Idle, by
128 (17 cluster + bin) + state. -/
structure Census where
  ranges : List (DWord × DWord)
  start : Nat
  counts : Map Nat
  deriving DecidableEq, Repr

/-- Sampling of a context's loads (R277): loads seen on each cluster, records written, records whose page must first be served or pulled
(R72, R89). -/
structure Sample where
  k : Nat
  base : DWord
  log : Nat
  cnt : DWord
  seen : Map Nat
  recs : Nat
  late : List (List Byte)
  deriving DecidableEq, Repr

/-- A record or replay session (R281 to R291): its number, mode, buffer, STOPDIV, the areas its header named at the start,
launches covered, ids given out, checkpoints and die-log words written, ids and checkpoint counts of gangs, the last word of
each die's log as recorded (gang and length), the word each gate stands at and what is left of it, when each gate last admitted,
stopped recording or diverged; the writes that are on their way to their homes: the clk of arrival, the die they come from, address, bytes. -/
structure Sess where
  serial : Nat
  replay : Bool
  buf : DWord
  size : Nat
  stopdiv : Bool
  hoff : Nat
  hmax : Nat
  loff : Nat
  lwords : Nat
  nlaunch : Nat
  ngang : Nat
  hcnt : Nat
  lcnt : List Nat
  ids : Map Nat
  seqs : Map Nat
  last : List (Nat × Nat)
  word : List Nat
  left : List Nat
  moved : List Nat
  full : Bool
  diverged : Bool
  late : List (Nat × Nat × DWord × List Byte)
  deriving DecidableEq, Repr

/-- A breakpoint of the debugger on a lane (R194): cluster, TEAMID, TLID, address; the lane stands there and its gang has been stopped for it. -/
structure Break where
  cluster : Nat
  teamid : Nat
  tlid : Nat
  addr : DWord
  hit : Bool
  deriving DecidableEq, Repr

/-- Package, ports, configuration, commands and contexts. -/
structure Adm where
  step : Nat
  recovery : Bool
  fatal : Option Nat
  trained : Bool
  sealedOk : Bool
  flash : List Slot
  cfgSlot : Nat
  fwSlot : Nat
  cfgSeq : DWord
  enmask : List DWord
  pwrlim : Nat
  ptpport : Nat
  payload8k : Bool
  macbase : DWord
  idpub : List Byte
  reckey : List Byte
  opkey : List Byte
  fwHash : List Byte
  cfgHash : List Byte
  ports : List Bool
  uud : List Nat
  flow : List Nat
  oversize : List Nat
  locked : Bool
  everLocked : Bool
  lastSync : Nat
  mgmtEvents : List (Nat × Nat)
  mhz : List Nat
  avgPower : Nat
  monitors : List Monitor
  retries : List Nat
  strikes : List Nat
  corrected : List Nat
  conns : Map Conn
  outbox : List (Nat × List Byte)
  keys : Map (List Byte)
  parts : Map (Nat × Nat)
  ctxPart : Map Nat
  peers : Map Peer
  epochs : Map Nat
  errlog : Map (List ErrRec)
  queues : Map Queue
  objs : List Obj
  pulls : Map (Nat × Nat)
  census : Map Census
  samples : Map Sample
  sess : Map Sess
  breaks : List Break
  dbgStatus : Option Bool
  deriving DecidableEq, Repr

/-- Work on the clusters and control cores and in the engines. `lone` holds for each partition and level (4 partition + level) the context
whose teams alone have stood there while others waited, and since when (R130). `eended` holds the gang and the counter of each copy or tile operation that
has ended and waits for acknowledgements, `owalk` the page whose walk has just ended for an operation. -/
structure Work where
  gangs : Map Gang
  teams : Map Team
  launches : Map Launch
  tasks : Map Task
  uncs : Map Unc
  watches : List Watch
  furrows : List Furrow
  drought : Map Drought
  scopes : Map Scp
  engines : Map Engine
  copies : Map (List CopyOp)
  eacks : List EAck
  eended : Map (Nat × Nat)
  owalk : Map Nat
  sfu : Map (List SfuOp)
  windows : List Window
  compact : Map Compact
  spwin : Map Nat
  res : Map (List Byte)
  resRoot : Map Nat
  inbox : Map Req
  resBusy : Map Nat
  retained : List (Nat × Nat × Nat × Nat)
  lastSource : Map Nat
  lone : Map (Nat × Nat)
  deriving DecidableEq, Repr

/-- The state of the part. -/
structure State where
  clk : Clk
  mem : Mem
  adm : Adm
  work : Work
  deriving DecidableEq, Repr

/-! ## Why a step can stop -/

/-- No step of the 9400 stops the machine: every trap and error is a next state, so there is no reason to fault. -/
inductive Fault where
  deriving DecidableEq, Repr

/-- Why a step gives no meaning. `notModelled`: an instruction without a meaning, raised by `exec`; safe.
`noIssuer`: `exec` of an instruction where no path of a gang issues; raised by every instruction's meaning, and never by
`step`, which executes an instruction only for the path it stands for; safe. -/
inductive Refusal where
  | notModelled (mnemonic : String)
  | noIssuer
  deriving DecidableEq, Repr

/-! ## Reset (R43, R55, R75, R97, R133, R203; the values the manual does not give: log 2, 4, 7, 8, 9, 11) -/

def Clk.reset : Clk where
  now := 0
  agenda := [⟨1024, .droughtSweep, ⟨0, 0, 0, 0⟩⟩]
  turns := []
  cur := none
  subj := ⟨0, 0, 0, 0⟩
  phase := 0
  fresh := 1
  freeCnt := 0
  rr := []
  slotBusy := []

def Mem.reset : Mem where
  bytes := []
  desc := []
  tags := []
  flips := []
  leases := []
  slices := []
  l1 := []
  noFill := []
  vers := []
  tlb := []
  wcache := []
  gens := []
  walks := []
  fetches := []
  owner := []
  roots := []
  reissued := []
  busy := []
  sluice := []
  ret := []
  pins := []
  reqs := []

def Adm.reset : Adm where
  step := 6
  recovery := false
  fatal := none
  trained := true
  sealedOk := true
  flash := List.replicate 4 ⟨false, [], false⟩
  cfgSlot := 0
  fwSlot := 0
  cfgSeq := 0
  enmask := List.replicate 4 0x3FFFFFFFF
  pwrlim := 3000
  ptpport := 0xFF
  payload8k := false
  macbase := 0
  idpub := List.replicate 32 0
  reckey := List.replicate 32 0
  opkey := List.replicate 32 0
  fwHash := List.replicate 64 0
  cfgHash := List.replicate 64 0
  ports := List.replicate 32 false
  uud := List.replicate 32 0
  flow := List.replicate 32 0
  oversize := List.replicate 32 0
  locked := false
  everLocked := false
  lastSync := 0
  mgmtEvents := []
  mhz := List.replicate 4 1200
  avgPower := 0
  monitors := List.replicate 4 ⟨25, 0, 0⟩
  retries := List.replicate 6 0
  strikes := List.replicate 4 0
  corrected := List.replicate 4 0
  conns := []
  outbox := []
  keys := []
  parts := [(0, 2 ^ 136 - 1, 2 ^ 12 - 1)]
  ctxPart := []
  peers := []
  epochs := []
  errlog := []
  queues := [(0, ⟨0, 0x1000, 6, 0, 0, 0, 0, 0, false, 0, 0, none, false, []⟩)]
  objs := []
  pulls := []
  census := []
  samples := []
  sess := []
  breaks := []
  dbgStatus := none

def Work.reset : Work where
  gangs := []
  teams := []
  launches := []
  tasks := []
  uncs := []
  watches := []
  furrows := []
  drought := []
  scopes := []
  engines := []
  copies := []
  eacks := []
  eended := []
  owalk := []
  sfu := []
  windows := []
  compact := []
  spwin := []
  res := []
  resRoot := []
  inbox := []
  resBusy := []
  retained := []
  lastSource := []
  lone := []

/-- The part right after reset and bring-up (R75): step 6 reached, queue 0 accepts entries, no work. -/
def State.reset : State where
  clk := Clk.reset
  mem := Mem.reset
  adm := Adm.reset
  work := Work.reset

end Sys2Proof.Machine
end

