-- ==== Sys2Proof/Machine/Ops.lean ====
section
/-! DEFINITION. The named operations over the state: tables, memory bytes, the agenda, error records, a gang's landing
results, its paths, taking a trap and returning from one. -/

namespace Sys2Proof.Machine

/-! ## Tables -/

/-- The entry of key `k`. -/
def mget {α : Type} (k : Nat) : Map α → Option α
  | [] => none
  | (i, a) :: m => if i = k then some a else mget k m

/-- The entry of key `k`, or `d`. -/
def mgetD {α : Type} (d : α) (k : Nat) (m : Map α) : α := (mget k m).getD d

/-- Sets the entry of key `k`, keeping the keys ascending. -/
def mput {α : Type} (k : Nat) (a : α) : Map α → Map α
  | [] => [(k, a)]
  | (i, b) :: m => if k < i then (k, a) :: (i, b) :: m else if k = i then (k, a) :: m else (i, b) :: mput k a m

/-- Drops the entry of key `k`. -/
def mdel {α : Type} (k : Nat) : Map α → Map α
  | [] => []
  | (i, a) :: m => if i = k then m else (i, a) :: mdel k m

/-- Changes the entry of key `k` where there is one. -/
def mmod {α : Type} (k : Nat) (f : α → α) (m : Map α) : Map α :=
  match mget k m with
  | none => m
  | some a => mput k (f a) m

/-- Sets the entry of key `k` of a table whose unlisted keys read `d`. -/
def mset {α : Type} [DecidableEq α] (d : α) (k : Nat) (a : α) (m : Map α) : Map α :=
  if a = d then mdel k m else mput k a m

/-- Replaces element `n` of a list. -/
def lset {α : Type} : List α → Nat → α → List α
  | [], _, _ => []
  | _ :: l, 0, a => a :: l
  | b :: l, n + 1, a => b :: lset l n a

/-- Changes element `n` of a list. -/
def lmod {α : Type} : List α → Nat → (α → α) → List α
  | [], _, _ => []
  | b :: l, 0, f => f b :: l
  | b :: l, n + 1, f => b :: lmod l n f

/-! ## Memory bytes -/

/-- What a byte that nothing has written reads as (log 4, log 5). -/
def unlistedByte : Byte := 0

/-- The keys rise strictly from `lo` on, and no entry equals what an unlisted address reads as. -/
def Memory.wfFrom : Nat → List Host.Cell → Bool
  | _, [] => true
  | lo, (a, b) :: m => decide (lo ≤ a) && decide (b ≠ unlistedByte) && Memory.wfFrom (a + 1) m

/-- The canonical form of memory. -/
def Memory.wf (m : List Host.Cell) : Bool := Memory.wfFrom 0 m

/-- One byte. -/
def readByte (m : List Host.Cell) (a : Nat) : Byte := mgetD unlistedByte a m

/-- Writes one byte. -/
def writeByte (m : List Host.Cell) (a : Nat) (b : Byte) : List Host.Cell := mset unlistedByte a b m

/-- `n` bytes from `a` on. -/
def readBytes (m : List Host.Cell) (a : Nat) : Nat → List Byte
  | 0 => []
  | n + 1 => readByte m a :: readBytes m (a + 1) n

/-- Writes bytes from `a` on. -/
def writeBytes (m : List Host.Cell) (a : Nat) : List Byte → List Host.Cell
  | [] => m
  | b :: bs => writeBytes (writeByte m a b) (a + 1) bs

/-- Writes the bytes that a mask gives, from `a` on. -/
def writeMasked (m : List Host.Cell) (a : Nat) : List (Option Byte) → List Host.Cell
  | [] => m
  | none :: bs => writeMasked m (a + 1) bs
  | some b :: bs => writeMasked (writeByte m a b) (a + 1) bs

/-! ## The agenda and numbers -/

/-- Adds an event behind those that fall due no later. -/
def agendaAdd (i : Item) : List Item → List Item
  | [] => [i]
  | j :: l => if i.due < j.due then i :: j :: l else j :: agendaAdd i l

/-- An event falls due at a clk. -/
def State.sched (s : State) (due : Nat) (ev : Instr) (a : Nat) (b : Nat := 0) (c : Nat := 0) (d : Nat := 0) : State :=
  { s with clk := { s.clk with agenda := agendaAdd ⟨due, ev, ⟨a, b, c, d⟩⟩ s.clk.agenda } }

/-- Takes the next unused number. -/
def State.takeFresh (s : State) : Nat × State :=
  (s.clk.fresh, { s with clk := { s.clk with fresh := s.clk.fresh + 1 } })

/-- Draws a free value (log 3). -/
def State.drawFree (s : State) : DWord × State :=
  (Config.freeValue s.clk.freeCnt, { s with clk := { s.clk with freeCnt := s.clk.freeCnt + 1 } })

/-! ## Parts of the state -/

def State.gang? (s : State) (g : Nat) : Option Gang := mget g s.work.gangs
def State.team? (s : State) (t : Nat) : Option Team := mget t s.work.teams
def State.req? (s : State) (r : Nat) : Option Req := mget r s.mem.reqs

def State.setGang (s : State) (k : Nat) (g : Gang) : State :=
  { s with work := { s.work with gangs := mput k g s.work.gangs } }
def State.modGang (s : State) (k : Nat) (f : Gang → Gang) : State :=
  { s with work := { s.work with gangs := mmod k f s.work.gangs } }
def State.setTeam (s : State) (k : Nat) (t : Team) : State :=
  { s with work := { s.work with teams := mput k t s.work.teams } }
def State.modTeam (s : State) (k : Nat) (f : Team → Team) : State :=
  { s with work := { s.work with teams := mmod k f s.work.teams } }
def State.setReq (s : State) (k : Nat) (r : Req) : State :=
  { s with mem := { s.mem with reqs := mput k r s.mem.reqs } }
def State.modReq (s : State) (k : Nat) (f : Req → Req) : State :=
  { s with mem := { s.mem with reqs := mmod k f s.mem.reqs } }
def State.modPart (s : State) (r b : Nat) (f : Part → Part) : State :=
  s.modReq r (fun q => { q with parts := lmod q.parts b f })

/-- A part of a request that has not been sent. -/
def Part.new (blk : DWord) (accs : List Acc) (spec : Bool) : Part where
  blk := blk
  accs := accs
  spec := spec
  st := .idle
  leaf := 0
  home := none
  loc := 0
  lat := 0
  gwct := 0
  data := []
  line := none
  since := 0
  qc := 0xFF
  hops := []
  till := none

/-- The one part of a scratchpad access, which performs 20 clk after its issue (R228). -/
def Part.pad (accs : List Acc) (now : Nat) : Part := { Part.new 0 accs false with st := .accepted, lat := 20, since := now }

/-- The die of a cluster (R7). -/
def dieOf (cluster : Nat) : Nat := cluster / 34

/-- The die of a gang's cluster or control core (R7). -/
def Gang.die (g : Gang) : Nat :=
  match g.core with
  | none => dieOf g.cluster
  | some c => c / 8

/-- The context of a gang. -/
def State.ctxOf (s : State) (g : Gang) : Nat := ((s.team? g.team).map Team.ctx).getD 0

/-- The rival a gang belongs to: scope and index (R145). -/
def State.rivalOf (s : State) (g : Gang) : Option (Nat × Nat) := ((s.team? g.team).map Team.rival).getD none

/-- The gang's team stands on its cluster or core, or has ended and its operations go on (R382). -/
def State.resident (s : State) (g : Gang) : Bool :=
  match (s.team? g.team).map Team.st with
  | some .placed => true
  | some .stopping => true
  | some .ended => true
  | _ => false

/-- The partition of a context (R97). -/
def State.partOf (s : State) (ctx : Nat) : Nat := mgetD 0 ctx s.adm.ctxPart

/-- A partition's clusters (R97). -/
def State.partClusters (s : State) (p : Nat) : List Nat :=
  (List.range 136).filter (fun c => Nat.testBit ((mget p s.adm.parts).getD (0, 0)).1 c)

/-- A partition's stacks (R97). -/
def State.partStacks (s : State) (p : Nat) : List Nat :=
  (List.range 12).filter (fun c => Nat.testBit ((mget p s.adm.parts).getD (0, 0)).2 c)

/-! ## Error records (R91, R193) -/

/-- Appends a record to its context's error log. -/
def State.log (s : State) (e : ErrRec) : State :=
  { s with adm := { s.adm with errlog := mput e.tenant ((mget e.tenant s.adm.errlog).getD [] ++ [e]) s.adm.errlog } }

/-- A gang's place in an error record: cluster and GANGID, or 0xFFFF outside a cluster. -/
def Gang.recPlace (g : Gang) : Nat × Nat :=
  match g.core with
  | none => (g.cluster, g.gangid)
  | some _ => (0xFFFF, 0xFFFF)

/-- Writes an error record of a gang. -/
def State.logGang (s : State) (g : Gang) (cause access : Nat) (addr : DWord) (lanes : Mask) (runpc : DWord) : State :=
  s.log ⟨cause, access, s.ctxOf g, g.recPlace.1, g.recPlace.2, addr, s.clk.now, lanes, runpc.setWidth 32⟩

/-- Ors lanes into record `n` of a context's error log. -/
def State.orRecord (s : State) (ctx n : Nat) (lanes : Mask) : State :=
  { s with adm := { s.adm with errlog := mmod ctx (fun l => lmod l n (fun e => { e with lanes := e.lanes ||| lanes })) s.adm.errlog } }

/-- The record that a gang has written for a run and a cause: its place in the log. -/
def Gang.errAt (g : Gang) (run cause : Nat) : Option Nat :=
  ((g.errs.find? (fun e => decide (e.1 = run ∧ e.2.1 = cause))).map Prod.snd).map Prod.snd

/-- Records an arithmetic error: one record for a gang, run and cause (R193). `run` is the number of the run, or of the request or
operation outside runs; an instruction outside runs (0) has each of its records to itself. -/
def State.arith (s : State) (k : Nat) (g : Gang) (run : Nat) (hdr : DWord) (cause : Nat) (lanes : Mask) : State :=
  if lanes = 0 then s
  else
    match if run = 0 then none else g.errAt run cause with
    | some n => s.orRecord (s.ctxOf g) n lanes
    | none =>
      let n := ((mget (s.ctxOf g) s.adm.errlog).getD []).length
      (s.logGang g cause 8 0 lanes hdr).modGang k (fun g => { g with errs := (run, cause, n) :: g.errs })

/-! ## Registers of a gang -/

/-- Merges a row into another in the lanes of a mask. -/
def mergeRow (lanes : Mask) (new old : Row) : Row :=
  (List.range 32).map (fun l => if lanes.has l then new.getD l 0 else old.getD l 0)

/-- Slots that hold a lane. -/
def Gang.present (g : Gang) : Mask :=
  (List.range 32).foldl (fun m l => if (g.lanes.getD l none).isSome then m ||| Mask.one l else m) 0

/-- Whether a write of a V register with these lanes covers every present lane (R176). -/
def Gang.covers (g : Gang) (lanes : Mask) : Bool := g.present &&& ~~~lanes = 0

/-- The tag of a V register after a write that brings tag `t` (R176, R177): `t` under a full mask, general under another, and what it was where
no lane is written. -/
def Gang.tagAfter (g : Gang) (t : Tag) (lanes : Mask) (old : Tag) : Tag :=
  if lanes = 0 then old else if g.covers lanes then t else .general

/-- The effect of a result that lands, bringing the shape tag `t`. Writes to G62 and beyond, to P0 and to Q0 are discarded. -/
def Gang.land (g : Gang) (t : Tag) : Write → Gang
  | .v n lanes row => { g with v := lmod g.v n (fun r => ⟨g.tagAfter t lanes r.tag, mergeRow lanes row r.row⟩) }
  | .t n lanes row => { g with t := lmod g.t n (fun r => mergeRow lanes row r) }
  | .p n lanes bits => if n = 0 then g else { g with p := lmod g.p n (fun m => (m &&& ~~~lanes) ||| (bits &&& lanes)) }
  | .g n val => { g with g := lset g.g n val }
  | .q n val => if n = 0 then g else { g with q := lset g.q n val }
  | .sr true val => { g with trapvec := val }
  | .sr false val => { g with storehash := val }

/-- Whether `a` takes effect before `b`, which has been issued before it (R172, R182, R183): the earlier clk; a variable latency before a
fixed one; of one run the earlier position; of one path otherwise the earlier issued (log 86); of two paths the fewer lanes, then the
higher address. -/
def Pend.before (a b : Pend) : Bool :=
  if a.land ≠ b.land then decide (a.land < b.land)
  else if a.fixed ≠ b.fixed then !a.fixed
  else if a.own = b.own ∧ a.own ≠ 0 then decide (a.pos < b.pos)
  else if a.lanes &&& b.lanes ≠ 0 then false
  else if Mask.count a.lanes ≠ Mask.count b.lanes then decide (Mask.count a.lanes < Mask.count b.lanes)
  else decide (b.addr.toNat < a.addr.toNat)

/-- Puts a result in its place. -/
def pendInsert (x : Pend) : List Pend → List Pend
  | [] => [x]
  | y :: l => if x.before y then x :: y :: l else y :: pendInsert x l

/-- Sorts results by the order of their effects. -/
def pendSort (l : List Pend) : List Pend := l.foldl (fun acc x => pendInsert x acc) []

/-- A new result. Within a run, fixed-latency results land in the order of their positions (R182). -/
def Gang.push (g : Gang) (x : Pend) : Gang :=
  if x.run ≠ 0 ∧ x.fixed then
    let l := g.pend.foldl (fun m y => if y.run = x.run ∧ y.fixed ∧ y.pos ≤ x.pos then max m y.land else m) x.land
    let ys := g.pend.map (fun y => if y.run = x.run ∧ y.fixed ∧ x.pos < y.pos then { y with land := max y.land l } else y)
    { g with pend := pendInsert { x with land := l } (pendSort ys) }
  else { g with pend := pendInsert x g.pend }

/-- Lets the results that have landed before `now` and belong to no open run take their effect, in order. -/
def settleList (now : Nat) : List Pend → Gang → Gang
  | [], g => { g with pend := [] }
  | x :: l, g => if x.run = 0 ∧ x.land < now then settleList now l (g.land x.tag x.w) else { g with pend := x :: l }

def Gang.settle (g : Gang) (now : Nat) : Gang := settleList now g.pend g

/-- A reader on a path of these lanes, at a position of run `run` (0: outside runs), sees a result: inside the run by position,
from the clk at which it lands, inside a run one clk later when the other path wrote it (R182, R377). -/
def Pend.seen (x : Pend) (now run pos : Nat) (lanes : Mask) : Bool :=
  if run ≠ 0 ∧ x.run = run then decide (x.pos ≤ pos)
  else if run ≠ 0 ∧ x.lanes &&& lanes = 0 then decide (x.land < now) else decide (x.land ≤ now)

/-- The gang's registers as such a reader sees them. -/
def Gang.view (g : Gang) (now run pos : Nat) (lanes : Mask) : Gang :=
  g.pend.foldl (fun g x => if x.seen now run pos lanes then g.land x.tag x.w else g) g

/-- Live lanes: those that stand on a path (R166). -/
def Gang.live (g : Gang) : Mask := g.paths.foldl (fun m p => m ||| p.lanes) 0

/-- A gang's count of a counter (R187, R188). -/
def Gang.count (g : Gang) (cls : Nat) : Nat := (g.ops.filter (fun o => o.cls = cls)).length

/-- Counters fall in order: the oldest operations of a class that are complete leave (R188). -/
def dropDone (cls : Nat) : List Op → List Op
  | [] => []
  | o :: l => if o.cls = cls then (if o.done then dropDone cls l else o :: l) else o :: dropDone cls l

/-- An operation completes (R188). -/
def Gang.opDone (g : Gang) (id cls : Nat) : Gang :=
  { g with ops := dropDone cls (g.ops.map (fun o => if o.id = id ∧ o.cls = cls then { o with done := true } else o)) }

/-! ## Paths -/

/-- Changes the path that holds exactly these lanes. -/
def Gang.modPath (g : Gang) (lanes : Mask) (f : Path → Path) : Gang :=
  { g with paths := g.paths.map (fun p => if p.lanes = lanes then f p else p) }

def Gang.path? (g : Gang) (lanes : Mask) : Option Path := g.paths.find? (fun p => p.lanes = lanes)

/-- A path goes on `len` words later, and one position later in its run. -/
def Path.next (p : Path) (len : Nat) : Path :=
  { p with
    pc := p.pc + BitVec.ofNat 64 (4 * len)
    run := p.run.map (fun r => { r with pos := r.pos + 1 }) }

/-- Puts a path among others: lanes at one address outside runs form one path (R166, R378), whose wait goes on. -/
def joinPath (x : Path) : List Path → List Path
  | [] => [x]
  | p :: l =>
    if p.pc = x.pc ∧ p.run = none ∧ x.run = none then
      { p with
        lanes := p.lanes ||| x.lanes
        hold := max p.hold x.hold
        starve := max p.starve x.starve
        wait := if p.wait = .none then x.wait else p.wait
        wlen := if p.wait = .none then x.wlen else p.wlen } :: l
    else p :: joinPath x l

/-- Joins the paths that stand at one address. -/
def Gang.merge (g : Gang) : Gang := { g with paths := g.paths.foldl (fun acc p => joinPath p acc) [] }

/-! ## Taking a trap (R189 to R192) -/

/-- A gang ends as at EXIT (R382): no lane is live; what follows for its team is polled each clk. -/
def Gang.finish (g : Gang) (pc : DWord) : Gang := { g with paths := [], stop := .ending, exitPc := pc, trapPend := none }

/-- Steps 3 and 4 of R190, once what has landed has taken its effect: the shadow, G60, G61, TRAPCAUSE, the saved addresses, one path at TRAPVEC. -/
def Gang.enterTrap (g0 : Gang) (now : Nat) (t : TrapPend) : Gang :=
  let g := g0.settle (now + 1)
  { g with
    shadow := (g.g.getD 60 0, g.g.getD 61 0)
    g := lset (lset g.g 60 t.resume) 61 t.pc
    trapcause := BitVec.ofNat 64 (t.lanes.toNat * 2 ^ 32 + (if t.inRun then 2 ^ 16 else 0) + t.cause)
    saved := (g.paths.filter (fun p => p.lanes ≠ t.lanes)).map (fun p => (p.lanes, p.pc))
    trapLanes := t.lanes
    inHandler := true
    trapPend := none
    paths := [⟨g.trapvec, g.live, none, 0, 0, .none, 0⟩] }

/-- The gang's other path has left its run and no SFU result is on its way (R190 steps 1 and 2). -/
def Gang.trapReady (g : Gang) : Bool := g.sfu = 0 && g.paths.all (fun p => p.run.isNone)

/-- A run's results no longer belong to an open run. -/
def Gang.closeRun (g : Gang) (uid : Nat) : Gang :=
  { g with pend := g.pend.map (fun x => if x.run = uid then { x with run := 0 } else x) }

/-- A trap that waits is entered as soon as it can be. -/
def Gang.tryTrap (g : Gang) (now : Nat) : Gang :=
  match g.trapPend with
  | none => g
  | some t => if g.trapReady then g.enterTrap now t else g

/-- A running rival turns FAULTED (R150). -/
def Rival.fault (r : Rival) : Rival :=
  if r.st = RivState.running ∨ r.st = RivState.barrier ∨ r.st = RivState.winner then { r with st := .faulted } else r

/-- A gang stops at once, wherever it stands, with a full save (R139, R150). -/
def Gang.stopNow (g : Gang) : Gang :=
  match g.stop with
  | .run | .asking _ | .asked _ => { g with stop := .full }
  | _ => g

/-- A rival becomes FAULTED and its gangs are stopped at once; a team that waits to be placed is no candidate any more (R150). -/
def State.faultRival (s : State) (sc i : Nat) : State :=
  let w := s.work
  let mine := w.teams.filter (fun t => t.2.rival = some (sc, i))
  let gangs := mine.foldl (fun gs t => t.2.gangs.foldl (fun gs g => mmod g Gang.stopNow gs) gs) w.gangs
  let teams := mine.foldl (fun ts t => mmod t.1 (fun x => match x.st with
    | .placed => { x with st := .stopping }
    | .candidate => { x with st := .stopped }
    | _ => x) ts) w.teams
  { s with work := { w with
      scopes := mmod sc (fun x => { x with rivals := lmod x.rivals i Rival.fault }) w.scopes
      gangs := gangs
      teams := teams } }

/-- TAKING A TRAP (R190): the path of `lanes` traps at `pc` with a cause. Where no trap is delivered, a record is written (for the
causes of R88 it has been written already, `State.trapAccess`) and the gang ends. The address resumed at is the run's RUNB inside a run, else the trapping instruction. -/
def State.trap (s : State) (k : Nat) (lanes : Mask) (pc : DWord) (cause : Nat) : State :=
  match s.gang? k with
  | none => s
  | some g0 =>
    let g := g0.view s.clk.now 0 0 lanes
    let run := (g0.path? lanes).bind Path.run
    let hdr : DWord := (run.map Run.hdr).getD 0
    let rival := s.rivalOf g0
    if g.trapvec = 0 ∨ g0.inHandler ∨ rival.isSome then
      let s := if cause / 256 = 1 ∧ !g0.inHandler then s
        else s.logGang g0 (if g0.inHandler then 0x000A else cause) 3 pc lanes hdr
      let s := match rival with
        | none => s
        | some r => s.faultRival r.1 r.2
      s.modGang k (fun g => g.finish pc)
    else
      let resume := if run.isSome then hdr else pc
      let g1 := match run with
        | none => g0
        | some r => g0.closeRun r.uid
      let g2 := { g1 with trapvec := g.trapvec, pend := g1.pend.filter (fun x => match x.w with
        | .sr true _ => decide (s.clk.now < x.land)
        | _ => true) }
      let g3 := g2.modPath lanes (fun p => { p with pc := resume, run := none, wait := .none })
      s.setGang k ({ g3 with trapPend := some ⟨cause, lanes, run.isSome, resume, pc⟩ }.tryTrap s.clk.now)

/-- A trap with a cause of R88, which writes its error record whether or not the trap is delivered: ACCESS, pointer and the
lanes that met it. -/
def State.trapAccess (s : State) (k : Nat) (lanes : Mask) (pc : DWord) (cause access : Nat) (addr : DWord) (met : Mask) : State :=
  match s.gang? k with
  | none => s
  | some g =>
    let hdr : DWord := (((g.path? lanes).bind Path.run).map Run.hdr).getD 0
    (s.logGang g cause access addr met hdr).trap k lanes pc cause

/-- RETURNING FROM A TRAP (R191, R399): the trapping path's lanes go on at the address in G60, every other live lane at its
saved address, G60 and G61 are restored from the shadow. `g60` is the value that TRAP.ret reads. -/
def Gang.trapReturn (g0 : Gang) (now : Nat) (g60 : DWord) : Gang :=
  let g := g0.settle (now + 1)
  let live := g.live
  let ps := (⟨g60, g.trapLanes &&& live, none, 0, 0, .none, 0⟩ : Path) ::
    g.saved.map (fun x => ⟨x.2, x.1 &&& live, none, 0, 0, .none, 0⟩)
  { g with
    paths := ps.filter (fun p => p.lanes ≠ 0)
    g := lset (lset g.g 60 g.shadow.1) 61 g.shadow.2
    inHandler := false
    saved := []
    trapLanes := 0 }.merge

end Sys2Proof.Machine
end

