-- ==== Sys2Proof/Machine/Rows.lean ====
section
/-! DEFINITION. Register blocks of a cluster's 4,096 rows (R100, R116 to R119). -/

namespace Sys2Proof.Machine

/-! ## Register blocks (R116, R117) -/

/-- The free blocks of a register file beside the blocks taken, as halving makes them, ascending. -/
def freeBlocks (taken : List (Nat × Nat)) : Nat → Nat → Nat → List (Nat × Nat)
  | 0, _, _ => []
  | n + 1, base, size =>
    if taken.all (fun o => decide (o.1 + o.2 ≤ base ∨ base + size ≤ o.1)) then [(base, size)]
    else if size ≤ 16 then []
    else freeBlocks taken n base (size / 2) ++ freeBlocks taken n (base + size / 2) (size / 2)

/-- The free blocks of the 4,096 rows. -/
def rowFree (taken : List (Nat × Nat)) : List (Nat × Nat) := freeBlocks taken 9 0 4096

/-- The place of a new block: the lowest free block of its size, else the start of the lowest larger one (R117). -/
def rowTake (taken : List (Nat × Nat)) (rows : Nat) : Option Nat :=
  match (rowFree taken).find? (fun b => b.2 == rows) with
  | some b => some b.1
  | none => ((rowFree taken).find? (fun b => decide (rows < b.2))).map Prod.fst

/-- The places of several new blocks, one after the other. -/
def rowTakes (taken : List (Nat × Nat)) : List Nat → Option (List Nat)
  | [] => some []
  | n :: l =>
    match rowTake taken n with
    | none => none
    | some b => (rowTakes ((b, n) :: taken) l).map (fun bs => b :: bs)

/-- Rows that are free. -/
def rowCount (taken : List (Nat × Nat)) : Nat := 4096 - (taken.map Prod.snd).foldl (· + ·) 0

/-- A team stands on its cluster or core. -/
def Team.here (t : Team) : Bool :=
  match t.st with
  | .placed => true
  | .stopping => true
  | _ => false

/-- A gang that occupies its block: of a team that is here, or one that has ended and whose operations go on (R382). -/
def State.liveGangs (s : State) (cl : Nat) : List (Nat × Gang) :=
  s.work.gangs.filter (fun g => g.2.core.isNone && g.2.cluster == cl && g.2.rows != 0 && s.resident g.2)

/-- The live blocks of a cluster: first row and rows. -/
def State.liveBlocks (s : State) (cl : Nat) : List (Nat × Nat) := (s.liveGangs cl).map (fun g => (g.2.base, g.2.rows))

/-- The blocks kept for stopped teams on a cluster (R100), the team stopped longest ago first: gang, first row, rows. -/
def State.keptBlocks (s : State) (cl : Nat) : List (Nat × Nat × Nat) :=
  (s.work.retained.filter (fun r => r.1 == cl)).map (fun r => r.2)

/-- Live blocks packed as a compaction packs them: the largest first at the lowest rows (R118). -/
def packBlocks (gs : List (Nat × Gang)) : List (Nat × Nat × Nat) :=
  let order := [128, 64, 32, 16].flatMap (fun n => gs.filter (fun g => g.2.rows == n))
  (order.foldl (fun (acc : Nat × List (Nat × Nat × Nat)) g => (acc.1 + g.2.rows, acc.2 ++ [(g.1, acc.1, g.2.rows)])) (0, [])).2

/-- Rows that a save or a restore of a gang's V registers takes, in clk: 1 for 2 rows, 1 for 16 rows whose tag is uniform or
affine (R100). -/
def Gang.rowTime (g : Gang) : Nat :=
  let vs := g.v.take (g.rows - 16)
  let full := (vs.filter (fun r => r.tag == Tag.general)).length
  (full + 1) / 2 + (vs.length - full + 15) / 16

/-! ## Changing a block's size (R119, R495) -/

/-- Where an RCLAIM of a gang puts its block of twice the rows, and whether its rows move: in place, down into its buddy, or to
the lowest free block of that size. -/
def State.claimPlace (s : State) (k : Nat) (g : Gang) : Option (Nat × Bool) :=
  let n := g.rows
  let p := g.base / (2 * n) * (2 * n)
  let kept := (s.keptBlocks g.cluster).map (fun r => (r.2.1, r.2.2))
  let others := ((s.liveGangs g.cluster).filter (fun x => x.1 != k)).map (fun x => (x.2.base, x.2.rows)) ++ kept
  if n = 0 ∨ 128 ≤ n then none
  else if others.all (fun o => decide (o.1 + o.2 ≤ p ∨ p + 2 * n ≤ o.1)) then some (p, g.base != p)
  else ((rowFree ((g.base, n) :: others)).find? (fun b => decide (2 * n ≤ b.2))).map (fun b => (b.1, true))

/-- The V registers whose results a change of the block waits for. -/
def Gang.upperRegs (g : Gang) : List Nat := (List.range (g.rows / 2)).map (fun i => g.rows / 2 - 16 + i)

end Sys2Proof.Machine
end

