-- ==== Sys2Proof/Machine/Operands.lean ====
section
/-! DEFINITION. What an instruction that issues sees: its path, its active lanes, its operands in every form (R351 to R359,
R376, R404, R405), and how its results go on their way (R172, R177, R182, R377). -/

namespace Sys2Proof.Machine

/-- The view of an instruction that issues: gang number, the gang with every result its path sees, the path, the run it
stands in (0, no position and no header outside), the instruction's own words. -/
structure Iss where
  k : Nat
  g : Gang
  path : Path
  run : Nat
  pos : Nat
  hdr : DWord
  pc : DWord
  len : Nat
  word : Word
  now : Nat
  ctx : Nat

/-- The view of the instruction that issues now. -/
def State.iss (s : State) : Option Iss :=
  match s.clk.cur with
  | none => none
  | some c =>
    match s.gang? c.gang with
    | none => none
    | some g =>
      match g.path? c.lanes with
      | none => none
      | some p =>
        let run := (p.run.map Run.uid).getD 0
        let pos := (p.run.map Run.pos).getD 0
        some ⟨c.gang, g.view s.clk.now run pos p.lanes, p, run, pos, (p.run.map Run.hdr).getD 0, c.pc, c.len, c.word, s.clk.now, s.ctxOf g⟩

/-- The run header's address, or the instruction's own outside a run (R193). -/
def Iss.runPc (x : Iss) : DWord := if x.run = 0 then x.pc else x.hdr

/-- A lane predicate's slots; P0 is true everywhere (R414). -/
def Iss.pmask (x : Iss) (n : Nat) : Mask := if n = 0 then 0xFFFFFFFF else x.g.p.getD n 0

/-- The active lanes: on the path, predicate true (R169, R352). -/
def Iss.act (x : Iss) (p : Pred) : Mask :=
  x.path.lanes &&& (if p.neg then ~~~(x.pmask p.n.val) else x.pmask p.n.val)

/-- A uniform predicate register; Q0 is true (R379). -/
def Iss.q (x : Iss) (n : Nat) : Bool := if n = 0 then true else x.g.q.getD n false

/-- The uniform prefix is true (R376). -/
def Iss.qp (x : Iss) (p : Pred) : Bool := x.q p.n.val != p.neg

/-- A uniform source (R354, R355, R379). -/
def Iss.u (x : Iss) : USrc → DWord
  | .g n => x.g.g.getD n.val 0
  | .zero => 0
  | .lit w => w.signExtend 64

/-- A uniform destination read as a source (R390). -/
def Iss.ud (x : Iss) : UDst → DWord
  | .g n => x.g.g.getD n.val 0
  | .zero => 0

/-- A V register's value in a slot. -/
def Gang.vlane (g : Gang) (n l : Nat) : Word := (g.v.getD n ⟨.uniform, []⟩).row.getD l 0

/-- A T register's value in a slot. -/
def Gang.tlane (g : Gang) (n l : Nat) : Word := (g.t.getD n []).getD l 0

/-- Two words as one 64-bit value, the first below. -/
def join (lo hi : Word) : DWord := hi ++ lo

/-- A 32-bit lane operand in slot `l` (R353, R355, R405). -/
def Iss.w32 (x : Iss) (a : LSrc) (l : Nat) : Word :=
  match a with
  | .v n => x.g.vlane n.val l
  | .t n => x.g.tlane n.val l
  | .g n => (x.g.g.getD n.val 0).setWidth 32
  | .lit w => w

/-- A 64-bit lane operand in slot `l`; a literal is sign-extended (R353, R355). -/
def Iss.w64 (x : Iss) (a : LSrc) (l : Nat) : DWord :=
  match a with
  | .v n => join (x.g.vlane n.val l) (x.g.vlane (n.val + 1) l)
  | .t n => join (x.g.tlane n.val l) (x.g.tlane (n.val + 1) l)
  | .g n => x.g.g.getD n.val 0
  | .lit w => w.signExtend 64

/-- A row from a value for each slot. -/
def rowOf (f : Nat → Word) : Row := (List.range 32).map f

/-- The write of a 32-bit lane result. -/
def write32 (d : LDst) (lanes : Mask) (f : Nat → Word) : List Write :=
  match d with
  | .v n => [.v n.val lanes (rowOf f)]
  | .t n => [.t n.val lanes (rowOf f)]

/-- The writes of a 64-bit lane result to a pair (R353). -/
def write64 (d : LDst) (lanes : Mask) (f : Nat → DWord) : List Write :=
  match d with
  | .v n => [.v n.val lanes (rowOf fun l => (f l).setWidth 32),
             .v (n.val + 1) lanes (rowOf fun l => (f l >>> 32).setWidth 32)]
  | .t n => [.t n.val lanes (rowOf fun l => (f l).setWidth 32),
             .t (n.val + 1) lanes (rowOf fun l => (f l >>> 32).setWidth 32)]

/-- The write of a uniform result; G62 discards it (R379). -/
def writeG (d : UDst) (v : DWord) : List Write :=
  match d with
  | .g n => [.g n.val v]
  | .zero => []

/-- A write without the lanes that a debugger has cancelled. -/
def Write.without (m : Mask) : Write → Write
  | .v n lanes row => .v n (lanes &&& ~~~m) row
  | .t n lanes row => .t n (lanes &&& ~~~m) row
  | w => w

/-- The writes of a result of one or two registers without the lanes cancelled in each (R195). -/
def cancelWrites (c : Mask × Mask) : List Write → List Write
  | [] => []
  | [a] => [a.without c.1]
  | a :: b :: l => a.without c.1 :: b.without c.2 :: l

/-! ## Shape tags (R176, R424) -/

/-- The tag a lane source counts with; a temporary counts as general. -/
def Iss.tag (x : Iss) : LSrc → Tag
  | .v n => (x.g.v.getD n.val ⟨.general, []⟩).tag
  | .t _ => .general
  | .g _ => .uniform
  | .lit _ => .uniform

/-- Uniform when every source is, else general. -/
def Iss.tagU (x : Iss) (l : List LSrc) : Tag :=
  if l.all (fun a => x.tag a = .uniform) then .uniform else .general

/-- Affine when every source is affine or uniform and one is affine; uniform when all are (add, subtract). -/
def Iss.tagAdd (x : Iss) (l : List LSrc) : Tag :=
  if l.all (fun a => x.tag a = .uniform) then .uniform
  else if l.all (fun a => x.tag a ≠ .general) then .affine else .general

/-- Affine for an affine A with a uniform B; uniform when both are (multiply, shift left). -/
def Iss.tagMul (x : Iss) (a b : LSrc) : Tag :=
  if x.tag b = .uniform then x.tag a else .general

/-! ## Results on their way -/

/-- The clk `lat` issue clk from clk `t` on, for a die whose arithmetic clock runs at `m` MHz (R6, R51). -/
def issueAfter (m t lat : Nat) : Nat := if m = 1200 ∨ m = 0 then t + lat else ((t * m / 1200 + lat) * 1200 + m - 1) / m

/-- The clk `lat` issue clk from clk `t` on, at the present rate of a die. -/
def State.issueFrom (s : State) (die t lat : Nat) : Nat := issueAfter (s.adm.mhz.getD die 1200) t lat

/-- The clk `lat` issue clk from now on. -/
def State.issueClk (s : State) (die lat : Nat) : Nat := s.issueFrom die s.clk.now lat

/-- The tag of a V register once every result on its way has landed. -/
def Gang.tagAhead (g : Gang) (n : Nat) : Tag :=
  g.pend.foldl (fun t x => match x.w with
    | .v m lanes _ => if m = n then g.tagAfter x.tag lanes t else t
    | _ => t) (g.v.getD n ⟨.general, []⟩).tag

/-- A write of a uniform or affine register under a mask that is not full expands it (R177). -/
def Gang.expands (g : Gang) : Write → Bool
  | .v n lanes _ => lanes ≠ 0 && !g.covers lanes && g.tagAhead n ≠ .general
  | _ => false

/-- An expansion takes one more issue clk of the gang's issue slot (R177). -/
def State.expand (s : State) (g : Gang) : State :=
  { s with clk := { s.clk with slotBusy := mput (4 * g.cluster + g.slot) (s.issueClk g.die 2) s.clk.slotBusy } }

/-- The extra issue clk of an instruction whose writes expand a register. -/
def State.expandFor (s : State) (g : Gang) (ws : List Write) : State := if ws.any g.expands then s.expand g else s

/-- The V registers that a result of a variable latency will write, in lanes. -/
def Dest.marks (lanes : Mask) : Dest → List Write
  | .v n false => [.v n lanes []]
  | .v n true => [.v n lanes [], .v (n + 1) lanes []]
  | _ => []

/-- An instruction whose results come later takes its extra issue clk as it issues. -/
def State.expandAt (s : State) (x : Iss) (ws : List Write) : State :=
  match s.gang? x.k with
  | none => s
  | some g => s.expandFor g ws

/-- Sends fixed-latency results on their way: they land at `land`; the path's run reads them from position pos + lat. -/
def Gang.results (g : Gang) (x : Iss) (land lat : Nat) (tag : Tag) (ws : List Write) : Gang :=
  ws.foldl (fun g w => g.push ⟨land, x.pos + lat, x.run, x.run, true, x.path.lanes, x.pc, tag, w⟩) g

/-- The path of the instruction goes on behind it. -/
def Gang.goOn (g : Gang) (x : Iss) : Gang := g.modPath x.path.lanes (fun p => p.next x.len)

/-- The arithmetic errors of an instruction, each with the lanes that met it, are recorded (R193). -/
def State.ariths (s : State) (x : Iss) (errs : List (Nat × Mask)) : State :=
  errs.foldl (fun s e => match s.gang? x.k with
    | none => s
    | some g => s.arith x.k g x.run x.runPc e.1 e.2) s

/-- AN INSTRUCTION THAT ONLY WRITES REGISTERS: its results go on their way, arithmetic errors are recorded, the path goes
on. An expansion takes one more issue clk (R177). -/
def State.regs (s : State) (x : Iss) (lat : Nat) (tag : Tag) (ws : List Write) (errs : List (Nat × Mask)) : State :=
  let s := s.ariths x errs
  match s.gang? x.k with
  | none => s
  | some g =>
    (s.setGang x.k ((g.results x (s.issueClk g.die lat) lat tag ws).goOn x)).expandFor g ws

/-- The path of an instruction goes on, and nothing else. -/
def State.pass (s : State) (x : Iss) : State := s.modGang x.k (fun g => g.goOn x)

/-- A meaning for the instruction that issues; without an issuer there is none. -/
def State.issue (s : State) (f : Iss → State) : Host.Outcome State Fault Refusal :=
  match s.iss with
  | none => .refused .noIssuer
  | some x => .next (f x)

/-- A lane instruction that computes one 32-bit result in each active lane. -/
def State.lane32 (s : State) (p : Pred) (lat : Nat) (d : LDst) (tag : Iss → Tag) (f : Iss → Nat → Word) :
    Host.Outcome State Fault Refusal :=
  s.issue fun x => s.regs x lat (tag x) (write32 d (x.act p) (f x)) []

/-- A lane instruction that computes one 64-bit result in each active lane. -/
def State.lane64 (s : State) (p : Pred) (lat : Nat) (d : LDst) (tag : Iss → Tag) (f : Iss → Nat → DWord) :
    Host.Outcome State Fault Refusal :=
  s.issue fun x => s.regs x lat (tag x) (write64 d (x.act p) (f x)) []

/-- A uniform instruction with a true prefix does `f`; with a false one it issues and has no effect (R376). -/
def State.uni (s : State) (p : Pred) (f : Iss → State) : Host.Outcome State Fault Refusal :=
  s.issue fun x => if x.qp p then f x else s.pass x

/-- A uniform instruction that computes one G result with latency 4 (R377). -/
def State.gres (s : State) (p : Pred) (d : UDst) (f : Iss → DWord) : Host.Outcome State Fault Refusal :=
  s.uni p fun x => s.regs x 4 .general (writeG d (f x)) []

/-- A uniform instruction that computes one Q result with latency 4 (R377). -/
def State.qres (s : State) (p : Pred) (d : Fin 8) (f : Iss → Bool) : Host.Outcome State Fault Refusal :=
  s.uni p fun x => s.regs x 4 .general [.q d.val (f x)] []

/-! ## Variable-latency results (R183, R185, R377) -/

/-- The position from which no instruction of the issuing run reads a variable-latency result (R183). -/
def posNever : Nat := 1000000

/-- A run of the gang is still open. -/
def Gang.openRun (g : Gang) (uid : Nat) : Bool := uid != 0 && g.paths.any (fun p => (p.run.map Run.uid).getD 0 == uid)

/-- The open run, other than `run`, that has staged the register of a write. -/
def Gang.stagedIn (g : Gang) (run : Nat) : Write → Option Nat
  | .v n _ _ => ((g.paths.filterMap Path.run).find? (fun r => decide (r.uid ≠ run ∧ r.va ≤ n ∧ n < r.va + r.k))).map Run.uid
  | _ => none

/-- A variable-latency result lands now. Within the run that issued it, reads return the value before it (R183); a run that
has staged the register before reads the old or the new value, as a free bit says (R185, log 3). -/
def State.landVar1 (s : State) (k run : Nat) (lanes : Mask) (addr : DWord) (t : Tag) (w : Write) : State :=
  match s.gang? k with
  | none => s
  | some g =>
    let p := fun (r : Nat) => (⟨s.clk.now, posNever, r, run, false, lanes, addr, t, w⟩ : Pend)
    if g.openRun run then s.setGang k (g.push (p run))
    else
      match g.stagedIn run w with
      | none => s.setGang k (g.push (p 0))
      | some r => s.drawFree.2.setGang k (g.push (p (if s.drawFree.1.getLsbD 0 then r else 0)))

/-- The results of an instruction of variable latency land now. -/
def State.landVar (s : State) (k run : Nat) (lanes : Mask) (addr : DWord) (t : Tag) (ws : List Write) : State :=
  ws.foldl (fun s w => s.landVar1 k run lanes addr t w) s

end Sys2Proof.Machine
end

