-- ==== Sys2Proof/Machine/Flags.lean ====
section
/-! DEFINITION. Conditions and predicates: the compares of R388 and R412, the votes of R395. The part has no flags
register; P and Q predicates take its place (R414, R351). -/

namespace Sys2Proof

/-- A condition of R361 on two values of one width. -/
def ICC.holds {w : Nat} (cc : ICC) (a b : BitVec w) : Bool :=
  match cc with
  | .eq => a == b
  | .ne => a != b
  | .lti => decide (a.toInt < b.toInt)
  | .lei => decide (a.toInt ≤ b.toInt)
  | .gti => decide (b.toInt < a.toInt)
  | .gei => decide (b.toInt ≤ a.toInt)
  | .ltn => decide (a.toNat < b.toNat)
  | .len => decide (a.toNat ≤ b.toNat)
  | .gtn => decide (b.toNat < a.toNat)
  | .gen => decide (b.toNat ≤ a.toNat)

end Sys2Proof

namespace Sys2Proof.Machine

/-- The slots of `lanes` where a condition holds. -/
def maskOf (lanes : Mask) (f : Nat → Bool) : Mask :=
  (List.range 32).foldl (fun m l => if lanes.has l && f l then m ||| Mask.one l else m) 0

/-- A lane instruction that writes a lane predicate in each active lane (R412, R432). -/
def State.laneP (s : State) (p : Pred) (lat : Nat) (d : Fin 8) (f : Iss → Nat → Bool) :
    Host.Outcome State Fault Refusal :=
  s.issue fun x => s.regs x lat .general [.p d.val (x.act p) (maskOf (x.act p) (f x))] []

/-- The slots of the path in which a lane predicate is true (R395). -/
def Iss.ballot (x : Iss) (n : Nat) : Mask := x.path.lanes &&& x.pmask n

/-- The value of a vote (R395). -/
def Iss.vote (x : Iss) (m : VoteM) (n : Nat) : DWord :=
  match m with
  | .mask => (x.ballot n).setWidth 64
  | .some => if x.ballot n = 0 then 0 else 1
  | .every => if x.ballot n = x.path.lanes then 1 else 0

end Sys2Proof.Machine
end

