-- ==== Sys2Proof/Machine/Fp.lean ====
section
/-! DEFINITION. Number formats and arithmetic (R294 to R315): decoding, one rounding, exact sums and products, narrow
elements, block scales, minimum and maximum. -/

namespace Sys2Proof.Machine

/-- A float format: width, fraction bits, bias, the bits of the greatest finite magnitude, of +∞ where it has one, of the
canonical NaN where it has one (R294, R295, R299). -/
structure Fmt where
  w : Nat
  mb : Nat
  bias : Nat
  maxFin : Nat
  inf : Option Nat
  nan : Option Nat

def Fmt.f64 : Fmt := ⟨64, 52, 1023, 0x7FEFFFFFFFFFFFFF, some 0x7FF0000000000000, some 0x7FF8000000000000⟩
def Fmt.f32 : Fmt := ⟨32, 23, 127, 0x7F7FFFFF, some 0x7F800000, some 0x7FC00000⟩
def Fmt.bf16 : Fmt := ⟨16, 7, 127, 0x7F7F, some 0x7F80, some 0x7FC0⟩
def Fmt.f16 : Fmt := ⟨16, 10, 15, 0x7BFF, some 0x7C00, some 0x7E00⟩
def Fmt.e4m3 : Fmt := ⟨8, 3, 7, 0x7E, none, some 0x7F⟩
def Fmt.e5m2 : Fmt := ⟨8, 2, 15, 0x7B, some 0x7C, some 0x7E⟩
def Fmt.e2m1 : Fmt := ⟨4, 1, 1, 0x7, none, none⟩

/-- A value: a NaN (signalling or not), an infinity, or exactly ±m · 2^e. -/
inductive FVal where
  | nan (sig : Bool)
  | inf (neg : Bool)
  | fin (neg : Bool) (m : Nat) (e : Int)
  deriving DecidableEq, Repr

/-- The sign bit of an encoding. -/
def Fmt.neg (f : Fmt) (b : Nat) : Bool := decide (b / 2 ^ (f.w - 1) % 2 = 1)
/-- The magnitude bits of an encoding. -/
def Fmt.mag (f : Fmt) (b : Nat) : Nat := b % 2 ^ (f.w - 1)
/-- The bits of a sign. -/
def Fmt.signBits (f : Fmt) (neg : Bool) : Nat := if neg then 2 ^ (f.w - 1) else 0

/-- The value of an encoding (R294, R295, R299). Narrow NaNs are quiet. -/
def Fmt.decode (f : Fmt) (b : Nat) : FVal :=
  let neg := f.neg b
  let mag := f.mag b
  if mag ≤ f.maxFin then
    let ex := mag / 2 ^ f.mb
    let fr := mag % 2 ^ f.mb
    if ex = 0 then .fin neg fr (1 - f.bias - f.mb) else .fin neg (2 ^ f.mb + fr) (ex - f.bias - f.mb)
  else if f.inf = some mag then .inf neg
  else .nan (decide (16 ≤ f.w) && decide (mag / 2 ^ (f.mb - 1) % 2 = 0))

/-- m · 2^(−sh) rounded to an integer under a mode (R296). -/
def roundShift (mode : RMode) (neg : Bool) (m sh : Nat) : Nat :=
  let q := m / 2 ^ sh
  let r := m % 2 ^ sh
  match mode with
  | .rne => if 2 ^ sh < 2 * r then q + 1 else if 2 * r = 2 ^ sh ∧ sh ≠ 0 then q + q % 2 else q
  | .rz => q
  | .rd => if neg ∧ r ≠ 0 then q + 1 else q
  | .ru => if !neg ∧ r ≠ 0 then q + 1 else q

/-- The magnitude bits of m · 2^e rounded with an unbounded exponent range: beyond the greatest finite it overflows. -/
def Fmt.roundMag (f : Fmt) (mode : RMode) (neg : Bool) (m : Nat) (e : Int) : Nat :=
  if m = 0 then 0
  else
    let emin : Int := 1 - f.bias - f.mb
    let q : Int := max ((Nat.log2 m : Int) + e - f.mb) emin
    let mant := if q ≤ e then m * 2 ^ (e - q).toNat else roundShift mode neg m (q - e).toNat
    mant + (q - emin).toNat * 2 ^ f.mb

/-- An overflow in this mode goes to infinity (R296). -/
def RModeInf (mode : RMode) (neg : Bool) : Bool :=
  match mode with
  | .rne => true
  | .rz => false
  | .rd => neg
  | .ru => !neg

/-- A result: its bits and the causes it records (R298). -/
structure FRes where
  bits : Nat
  inv : Bool := false
  ovf : Bool := false
  dz : Bool := false

/-- The canonical NaN. -/
def Fmt.canon (f : Fmt) : Nat := f.nan.getD 0
/-- An infinity of a wide format. -/
def Fmt.infBits (f : Fmt) (neg : Bool) : Nat := f.signBits neg + f.inf.getD f.maxFin

/-- A value rounded once to a wide format (R296, R298). -/
def Fmt.round (f : Fmt) (mode : RMode) : FVal → FRes
  | .nan sig => { bits := f.canon, inv := sig }
  | .inf neg => { bits := f.infBits neg }
  | .fin neg m e =>
    let b := f.roundMag mode neg m e
    if b ≤ f.maxFin then { bits := f.signBits neg + b }
    else { bits := if RModeInf mode neg then f.infBits neg else f.signBits neg + f.maxFin, ovf := true }

/-- `.ftz`: a subnormal becomes a zero of its sign (R297). -/
def Fmt.ftz (f : Fmt) (on : Bool) (b : Nat) : Nat :=
  if on ∧ f.mag b < 2 ^ f.mb then f.signBits (f.neg b) else b

def FVal.isNan : FVal → Bool
  | .nan _ => true
  | _ => false

def FVal.isSig : FVal → Bool
  | .nan s => s
  | _ => false

def FVal.negate : FVal → FVal
  | .nan s => .nan s
  | .inf n => .inf (!n)
  | .fin n m e => .fin (!n) m e

def FVal.isFinite : FVal → Bool
  | .fin _ _ _ => true
  | _ => false

/-- ±m as an integer. -/
def signed (neg : Bool) (m : Nat) : Int := if neg then -(m : Int) else m

/-- An exact sum: the value, and whether the operation is invalid. An exact zero is + (− under `.rd`), or keeps the sign of
two zeros of one sign (R296). -/
def FVal.add (mode : RMode) (a b : FVal) : FVal × Bool :=
  match a, b with
  | .nan s, .nan t => (.nan false, s || t)
  | .nan s, _ => (.nan false, s)
  | _, .nan t => (.nan false, t)
  | .inf n, .inf k => if n = k then (.inf n, false) else (.nan false, true)
  | .inf n, _ => (.inf n, false)
  | _, .inf k => (.inf k, false)
  | .fin n m e, .fin k l f =>
    let g := min e f
    let v := signed n (m * 2 ^ (e - g).toNat) + signed k (l * 2 ^ (f - g).toNat)
    if v = 0 then (if m = 0 ∧ l = 0 ∧ n = k then .fin n 0 0 else .fin (mode == .rd) 0 0, false)
    else (.fin (decide (v < 0)) v.natAbs g, false)

/-- An exact product and whether the operation is invalid. -/
def FVal.mul (a b : FVal) : FVal × Bool :=
  match a, b with
  | .nan s, .nan t => (.nan false, s || t)
  | .nan s, _ => (.nan false, s)
  | _, .nan t => (.nan false, t)
  | .inf n, .inf k => (.inf (n != k), false)
  | .inf n, .fin k m _ => if m = 0 then (.nan false, true) else (.inf (n != k), false)
  | .fin k m _, .inf n => if m = 0 then (.nan false, true) else (.inf (n != k), false)
  | .fin n m e, .fin k l f => (.fin (n != k) (m * l) (e + f), false)

/-- An arithmetic result: rounded once, with INVALID of the operation. -/
def Fmt.arith (f : Fmt) (mode : RMode) (v : FVal × Bool) : FRes :=
  let r := f.round mode v.1
  { r with inv := r.inv || v.2 }

def Fmt.add (f : Fmt) (mode : RMode) (a b : Nat) : FRes := f.arith mode ((f.decode a).add mode (f.decode b))
def Fmt.sub (f : Fmt) (mode : RMode) (a b : Nat) : FRes := f.arith mode ((f.decode a).add mode (f.decode b).negate)
def Fmt.mul (f : Fmt) (mode : RMode) (a b : Nat) : FRes := f.arith mode ((f.decode a).mul (f.decode b))

/-- a × b + c, rounded once (R313); 0 × ∞ is invalid even with a quiet NaN c (R429). -/
def Fmt.fma (f : Fmt) (mode : RMode) (a b c : Nat) : FRes :=
  let p := (f.decode a).mul (f.decode b)
  let v := p.1.add mode (f.decode c)
  f.arith mode (v.1, p.2 || v.2)

/-- Orders the bits of values that are no NaN, −0 below +0 (R315). -/
def Fmt.key (f : Fmt) (b : Nat) : Int := if f.neg b then -(f.mag b : Int) - 1 else f.mag b
/-- Orders values, −0 equal to +0 (R432). -/
def Fmt.num (f : Fmt) (b : Nat) : Int := signed (f.neg b) (f.mag b)

/-- Minimum and maximum (R315, R430): `big` the maximum, `n` the forms that pass a number by a NaN. -/
def Fmt.minmax (f : Fmt) (big n ftz : Bool) (a b : Nat) : FRes :=
  let va := f.decode a
  let vb := f.decode b
  let inv := va.isSig || vb.isSig
  if va.isNan && vb.isNan then { bits := f.canon, inv := inv }
  else if va.isNan then { bits := if n then b else f.canon, inv := inv }
  else if vb.isNan then { bits := if n then a else f.canon, inv := inv }
  else
    let ka := f.key (f.ftz ftz a)
    let kb := f.key (f.ftz ftz b)
    { bits := if big then (if ka < kb then b else a) else if kb < ka then b else a }

/-- The class word of an element (R431). -/
def Fmt.classOf (f : Fmt) (b : Nat) : Nat :=
  match f.decode b with
  | .nan true => 2 ^ 8
  | .nan false => 2 ^ 9
  | .inf true => 1
  | .inf false => 2 ^ 7
  | .fin neg m _ =>
    if m = 0 then (if neg then 2 ^ 3 else 2 ^ 4)
    else if f.mag b < 2 ^ f.mb then (if neg then 2 ^ 2 else 2 ^ 5)
    else if neg then 2 ^ 1 else 2 ^ 6

/-- A float condition (R432): the outcome and INVALID. -/
def Fmt.cmp (f : Fmt) (cc : FCC) (a b : Nat) : Bool × Bool :=
  let va := f.decode a
  let vb := f.decode b
  let u := va.isNan || vb.isNan
  let x := f.num a
  let y := f.num b
  (match cc with
    | .eq => !u && decide (x = y)
    | .ne => u || decide (x ≠ y)
    | .lt => !u && decide (x < y)
    | .le => !u && decide (x ≤ y)
    | .gt => !u && decide (y < x)
    | .ge => !u && decide (y ≤ x)
    | .num => !u
    | .nan => u, va.isSig || vb.isSig)

/-! ## Narrow elements and integers (R300, R302) -/

/-- A value converted to a narrow float (R300). -/
def Fmt.narrow (f : Fmt) (mode : RMode) (sat : Bool) (v : FVal) : FRes :=
  let excess := fun (neg infCase : Bool) =>
    if sat then ({ bits := f.signBits neg + f.maxFin } : FRes)
    else if infCase then
      match f.inf, f.nan with
      | some i, _ => { bits := f.signBits neg + i, ovf := true }
      | none, some n => { bits := n, ovf := true }
      | none, none => { bits := f.signBits neg + f.maxFin, ovf := true }
    else { bits := f.signBits neg + f.maxFin, ovf := true }
  match v with
  | .nan sig => match f.nan with
    | some n => { bits := n, inv := sig }
    | none => { bits := 0, inv := true }
  | .inf neg => match f.inf with
    | some i => { bits := f.signBits neg + i }
    | none => excess neg true
  | .fin neg m e =>
    let b := f.roundMag mode neg m e
    if b ≤ f.maxFin then { bits := f.signBits neg + b } else excess neg (RModeInf mode neg)

/-- A finite value rounded to an integer under a mode. -/
def roundInt (mode : RMode) (neg : Bool) (m : Nat) (e : Int) : Int :=
  signed neg (if 0 ≤ e then m * 2 ^ e.toNat else roundShift mode neg m (-e).toNat)

/-- A value converted to an integer of the range lo to hi (R302): the integer and INVALID. -/
def toInteger (mode : RMode) (sat : Bool) (lo hi : Int) : FVal → Int × Bool
  | .nan _ => (0, true)
  | .inf neg => (if neg then lo else hi, !sat)
  | .fin neg m e =>
    let v := roundInt mode neg m e
    if v < lo then (lo, !sat) else if hi < v then (hi, !sat) else (v, false)

/-- An integer as a value. -/
def ofInteger (v : Int) : FVal := .fin (decide (v < 0)) v.natAbs 0

/-! ## Block scales (R303 to R309) -/

/-- The exponent of SE12. -/
def seE (se : Nat) : Nat := se / 16 % 256
/-- The scale of SE12 for e from 1 to 254, as (16 + f) · 2^(e − 131) (R303). -/
def seScale (se : Nat) : FVal := .fin false (16 + se % 16) ((seE se : Int) - 131)

/-- The element formats of a block (R304). -/
inductive Elem where
  | flt (f : Fmt)
  | int (w : Nat) (signed : Bool)

/-- The element format of a code. -/
def elemOf : Nat → Option Elem
  | 1 => some (.flt .e4m3)
  | 2 => some (.flt .e5m2)
  | 3 => some (.flt .e2m1)
  | 4 => some (.int 8 true)
  | 5 => some (.int 8 false)
  | 6 => some (.int 4 true)
  | 7 => some (.flt .bf16)
  | 8 => some (.flt .f16)
  | 9 => some (.flt .f32)
  | 10 => some (.flt .f64)
  | _ => none

/-- Width in bits of an element. -/
def Elem.w : Elem → Nat
  | .flt f => f.w
  | .int w _ => w

/-- The integer that `w` bits give. -/
def intOf (w : Nat) (sgn : Bool) (b : Nat) : Int :=
  let v := b % 2 ^ w
  if sgn ∧ 2 ^ (w - 1) ≤ v then (v : Int) - (2 ^ w : Nat) else v

/-- The value of an element's bits. -/
def Elem.value : Elem → Nat → FVal
  | .flt f, b => f.decode (b % 2 ^ f.w)
  | .int w s, b => ofInteger (intOf w s b)

/-- The least and greatest integer of an integer element. -/
def intRange (w : Nat) (sgn : Bool) : Int × Int :=
  if sgn then (-(2 ^ (w - 1) : Nat), (2 ^ (w - 1) : Nat) - 1) else (0, (2 ^ w : Nat) - 1)

/-- An element's bits from a value, saturating under `sat` (R300, R302). -/
def Elem.ofValue (el : Elem) (mode : RMode) (sat : Bool) (v : FVal) : FRes :=
  match el with
  | .flt f => if 16 ≤ f.w then f.round mode v else f.narrow mode sat v
  | .int w s =>
    let r := toInteger mode sat (intRange w s).1 (intRange w s).2 v
    { bits := (BitVec.ofInt w r.1).toNat, inv := r.2 }

/-- emaxq of a format code (R308). -/
def emaxq : Nat → Int
  | 1 => 8
  | 2 => 15
  | 3 => 2
  | 4 => 6
  | 5 => 7
  | _ => 2

/-- floor(log2 v) of a finite value that is not zero. -/
def FVal.log2 : FVal → Int
  | .fin _ m e => Nat.log2 m + e
  | _ => 0

/-- A finite value is zero. -/
def FVal.isZero : FVal → Bool
  | .fin _ m _ => m == 0
  | _ => false

/-- A finite value divided by 2^k. -/
def FVal.scaleDown (k : Int) : FVal → FVal
  | .fin n m e => .fin n m (e - k)
  | v => v

/-- The exponent e of R308 for the sources of a block; 0 when all are zero. -/
def quantE (code : Nat) (xs : List FVal) : Nat :=
  let nz := xs.filter (fun v => !v.isZero)
  match nz with
  | [] => 0
  | v :: vs =>
    let k := vs.foldl (fun m x => max m x.log2) v.log2 - emaxq code
    (max 1 (min 254 (k + 127))).toNat

/-- `round_sat` of an element: its bits and whether it was clamped (R308). -/
def roundSat (code : Nat) (mode : RMode) (v : FVal) : Nat × Bool :=
  match elemOf code with
  | some el =>
    let r := el.ofValue mode false v
    let clamped := r.ovf || r.inv
    ((el.ofValue mode true v).bits, clamped)
  | none => (0, false)

/-- Quantises a block that chooses its own scale (R308): SE12, the elements, how many were clamped, INVALID. -/
def quantBlock (code : Nat) (mode : RMode) (xs : List FVal) : Nat × List Nat × Nat × Bool :=
  if xs.any (fun v => !v.isFinite) then (0xFF0, xs.map (fun _ => 0), 0, true)
  else
    let e := quantE code xs
    if e = 0 then (0, xs.map (fun _ => 0), 0, false)
    else
      let qs := xs.map (fun v => roundSat code mode (v.scaleDown ((e : Int) - 127)))
      (e * 16, qs.map Prod.fst, (qs.filter Prod.snd).length, false)

/-- v divided by a scale and rounded once to an element (R309). The division by 16 + f is exact as a fraction: a quotient
with a sticky bit below the last bit that a rounding can see. -/
def FVal.divScale (se : Nat) : FVal → FVal
  | .fin n m e =>
    let d := 16 + se % 16
    let q := m * 2 ^ 80 / d
    .fin n (2 * q + (if m * 2 ^ 80 % d = 0 then 0 else 1)) (e - 81 - ((seE se : Int) - 131))
  | v => v

/-- Quantises an element by a given scale (R309). -/
def quantGiven (code se : Nat) (mode : RMode) (sat : Bool) (v : FVal) : FRes :=
  if seE se = 0 ∨ seE se = 255 then { bits := 0 }
  else match elemOf code with
    | some el => el.ofValue mode sat (v.divScale se)
    | none => { bits := 0 }

/-! ## Exact sums (R312) -/

/-- An exact sum of values: NaN on a NaN term or infinities of both signs; an exact zero is +0, or −0 when every term is −0. -/
def sumExact (xs : List FVal) : FVal × Bool :=
  if xs.any FVal.isNan then (.nan false, true)
  else
    let pi := xs.any (fun v => v = .inf false)
    let ni := xs.any (fun v => v = .inf true)
    if pi && ni then (.nan false, true)
    else if pi then (.inf false, false)
    else if ni then (.inf true, false)
    else
      let g := xs.foldl (fun g v => match v with
        | .fin _ m e => if m = 0 then g else min g e
        | _ => g) (10000 : Int)
      let v := xs.foldl (fun (acc : Int) v => match v with
        | .fin n m e => if m = 0 then acc else acc + signed n (m * 2 ^ (e - g).toNat)
        | _ => acc) 0
      if v = 0 then (.fin (!xs.isEmpty && xs.all (fun v => match v with
        | .fin n m _ => n && m == 0
        | _ => false)) 0 0, false)
      else (.fin (decide (v < 0)) v.natAbs g, false)

end Sys2Proof.Machine
end

