-- ==== Sys2Proof/Machine/Translate.lean ====
section
/-! DEFINITION. Pointers, page tables, translation buffers and walks (R77 to R88, R95, R96, R102, R198). -/

namespace Sys2Proof.Machine

/-! ## Pointers (R77) and leaf entries (R81) -/

/-- A field of a 64-bit word. -/
def field (e : DWord) (lo n : Nat) : Nat := bits e.toNat lo n

def ptrTag (a : DWord) : Nat := field a 60 4
/-- Bits [59:57] are zero (R78). -/
def ptrOk (a : DWord) : Bool := field a 57 3 == 0
/-- The virtual address of a pointer. -/
def ptrVa (a : DWord) : Nat := field a 0 57
/-- The page number of a virtual address. -/
def pageOf (va : Nat) : Nat := va / 65536

def leafV (e : DWord) : Bool := e.getLsbD 0
def leafLeaf (e : DWord) : Bool := e.getLsbD 1
def leafRd (e : DWord) : Bool := e.getLsbD 2
def leafWr (e : DWord) : Bool := e.getLsbD 3
def leafEx (e : DWord) : Bool := e.getLsbD 4
def leafDirty (e : DWord) : Bool := e.getLsbD 5
def leafAcc (e : DWord) : Bool := e.getLsbD 6
def leafHost (e : DWord) : Bool := e.getLsbD 7
def leafHsh (e : DWord) : Bool := e.getLsbD 8
def leafHown (e : DWord) : Bool := e.getLsbD 9
def leafTso (e : DWord) : Bool := e.getLsbD 10
def leafTagck (e : DWord) : Bool := e.getLsbD 11
def leafHome (e : DWord) : Nat := field e 12 2
/-- The lease length in clk. -/
def leafLease (e : DWord) : Nat := 512 * 4 ^ field e 14 2
def leafPfn (e : DWord) : Nat := field e 16 24
def leafPeer (e : DWord) : Nat := field e 40 16
def leafHcl (e : DWord) : Nat := field e 56 8

/-- Bytes of a page of a size code. -/
def pageBytes (size : Nat) : Nat := if size = 0 then 2 ^ 16 else if size = 1 then 2 ^ 21 else 2 ^ 30

/-- A valid leaf breaks R84 at a level: size code 0 at level 0, 1 at level 1, 2 at level 2. -/
def leafBad (e : DWord) (level : Nat) : Bool :=
  decide (3 ≤ level) || field e 14 2 == 3 || (leafHome e == 2 && level != 0) ||
  (leafHome e != 2 && leafHcl e != 0) || (!leafHsh e && (leafTso e || leafHown e)) ||
  (level == 1 && leafPfn e % 2 ^ 5 != 0) || (level == 2 && leafPfn e % 2 ^ 14 != 0)

/-- A table entry breaks R82 or R84. -/
def tableBad (e : DWord) (level : Nat) : Bool :=
  level == 0 || field e 40 24 != 0 || field e 2 6 != 0 || (decide (2 ≤ level) && field e 8 4 != 0)

/-- The physical address of the next table (R82). -/
def tableNext (e : DWord) : Nat := field e 8 32 * 256

/-- The lowest VA bit that a level indexes (R80). -/
def levelShift : Nat → Nat
  | 0 => 16
  | 1 => 21
  | 2 => 30
  | 3 => 39
  | _ => 48

/-- The index of a VA at a level. -/
def levelIndex (va level : Nat) : Nat := va / 2 ^ levelShift level % (if level = 0 then 32 else 512)

/-! ## Where an access is served (R32, R102, R198) -/

/-- The stack of a physical address, and whether it lies in the data region (R32). -/
def paStack (pa : Nat) : Nat := pa / 2 ^ 36
def paOk (pa : Nat) : Bool := decide (paStack pa < 12) && decide (pa % 2 ^ 36 < 60000000000)

/-- The physical address, or the offset in the peer, of a VA under a leaf. -/
def leafAddr (leaf : DWord) (size va : Nat) : Nat := leafPfn leaf * 65536 + va % pageBytes size

/-- The connection of a peer entry, where it is UP (R102, R103). -/
def State.peer? (s : State) (ctx n : Nat) : Option Peer :=
  (mget (ctx * 4096 + n) s.adm.peers).bind (fun p => if p.up then some p else none)

/-- A page of a context is the management window (R55). -/
def isWindow (ctx page : Nat) : Bool := ctx == 0 && page == 0

/-- The leaf that stands for the management window: read, write, host access (R55). -/
def windowLeaf : DWord := 0xEF

/-- Where the management window's bytes lie in `Mem.bytes`. -/
def windowBase : Nat := 2 ^ 40

/-- The place in `Mem.bytes` of a VA under a leaf; `none` where the peer entry is not UP. -/
def State.placeOf (s : State) (ctx : Nat) (leaf : DWord) (size va : Nat) : Option Nat :=
  if isWindow ctx (pageOf va) then some (windowBase + va)
  else if leafPeer leaf = 0 then some (leafAddr leaf size va)
  else (s.peer? ctx (leafPeer leaf)).map (fun p => 2 ^ 64 * (p.conn + 1) + (p.base.toNat + leafAddr leaf size va) % 2 ^ 64)

/-- The home of a VA under a leaf, for an agent on a die; `none` where the peer entry is not UP. -/
def State.homeOf (s : State) (ctx die : Nat) (leaf : DWord) (size va : Nat) : Option Home :=
  if isWindow ctx (pageOf va) then some (.slice 0)
  else if leafPeer leaf ≠ 0 then (s.peer? ctx (leafPeer leaf)).map (fun p => .peer p.conn p.host)
  else
    let pa := leafAddr leaf size va
    if paOk pa then
      some (if leafHome leaf = 2 then .window (leafHcl leaf)
        else if leafHome leaf = 3 then .sorter (paStack pa) else .slice (paStack pa / 3))
    else if paStack pa < 12 then some (.out (paStack pa / 3)) else some (.out die)

/-- The die of a port (R28, R37). -/
def portDie (port : Nat) : Nat := port / 8

/-- The die that a home's requests leave the mesh on: for a peer that of its connection's port (R35, R37). -/
def State.homeDie (s : State) : Home → Nat
  | .slice d => d
  | .window c => dieOf c
  | .sorter st => st / 3
  | .peer c _ => ((mget c s.adm.conns).map (fun x => portDie x.port)).getD 0
  | .out d => d

/-- The number of the ingress queue of the link between two dies in the table of busy times (R35, R203). -/
def meshQueue (a b : Nat) : Nat := 2 ^ 40 + 4 * a + b

/-- The die a home stands on. -/
def Home.die : Home → Nat
  | .slice d => d
  | .window c => dieOf c
  | .sorter st => st / 3
  | .peer _ _ => 4
  | .out d => d

/-- The number of a home's queue in the table of busy times. -/
def Home.queue : Home → Nat
  | .slice d => d
  | .window c => 16 + c
  | .sorter st => 256 + st
  | .peer c _ => 512 + c
  | .out d => d

/-- The way from an agent on a die to a home, one way (R9 of the worked examples: half of R10). -/
def Home.oneWay (h : Home) (die : Nat) (cluster : Option Nat) : Nat :=
  match h with
  | .peer _ _ => 1500
  | .window c => if cluster = some c then 10 else if dieOf c = die then 70 else 130
  | h => if h.die = die then 70 else 130

/-- The round trip to a home that answers at once: stores (R199), windows (R198). -/
def Home.trip (h : Home) (die : Nat) (cluster : Option Nat) : Nat := 2 * h.oneWay die cluster

/-- The block of a place is in its home's die slice, filled by the same context (R99); the management window always is (R55). -/
def State.inSlice (s : State) (loc ctx : Nat) : Bool := loc / 1024 == windowBase / 65536 || s.mem.slices.any (fun l => l.loc == loc && l.tenant == ctx)

/-- The latency of a read served at a home (R10, R198). -/
def State.readLatency (s : State) (h : Home) (die : Nat) (cluster : Option Nat) (loc ctx : Nat) : Nat :=
  match h with
  | .slice d => if s.inSlice loc ctx then h.trip die cluster else if d = die then 520 else 640
  | .sorter st => if st / 3 = die then 520 else 640
  | h => h.trip die cluster

/-! ## Die slices: fills and replacement (R99, R198, R497) -/

/-- Lines of a die slice of 96 MiB. -/
def sliceCap : Nat := 1572864

/-- Drops the first line for which `f` holds. -/
def dropFirst {α : Type} (f : α → Bool) : List α → List α
  | [] => []
  | a :: l => if f a then l else a :: dropFirst f l

/-- The line among these that was used longest ago. -/
def lruOf {α : Type} (f : α → Nat) : List α → Option α
  | [] => none
  | a :: l => match lruOf f l with
    | none => some a
    | some b => if f b < f a then some b else some a

/-- A use of the lines of a block in its die slice (R497). -/
def State.sliceTouch (s : State) (loc ctx : Nat) : State :=
  { s with mem := { s.mem with slices := s.mem.slices.map (fun l => if l.loc = loc ∧ l.tenant = ctx then { l with last := s.clk.now } else l) } }

/-- A fill of the die slice by a read of the level below, which has arrived at clk `filled`. It takes the place of the line used longest ago,
but not of one that is pinned or whose own fill is in progress (R497). -/
def State.sliceFill (s : State) (loc ctx : Nat) (pinned : Bool) (filled : Nat) : State :=
  let m := s.mem
  if s.inSlice loc ctx then s.sliceTouch loc ctx
  else
    let die := paStack (loc * 64) / 3
    let here := m.slices.filter (fun l => paStack (l.loc * 64) / 3 == die)
    let kept := if here.length < sliceCap then m.slices
      else match lruOf SliceLine.last (here.filter (fun l => !l.pinned && decide (l.filled ≤ s.clk.now))) with
        | none => m.slices
        | some v => dropFirst (fun l => l == v) m.slices
    { s with mem := { m with slices := kept ++ [⟨loc, ctx, pinned, s.clk.now, filled⟩] } }

/-! ## Translation buffers (R85, R497) -/

/-- An entry covers a page. -/
def TlbEnt.covers (e : TlbEnt) (place : Place) (ctx page : Nat) : Bool :=
  e.place == place && e.ctx == ctx && e.page == page / (pageBytes e.size / 65536) * (pageBytes e.size / 65536)

def State.tlb? (s : State) (place : Place) (ctx page : Nat) : Option TlbEnt := s.mem.tlb.find? (fun e => e.covers place ctx page)

/-- The entries a new one may take the place of: all of a cluster or walk-ahead TLB, a set of the 8-way die TLB (the set is
the page number mod 2,048). -/
def Place.rivals (p : Place) (page : Nat) (l : List TlbEnt) : List TlbEnt :=
  match p with
  | .die _ => l.filter (fun e => e.place == p && e.page % 2048 == page % 2048)
  | _ => l.filter (fun e => e.place == p)

def Place.cap : Place → Nat
  | .cluster _ => 256
  | .die _ => 8
  | .walkAhead _ => 64

/-- Fills a translation buffer. -/
def State.tlbFill (s : State) (place : Place) (ctx page size gen : Nat) (leaf : DWord) : State :=
  let first := page / (pageBytes size / 65536) * (pageBytes size / 65536)
  let l := s.mem.tlb.filter (fun e => !e.covers place ctx page)
  let old := place.rivals first l
  let l := if old.length < place.cap then l
    else match lruOf TlbEnt.last old with
      | none => l
      | some v => dropFirst (fun e => e == v) l
  { s with mem := { s.mem with tlb := l ++ [⟨place, ctx, first, size, gen, leaf, s.clk.now⟩] } }

/-- Marks an entry as used. -/
def State.tlbTouch (s : State) (place : Place) (ctx page : Nat) : State :=
  { s with mem := { s.mem with tlb := s.mem.tlb.map (fun e => if e.covers place ctx page then { e with last := s.clk.now } else e) } }

/-- A lookup: the first buffer, then the die TLB, which fills the first buffer (R85, R86). -/
def State.lookup (s : State) (first : Place) (die ctx page : Nat) : Option TlbEnt × State :=
  if isWindow ctx page then (some ⟨first, 0, 0, 0, 0, windowLeaf, s.clk.now⟩, s)
  else
  match s.tlb? first ctx page with
  | some e => (some e, s.tlbTouch first ctx page)
  | none =>
    match s.tlb? (.die die) ctx page with
    | some e => (some e, (s.tlbTouch (.die die) ctx page).tlbFill first ctx page e.size e.gen e.leaf)
    | none => (none, s)

/-! ## Walks (R80 to R87, R96) -/

/-- What a walk finds: a leaf with its size code, an entry that is not valid (lost or not), or BADPTE. -/
inductive Found where
  | leaf (e : DWord) (size : Nat)
  | absent (lost : Bool)
  | bad
  deriving DecidableEq, Repr

/-- An 8-byte entry at a physical address; one that does not exist reads all ones (R32). -/
def State.tableRead (s : State) (pa : Nat) : DWord :=
  if paOk pa then BitVec.ofNat 64 (ofBytes (readBytes s.mem.bytes pa 8)) else 0xFFFFFFFFFFFFFFFF

/-- A walk from the table at `pa` of a level down: what it finds, the addresses it reads, the table entries it passes. -/
def State.descend (s : State) (va : Nat) : Nat → Nat → Found × List Nat × List (Nat × DWord)
  | level, pa =>
    let at_ := pa + 8 * levelIndex va level
    let e := s.tableRead at_
    if !leafV e then (.absent (field e 1 3 == 1), [at_], [])
    else if leafLeaf e then (if leafBad e level then .bad else .leaf e level, [at_], [])
    else if tableBad e level then (.bad, [at_], [])
    else
      match level with
      | 0 => (.bad, [at_], [])
      | l + 1 =>
        let r := s.descend va l (tableNext e)
        (r.1, at_ :: r.2.1, (l + 1, e) :: r.2.2)

/-- The entry that a die's walk cache holds for a VA at a level. -/
def State.wc? (s : State) (die ctx va level : Nat) : Option WcEnt :=
  s.mem.wcache.find? (fun w => w.die == die && w.ctx == ctx && w.level == level && w.idx == va / 2 ^ levelShift level)

/-- Where a walk starts: below the lowest cached table entry of levels 2 to 4, else at the root (R86). -/
def State.walkStart (s : State) (die ctx va : Nat) : Option (Nat × Nat) :=
  match s.wc? die ctx va 2, s.wc? die ctx va 3, s.wc? die ctx va 4 with
  | some w, _, _ => some (1, tableNext w.ent)
  | none, some w, _ => some (2, tableNext w.ent)
  | none, none, some w => some (3, tableNext w.ent)
  | none, none, none => (mget ctx s.mem.roots).map (fun r => (4, r))

/-- A whole walk; a context with no root table has no valid entry. -/
def State.walkNow (s : State) (die ctx va : Nat) : Found × List Nat × List (Nat × DWord) :=
  match s.walkStart die ctx va with
  | none => (.absent false, [], [])
  | some (l, pa) => s.descend va l pa

/-- The time of one step of a walk: the latency of the level that serves the table read (R86), or of the die that answers for an address
that does not exist (R32). -/
def State.stepTime (s : State) (die ctx pa : Nat) : Nat :=
  if paOk pa then s.readLatency (.slice (paStack pa / 3)) die none (pa / 64) ctx
  else if paStack pa < 12 then (if paStack pa / 3 = die then 140 else 260) else 140

/-- The time of a walk's steps, one after another (R86). -/
def State.walkTime (s : State) (die ctx : Nat) : List Nat → Nat
  | [] => 0
  | pa :: l => s.stepTime die ctx pa + s.walkTime die ctx l

/-- A walk that has met a table address that does not exist writes a PAOUT record (R32; ACCESS and ADDR: log 85). -/
def State.walkRecs (s : State) (ctx page : Nat) (pas : List Nat) : State :=
  if pas.all paOk then s else s.log ⟨0x010A, 0, ctx, 0xFFFF, 0xFFFF, BitVec.ofNat 64 (page * 65536), s.clk.now, 0, 0⟩

/-- A walk that starts marks the entry of the walk cache that it starts below as used (R86, R497). -/
def State.wcTouch (s : State) (die ctx va : Nat) : State :=
  match [2, 3, 4].find? (fun l => (s.wc? die ctx va l).isSome) with
  | none => s
  | some lv => { s with mem := { s.mem with wcache := s.mem.wcache.map (fun w =>
      if w.die = die ∧ w.ctx = ctx ∧ w.level = lv ∧ w.idx = va / 2 ^ levelShift lv then { w with last := s.clk.now } else w) } }

/-- Fills the walk cache with a table entry of levels 4 to 2. -/
def State.wcFill (s : State) (die ctx va level : Nat) (ent : DWord) : State :=
  if level < 2 then s else
    let l := s.mem.wcache.filter (fun w => !(w.die == die && w.ctx == ctx && w.level == level && w.idx == va / 2 ^ levelShift level))
    let here := l.filter (fun w => w.die == die)
    let l := if here.length < 1024 then l
      else match lruOf WcEnt.last here with
        | none => l
        | some v => dropFirst (fun w => w == v) l
    { s with mem := { s.mem with wcache := l ++ [⟨die, ctx, level, va / 2 ^ levelShift level, ent, s.clk.now⟩] } }

/-- The walk generation of a context on a die (R96). -/
def State.gen (s : State) (die ctx : Nat) : Nat := mgetD 0 (ctx * 4 + die) s.mem.gens

/-- What a walk that has ended leaves in the die's slice, walk cache and TLB. -/
def State.walkFill (s : State) (die ctx page gen : Nat) (w : Found × List Nat × List (Nat × DWord)) : State :=
  let s1 := (w.2.1.filter paOk).foldl (fun s pa => s.sliceFill (pa / 64) ctx false s.clk.now) (s.walkRecs ctx page w.2.1)
  let s2 := w.2.2.foldl (fun s e => s.wcFill die ctx (page * 65536) e.1 e.2) s1
  match w.1 with
  | .leaf e size => s2.tlbFill (.die die) ctx page size gen e
  | _ => s2

/-- Pages that `n` bytes from a virtual address lie on. -/
def pagesOf (va n : Nat) : List Nat := if n = 0 then [] else (List.range ((va + n - 1) / 65536 - va / 65536 + 1)).map (fun i => va / 65536 + i)

/-- What a command processor or an arriving RMA translates goes through the TLB and the walker of the die that serves it (R85): the
time of the walks that its misses make, one after another, and the buffers filled. A walk that finds no leaf adds no time (log 85). -/
def State.dieWalks (s : State) (die ctx : Nat) (pages : List Nat) : Nat × State :=
  pages.foldl (fun (r : Nat × State) page =>
    match r.2.lookup (.die die) die ctx page with
    | (some _, s1) => (r.1, s1)
    | (none, s1) =>
      let w := s1.walkNow die ctx (page * 65536)
      match w.1 with
      | .leaf _ _ => (r.1 + s1.walkTime die ctx w.2.1, (s1.wcTouch die ctx (page * 65536)).walkFill die ctx page (s1.gen die ctx) w)
      | _ => (r.1, s1.walkRecs ctx page w.2.1)) (0, s)

/-- A walk takes its first step now. -/
def State.walkBegin (s : State) (w : Nat) : State :=
  match mget w s.mem.walks with
  | none => s
  | some k =>
    let va := k.page * 65536
    let t := s.walkTime k.die k.ctx (s.walkNow k.die k.ctx va).2.1
    let s := { s with mem := { s.mem with walks := mput w { k with started := true, gen := s.gen k.die k.ctx } s.mem.walks } }
    (s.wcTouch k.die k.ctx va).sched (s.clk.now + t) .walkComplete w

/-- A miss: it joins an outstanding walk for its page, or takes one of the die's 64 places, or waits for one (R87). -/
def State.walkFor (s : State) (die ctx page : Nat) (x : Waiter) : State :=
  match s.mem.walks.find? (fun k => k.2.die == die && k.2.ctx == ctx && k.2.page == page) with
  | some k => { s with mem := { s.mem with walks := mput k.1 { k.2 with waiters := k.2.waiters ++ [x] } s.mem.walks } }
  | none =>
    let busy := (s.mem.walks.filter (fun k => k.2.die == die && k.2.started)).length
    let (n, s) := s.takeFresh
    let s := { s with mem := { s.mem with walks := mput n ⟨die, ctx, page, false, 0, [x]⟩ s.mem.walks } }
    if busy < 64 then s.walkBegin n else s

/-! ## Access checks on a leaf (R88) -/

/-- Kinds of access. -/
inductive AccKind where
  | read | write | atomic | exec
  deriving DecidableEq, Repr

/-- The first cause that a leaf gives an access; `none` when it passes. -/
def leafCause (k : AccKind) (e : DWord) : Option Nat :=
  let perm := match k with
    | .read => leafRd e
    | .write => leafWr e
    | .atomic => leafRd e && leafWr e
    | .exec => leafEx e
  let dirty := match k with
    | .write | .atomic => true
    | _ => false
  if !perm then some 0x0104
  else if leafHown e then some 0x0103
  else if !leafAcc e || (dirty && !leafDirty e) then some 0x0101
  else none

/-- The cause of what a walk has found. -/
def Found.cause (k : AccKind) : Found → Option Nat
  | .bad => some 0x0107
  | .absent true => some 0x0105
  | .absent false => some 0x0102
  | .leaf e _ => leafCause k e

/-- Causes that bounce: LIGHT, NOTPRES, MIGRATE (R88). -/
def bounces (c : Nat) : Bool := c == 0x0101 || c == 0x0102 || c == 0x0103

/-! ## Dropping translations (R89, R95, R96) -/

/-- Drops every TLB entry of a context that covers a page of a range. -/
def State.dropTlb (s : State) (ctx page n : Nat) : State :=
  { s with mem := { s.mem with tlb := s.mem.tlb.filter (fun e =>
      !(e.ctx == ctx && decide (e.page < page + n) && decide (page < e.page + pageBytes e.size / 65536))) } }

/-- Drops every walk-cache entry of a context on the walk path of a page of a range. -/
def State.dropWc (s : State) (ctx page n : Nat) : State :=
  { s with mem := { s.mem with wcache := s.mem.wcache.filter (fun w =>
      let span := 2 ^ (levelShift w.level - 16)
      !(w.ctx == ctx && decide (w.idx * span < page + n) && decide (page < w.idx * span + span))) } }

/-- Steps 1 and 2 of R95 for the pages of a range. -/
def State.invalidate (s : State) (ctx page n : Nat) : State :=
  let g := (List.range 4).foldl (fun m d => mput (ctx * 4 + d) ((mgetD 0 (ctx * 4 + d) m + 1) % 2 ^ 32) m) s.mem.gens
  ({ s with mem := { s.mem with gens := g } }.dropTlb ctx page n).dropWc ctx page n

/-! ## Fetch (R88, R381) -/

/-- What a fetch of a word gives. -/
inductive Fetch where
  | word (w : Word)
  | cause (c : Nat)
  | miss (page : Nat)
  deriving DecidableEq, Repr

/-- The buffer and die that a gang's fetches translate through. -/
def Gang.place (g : Gang) : Place :=
  match g.core with
  | none => .cluster g.cluster
  | some _ => .die g.die

/-- The fetch of one word; bits [63:60] of the address are ignored. -/
def State.fetchWord (s : State) (g : Gang) (ctx : Nat) (pc : DWord) : Fetch :=
  if !ptrOk pc then .cause 0x0108
  else
    let va := ptrVa pc
    match (s.lookup g.place g.die ctx (pageOf va)).1 with
    | none => .miss (pageOf va)
    | some e =>
      match leafCause .exec e.leaf with
      | some c => .cause c
      | none =>
        match s.placeOf ctx e.leaf e.size va with
        | none => .cause 0x0109
        | some a =>
          if leafPeer e.leaf = 0 ∧ !paOk (leafAddr e.leaf e.size va) then .cause 0x010A
          else .word (BitVec.ofNat 32 (ofBytes (readBytes s.mem.bytes (a / 4 * 4) 4)))

/-- Up to `n` words from an address; the first that is not there ends them. -/
def State.fetchWords (s : State) (g : Gang) (ctx : Nat) : DWord → Nat → List Word × Option Fetch
  | _, 0 => ([], none)
  | pc, n + 1 =>
    match s.fetchWord g ctx pc with
    | .word w => let r := s.fetchWords g ctx (pc + 4) n; (w :: r.1, r.2)
    | f => ([], some f)

end Sys2Proof.Machine
end

