-- ==== Sys2Proof/Machine/VMem.lean ====
section
/-! DEFINITION. Blocks as their homes keep them: the check code, poison, tags, writes with their leases and watches (R79, R199,
R217, R232, R233, R251, R270 to R272, R344), and accesses that engines and firmware make in a context. -/

namespace Sys2Proof.Machine

/-! ## The check code (R270, R271) -/

/-- Multiplication by α in GF(2^8). -/
def gfDouble (a : Nat) : Nat := if a < 128 then 2 * a else Nat.xor (2 * a) 0x11D

/-- a · α^n. -/
def gfMulPow (a : Nat) : Nat → Nat
  | 0 => a
  | n + 1 => gfDouble (gfMulPow a n)

/-- What a reader's decoder finds. -/
inductive Ecc where
  | clean
  | fix (pos : Nat) (val : Nat)
  | tagMis
  | misdir
  | uncorr
  deriving DecidableEq, Repr

/-- The syndromes of a list of errors by position. -/
def syndromes (l : List (Nat × Nat)) : Nat × Nat :=
  (l.foldl (fun s e => Nat.xor s e.2) 0, l.foldl (fun s e => Nat.xor s (gfMulPow e.2 e.1)) 0)

/-- The outcome of decoding a block with these errors. -/
def eccDecode (l : List (Nat × Nat)) : Ecc :=
  let s := syndromes l
  if s.1 = 0 ∧ s.2 = 0 then .clean
  else if s.1 = 0 ∨ s.2 = 0 then .uncorr
  else
    match (List.range 255).find? (fun p => gfMulPow s.1 p == s.2) with
    | none => .uncorr
    | some p =>
      if p < 66 ∨ p = 72 ∨ p = 73 then .fix p s.1
      else if p = 66 then .tagMis
      else if p < 72 then .misdir
      else .uncorr

/-- The stored errors of a block. -/
def State.flipsOf (s : State) (loc : Nat) : List (Nat × Nat) :=
  (s.mem.flips.filter (fun f => f.loc = loc)).map (fun f => (f.pos, f.val.toNat))

/-! ## What a home keeps of a block -/

/-- A block's descriptor (R217); the tag last stored (R79). -/
def State.descOf (s : State) (loc : Nat) : BitVec 16 := mgetD 0 loc s.mem.desc
def State.tagOf (s : State) (loc : Nat) : Nat := (mgetD 0 loc s.mem.tags).toNat

/-- A block is poisoned: e of its SE12 is 255 (R272). -/
def poisoned (d : BitVec 16) : Bool := seE (d.toNat % 4096) == 255

/-- A byte as it is stored, errors included. -/
def State.storedByte (s : State) (a : Nat) : Byte :=
  s.mem.flips.foldl (fun b f => if f.loc = a / 64 ∧ f.pos = a % 64 then b ^^^ f.val else b) (readByte s.mem.bytes a)

/-- `n` stored bytes from a place. -/
def State.stored (s : State) (a n : Nat) : List Byte := (List.range n).map (fun i => s.storedByte (a + i))

/-- The metadata symbols of a block as they are stored. -/
def State.storedDesc (s : State) (loc : Nat) : BitVec 16 :=
  s.mem.flips.foldl (fun (d : BitVec 16) (f : Flip) =>
    if f.loc = loc ∧ f.pos = 64 then d ^^^ (f.val.setWidth 16)
    else if f.loc = loc ∧ f.pos = 65 then d ^^^ ((f.val.setWidth 16) <<< 8) else d) (s.descOf loc)

/-- A place in the first 4,096 bytes of the management window, where writes are discarded (R55). -/
def windowZero (a : Nat) : Bool := a / 4096 == windowBase / 4096

def State.setDesc (s : State) (loc : Nat) (d : BitVec 16) : State :=
  if windowZero (loc * 64) then s
  else { s with mem := { s.mem with desc := mset 0 loc d s.mem.desc } }

def State.setTag (s : State) (loc tag : Nat) : State :=
  { s with mem := { s.mem with tags := mset 0 loc (BitVec.ofNat 4 tag) s.mem.tags } }

/-- Corrects a symbol and writes the block back; the die's counter rises (R271). -/
def State.eccFix (s : State) (loc pos val : Nat) : State :=
  let old := (s.mem.flips.find? (fun f => f.loc = loc ∧ f.pos = pos)).map Flip.val
  let new := (old.getD 0) ^^^ BitVec.ofNat 8 val
  let rest := s.mem.flips.filter (fun f => !(f.loc == loc && f.pos == pos))
  { s with
    mem := { s.mem with flips := if new = 0 then rest else rest ++ [⟨loc, pos, new⟩] }
    adm := { s.adm with corrected := lmod s.adm.corrected (paStack (loc * 64) / 3) (· + 1) } }

/-- A block found UNCORR or MISDIR is rewritten with its stored data and FMT, e = 255 and fresh check symbols (R272). -/
def State.eccPoison (s : State) (loc : Nat) : State :=
  let data := s.stored (loc * 64) 64
  let d := s.storedDesc loc ||| 0x0FF0
  let s1 := { s with mem := { s.mem with bytes := writeBytes s.mem.bytes (loc * 64) data, flips := s.mem.flips.filter (fun f => f.loc ≠ loc) } }
  s1.setDesc loc d

/-- A read of a block at its home decodes it, unless the die slice holds the line; the reader's tag stands at position 66 on a
page that checks tags. `none`: the tag does not match. `some true`: the block was just found UNCORR or MISDIR, with the cause. -/
def State.eccRead (s : State) (loc ctx : Nat) (tag : Option Nat) : Ecc × State :=
  let tagErr := match tag with
    | none => []
    | some t => [(66, Nat.xor t (s.tagOf loc))]
  let stored := if s.inSlice loc ctx then [] else s.flipsOf loc
  match eccDecode (stored ++ tagErr) with
  | .fix p v => (.fix p v, s.eccFix loc p v)
  | .misdir => (.misdir, s.eccPoison loc)
  | .uncorr => (.uncorr, s.eccPoison loc)
  | e => (e, s)

/-- Reads of a block find it clean, poisoned, or with a tag that does not match (R79, R271, R272): the block's stored bytes,
whether it is poisoned, the cause just found. -/
def State.readHome (s : State) (loc ctx : Nat) (tag : Option Nat) : List Byte × Bool × Option Nat × State :=
  let was := poisoned (s.descOf loc)
  match s.eccRead loc ctx tag with
  | (.uncorr, s1) => (s1.stored (loc * 64) 64, true, if was then none else some 0x0402, s1)
  | (.misdir, s1) => (s1.stored (loc * 64) 64, true, if was then none else some 0x0403, s1)
  | (_, s1) => (s1.stored (loc * 64) 64, poisoned (s1.descOf loc), none, s1)

/-! ## Writes at a home (R233, R251, R344) -/

/-- The record of a reservoir table (R339). -/
def State.resRec (s : State) (ctx idx : Nat) : List Byte :=
  (mget (ctx * 4096 + idx) s.work.res).getD (List.replicate 64 0)

/-- A record with its VERSION one higher. -/
def recBump (r : List Byte) : List Byte :=
  r.take 0x0C ++ toBytes 4 ((ofBytes ((r.drop 0x0C).take 4) + 1) % 2 ^ 32) ++ r.drop 0x10

/-- VERSION rises by 1 (R344), in the update that a protected team holds as well. -/
def State.bumpVersion (s : State) (ctx idx : Nat) : State :=
  let key := ctx * 4096 + idx
  { s with work := { s.work with
      res := mput key (recBump (s.resRec ctx idx)) s.work.res
      teams := s.work.teams.map (fun t => (t.1, { t.2 with prot := t.2.prot.map (fun p =>
        { p with recs := p.recs.map (fun x => if x.2.1 = key then (x.1, key, recBump x.2.2) else x) }) })) } }

/-- An accepted write to a watched block bumps the versions of its watchers. -/
def State.watchBump (s : State) (loc : Nat) : State :=
  (s.work.watches.filter (fun w => decide (w.loc ≤ loc ∧ loc < w.loc + w.cnt))).foldl (fun s w => s.bumpVersion w.ctx w.idx) s

/-- A version of the block begins, and watchers see it. -/
def State.newVersion (s : State) (loc : Nat) : State :=
  { s with mem := { s.mem with vers := mput loc (mgetD 0 loc s.mem.vers + 1) s.mem.vers } }.watchBump loc

/-- Bytes of one block are written at its home: stored errors at those bytes go, a version begins. -/
def State.writeAt (s : State) (a : Nat) (data : List (Option Byte)) : State :=
  let data := if windowZero a then data.map (fun _ => none) else data
  let n := data.length
  let hit := fun (f : Flip) => decide (f.loc = a / 64 ∧ a % 64 ≤ f.pos ∧ f.pos < a % 64 + n) &&
    ((data.getD (f.pos - a % 64) none).isSome)
  { s with mem := { s.mem with bytes := writeMasked s.mem.bytes a data, flips := s.mem.flips.filter (fun f => !hit f) } }.newVersion (a / 64)

/-- A block lies behind the connection of a peer or host. -/
def locFar (loc : Nat) : Bool := decide (2 ^ 64 ≤ loc * 64)

/-- A lease is that of a cluster of this 9400. -/
def Lease.ofCluster (l : Lease) (cl : Nat) : Bool := l.holder == cl && (!l.far || locFar l.loc)

/-- The GWCT of a write accepted now: the latest expiry of the unexpired leases that count, with 120 clk for one held on another device
than the home's (R226, R233, R239). -/
def State.gwctOf (s : State) (loc : Nat) (mine : Option Nat) : Nat :=
  s.mem.leases.foldl (fun t l =>
    if l.loc = loc ∧ s.clk.now < l.expiry ∧ !(mine.any l.ofCluster) then
      max t (l.expiry + (if l.far then 120 else 0)) else t) s.clk.now

/-! ## L1 lines (R226, R232, R497) -/

/-- Drops a block from a cluster's L1. -/
def State.dropL1 (s : State) (cl loc : Nat) : State :=
  { s with mem := { s.mem with l1 := s.mem.l1.filter (fun l => !(l.cluster == cl && l.loc == loc)) } }

/-- The line of a cluster's L1 that serves a context now. -/
def State.l1? (s : State) (cl loc ctx : Nat) : Option L1Line :=
  s.mem.l1.find? (fun l => l.cluster == cl && l.loc == loc && l.tenant == ctx && decide (s.clk.now < l.expiry))

/-- Fills on their way to a cluster's L1 that carry a version of a block older than `ver` deliver their data and no longer enter it (R226,
R229, R234). -/
def State.cancelFills (s : State) (cl loc ver : Nat) : State :=
  let old := fun (p : Part) => match p.line with
    | some l => l.cluster == cl && l.loc == loc && decide (l.ver < ver)
    | none => false
  if s.mem.reqs.any (fun r => r.2.parts.any old) then
    { s with mem := { s.mem with reqs := s.mem.reqs.map (fun r => (r.1, { r.2 with parts := r.2.parts.map (fun p =>
      if old p then { p with line := none } else p) })) } }
  else s

/-- The home accepts a write that a cluster has sent (R226): the cluster's line goes, its leases on the block are counted no more, and
what it has asked for of the block before no longer enters its L1. -/
def State.ownWrite (s : State) (mine : Option Nat) (loc : Nat) : State :=
  match mine with
  | none => s
  | some c =>
    let s1 := (s.dropL1 c loc).cancelFills c loc (mgetD 0 loc s.mem.vers + 1)
    { s1 with mem := { s1.mem with leases := s1.mem.leases.filter (fun l => !(l.loc == loc && l.ofCluster c)) } }

/-- A fill enters a cluster's L1 of 4,096 lines, replacing a held line only by a newer version. -/
def State.fillL1 (s : State) (x : L1Line) : State :=
  if s.mem.noFill.any (fun n => n.1 == x.cluster && n.2.1 == x.loc) || decide (x.expiry ≤ s.clk.now) then s
  else
    match s.mem.l1.find? (fun l => l.cluster == x.cluster && l.loc == x.loc && l.tenant == x.tenant) with
    | some old => if x.ver ≤ old.ver ∧ s.clk.now < old.expiry then s else
        { s with mem := { s.mem with l1 := s.mem.l1.map (fun l => if l = old then x else l) } }.sched x.expiry .leaseExpiry x.cluster x.loc
    | none =>
      let here := s.mem.l1.filter (fun l => l.cluster == x.cluster)
      let l := if here.length < 4096 then s.mem.l1
        else match here.find? (fun l => decide (l.expiry ≤ s.clk.now)) with
          | some v => dropFirst (fun l => l == v) s.mem.l1
          | none => match lruOf L1Line.last here with
            | none => s.mem.l1
            | some v => dropFirst (fun l => l == v) s.mem.l1
      { s with mem := { s.mem with l1 := l ++ [x] } }.sched x.expiry .leaseExpiry x.cluster x.loc

/-- LEASE_EXPIRY: the lines of a block whose lease has ended are dropped (R232). -/
def execLeaseExpiry (s : State) : Host.Outcome State Fault Refusal :=
  .next { s with mem := { s.mem with l1 := s.mem.l1.filter (fun l => !(l.cluster == s.clk.subj.a && l.loc == s.clk.subj.b && decide (l.expiry ≤ s.clk.now))) } }

/-- The home grants a lease for one copy of a block; one that has ended, or that ends no later for the same copy, is forgotten (R99). -/
def State.grantLease (s : State) (x : Lease) : State :=
  { s with mem := { s.mem with leases := s.mem.leases.filter (fun l => decide (s.clk.now < l.expiry) &&
      !(l.loc == x.loc && l.far == x.far && l.holder == x.holder && l.tenant == x.tenant && decide (l.expiry ≤ x.expiry))) ++ [x] } }

/-! ## Accesses of engines and firmware in a context -/

/-- The address of the leaf entry of a VA, whatever it holds. -/
def State.pteAddr (s : State) (ctx va : Nat) : Option Nat :=
  match mget ctx s.mem.roots with
  | none => none
  | some r => (s.descend va 4 r).2.1.getLast?

/-- Writes an 8-byte table entry. -/
def State.tableWrite (s : State) (pa : Nat) (e : DWord) : State :=
  { s with mem := { s.mem with bytes := writeBytes s.mem.bytes pa (toBytes 8 e.toNat) } }

/-- The memory processor serves a light fault (R89): ACC, for a write DIRTY, and the page's TLB entries go. -/
def State.lightServe (s : State) (ctx va : Nat) (write : Bool) : State :=
  match s.pteAddr ctx va, (s.walkNow 0 ctx va).1 with
  | some pa, .leaf e size =>
    let e1 := e ||| 0x40 ||| (if write then 0x20 else 0)
    let n := pageBytes size / 65536
    (s.tableWrite pa e1).dropTlb ctx (pageOf va / n * n) n
  | _, _ => s

/-- The leaf and the page size of a VA from the tables themselves. -/
def State.leafOf (s : State) (ctx va : Nat) : Found :=
  if isWindow ctx (pageOf va) then .leaf windowLeaf 0
  else
  match mget ctx s.mem.roots with
  | none => .absent false
  | some r => (s.descend va 4 r).1

/-- An engine's access to one block in a context: the leaf, its size code and the place, or the cause. -/
def State.access (s : State) (ctx : Nat) (k : AccKind) (ptr : DWord) : Except Nat (DWord × Nat × Nat) :=
  if !ptrOk ptr then .error 0x0108
  else
    let va := ptrVa ptr
    match s.leafOf ctx va with
    | .leaf e size =>
      match leafCause k e with
      | some c => .error c
      | none =>
        match s.placeOf ctx e size va with
        | none => .error 0x0109
        | some a => if leafPeer e = 0 ∧ !paOk (leafAddr e size va) then .error 0x010A else .ok (e, size, a)
    | f => .error ((f.cause k).getD 0x0102)

/-- Spans of at most a block that cover `n` bytes from an address. -/
def spans : Nat → Nat → Nat → List (Nat × Nat)
  | 0, _, _ => []
  | fuel + 1, a, n =>
    if n = 0 then []
    else
      let m := min n (64 - a % 64)
      (a, m) :: spans fuel (a + m) (n - m)

/-- The spans of `n` bytes. -/
def spansOf (a n : Nat) : List (Nat × Nat) := spans (n / 64 + 2) a n

/-- A pointer's tag does not match the tag of its block (R79). -/
def State.tagBad (s : State) (leaf ptr : DWord) (a : Nat) : Bool := leafTagck leaf && ptrTag ptr != s.tagOf (a / 64)

/-- A read in a context, by an agent that is not a gang: the bytes, all ones where a tag does not match or a block is poisoned, or the
first cause. What the read finds beside that is `State.readRecs`. -/
def State.vread (s : State) (ctx : Nat) (ptr : DWord) (n : Nat) : Except Nat (List Byte) :=
  (spansOf ptr.toNat n).foldl (fun r x =>
    match r with
    | .error c => .error c
    | .ok bs =>
      match s.access ctx .read (BitVec.ofNat 64 x.1) with
      | .error c => .error c
      | .ok p => .ok (bs ++ (if s.tagBad p.1 ptr p.2.2 || poisoned (s.descOf (p.2.2 / 64)) then List.replicate x.2 0xFF else s.stored p.2.2 x.2))) (.ok [])

/-- What a read by an agent that is not a gang finds at the homes of its blocks: a tag that does not match is recorded (R79), each
other block is decoded (R271, R272). -/
def State.readRecs (s : State) (ctx : Nat) (ptr : DWord) (n : Nat) : State :=
  (spansOf ptr.toNat n).foldl (fun s x =>
    let at_ := BitVec.ofNat 64 x.1
    match s.access ctx .read at_ with
    | .error _ => s
    | .ok p =>
      let rcd := fun (s : State) (c : Nat) => s.log ⟨c, 0, ctx, 0xFFFF, 0xFFFF, at_, s.clk.now, 0, 0⟩
      if s.tagBad p.1 ptr p.2.2 then rcd s 0x0106
      else match s.readHome (p.2.2 / 64) ctx (if leafTagck p.1 then some (ptrTag ptr) else none) with
        | (_, _, some c, s1) => rcd s1 c
        | (_, _, none, s1) => s1) s

/-- A write in a context, by an agent that is not a gang: at once, or the first cause; the bytes before it are written. What lies in a
block whose tag does not match is discarded with a record (R79). -/
def State.vwrite (s : State) (ctx : Nat) (ptr : DWord) (data : List Byte) : State × Option Nat :=
  let r := (spansOf ptr.toNat data.length).foldl (fun (r : State × Option Nat × List Byte) x =>
    match r.2.1 with
    | some c => (r.1, some c, [])
    | none =>
      let at_ := BitVec.ofNat 64 x.1
      match r.1.access ctx .write at_ with
      | .error c => (r.1, some c, [])
      | .ok p =>
        if x.2 != 64 && r.1.tagBad p.1 ptr p.2.2 then
          (r.1.log ⟨0x0106, 1, ctx, 0xFFFF, 0xFFFF, at_, s.clk.now, 0, 0⟩, none, r.2.2.drop x.2)
        else ((r.1.writeAt p.2.2 ((r.2.2.take x.2).map some)).setTag (p.2.2 / 64) (if leafTagck p.1 then ptrTag ptr else 0), none, r.2.2.drop x.2)) (s, none, data)
  (r.1, r.2.1)

/-- The access of a service to a buffer: light faults are served and the call goes on (R93). -/
def State.lightAll (s : State) (ctx : Nat) (k : AccKind) (ptr : DWord) (n : Nat) : State :=
  (spansOf ptr.toNat n).foldl (fun s x => match s.access ctx k (BitVec.ofNat 64 x.1) with
    | .error c => if c = 0x0101 then s.lightServe ctx (ptrVa (BitVec.ofNat 64 x.1)) (k != .read) else s
    | .ok _ => s) s

end Sys2Proof.Machine
end

