-- ==== Sys2Proof/Machine/Areas.lean ====
section
/-! DEFINITION. The ownership table of granules, and the areas that firmware takes from them (R92, R496). A granule is numbered
2^20 stack + its place on the stack, so that its first byte lies at 65,536 times its number. -/

namespace Sys2Proof.Machine

/-- The place of the partial granule at the end of a stack, which is always firmware-owned (R92). -/
def lastGranule : Nat := 915527

/-- The partition that a stack belongs to (R97). -/
def State.stackPart (s : State) (stack : Nat) : Nat := ((List.range 8).find? (fun p => (s.partStacks p).contains stack)).getD 0

/-- The entry of a granule: its PART is the partition of its stack. -/
def State.ownerOf (s : State) (g : Nat) : BitVec 16 :=
  (if g % 2 ^ 20 = lastGranule then 0x4000 else mgetD 0 g s.mem.owner) ||| BitVec.ofNat 16 (s.stackPart (g / 2 ^ 20) * 2 ^ 11)

def ownAlloc (e : BitVec 16) : Bool := e.getLsbD 15
def ownFw (e : BitVec 16) : Bool := e.getLsbD 14
def ownPart (e : BitVec 16) : Nat := bits e.toNat 11 3
def ownCtx (e : BitVec 16) : Nat := bits e.toNat 5 6

/-- An entry from its fields. -/
def ownEntry (alloc fw : Bool) (part ctx : Nat) : BitVec 16 :=
  BitVec.ofNat 16 ((if alloc then 2 ^ 15 else 0) + (if fw then 2 ^ 14 else 0) + part % 8 * 2 ^ 11 + ctx % 64 * 2 ^ 5)

/-- An entry is written; PART follows from the partitions. -/
def State.setOwner (s : State) (g : Nat) (e : BitVec 16) : State :=
  { s with mem := { s.mem with owner := mset 0 g (e &&& 0xC7FF) s.mem.owner } }

/-- The lowest place from `cur` on before which `n` granules are free, among the ascending places taken. -/
def gapOf (n : Nat) : Nat → List Nat → Option Nat
  | cur, [] => if cur + n ≤ lastGranule then some cur else none
  | cur, x :: l => if cur + n ≤ x then some cur else gapOf n (max cur (x + 1)) l

/-- `n` adjacent free granules of a stack, the lowest (log 20). -/
def State.areaOn (s : State) (n stack : Nat) : Option Nat :=
  let taken := (s.mem.owner.filter (fun x => x.1 / 2 ^ 20 == stack && (ownAlloc x.2 || ownFw x.2))).map (fun x => x.1 % 2 ^ 20)
  (gapOf n 0 taken).map (fun g => stack * 2 ^ 20 + g)

/-- Firmware takes an area for a context, on a stack of the die first (R136, R496): its first granule and how many. -/
def State.areaTake (s : State) (ctx die bytes : Nat) : Option ((Nat × Nat) × State) :=
  let n := (bytes + 65535) / 65536
  let st := s.partStacks (s.partOf ctx)
  let order := st.filter (fun x => x / 3 == die) ++ st.filter (fun x => x / 3 != die)
  (order.findSome? (s.areaOn n)).map (fun g =>
    ((g, n), (List.range n).foldl (fun s i => s.setOwner (g + i) (ownEntry false true (s.partOf ctx) ctx)) s))

/-- An area is freed. -/
def State.areaFree (s : State) (a : Nat × Nat) : State :=
  (List.range a.2).foldl (fun s i => s.setOwner (a.1 + i) 0) s

end Sys2Proof.Machine
end

