-- ==== Sys2Proof/Machine/Cistern.lean ====
section
/-! DEFINITION. Cisterns: bounces, wakes and the reissue port (R106, R202, R207 to R212, R220, R221). -/

namespace Sys2Proof.Machine

/-- A number for the place a gang issues from: its cluster, or 1,000 and its control core. -/
def Gang.port (g : Gang) : Nat :=
  match g.core with
  | none => g.cluster
  | some c => 1000 + c

/-- The sluice interval of a queue class for a context's partition (R203, R204). -/
def State.sluiceOf (s : State) (ctx cls : Nat) : Nat := mgetD 512 (s.partOf ctx * 8 + cls) s.mem.sluice

/-- The reissue port of a place works from now on, one entry a clk (R211). -/
def State.kickReissue (s : State) (port : Nat) : State :=
  let at_ := match mget port s.mem.reissued with
    | some t => max s.clk.now (t + 1)
    | none => s.clk.now
  if s.clk.agenda.any (fun i => i.ev == .reissue && i.subj.a == port && decide (i.due ≤ at_)) then s
  else s.sched at_ .reissue port

/-- Wakes the parts in cisterns that a predicate names: request number, request, part. -/
def State.wakeWhere (s : State) (f : Nat → Req → Part → Bool) : State :=
  let hit := fun (r : Nat) (q : Req) (p : Part) => (match p.st with
    | .cistern _ _ _ => true
    | _ => false) && f r q p
  let ports := (s.mem.reqs.filter (fun r => r.2.parts.any (hit r.1 r.2))).filterMap (fun r => (s.gang? r.2.gang).map Gang.port)
  let reqs := s.mem.reqs.map (fun r => (r.1, { r.2 with parts := r.2.parts.map (fun p =>
    if hit r.1 r.2 p then { p with st := .woken s.clk.now } else p) }))
  ports.foldl State.kickReissue { s with mem := { s.mem with reqs := reqs } }

/-- A part waits in its owner's cistern. BTIME keeps the first bounce (R208, R221). -/
def State.park (s : State) (r b cause key qclass : Nat) : State :=
  s.modReq r (fun q => { q with
    btime := if q.btime = 0 then s.clk.now else q.btime
    parts := lmod q.parts b (fun p => { p with st := .cistern cause key qclass, till := none, qc := if qclass = 0xFF then p.qc else qclass }) })

/-- A bounce out of a shared queue of a class (R202, R209): SLUICE, woken when the interval has passed again. -/
def State.bounceSluice (s : State) (r b ctx cls : Nat) : State :=
  let key := s.clk.now + s.sluiceOf ctx cls
  (s.park r b 0x0301 key cls).sched key .cisternWake r

/-! ## Copies and tile operations in cisterns (R208, R211, R221, R336, R484) -/

/-- What a copy or tile operation shows of its bounce and its entry. -/
abbrev OpBounce := Option (Nat × Nat × Nat) × OpEnt

/-- Changes the bounces and entries of all copies and tile operations, by gang and number. -/
def State.mapOps (s : State) (f : Nat → Nat → OpBounce → OpBounce) : State :=
  let tile := fun (o : TileOp) => let x := f o.gang o.id (o.bounce, o.ent); { o with bounce := x.1, ent := x.2 }
  let copy := fun (o : CopyOp) => let x := f o.gang o.id (o.bounce, o.ent); { o with bounce := x.1, ent := x.2 }
  { s with work := { s.work with
      engines := s.work.engines.map (fun e => (e.1, { e.2 with ops := e.2.ops.map tile }))
      teams := s.work.teams.map (fun t => (t.1, { t.2 with tops := t.2.tops.map tile }))
      copies := s.work.copies.map (fun c => (c.1, c.2.map copy)) } }

/-- All copies and tile operations: gang, number, bounce and entry. -/
def State.allOps (s : State) : List (Nat × Nat × OpBounce) :=
  s.work.copies.flatMap (fun c => c.2.map (fun o => (o.gang, o.id, o.bounce, o.ent))) ++
  s.work.engines.flatMap (fun e => e.2.ops.map (fun o => (o.gang, o.id, o.bounce, o.ent))) ++
  s.work.teams.flatMap (fun t => t.2.tops.map (fun o => (o.gang, o.id, o.bounce, o.ent)))

def State.op? (s : State) (id : Nat) : Option (Nat × Nat × OpBounce) := s.allOps.find? (fun o => o.2.1 == id)

/-- The entry of an operation that bounces: BTIME keeps the first bounce, QCLASS the latest one out of a shared queue (R221). -/
def OpEnt.enter (e : OpEnt) (now cls : Nat) : OpEnt :=
  { e with btime := if e.btime = 0 then now else e.btime, qc := if cls = 0xFF then e.qc else cls, woken := none, till := none }

/-- Wakes the copies and tile operations in cisterns that a predicate names by number, context, team and bounce; they wait for the
reissue port of their gang's place (R211). -/
def State.wakeOps (s : State) (f : Nat → Nat → Nat → Nat × Nat × Nat → Bool) : State :=
  let hit := fun (k id : Nat) (b : OpBounce) => match b.1, s.gang? k with
    | some x, some g => b.2.woken.isNone && f id (s.ctxOf g) g.team x
    | _, _ => false
  let ports := (s.allOps.filter (fun o => hit o.1 o.2.1 o.2.2)).filterMap (fun o => (s.gang? o.1).map Gang.port)
  if ports = [] then s
  else ports.foldl State.kickReissue (s.mapOps (fun k id b => if hit k id b then (b.1, { b.2 with woken := some s.clk.now }) else b))

/-- A copy or tile operation that waits in a shared queue has reached the interval of its wait (R202), or the queue serves it. -/
def State.opSluiced (s : State) (id : Nat) : State :=
  match s.op? id with
  | none => s
  | some (k, _, b) =>
    let ctx := ((s.gang? k).map s.ctxOf).getD 0
    let set := fun (s : State) (x : OpBounce) => s.mapOps (fun _ i y => if i = id then x else y)
    match b.1, b.2.till with
    | some (0x0300, _, _), some (_, t) => if t ≤ s.clk.now then set s (some (0x0301, 0, 2), b.2.enter s.clk.now 2) else s
    | some (0x02FF, free, _), some (c, t) =>
      if t ≤ s.clk.now then
        let key := s.clk.now + s.sluiceOf ctx c
        (set s (some (0x0301, key, c), b.2.enter s.clk.now c)).sched key .cisternWake id
      else if free ≠ 0 ∧ free ≤ s.clk.now then set s (none, b.2)
      else s
    | none, _ =>
      -- a copy in the queue of its engine
      match s.work.copies.findSome? (fun c => c.2.find? (fun o => o.id == id)) with
      | none => s
      | some o =>
        if o.start.isNone ∧ o.queued.1 + o.queued.2 ≤ s.clk.now then
          let key := s.clk.now + s.sluiceOf ctx 3
          (set s (some (0x0301, key, 3), b.2.enter s.clk.now 3)).sched key .cisternWake id
        else s
    | _, _ => s

/-- A request that waits in the queue of a unit has reached the interval of its wait: it enters its gang's cistern (R202, R474). -/
def State.uncSluiced (s : State) (id : Nat) : State :=
  match mget id s.work.uncs with
  | none => s
  | some u =>
    if u.ent.btime ≠ 0 ∨ !(u.ent.till.any (fun t => decide (t.2 ≤ s.clk.now))) then s
    else
      let key := s.clk.now + s.sluiceOf (((s.gang? u.gang).map s.ctxOf).getD 0) 7
      { s with work := { s.work with uncs := mput id { u with cause := 0x0301, key := BitVec.ofNat 64 key, ent := { u.ent.enter s.clk.now 7 with till := none } } s.work.uncs } }

/-- An operation waits for the walk of a page (cause 0x0300), or in a shared queue that serves it at clk `b.2.1` (0x02FF; 0: not known). The
wait keeps the interval that its queue had when it entered (R202, R204). -/
def State.opStall (s : State) (id : Nat) (b : Nat × Nat × Nat) : State :=
  match s.op? id with
  | none => s
  | some (k, _, x) =>
    let ctx := ((s.gang? k).map s.ctxOf).getD 0
    let old := x.2.till.bind (fun t => if t.1 = b.2.2 then some t.2 else none)
    let till := old.getD (s.clk.now + s.sluiceOf ctx b.2.2)
    let s1 := s.mapOps (fun _ i y => if i = id then (some b, { y.2 with till := some (b.2.2, till) }) else y)
    let s2 := if old.isSome then s1 else s1.sched till .sluiceBounce id 0 1
    match b.1, s2.gang? k with
    | 0x0300, some g => s2.walkFor g.die ctx b.2.1 (.op id)
    | _, _ => if b.2.1 ≠ 0 ∧ b.2.1 < till then s2.sched b.2.1 .sluiceBounce id 0 1 else s2

/-- A walk that an operation waits for has ended (R206): it goes on, or its entry is woken; what the walk found it meets when it looks at
the page again (log 42). -/
def State.walkOp (s : State) (id page : Nat) (leaf : Bool) : State :=
  match s.op? id with
  | none => s
  | some (_, _, b) =>
    let s1 := if leaf then s else { s with work := { s.work with owalk := mput id page s.work.owalk } }
    match b.1 with
    | some (0x0300, p, _) => if p = page then s1.mapOps (fun _ i y => if i = id then (none, { y.2 with till := none }) else y) else s
    | some (0x0301, 0, 2) => s1.wakeOps (fun i _ _ x => i == id && x == (0x0301, 0, 2))
    | _ => s

/-- CISTERN_WAKE: the timers of a request's parts that have run out, and the parts that chained behind a request that is done
(R209). `c` 1: the wake of an order gate arrives (R292). -/
def execCisternWake (s : State) : Host.Outcome State Fault Refusal :=
  let r := s.clk.subj.a
  if s.clk.subj.c = 1 then .next (s.wakeWhere (fun n _ p => n == r && (match p.st with
    | .cistern 0x0305 _ _ => true
    | _ => false)))
  else .next ((s.wakeWhere (fun n _ p => match p.st with
    | .cistern 0x0301 key _ => n == r && key != 0 && decide (key ≤ s.clk.now)
    | .cistern 0x0302 key _ => key == r && (s.req? r).isNone
    | _ => false)).wakeOps (fun id _ _ b => id == r && b.1 == 0x0301 && b.2.1 != 0 && decide (b.2.1 ≤ s.clk.now)))

end Sys2Proof.Machine
end

