-- ==== Sys2Proof/Machine/Sessions.lean ====
section
/-! DEFINITION. Record and replay sessions: ids, die logs, order gates, checkpoints and divergence (R281 to R293). -/

namespace Sys2Proof.Machine

/-- The launch of a gang. -/
def State.launchOf (s : State) (g : Gang) : Option Launch :=
  match s.team? g.team with
  | none => none
  | some t => match t.src with
    | .launch lid => mget lid s.work.launches
    | .task _ => none

/-- The session that covers a gang's launch, with the context and the launch's index in it (R281). -/
def State.sessOf (s : State) (g : Gang) : Option (Nat × Nat × Sess) :=
  match s.launchOf g with
  | none => none
  | some l => match l.sess, mget l.ctx s.adm.sess with
    | some n, some x => if n.1 = x.serial then some (l.ctx, n.2, x) else none
    | _, _ => none

def State.modSess (s : State) (ctx : Nat) (f : Sess → Sess) : State :=
  { s with adm := { s.adm with sess := mmod ctx f s.adm.sess } }

/-- A stop request reaches a gang (R139). -/
def Gang.ask (g : Gang) (now : Nat) : Gang :=
  match g.stop with
  | .run => { g with stop := .asking (max 1 now) }
  | _ => g

/-- Stops every team of a session's launches as a debug stop, wherever their gangs are outside runs (R194, R289). -/
def State.stopSession (s : State) (ctx serial : Nat) : State :=
  let lids := (s.work.launches.filter (fun l => l.2.ctx == ctx && (l.2.sess.map Prod.fst) == some serial)).map Prod.fst
  let mine := s.work.teams.filter (fun t => match t.2.src with
    | .launch l => lids.contains l
    | .task _ => false)
  mine.foldl (fun s t => t.2.gangs.foldl (fun s k => s.modGang k (fun g => match g.stop with
    | .run => { g with stop := .asked 0 }
    | _ => g)) s) s

/-- A write of a session by a die goes on its way to its home; it performs there with the latency of a store (R291). -/
def State.sessPut (s : State) (ctx die : Nat) (a : DWord) (data : List Byte) : State :=
  let way := fun (at_ : DWord) => match s.access ctx .write at_ with
    | .ok (leaf, size, _) => ((s.homeOf ctx die leaf size (ptrVa at_)).map (fun h => h.oneWay die none)).getD 0
    | .error _ => 0
  let parts := (spansOf a.toNat data.length).map (fun y =>
    (s.clk.now + way (BitVec.ofNat 64 y.1), die, BitVec.ofNat 64 y.1, (data.drop (y.1 - a.toNat)).take y.2))
  s.modSess ctx (fun x => { x with late := x.late ++ parts })

/-- Recording stops: an area is full (R283). -/
def State.sessFull (s : State) (ctx die : Nat) : State :=
  match mget ctx s.adm.sess with
  | none => s
  | some x => (s.sessPut ctx die (x.buf + 1) [2]).modSess ctx (fun x => { x with full := true })

/-- Writes of a session that have arrived at their homes perform; a recording of which one fails has filled the area (R282, R291). -/
def State.sessTick (s : State) (ctx : Nat) (x : Sess) : State :=
  let due := x.late.filter (fun w => decide (w.1 ≤ s.clk.now))
  if due = [] then s
  else
    due.foldl (fun (s : State) w =>
      match s.vwrite ctx w.2.2.1 w.2.2.2, mget ctx s.adm.sess with
      | (s1, some _), some y => if y.replay || y.full then s1 else s1.sessFull ctx w.2.1
      | (s1, _), _ => s1) (s.modSess ctx (fun y => { y with late := y.late.filter (fun w => decide (s.clk.now < w.1)) }))

/-- A divergence (R287, R288, R289, R293): the first one is written, later ones are not. -/
def State.diverge (s : State) (ctx kind die : Nat) (gang : Option (Nat × Gang)) (pc : DWord) (want found : Nat) (sq : Nat)
    (runpc : DWord) : State :=
  match mget ctx s.adm.sess with
  | none => s
  | some x =>
    if x.diverged then s
    else
      let id := match gang with
        | none => 0xFFFF
        | some g => (mget g.1 x.ids).getD 0xFFFF
      let div := toBytes 2 kind ++ toBytes 2 die ++ toBytes 4 id ++ toBytes 8 pc.toNat ++ toBytes 8 want ++ toBytes 8 found ++
        toBytes 8 sq ++ toBytes 8 s.clk.now ++ List.replicate 16 0
      let from_ := match gang with
        | none => die % 4
        | some g => if die < 4 then die else g.2.die
      let s2 := (s.sessPut ctx from_ (x.buf + 1) [3]).sessPut ctx from_ (x.buf + 0x40) div
      let place := match gang with
        | none => (0xFFFF, 0xFFFF)
        | some g => g.2.recPlace
      let live := match gang with
        | none => 0
        | some g => g.2.live
      let s3 := s2.log ⟨0x0405, 10, ctx, place.1, place.2, pc, s.clk.now, live, runpc.setWidth 32⟩
      let s4 := s3.modSess ctx (fun x => { x with diverged := true })
      if x.stopdiv then s4.stopSession ctx x.serial
      else s4.wakeWhere (fun _ q p => q.ctx == ctx && (match p.st with
        | .cistern 0x0305 _ _ => true
        | _ => false))

/-- The GTAB entry of a gang (R283). -/
def gtabEntry (launch teamid gangid : Nat) : Nat := launch % 2 ^ 16 * 2 ^ 48 + teamid % 2 ^ 40 * 2 ^ 8 + gangid % 32

/-- A gang's first instruction under a session (R283, R291): it takes an id, or finds the one of its entry. -/
def State.sessEnter (s : State) (k : Nat) : State :=
  match s.gang? k with
  | none => s
  | some g =>
    match s.sessOf g with
    | none => s
    | some (ctx, idx, x) =>
      if (mget k x.ids).isSome || x.full || x.diverged then s
      else
        let e := gtabEntry idx (((s.team? g.team).map Team.teamid).getD 0) g.gangid
        if x.replay then
          match s.vread ctx (x.buf + 0x80) 32768, s.vread ctx (x.buf + 4) 4 with
          | .ok bs, .ok nb =>
            match (List.range (min 4096 (ofBytes nb))).find? (fun i => ofBytes ((bs.drop (8 * i)).take 8) == e) with
            | some i => s.modSess ctx (fun x => { x with ids := mput k i x.ids })
            | none => s.diverge ctx 2 0xFF none 0 0 0 0 0
          | _, _ => s.diverge ctx 2 0xFF none 0 0 0 0 0
        else if 4096 ≤ x.ngang then s.sessFull ctx g.die
        else
          let s1 := s.modSess ctx (fun x => { x with ids := mput k x.ngang x.ids, ngang := x.ngang + 1 })
          (s1.sessPut ctx g.die (x.buf + 0x80 + BitVec.ofNat 64 (8 * x.ngang)) (toBytes 8 e)).sessPut ctx g.die (x.buf + 4) (toBytes 4 (x.ngang + 1))

/-- An accepted atomic request of a recording enters its die's log (R284). -/
def State.sessRecord (s : State) (ctx die : Nat) (x : Sess) (id : Nat) : State :=
  let last := x.last.getD die (0xFFFF, 0)
  let n := x.lcnt.getD die 0
  let base := x.buf + BitVec.ofNat 64 (x.loff + 4 * x.lwords * die)
  if last.1 = id ∧ last.2 < 4095 ∧ 0 < n then
    (s.modSess ctx (fun x => { x with last := lset x.last die (id, last.2 + 1) })).sessPut ctx die (base + BitVec.ofNat 64 (4 * (n - 1)))
      (toBytes 4 (id * 4096 + last.2 + 1))
  else if x.lwords ≤ n then s.sessFull ctx die
  else
    let s1 := s.modSess ctx (fun x => { x with last := lset x.last die (id, 1), lcnt := lset x.lcnt die (n + 1) })
    (s1.sessPut ctx die (base + BitVec.ofNat 64 (4 * n)) (toBytes 4 (id * 4096 + 1))).sessPut ctx die (x.buf + BitVec.ofNat 64 (0x28 + 4 * die)) (toBytes 4 (n + 1))

/-- The current word of a die's log in a replay; `none` where the log is used up or cannot be read. -/
def State.gateWord (s : State) (ctx die : Nat) (x : Sess) : Option Nat :=
  match s.vread ctx (x.buf + BitVec.ofNat 64 (0x28 + 4 * die)) 4 with
  | .error _ => none
  | .ok c =>
    let i := x.word.getD die 0
    if ofBytes c ≤ i then none
    else match s.vread ctx (x.buf + BitVec.ofNat 64 (x.loff + 4 * x.lwords * die + 4 * i)) 4 with
      | .error _ => none
      | .ok w => some (ofBytes w)

/-- The wake of a gate reaches the owners of the requests that wait with ORDER, one way from the die (R292). -/
def State.orderWake (s : State) (die : Nat) (f : Req → Part → Bool) : State :=
  (s.mem.reqs.filter (fun r => r.2.parts.any (f r.2))).foldl (fun (s : State) r => match s.gang? r.2.gang with
    | none => s
    | some g => s.sched (s.clk.now + (Home.slice die).oneWay g.die (if g.core.isSome then none else some g.cluster)) .cisternWake r.1 0 1) s

/-- An admission by a die's gate takes one from LEN; at 0 the gate moves on and wakes the requests that its new word names
(R285, R292); once the replay has diverged it wakes none until the session ends (R289). -/
def State.gateTake (s : State) (ctx die : Nat) (x : Sess) (word : Nat) : State :=
  let left := (if x.left.getD die 0 = 0 then word % 4096 else x.left.getD die 0) - 1
  let s1 := s.modSess ctx (fun x => { x with left := lset x.left die left, moved := lset x.moved die s.clk.now })
  if left ≠ 0 then s1
  else
    let s2 := s1.modSess ctx (fun x => { x with word := lset x.word die (x.word.getD die 0 + 1) })
    match if x.diverged then none else (mget ctx s2.adm.sess).bind (fun y => s2.gateWord ctx die y) with
    | none => s2
    | some w => s2.orderWake die (fun q p => q.ctx == ctx && (match p.st with
        | .cistern 0x0305 d _ => d == die && (mget q.gang x.ids) == some (w / 4096 % 4096)
        | _ => false))

/-- What a die's gate says to an atomic request of a gang: it may go on, or it bounces with ORDER. A divergence opens the gates, but with
STOPDIV they go on as they were (R289). -/
def State.gate (s : State) (k : Nat) (g : Gang) (die : Nat) (pc runpc : DWord) : Bool × State :=
  match s.sessOf g with
  | none => (true, s)
  | some (ctx, _, x) =>
    if x.diverged && !x.stopdiv then (true, s)
    else if x.full then (true, s)
    else
      match mget k x.ids with
      | none => (true, s)
      | some id =>
        if !x.replay then (true, s.sessRecord ctx die x id)
        else
          match s.gateWord ctx die x with
          | none => (!x.stopdiv, s.diverge ctx 3 die (some (k, g)) pc 0 id (x.word.getD die 0) runpc)
          | some w => if w / 4096 % 4096 = id then (true, s.gateTake ctx die x w) else (false, s)

/-- The checkpoint that a session compares with (R286): the STOREHASH recorded for an id and a SEQ. -/
def State.findCheckpoint (s : State) (ctx : Nat) (x : Sess) (id sq : Nat) : Option Nat :=
  match s.vread ctx (x.buf + 0x10) 4 with
  | .error _ => none
  | .ok n => (List.range (min x.hmax (ofBytes n))).findSome? (fun i =>
      match s.vread ctx (x.buf + BitVec.ofNat 64 (x.hoff + 16 * i)) 16 with
      | .ok r => if ofBytes (r.take 2) = id ∧ ofBytes ((r.drop 4).take 4) = sq then some (ofBytes (r.drop 8)) else none
      | .error _ => none)

/-- A checkpoint of a covered gang at PMARK or EXIT (R286, R291). -/
def State.checkpoint (s : State) (k : Nat) (g : Gang) (pc : DWord) : State :=
  match s.sessOf g with
  | none => s
  | some (ctx, _, x) =>
    if x.full || x.diverged then s
    else
      match mget k x.ids with
      | none => s
      | some id =>
        let sq := mgetD 0 k x.seqs
        let s1 := s.modSess ctx (fun x => { x with seqs := mput k (sq + 1) x.seqs })
        if x.replay then
          match s.findCheckpoint ctx x id sq with
          | none => s1.diverge ctx 2 0xFF (some (k, g)) pc 0 g.storehash.toNat sq 0
          | some h => if h = g.storehash.toNat then s1 else s1.diverge ctx 1 0xFF (some (k, g)) pc h g.storehash.toNat sq 0
        else if x.hmax ≤ x.hcnt then s1.sessFull ctx g.die
        else
          let s2 := s1.modSess ctx (fun x => { x with hcnt := x.hcnt + 1 })
          (s2.sessPut ctx g.die (x.buf + BitVec.ofNat 64 (x.hoff + 16 * x.hcnt)) (toBytes 4 id ++ toBytes 4 sq ++ toBytes 8 g.storehash.toNat)).sessPut
            ctx g.die (x.buf + 0x10) (toBytes 4 (x.hcnt + 1))

/-- A gang exits while a die's current word names it (R287, KIND 4). -/
def State.sessExit (s : State) (k : Nat) (g : Gang) (pc : DWord) : State :=
  let s1 := s.checkpoint k g pc
  match s1.sessOf g with
  | none => s1
  | some (ctx, _, x) =>
    match mget k x.ids with
    | none => s1
    | some id =>
      if !x.replay || x.diverged then s1
      else
        match (List.range 4).find? (fun d => match s1.gateWord ctx d x with
          | some w => w / 4096 % 4096 == id
          | none => false) with
        | none => s1
        | some d => s1.diverge ctx 4 d (some (k, g)) pc ((s1.gateWord ctx d x).getD 0) id (x.word.getD d 0) 0

/-- PMARK (R403). -/
def execPmark (p : Pred) (s : State) : Host.Outcome State Fault Refusal :=
  s.uni p fun x => (s.checkpoint x.k x.g x.pc).pass x

/-- REPLAY_STALL (R287, KIND 5): a gate has admitted nothing for 1,200,000 clk while an ORDER entry waits on it. -/
def execReplayStall (s : State) : Host.Outcome State Fault Refusal :=
  let ctx := s.clk.subj.a
  let die := s.clk.subj.b
  match mget ctx s.adm.sess with
  | none => .next s
  | some x =>
    let waits := s.mem.reqs.any (fun r => r.2.ctx == ctx && r.2.parts.any (fun p => match p.st with
      | .cistern 0x0305 d _ => d == die
      | _ => false))
    if !waits || x.diverged then .next s
    else
      let due := x.moved.getD die 0 + 1200000
      if s.clk.now < due then .next (s.sched due .replayStall ctx die)
      else .next (s.diverge ctx 5 die none 0 ((s.gateWord ctx die x).getD 0) 0xFFFF (x.word.getD die 0) 0)

end Sys2Proof.Machine
end

