-- ==== Sys2Proof/WellFormed.lean ====
section
/-! DEFINITION. Which instructions have an encoding: the restrictions of R355, R360, R363, R365, R370, R433, R439
and R456 that the types of `Instr` do not already say. -/

namespace Sys2Proof

/-- Packed-pair types (R361). -/
def Ty.isX2 : Ty → Bool
  | .bf16x2 | .f16x2 | .n16x2 | .i16x2 => true
  | _ => false

/-- Integer types, packed pairs included. -/
def Ty.isInt : Ty → Bool
  | .n32 | .i32 | .n64 | .i64 | .n16x2 | .i16x2 | .n8 | .i8 | .n16 | .i16 => true
  | _ => false

/-- Narrow floats (R299). -/
def Ty.isNarrow : Ty → Bool
  | .e4m3 | .e5m2 | .e2m1 => true
  | _ => false

/-- F64, F32, BF16, F16 or an `.x2` of the last two (R433 FTZ). -/
def Ty.isWide : Ty → Bool
  | .f64 | .f32 | .bf16 | .f16 | .bf16x2 | .f16x2 => true
  | _ => false

/-- CVT takes the packing form (R433). -/
def cvtPacks (dty sty : Ty) : Bool := dty.isX2 && (sty == .f32 || sty == .n32 || sty == .i32)

/-- The pairs of types CVT assigns (R433). -/
def cvtOk (dty sty : Ty) : Bool := dty != sty && (dty.isX2 == sty.isX2 || cvtPacks dty sty)

/-- CVT takes `.ftz` (R433). -/
def cvtFtz (dty sty : Ty) : Bool := dty.isWide || sty.isWide

/-- CVT takes `.sat` (R433). -/
def cvtSat (dty : Ty) : Bool := dty.isInt || dty.isNarrow

/-- The S codes a cas may name (R456): a V or T register, not T7, and not T6 for `.n64`. -/
def casOk (sz : SZ) (c : Nat) : Bool := decide (c < 120) && c != 119 && (sz != .n64 || c != 118)

/-- How many lane operands name the literal. -/
def lCount : List LSrc → Nat
  | [] => 0
  | .lit _ :: r => 1 + lCount r
  | _ :: r => lCount r

/-- How many uniform operands name the literal. -/
def uCount : List USrc → Nat
  | [] => 0
  | .lit _ :: r => 1 + uCount r
  | _ :: r => uCount r

def LSrc.isLit : LSrc → Bool
  | .lit _ => true
  | _ => false

def optIsLit : Option LSrc → Bool
  | some (.lit _) => true
  | _ => false

def optL : Option LSrc → List LSrc
  | none => []
  | some s => [s]

def offCount : Option Word → Nat
  | none => 0
  | some _ => 1

def UOff.count : UOff → Nat
  | .imm _ => 0
  | .lit _ => 1

/-- Scopes a scratchpad ordering takes (R451). -/
def spadScope : Option Scope → Bool
  | none => true
  | some .gang => true
  | some .team => true
  | _ => false

/-- A cas operand is a V or T register, not T7, and not T6 for `.n64` (R456). -/
def casSrc (op : AOp) (sz : SZ) (s : LSrc) : Bool :=
  match op with
  | .cas => match s with
    | .v _ => true
    | .t n => n.val != 7 && (sz != .n64 || n.val != 6)
    | _ => false
  | _ => true

/-- Well-formed: the instruction has an encoding. Events are always well-formed. -/
def Instr.wf : Instr → Bool
  | .iadd _ _ a b | .isub _ _ a b | .imul _ _ a b | .and _ _ a b | .or _ _ a b | .xor _ _ a b | .shl _ _ a b
  | .shrN32 _ _ a b | .shrI32 _ _ a b | .iminI32 _ _ a b | .imaxI32 _ _ a b | .iminN32 _ _ a b | .imaxN32 _ _ a b
  | .faddF32 _ _ a b | .fsubF32 _ _ a b | .fmulF32 _ _ a b | .ffmaF32 _ _ a b | .fminF32 _ _ a b | .fmaxF32 _ _ a b
  | .fminnF32 _ _ a b | .fmaxnF32 _ _ a b | .faddF64 _ _ a b | .fmulF64 _ _ a b | .ffmaF64 _ _ a b
  | .faddBf16X2 _ _ a b | .fmulBf16X2 _ _ a b | .ffmaBf16X2 _ _ a b | .faddF16X2 _ _ a b | .fmulF16X2 _ _ a b
  | .shfl _ _ a b | .icmp _ _ _ a b | .fcmpF32 _ _ _ a b
  | .iaddLong _ _ _ _ a b | .isubLong _ _ _ _ a b | .imulLong _ _ _ _ a b | .imulhi _ _ _ a b
  | .andLong _ _ _ a b | .orLong _ _ _ a b | .xorLong _ _ _ a b | .andn _ _ _ a b | .shlLong _ _ _ a b
  | .shrLong _ _ _ a b | .iminLong _ _ _ a b | .imaxLong _ _ _ a b | .xfld _ _ _ a b | .icmpLong _ _ _ _ a b
  | .sel _ _ _ _ _ a b | .faddLong _ _ _ _ _ a b | .fsubLong _ _ _ _ _ a b | .fmulLong _ _ _ _ _ a b
  | .fminLong _ _ _ _ a b | .fmaxLong _ _ _ _ a b | .fminnLong _ _ _ _ a b | .fmaxnLong _ _ _ _ a b
  | .fcmpLong _ _ _ _ _ a b | .shflLong _ _ _ _ a b _ => decide (lCount [a, b] ≤ 1)
  | .imad _ _ _ _ a b c | .ifld _ _ _ a b c | .ffmaLong _ _ _ _ _ a b c => decide (lCount [a, b, c] ≤ 1)
  | .redux _ op ty _ _ => match op with
    | .add | .min | .max => true
    | _ => ty != .f32 && ty != .f64
  | .cvt _ dty sty _ ftz sat _ a b =>
      cvtOk dty sty && (cvtFtz dty sty || !ftz) && (cvtSat dty || !sat) && b.isSome == cvtPacks dty sty &&
      decide (lCount (a :: optL b) ≤ 1)
  | .qblk _ ty _ _ a b => !a.isLit && !optIsLit b && b.isSome == (ty == .e2m1)
  | .qblks _ ty _ _ _ a _ c => !a.isLit && !optIsLit c && c.isSome == (ty == .e2m1)
  | .dqblk _ ty _ _ _ a b => b.isSome == (ty == .e2m1) && decide (lCount (a :: optL b) ≤ 1)
  | .ldsLong _ _ acq _ _ => spadScope acq
  | .stLong _ _ _ s m | .dset _ s m => decide (offCount m.off + lCount [s] ≤ 1)
  | .stsLong _ _ rel s m => spadScope rel && decide (offCount m.off + lCount [s] ≤ 1)
  | .stmc _ _ _ s m _ | .stred _ _ _ _ s m _ => decide (offCount m.off + lCount [s] ≤ 1)
  | .atomLong _ op sz _ _ m s | .atoms _ op sz _ m s => casSrc op sz s && decide (offCount m.off + lCount [s] ≤ 1)
  | .runb _ va k | .rune va k => k != 0 || va == 0
  | .gadd _ _ a b | .gsub _ _ a b | .gmul _ _ a b | .gmulhiN64 _ _ a b | .gmulhiI64 _ _ a b | .gand _ _ a b
  | .gor _ _ a b | .gxor _ _ a b | .gandn _ _ a b | .gshl _ _ a b | .gshr _ _ a b | .gsar _ _ a b | .grotl _ _ a b
  | .gminI64 _ _ a b | .gmaxI64 _ _ a b | .gminN64 _ _ a b | .gmaxN64 _ _ a b | .gcmp _ _ _ _ a b | .gsel _ _ _ a b
  | .qsend _ _ _ a b | .boarm _ a b | .rsvq _ a b => decide (uCount [a, b] ≤ 1)
  | .ldUniform _ _ _ b o | .stUniform _ _ _ b o => decide (uCount [b] + o.count ≤ 1)
  | .mzero _ t ts => match ts with
    | .f64 | .i64 => t.val % 2 == 0
    | _ => true
  | .copyt _ d a b => decide (uCount [d, a, b] ≤ 1)
  | .kick _ d a => decide (uCount [d, a] ≤ 1)
  | _ => true

end Sys2Proof
end

