-- ==== Sys2Proof/Decode.lean ====
section
/-! DEFINITION. The decoder of instruction words (R351 to R375) and, after it, the encoder, written from the same
tables. Words are split with `bits`; causes are reported in the order of R372. -/

namespace Sys2Proof

/-- Why a word is not an instruction (R370, R371); `short`: a further word is needed to tell. -/
inductive DecErr where
  | illenc
  | rsvfield
  | short
  deriving DecidableEq, Repr

/-- What the decoder answers: the instruction and how many words it takes. -/
abbrev DecRes := Except DecErr (Instr × Nat)

/-- A Bool as a bit. -/
def b2n (b : Bool) : Nat := if b then 1 else 0

/-! ## Codes of the operands and their inverses -/

def lsrcOf (c : Nat) (w : Word) : LSrc :=
  if c < 112 then .v (Fin.ofNat 112 c)
  else if c < 120 then .t (Fin.ofNat 8 (c - 112))
  else if c < 127 then .g (Fin.ofNat 7 (c - 120))
  else .lit w

def ldstOf (c : Nat) : LDst :=
  if c < 112 then .v (Fin.ofNat 112 c) else .t (Fin.ofNat 8 (c - 112))

def usrcOf (c : Nat) (w : Word) : USrc :=
  if c < 62 then .g (Fin.ofNat 62 c) else if c = 62 then .zero else .lit w

def udstOf (c : Nat) : UDst :=
  if c < 62 then .g (Fin.ofNat 62 c) else .zero

def predOf (c : Nat) : Pred := ⟨decide (c / 8 % 2 = 1), Fin.ofNat 8 (c % 8)⟩

def LSrc.code : LSrc → Nat
  | .v n => n.val
  | .t n => 112 + n.val
  | .g n => 120 + n.val
  | .lit _ => 127

def LDst.code : LDst → Nat
  | .v n => n.val
  | .t n => 112 + n.val

def USrc.code : USrc → Nat
  | .g n => n.val
  | .zero => 62
  | .lit _ => 63

def UDst.code : UDst → Nat
  | .g n => n.val
  | .zero => 62

def Pred.code (p : Pred) : Nat := 8 * b2n p.neg + p.n.val

def iccOf : Nat → ICC
  | 0 => .eq | 1 => .ne | 2 => .lti | 3 => .lei | 4 => .gti | 5 => .gei | 6 => .ltn | 7 => .len | 8 => .gtn
  | _ => .gen

def ICC.code : ICC → Nat
  | .eq => 0 | .ne => 1 | .lti => 2 | .lei => 3 | .gti => 4 | .gei => 5 | .ltn => 6 | .len => 7 | .gtn => 8 | .gen => 9

def fccOf : Nat → FCC
  | 0 => .eq | 1 => .ne | 2 => .lt | 3 => .le | 4 => .gt | 5 => .ge | 6 => .num | _ => .nan

def FCC.code : FCC → Nat
  | .eq => 0 | .ne => 1 | .lt => 2 | .le => 3 | .gt => 4 | .ge => 5 | .num => 6 | .nan => 7

def ityOf : Nat → ITy
  | 0 => .n32 | 1 => .i32 | 2 => .n64 | _ => .i64

def ITy.code : ITy → Nat
  | .n32 => 0 | .i32 => 1 | .n64 => 2 | .i64 => 3

def ftyOf : Nat → FTy
  | 4 => .f32 | 5 => .f64 | 6 => .bf16x2 | _ => .f16x2

def FTy.code : FTy → Nat
  | .f32 => 4 | .f64 => 5 | .bf16x2 => 6 | .f16x2 => 7

def rtyOf : Nat → RTy
  | 0 => .n32 | 1 => .i32 | 2 => .n64 | 3 => .i64 | 4 => .f32 | _ => .f64

def RTy.code : RTy → Nat
  | .n32 => 0 | .i32 => 1 | .n64 => 2 | .i64 => 3 | .f32 => 4 | .f64 => 5

def tyOf : Nat → Ty
  | 0 => .n32 | 1 => .i32 | 2 => .n64 | 3 => .i64 | 4 => .f32 | 5 => .f64 | 6 => .bf16x2 | 7 => .f16x2
  | 8 => .n16x2 | 9 => .i16x2 | 10 => .n8 | 11 => .i8 | 12 => .n16 | 13 => .i16 | 14 => .bf16 | 15 => .f16
  | 16 => .e4m3 | 17 => .e5m2 | _ => .e2m1

def Ty.code : Ty → Nat
  | .n32 => 0 | .i32 => 1 | .n64 => 2 | .i64 => 3 | .f32 => 4 | .f64 => 5 | .bf16x2 => 6 | .f16x2 => 7
  | .n16x2 => 8 | .i16x2 => 9 | .n8 => 10 | .i8 => 11 | .n16 => 12 | .i16 => 13 | .bf16 => 14 | .f16 => 15
  | .e4m3 => 16 | .e5m2 => 17 | .e2m1 => 18

/-- TY codes that the quantising instructions take (R436). -/
def qtyOf : Nat → Option QTy
  | 16 => some .e4m3 | 17 => some .e5m2 | 11 => some .i8 | 10 => some .n8 | 18 => some .e2m1 | _ => none

def QTy.code : QTy → Nat
  | .e4m3 => 16 | .e5m2 => 17 | .i8 => 11 | .n8 => 10 | .e2m1 => 18

def rmodeOf : Nat → RMode
  | 0 => .rne | 1 => .rz | 2 => .rd | _ => .ru

def RMode.code : RMode → Nat
  | .rne => 0 | .rz => 1 | .rd => 2 | .ru => 3

def ropOf : Nat → ROp
  | 0 => .add | 1 => .min | 2 => .max | 3 => .and | 4 => .or | _ => .xor

def ROp.code : ROp → Nat
  | .add => 0 | .min => 1 | .max => 2 | .and => 3 | .or => 4 | .xor => 5

def aopOf : Nat → AOp
  | 0 => .add | 1 => .xchg | 2 => .cas | 3 => .and | 4 => .or | 5 => .xor | 6 => .min | _ => .max

def AOp.code : AOp → Nat
  | .add => 0 | .xchg => 1 | .cas => 2 | .and => 3 | .or => 4 | .xor => 5 | .min => 6 | .max => 7

def saopOf : Nat → SAOp
  | 0 => .add | 1 => .xchg | 2 => .and | 3 => .or | 4 => .xor | 5 => .minI | _ => .maxI

def SAOp.code : SAOp → Nat
  | .add => 0 | .xchg => 1 | .and => 2 | .or => 3 | .xor => 4 | .minI => 5 | .maxI => 6

/-- STRED operations by their OP less 0x18 (R363). -/
def stredOf : Nat → Option StredOp
  | 0 => some .add | 3 => some .and | 4 => some .or | 5 => some .xor | 6 => some .min | 7 => some .max | _ => none

def StredOp.code : StredOp → Nat
  | .add => 0 | .and => 3 | .or => 4 | .xor => 5 | .min => 6 | .max => 7

def szOf : Nat → SZ
  | 0 => .n8 | 1 => .i8 | 2 => .n16 | 3 => .i16 | 4 => .n32 | _ => .n64

def SZ.code : SZ → Nat
  | .n8 => 0 | .i8 => 1 | .n16 => 2 | .i16 => 3 | .n32 => 4 | .n64 => 5

def uszOf : Nat → Option USZ
  | 0 => some .n8 | 2 => some .n16 | 4 => some .n32 | 5 => some .n64 | _ => none

def USZ.code : USZ → Nat
  | .n8 => 0 | .n16 => 2 | .n32 => 4 | .n64 => 5

def scopeOf : Nat → Scope
  | 0 => .gang | 1 => .team | 2 => .die | 3 => .dev | _ => .sys

def Scope.code : Scope → Nat
  | .gang => 0 | .team => 1 | .die => 2 | .dev => 3 | .sys => 4

def sregOf : Nat → SReg
  | 0 => .tlid | 1 => .slot | 2 => .gangid | 3 => .teamid | 4 => .widlo | 5 => .widhi | 6 => .cluster | 7 => .die
  | 8 => .role | 9 => .now | 10 => .tenant | 11 => .rival | 12 => .ldc | 13 => .stc | 14 => .cpc | 15 => .tlc
  | 16 => .trapvec | 17 => .trapcause | _ => .storehash

def SReg.code : SReg → Nat
  | .tlid => 0 | .slot => 1 | .gangid => 2 | .teamid => 3 | .widlo => 4 | .widhi => 5 | .cluster => 6 | .die => 7
  | .role => 8 | .now => 9 | .tenant => 10 | .rival => 11 | .ldc => 12 | .stc => 13 | .cpc => 14 | .tlc => 15
  | .trapvec => 16 | .trapcause => 17 | .storehash => 18

def tileStateOf : Nat → TileState
  | 0 => .none | 1 => .f32 | 2 => .f64 | _ => .i64

def TileState.code : TileState → Nat
  | .none => 0 | .f32 => 1 | .f64 => 2 | .i64 => 3

def fkindOf : Nat → FKind
  | 0 => .rel | 1 => .acq | _ => .sc

def FKind.code : FKind → Nat
  | .rel => 0 | .acq => 1 | .sc => 2

def aordOf (ord scope : Nat) : AOrd :=
  match ord with
  | 0 => .plain | 1 => .acq (scopeOf scope) | 2 => .rel (scopeOf scope) | _ => .ar (scopeOf scope)

def AOrd.code : AOrd → Nat
  | .plain => 0 | .acq _ => 1 | .rel _ => 2 | .ar _ => 3

def AOrd.scopeCode : AOrd → Nat
  | .plain => 0 | .acq s => s.code | .rel s => s.code | .ar s => s.code

def sfuCode : SfuFn → Nat
  | .recip32 => 0 | .rroot32 => 1 | .root32 => 2 | .pow2 => 3 | .log2 => 4 | .sine => 5 | .cosine => 6 | .htan => 7
  | .recip64 => 8 | .rroot64 => 9 | .root64 => 10

/-! ## The decoder -/

/-- Ends a decode: causes in the order of R372; `nl` fields name the literal (R355); `len` words before it. -/
def fin (legal zero : Bool) (nl len : Nat) (lit : Option Word) (mk : Word → Instr) : DecRes :=
  if legal = false then .error .illenc
  else if 1 < nl then .error .illenc
  else if zero = false then .error .rsvfield
  else if nl = 1 then
    match lit with
    | none => .error .short
    | some w => .ok (mk w, len + 1)
  else .ok (mk 0, len)

/-- A lane operand code names the literal. -/
def isL (c : Nat) : Nat := b2n (c == 127)
/-- A uniform operand code names the literal. -/
def isU (c : Nat) : Nat := b2n (c == 63)

/-- Lane majors of format L3 that compute D from A and B (R360). -/
def l3Of : Nat → Option (Pred → LDst → LSrc → LSrc → Instr)
  | 0x08 => some .iadd | 0x09 => some .isub | 0x0A => some .imul | 0x0B => some .and | 0x0C => some .or
  | 0x0D => some .xor | 0x0E => some .shl | 0x0F => some .shrN32 | 0x10 => some .shrI32 | 0x11 => some .iminI32
  | 0x12 => some .imaxI32 | 0x13 => some .iminN32 | 0x14 => some .imaxN32
  | 0x18 => some .faddF32 | 0x19 => some .fsubF32 | 0x1A => some .fmulF32 | 0x1B => some .ffmaF32
  | 0x1C => some .fminF32 | 0x1D => some .fmaxF32 | 0x1E => some .fminnF32 | 0x1F => some .fmaxnF32
  | 0x20 => some .faddF64 | 0x21 => some .fmulF64 | 0x22 => some .ffmaF64 | 0x23 => some .faddBf16X2
  | 0x24 => some .fmulBf16X2 | 0x25 => some .ffmaBf16X2 | 0x26 => some .faddF16X2 | 0x27 => some .fmulF16X2
  | 0x29 => some .shfl
  | _ => none

/-- SFU functions by F (R361). -/
def sfuOf : Nat → Option (Pred → LDst → LSrc → Instr)
  | 0 => some .recipF32 | 1 => some .rrootF32 | 2 => some .rootF32 | 3 => some .pow2F32 | 4 => some .log2F32
  | 5 => some .sineF32 | 6 => some .cosineF32 | 7 => some .htanF32 | 8 => some .recipF64 | 9 => some .rrootF64
  | 10 => some .rootF64 | _ => none

/-- Zero fields of the LX extension word (R362): a flag says that the instruction takes the field. -/
def lxZero (x : Nat) (c rm ftz sat ps pn pv : Bool) : Bool :=
  (c || bits x 17 7 == 0) && (rm || bits x 10 2 == 0) && (ftz || bits x 9 1 == 0) && (sat || bits x 8 1 == 0) &&
  (ps || bits x 5 3 == 0) && (pn || bits x 4 1 == 0) && (pv || bits x 3 1 == 0) && bits x 0 3 == 0

/-- Integer rows of LX with D, A, B and a type (R408). -/
def lxAB : Nat → Option (Pred → ITy → LDst → LSrc → LSrc → Instr)
  | 0x03 => some .imulhi | 0x05 => some .andLong | 0x06 => some .orLong | 0x07 => some .xorLong | 0x08 => some .andn
  | 0x0A => some .shlLong | 0x0B => some .shrLong | 0x0C => some .iminLong | 0x0D => some .imaxLong
  | 0x13 => some .xfld | _ => none

/-- Integer rows of LX with D, A, B, a type and `.sat`. -/
def lxABsat : Nat → Option (Pred → ITy → Bool → LDst → LSrc → LSrc → Instr)
  | 0x00 => some .iaddLong | 0x01 => some .isubLong | 0x02 => some .imulLong | _ => none

/-- Integer rows of LX with D and A. -/
def lxA : Nat → Option (Pred → ITy → LDst → LSrc → Instr)
  | 0x09 => some .not | 0x10 => some .popc | 0x11 => some .clz | 0x12 => some .bitrev | 0x17 => some .movLong
  | _ => none

/-- Integer rows of LX with D, A and `.sat`. -/
def lxAsat : Nat → Option (Pred → ITy → Bool → LDst → LSrc → Instr)
  | 0x0E => some .iabs | 0x0F => some .ineg | _ => none

/-- Float rows of LX with D, A, B, rounding and `.ftz` (R428). -/
def lxFrm : Nat → Option (Pred → FTy → RMode → Bool → LDst → LSrc → LSrc → Instr)
  | 0x20 => some .faddLong | 0x21 => some .fsubLong | 0x22 => some .fmulLong | _ => none

/-- Float rows of LX with D, A, B and `.ftz`. -/
def lxFmm : Nat → Option (Pred → FTy → Bool → LDst → LSrc → LSrc → Instr)
  | 0x24 => some .fminLong | 0x25 => some .fmaxLong | 0x26 => some .fminnLong | 0x27 => some .fmaxnLong | _ => none

/-- A long arithmetic instruction (R362): the first word's header and body fields, the extension word `x`. -/
def decodeLX (p : Pred) (d a b x : Nat) (lit : Option Word) : DecRes :=
  let xf := bits x 24 8
  let c := bits x 17 7
  let tyc := bits x 12 5
  let rm := rmodeOf (bits x 10 2)
  let ftz := bits x 9 1 == 1
  let sat := bits x 8 1 == 1
  let ps : Fin 8 := Fin.ofNat 8 (bits x 5 3)
  let pn := bits x 4 1 == 1
  let pv := bits x 3 1 == 1
  let dOk := decide (d < 120)
  let iOk := decide (tyc < 4)
  let fOk := decide (4 ≤ tyc) && decide (tyc < 8)
  match lxABsat xf with
  | some mk => fin (dOk && iOk) (lxZero x false false false true false false false) (isL a + isL b) 2 lit
      (fun w => mk p (ityOf tyc) sat (ldstOf d) (lsrcOf a w) (lsrcOf b w))
  | none =>
  match lxAB xf with
  | some mk => fin (dOk && iOk) (lxZero x false false false false false false false) (isL a + isL b) 2 lit
      (fun w => mk p (ityOf tyc) (ldstOf d) (lsrcOf a w) (lsrcOf b w))
  | none =>
  match lxA xf with
  | some mk => fin (dOk && iOk) (lxZero x false false false false false false false && b == 0) (isL a) 2 lit
      (fun w => mk p (ityOf tyc) (ldstOf d) (lsrcOf a w))
  | none =>
  match lxAsat xf with
  | some mk => fin (dOk && iOk) (lxZero x false false false true false false false && b == 0) (isL a) 2 lit
      (fun w => mk p (ityOf tyc) sat (ldstOf d) (lsrcOf a w))
  | none =>
  match lxFrm xf with
  | some mk => fin (dOk && fOk) (lxZero x false true true false false false false) (isL a + isL b) 2 lit
      (fun w => mk p (ftyOf tyc) rm ftz (ldstOf d) (lsrcOf a w) (lsrcOf b w))
  | none =>
  match lxFmm xf with
  | some mk => fin (dOk && fOk) (lxZero x false false true false false false false) (isL a + isL b) 2 lit
      (fun w => mk p (ftyOf tyc) ftz (ldstOf d) (lsrcOf a w) (lsrcOf b w))
  | none =>
  match xf with
  | 0x04 => fin (dOk && iOk) (lxZero x true false false true false false false) (isL a + isL b + isL c) 2 lit
      (fun w => .imad p (ityOf tyc) sat (ldstOf d) (lsrcOf a w) (lsrcOf b w) (lsrcOf c w))
  | 0x14 => fin (dOk && iOk) (lxZero x true false false false false false false) (isL a + isL b + isL c) 2 lit
      (fun w => .ifld p (ityOf tyc) (ldstOf d) (lsrcOf a w) (lsrcOf b w) (lsrcOf c w))
  | 0x15 => fin (iOk && decide (c % 16 < 10)) (lxZero x true false false false true false false && c / 16 == 0 && d == 0)
      (isL a + isL b) 2 lit
      (fun w => .icmpLong p (ityOf tyc) (iccOf (c % 16)) ps (lsrcOf a w) (lsrcOf b w))
  | 0x16 => fin (dOk && iOk) (lxZero x false false false false true true false) (isL a + isL b) 2 lit
      (fun w => .sel p (ityOf tyc) ps pn (ldstOf d) (lsrcOf a w) (lsrcOf b w))
  | 0x23 => fin (dOk && fOk) (lxZero x true true true false false false false) (isL a + isL b + isL c) 2 lit
      (fun w => .ffmaLong p (ftyOf tyc) rm ftz (ldstOf d) (lsrcOf a w) (lsrcOf b w) (lsrcOf c w))
  | 0x28 => fin (dOk && fOk) (lxZero x false false false false false false false && b == 0) (isL a) 2 lit
      (fun w => .fabs p (ftyOf tyc) (ldstOf d) (lsrcOf a w))
  | 0x29 => fin (dOk && fOk) (lxZero x false false false false false false false && b == 0) (isL a) 2 lit
      (fun w => .fneg p (ftyOf tyc) (ldstOf d) (lsrcOf a w))
  | 0x2A => fin (decide (4 ≤ tyc) && decide (tyc < 6) && decide (c % 16 < 8))
      (lxZero x true false true false true false false && c / 16 == 0 && d == 0) (isL a + isL b) 2 lit
      (fun w => .fcmpLong p (tyc == 5) (fccOf (c % 16)) ftz ps (lsrcOf a w) (lsrcOf b w))
  | 0x2B => fin (dOk && fOk) (lxZero x false false true false false false false && b == 0) (isL a) 2 lit
      (fun w => .fclass p (ftyOf tyc) ftz (ldstOf d) (lsrcOf a w))
  | 0x40 =>
      let sc := c % 32
      let dty := tyOf tyc
      let sty := tyOf sc
      let pack := cvtPacks dty sty
      fin (dOk && decide (tyc < 19) && decide (sc < 19) && cvtOk dty sty)
        (lxZero x true true (cvtFtz dty sty) (cvtSat dty) false false false && c / 32 == 0 && (pack || b == 0))
        (isL a + (if pack then isL b else 0)) 2 lit
        (fun w => .cvt p dty sty rm ftz sat (ldstOf d) (lsrcOf a w) (if pack then some (lsrcOf b w) else none))
  | 0x41 => match qtyOf tyc with
      | none => .error .illenc
      | some q => fin (dOk && a != 127 && (q != .e2m1 || b != 127))
          (lxZero x false true false false false false false && (q == .e2m1 || b == 0)) 0 2 lit
          (fun w => .qblk p q rm (ldstOf d) (lsrcOf a w) (if q = .e2m1 then some (lsrcOf b w) else none))
  | 0x42 => match qtyOf tyc with
      | none => .error .illenc
      | some q => fin (dOk && a != 127 && (q != .e2m1 || c != 127))
          (lxZero x (q == .e2m1) true false true false false false) (isL b) 2 lit
          (fun w => .qblks p q rm sat (ldstOf d) (lsrcOf a w) (lsrcOf b w) (if q = .e2m1 then some (lsrcOf c w) else none))
  | 0x43 => match qtyOf tyc with
      | none => .error .illenc
      | some q => fin dOk (lxZero x false true true false false false false && (q == .e2m1 || b == 0))
          (isL a + (if q = .e2m1 then isL b else 0)) 2 lit
          (fun w => .dqblk p q rm ftz (ldstOf d) (lsrcOf a w) (if q = .e2m1 then some (lsrcOf b w) else none))
  | 0x50 => fin (dOk && decide (tyc < 6)) (lxZero x true false false false pv false true && c / 2 == 0) (isL a + isL b) 2 lit
      (fun w => .shflLong p (c % 2 == 1) (rtyOf tyc) (ldstOf d) (lsrcOf a w) (lsrcOf b w) (if pv then some ps else none))
  | _ => .error .illenc

/-- A long memory instruction (R358, R363). -/
def decodeLMX (p : Pred) (body x : Nat) (lit : Option Word) : DecRes :=
  let d := bits body 14 7
  let bb := bits body 8 6
  let xv := bits body 7 1
  let ws := bits body 4 3
  let sc := bits body 2 2
  let nr := bits body 0 1
  let op := bits x 26 6
  let sz := bits x 23 3
  let ord := bits x 21 2
  let scp := bits x 18 3
  let hint := bits x 16 2
  let s := bits x 9 7
  let ol := bits x 1 1
  let addr (w : Word) : LXMem :=
    ⟨if bb < 62 then some (Fin.ofNat 62 bb) else none,
     if xv = 1 then some (Fin.ofNat 8 ws, Fin.ofNat 4 sc) else none,
     if ol = 1 then some w else none⟩
  let bOk := bb != 63
  let z0 := bits body 1 1 == 0 && (xv == 1 || (ws == 0 && sc == 0)) && bits x 2 7 == 0 && bits x 0 1 == 0
  let nz := nr == 0
  let sz0 := s == 0
  let hz := hint == 0
  let scz := ord != 0 || scp == 0
  let scOk := ord == 0 || decide (scp < 5)
  let scTeam := ord == 0 || decide (scp < 2)
  let acq : Option Scope := if ord = 1 then some (scopeOf scp) else none
  let rel : Option Scope := if ord = 2 then some (scopeOf scp) else none
  let dOk := decide (d < 120)
  let szOk := decide (sz < 6)
  match op with
  | 0x00 => fin (bOk && dOk && szOk && decide (ord < 2) && scOk && decide (hint < 2)) (z0 && nz && sz0 && scz) ol 2 lit
      (fun w => .ldLong p (szOf sz) acq (hint == 1) (ldstOf d) (addr w))
  | 0x02 => fin (bOk && dOk && szOk && decide (ord < 2) && scTeam) (z0 && nz && sz0 && scz && hz) ol 2 lit
      (fun w => .ldsLong p (szOf sz) acq (ldstOf d) (addr w))
  | 0x04 => fin (bOk && decide (hint < 2)) (z0 && nz && sz0 && sz == 0 && ord == 0 && scp == 0 && d == 0) ol 2 lit
      (fun w => .pref p (hint == 1) (addr w))
  | 0x05 => fin bOk (z0 && nz && sz0 && sz == 0 && ord == 0 && scp == 0 && hz) (ol + isL d) 2 lit
      (fun w => .dset p (lsrcOf d w) (addr w))
  | 0x06 => fin (bOk && dOk) (z0 && nz && sz0 && sz == 0 && ord == 0 && scp == 0 && hz) ol 2 lit
      (fun w => .dget p (ldstOf d) (addr w))
  | _ =>
  if 0x08 ≤ op ∧ op < 0x10 then
    let o := aopOf (op - 8)
    fin (bOk && szOk && scOk && (nr == 1 || dOk) && (o != .cas || casOk (szOf sz) s)) (z0 && scz && hz && (nr == 0 || d == 0))
      (ol + isL s) 2 lit
      (fun w => .atomLong p o (szOf sz) (aordOf ord scp) (if nr = 1 then none else some (ldstOf d)) (addr w) (lsrcOf s w))
  else if 0x10 ≤ op ∧ op < 0x18 then
    let o := aopOf (op - 16)
    fin (bOk && szOk && ord == 0 && (nr == 1 || dOk) && (o != .cas || casOk (szOf sz) s)) (z0 && scz && hz && (nr == 0 || d == 0))
      (ol + isL s) 2 lit
      (fun w => .atoms p o (szOf sz) (if nr = 1 then none else some (ldstOf d)) (addr w) (lsrcOf s w))
  else
  match uszOf sz with
  | none => .error .illenc
  | some u =>
    match op with
    | 0x01 => fin (bOk && (ord == 0 || ord == 2) && scOk) (z0 && nz && sz0 && scz && hz) (ol + isL d) 2 lit
        (fun w => .stLong p u rel (lsrcOf d w) (addr w))
    | 0x03 => fin (bOk && (ord == 0 || ord == 2) && scTeam) (z0 && nz && sz0 && scz && hz) (ol + isL d) 2 lit
        (fun w => .stsLong p u rel (lsrcOf d w) (addr w))
    | 0x07 => fin (bOk && (ord == 0 || ord == 2) && scOk && decide (120 ≤ s) && decide (s < 127)) (z0 && nz && scz && hz)
        (ol + isL d) 2 lit (fun w => .stmc p u rel (lsrcOf d w) (addr w) (Fin.ofNat 7 (s - 120)))
    | _ =>
      match stredOf (op - 0x18) with
      | none => .error .illenc
      | some so =>
        fin (decide (0x18 ≤ op) && decide (op < 0x20) && bOk && (ord == 0 || ord == 2) && scOk && decide (120 ≤ s) && decide (s < 127))
          (z0 && nz && scz && hz) (ol + isL d) 2 lit
          (fun w => .stred p so u rel (lsrcOf d w) (addr w) (Fin.ofNat 7 (s - 120)))

/-- The address part of an LM body (R358). -/
def lmemOf (body : Nat) : LMem :=
  ⟨if bits body 10 4 < 15 then some (Fin.ofNat 15 (bits body 10 4)) else none,
   if bits body 9 1 = 1 then .indexed (Fin.ofNat 8 (bits body 6 3)) (Fin.ofNat 4 (bits body 4 2)) (Fin.ofNat 16 (bits body 0 4))
   else .direct (BitVec.ofNat 9 (bits body 0 9))⟩

/-- A lane word (R360): `rest` are the words after it. -/
def decodeLane (maj : Nat) (p : Pred) (body : Nat) (rest : List Word) : DecRes :=
  let d := bits body 14 7
  let a := bits body 7 7
  let b := bits body 0 7
  let lit := rest.head?
  match l3Of maj with
  | some mk => fin (decide (d < 120)) true (isL a + isL b) 1 lit (fun w => mk p (ldstOf d) (lsrcOf a w) (lsrcOf b w))
  | none =>
  match maj with
  | 0x01 => fin true (body == 0) 0 1 lit (fun _ => .nop p)
  | 0x02 => fin (decide (d < 120) && decide (bits body 8 6 < 19)) (bits body 0 8 == 0) 0 1 lit
      (fun _ => .sreg p (ldstOf d) (sregOf (bits body 8 6)))
  | 0x03 => fin true true 0 1 lit (fun _ => .lbr p (BitVec.ofNat 21 body))
  | 0x04 => fin true (body == 0) 0 1 lit (fun _ => .lexit p)
  | 0x05 => match rest with
      | [] => .error .short
      | x :: _ => fin true (bits x.toNat 15 17 == 0) 0 2 lit
          (fun _ => .lbrRg p (BitVec.ofNat 21 body) (BitVec.ofNat 8 (bits x.toNat 0 8)) (BitVec.ofNat 7 (bits x.toNat 8 7)))
  | 0x07 => match rest with
      | [] => .error .short
      | x :: r => decodeLX p d a b x.toNat r.head?
  | 0x15 => fin (decide (bits body 14 4 < 10)) true (isL a + isL b) 1 lit
      (fun w => .icmp p (iccOf (bits body 14 4)) (Fin.ofNat 8 (bits body 18 3)) (lsrcOf a w) (lsrcOf b w))
  | 0x16 => fin (decide (bits body 14 4 < 8)) true (isL a + isL b) 1 lit
      (fun w => .fcmpF32 p (fccOf (bits body 14 4)) (Fin.ofNat 8 (bits body 18 3)) (lsrcOf a w) (lsrcOf b w))
  | 0x28 => fin (decide (d < 120) && decide (bits b 4 3 < 6) && decide (bits b 0 4 < 6) &&
        (decide (bits b 4 3 < 3) || decide (bits b 0 4 < 4))) true (isL a) 1 lit
      (fun w => .redux p (ropOf (bits b 4 3)) (rtyOf (bits b 0 4)) (ldstOf d) (lsrcOf a w))
  | 0x2A => match sfuOf b with
      | none => .error .illenc
      | some mk => fin (decide (d < 120)) true (isL a) 1 lit (fun w => mk p (ldstOf d) (lsrcOf a w))
  | 0x2B => fin (decide (d < 120)) (b == 0) (isL a) 1 lit (fun w => .mov p (ldstOf d) (lsrcOf a w))
  | 0x30 => fin (decide (d < 120)) true 0 1 lit (fun _ => .ld p (ldstOf d) (lmemOf body))
  | 0x31 => fin true true (isL d) 1 lit (fun w => .st p (lsrcOf d w) (lmemOf body))
  | 0x32 => fin (decide (d < 120)) true 0 1 lit (fun _ => .lds p (ldstOf d) (lmemOf body))
  | 0x33 => fin true true (isL d) 1 lit (fun w => .sts p (lsrcOf d w) (lmemOf body))
  | 0x34 => fin (decide (d < 120) && decide (bits body 0 3 < 7)) true (isL a) 1 lit
      (fun w => .atom p (saopOf (bits body 0 3)) (ldstOf d)
        (if bits body 3 4 < 15 then some (Fin.ofNat 15 (bits body 3 4)) else none) (lsrcOf a w))
  | 0x35 => fin (decide (bits body 0 3 < 7)) (d == 0) (isL a) 1 lit
      (fun w => .atomNoret p (saopOf (bits body 0 3))
        (if bits body 3 4 < 15 then some (Fin.ofNat 15 (bits body 3 4)) else none) (lsrcOf a w))
  | 0x36 => match rest with
      | [] => .error .short
      | x :: r => decodeLMX p body x.toNat r.head?
  | _ => .error .illenc

/-- Uniform UG instructions with D, A, B by MAJ and F (R386). -/
def ugABOf : Nat → Nat → Option (Pred → UDst → USrc → USrc → Instr)
  | 0x10, 0 => some .gadd | 0x10, 1 => some .gsub | 0x10, 2 => some .gmul | 0x10, 3 => some .gmulhiN64
  | 0x10, 4 => some .gmulhiI64 | 0x11, 0 => some .gand | 0x11, 1 => some .gor | 0x11, 2 => some .gxor
  | 0x11, 3 => some .gandn | 0x12, 0 => some .gshl | 0x12, 1 => some .gshr | 0x12, 2 => some .gsar
  | 0x12, 3 => some .grotl | 0x13, 0 => some .gminI64 | 0x13, 1 => some .gmaxI64 | 0x13, 2 => some .gminN64
  | 0x13, 3 => some .gmaxN64 | _, _ => none

/-- Uniform UG instructions with D and A. -/
def ugAOf : Nat → Nat → Option (Pred → UDst → USrc → Instr)
  | 0x11, 4 => some .gnot | 0x11, 5 => some .gpopc | 0x11, 6 => some .gclz | 0x14, 0 => some .gmov
  | 0x14, 1 => some .gmovN32 | 0x14, 2 => some .gmovI32 | 0x24, 0 => some .flacq | 0x2E, 2 => some .tdload
  | _, _ => none

/-- Uniform UG instructions with A alone. -/
def ugSOf : Nat → Nat → Option (Pred → USrc → Instr)
  | 0x0B, 0 => some .ret | 0x0C, 0 => some .jmpg | 0x25, 0 => some .flrel | 0x27, 0 => some .bowait
  | 0x2A, 0 => some .mmaq | 0x2A, 1 => some .mdelta | 0x2A, 2 => some .mdrain | 0x2D, 0 => some .rsvinv
  | 0x2D, 1 => some .rsvinvClear | 0x34, 0 => some .dryw | _, _ => none

/-- Uniform UG instructions with A and B. -/
def ugSSOf : Nat → Nat → Option (Pred → USrc → USrc → Instr)
  | 0x26, 0 => some .boarm | 0x2D, 2 => some .rsvq | _, _ => none

/-- Uniform majors of format UG whose F names no sub-function, so that F is a zero field (R365). -/
def ugNoF (maj : Nat) : Bool :=
  maj == 0x0B || maj == 0x0C || maj == 0x24 || maj == 0x25 || maj == 0x26 || maj == 0x27 || maj == 0x2C || maj == 0x34

/-- Q logic by OP (R389). -/
def uqlOf : Nat → Option (Pred → Fin 8 → Fin 8 → Bool → Fin 8 → Bool → Instr)
  | 0 => some .qand | 1 => some .qor | 2 => some .qxor | _ => none

/-- UZ instructions (R364). -/
def uzOf : Nat → Option (Pred → Instr)
  | 0x04 => some .bartm | 0x06 => some .exit | 0x1D => some .pmark | 0x29 => some .mrel | 0x31 => some .taskdone
  | _ => none

/-- UQ instructions of the tournament and rows groups that take only QD (R365). -/
def uqOnly : Nat → Nat → Option (Pred → Fin 8 → Instr)
  | 0x35, 2 => some .tscore | 0x35, 4 => some .tclose | 0x35, 5 => some .tcloseAbort | 0x35, 6 => some .spgrow
  | 0x36, 0 => some .rgive | 0x36, 1 => some .rclaim | _, _ => none

/-- A word of format UG. -/
def decodeUG (maj : Nat) (p : Pred) (body : Nat) (lit : Option Word) : DecRes :=
  let d := bits body 15 6
  let a := bits body 9 6
  let b := bits body 3 6
  let f := if ugNoF maj then 0 else bits body 0 3
  let fz := !ugNoF maj || bits body 0 3 == 0
  match ugABOf maj f with
  | some mk => fin (d != 63) fz (isU a + isU b) 1 lit (fun w => mk p (udstOf d) (usrcOf a w) (usrcOf b w))
  | none =>
  match ugAOf maj f with
  | some mk => fin (d != 63) (fz && b == 0) (isU a) 1 lit (fun w => mk p (udstOf d) (usrcOf a w))
  | none =>
  match ugSOf maj f with
  | some mk => fin true (fz && b == 0 && d == 0) (isU a) 1 lit (fun w => mk p (usrcOf a w))
  | none =>
  match ugSSOf maj f with
  | some mk => fin true (fz && d == 0) (isU a + isU b) 1 lit (fun w => mk p (usrcOf a w) (usrcOf b w))
  | none =>
  match maj, f with
  | 0x2C, _ => fin (d != 63) (fz && a == 0 && b == 0) 0 1 lit (fun _ => .mstat p (udstOf d))
  | 0x2E, 0 => fin true true (isU d + isU a + isU b) 1 lit (fun w => .copyt p (usrcOf d w) (usrcOf a w) (usrcOf b w))
  | 0x2E, 1 => fin true (b == 0) (isU d + isU a) 1 lit (fun w => .kick p (usrcOf d w) (usrcOf a w))
  | _, _ => .error .illenc

/-- A uniform word (R364). -/
def decodeUni (maj : Nat) (p : Pred) (pc : Nat) (body : Nat) (lit : Option Word) : DecRes :=
  let qd : Fin 8 := Fin.ofNat 8 (bits body 18 3)
  let uqA := bits body 8 6
  let uqB := bits body 2 6
  let uqF := bits body 14 4
  let uqM := bits body 0 2
  let sz := bits body 6 3
  let ol := bits body 5 1
  let uoff (w : Word) : UOff := if ol = 1 then .lit w else .imm (BitVec.ofNat 5 (bits body 0 5))
  match uzOf maj with
  | some mk => fin true (body == 0) 0 1 lit (fun _ => mk p)
  | none =>
  match maj with
  | 0x01 => fin true (pc == 0 && bits body 0 5 == 0 && (bits body 5 4 != 0 || bits body 9 7 == 0)) 0 1 lit
      (fun _ => .runb (BitVec.ofNat 5 (bits body 16 5)) (BitVec.ofNat 7 (bits body 9 7)) (BitVec.ofNat 4 (bits body 5 4)))
  | 0x02 => fin true (pc == 0 && bits body 16 5 == 0 && bits body 0 5 == 0 && (bits body 5 4 != 0 || bits body 9 7 == 0)) 0 1 lit
      (fun _ => .rune (BitVec.ofNat 7 (bits body 9 7)) (BitVec.ofNat 4 (bits body 5 4)))
  | 0x03 => fin true (bits body 0 5 == 0) 0 1 lit
      (fun _ => .waitc p (BitVec.ofNat 4 (bits body 17 4)) (BitVec.ofNat 4 (bits body 13 4)) (BitVec.ofNat 4 (bits body 9 4))
        (BitVec.ofNat 4 (bits body 5 4)))
  | 0x05 => fin (decide (bits body 19 2 < 3) && decide (bits body 16 3 < 5)) (bits body 0 16 == 0) 0 1 lit
      (fun _ => .fence p (fkindOf (bits body 19 2)) (scopeOf (bits body 16 3)))
  | 0x08 => fin true true 0 1 lit (fun _ => .bra p (BitVec.ofNat 21 body))
  | 0x09 => fin true true 0 1 lit
      (fun _ => .braq p (Fin.ofNat 8 (bits body 18 3)) (bits body 17 1 == 1) (BitVec.ofNat 17 (bits body 0 17)))
  | 0x0A => fin (bits body 15 6 != 63) true 0 1 lit (fun _ => .call p (udstOf (bits body 15 6)) (BitVec.ofNat 15 (bits body 0 15)))
  | 0x0D => fin true (bits body 0 20 == 0) 0 1 lit (fun _ => .trap p (bits body 20 1 == 1))
  | 0x0E => fin true (bits body 16 5 == 0) 0 1 lit (fun _ => .bkpt p (BitVec.ofNat 16 (bits body 0 16)))
  | 0x0F => fin true (bits body 0 9 == 0) 0 1 lit (fun _ => .fwcall p (BitVec.ofNat 12 (bits body 9 12)))
  | 0x15 => fin (decide (uqF < 10) && decide (uqM < 2)) true (isU uqA + isU uqB) 1 lit
      (fun w => .gcmp p (iccOf uqF) (uqM == 1) qd (usrcOf uqA w) (usrcOf uqB w))
  | 0x16 => fin (bits body 15 6 != 63) true (isU (bits body 9 6) + isU (bits body 3 6)) 1 lit
      (fun w => .gsel p (Fin.ofNat 8 (bits body 0 3)) (udstOf (bits body 15 6)) (usrcOf (bits body 9 6) w) (usrcOf (bits body 3 6) w))
  | 0x17 => match uqlOf (bits body 8 2) with
      | none => .error .illenc
      | some mk => fin true (bits body 0 8 == 0) 0 1 lit
          (fun _ => mk p qd (Fin.ofNat 8 (bits body 15 3)) (bits body 14 1 == 1) (Fin.ofNat 8 (bits body 11 3)) (bits body 10 1 == 1))
  | 0x18 => fin (bits body 15 6 != 63 && decide (bits body 9 6 < 19)) (bits body 0 9 == 0) 0 1 lit
      (fun _ => .sregUniform p (udstOf (bits body 15 6)) (sregOf (bits body 9 6)))
  | 0x19 => fin (decide (bits body 15 6 < 19)) (bits body 0 9 == 0) (isU (bits body 9 6)) 1 lit
      (fun w => .sregw p (sregOf (bits body 15 6)) (usrcOf (bits body 9 6) w))
  | 0x1A => fin (bits body 15 6 != 63 && decide (bits body 8 7 < 112) && decide (uqM < 3)) true (isU uqB) 1 lit
      (fun w => .vtog p (if uqM = 0 then .zext else if uqM = 1 then .sext else .pair) (udstOf (bits body 15 6))
        (Fin.ofNat 112 (bits body 8 7)) (usrcOf uqB w))
  | 0x1B => fin (decide (bits body 8 7 < 112)) (bits body 1 7 == 0) (isU (bits body 15 6)) 1 lit
      (fun w => .gtov p (bits body 0 1 == 1) (Fin.ofNat 112 (bits body 8 7)) (usrcOf (bits body 15 6) w))
  | 0x1C => fin (bits body 15 6 != 63 && decide (bits body 10 2 < 3)) (bits body 0 10 == 0) 0 1 lit
      (fun _ => .vote p (if bits body 10 2 = 0 then .mask else if bits body 10 2 = 1 then .some else .every)
        (udstOf (bits body 15 6)) (Fin.ofNat 8 (bits body 12 3)))
  | 0x20 => fin (bits body 15 6 != 63 && decide (sz < 6)) (ol == 0 || bits body 0 5 == 0) (isU (bits body 9 6) + ol) 1 lit
      (fun w => .ldUniform p (szOf sz) (udstOf (bits body 15 6)) (usrcOf (bits body 9 6) w) (uoff w))
  | 0x21 => match uszOf sz with
      | none => .error .illenc
      | some u => fin (bits body 15 6 != 63) (ol == 0 || bits body 0 5 == 0) (isU (bits body 9 6) + ol) 1 lit
          (fun w => .stUniform p u (udstOf (bits body 15 6)) (usrcOf (bits body 9 6) w) (uoff w))
  | 0x22 => fin (decide (uqM < 2)) (uqF == 0) (isU uqA + isU uqB) 1 lit
      (fun w => .qsend p (uqM == 1) qd (usrcOf uqA w) (usrcOf uqB w))
  | 0x23 => fin true (bits body 0 1 == 0) (isU (bits body 15 6)) 1 lit
      (fun w => .flinit p (usrcOf (bits body 15 6) w) (Fin.ofNat 16 (bits body 11 4)) (BitVec.ofNat 10 (bits body 1 10)))
  | 0x28 => fin true (bits body 0 18 == 0) 0 1 lit (fun _ => .mres p qd)
  | 0x2B =>
      let t := bits body 17 4
      let stt := bits body 15 2
      fin (decide (stt < 2) || t % 2 == 0) (bits body 0 15 == 0) 0 1 lit (fun _ => .mzero p (Fin.ofNat 16 t) (tileStateOf stt))
  | 0x30 => fin (decide (uqM < 2)) (uqF == 0 && uqB == 0) (isU uqA) 1 lit (fun w => .tasksub p (uqM == 1) qd (usrcOf uqA w))
  | 0x32 => fin (decide (bits body 8 7 < 112)) (bits body 0 8 == 0) (isU (bits body 15 6)) 1 lit
      (fun w => .fapp p (usrcOf (bits body 15 6) w) (Fin.ofNat 112 (bits body 8 7)))
  | 0x33 => fin (decide (bits body 8 7 < 112)) (bits body 5 3 == 0 && uqM == 0) (isU (bits body 15 6)) 1 lit
      (fun w => .ftake p (usrcOf (bits body 15 6) w) (Fin.ofNat 112 (bits body 8 7)) (Fin.ofNat 8 (bits body 2 3)))
  | _ =>
  match uqOnly maj uqF with
  | some mk => fin true (bits body 0 14 == 0) 0 1 lit (fun _ => mk p qd)
  | none =>
  match maj, uqF with
  | 0x35, 0 => fin true (bits body 0 8 == 0) (isU uqA) 1 lit (fun w => .topen p qd (usrcOf uqA w))
  | 0x35, 1 => fin true (bits body 0 8 == 0) (isU uqA) 1 lit (fun w => .trival p qd (usrcOf uqA w))
  | 0x35, 3 => fin true (uqA == 0 && uqM == 0) (isU uqB) 1 lit (fun w => .tstat p qd (usrcOf uqB w))
  | _, _ => decodeUG maj p body lit

/-- Decodes the words at an address (R351). -/
def decode (ws : List Word) : DecRes :=
  match ws with
  | [] => .error .short
  | w :: rest =>
    let n := w.toNat
    let maj := bits n 25 6
    let pc := bits n 21 4
    let body := bits n 0 21
    if bits n 31 1 = 0 then decodeLane maj (predOf pc) body rest
    else decodeUni maj (predOf pc) pc body rest.head?

/-- Instruction words as the memory holds them: little-endian (R3). -/
def wordsOf : List Byte → List Word
  | b0 :: b1 :: b2 :: b3 :: r => (BitVec.ofNat 32 (ofBytes [b0, b1, b2, b3])) :: wordsOf r
  | _ => []

/-- Decodes the bytes at an address: the instruction and how many bytes it takes. -/
def decodeBytes (bs : List Byte) : Except DecErr (Instr × Nat) :=
  match decode (wordsOf bs) with
  | .ok (i, n) => .ok (i, 4 * n)
  | .error e => .error e

/-- The bytes of an instruction whose bits are `w`, as spec/opcode_table.json numbers them; 12 bytes, the longest
instruction. -/
def tableBytes (nbits w : Nat) : List Byte := toBytes 12 (w % 2 ^ nbits)

/-- What the decoder reads from a word of the opcode table. -/
def decodeTableWord (nbits w : Nat) : Option Instr :=
  match decodeBytes (tableBytes nbits w) with
  | .ok (i, _) => some i
  | .error _ => none

/-! ## The encoder -/

/-- A first word (R351). -/
def wHead (set maj pred body : Nat) : Word := BitVec.ofNat 32 (set * 2 ^ 31 + maj * 2 ^ 25 + pred * 2 ^ 21 + body)

/-- The literal words of lane operands. -/
def lLits : List LSrc → List Word
  | [] => []
  | .lit w :: _ => [w]
  | _ :: r => lLits r

/-- The literal words of uniform operands. -/
def uLits : List USrc → List Word
  | [] => []
  | .lit w :: _ => [w]
  | _ :: r => uLits r

def encL3 (maj : Nat) (p : Pred) (d : LDst) (a b : LSrc) : List Word :=
  wHead 0 maj p.code (d.code * 2 ^ 14 + a.code * 2 ^ 7 + b.code) :: lLits [a, b]

def encL2 (maj : Nat) (p : Pred) (d : LDst) (a : LSrc) (f : Nat) : List Word :=
  wHead 0 maj p.code (d.code * 2 ^ 14 + a.code * 2 ^ 7 + f) :: lLits [a]

def encLC (maj : Nat) (p : Pred) (pd : Fin 8) (cc : Nat) (a b : LSrc) : List Word :=
  wHead 0 maj p.code (pd.val * 2 ^ 18 + cc * 2 ^ 14 + a.code * 2 ^ 7 + b.code) :: lLits [a, b]

/-- An LX extension word (R362). -/
def lxExt (xf c ty rm ftz sat ps pn pv : Nat) : Word :=
  BitVec.ofNat 32 (xf * 2 ^ 24 + c * 2 ^ 17 + ty * 2 ^ 12 + rm * 2 ^ 10 + ftz * 2 ^ 9 + sat * 2 ^ 8 + ps * 2 ^ 5 + pn * 2 ^ 4 + pv * 2 ^ 3)

def encLX (p : Pred) (d a b : Nat) (x : Word) (lits : List Word) : List Word :=
  wHead 0 0x07 p.code (d * 2 ^ 14 + a * 2 ^ 7 + b) :: x :: lits

def LMAddr.enc : LMAddr → Nat
  | .indexed ws sc oc => 2 ^ 9 + ws.val * 2 ^ 6 + sc.val * 2 ^ 4 + oc.val
  | .direct o => o.toNat

def baseCode15 : Option (Fin 15) → Nat
  | none => 15
  | some b => b.val

def encLM (maj : Nat) (p : Pred) (d : Nat) (m : LMem) (lits : List Word) : List Word :=
  wHead 0 maj p.code (d * 2 ^ 14 + baseCode15 m.base * 2 ^ 10 + m.addr.enc) :: lits

def offLits : Option Word → List Word
  | none => []
  | some w => [w]

def optScope : Option Scope → Nat
  | none => 0
  | some s => s.code

/-- A long memory instruction: D and S codes, address, extension fields, literals of the data operands. -/
def encLMX (p : Pred) (d nr : Nat) (m : LXMem) (op sz ord scope hint s : Nat) (lits : List Word) : List Word :=
  let bb := match m.base with | none => 62 | some b => b.val
  let ix := match m.idx with | none => 0 | some (ws, sc) => 2 ^ 7 + ws.val * 2 ^ 4 + sc.val * 2 ^ 2
  wHead 0 0x36 p.code (d * 2 ^ 14 + bb * 2 ^ 8 + ix + nr) ::
  BitVec.ofNat 32 (op * 2 ^ 26 + sz * 2 ^ 23 + ord * 2 ^ 21 + scope * 2 ^ 18 + hint * 2 ^ 16 + s * 2 ^ 9 + b2n m.off.isSome * 2) ::
  (offLits m.off ++ lits)

def encUG (maj : Nat) (p : Pred) (d a b f : Nat) (lits : List Word) : List Word :=
  wHead 1 maj p.code (d * 2 ^ 15 + a * 2 ^ 9 + b * 2 ^ 3 + f) :: lits

def encUQ (maj : Nat) (p : Pred) (qd : Fin 8) (f a b m : Nat) (lits : List Word) : List Word :=
  wHead 1 maj p.code (qd.val * 2 ^ 18 + f * 2 ^ 14 + a * 2 ^ 8 + b * 2 ^ 2 + m) :: lits

def encUV (maj : Nat) (p : Pred) (g v x m : Nat) (lits : List Word) : List Word :=
  wHead 1 maj p.code (g * 2 ^ 15 + v * 2 ^ 8 + x * 2 ^ 2 + m) :: lits

def encUZ (maj : Nat) (p : Pred) : List Word := [wHead 1 maj p.code 0]

def UOff.enc : UOff → Nat
  | .imm o => o.toNat
  | .lit _ => 2 ^ 5

def UOff.lits : UOff → List Word
  | .imm _ => []
  | .lit w => [w]

def optLSrc : Option LSrc → Nat
  | none => 0
  | some s => s.code

def optList : Option LSrc → List LSrc
  | none => []
  | some s => [s]

def casBase : Option LDst → Nat
  | none => 0
  | some d => d.code

/-- The words of an instruction (R351 to R366); an event has none. -/
def encode : Instr → List Word
  | .nop p => [wHead 0 0x01 p.code 0]
  | .sreg p d sr => [wHead 0 0x02 p.code (d.code * 2 ^ 14 + sr.code * 2 ^ 8)]
  | .lbr p o => [wHead 0 0x03 p.code o.toNat]
  | .lexit p => [wHead 0 0x04 p.code 0]
  | .lbrRg p o g q => [wHead 0 0x05 p.code o.toNat, BitVec.ofNat 32 (q.toNat * 2 ^ 8 + g.toNat)]
  | .iadd p d a b => encL3 0x08 p d a b
  | .isub p d a b => encL3 0x09 p d a b
  | .imul p d a b => encL3 0x0A p d a b
  | .and p d a b => encL3 0x0B p d a b
  | .or p d a b => encL3 0x0C p d a b
  | .xor p d a b => encL3 0x0D p d a b
  | .shl p d a b => encL3 0x0E p d a b
  | .shrN32 p d a b => encL3 0x0F p d a b
  | .shrI32 p d a b => encL3 0x10 p d a b
  | .iminI32 p d a b => encL3 0x11 p d a b
  | .imaxI32 p d a b => encL3 0x12 p d a b
  | .iminN32 p d a b => encL3 0x13 p d a b
  | .imaxN32 p d a b => encL3 0x14 p d a b
  | .icmp p cc pd a b => encLC 0x15 p pd cc.code a b
  | .fcmpF32 p cc pd a b => encLC 0x16 p pd cc.code a b
  | .faddF32 p d a b => encL3 0x18 p d a b
  | .fsubF32 p d a b => encL3 0x19 p d a b
  | .fmulF32 p d a b => encL3 0x1A p d a b
  | .ffmaF32 p d a b => encL3 0x1B p d a b
  | .fminF32 p d a b => encL3 0x1C p d a b
  | .fmaxF32 p d a b => encL3 0x1D p d a b
  | .fminnF32 p d a b => encL3 0x1E p d a b
  | .fmaxnF32 p d a b => encL3 0x1F p d a b
  | .faddF64 p d a b => encL3 0x20 p d a b
  | .fmulF64 p d a b => encL3 0x21 p d a b
  | .ffmaF64 p d a b => encL3 0x22 p d a b
  | .faddBf16X2 p d a b => encL3 0x23 p d a b
  | .fmulBf16X2 p d a b => encL3 0x24 p d a b
  | .ffmaBf16X2 p d a b => encL3 0x25 p d a b
  | .faddF16X2 p d a b => encL3 0x26 p d a b
  | .fmulF16X2 p d a b => encL3 0x27 p d a b
  | .redux p op ty d a => encL2 0x28 p d a (op.code * 2 ^ 4 + ty.code)
  | .shfl p d a b => encL3 0x29 p d a b
  | .recipF32 p d a => encL2 0x2A p d a 0
  | .rrootF32 p d a => encL2 0x2A p d a 1
  | .rootF32 p d a => encL2 0x2A p d a 2
  | .pow2F32 p d a => encL2 0x2A p d a 3
  | .log2F32 p d a => encL2 0x2A p d a 4
  | .sineF32 p d a => encL2 0x2A p d a 5
  | .cosineF32 p d a => encL2 0x2A p d a 6
  | .htanF32 p d a => encL2 0x2A p d a 7
  | .recipF64 p d a => encL2 0x2A p d a 8
  | .rrootF64 p d a => encL2 0x2A p d a 9
  | .rootF64 p d a => encL2 0x2A p d a 10
  | .mov p d a => encL2 0x2B p d a 0
  | .ld p d m => encLM 0x30 p d.code m []
  | .st p s m => encLM 0x31 p s.code m (lLits [s])
  | .lds p d m => encLM 0x32 p d.code m []
  | .sts p s m => encLM 0x33 p s.code m (lLits [s])
  | .atom p op d b s => wHead 0 0x34 p.code (d.code * 2 ^ 14 + s.code * 2 ^ 7 + baseCode15 b * 2 ^ 3 + op.code) :: lLits [s]
  | .atomNoret p op b s => wHead 0 0x35 p.code (s.code * 2 ^ 7 + baseCode15 b * 2 ^ 3 + op.code) :: lLits [s]
  | .iaddLong p ty sat d a b => encLX p d.code a.code b.code (lxExt 0x00 0 ty.code 0 0 (b2n sat) 0 0 0) (lLits [a, b])
  | .isubLong p ty sat d a b => encLX p d.code a.code b.code (lxExt 0x01 0 ty.code 0 0 (b2n sat) 0 0 0) (lLits [a, b])
  | .imulLong p ty sat d a b => encLX p d.code a.code b.code (lxExt 0x02 0 ty.code 0 0 (b2n sat) 0 0 0) (lLits [a, b])
  | .imulhi p ty d a b => encLX p d.code a.code b.code (lxExt 0x03 0 ty.code 0 0 0 0 0 0) (lLits [a, b])
  | .imad p ty sat d a b c => encLX p d.code a.code b.code (lxExt 0x04 c.code ty.code 0 0 (b2n sat) 0 0 0) (lLits [a, b, c])
  | .andLong p ty d a b => encLX p d.code a.code b.code (lxExt 0x05 0 ty.code 0 0 0 0 0 0) (lLits [a, b])
  | .orLong p ty d a b => encLX p d.code a.code b.code (lxExt 0x06 0 ty.code 0 0 0 0 0 0) (lLits [a, b])
  | .xorLong p ty d a b => encLX p d.code a.code b.code (lxExt 0x07 0 ty.code 0 0 0 0 0 0) (lLits [a, b])
  | .andn p ty d a b => encLX p d.code a.code b.code (lxExt 0x08 0 ty.code 0 0 0 0 0 0) (lLits [a, b])
  | .not p ty d a => encLX p d.code a.code 0 (lxExt 0x09 0 ty.code 0 0 0 0 0 0) (lLits [a])
  | .shlLong p ty d a b => encLX p d.code a.code b.code (lxExt 0x0A 0 ty.code 0 0 0 0 0 0) (lLits [a, b])
  | .shrLong p ty d a b => encLX p d.code a.code b.code (lxExt 0x0B 0 ty.code 0 0 0 0 0 0) (lLits [a, b])
  | .iminLong p ty d a b => encLX p d.code a.code b.code (lxExt 0x0C 0 ty.code 0 0 0 0 0 0) (lLits [a, b])
  | .imaxLong p ty d a b => encLX p d.code a.code b.code (lxExt 0x0D 0 ty.code 0 0 0 0 0 0) (lLits [a, b])
  | .iabs p ty sat d a => encLX p d.code a.code 0 (lxExt 0x0E 0 ty.code 0 0 (b2n sat) 0 0 0) (lLits [a])
  | .ineg p ty sat d a => encLX p d.code a.code 0 (lxExt 0x0F 0 ty.code 0 0 (b2n sat) 0 0 0) (lLits [a])
  | .popc p ty d a => encLX p d.code a.code 0 (lxExt 0x10 0 ty.code 0 0 0 0 0 0) (lLits [a])
  | .clz p ty d a => encLX p d.code a.code 0 (lxExt 0x11 0 ty.code 0 0 0 0 0 0) (lLits [a])
  | .bitrev p ty d a => encLX p d.code a.code 0 (lxExt 0x12 0 ty.code 0 0 0 0 0 0) (lLits [a])
  | .xfld p ty d a b => encLX p d.code a.code b.code (lxExt 0x13 0 ty.code 0 0 0 0 0 0) (lLits [a, b])
  | .ifld p ty d a b c => encLX p d.code a.code b.code (lxExt 0x14 c.code ty.code 0 0 0 0 0 0) (lLits [a, b, c])
  | .icmpLong p ty cc pd a b => encLX p 0 a.code b.code (lxExt 0x15 cc.code ty.code 0 0 0 pd.val 0 0) (lLits [a, b])
  | .sel p ty ps pn d a b => encLX p d.code a.code b.code (lxExt 0x16 0 ty.code 0 0 0 ps.val (b2n pn) 0) (lLits [a, b])
  | .movLong p ty d a => encLX p d.code a.code 0 (lxExt 0x17 0 ty.code 0 0 0 0 0 0) (lLits [a])
  | .faddLong p ty rm z d a b => encLX p d.code a.code b.code (lxExt 0x20 0 ty.code rm.code (b2n z) 0 0 0 0) (lLits [a, b])
  | .fsubLong p ty rm z d a b => encLX p d.code a.code b.code (lxExt 0x21 0 ty.code rm.code (b2n z) 0 0 0 0) (lLits [a, b])
  | .fmulLong p ty rm z d a b => encLX p d.code a.code b.code (lxExt 0x22 0 ty.code rm.code (b2n z) 0 0 0 0) (lLits [a, b])
  | .ffmaLong p ty rm z d a b c => encLX p d.code a.code b.code (lxExt 0x23 c.code ty.code rm.code (b2n z) 0 0 0 0) (lLits [a, b, c])
  | .fminLong p ty z d a b => encLX p d.code a.code b.code (lxExt 0x24 0 ty.code 0 (b2n z) 0 0 0 0) (lLits [a, b])
  | .fmaxLong p ty z d a b => encLX p d.code a.code b.code (lxExt 0x25 0 ty.code 0 (b2n z) 0 0 0 0) (lLits [a, b])
  | .fminnLong p ty z d a b => encLX p d.code a.code b.code (lxExt 0x26 0 ty.code 0 (b2n z) 0 0 0 0) (lLits [a, b])
  | .fmaxnLong p ty z d a b => encLX p d.code a.code b.code (lxExt 0x27 0 ty.code 0 (b2n z) 0 0 0 0) (lLits [a, b])
  | .fabs p ty d a => encLX p d.code a.code 0 (lxExt 0x28 0 ty.code 0 0 0 0 0 0) (lLits [a])
  | .fneg p ty d a => encLX p d.code a.code 0 (lxExt 0x29 0 ty.code 0 0 0 0 0 0) (lLits [a])
  | .fcmpLong p f64 cc z pd a b =>
      encLX p 0 a.code b.code (lxExt 0x2A cc.code (4 + b2n f64) 0 (b2n z) 0 pd.val 0 0) (lLits [a, b])
  | .fclass p ty z d a => encLX p d.code a.code 0 (lxExt 0x2B 0 ty.code 0 (b2n z) 0 0 0 0) (lLits [a])
  | .cvt p dty sty rm z sat d a b =>
      encLX p d.code a.code (optLSrc b) (lxExt 0x40 sty.code dty.code rm.code (b2n z) (b2n sat) 0 0 0) (lLits (a :: optList b))
  | .qblk p ty rm d a b => encLX p d.code a.code (optLSrc b) (lxExt 0x41 0 ty.code rm.code 0 0 0 0 0) (lLits (a :: optList b))
  | .qblks p ty rm sat d a b c =>
      encLX p d.code a.code b.code (lxExt 0x42 (optLSrc c) ty.code rm.code 0 (b2n sat) 0 0 0) (lLits (a :: b :: optList c))
  | .dqblk p ty rm z d a b =>
      encLX p d.code a.code (optLSrc b) (lxExt 0x43 0 ty.code rm.code (b2n z) 0 0 0 0) (lLits (a :: optList b))
  | .shflLong p m ty d a b pd =>
      encLX p d.code a.code b.code (lxExt 0x50 (b2n m) ty.code 0 0 0 (match pd with | none => 0 | some q => q.val) 0 (b2n pd.isSome))
        (lLits [a, b])
  | .ldLong p sz acq nl1 d m =>
      encLMX p d.code 0 m 0x00 sz.code (b2n acq.isSome) (optScope acq) (b2n nl1) 0 []
  | .stLong p sz rel s m => encLMX p s.code 0 m 0x01 sz.code (2 * b2n rel.isSome) (optScope rel) 0 0 (lLits [s])
  | .ldsLong p sz acq d m => encLMX p d.code 0 m 0x02 sz.code (b2n acq.isSome) (optScope acq) 0 0 []
  | .stsLong p sz rel s m => encLMX p s.code 0 m 0x03 sz.code (2 * b2n rel.isSome) (optScope rel) 0 0 (lLits [s])
  | .atomLong p op sz ord d m s =>
      encLMX p (casBase d) (b2n d.isNone) m (8 + op.code) sz.code ord.code ord.scopeCode 0 s.code (lLits [s])
  | .atoms p op sz d m s => encLMX p (casBase d) (b2n d.isNone) m (16 + op.code) sz.code 0 0 0 s.code (lLits [s])
  | .pref p sl m => encLMX p 0 0 m 0x04 0 0 0 (b2n sl) 0 []
  | .dset p s m => encLMX p s.code 0 m 0x05 0 0 0 0 0 (lLits [s])
  | .dget p d m => encLMX p d.code 0 m 0x06 0 0 0 0 0 []
  | .stmc p sz rel s m gm =>
      encLMX p s.code 0 m 0x07 sz.code (2 * b2n rel.isSome) (optScope rel) 0 (120 + gm.val) (lLits [s])
  | .stred p op sz rel s m gm =>
      encLMX p s.code 0 m (0x18 + op.code) sz.code (2 * b2n rel.isSome) (optScope rel) 0 (120 + gm.val) (lLits [s])
  | .runb n va k => [wHead 1 0x01 0 (n.toNat * 2 ^ 16 + va.toNat * 2 ^ 9 + k.toNat * 2 ^ 5)]
  | .rune va k => [wHead 1 0x02 0 (va.toNat * 2 ^ 9 + k.toNat * 2 ^ 5)]
  | .waitc p a b c d => [wHead 1 0x03 p.code (a.toNat * 2 ^ 17 + b.toNat * 2 ^ 13 + c.toNat * 2 ^ 9 + d.toNat * 2 ^ 5)]
  | .bartm p => encUZ 0x04 p
  | .fence p k s => [wHead 1 0x05 p.code (k.code * 2 ^ 19 + s.code * 2 ^ 16)]
  | .exit p => encUZ 0x06 p
  | .bra p o => [wHead 1 0x08 p.code o.toNat]
  | .braq p pl all o => [wHead 1 0x09 p.code (pl.val * 2 ^ 18 + b2n all * 2 ^ 17 + o.toNat)]
  | .call p d o => [wHead 1 0x0A p.code (d.code * 2 ^ 15 + o.toNat)]
  | .ret p a => encUG 0x0B p 0 a.code 0 0 (uLits [a])
  | .jmpg p a => encUG 0x0C p 0 a.code 0 0 (uLits [a])
  | .trap p r => [wHead 1 0x0D p.code (b2n r * 2 ^ 20)]
  | .bkpt p t => [wHead 1 0x0E p.code t.toNat]
  | .fwcall p svc => [wHead 1 0x0F p.code (svc.toNat * 2 ^ 9)]
  | .gadd p d a b => encUG 0x10 p d.code a.code b.code 0 (uLits [a, b])
  | .gsub p d a b => encUG 0x10 p d.code a.code b.code 1 (uLits [a, b])
  | .gmul p d a b => encUG 0x10 p d.code a.code b.code 2 (uLits [a, b])
  | .gmulhiN64 p d a b => encUG 0x10 p d.code a.code b.code 3 (uLits [a, b])
  | .gmulhiI64 p d a b => encUG 0x10 p d.code a.code b.code 4 (uLits [a, b])
  | .gand p d a b => encUG 0x11 p d.code a.code b.code 0 (uLits [a, b])
  | .gor p d a b => encUG 0x11 p d.code a.code b.code 1 (uLits [a, b])
  | .gxor p d a b => encUG 0x11 p d.code a.code b.code 2 (uLits [a, b])
  | .gandn p d a b => encUG 0x11 p d.code a.code b.code 3 (uLits [a, b])
  | .gnot p d a => encUG 0x11 p d.code a.code 0 4 (uLits [a])
  | .gpopc p d a => encUG 0x11 p d.code a.code 0 5 (uLits [a])
  | .gclz p d a => encUG 0x11 p d.code a.code 0 6 (uLits [a])
  | .gshl p d a b => encUG 0x12 p d.code a.code b.code 0 (uLits [a, b])
  | .gshr p d a b => encUG 0x12 p d.code a.code b.code 1 (uLits [a, b])
  | .gsar p d a b => encUG 0x12 p d.code a.code b.code 2 (uLits [a, b])
  | .grotl p d a b => encUG 0x12 p d.code a.code b.code 3 (uLits [a, b])
  | .gminI64 p d a b => encUG 0x13 p d.code a.code b.code 0 (uLits [a, b])
  | .gmaxI64 p d a b => encUG 0x13 p d.code a.code b.code 1 (uLits [a, b])
  | .gminN64 p d a b => encUG 0x13 p d.code a.code b.code 2 (uLits [a, b])
  | .gmaxN64 p d a b => encUG 0x13 p d.code a.code b.code 3 (uLits [a, b])
  | .gmov p d a => encUG 0x14 p d.code a.code 0 0 (uLits [a])
  | .gmovN32 p d a => encUG 0x14 p d.code a.code 0 1 (uLits [a])
  | .gmovI32 p d a => encUG 0x14 p d.code a.code 0 2 (uLits [a])
  | .gcmp p cc lo qd a b => encUQ 0x15 p qd cc.code a.code b.code (b2n lo) (uLits [a, b])
  | .gsel p f d a b => encUG 0x16 p d.code a.code b.code f.val (uLits [a, b])
  | .qand p qd qa na qb nb =>
      [wHead 1 0x17 p.code (qd.val * 2 ^ 18 + qa.val * 2 ^ 15 + b2n na * 2 ^ 14 + qb.val * 2 ^ 11 + b2n nb * 2 ^ 10)]
  | .qor p qd qa na qb nb =>
      [wHead 1 0x17 p.code (qd.val * 2 ^ 18 + qa.val * 2 ^ 15 + b2n na * 2 ^ 14 + qb.val * 2 ^ 11 + b2n nb * 2 ^ 10 + 2 ^ 8)]
  | .qxor p qd qa na qb nb =>
      [wHead 1 0x17 p.code (qd.val * 2 ^ 18 + qa.val * 2 ^ 15 + b2n na * 2 ^ 14 + qb.val * 2 ^ 11 + b2n nb * 2 ^ 10 + 2 * 2 ^ 8)]
  | .sregUniform p d sr => [wHead 1 0x18 p.code (d.code * 2 ^ 15 + sr.code * 2 ^ 9)]
  | .sregw p sr a => wHead 1 0x19 p.code (sr.code * 2 ^ 15 + a.code * 2 ^ 9) :: uLits [a]
  | .vtog p m d v x =>
      encUV 0x1A p d.code v.val x.code (match m with | .zext => 0 | .sext => 1 | .pair => 2) (uLits [x])
  | .gtov p pr v g => encUV 0x1B p g.code v.val 0 (b2n pr) (uLits [g])
  | .vote p m d pl =>
      [wHead 1 0x1C p.code (d.code * 2 ^ 15 + pl.val * 2 ^ 12 + (match m with | .mask => 0 | .some => 1 | .every => 2) * 2 ^ 10)]
  | .pmark p => encUZ 0x1D p
  | .ldUniform p sz d b o =>
      wHead 1 0x20 p.code (d.code * 2 ^ 15 + b.code * 2 ^ 9 + sz.code * 2 ^ 6 + o.enc) :: (uLits [b] ++ o.lits)
  | .stUniform p sz s b o =>
      wHead 1 0x21 p.code (s.code * 2 ^ 15 + b.code * 2 ^ 9 + sz.code * 2 ^ 6 + o.enc) :: (uLits [b] ++ o.lits)
  | .qsend p sp qd a b => encUQ 0x22 p qd 0 a.code b.code (b2n sp) (uLits [a, b])
  | .flinit p a n sl => wHead 1 0x23 p.code (a.code * 2 ^ 15 + n.val * 2 ^ 11 + sl.toNat * 2) :: uLits [a]
  | .flacq p d a => encUG 0x24 p d.code a.code 0 0 (uLits [a])
  | .flrel p a => encUG 0x25 p 0 a.code 0 0 (uLits [a])
  | .boarm p a b => encUG 0x26 p 0 a.code b.code 0 (uLits [a, b])
  | .bowait p a => encUG 0x27 p 0 a.code 0 0 (uLits [a])
  | .mres p qd => encUQ 0x28 p qd 0 0 0 0 []
  | .mrel p => encUZ 0x29 p
  | .mmaq p a => encUG 0x2A p 0 a.code 0 0 (uLits [a])
  | .mdelta p a => encUG 0x2A p 0 a.code 0 1 (uLits [a])
  | .mdrain p a => encUG 0x2A p 0 a.code 0 2 (uLits [a])
  | .mzero p t st => [wHead 1 0x2B p.code (t.val * 2 ^ 17 + st.code * 2 ^ 15)]
  | .mstat p d => encUG 0x2C p d.code 0 0 0 []
  | .rsvinv p a => encUG 0x2D p 0 a.code 0 0 (uLits [a])
  | .rsvinvClear p a => encUG 0x2D p 0 a.code 0 1 (uLits [a])
  | .rsvq p a b => encUG 0x2D p 0 a.code b.code 2 (uLits [a, b])
  | .copyt p d a b => encUG 0x2E p d.code a.code b.code 0 (uLits [d, a, b])
  | .kick p d a => encUG 0x2E p d.code a.code 0 1 (uLits [d, a])
  | .tdload p d a => encUG 0x2E p d.code a.code 0 2 (uLits [a])
  | .tasksub p sp qd a => encUQ 0x30 p qd 0 a.code 0 (b2n sp) (uLits [a])
  | .taskdone p => encUZ 0x31 p
  | .fapp p g v => encUV 0x32 p g.code v.val 0 0 (uLits [g])
  | .ftake p g v pd => encUV 0x33 p g.code v.val pd.val 0 (uLits [g])
  | .dryw p a => encUG 0x34 p 0 a.code 0 0 (uLits [a])
  | .topen p qd a => encUQ 0x35 p qd 0 a.code 0 0 (uLits [a])
  | .trival p qd a => encUQ 0x35 p qd 1 a.code 0 0 (uLits [a])
  | .tscore p qd => encUQ 0x35 p qd 2 0 0 0 []
  | .tstat p qd b => encUQ 0x35 p qd 3 0 b.code 0 (uLits [b])
  | .tclose p qd => encUQ 0x35 p qd 4 0 0 0 []
  | .tcloseAbort p qd => encUQ 0x35 p qd 5 0 0 0 []
  | .spgrow p qd => encUQ 0x35 p qd 6 0 0 0 []
  | .rgive p qd => encUQ 0x36 p qd 0 0 0 0 []
  | .rclaim p qd => encUQ 0x36 p qd 1 0 0 0 []
  | _ => []

end Sys2Proof
end

