-- ==== Sys2Proof/Machine/LaneInt.lean ====
section
/-! DEFINITION. Lane instructions, integer part: arithmetic, logic, bit fields, compare, select, special registers, moves,
lane branches, shuffles and integer reductions (R404 to R424). -/

namespace Sys2Proof

/-- The width of a type is 64. -/
def ITy.wide : ITy → Bool
  | .n64 => true
  | .i64 => true
  | _ => false

/-- The type is signed. -/
def ITy.signed : ITy → Bool
  | .i32 => true
  | .i64 => true
  | _ => false

/-- The width of a type. -/
def ITy.w (ty : ITy) : Nat := if ty.wide then 64 else 32

/-- The least value of a type. -/
def ITy.lo (ty : ITy) : Int := if ty.signed then -(2 ^ (ty.w - 1) : Nat) else 0
/-- The greatest value of a type. -/
def ITy.hi (ty : ITy) : Int := if ty.signed then (2 ^ (ty.w - 1) : Nat) - 1 else (2 ^ ty.w : Nat) - 1

/-- `sat` of R406. -/
def ITy.sat (ty : ITy) (v : Int) : Int := max ty.lo (min ty.hi v)

/-- The type moves pairs. -/
def RTy.wide : RTy → Bool
  | .n64 => true
  | .i64 => true
  | .f64 => true
  | _ => false

end Sys2Proof

namespace Sys2Proof.Machine

/-! ## Short forms (R407) -/

def execIadd (p : Pred) (d : LDst) (a b : LSrc) (s : State) : Host.Outcome State Fault Refusal :=
  s.lane32 p 4 d (fun x => x.tagAdd [a, b]) (fun x l => x.w32 a l + x.w32 b l)

def execIsub (p : Pred) (d : LDst) (a b : LSrc) (s : State) : Host.Outcome State Fault Refusal :=
  s.lane32 p 4 d (fun x => x.tagAdd [a, b]) (fun x l => x.w32 a l - x.w32 b l)

def execImul (p : Pred) (d : LDst) (a b : LSrc) (s : State) : Host.Outcome State Fault Refusal :=
  s.lane32 p 4 d (fun x => x.tagMul a b) (fun x l => x.w32 a l * x.w32 b l)

def execAnd (p : Pred) (d : LDst) (a b : LSrc) (s : State) : Host.Outcome State Fault Refusal :=
  s.lane32 p 4 d (fun x => x.tagU [a, b]) (fun x l => x.w32 a l &&& x.w32 b l)

def execOr (p : Pred) (d : LDst) (a b : LSrc) (s : State) : Host.Outcome State Fault Refusal :=
  s.lane32 p 4 d (fun x => x.tagU [a, b]) (fun x l => x.w32 a l ||| x.w32 b l)

def execXor (p : Pred) (d : LDst) (a b : LSrc) (s : State) : Host.Outcome State Fault Refusal :=
  s.lane32 p 4 d (fun x => x.tagU [a, b]) (fun x l => x.w32 a l ^^^ x.w32 b l)

def execShl (p : Pred) (d : LDst) (a b : LSrc) (s : State) : Host.Outcome State Fault Refusal :=
  s.lane32 p 4 d (fun x => x.tagMul a b) (fun x l => x.w32 a l <<< ((x.w32 b l).toNat % 32))

def execShrN32 (p : Pred) (d : LDst) (a b : LSrc) (s : State) : Host.Outcome State Fault Refusal :=
  s.lane32 p 4 d (fun x => x.tagU [a, b]) (fun x l => x.w32 a l >>> ((x.w32 b l).toNat % 32))

def execShrI32 (p : Pred) (d : LDst) (a b : LSrc) (s : State) : Host.Outcome State Fault Refusal :=
  s.lane32 p 4 d (fun x => x.tagU [a, b]) (fun x l => (x.w32 a l).sshiftRight ((x.w32 b l).toNat % 32))

/-- The lesser of two values, as signed or as unsigned. -/
def minBits {w : Nat} (signed : Bool) (a b : BitVec w) : BitVec w :=
  if signed then (if b.toInt < a.toInt then b else a) else if b.toNat < a.toNat then b else a

/-- The greater of two values, as signed or as unsigned. -/
def maxBits {w : Nat} (signed : Bool) (a b : BitVec w) : BitVec w :=
  if signed then (if a.toInt < b.toInt then b else a) else if a.toNat < b.toNat then b else a

def execIminI32 (p : Pred) (d : LDst) (a b : LSrc) (s : State) : Host.Outcome State Fault Refusal :=
  s.lane32 p 4 d (fun x => x.tagU [a, b]) (fun x l => minBits true (x.w32 a l) (x.w32 b l))

def execImaxI32 (p : Pred) (d : LDst) (a b : LSrc) (s : State) : Host.Outcome State Fault Refusal :=
  s.lane32 p 4 d (fun x => x.tagU [a, b]) (fun x l => maxBits true (x.w32 a l) (x.w32 b l))

def execIminN32 (p : Pred) (d : LDst) (a b : LSrc) (s : State) : Host.Outcome State Fault Refusal :=
  s.lane32 p 4 d (fun x => x.tagU [a, b]) (fun x l => minBits false (x.w32 a l) (x.w32 b l))

def execImaxN32 (p : Pred) (d : LDst) (a b : LSrc) (s : State) : Host.Outcome State Fault Refusal :=
  s.lane32 p 4 d (fun x => x.tagU [a, b]) (fun x l => maxBits false (x.w32 a l) (x.w32 b l))

def execIcmp (p : Pred) (cc : ICC) (pd : Fin 8) (a b : LSrc) (s : State) : Host.Outcome State Fault Refusal :=
  s.laneP p 4 pd (fun x l => cc.holds (x.w32 a l) (x.w32 b l))

/-! ## Long forms (R405, R406, R408 to R411) -/

/-- A value operand as its bits, in 64 bits for every type. -/
def Iss.wty (x : Iss) (ty : ITy) (a : LSrc) (l : Nat) : DWord :=
  if ty.wide then x.w64 a l else (x.w32 a l).setWidth 64

/-- A value operand as an integer: `val` of R406. -/
def Iss.val (x : Iss) (ty : ITy) (a : LSrc) (l : Nat) : Int :=
  match ty with
  | .n32 => (x.w32 a l).toNat
  | .i32 => (x.w32 a l).toInt
  | .n64 => (x.w64 a l).toNat
  | .i64 => (x.w64 a l).toInt

/-- The tag of a long integer result (R424). -/
def Iss.tagLong (x : Iss) (ty : ITy) (sat : Bool) (narrow : Iss → Tag) (l : List LSrc) : Tag :=
  if ty.wide || sat then x.tagU l else narrow x

/-- A long integer instruction: the exact result of each active lane, clamped under `.sat` or wrapped (R409). -/
def State.laneI (s : State) (p : Pred) (ty : ITy) (sat : Bool) (d : LDst) (tag : Iss → Tag) (f : Iss → Nat → Int) :
    Host.Outcome State Fault Refusal :=
  let v := fun (x : Iss) (l : Nat) => if sat then ty.sat (f x l) else f x l
  if ty.wide then s.lane64 p 4 d tag (fun x l => BitVec.ofInt 64 (v x l))
  else s.lane32 p 4 d tag (fun x l => BitVec.ofInt 32 (v x l))

/-- A long integer instruction on the bits of its operands; for a 32-bit type the low word is the result. -/
def State.laneB (s : State) (p : Pred) (ty : ITy) (d : LDst) (l : List LSrc) (f : Iss → Nat → DWord) :
    Host.Outcome State Fault Refusal :=
  if ty.wide then s.lane64 p 4 d (fun x => x.tagU l) f
  else s.lane32 p 4 d (fun x => x.tagU l) (fun x i => (f x i).setWidth 32)

def execIaddLong (p : Pred) (ty : ITy) (sat : Bool) (d : LDst) (a b : LSrc) (s : State) :
    Host.Outcome State Fault Refusal :=
  s.laneI p ty sat d (fun x => x.tagLong ty sat (fun x => x.tagAdd [a, b]) [a, b]) (fun x l => x.val ty a l + x.val ty b l)

def execIsubLong (p : Pred) (ty : ITy) (sat : Bool) (d : LDst) (a b : LSrc) (s : State) :
    Host.Outcome State Fault Refusal :=
  s.laneI p ty sat d (fun x => x.tagLong ty sat (fun x => x.tagAdd [a, b]) [a, b]) (fun x l => x.val ty a l - x.val ty b l)

def execImulLong (p : Pred) (ty : ITy) (sat : Bool) (d : LDst) (a b : LSrc) (s : State) :
    Host.Outcome State Fault Refusal :=
  s.laneI p ty sat d (fun x => x.tagLong ty sat (fun x => x.tagMul a b) [a, b]) (fun x l => x.val ty a l * x.val ty b l)

def execImulhi (p : Pred) (ty : ITy) (d : LDst) (a b : LSrc) (s : State) : Host.Outcome State Fault Refusal :=
  s.laneI p ty false d (fun x => x.tagU [a, b]) (fun x l => (x.val ty a l * x.val ty b l) / (2 ^ ty.w : Nat))

def execImad (p : Pred) (ty : ITy) (sat : Bool) (d : LDst) (a b c : LSrc) (s : State) :
    Host.Outcome State Fault Refusal :=
  s.laneI p ty sat d (fun x => x.tagU [a, b, c]) (fun x l => x.val ty a l * x.val ty b l + x.val ty c l)

def execAndLong (p : Pred) (ty : ITy) (d : LDst) (a b : LSrc) (s : State) : Host.Outcome State Fault Refusal :=
  s.laneB p ty d [a, b] (fun x l => x.wty ty a l &&& x.wty ty b l)

def execOrLong (p : Pred) (ty : ITy) (d : LDst) (a b : LSrc) (s : State) : Host.Outcome State Fault Refusal :=
  s.laneB p ty d [a, b] (fun x l => x.wty ty a l ||| x.wty ty b l)

def execXorLong (p : Pred) (ty : ITy) (d : LDst) (a b : LSrc) (s : State) : Host.Outcome State Fault Refusal :=
  s.laneB p ty d [a, b] (fun x l => x.wty ty a l ^^^ x.wty ty b l)

def execAndn (p : Pred) (ty : ITy) (d : LDst) (a b : LSrc) (s : State) : Host.Outcome State Fault Refusal :=
  s.laneB p ty d [a, b] (fun x l => x.wty ty a l &&& ~~~(x.wty ty b l))

def execNot (p : Pred) (ty : ITy) (d : LDst) (a : LSrc) (s : State) : Host.Outcome State Fault Refusal :=
  s.laneB p ty d [a] (fun x l => ~~~(x.wty ty a l))

def execShlLong (p : Pred) (ty : ITy) (d : LDst) (a b : LSrc) (s : State) : Host.Outcome State Fault Refusal :=
  if ty.wide then s.lane64 p 4 d (fun x => x.tagU [a, b]) (fun x l => x.w64 a l <<< ((x.w32 b l).toNat % 64))
  else s.lane32 p 4 d (fun x => x.tagMul a b) (fun x l => x.w32 a l <<< ((x.w32 b l).toNat % 32))

def execShrLong (p : Pred) (ty : ITy) (d : LDst) (a b : LSrc) (s : State) : Host.Outcome State Fault Refusal :=
  s.laneI p ty false d (fun x => x.tagU [a, b]) (fun x l => x.val ty a l / (2 ^ ((x.w32 b l).toNat % ty.w) : Nat))

def execIminLong (p : Pred) (ty : ITy) (d : LDst) (a b : LSrc) (s : State) : Host.Outcome State Fault Refusal :=
  s.laneI p ty false d (fun x => x.tagU [a, b]) (fun x l => min (x.val ty a l) (x.val ty b l))

def execImaxLong (p : Pred) (ty : ITy) (d : LDst) (a b : LSrc) (s : State) : Host.Outcome State Fault Refusal :=
  s.laneI p ty false d (fun x => x.tagU [a, b]) (fun x l => max (x.val ty a l) (x.val ty b l))

def execIabs (p : Pred) (ty : ITy) (sat : Bool) (d : LDst) (a : LSrc) (s : State) : Host.Outcome State Fault Refusal :=
  s.laneI p ty sat d (fun x => x.tagU [a]) (fun x l => ((x.val ty a l).natAbs : Int))

/-- For an unsigned type the result is wrap(0 − A), or 0 clamped under `.sat` (R409). -/
def execIneg (p : Pred) (ty : ITy) (sat : Bool) (d : LDst) (a : LSrc) (s : State) : Host.Outcome State Fault Refusal :=
  s.laneI p ty sat d (fun x => x.tagU [a]) (fun x l => -(x.val ty a l))

/-- The number of 1 bits among the low `n`. -/
def popcount : Nat → Nat → Nat
  | 0, _ => 0
  | n + 1, v => v % 2 + popcount n (v / 2)

/-- Leading zero bits of an `n`-bit value. -/
def leadZeros : Nat → Nat → Nat
  | 0, _ => 0
  | n + 1, v => if v / 2 ^ n % 2 = 1 then 0 else 1 + leadZeros n v

/-- An `n`-bit value with bit i moved to bit n − 1 − i. -/
def bitReverse : Nat → Nat → Nat
  | 0, _ => 0
  | n + 1, v => v % 2 * 2 ^ n + bitReverse n (v / 2)

def execPopc (p : Pred) (ty : ITy) (d : LDst) (a : LSrc) (s : State) : Host.Outcome State Fault Refusal :=
  s.laneB p ty d [a] (fun x l => BitVec.ofNat 64 (popcount ty.w (x.wty ty a l).toNat))

def execClz (p : Pred) (ty : ITy) (d : LDst) (a : LSrc) (s : State) : Host.Outcome State Fault Refusal :=
  s.laneB p ty d [a] (fun x l => BitVec.ofNat 64 (leadZeros ty.w (x.wty ty a l).toNat))

def execBitrev (p : Pred) (ty : ITy) (d : LDst) (a : LSrc) (s : State) : Host.Outcome State Fault Refusal :=
  s.laneB p ty d [a] (fun x l => BitVec.ofNat 64 (bitReverse ty.w (x.wty ty a l).toNat))

/-- The length of a bit field cut at the top bit (R411). -/
def fieldLen (w : Nat) (b : Word) : Nat :=
  let pos := b.toNat % 256
  let len := b.toNat / 256 % 256
  if w ≤ pos then 0 else min len (w - pos)

/-- XFLD on the bits of a `w`-bit value (R411). -/
def extractField (signed : Bool) (w : Nat) (a : DWord) (b : Word) : DWord :=
  let n := fieldLen w b
  let f := a.toNat / 2 ^ (b.toNat % 256) % 2 ^ n
  if signed ∧ 0 < n ∧ f / 2 ^ (n - 1) = 1 then BitVec.ofInt 64 ((f : Int) - (2 ^ n : Nat)) else BitVec.ofNat 64 f

/-- IFLD on the bits of `w`-bit values (R411). -/
def insertField (w : Nat) (a : DWord) (b : Word) (c : DWord) : DWord :=
  let n := fieldLen w b
  let pos := b.toNat % 256
  let m : DWord := BitVec.ofNat 64 (2 ^ n - 1)
  if n = 0 then c else (c &&& ~~~(m <<< pos)) ||| ((a &&& m) <<< pos)

def execXfld (p : Pred) (ty : ITy) (d : LDst) (a b : LSrc) (s : State) : Host.Outcome State Fault Refusal :=
  s.laneB p ty d [a, b] (fun x l => extractField ty.signed ty.w (x.wty ty a l) (x.w32 b l))

def execIfld (p : Pred) (ty : ITy) (d : LDst) (a b c : LSrc) (s : State) : Host.Outcome State Fault Refusal :=
  s.laneB p ty d [a, b, c] (fun x l => insertField ty.w (x.wty ty a l) (x.w32 b l) (x.wty ty c l))

def execIcmpLong (p : Pred) (ty : ITy) (cc : ICC) (pd : Fin 8) (a b : LSrc) (s : State) :
    Host.Outcome State Fault Refusal :=
  s.laneP p 4 pd (fun x l =>
    if ty.wide then cc.holds (x.w64 a l) (x.w64 b l) else cc.holds (x.w32 a l) (x.w32 b l))

/-- SEL; a P source other than P0 is not uniform (R424). -/
def execSel (p : Pred) (ty : ITy) (ps : Fin 8) (pn : Bool) (d : LDst) (a b : LSrc) (s : State) :
    Host.Outcome State Fault Refusal :=
  let tag := fun (x : Iss) => if ps = 0 then x.tagU [a, b] else .general
  let c := fun (x : Iss) (l : Nat) => (x.pmask ps.val).has l != pn
  if ty.wide then s.lane64 p 4 d tag (fun x l => if c x l then x.w64 a l else x.w64 b l)
  else s.lane32 p 4 d tag (fun x l => if c x l then x.w32 a l else x.w32 b l)

def execMov (p : Pred) (d : LDst) (a : LSrc) (s : State) : Host.Outcome State Fault Refusal :=
  s.lane32 p 4 d (fun x => x.tagAdd [a]) (fun x l => x.w32 a l)

def execMovLong (p : Pred) (ty : ITy) (d : LDst) (a : LSrc) (s : State) : Host.Outcome State Fault Refusal :=
  if ty.wide then s.lane64 p 4 d (fun x => x.tagU [a]) (fun x l => x.w64 a l)
  else s.lane32 p 4 d (fun x => x.tagAdd [a]) (fun x l => x.w32 a l)

def execNop (_p : Pred) (s : State) : Host.Outcome State Fault Refusal := s.issue fun x => s.pass x

/-! ## Special registers (R366, R396, R415) -/

/-- The value of a special register that is one for the gang; the per-lane ones as slot `l` sees them. -/
def State.sregVal (s : State) (x : Iss) (sr : SReg) (l : Nat) : DWord :=
  let g := x.g
  let lane := (g.lanes.getD l none)
  let n := fun (v : Nat) => if g.core.isSome then (0 : DWord) else BitVec.ofNat 64 v
  match sr with
  | .tlid => n ((lane.map Lane.tlid).getD 0)
  | .slot => n l
  | .gangid => n g.gangid
  | .teamid => n (((s.team? g.team).map Team.teamid).getD 0)
  | .widlo => n (((lane.map Lane.wid).getD 0).toNat % 2 ^ 32)
  | .widhi => n (((lane.map Lane.wid).getD 0).toNat / 2 ^ 32)
  | .cluster => n g.cluster
  | .die => BitVec.ofNat 64 g.die
  | .role => n g.role
  | .now => BitVec.ofNat 64 x.now
  | .tenant => BitVec.ofNat 64 x.ctx
  | .rival => match s.rivalOf g with
    | none => 0
    | some r => BitVec.ofNat 64 (0x100 + r.2)
  | .ldc => BitVec.ofNat 64 (g.count 0)
  | .stc => BitVec.ofNat 64 (g.count 1)
  | .cpc => BitVec.ofNat 64 (g.count 2)
  | .tlc => BitVec.ofNat 64 (g.count 3)
  | .trapvec => g.trapvec
  | .trapcause => g.trapcause
  | .storehash => g.storehash

/-- The slots and TLIDs of the present lanes. -/
def Gang.map (g : Gang) : List (Int × Int) :=
  (List.range 32).filterMap (fun l => (g.lanes.getD l none).map (fun x => ((l : Int), (x.tlid : Int))))

/-- The lane map is affine in the slot: the TLIDs of the present slots rise by one step a slot (R176). -/
def Gang.mapAffine (g : Gang) : Bool :=
  match g.map with
  | a :: b :: l =>
    let step := (b.2 - a.2) / (b.1 - a.1)
    (b :: l).all (fun c => c.2 = a.2 + (c.1 - a.1) * step)
  | _ => true

/-- The tag of a lane SREG's result (R424). -/
def Iss.sregTag (x : Iss) : SReg → Tag
  | .slot => .affine
  | .tlid => if x.g.mapAffine then .affine else .general
  | .widlo => .general
  | .widhi => .general
  | _ => .uniform

def execSreg (p : Pred) (d : LDst) (sr : SReg) (s : State) : Host.Outcome State Fault Refusal :=
  s.lane32 p 4 d (fun x => x.sregTag sr) (fun x l => (s.sregVal x sr l).setWidth 32)

/-! ## Lane branches (R418 to R420): the effect takes place when the path passes RUNE -/

/-- Notes what the last instruction of a run has branched. -/
def Run.note (lanes : Mask) (target : DWord) (rg : Option (BitVec 8 × BitVec 7)) (r : Run) : Run :=
  { r with branch := r.branch ++ [(lanes, target)], regroup := rg }

def execLbr (p : Pred) (ofs : BitVec 21) (s : State) : Host.Outcome State Fault Refusal :=
  s.issue fun x => s.modGang x.k (fun g => (g.modPath x.path.lanes (fun q =>
    { q with run := q.run.map (Run.note (x.act p) (x.pc + 4 * ofs.signExtend 64) none) })).goOn x)

def execLexit (p : Pred) (s : State) : Host.Outcome State Fault Refusal :=
  s.issue fun x => s.modGang x.k (fun g => (g.modPath x.path.lanes (fun q =>
    { q with run := q.run.map (fun r => { r with exits := r.exits ||| x.act p }) })).goOn x)

/-- LBR.rg: a launch that a session covers takes it as LBR (R281, R419). -/
def execLbrRg (p : Pred) (ofs : BitVec 21) (liveG : BitVec 8) (liveQ : BitVec 7) (s : State) :
    Host.Outcome State Fault Refusal :=
  s.issue fun x => s.modGang x.k (fun g => (g.modPath x.path.lanes (fun q =>
    { q with run := q.run.map (Run.note (x.act p) (x.pc + 4 * ofs.signExtend 64) (some (liveG, liveQ))) })).goOn x)

/-! ## Shuffles (R421, R422) -/

/-- The slot of this gang whose lane has TLID `i`. -/
def Gang.slotOf (g : Gang) (i : Nat) : Option Nat :=
  (List.range 32).find? (fun l => (g.lanes.getD l none).map Lane.tlid == some i)

/-- The member lane that selector `i` names, if it names one. -/
def Iss.member (x : Iss) (bytlid : Bool) (i : Nat) : Option Nat :=
  let src := if bytlid then x.g.slotOf i else if i < 32 then some i else none
  src.filter (fun l => x.path.lanes.has l)

def execShfl (p : Pred) (d : LDst) (a b : LSrc) (s : State) : Host.Outcome State Fault Refusal :=
  s.lane32 p 6 d (fun _ => .general) (fun x l => x.w32 a ((x.member false (x.w32 b l).toNat).getD l))

def execShflLong (p : Pred) (bytlid : Bool) (ty : RTy) (d : LDst) (a b : LSrc) (pd : Option (Fin 8)) (s : State) :
    Host.Outcome State Fault Refusal :=
  s.issue fun x =>
    let act := x.act p
    let src := fun (l : Nat) => x.member bytlid (x.w32 b l).toNat
    let w := if ty.wide then write64 d act (fun l => x.w64 a ((src l).getD l))
      else write32 d act (fun l => x.w32 a ((src l).getD l))
    let pw := match pd with
      | none => []
      | some n => [Write.p n.val act (maskOf act (fun l => (src l).isSome))]
    s.regs x 6 .general (w ++ pw) []

end Sys2Proof.Machine
end

