-- ==== Sys2Proof/Machine/Sfu.lean ====
section
/-! DEFINITION. The SFU functions (R440 to R443): exact reciprocals and roots; the other functions are the part's own within
the bounds of R442 (log 12), which fixed-point sums with 100 fraction bits measure. -/

namespace Sys2Proof.Machine

/-- Integer square root, bit by bit. -/
def isqrtGo : Nat → Nat → Nat → Nat
  | 0, _, r => r
  | k + 1, v, r => let c := r + 2 ^ k; if c * c ≤ v then isqrtGo k v c else isqrtGo k v r

/-- The integer square root of `v`. -/
def isqrt (v : Nat) : Nat := isqrtGo (Nat.log2 v / 2 + 1) v 0

/-- 1/v of a finite value that is not zero, with a sticky bit beyond every bit a rounding sees. -/
def recipVal (f : Fmt) (neg : Bool) (m : Nat) (e : Int) : FVal :=
  let k := Nat.log2 m + f.mb + 4
  let q := 2 ^ k / m
  .fin neg (2 * q + (if 2 ^ k % m = 0 then 0 else 1)) (-(k : Int) - 1 - e)

/-- The root of a positive value, with a sticky bit. -/
def rootVal (f : Fmt) (m : Nat) (e : Int) : FVal :=
  let m1 := if e % 2 = 0 then m else 2 * m
  let e1 := if e % 2 = 0 then e else e - 1
  let t := f.mb + 4
  let v := m1 * 2 ^ (2 * t)
  let r := isqrt v
  .fin false (2 * r + (if r * r = v then 0 else 1)) (e1 / 2 - t - 1)

/-! ## Fixed point with 100 fraction bits -/

def fxOne : Int := 2 ^ 100
/-- ln 2 in fixed point. -/
def fxLn2 : Int := 878668439483319573618263538048
/-- P of R442: 2π rounded to the nearest multiple of 2^−125. -/
def twoPi125 : Int := 267257146016241686964920093290467695825
def fxMul (a b : Int) : Int := a * b / fxOne

/-- Σ t_n where t_0 = t and t_{n+1} = t_n · x / (n + k + 1) · ..., the series of exp: `n` terms from the k-th. -/
def fxExpGo : Nat → Nat → Int → Int → Int → Int
  | 0, _, _, _, acc => acc
  | n + 1, k, x, t, acc => let t1 := fxMul t x / (k + 1 : Nat); fxExpGo n (k + 1) x t1 (acc + t1)

/-- e^x for |x| below 1. -/
def fxExp (x : Int) : Int := fxExpGo 40 0 x fxOne fxOne

/-- Σ z^(2k+1)/(2k+1): `n` terms from the k-th. -/
def fxAtanhGo : Nat → Nat → Int → Int → Int → Int
  | 0, _, _, _, acc => acc
  | n + 1, k, z2, t, acc => fxAtanhGo n (k + 1) z2 (fxMul t z2) (acc + t / (2 * k + 1 : Nat))

/-- ln y for y from 1 to 2. -/
def fxLn (y : Int) : Int :=
  let z := (y - fxOne) * fxOne / (y + fxOne)
  2 * fxAtanhGo 40 0 (fxMul z z) z 0

/-- The series of sine (k = 1) or cosine (k = 0): `n` terms. -/
def fxSinGo : Nat → Nat → Int → Int → Int → Int
  | 0, _, _, _, acc => acc
  | n + 1, k, x2, t, acc => fxSinGo n (k + 2) x2 (-(fxMul t x2) / ((k + 1) * (k + 2) : Nat)) (acc + t)

def fxSin (x : Int) : Int := fxSinGo 40 1 (fxMul x x) x 0
def fxCos (x : Int) : Int := fxSinGo 40 0 (fxMul x x) fxOne 0

/-- A value in fixed point with `s` fraction bits, cut towards −∞. -/
def toFx (s : Nat) (neg : Bool) (m : Nat) (e : Int) : Int :=
  let k := e + s
  if 0 ≤ k then signed neg (m * 2 ^ k.toNat) else signed neg m / (2 ^ (-k).toNat : Nat)

/-- The integer nearest to a / b for b > 0, ties to even. -/
def nearest (a b : Int) : Int :=
  let q := a / b
  let r := a - q * b
  if b < 2 * r then q + 1 else if 2 * r = b then q + q % 2 else q

/-- The remainder of x by P, in fixed point (R442). -/
def reduce2Pi (neg : Bool) (m : Nat) (e : Int) : Int :=
  let x := toFx 125 neg m e
  (x - nearest x twoPi125 * twoPi125) / 2 ^ 25

/-- An approximation a · 2^(b − 100) of a function's exact value, far closer than the bounds of R442. -/
structure Approx where
  a : Int
  b : Int

def pow2Approx (neg : Bool) (m : Nat) (e : Int) : Approx :=
  let x := toFx 100 neg m e
  let n := x / fxOne
  ⟨fxExp (fxMul (x - n * fxOne) fxLn2), n⟩

def log2Approx (m : Nat) (e : Int) : Approx :=
  let k := Nat.log2 m
  let y : Int := (m * 2 ^ 100 / 2 ^ k : Nat)
  ⟨((k : Int) + e) * fxOne + fxLn y * fxOne / fxLn2, 0⟩

def sineApprox (neg : Bool) (m : Nat) (e : Int) : Approx := ⟨fxSin (reduce2Pi neg m e), 0⟩
def cosineApprox (neg : Bool) (m : Nat) (e : Int) : Approx := ⟨fxCos (reduce2Pi neg m e), 0⟩

def htanApprox (neg : Bool) (m : Nat) (e : Int) : Approx :=
  if 4 ≤ (Nat.log2 m : Int) + e then ⟨signed neg 1 * fxOne, 0⟩
  else
    let y := toFx 100 false (2 * m) e * fxOne / fxLn2
    let n := y / fxOne
    let ex := fxExp (fxMul (y - n * fxOne) fxLn2) * 2 ^ n.toNat
    let t := (ex - fxOne) * fxOne / (ex + fxOne)
    ⟨if neg then -t else t, 0⟩

def rrootApprox (m : Nat) (e : Int) : Approx :=
  let m1 := if e % 2 = 0 then m else 2 * m
  let e1 := if e % 2 = 0 then e else e - 1
  let r := isqrt (2 ^ 400 / m1)
  let d : Int := Nat.log2 r
  ⟨if 100 ≤ d then (r / 2 ^ (d - 100).toNat : Nat) else (r * 2 ^ (100 - d).toNat : Nat), d - 200 - e1 / 2⟩

/-- The exponent of the last place of a format at the binade of an approximation. -/
def ulpExp (f : Fmt) (x : Approx) : Int :=
  max ((Nat.log2 x.a.natAbs : Int) + x.b - 100 - f.mb) (1 - f.bias - f.mb)

/-- |v − approx| ≤ tol · 2^te, to within 2^(b − 80). -/
def withinTol (v : FVal) (x : Approx) (tol : Nat) (te : Int) : Bool :=
  match v with
  | .fin n m e =>
    let g := min (min e (x.b - 100)) te
    let diff := signed n (m * 2 ^ (e - g).toNat) - x.a * (2 ^ (x.b - 100 - g).toNat : Nat)
    decide ((diff.natAbs : Int) ≤ (tol * 2 ^ (te - g).toNat + 2 ^ (x.b - 80 - g).toNat : Nat))
  | _ => false

/-- The value an approximation stands for. -/
def Approx.val (x : Approx) : FVal := .fin (decide (x.a < 0)) x.a.natAbs (x.b - 100)

/-- The part's own bits where they keep the bound, else the rounded approximation (log 12). -/
def ownBits (f : Fmt) (code : Nat) (src : Nat) (x : Approx) (ok : FVal → Bool) : FRes :=
  let c := (Config.sfuBits code (BitVec.ofNat 64 src)).toNat % 2 ^ f.w
  if ok (f.decode c) then { bits := c } else f.round .rne x.val

/-- A zero. -/
def Fmt.zero (f : Fmt) (neg : Bool) : FRes := { bits := f.signBits neg }

/-- F32 functions return a zero of its sign in place of a subnormal result (R442). -/
def flush32 (on : Bool) (f : Fmt) (r : FRes) : FRes := { r with bits := f.ftz on r.bits }

/-- A power of two: the exponent of a value 2^n. -/
def pow2Of (m : Nat) (e : Int) : Option Int := if m = 2 ^ Nat.log2 m then some (Nat.log2 m + e) else none

/-- An integer that a value is. -/
def intVal (neg : Bool) (m : Nat) (e : Int) : Option Int :=
  if 0 ≤ e then (if e ≤ 64 then some (signed neg (m * 2 ^ e.toNat)) else none)
  else if m % 2 ^ (-e).toNat = 0 then some (signed neg (m / 2 ^ (-e).toNat)) else none

/-- An SFU function of a source's bits (R442, R443). -/
def sfuEval (fn : SfuFn) (src : Nat) : FRes :=
  let wide := match fn with
    | .recip64 | .rroot64 | .root64 => true
    | _ => false
  let f := if wide then Fmt.f64 else Fmt.f32
  let b := f.ftz (!wide) src
  let nan : FRes := { bits := f.canon, inv := true }
  let inf := fun (n : Bool) => ({ bits := f.infBits n } : FRes)
  let infz := fun (n : Bool) => ({ bits := f.infBits n, dz := true } : FRes)
  match f.decode b with
  | .nan sig => { bits := f.canon, inv := sig }
  | .inf neg => match fn with
    | .recip32 | .recip64 => f.zero neg
    | .rroot32 | .rroot64 => if neg then nan else f.zero false
    | .root32 | .root64 => if neg then nan else inf false
    | .pow2 => if neg then f.zero false else inf false
    | .log2 => if neg then nan else inf false
    | .sine | .cosine => nan
    | .htan => f.round .rne (.fin neg 1 0)
  | .fin neg m e =>
    if m = 0 then match fn with
      | .recip32 | .recip64 | .rroot32 | .rroot64 => infz neg
      | .root32 | .root64 => f.zero neg
      | .pow2 => f.round .rne (.fin false 1 0)
      | .log2 => infz true
      | .sine | .htan => f.zero neg
      | .cosine => f.round .rne (.fin false 1 0)
    else match fn with
      | .recip32 => flush32 true f (f.round .rne (recipVal f neg m e))
      | .recip64 => f.round .rne (recipVal f neg m e)
      | .root32 => if neg then nan else f.round .rne (rootVal f m e)
      | .root64 => if neg then nan else f.round .rne (rootVal f m e)
      | .rroot32 => if neg then nan else
          let x := rrootApprox m e
          ownBits f 1 b x (fun v => withinTol v x 2 (ulpExp f x))
      | .rroot64 => if neg then nan else
          let x := rrootApprox m e
          ownBits f 9 b x (fun v => withinTol v x 1 (ulpExp f x))
      | .pow2 =>
          if !neg ∧ 7 ≤ (Nat.log2 m : Int) + e then { bits := f.infBits false, ovf := true }
          else if neg ∧ 8 ≤ (Nat.log2 m : Int) + e then f.zero false
          else match intVal neg m e with
            | some n => flush32 true f (f.round .rne (.fin false 1 n))
            | none =>
              let x := pow2Approx neg m e
              flush32 true f (ownBits f 3 b x (fun v => withinTol v x 2 (ulpExp f x)))
      | .log2 => if neg then nan else match pow2Of m e with
          | some n => f.round .rne (ofInteger n)
          | none =>
            let x := log2Approx m e
            let inside := decide ((Nat.log2 m : Int) + e = 0 ∨ (Nat.log2 m : Int) + e = -1)
            flush32 true f (ownBits f 4 b x (fun v =>
              if inside then withinTol v x 1 (-22) else withinTol v x 2 (ulpExp f x)))
      | .sine => let x := sineApprox neg m e; flush32 true f (ownBits f 5 b x (fun v => withinTol v x 1 (-21)))
      | .cosine => let x := cosineApprox neg m e; flush32 true f (ownBits f 6 b x (fun v => withinTol v x 1 (-21)))
      | .htan =>
          let x := htanApprox neg m e
          flush32 true f (ownBits f 7 b x (fun v => withinTol v x 2 (ulpExp f x) || withinTol v x 1 (-24)))

end Sys2Proof.Machine
end

