-- ==== Sys2Proof/Machine/LaneFloat.lean ====
section
/-! DEFINITION. Lane instructions, floating-point part: arithmetic, minimum and maximum, compare and class, conversion,
block quantise and dequantise, float reductions, and the issue of SFU functions (R423, R425 to R445). -/

namespace Sys2Proof

/-- A destination read as a source (short FFMA, R427). -/
def LDst.src : LDst → LSrc
  | .v n => .v n
  | .t n => .t n

end Sys2Proof

namespace Sys2Proof.Machine

/-- A 64-bit float operand: a literal is an F32 value widened exactly (R355). -/
def Iss.f64 (x : Iss) (a : LSrc) (l : Nat) : DWord :=
  match a with
  | .lit w => BitVec.ofNat 64 (Fmt.f64.round .rne (Fmt.f32.decode w.toNat)).bits
  | _ => x.w64 a l

/-- The number format of a float type (R361). -/
def ftyFmt : FTy → Fmt
  | .f32 => .f32
  | .f64 => .f64
  | .bf16x2 => .bf16
  | .f16x2 => .f16

/-- The elements of an operand of a type (R426). -/
def Iss.elems (x : Iss) (ty : FTy) (a : LSrc) (l : Nat) : List Nat :=
  match ty with
  | .f32 => [(x.w32 a l).toNat]
  | .f64 => [(x.f64 a l).toNat]
  | _ => [(x.w32 a l).toNat % 2 ^ 16, (x.w32 a l).toNat / 2 ^ 16]

/-- Elements packed into a register or pair. -/
def packElems (ty : FTy) (bs : List Nat) : Nat :=
  match ty with
  | .f32 | .f64 => bs.getD 0 0
  | _ => bs.getD 0 0 + bs.getD 1 0 * 2 ^ 16

/-- The latency of a type (R425). -/
def ftyLat : FTy → Nat
  | .f64 => 8
  | _ => 4

/-- The slots whose results record a cause. -/
def causeMask (rs : List (List FRes)) (f : FRes → Bool) : Mask :=
  maskOf 0xFFFFFFFF (fun l => (rs.getD l []).any f)

/-- The causes that results record (R193, R298). -/
def causes (rs : List (List FRes)) : List (Nat × Mask) :=
  [(0x201, causeMask rs FRes.inv), (0x202, causeMask rs FRes.dz), (0x203, causeMask rs FRes.ovf)].filter (fun c => c.2 ≠ 0)

/-- The results of every active lane. -/
def laneRes (act : Mask) (f : Nat → List FRes) : List (List FRes) :=
  (List.range 32).map (fun l => if act.has l then f l else [])

/-- A float instruction of a type: each element of each active lane from the elements of its sources (R429). -/
def State.laneF (s : State) (p : Pred) (ty : FTy) (lat : Nat) (d : LDst) (srcs : List LSrc) (f : Fmt → List Nat → FRes) :
    Host.Outcome State Fault Refusal :=
  s.issue fun x =>
    let act := x.act p
    let rs := laneRes act (fun l =>
      let es := srcs.map (fun a => x.elems ty a l)
      (List.range (match ty with
        | .f32 | .f64 => 1
        | _ => 2)).map (fun i => f (ftyFmt ty) (es.map (fun e => e.getD i 0))))
    let v := fun (l : Nat) => packElems ty ((rs.getD l []).map FRes.bits)
    let ws := match ty with
      | .f64 => write64 d act (fun l => BitVec.ofNat 64 (v l))
      | _ => write32 d act (fun l => BitVec.ofNat 32 (v l))
    s.regs x lat (x.tagU srcs) ws (causes rs)

/-- An operation with `.ftz` on its sources and its result (R297). -/
def withFtz (on : Bool) (f : Fmt → List Nat → FRes) (fm : Fmt) (es : List Nat) : FRes :=
  let r := f fm (es.map (fm.ftz on))
  { r with bits := fm.ftz on r.bits }

def opAdd (rm : RMode) (f : Fmt) (es : List Nat) : FRes := f.add rm (es.getD 0 0) (es.getD 1 0)
def opSub (rm : RMode) (f : Fmt) (es : List Nat) : FRes := f.sub rm (es.getD 0 0) (es.getD 1 0)
def opMul (rm : RMode) (f : Fmt) (es : List Nat) : FRes := f.mul rm (es.getD 0 0) (es.getD 1 0)
def opFma (rm : RMode) (f : Fmt) (es : List Nat) : FRes := f.fma rm (es.getD 0 0) (es.getD 1 0) (es.getD 2 0)
def opMinmax (big n ftz : Bool) (f : Fmt) (es : List Nat) : FRes := f.minmax big n ftz (es.getD 0 0) (es.getD 1 0)

def execFaddF32 (p : Pred) (d : LDst) (a b : LSrc) (s : State) : Host.Outcome State Fault Refusal :=
  s.laneF p .f32 4 d [a, b] (opAdd .rne)
def execFsubF32 (p : Pred) (d : LDst) (a b : LSrc) (s : State) : Host.Outcome State Fault Refusal :=
  s.laneF p .f32 4 d [a, b] (opSub .rne)
def execFmulF32 (p : Pred) (d : LDst) (a b : LSrc) (s : State) : Host.Outcome State Fault Refusal :=
  s.laneF p .f32 4 d [a, b] (opMul .rne)
def execFfmaF32 (p : Pred) (d : LDst) (a b : LSrc) (s : State) : Host.Outcome State Fault Refusal :=
  s.laneF p .f32 4 d [a, b, d.src] (opFma .rne)
def execFminF32 (p : Pred) (d : LDst) (a b : LSrc) (s : State) : Host.Outcome State Fault Refusal :=
  s.laneF p .f32 4 d [a, b] (opMinmax false false false)
def execFmaxF32 (p : Pred) (d : LDst) (a b : LSrc) (s : State) : Host.Outcome State Fault Refusal :=
  s.laneF p .f32 4 d [a, b] (opMinmax true false false)
def execFminnF32 (p : Pred) (d : LDst) (a b : LSrc) (s : State) : Host.Outcome State Fault Refusal :=
  s.laneF p .f32 4 d [a, b] (opMinmax false true false)
def execFmaxnF32 (p : Pred) (d : LDst) (a b : LSrc) (s : State) : Host.Outcome State Fault Refusal :=
  s.laneF p .f32 4 d [a, b] (opMinmax true true false)
def execFaddF64 (p : Pred) (d : LDst) (a b : LSrc) (s : State) : Host.Outcome State Fault Refusal :=
  s.laneF p .f64 8 d [a, b] (opAdd .rne)
def execFmulF64 (p : Pred) (d : LDst) (a b : LSrc) (s : State) : Host.Outcome State Fault Refusal :=
  s.laneF p .f64 8 d [a, b] (opMul .rne)
def execFfmaF64 (p : Pred) (d : LDst) (a b : LSrc) (s : State) : Host.Outcome State Fault Refusal :=
  s.laneF p .f64 8 d [a, b, d.src] (opFma .rne)
def execFaddBf16X2 (p : Pred) (d : LDst) (a b : LSrc) (s : State) : Host.Outcome State Fault Refusal :=
  s.laneF p .bf16x2 4 d [a, b] (opAdd .rne)
def execFmulBf16X2 (p : Pred) (d : LDst) (a b : LSrc) (s : State) : Host.Outcome State Fault Refusal :=
  s.laneF p .bf16x2 4 d [a, b] (opMul .rne)
def execFfmaBf16X2 (p : Pred) (d : LDst) (a b : LSrc) (s : State) : Host.Outcome State Fault Refusal :=
  s.laneF p .bf16x2 4 d [a, b, d.src] (opFma .rne)
def execFaddF16X2 (p : Pred) (d : LDst) (a b : LSrc) (s : State) : Host.Outcome State Fault Refusal :=
  s.laneF p .f16x2 4 d [a, b] (opAdd .rne)
def execFmulF16X2 (p : Pred) (d : LDst) (a b : LSrc) (s : State) : Host.Outcome State Fault Refusal :=
  s.laneF p .f16x2 4 d [a, b] (opMul .rne)

def execFaddLong (p : Pred) (ty : FTy) (rm : RMode) (ftz : Bool) (d : LDst) (a b : LSrc) (s : State) :
    Host.Outcome State Fault Refusal := s.laneF p ty (ftyLat ty) d [a, b] (withFtz ftz (opAdd rm))
def execFsubLong (p : Pred) (ty : FTy) (rm : RMode) (ftz : Bool) (d : LDst) (a b : LSrc) (s : State) :
    Host.Outcome State Fault Refusal := s.laneF p ty (ftyLat ty) d [a, b] (withFtz ftz (opSub rm))
def execFmulLong (p : Pred) (ty : FTy) (rm : RMode) (ftz : Bool) (d : LDst) (a b : LSrc) (s : State) :
    Host.Outcome State Fault Refusal := s.laneF p ty (ftyLat ty) d [a, b] (withFtz ftz (opMul rm))
def execFfmaLong (p : Pred) (ty : FTy) (rm : RMode) (ftz : Bool) (d : LDst) (a b c : LSrc) (s : State) :
    Host.Outcome State Fault Refusal := s.laneF p ty (ftyLat ty) d [a, b, c] (withFtz ftz (opFma rm))
def execFminLong (p : Pred) (ty : FTy) (ftz : Bool) (d : LDst) (a b : LSrc) (s : State) :
    Host.Outcome State Fault Refusal := s.laneF p ty (ftyLat ty) d [a, b] (opMinmax false false ftz)
def execFmaxLong (p : Pred) (ty : FTy) (ftz : Bool) (d : LDst) (a b : LSrc) (s : State) :
    Host.Outcome State Fault Refusal := s.laneF p ty (ftyLat ty) d [a, b] (opMinmax true false ftz)
def execFminnLong (p : Pred) (ty : FTy) (ftz : Bool) (d : LDst) (a b : LSrc) (s : State) :
    Host.Outcome State Fault Refusal := s.laneF p ty (ftyLat ty) d [a, b] (opMinmax false true ftz)
def execFmaxnLong (p : Pred) (ty : FTy) (ftz : Bool) (d : LDst) (a b : LSrc) (s : State) :
    Host.Outcome State Fault Refusal := s.laneF p ty (ftyLat ty) d [a, b] (opMinmax true true ftz)
def execFabs (p : Pred) (ty : FTy) (d : LDst) (a : LSrc) (s : State) : Host.Outcome State Fault Refusal :=
  s.laneF p ty (ftyLat ty) d [a] (fun f es => { bits := f.mag (es.getD 0 0) })
def execFneg (p : Pred) (ty : FTy) (d : LDst) (a : LSrc) (s : State) : Host.Outcome State Fault Refusal :=
  s.laneF p ty (ftyLat ty) d [a] (fun f es => { bits := f.mag (es.getD 0 0) + f.signBits (!f.neg (es.getD 0 0)) })

/-- A float compare (R432). -/
def State.laneCmp (s : State) (p : Pred) (ty : FTy) (cc : FCC) (ftz : Bool) (pd : Fin 8) (a b : LSrc) :
    Host.Outcome State Fault Refusal :=
  s.issue fun x =>
    let act := x.act p
    let f := ftyFmt ty
    let r := fun (l : Nat) => f.cmp cc (f.ftz ftz ((x.elems ty a l).getD 0 0)) (f.ftz ftz ((x.elems ty b l).getD 0 0))
    let inv := maskOf act (fun l => (r l).2)
    s.regs x (ftyLat ty) .general [.p pd.val act (maskOf act (fun l => (r l).1))] (if inv = 0 then [] else [(0x201, inv)])

def execFcmpF32 (p : Pred) (cc : FCC) (pd : Fin 8) (a b : LSrc) (s : State) : Host.Outcome State Fault Refusal :=
  s.laneCmp p .f32 cc false pd a b
def execFcmpLong (p : Pred) (f64 : Bool) (cc : FCC) (ftz : Bool) (pd : Fin 8) (a b : LSrc) (s : State) :
    Host.Outcome State Fault Refusal := s.laneCmp p (if f64 then .f64 else .f32) cc ftz pd a b

def execFclass (p : Pred) (ty : FTy) (ftz : Bool) (d : LDst) (a : LSrc) (s : State) :
    Host.Outcome State Fault Refusal :=
  s.lane32 p (ftyLat ty) d (fun x => x.tagU [a]) (fun x l =>
    BitVec.ofNat 32 (packElems ty ((x.elems ty a l).map (fun b => (ftyFmt ty).classOf ((ftyFmt ty).ftz ftz b)))))

/-! ## Conversion (R433, R434) -/

/-- What a type of CVT is: an integer of a width, or a float format; and whether it is a packed pair. -/
def cvtElem : Ty → Elem × Bool
  | .n32 => (.int 32 false, false)
  | .i32 => (.int 32 true, false)
  | .n64 => (.int 64 false, false)
  | .i64 => (.int 64 true, false)
  | .f32 => (.flt .f32, false)
  | .f64 => (.flt .f64, false)
  | .bf16x2 => (.flt .bf16, true)
  | .f16x2 => (.flt .f16, true)
  | .n16x2 => (.int 16 false, true)
  | .i16x2 => (.int 16 true, true)
  | .n8 => (.int 8 false, false)
  | .i8 => (.int 8 true, false)
  | .n16 => (.int 16 false, false)
  | .i16 => (.int 16 true, false)
  | .bf16 => (.flt .bf16, false)
  | .f16 => (.flt .f16, false)
  | .e4m3 => (.flt .e4m3, false)
  | .e5m2 => (.flt .e5m2, false)
  | .e2m1 => (.flt .e2m1, false)

/-- The source's value after `.ftz`. -/
def Elem.src (el : Elem) (ftz : Bool) (b : Nat) : FVal :=
  match el with
  | .flt f => f.decode (if 16 ≤ f.w then f.ftz ftz (b % 2 ^ f.w) else b % 2 ^ f.w)
  | .int w sg => ofInteger (intOf w sg b)

/-- One element converted (R434). -/
def cvtOne (dst src : Elem) (rm : RMode) (ftz sat : Bool) (b : Nat) : FRes :=
  match dst, src with
  | .int w sg, .int v sv =>
    let x := intOf v sv b
    let y := if sat then max (intRange w sg).1 (min (intRange w sg).2 x) else x
    { bits := (BitVec.ofInt w y).toNat }
  | .int w sg, .flt _ =>
    let r := toInteger rm sat (intRange w sg).1 (intRange w sg).2 (src.src ftz b)
    { bits := (BitVec.ofInt w r.1).toNat, inv := r.2 }
  | .flt f, _ =>
    let v := src.src ftz b
    if 16 ≤ f.w then
      let r := f.round rm v
      { r with bits := f.ftz ftz r.bits }
    else f.narrow rm sat v

/-- A scalar result as a whole register: `.i8` and `.i16` sign-extended, every other zero-extended (R426). -/
def cvtWiden (dst : Elem) (b : Nat) : Nat :=
  match dst with
  | .int w true => if w < 32 then (BitVec.ofInt 32 (intOf w true b)).toNat else b
  | _ => b

/-- CVT: a packing form where there is a second source (R433). -/
def execCvt (p : Pred) (dty sty : Ty) (rm : RMode) (ftz sat : Bool) (d : LDst) (a : LSrc) (b : Option LSrc) (s : State) :
    Host.Outcome State Fault Refusal :=
  s.issue fun x =>
    let act := x.act p
    let de := cvtElem dty
    let se := cvtElem sty
    let get := fun (o : LSrc) (l : Nat) => if se.1.w = 64 then
        (match se.1 with
          | .flt _ => (x.f64 o l).toNat
          | _ => (x.w64 o l).toNat)
      else (x.w32 o l).toNat
    let one := cvtOne de.1 se.1 rm ftz sat
    let rs := laneRes act (fun l =>
      match b with
      | some o => [one (get a l), one (get o l)]
      | none => if de.2 then [one (get a l % 2 ^ 16), one (get a l / 2 ^ 16)] else [one (get a l)])
    let v := fun (l : Nat) =>
      let e := (rs.getD l []).map FRes.bits
      if de.2 then e.getD 0 0 + e.getD 1 0 * 2 ^ 16 else cvtWiden de.1 (e.getD 0 0)
    let ws := if de.1.w = 64 then write64 d act (fun l => BitVec.ofNat 64 (v l))
      else write32 d act (fun l => BitVec.ofNat 32 (v l))
    let f64 := dty == .f64 || sty == .f64
    let srcs := match b with
      | some o => [a, o]
      | none => [a]
    s.regs x (if f64 then 8 else 4) (x.tagU srcs) ws (causes rs)

/-! ## Block quantise and dequantise (R435 to R439) -/

/-- The format code of a block type (R304). -/
def qtyCode : QTy → Nat
  | .e4m3 => 1
  | .e5m2 => 2
  | .e2m1 => 3
  | .i8 => 4
  | .n8 => 5

/-- The F32 values a lane gives: two of a pair, four of two pairs (R436). -/
def Iss.quads (x : Iss) (a : LSrc) (b : Option LSrc) (l : Nat) : List Nat :=
  let two := fun (o : LSrc) => [(x.w64 o l).toNat % 2 ^ 32, (x.w64 o l).toNat / 2 ^ 32]
  two a ++ (match b with
    | some o => two o
    | none => [])

/-- Elements packed into 16 bits: bytes, or nibbles for a 4-bit type (R435). -/
def packQ (four : Bool) (es : List Nat) : Nat :=
  if four then es.getD 0 0 + es.getD 1 0 * 16 + es.getD 2 0 * 256 + es.getD 3 0 * 4096
  else es.getD 0 0 + es.getD 1 0 * 256

def execQblk (p : Pred) (ty : QTy) (rm : RMode) (d : LDst) (a : LSrc) (b : Option LSrc) (s : State) :
    Host.Outcome State Fault Refusal :=
  s.issue fun x =>
    let act := x.act p
    let n := if b.isSome then 4 else 2
    let vals := (List.range 32).flatMap (fun l =>
      if act.has l then (x.quads a b l).map Fmt.f32.decode else List.replicate n (FVal.fin false 0 0))
    let r := quantBlock (qtyCode ty) rm vals
    let bad := maskOf act (fun l => (x.quads a b l).any (fun v => !(Fmt.f32.decode v).isFinite))
    s.regs x 6 .general (write32 d act (fun l =>
      BitVec.ofNat 32 (qtyCode ty * 2 ^ 28 + r.1 * 2 ^ 16 + packQ b.isSome ((r.2.1.drop (n * l)).take n))))
      (if bad = 0 then [] else [(0x201, bad)])

def execQblks (p : Pred) (ty : QTy) (rm : RMode) (sat : Bool) (d : LDst) (a b : LSrc) (c : Option LSrc) (s : State) :
    Host.Outcome State Fault Refusal :=
  s.issue fun x =>
    let act := x.act p
    let se := fun (l : Nat) => (x.w32 b l).toNat % 2 ^ 12
    let rs := laneRes act (fun l =>
      (x.quads a c l).map (fun v => quantGiven (qtyCode ty) (se l) rm sat (Fmt.f32.decode v)))
    let srcs := a :: b :: (match c with
      | some o => [o]
      | none => [])
    s.regs x 4 (x.tagU srcs) (write32 d act (fun l =>
      BitVec.ofNat 32 (qtyCode ty * 2 ^ 28 + se l * 2 ^ 16 + packQ c.isSome ((rs.getD l []).map FRes.bits)))) (causes rs)

/-- A block class accepts a code (R438). -/
def dqAccepts (four : Bool) (code : Nat) : Bool :=
  code == 0 || (if four then code == 3 || code == 6 else code == 1 || code == 2 || code == 4 || code == 5)

/-- One dequantised element (R307, R438). -/
def dqOne (el : Elem) (scaled : Bool) (se : Nat) (rm : RMode) (ftz : Bool) (b : Nat) : FRes :=
  let v := el.value b
  let r := Fmt.f32.round rm (if scaled then (v.mul (seScale se)).1 else v)
  { r with bits := Fmt.f32.ftz ftz r.bits }

def execDqblk (p : Pred) (ty : QTy) (rm : RMode) (ftz : Bool) (d : LDst) (a : LSrc) (b : Option LSrc) (s : State) :
    Host.Outcome State Fault Refusal :=
  s.issue fun x =>
    let act := x.act p
    let four := b.isSome
    let code := fun (l : Nat) => (x.w32 a l).toNat / 2 ^ 28
    let se := fun (l : Nat) => (x.w32 a l).toNat / 2 ^ 16 % 2 ^ 12
    let poison := fun (l : Nat) => seE (se l) == 255 || !dqAccepts four (code l)
    let sel := fun (l : Nat) => match b with
      | some o => (x.w32 o l).toNat % 2
      | none => 0
    let el := fun (l i : Nat) =>
      let w := (x.w32 a l).toNat % 2 ^ 16
      if four then w / 2 ^ (8 * sel l + 4 * i) % 16 else w / 2 ^ (8 * i) % 256
    let rs := laneRes act (fun l =>
      if poison l then [{ bits := Fmt.f32.canon }, { bits := Fmt.f32.canon }]
      else if code l ≠ 0 ∧ seE (se l) = 0 then [{ bits := 0 }, { bits := 0 }]
      else
        let e := (elemOf (if code l = 0 then qtyCode ty else code l)).getD (.flt .e4m3)
        [dqOne e (code l != 0) (se l) rm ftz (el l 0), dqOne e (code l != 0) (se l) rm ftz (el l 1)])
    let pm := maskOf act poison
    let fm := maskOf act (fun l => poison l && decide (0xB ≤ code l))
    let srcs := a :: (match b with
      | some o => [o]
      | none => [])
    s.regs x 4 (x.tagU srcs) (write64 d act (fun l =>
      BitVec.ofNat 64 (((rs.getD l []).map FRes.bits).getD 0 0 + ((rs.getD l []).map FRes.bits).getD 1 0 * 2 ^ 32)))
      (causes rs ++ [(0x204, pm), (0x205, fm)].filter (fun c => c.2 ≠ 0))

/-! ## Reductions (R314, R423) -/

/-- A value of a node of the tree, with the slots whose combination recorded a cause. -/
abbrev Node := Option (DWord × Bool × Bool)

/-- One level of the tree: nodes 2i and 2i + 1 combine; a node with one input passes it on. -/
def treeLevel (f : DWord → DWord → DWord × Bool × Bool) : List Node → List Node
  | a :: b :: l =>
    (match a, b with
      | some x, some y => let r := f x.1 y.1; some (r.1, r.2.1 || x.2.1 || y.2.1, r.2.2 || x.2.2 || y.2.2)
      | some x, none => some x
      | none, y => y) :: treeLevel f l
  | l => l

/-- The tree over 32 slots. -/
def treeReduce (f : DWord → DWord → DWord × Bool × Bool) (l : List Node) : Node :=
  (treeLevel f (treeLevel f (treeLevel f (treeLevel f (treeLevel f l))))).headD none

/-- One combination of a REDUX (R423): the value, INVALID, OVERFLOW. -/
def reduxOp (op : ROp) (ty : RTy) (a b : DWord) : DWord × Bool × Bool :=
  let i32 := fun (f : Word → Word → Word) => ((f (a.setWidth 32) (b.setWidth 32)).setWidth 64, false, false)
  let flt := fun (r : FRes) => (BitVec.ofNat 64 r.bits, r.inv, r.ovf)
  let sgn := match ty with
    | .i32 | .i64 => true
    | _ => false
  match op with
  | .and => (a &&& b, false, false)
  | .or => (a ||| b, false, false)
  | .xor => (a ^^^ b, false, false)
  | .add => match ty with
    | .f32 => flt (Fmt.f32.add .rne a.toNat b.toNat)
    | .f64 => flt (Fmt.f64.add .rne a.toNat b.toNat)
    | .n64 | .i64 => (a + b, false, false)
    | _ => i32 (fun x y => x + y)
  | .min => match ty with
    | .f32 => flt (Fmt.f32.minmax false false false a.toNat b.toNat)
    | .f64 => flt (Fmt.f64.minmax false false false a.toNat b.toNat)
    | .n64 | .i64 => (minBits sgn a b, false, false)
    | _ => i32 (minBits sgn)
  | .max => match ty with
    | .f32 => flt (Fmt.f32.minmax true false false a.toNat b.toNat)
    | .f64 => flt (Fmt.f64.minmax true false false a.toNat b.toNat)
    | .n64 | .i64 => (maxBits sgn a b, false, false)
    | _ => i32 (maxBits sgn)

def execRedux (p : Pred) (op : ROp) (ty : RTy) (d : LDst) (a : LSrc) (s : State) : Host.Outcome State Fault Refusal :=
  s.issue fun x =>
    let act := x.act p
    let val := fun (l : Nat) => match ty with
      | .f64 => x.f64 a l
      | .n64 | .i64 => x.w64 a l
      | _ => (x.w32 a l).setWidth 64
    let lat := match ty with
      | .f64 => 8
      | _ => 6
    match treeReduce (reduxOp op ty) ((List.range 32).map (fun l => if act.has l then some (val l, false, false) else none)) with
    | none => s.pass x
    | some r =>
      let ws := if ty.wide then write64 d act (fun _ => r.1) else write32 d act (fun _ => r.1.setWidth 32)
      s.regs x lat .uniform ws ([(0x201, if r.2.1 then act else 0), (0x203, if r.2.2 then act else 0)].filter (fun c => c.2 ≠ (0 : Mask)))

/-! ## SFU functions (R440, R441): the instruction enters the cluster's queue -/

/-- The clk a function holds the unit, and the clk from its leaving the head of the queue to its result. -/
def sfuTimes : SfuFn → Nat × Nat
  | .recip64 | .rroot64 | .root64 => (16, 48)
  | _ => (4, 24)

/-- The clk at which a new operation leaves the head of the queue, once the unit is free of the operations before it. -/
def State.sfuStart (s : State) (cl : Nat) (q : List SfuOp) : Nat :=
  q.foldl (fun t o => max t (s.issueFrom (dieOf cl) o.head (sfuTimes o.fn).1)) s.clk.now

/-- The clk at which the result of an operation lands: after its latency, and no earlier than the gang's operations before it (R184). -/
def State.sfuDue (s : State) (cl gang head lat : Nat) (q : List SfuOp) : Nat :=
  (q.filter (fun o => o.gang == gang)).foldl (fun t o => max t o.due) (s.issueFrom (dieOf cl) head lat)

/-- The operations that have not left the head of the queue: at most 64 (R184). -/
def sfuWaiting (now : Nat) (q : List SfuOp) : Nat := (q.filter (fun o => decide (now < o.head))).length

/-- An SFU instruction enters the queue of its cluster; with no active lane nothing lands. -/
def State.sfuIssue (s : State) (p : Pred) (fn : SfuFn) (d : LDst) (a : LSrc) : Host.Outcome State Fault Refusal :=
  s.issue fun x =>
    let act := x.act p
    let wide := decide (sfuTimes fn = (16, 48))
    let q := (mget x.g.cluster s.work.sfu).getD []
    let head := s.sfuStart x.g.cluster q
    let due := s.sfuDue x.g.cluster x.k head (sfuTimes fn).2 q
    let op : SfuOp := ⟨x.k, head, due, fn, d, act, (List.range 32).map (fun l =>
      if wide then x.f64 a l else (x.w32 a l).setWidth 64), x.run, x.pc, x.runPc, (0, 0), x.tagU [a]⟩
    let s1 := s.expandAt x (if wide then write64 d act (fun _ => 0) else write32 d act (fun _ => 0))
    let s2 := { s1 with work := { s1.work with sfu := mput x.g.cluster (q ++ [op]) s1.work.sfu } }
    ((s2.sched due .sfuResult x.g.cluster).modGang x.k (fun g => { g with sfu := g.sfu + 1 })).pass x

def execRecipF32 (p : Pred) (d : LDst) (a : LSrc) (s : State) : Host.Outcome State Fault Refusal := s.sfuIssue p .recip32 d a
def execRrootF32 (p : Pred) (d : LDst) (a : LSrc) (s : State) : Host.Outcome State Fault Refusal := s.sfuIssue p .rroot32 d a
def execRootF32 (p : Pred) (d : LDst) (a : LSrc) (s : State) : Host.Outcome State Fault Refusal := s.sfuIssue p .root32 d a
def execPow2F32 (p : Pred) (d : LDst) (a : LSrc) (s : State) : Host.Outcome State Fault Refusal := s.sfuIssue p .pow2 d a
def execLog2F32 (p : Pred) (d : LDst) (a : LSrc) (s : State) : Host.Outcome State Fault Refusal := s.sfuIssue p .log2 d a
def execSineF32 (p : Pred) (d : LDst) (a : LSrc) (s : State) : Host.Outcome State Fault Refusal := s.sfuIssue p .sine d a
def execCosineF32 (p : Pred) (d : LDst) (a : LSrc) (s : State) : Host.Outcome State Fault Refusal := s.sfuIssue p .cosine d a
def execHtanF32 (p : Pred) (d : LDst) (a : LSrc) (s : State) : Host.Outcome State Fault Refusal := s.sfuIssue p .htan d a
def execRecipF64 (p : Pred) (d : LDst) (a : LSrc) (s : State) : Host.Outcome State Fault Refusal := s.sfuIssue p .recip64 d a
def execRrootF64 (p : Pred) (d : LDst) (a : LSrc) (s : State) : Host.Outcome State Fault Refusal := s.sfuIssue p .rroot64 d a
def execRootF64 (p : Pred) (d : LDst) (a : LSrc) (s : State) : Host.Outcome State Fault Refusal := s.sfuIssue p .root64 d a

/-! ## SFU_RESULT (R183, R184, R441) -/

/-- The first operation of a queue that is due, and the others. -/
def sfuTake (now : Nat) : List SfuOp → Option (SfuOp × List SfuOp)
  | [] => none
  | o :: l => if o.due ≤ now then some (o, l) else (sfuTake now l).map (fun r => (r.1, o :: r.2))

/-- An operation of a cluster's queue lands. -/
def State.sfuLand (s : State) (cl : Nat) (o : SfuOp) (rest : List SfuOp) : State :=
  let s := { s with work := { s.work with sfu := mput cl rest s.work.sfu } }
  let wide := decide (sfuTimes o.fn = (16, 48))
  let rs := laneRes o.lanes (fun l => [sfuEval o.fn (o.src.getD l 0).toNat])
  let v := fun (l : Nat) => ((rs.getD l []).map FRes.bits).getD 0 0
  let ws := if wide then write64 o.d o.lanes (fun l => BitVec.ofNat 64 (v l))
    else write32 o.d o.lanes (fun l => BitVec.ofNat 32 (v l))
  let s := (causes rs).foldl (fun s c => match s.gang? o.gang with
    | none => s
    | some g => s.arith o.gang g o.run o.hdr c.1 c.2) s
  (s.landVar o.gang o.run o.lanes o.pc o.tag (cancelWrites o.cancel ws)).modGang o.gang (fun g => { g with sfu := g.sfu - 1 }.tryTrap s.clk.now)

def execSfuResult (s : State) : Host.Outcome State Fault Refusal :=
  let cl := s.clk.subj.a
  match sfuTake s.clk.now ((mget cl s.work.sfu).getD []) with
  | none => .next s
  | some (o, rest) => .next (s.sfuLand cl o rest)

end Sys2Proof.Machine
end

