-- ==== Sys2Proof/Machine/Classes.lean ====
section
/-! DEFINITION. What an instruction names, for issue and for the decode class of traps: its registers, its pairing classes,
its counter, where it may stand (R168, R179, R180, R183, R187, R235, R373, R374). -/

namespace Sys2Proof

/-- Pairing classes of R168. -/
inductive PairClass where
  | mem | cross | sfu | fp64
  deriving DecidableEq, Repr

/-- What an instruction names: its prefix; lane set or uniform set; V registers it reads and writes (`true`: a pair); a T pair
with an odd number; G and Q registers a uniform instruction reads; a variable-latency T destination; index slot; pairing
classes; the counter it raises; a memory instruction of R235; a lane branch or exit; forbidden in a run; unassigned on a
control core. -/
structure Shape where
  p : Pred
  lane : Bool
  vr : List (Nat × Bool) := []
  vw : List (Nat × Bool) := []
  oddT : Bool := false
  varT : Bool := false
  gr : List Nat := []
  qr : List Nat := []
  ws : Option Nat := none
  cls : List PairClass := []
  ctr : Option Nat := none
  mem : Bool := false
  branch : Bool := false
  noRun : Bool := false
  noCtl : Bool := false
  deriving DecidableEq, Repr

/-- No prefix. -/
def Pred.always : Pred := ⟨false, 0⟩

def LSrc.vs (wide : Bool) : LSrc → List (Nat × Bool)
  | .v n => [(n.val, wide)]
  | _ => []

def LSrc.odd (wide : Bool) : LSrc → Bool
  | .t n => wide && n.val % 2 == 1
  | _ => false

def LDst.vs (wide : Bool) : LDst → List (Nat × Bool)
  | .v n => [(n.val, wide)]
  | _ => []

def LDst.odd (wide : Bool) : LDst → Bool
  | .t n => wide && n.val % 2 == 1
  | _ => false

def LDst.isT : LDst → Bool
  | .t _ => true
  | _ => false

/-- A lane instruction with a destination and sources, each 32 or 64 bits wide. -/
def Shape.alu (p : Pred) (d : Option (LDst × Bool)) (srcs : List (LSrc × Bool)) (cls : List PairClass := []) : Shape :=
  { p := p, lane := true, cls := cls
    vr := srcs.flatMap (fun a => a.1.vs a.2)
    vw := match d with
      | some a => a.1.vs a.2
      | none => []
    oddT := srcs.any (fun a => a.1.odd a.2) || (match d with
      | some a => a.1.odd a.2
      | none => false) }

/-- An instruction of variable latency: a T destination traps (R183). -/
def Shape.var (x : Shape) (d : LDst) : Shape := { x with varT := d.isT }

def SZ.wide : SZ → Bool
  | .n64 => true
  | _ => false

def USZ.wide : USZ → Bool
  | .n64 => true
  | _ => false

def LMem.ws (m : LMem) : Option Nat :=
  match m.addr with
  | .indexed w _ _ => some w.val
  | .direct _ => none

def LXMem.ws (m : LXMem) : Option Nat := m.idx.map (fun i => i.1.val)

/-- A lane memory instruction. -/
def Shape.memory (x : Shape) (ws : Option Nat) (ctr : Option Nat) (g : Bool) : Shape :=
  { x with ws := ws, ctr := ctr, cls := [.mem], mem := g }

/-- The second operand of a cas (R453, R456). -/
def casNew (op : AOp) (wide : Bool) (s : LSrc) : List (Nat × Bool) :=
  match op with
  | .cas => match s with
    | .v n => [(n.val + (if wide then 2 else 1), wide)]
    | _ => []
  | _ => []

/-- An atomic of the long form. -/
def Shape.atomic (p : Pred) (op : AOp) (sz : SZ) (d : Option LDst) (m : LXMem) (s : LSrc) (g : Bool) : Shape :=
  let x := Shape.alu p (d.map (fun r => (r, sz.wide))) [(s, sz.wide)]
  let y := { x with vr := x.vr ++ casNew op sz.wide s }
  match d with
  | some r => (y.memory m.ws (some 0) g).var r
  | none => y.memory m.ws (some 1) g

def FTy.wide : FTy → Bool
  | .f64 => true
  | _ => false

def Ty.wide : Ty → Bool
  | .n64 | .i64 | .f64 => true
  | _ => false

/-- FP64 instructions (R182, R425). -/
def fp64If (b : Bool) : List PairClass := if b then [.fp64] else []

def SfuFn.wide : SfuFn → Bool
  | .recip64 | .rroot64 | .root64 => true
  | _ => false

def Shape.sfu (p : Pred) (fn : SfuFn) (d : LDst) (a : LSrc) : Shape :=
  (Shape.alu p (some (d, fn.wide)) [(a, fn.wide)] (if fn.wide then [.sfu, .fp64] else [.sfu])).var d

def USrc.gs : USrc → List Nat
  | .g n => [n.val]
  | _ => []

def UDst.gs : UDst → List Nat
  | .g n => [n.val]
  | _ => []

/-- A uniform instruction that reads G registers. -/
def Shape.uni (p : Pred) (srcs : List USrc) (noRun : Bool := false) (noCtl : Bool := false) : Shape :=
  { p := p, lane := false, gr := srcs.flatMap USrc.gs, noRun := noRun, noCtl := noCtl }

def qsrc (n : Fin 8) : List Nat := if n = 0 then [] else [n.val]

/-- The registers that RUNB or RUNE names, as far as there are such names. -/
def stagedNames (va k : Nat) : List (Nat × Bool) :=
  ((List.range k).filter (fun i => decide (va + i < 112))).map (fun i => (va + i, false))

/-- What an instruction names; an event names nothing. -/
def Instr.shape : Instr → Option Shape
  | .nop p => some (.alu p none [])
  | .sreg p d _ => some (.alu p (some (d, false)) [])
  | .lbr p _ => some { Shape.alu p none [] with branch := true }
  | .lexit p => some { Shape.alu p none [] with branch := true }
  | .lbrRg p _ _ _ => some { Shape.alu p none [] with branch := true }
  | .iadd p d a b | .isub p d a b | .imul p d a b | .and p d a b | .or p d a b | .xor p d a b | .shl p d a b
  | .shrN32 p d a b | .shrI32 p d a b | .iminI32 p d a b | .imaxI32 p d a b | .iminN32 p d a b | .imaxN32 p d a b =>
      some (.alu p (some (d, false)) [(a, false), (b, false)])
  | .icmp p _ _ a b | .fcmpF32 p _ _ a b => some (.alu p none [(a, false), (b, false)])
  | .faddF32 p d a b | .fsubF32 p d a b | .fmulF32 p d a b | .fminF32 p d a b | .fmaxF32 p d a b | .fminnF32 p d a b
  | .fmaxnF32 p d a b | .faddBf16X2 p d a b | .fmulBf16X2 p d a b | .faddF16X2 p d a b | .fmulF16X2 p d a b =>
      some (.alu p (some (d, false)) [(a, false), (b, false)])
  | .ffmaF32 p d a b | .ffmaBf16X2 p d a b => some (.alu p (some (d, false)) [(a, false), (b, false), (d.src, false)])
  | .faddF64 p d a b | .fmulF64 p d a b => some (.alu p (some (d, true)) [(a, true), (b, true)] [.fp64])
  | .ffmaF64 p d a b => some (.alu p (some (d, true)) [(a, true), (b, true), (d.src, true)] [.fp64])
  | .redux p _ ty d a =>
      some (.alu p (some (d, ty.wide)) [(a, ty.wide)] (.cross :: fp64If (ty == .f64)))
  | .shfl p d a b => some (.alu p (some (d, false)) [(a, false), (b, false)] [.cross])
  | .recipF32 p d a => some (.sfu p .recip32 d a)
  | .rrootF32 p d a => some (.sfu p .rroot32 d a)
  | .rootF32 p d a => some (.sfu p .root32 d a)
  | .pow2F32 p d a => some (.sfu p .pow2 d a)
  | .log2F32 p d a => some (.sfu p .log2 d a)
  | .sineF32 p d a => some (.sfu p .sine d a)
  | .cosineF32 p d a => some (.sfu p .cosine d a)
  | .htanF32 p d a => some (.sfu p .htan d a)
  | .recipF64 p d a => some (.sfu p .recip64 d a)
  | .rrootF64 p d a => some (.sfu p .rroot64 d a)
  | .rootF64 p d a => some (.sfu p .root64 d a)
  | .mov p d a => some (.alu p (some (d, false)) [(a, false)])
  | .ld p d m => some (((Shape.alu p (some (d, false)) []).memory m.ws (some 0) true).var d)
  | .st p s m => some ((Shape.alu p none [(s, false)]).memory m.ws (some 1) true)
  | .lds p d m => some (((Shape.alu p (some (d, false)) []).memory m.ws (some 0) true).var d)
  | .sts p s m => some ((Shape.alu p none [(s, false)]).memory m.ws (some 1) true)
  | .atom p _ d _ s => some (((Shape.alu p (some (d, false)) [(s, false)]).memory none (some 0) true).var d)
  | .atomNoret p _ _ s => some ((Shape.alu p none [(s, false)]).memory none (some 1) true)
  | .iaddLong p ty _ d a b | .isubLong p ty _ d a b | .imulLong p ty _ d a b => some (.alu p (some (d, ty.wide)) [(a, ty.wide), (b, ty.wide)])
  | .imulhi p ty d a b | .andLong p ty d a b | .orLong p ty d a b | .xorLong p ty d a b | .andn p ty d a b
  | .iminLong p ty d a b | .imaxLong p ty d a b => some (.alu p (some (d, ty.wide)) [(a, ty.wide), (b, ty.wide)])
  | .imad p ty _ d a b c => some (.alu p (some (d, ty.wide)) [(a, ty.wide), (b, ty.wide), (c, ty.wide)])
  | .not p ty d a | .bitrev p ty d a => some (.alu p (some (d, ty.wide)) [(a, ty.wide)])
  | .popc p ty d a | .clz p ty d a => some (.alu p (some (d, ty.wide)) [(a, ty.wide)])
  | .movLong p ty d a => some (.alu p (some (d, ty.wide)) [(a, ty.wide)])
  | .iabs p ty _ d a | .ineg p ty _ d a => some (.alu p (some (d, ty.wide)) [(a, ty.wide)])
  | .shlLong p ty d a b | .shrLong p ty d a b | .xfld p ty d a b => some (.alu p (some (d, ty.wide)) [(a, ty.wide), (b, false)])
  | .ifld p ty d a b c => some (.alu p (some (d, ty.wide)) [(a, ty.wide), (b, false), (c, ty.wide)])
  | .icmpLong p ty _ _ a b => some (.alu p none [(a, ty.wide), (b, ty.wide)])
  | .sel p ty _ _ d a b => some (.alu p (some (d, ty.wide)) [(a, ty.wide), (b, ty.wide)])
  | .faddLong p ty _ _ d a b | .fsubLong p ty _ _ d a b | .fmulLong p ty _ _ d a b =>
      some (.alu p (some (d, ty.wide)) [(a, ty.wide), (b, ty.wide)] (fp64If ty.wide))
  | .ffmaLong p ty _ _ d a b c => some (.alu p (some (d, ty.wide)) [(a, ty.wide), (b, ty.wide), (c, ty.wide)] (fp64If ty.wide))
  | .fminLong p ty _ d a b | .fmaxLong p ty _ d a b | .fminnLong p ty _ d a b | .fmaxnLong p ty _ d a b =>
      some (.alu p (some (d, ty.wide)) [(a, ty.wide), (b, ty.wide)] (fp64If ty.wide))
  | .fabs p ty d a | .fneg p ty d a => some (.alu p (some (d, ty.wide)) [(a, ty.wide)] (fp64If ty.wide))
  | .fcmpLong p f64 _ _ _ a b => some (.alu p none [(a, f64), (b, f64)] (fp64If f64))
  | .fclass p ty _ d a => some (.alu p (some (d, false)) [(a, ty.wide)] (fp64If ty.wide))
  | .cvt p dty sty _ _ _ d a b =>
      some (.alu p (some (d, dty.wide)) ((a, sty.wide) :: (optL b).map (fun o => (o, sty.wide))) (fp64If (dty == .f64 || sty == .f64)))
  | .qblk p _ _ d a b => some (.alu p (some (d, false)) ((a, true) :: (optL b).map (fun o => (o, true))) [.cross])
  | .qblks p _ _ _ d a b c => some (.alu p (some (d, false)) ((a, true) :: (b, false) :: (optL c).map (fun o => (o, true))))
  | .dqblk p _ _ _ d a b => some (.alu p (some (d, true)) ((a, false) :: (optL b).map (fun o => (o, false))))
  | .shflLong p _ ty d a b _ => some (.alu p (some (d, ty.wide)) [(a, ty.wide), (b, false)] [.cross])
  | .ldLong p sz _ _ d m => some (((Shape.alu p (some (d, sz.wide)) []).memory m.ws (some 0) true).var d)
  | .stLong p sz _ s m => some ((Shape.alu p none [(s, sz.wide)]).memory m.ws (some 1) true)
  | .ldsLong p sz _ d m => some (((Shape.alu p (some (d, sz.wide)) []).memory m.ws (some 0) true).var d)
  | .stsLong p sz _ s m => some ((Shape.alu p none [(s, sz.wide)]).memory m.ws (some 1) true)
  | .atomLong p op sz _ d m s => some (.atomic p op sz d m s true)
  | .atoms p op sz d m s => some (.atomic p op sz d m s true)
  | .pref p _ m => some ((Shape.alu p none []).memory m.ws none true)
  | .dset p s m => some ((Shape.alu p none [(s, false)]).memory m.ws (some 1) true)
  | .dget p d m => some (((Shape.alu p (some (d, false)) []).memory m.ws (some 0) true).var d)
  | .stmc p sz _ s m _ => some ((Shape.alu p none [(s, sz.wide)]).memory m.ws (some 1) true)
  | .stred p _ sz _ s m _ => some ((Shape.alu p none [(s, sz.wide)]).memory m.ws (some 1) true)
  | .runb _ va k | .rune va k => some { Shape.uni .always [] false true with vw := stagedNames va.toNat k.toNat }
  | .waitc p _ _ _ _ => some (.uni p [] true)
  | .bartm p => some (.uni p [] true true)
  | .fence p _ _ => some (.uni p [])
  | .exit p => some (.uni p [] true)
  | .bra p _ => some (.uni p [] true)
  | .braq p _ _ _ => some (.uni p [] true)
  | .call p _ _ => some (.uni p [] true)
  | .ret p a | .jmpg p a => some (.uni p [a] true)
  | .trap p r => some { Shape.uni p [] true with gr := if r then [60] else [] }
  | .bkpt p _ => some (.uni p [] true)
  | .fwcall p _ => some { Shape.uni p [] true with gr := [1, 2, 3, 4] }
  | .gadd p _ a b | .gsub p _ a b | .gmul p _ a b | .gmulhiN64 p _ a b | .gmulhiI64 p _ a b | .gand p _ a b | .gor p _ a b
  | .gxor p _ a b | .gandn p _ a b | .gshl p _ a b | .gshr p _ a b | .gsar p _ a b | .grotl p _ a b | .gminI64 p _ a b
  | .gmaxI64 p _ a b | .gminN64 p _ a b | .gmaxN64 p _ a b | .gcmp p _ _ _ a b => some (.uni p [a, b])
  | .gnot p _ a | .gpopc p _ a | .gclz p _ a | .gmov p _ a | .gmovN32 p _ a | .gmovI32 p _ a => some (.uni p [a])
  | .gsel p f _ a b => some { Shape.uni p [a, b] with qr := qsrc f }
  | .qand p _ qa _ qb _ | .qor p _ qa _ qb _ | .qxor p _ qa _ qb _ => some { Shape.uni p [] with qr := qsrc qa ++ qsrc qb }
  | .sregUniform p _ _ => some (.uni p [])
  | .sregw p _ a => some (.uni p [a])
  | .vtog p m _ v x => some { Shape.uni p [x] false true with vr := [(v.val, m == .pair)], cls := [.cross] }
  | .gtov p pair v g => some { Shape.uni p [g] false true with vw := [(v.val, pair)] }
  | .vote p _ _ _ => some { Shape.uni p [] false true with cls := [.cross] }
  | .pmark p => some (.uni p [])
  | .ldUniform p _ _ b _ => some { Shape.uni p [b] with ctr := some 0, mem := true }
  | .stUniform p _ s b _ => some { Shape.uni p [b] with gr := s.gs ++ b.gs, ctr := some 1, mem := true }
  | .qsend p _ _ a b => some { Shape.uni p [a, b] with mem := true }
  | .flinit p a _ _ => some { Shape.uni p [a] false true with mem := true }
  | .flacq p _ a => some (.uni p [a] true true)
  | .flrel p a => some { Shape.uni p [a] false true with mem := true }
  | .boarm p a b => some { Shape.uni p [a, b] false true with mem := true }
  | .bowait p a => some (.uni p [a] true true)
  | .mres p _ => some (.uni p [] false true)
  | .mrel p => some (.uni p [] false true)
  | .mmaq p a | .mdelta p a | .mdrain p a => some { Shape.uni p [a] false true with ctr := some 3, mem := true }
  | .mzero p _ _ => some { Shape.uni p [] false true with ctr := some 3, mem := true }
  | .mstat p _ => some (.uni p [] false true)
  | .rsvinv p a | .rsvinvClear p a => some (.uni p [a] false true)
  | .rsvq p a b => some (.uni p [a, b] false true)
  | .copyt p d a b => some { Shape.uni p [d, a, b] false true with ctr := some 2, mem := true }
  | .kick p d a => some { Shape.uni p [d, a] false true with ctr := some 2, mem := true }
  | .tdload p _ a => some { Shape.uni p [a] false true with ctr := some 0, mem := true }
  | .tasksub p _ _ a => some { Shape.uni p [a] with mem := true }
  | .taskdone p => some (.uni p [])
  | .fapp p g v => some { Shape.uni p [g] false true with vr := [(v.val, true)], mem := true }
  | .ftake p g v _ => some { Shape.uni p [g] false true with vw := [(v.val, true)], mem := true }
  | .dryw p a => some (.uni p [a] true)
  | .topen p _ a | .trival p _ a => some (.uni p [a] false true)
  | .tscore p _ => some (.uni p [] false true)
  | .tstat p _ b => some (.uni p [b] false true)
  | .tclose p _ => some { Shape.uni p [] false true with ctr := some 1 }
  | .tcloseAbort p _ => some (.uni p [] false true)
  | .spgrow p _ => some (.uni p [] false true)
  | .rgive p _ | .rclaim p _ => some (.uni p [] false true)
  | _ => none

/-! ## The decode class of traps (R189, R372) -/

/-- A register of a gang with block size S exists (R179). -/
def vOk (rows : Nat) (r : Nat × Bool) : Bool :=
  if r.2 then r.1 % 2 == 0 && decide (r.1 + 1 < rows - 16) else decide (r.1 < rows - 16)

/-- REGRANGE (R179, R353). -/
def Shape.regRange (x : Shape) (rows : Nat) : Bool := x.oddT || !((x.vr ++ x.vw).all (vOk rows))

/-- The V registers that one entry of `vr` names. -/
def vNames (r : Nat × Bool) : List Nat := if r.2 then [r.1, r.1 + 1] else [r.1]

/-- WSETRD (R180, R374): the working set is `k` registers from `va`. -/
def Shape.outsideSet (x : Shape) (va k : Nat) : Bool :=
  (match x.ws with
    | some w => decide (k ≤ w)
    | none => false) || (x.vr.flatMap vNames).any (fun n => decide (n < va) || decide (va + k ≤ n))

/-- The first cause of the decode class that an instruction outside a run raises; RUNB's own checks follow. -/
def Shape.cause (x : Shape) (core : Bool) (rows : Nat) : Option Nat :=
  if core then (if x.lane then some 0x0003 else if x.noCtl then some 0x0001 else none)
  else if x.regRange rows then some 0x0004
  else if x.lane then some 0x0005
  else none

/-- The first cause that an instruction at position `pos` of a run of `n` raises: RUNB, a RUNE before its position or with a range
beyond the registers, the forbidden instructions, a lane branch elsewhere than last, a variable-latency T destination, the working set. -/
def Instr.runCause (i : Instr) (rows n va k pos : Nat) : Option Nat :=
  match i.shape with
  | none => some 0x0001
  | some x =>
    if x.regRange rows then some 0x0004
    else
      let isRunb := match i with
        | .runb _ _ _ => true
        | _ => false
      let isRune := match i with
        | .rune _ _ => true
        | _ => false
      let badRange := match i with
        | .rune va c => decide (8 < c.toNat ∨ 112 < va.toNat + c.toNat)
        | _ => false
      if isRunb || badRange || (isRune != (pos == n)) || x.noRun || (x.branch && pos + 1 != n) || x.varT then some 0x0005
      else if x.outsideSet va k then some 0x0006
      else none

end Sys2Proof
end

