-- ==== Sys2Proof/Machine/Uniform.lean ====
section
/-! DEFINITION. The uniform set: scalar arithmetic, compare and select, special registers, moves between lanes and the
uniform path, branches, traps, runs and waits (R376 to R401, R458). -/

namespace Sys2Proof.Machine

/-! ## Scalar arithmetic (R386) -/

def execGadd (p : Pred) (d : UDst) (a b : USrc) (s : State) : Host.Outcome State Fault Refusal :=
  s.gres p d fun x => x.u a + x.u b

def execGsub (p : Pred) (d : UDst) (a b : USrc) (s : State) : Host.Outcome State Fault Refusal :=
  s.gres p d fun x => x.u a - x.u b

def execGmul (p : Pred) (d : UDst) (a b : USrc) (s : State) : Host.Outcome State Fault Refusal :=
  s.gres p d fun x => x.u a * x.u b

def execGmulhiN64 (p : Pred) (d : UDst) (a b : USrc) (s : State) : Host.Outcome State Fault Refusal :=
  s.gres p d fun x => BitVec.ofNat 64 ((x.u a).toNat * (x.u b).toNat / 2 ^ 64)

def execGmulhiI64 (p : Pred) (d : UDst) (a b : USrc) (s : State) : Host.Outcome State Fault Refusal :=
  s.gres p d fun x => BitVec.ofInt 64 ((x.u a).toInt * (x.u b).toInt / (2 ^ 64 : Nat))

def execGand (p : Pred) (d : UDst) (a b : USrc) (s : State) : Host.Outcome State Fault Refusal :=
  s.gres p d fun x => x.u a &&& x.u b

def execGor (p : Pred) (d : UDst) (a b : USrc) (s : State) : Host.Outcome State Fault Refusal :=
  s.gres p d fun x => x.u a ||| x.u b

def execGxor (p : Pred) (d : UDst) (a b : USrc) (s : State) : Host.Outcome State Fault Refusal :=
  s.gres p d fun x => x.u a ^^^ x.u b

def execGandn (p : Pred) (d : UDst) (a b : USrc) (s : State) : Host.Outcome State Fault Refusal :=
  s.gres p d fun x => x.u a &&& ~~~(x.u b)

def execGnot (p : Pred) (d : UDst) (a : USrc) (s : State) : Host.Outcome State Fault Refusal :=
  s.gres p d fun x => ~~~(x.u a)

def execGpopc (p : Pred) (d : UDst) (a : USrc) (s : State) : Host.Outcome State Fault Refusal :=
  s.gres p d fun x => BitVec.ofNat 64 (popcount 64 (x.u a).toNat)

def execGclz (p : Pred) (d : UDst) (a : USrc) (s : State) : Host.Outcome State Fault Refusal :=
  s.gres p d fun x => BitVec.ofNat 64 (leadZeros 64 (x.u a).toNat)

/-- The shift amount: bits [5:0] (R386). -/
def shamt (b : DWord) : Nat := b.toNat % 64

def execGshl (p : Pred) (d : UDst) (a b : USrc) (s : State) : Host.Outcome State Fault Refusal :=
  s.gres p d fun x => x.u a <<< shamt (x.u b)

def execGshr (p : Pred) (d : UDst) (a b : USrc) (s : State) : Host.Outcome State Fault Refusal :=
  s.gres p d fun x => x.u a >>> shamt (x.u b)

def execGsar (p : Pred) (d : UDst) (a b : USrc) (s : State) : Host.Outcome State Fault Refusal :=
  s.gres p d fun x => (x.u a).sshiftRight (shamt (x.u b))

def execGrotl (p : Pred) (d : UDst) (a b : USrc) (s : State) : Host.Outcome State Fault Refusal :=
  s.gres p d fun x => (x.u a).rotateLeft (shamt (x.u b))

def execGminI64 (p : Pred) (d : UDst) (a b : USrc) (s : State) : Host.Outcome State Fault Refusal :=
  s.gres p d fun x => minBits true (x.u a) (x.u b)

def execGmaxI64 (p : Pred) (d : UDst) (a b : USrc) (s : State) : Host.Outcome State Fault Refusal :=
  s.gres p d fun x => maxBits true (x.u a) (x.u b)

def execGminN64 (p : Pred) (d : UDst) (a b : USrc) (s : State) : Host.Outcome State Fault Refusal :=
  s.gres p d fun x => minBits false (x.u a) (x.u b)

def execGmaxN64 (p : Pred) (d : UDst) (a b : USrc) (s : State) : Host.Outcome State Fault Refusal :=
  s.gres p d fun x => maxBits false (x.u a) (x.u b)

def execGmov (p : Pred) (d : UDst) (a : USrc) (s : State) : Host.Outcome State Fault Refusal :=
  s.gres p d fun x => x.u a

def execGmovN32 (p : Pred) (d : UDst) (a : USrc) (s : State) : Host.Outcome State Fault Refusal :=
  s.gres p d fun x => ((x.u a).setWidth 32).setWidth 64

def execGmovI32 (p : Pred) (d : UDst) (a : USrc) (s : State) : Host.Outcome State Fault Refusal :=
  s.gres p d fun x => ((x.u a).setWidth 32).signExtend 64

/-- GCMP (R388): `lo` compares bits [31:0]. -/
def execGcmp (p : Pred) (cc : ICC) (lo : Bool) (qd : Fin 8) (a b : USrc) (s : State) : Host.Outcome State Fault Refusal :=
  s.qres p qd fun x =>
    if lo then cc.holds ((x.u a).setWidth 32) ((x.u b).setWidth 32) else cc.holds (x.u a) (x.u b)

def execGsel (p : Pred) (f : Fin 8) (d : UDst) (a b : USrc) (s : State) : Host.Outcome State Fault Refusal :=
  s.gres p d fun x => if x.q f.val then x.u a else x.u b

def execQand (p : Pred) (qd qa : Fin 8) (na : Bool) (qb : Fin 8) (nb : Bool) (s : State) : Host.Outcome State Fault Refusal :=
  s.qres p qd fun x => (x.q qa.val != na) && (x.q qb.val != nb)

def execQor (p : Pred) (qd qa : Fin 8) (na : Bool) (qb : Fin 8) (nb : Bool) (s : State) : Host.Outcome State Fault Refusal :=
  s.qres p qd fun x => (x.q qa.val != na) || (x.q qb.val != nb)

def execQxor (p : Pred) (qd qa : Fin 8) (na : Bool) (qb : Fin 8) (nb : Bool) (s : State) : Host.Outcome State Fault Refusal :=
  s.qres p qd fun x => (x.q qa.val != na) != (x.q qb.val != nb)

/-! ## Special registers (R396, R397) -/

/-- A per-lane register is read for the lane in slot 0. -/
def execSregUniform (p : Pred) (d : UDst) (sr : SReg) (s : State) : Host.Outcome State Fault Refusal :=
  s.gres p d fun x => s.sregVal x sr 0

/-- A value TRAPVEC takes: bits [63:57] and [1:0] are zero. -/
def trapvecOk (v : DWord) : Bool := field v 57 7 == 0 && field v 0 2 == 0

def execSregw (p : Pred) (sr : SReg) (a : USrc) (s : State) : Host.Outcome State Fault Refusal :=
  s.uni p fun x =>
    match sr with
    | .trapvec =>
      if trapvecOk (x.u a) then s.regs x 4 .general [.sr true (x.u a)] []
      else s.trap x.k x.path.lanes x.pc 0x0002
    | .storehash => s.regs x 4 .general [.sr false (x.u a)] []
    | _ => s.trap x.k x.path.lanes x.pc 0x0009

/-! ## Moves between lanes and the uniform path (R393 to R395) -/

/-- The slot VTOG reads. -/
def Iss.vtogSlot (x : Iss) (sel : USrc) : Nat :=
  match sel with
  | .zero => Mask.low x.path.lanes
  | r =>
    let i := (x.u r).toNat
    if i < 32 ∧ x.path.lanes.has i then i else Mask.low x.path.lanes

def execVtog (p : Pred) (m : VtogM) (d : UDst) (v : Fin 112) (sel : USrc) (s : State) : Host.Outcome State Fault Refusal :=
  s.uni p fun x =>
    let l := x.vtogSlot sel
    let w := x.g.vlane v.val l
    let r : DWord := match m with
      | .zext => w.setWidth 64
      | .sext => w.signExtend 64
      | .pair => join w (x.g.vlane (v.val + 1) l)
    s.regs x 6 .general (writeG d r) []

def execGtov (p : Pred) (pair : Bool) (v : Fin 112) (g : USrc) (s : State) : Host.Outcome State Fault Refusal :=
  s.uni p fun x =>
    let ws := if pair then write64 (.v v) x.path.lanes (fun _ => x.u g) else write32 (.v v) x.path.lanes (fun _ => (x.u g).setWidth 32)
    s.regs x 4 .uniform ws []

def execVote (p : Pred) (m : VoteM) (d : UDst) (pl : Fin 8) (s : State) : Host.Outcome State Fault Refusal :=
  s.uni p fun x => s.regs x 6 .general (writeG d (x.vote m pl.val)) []

/-! ## Branches, calls and exit (R380 to R382) -/

/-- The path of the instruction goes to an address. -/
def State.jump (s : State) (x : Iss) (t : DWord) : State :=
  s.modGang x.k (fun g => g.modPath x.path.lanes (fun p => { p with pc := t }))

/-- A branch target: `here` and a word offset (R368). -/
def Iss.target {w : Nat} (x : Iss) (ofs : BitVec w) : DWord := x.pc + 4 * ofs.signExtend 64

def execBra (p : Pred) (ofs : BitVec 21) (s : State) : Host.Outcome State Fault Refusal :=
  s.uni p fun x => s.jump x (x.target ofs)

def execBraq (p : Pred) (pl : Fin 8) (all : Bool) (ofs : BitVec 17) (s : State) : Host.Outcome State Fault Refusal :=
  s.uni p fun x =>
    let b := x.ballot pl.val
    if (if all then b == x.path.lanes else b != 0) then s.jump x (x.target ofs) else s.pass x

/-- CALL also pushes its link on the return stack of 8 entries, which only predicts. -/
def execCall (p : Pred) (d : UDst) (ofs : BitVec 15) (s : State) : Host.Outcome State Fault Refusal :=
  s.uni p fun x =>
    let s1 := s.regs x 4 .general (writeG d (x.pc + 4)) []
    (s1.modGang x.k (fun g => { g with rets := ((x.pc + 4) :: g.rets).take 8 })).modGang x.k (fun g =>
      { g with paths := g.paths.map (fun q => if q.lanes = x.path.lanes then { q with pc := x.target ofs } else q) })

def execRet (p : Pred) (a : USrc) (s : State) : Host.Outcome State Fault Refusal :=
  s.uni p fun x => (s.jump x (x.u a &&& ~~~3)).modGang x.k (fun g => { g with rets := g.rets.drop 1 })

def execJmpg (p : Pred) (a : USrc) (s : State) : Host.Outcome State Fault Refusal :=
  s.uni p fun x => s.jump x (x.u a &&& ~~~3)

/-- Ends the lanes of a path; a gang with no live lane ends. -/
def Gang.dropPath (g : Gang) (lanes : Mask) (pc : DWord) : Gang :=
  let g1 := { g with paths := g.paths.filter (fun q => q.lanes ≠ lanes) }
  if g1.paths = [] then g.finish pc else g1

def execExit (p : Pred) (s : State) : Host.Outcome State Fault Refusal :=
  s.uni p fun x => s.modGang x.k (fun g => g.dropPath x.path.lanes x.pc)

/-! ## Traps (R398 to R400) -/

def execTrap (p : Pred) (ret : Bool) (s : State) : Host.Outcome State Fault Refusal :=
  s.uni p fun x =>
    if ret && x.g.inHandler then s.modGang x.k (fun g => g.trapReturn s.clk.now (x.g.g.getD 60 0))
    else s.trap x.k x.path.lanes x.pc 0x0007

/-- BKPT: the handler finds TAG in the word itself. -/
def execBkpt (p : Pred) (_tag : BitVec 16) (s : State) : Host.Outcome State Fault Refusal :=
  s.uni p fun x => s.trap x.k x.path.lanes x.pc 0x0008

/-! ## Runs (R180 to R185, R374, R383) -/

/-- The path waits at its instruction. -/
def State.await (s : State) (x : Iss) (w : Wait) : State :=
  s.modGang x.k (fun g => g.modPath x.path.lanes (fun p => { p with wait := w, wlen := x.len }))

/-- What the walk over a run's words finds (R180, R374). -/
inductive RunScan where
  | ok
  | bad (cause : Nat) (pc : DWord)
  | fetch (f : Fetch) (pc at_ : DWord)
  deriving DecidableEq, Repr

/-- The code of a decode error. -/
def DecErr.cause : DecErr → Nat
  | .rsvfield => 0x0002
  | _ => 0x0001

/-- The instruction at an address and its length, a decode cause, or a fetch that gave no word, with the address of that word. -/
def State.fetchInstr (s : State) (g : Gang) (ctx : Nat) (pc : DWord) : Except (Fetch × DWord) (Except Bool (Instr × Nat × Word)) :=
  let r := s.fetchWords g ctx pc 3
  match decode r.1 with
  | .ok (i, n) => .ok (.ok (i, n, r.1.headD 0))
  | .error .short => match r.2 with
    | some f => .error (f, pc + BitVec.ofNat 64 (4 * r.1.length))
    | none => .ok (.error false)
  | .error .illenc => .ok (.error false)
  | .error .rsvfield => .ok (.error true)

/-- Walks a run's words from a position on, one instruction at a time. -/
def State.scanRun (s : State) (g : Gang) (ctx n va k : Nat) : Nat → Nat → DWord → RunScan
  | 0, _, _ => .ok
  | fuel + 1, pos, pc =>
    match s.fetchInstr g ctx pc with
    | .error f => .fetch f.1 pc f.2
    | .ok (.error rsv) => .bad (if rsv then 0x0002 else 0x0001) pc
    | .ok (.ok (i, len, _)) =>
      match i.runCause g.rows n va k pos with
      | some c => .bad c pc
      | none => if pos = n then .ok else s.scanRun g ctx n va k fuel (pos + 1) (pc + BitVec.ofNat 64 (4 * len))

/-- Half entries of the operand buffer that staging takes (R178). -/
def Gang.halves (g : Gang) (va k : Nat) : Nat :=
  (List.range k).foldl (fun n i => n + (match (g.v.getD (va + i) ⟨.uniform, []⟩).tag with
    | .general => 2
    | _ => 1)) 0

/-- Lets the lane results of a path's earlier runs take effect (R185). -/
def Gang.settleLanes (g : Gang) (now : Nat) (lanes : Mask) : Gang :=
  let mine := fun (x : Pend) => decide (x.run = 0 ∧ x.land ≤ now ∧ x.lanes &&& lanes ≠ 0) && (match x.w with
    | .v _ _ _ => true
    | .t _ _ _ => true
    | .p _ _ _ => true
    | _ => false)
  let l := g.pend.filter mine
  l.foldl (fun g x => g.land x.tag x.w) { g with pend := g.pend.filter (fun x => !mine x) }

/-- Temporaries read 0 at the start of a run (R182). -/
def Gang.clearT (g : Gang) (lanes : Mask) : Gang := { g with t := g.t.map (fun r => mergeRow lanes [] r) }

/-- A run opens on a path (R181, R182): a number of its own, staging, temporaries 0. -/
def State.openRun (s : State) (x : Iss) (n va k : Nat) : State :=
  let (uid, s) := s.takeFresh
  match s.gang? x.k with
  | none => s
  | some g =>
    let staged := s.issueClk g.die ((g.halves va k + 7) / 8)
    let g1 := (g.settleLanes s.clk.now x.path.lanes).clearT x.path.lanes
    s.setGang x.k (g1.modPath x.path.lanes (fun p => { p with
      pc := x.pc + 4, hold := staged, run := some ⟨uid, x.pc, n, va, k, 0, staged, [], 0, none, false, 0⟩ }))

/-- Outstanding variable-latency results for V registers: loads and atomics of the gang, SFU operations (R183). -/
def State.varDests (s : State) (k : Nat) (g : Gang) : List Nat :=
  (s.mem.reqs.filter (fun r => r.2.gang == k)).flatMap (fun r => match r.2.dest with
    | .v n pair => if pair then [n, n + 1] else [n]
    | _ => []) ++
  ((mget g.cluster s.work.sfu).getD []).flatMap (fun o =>
    if o.gang = k then (o.d.vs o.fn.wide).flatMap vNames else []) ++
  g.pend.filterMap (fun x => match x.w with
    | .v n _ _ => if x.fixed || decide (x.land ≤ s.clk.now) then none else some n
    | _ => none)

/-- V registers with a pending write, of variable or of fixed latency, of whatever run (R181, R185). -/
def State.vWaits (s : State) (k : Nat) (g : Gang) : List Nat :=
  s.varDests k g ++ g.pend.filterMap (fun x => match x.w with
    | .v n _ _ => if x.fixed ∧ s.clk.now < x.land then some n else none
    | _ => none)

/-! ## Waits (R384, R385, R458, R401) -/

/-- The four counters are at or below their thresholds. -/
def Gang.ctrOk (g : Gang) (a b c d : Nat) : Bool :=
  decide (g.count 0 ≤ a) && decide (g.count 1 ≤ b) && decide (g.count 2 ≤ c) && decide (g.count 3 ≤ d)

def execWaitc (p : Pred) (a b c d : BitVec 4) (s : State) : Host.Outcome State Fault Refusal :=
  s.uni p fun x =>
    if x.g.ctrOk a.toNat b.toNat c.toNat d.toNat then s.pass x
    else s.await x (.ctr a.toNat b.toNat c.toNat d.toNat)

def execBartm (p : Pred) (s : State) : Host.Outcome State Fault Refusal := s.uni p fun x => s.await x .bar

/-- A write of the gang is complete at a scope (R235, R240). -/
def GWrite.complete (w : GWrite) (now : Nat) : Scope → Bool
  | .gang => true
  | .team => w.acked
  | _ => w.acked && decide (w.gwct + (if w.far then 120 else 0) ≤ now)

/-- Every write of the gang before `upto` is complete at a scope. -/
def Gang.relDone (g : Gang) (now upto : Nat) (sc : Scope) : Bool :=
  g.writes.all (fun w => decide (upto ≤ w.req) || w.complete now sc)

/-- Every load and value-returning atomic of the gang before `upto` is complete. -/
def Gang.acqDone (g : Gang) (upto : Nat) : Bool :=
  g.ops.all (fun o => decide (upto ≤ o.id) || o.cls != 0 || o.done)

/-- What a fence waits for has happened (R235). -/
def Gang.fenceDone (g : Gang) (now upto : Nat) (kind : FKind) (sc : Scope) : Bool :=
  match kind with
  | .rel => g.relDone now upto sc
  | .acq => g.acqDone upto
  | .sc => g.relDone now upto sc && g.acqDone upto

/-- FWCALL: the arguments are read at issue and the path waits; the service of SVC is a step of its own. The service answers
after the die-slice round trip to the control core (R401, R474). -/
def State.fwcall (s : State) (x : Iss) (svc : Nat) (ev : Option Instr) (lat : Nat) : State :=
  let s1 := s.await x (.fwcall svc [x.g.g.getD 1 0, x.g.g.getD 2 0, x.g.g.getD 3 0, x.g.g.getD 4 0])
  match ev with
  | some e => s1.sched (s.clk.now + lat) e x.k
  | none => s1

end Sys2Proof.Machine
end

