-- ==== Sys2Proof/Machine/Protect.lean ====
section
/-! DEFINITION. Protected launches: intervals, groups, snapshots and rollback (R253, R258 to R268). -/

namespace Sys2Proof.Machine

/-- The protection of a team. -/
def State.prot? (s : State) (t : Nat) : Option Prot := (s.team? t).bind Team.prot

/-- The scope is DIE or wider. -/
def wideScope : Scope → Bool
  | .gang | .team => false
  | _ => true

/-! ## A team's scratchpad -/

/-- Bytes of a team's scratchpad. -/
def Team.spBytes (t : Team) (off n : Nat) : List Byte := readBytes t.sp off n

/-- A number of `n` bytes of a team's scratchpad. -/
def Team.spNum (t : Team) (off n : Nat) : Nat := ofBytes (t.spBytes off n)

/-- Writes bytes of a team's scratchpad. -/
def Team.spPut (t : Team) (off : Nat) (bs : List Byte) : Team := { t with sp := writeBytes t.sp off bs }

/-- A scratchpad block is poisoned (R305). -/
def Team.spPoisoned (t : Team) (off : Nat) : Bool := poisoned (mgetD 0 (off / 64) t.spDesc)

/-- A barrier object is 8-byte aligned and lies below SP. -/
def Team.boOk (t : Team) (a : DWord) : Bool := a.toNat % 8 == 0 && decide (a.toNat + 8 ≤ t.spSize)

/-- A copy lowers COUNT by the bytes that perform; one that would go below 0 sets OVER (R469). -/
def Team.boLower (t : Team) (a : DWord) (n : Nat) : Team :=
  if t.boOk a then
    let v := t.spNum a.toNat 8
    let c := v % 2 ^ 40
    if n ≤ c then t.spPut a.toNat (toBytes 8 (v - n))
    else t.spPut a.toNat (toBytes 8 (v - c + (if v / 2 ^ 62 % 2 = 1 then 0 else 2 ^ 62)))
  else t

/-! ## Closes -/

/-- The instruction closes an interval (R253, R451, R456). -/
def closesInterval : Instr → Bool
  | .bartm _ => true
  | .stLong _ _ rel _ _ | .stsLong _ _ rel _ _ | .stmc _ _ rel _ _ _ | .stred _ _ _ rel _ _ _ => rel.isSome
  | .atom _ _ _ _ _ => true
  | .atomLong _ _ _ ord d _ _ => d.isSome || (match ord with
    | .rel _ => true
    | .ar _ => true
    | _ => false)
  | .fence _ kind sc => wideScope sc && (match kind with
    | .acq => false
    | _ => true)
  | _ => false

/-- A close waits for the gang's LDC, CPC and TLC and its SFU queue, and for a fourth closed group (R259, R261). Atomics that are
held in the interval that closes are not counted: they close it. -/
def State.mayClose (s : State) (g : Gang) : Bool :=
  match s.prot? g.team with
  | none => true
  | some p =>
    let held := fun (o : Op) => ((s.req? o.id).map (fun q => q.parts.any (fun x => match x.st with
      | .held n _ => n == p.cur
      | _ => false))).getD false
    (g.ops.filter (fun o => o.cls != 1 && !(o.cls == 0 && held o))).isEmpty && g.sfu == 0 && decide (p.closed.length < 3)

/-- A gang as a snapshot holds it: temporaries dead, a path inside a run stands at its RUNB. -/
def Gang.still (g : Gang) (now : Nat) : Gang :=
  let g1 := g.view now 0 0 0
  { g1 with
    pend := g.pend.filter (fun x => !x.seen now 0 0 0)
    paths := g.paths.map (fun p => match p.run with
      | none => { p with wait := .none }
      | some r => { p with pc := r.hdr, run := none, wait := .none }) }

/-- The tiles of the engine that a team holds, none otherwise. -/
def State.tilesOf (s : State) (t : Nat) (tm : Team) : List Tile :=
  match mget tm.cluster s.work.engines with
  | some e => if e.holder = some t then e.tiles else []
  | none => []

/-- A snapshot of a team now, for the group that begins (R258). -/
def State.snapNow (s : State) (t : Nat) (tm : Team) (group : Nat) : Snap :=
  { group := group
    point := s.clk.fresh
    gangs := tm.gangs.filterMap (fun k => (s.gang? k).map (fun g => (k, g.still s.clk.now)))
    sp := tm.sp
    spDesc := tm.spDesc
    tiles := s.tilesOf t tm
    rel := ((mget tm.cluster s.work.engines).map Engine.releasing).getD false
    rolls := 0 }

/-- The register rows of a snapshot that differ from those of another, by gang and number: those written since (log 87). -/
def Snap.rows (x : Snap) (old : Option Snap) : List (Nat × Nat) :=
  x.gangs.flatMap (fun g => (List.range (g.2.rows - 16)).filterMap (fun n =>
    match (old.bind (fun y => mget g.1 y.gangs)) with
    | some h => if h.v[n]? = g.2.v[n]? then none else some (g.1, n)
    | none => some (g.1, n)))

/-- The scratchpad blocks below `size` of a snapshot that differ from those of another. -/
def Snap.blks (x : Snap) (old : Option Snap) (size : Nat) : List Nat :=
  (List.range (size / 64)).filter (fun b => match old with
    | some y => readBytes x.sp (64 * b) 64 != readBytes y.sp (64 * b) 64 || mgetD 0 b x.spDesc != mgetD 0 b y.spDesc
    | none => true)

/-- A snapshot is added: what changed since the one before has to be copied (R260). -/
def Prot.addSnap (p : Prot) (x : Snap) (size : Nat) : Prot :=
  let rows := x.rows p.snaps.getLast?
  let blks := x.blks p.snaps.getLast? size
  { p with
    snaps := p.snaps ++ [x]
    copyRows := p.copyRows ++ rows.filter (fun r => !p.copyRows.contains r)
    copyBlks := p.copyBlks ++ blks.filter (fun b => !p.copyBlks.contains b) }

/-- The open interval of a team closes: its group waits 256 clk for its release, a snapshot opens the next one (R253, R259). -/
def State.closeGroup (s : State) (t : Nat) (snapshot : Bool) : State :=
  match s.team? t with
  | none => s
  | some tm =>
    match tm.prot with
    | none => s
    | some p =>
      let p1 := if snapshot then p.addSnap (s.snapNow t tm (p.cur + 1)) tm.spSize else p
      let s1 := s.setTeam t { tm with prot := some { p1 with cur := p.cur + 1, closed := p.closed ++ [(p.cur, s.clk.now + 256)] } }
      s1.sched (s.clk.now + 256) .groupRelease t

/-- The first snapshot of a protected team, at its first instruction (R260). -/
def State.firstSnap (s : State) (t : Nat) : State :=
  match s.team? t with
  | none => s
  | some tm =>
    match tm.prot with
    | none => s
    | some p => if p.snaps = [] then s.setTeam t { tm with prot := some (p.addSnap (s.snapNow t tm p.cur) tm.spSize) } else s

/-- A part of a run's group by its number: the parts count from 0, and a part names the scope of the release or fence before it (R263). -/
def scopeCode : Scope → Nat
  | .gang => 0
  | .team => 1
  | .die => 2
  | .dev => 3
  | .sys => 4

def nextPart (sub : Nat) (sc : Scope) : Nat := 8 * (sub / 8 + 1) + scopeCode sc

/-- The scope at which the parts before a part are waited for. -/
def scopeOfSub (sub : Nat) : Scope :=
  match sub % 8 with
  | 0 => .gang
  | 1 => .team
  | 2 => .die
  | 3 => .dev
  | _ => .sys

/-- A path's run goes on in a new part of its group, behind a release or fence of a scope. -/
def Path.newPart (p : Path) (sc : Scope) : Path :=
  { p with run := p.run.map (fun r => if r.closes then { r with sub := nextPart r.sub sc } else r) }

/-- A closing instruction of a path outside runs closes the interval; in a run that closes one a release or fence of scope `sc` begins a new
part of the run's group (R263). The paths of the snapshot stand as they stand now. -/
def State.closeBy (s : State) (x : Iss) (sc : Option Scope) : State :=
  match s.prot? x.g.team with
  | none => s
  | some _ =>
    if x.run = 0 then s.closeGroup x.g.team true
    else
      match sc with
      | some c => s.modGang x.k (fun g => g.modPath x.path.lanes (fun p => p.newPart c))
      | none => s

/-- The group and the part of it that a write issued now is held in. -/
def State.heldAs (s : State) (g : Gang) (path : Path) : Option (Nat × Nat) :=
  (s.prot? g.team).map (fun p => (p.cur, (path.run.map Run.sub).getD 0))

/-- Blocks that the teams of a cluster hold (R253). -/
def State.heldBlocks (s : State) (cl : Nat) : Nat :=
  let parts := (s.mem.reqs.map (fun r =>
    if ((s.gang? r.2.gang).map Gang.cluster) = some cl then
      (r.2.parts.filter (fun p => match p.st with
        | .held _ _ => true
        | _ => false)).length else 0)).foldl (· + ·) 0
  let eng := (s.work.teams.map (fun t => if t.2.cluster = cl then ((t.2.prot.map (fun p => p.held.length)).getD 0) else 0)).foldl (· + ·) 0
  parts + eng

/-! ## Rollback (R264 to R268) -/

/-- The snapshot a rollback goes to: the one that opened the oldest group not released. -/
def Prot.target (p : Prot) : Option Snap :=
  let oldest := (p.closed.map Prod.fst).foldl min p.cur
  match p.snaps.find? (fun x => x.group = oldest) with
  | some x => some x
  | none => p.snaps.getLast?

/-- The team is ended as at EXIT: every gang stops issuing (R268, R382). -/
def State.endTeam (s : State) (t : Nat) : State :=
  match s.team? t with
  | none => s
  | some tm => tm.gangs.foldl (fun s k => s.modGang k (fun g => match g.stop with
      | .ending | .ended => g
      | _ => g.finish g.exitPc)) s

/-- A reservoir record becomes free for other operations, and those that wait for it wake (R345). -/
def State.recFree (s : State) (key : Nat) : State :=
  ({ s with work := { s.work with resBusy := mdel key s.work.resBusy } }).wakeOps (fun _ ctx _ b =>
    ctx == key / 4096 && b.1 == 0x0306 && b.2.1 == 2 ^ 58 + key % 4096)

/-- The records that operations use are free again. -/
def State.recsFree (s : State) (f : Nat → Nat → Bool) : State :=
  let ids := (s.allOps.filter (fun o => f o.1 o.2.1)).map (fun o => o.2.1)
  (s.work.resBusy.filter (fun x => ids.contains x.2)).foldl (fun (s : State) x => s.recFree x.1) s

/-- Requests, SFU operations, copies, tile operations and commits of a team issued at or after a number are gone, with what is on its way to
them (R163, R265). -/
def State.discard (s : State) (gangs : List Nat) (point : Nat) : State :=
  let mine := fun (k id : Nat) => gangs.contains k && decide (point ≤ id)
  let s := s.recsFree mine
  { s with
    mem := { s.mem with
      reqs := s.mem.reqs.filter (fun r => !mine r.2.gang r.1)
      noFill := s.mem.noFill.filter (fun n => !((s.mem.reqs.any (fun r => r.1 == n.2.2 && mine r.2.gang r.1)))) }
    work := { s.work with
      sfu := s.work.sfu.map (fun q => (q.1, q.2.filter (fun o => !gangs.contains o.gang)))
      copies := s.work.copies.map (fun q => (q.1, q.2.filter (fun o => !mine o.gang o.id)))
      eacks := s.work.eacks.filter (fun x => !mine x.gang x.id)
      eended := s.work.eended.filter (fun x => !mine x.2.1 x.1)
      scopes := s.work.scopes.map (fun x => (x.1, match x.2.commit with
        | some c => if mine c.1 c.2.1 then { x.2 with st := .decided, commit := none } else x.2
        | none => x.2))
      teams := s.work.teams.map (fun t => (t.1, { t.2 with tops := t.2.tops.filter (fun o => !mine o.gang o.id) }))
      engines := s.work.engines.map (fun e => (e.1, { e.2 with ops := e.2.ops.filter (fun o => !mine o.gang o.id) })) } }

/-- A gang goes back to what a snapshot holds (R265): counters count what was issued before and is still outstanding. -/
def Gang.restore (cur snap : Gang) (point now : Nat) : Gang :=
  { snap with
    cluster := cur.cluster, slot := cur.slot, base := cur.base
    ops := cur.ops.filter (fun o => decide (o.id < point))
    writes := cur.writes.filter (fun w => decide (w.req < point))
    acq := cur.acq.filter (fun r => decide (r < point))
    waitFrom := none
    sfu := 0
    stop := match cur.stop with
      | .ending | .ended => .run
      | x => x
    paths := snap.paths.map (fun p => { p with hold := now + 1 }) }

/-- The clk that restoring tiles takes at 256 bytes a clk: 64 KiB for each slot whose state is not NONE (R338). -/
def tilesTime (l : List Tile) : Nat := 256 * (l.filter (fun t => decide (t.st ≠ .none))).length

/-- A protected team rolls back (R264, R265); for the fourth time to one snapshot, it ends (R268). `acc` is the ACCESS of the read that
found the fault, 9 for a strike (R256). What the snapshot holds is there at once, and the rows and blocks that differ from it are readable
as they are restored (R266). -/
def State.rollback (s : State) (t acc : Nat) : State :=
  match s.team? t with
  | none => s
  | some tm =>
    match tm.prot.bind (fun p => p.target.map (fun x => (p, x))) with
    | none => s
    | some (p, snap) =>
      if 3 ≤ snap.rolls then
        let s1 := s.log ⟨0x0404, acc, tm.ctx, tm.cluster, 0xFFFF, 0, s.clk.now, 0, 0⟩
        let s2 := (s1.discard tm.gangs snap.point).modTeam t (fun tm => { tm with prot := some { p with held := [], recs := [] } })
        s2.endTeam t
      else
        let here := s.snapNow t tm snap.group
        let s1 := s.discard tm.gangs snap.point
        let snaps := (p.snaps.filter (fun x => x.group ≤ snap.group)).map (fun x =>
          if x.group = snap.group then { x with rolls := x.rolls + 1 } else x)
        let p1 : Prot := { p with
          cur := snap.group
          closed := p.closed.filter (fun c => c.1 < snap.group)
          snaps := snaps
          held := p.held.filter (fun h => h.group < snap.group || h.sent)
          recs := p.recs.filter (fun h => h.1 < snap.group)
          barred := false
          copyRows := []
          copyBlks := []
          restRows := snap.rows (some here)
          restBlks := snap.blks (some here) tm.spSize
          tileAt := s.clk.now + 1 + tilesTime snap.tiles }
        let s2 := s1.modTeam t (fun tm => { tm with sp := snap.sp, spDesc := snap.spDesc, prot := some p1 })
        let s3 := snap.gangs.foldl (fun s g => s.modGang g.1 (fun cur => cur.restore g.2 snap.point s.clk.now)) s2
        -- a reservation taken after the snapshot ends, and its tile snapshot area with it; a release that has not taken effect is undone
        let s4 := if snap.tiles = [] then (s3.areaFree p.tarea).modTeam t (fun tm => { tm with prot := some { p1 with tarea := (0, 0) } }) else s3
        { s4 with work := { s4.work with engines := s4.work.engines.map (fun e =>
            if e.2.holder = some t then
              (e.1, if snap.tiles = [] ∨ snap.rel ∧ e.2.ops = [] then { e.2 with holder := none, releasing := false, tiles := List.replicate 16 ⟨.none, []⟩ }
                else { e.2 with tiles := snap.tiles, releasing := snap.rel })
            else e) } }

/-- A protected team consumes an uncorrectable block that an access of kind `acc` has found (R264). -/
def State.consume (s : State) (g : Gang) (acc : Nat) : State :=
  match s.prot? g.team with
  | none => s
  | some _ => s.rollback g.team acc

/-! ## The pace of snapshots and rollbacks (R260, R266) -/

/-- What is wanted comes first. -/
def toFront {α : Type} [BEq α] (want l : List α) : List α := l.filter want.contains ++ l.filter (fun x => !want.contains x)

/-- Results that land now in rows that the snapshot has not yet copied wait for the next clk. -/
def Gang.delayWrites (g : Gang) (now : Nat) (rows : List Nat) : Gang :=
  let hit := fun (x : Pend) => decide (x.land ≤ now) && (match x.w with
    | .v n _ _ => rows.contains n
    | _ => false)
  if g.pend.any hit then { g with pend := pendSort (g.pend.map (fun x => if hit x then { x with land := now + 1 } else x)) } else g

/-- The rows that results of a team's gangs land in now. -/
def State.landRows (s : State) (tm : Team) : List (Nat × Nat) :=
  tm.gangs.flatMap (fun k => match s.gang? k with
    | none => []
    | some g => g.pend.filterMap (fun x => match x.w with
      | .v n _ _ => if x.land ≤ s.clk.now then some (k, n) else none
      | _ => none))

/-- A clk of a protected team's copying and restoring: 2 rows and one block of each, those that a write or a read waits for first. -/
def State.protTick (s : State) (t : Nat) (tm : Team) : State :=
  match tm.prot with
  | none => s
  | some p =>
    if p.copyRows = [] ∧ p.copyBlks = [] ∧ p.restRows = [] ∧ p.restBlks = [] then s
    else
      let rows := toFront (s.landRows tm) p.copyRows
      let s1 := tm.gangs.foldl (fun (s : State) k => s.modGang k (fun g =>
        g.delayWrites s.clk.now ((rows.filter (fun r => r.1 == k)).map Prod.snd))) s
      s1.setTeam t { tm with prot := some { p with
        copyRows := rows.drop 2, copyBlks := p.copyBlks.drop 1, restRows := p.restRows.drop 2, restBlks := p.restBlks.drop 1 } }

/-- Rows of a gang that a rollback has not yet restored. -/
def State.unrestored (s : State) (k : Nat) (g : Gang) : List Nat :=
  match s.prot? g.team with
  | none => []
  | some p => (p.restRows.filter (fun r => r.1 == k)).map Prod.snd

/-- A read of rows that have not been restored waits, and they are restored next. -/
def State.wantRows (s : State) (k : Nat) (g : Gang) (rows : List Nat) : State :=
  s.modTeam g.team (fun t => { t with prot := t.prot.map (fun p => { p with restRows := toFront (rows.map (fun n => (k, n))) p.restRows }) })

/-- Scratchpad blocks that an access of a team waits for: those not restored, for a write also those not copied. -/
def State.spWaits (s : State) (t : Nat) (blks : List Nat) (write : Bool) : Bool :=
  match s.prot? t with
  | none => false
  | some p => blks.any (fun b => p.restBlks.contains b || (write && p.copyBlks.contains b))

/-- Blocks that an access waits for are copied and restored next. -/
def State.wantBlks (s : State) (t : Nat) (blks : List Nat) : State :=
  s.modTeam t (fun t => { t with prot := t.prot.map (fun p => { p with copyBlks := toFront blks p.copyBlks, restBlks := toFront blks p.restBlks }) })

/-- The numbers an ordering operation waits for: all before it; in a run that closes an interval, those of earlier groups
(R263). -/
def State.upto (s : State) (p : Path) : Nat :=
  match p.run with
  | none => s.clk.fresh
  | some r => if r.closes then r.uid else s.clk.fresh

/-- FENCE (R235, R458, R459). In a run that closes an interval a release fence of any scope begins a new part of the group (R263). -/
def execFence (p : Pred) (kind : FKind) (sc : Scope) (s : State) : Host.Outcome State Fault Refusal :=
  s.uni p fun x =>
    let upto := s.upto x.path
    let closing := closesInterval (.fence p kind sc) || (x.run ≠ 0 && kind ≠ .acq)
    let s1 := if x.g.fenceDone s.clk.now upto kind sc then s.pass x else s.await x (.fence kind sc upto)
    if closing then
      match s.prot? x.g.team with
      | none => s1
      | some _ =>
        let s2 := (s.pass x).closeBy x (some sc)
        if x.g.fenceDone s.clk.now upto kind sc then s2
        else s2.modGang x.k (fun g => { g with paths := g.paths.map (fun q =>
          if q.lanes = x.path.lanes then { q with pc := x.pc, wait := .fence kind sc upto, wlen := x.len,
                                                  run := q.run.map (fun r => { r with pos := x.pos }) } else q) })
    else s1

/-- FENCE_RESUME: what a fence of the gang waits for has happened; its path goes on. -/
def execFenceResume (s : State) : Host.Outcome State Fault Refusal :=
  .next (s.modGang s.clk.subj.a (fun g => { g with paths := g.paths.map (fun q =>
    match q.wait with
    | .fence kind sc upto => if g.fenceDone s.clk.now upto kind sc then { q.next q.wlen with wait := .none } else q
    | _ => q) }))

end Sys2Proof.Machine
end

