-- ==== Sys2Proof/Machine/Retain.lean ====
section
/-! DEFINITION. Retention of SRAM arrays: the scratchpad array of a cluster and the 1 MiB banks of a die slice (R273). -/

namespace Sys2Proof.Machine

/-- The clk of idleness after which an array enters retention. -/
def retIdle : Nat := 1200000

/-- The array of a cluster's scratchpad; the bank of a block in its die slice, by 96 banks interleaved by block. -/
def spArr (cluster : Nat) : Nat := cluster
def bankArr (die loc : Nat) : Nat := 1000 + 96 * die + loc % 96

/-- KiB of an array. -/
def arrKib (arr : Nat) : Nat := if arr < 1000 then 768 else 1024

/-- An array as it stands; one that has not been used since reset has been idle since clk 0. -/
def State.arrNow (s : State) (arr : Nat) : RetArr :=
  match mget arr s.mem.ret with
  | some a => a
  | none =>
    if s.clk.now < retIdle then ⟨.active, 0⟩
    else if s.clk.now < retIdle + 4 * arrKib arr then ⟨.entering retIdle, 0⟩
    else ⟨.retained, 0⟩

def State.setArr (s : State) (arr : Nat) (a : RetArr) : State :=
  { s with mem := { s.mem with ret := mput arr a s.mem.ret } }

/-- An access arrives at an array: the clk from which it is served, and the array leaving retention where it was in it. -/
def State.arrUse (s : State) (arr : Nat) : Nat × State :=
  let a := s.arrNow arr
  let now := s.clk.now
  match a.st with
  | .active =>
    let s1 := s.setArr arr ⟨.active, now⟩
    (now, if (mget arr s.mem.ret).isSome then s1 else s1.sched (now + retIdle) .retentionEntry arr)
  | .entering since =>
    let till := now + (now - since + 1) / 2
    (till, (s.setArr arr ⟨.leaving till, now⟩).sched till .retentionExitDone arr)
  | .retained =>
    let till := now + 2 * arrKib arr
    (till, (s.setArr arr ⟨.leaving till, now⟩).sched till .retentionExitDone arr)
  | .leaving till => (max now till, s.setArr arr ⟨.leaving till, now⟩)

/-- RETENTION_ENTRY: an array that is still idle begins to be re-encoded; one used since then is looked at later. -/
def execRetentionEntry (s : State) : Host.Outcome State Fault Refusal :=
  let arr := s.clk.subj.a
  let a := s.arrNow arr
  match a.st with
  | .active =>
    if a.last + retIdle ≤ s.clk.now then
      .next ((s.setArr arr { a with st := .entering s.clk.now }).sched (s.clk.now + 4 * arrKib arr) .retentionEntryDone arr s.clk.now)
    else .next (s.sched (a.last + retIdle) .retentionEntry arr)
  | _ => .next s

/-- RETENTION_ENTRY_DONE: an entry that no access has stopped is complete. -/
def execRetentionEntryDone (s : State) : Host.Outcome State Fault Refusal :=
  let arr := s.clk.subj.a
  match (s.arrNow arr).st with
  | .entering since => if since = s.clk.subj.b then .next (s.setArr arr { s.arrNow arr with st := .retained }) else .next s
  | _ => .next s

/-- RETENTION_EXIT_DONE: the array is active again, and its idleness counts from its last access. -/
def execRetentionExitDone (s : State) : Host.Outcome State Fault Refusal :=
  let arr := s.clk.subj.a
  match (s.arrNow arr).st with
  | .leaving till =>
    if till ≤ s.clk.now then
      .next ((s.setArr arr { s.arrNow arr with st := .active }).sched ((s.arrNow arr).last + retIdle) .retentionEntry arr)
    else .next s
  | _ => .next s

end Sys2Proof.Machine
end

