-- ==== Sys2Proof/Machine/Requests.lean ====
section
/-! DEFINITION. Memory requests: translation, the way to the home, acceptance, answers, leases, bounces and reissues (R78, R79,
R85 to R91, R103 to R106, R147 to R150, R197 to R212, R220 to R243, R253, R270 to R272, R455). -/

namespace Sys2Proof.Machine

/-! ## What a kind of request is -/

/-- The kind of its access (R88). -/
def RKind.acc : RKind → AccKind
  | .ld | .uld | .dget | .pref | .tbl | .unitRead => .read
  | .atom | .stred => .atomic
  | _ => .write

/-- ACCESS of its error records (R91). -/
def RKind.code : RKind → Nat
  | .ld | .uld | .dget | .pref | .lds | .tbl | .unitRead => 0
  | .atom | .atoms => 2
  | .stmc | .stred => 7
  | _ => 1

/-- It writes at its home. -/
def RKind.writes : RKind → Bool
  | .st | .ust | .dset | .stmc | .stred | .atom => true
  | _ => false

/-- A load that an L1 may serve; DGET reads the descriptor of the line (R217). -/
def RKind.loads : RKind → Bool
  | .ld | .uld | .tbl | .unitRead | .dget => true
  | _ => false

/-- It returns values to registers. -/
def Req.returns (q : Req) : Bool := q.dest != .none

/-! ## Results (R105, R106, R447, R450) -/

/-- The first `n` bytes that a lane has been given, by their offset in its value; `none` where a request failed. -/
def Req.bytesOf (q : Req) (l n : Nat) : List (Option Byte) :=
  (List.range n).map (fun i =>
    q.parts.findSome? (fun p =>
      ((p.accs.zip p.data).find? (fun a => a.1.lane == l && decide (a.1.off ≤ i ∧ i < a.1.off + a.1.len))).bind
        (fun a => a.2[i - a.1.off]?)))

/-- The bytes of a lane's value. -/
def Req.laneBytes (q : Req) (l : Nat) : List (Option Byte) := q.bytesOf l q.sz

/-- A 32-bit or narrower value extended, from its bytes; all ones where a byte is missing. -/
def extendBytes (signed : Bool) (bs : List (Option Byte)) : Word :=
  if bs.any Option.isNone then 0xFFFFFFFF
  else
    let v := ofBytes (bs.filterMap id)
    if signed ∧ 2 ^ (8 * bs.length - 1) ≤ v then BitVec.ofInt 32 ((v : Int) - (2 ^ (8 * bs.length) : Nat)) else BitVec.ofNat 32 v

/-- The value of a lane, in 64 bits; each destination word any of whose bytes failed is all ones (R224). -/
def Req.value (q : Req) (l : Nat) : DWord :=
  if q.bad.has l then 0xFFFFFFFFFFFFFFFF
  else
    let bs := q.laneBytes l
    if q.sz = 8 then join (extendBytes false (bs.take 4)) (extendBytes false (bs.drop 4))
    else
      match q.kind with
      | .uld => if bs.any Option.isNone then 0xFFFFFFFFFFFFFFFF
          else if q.signed then (extendBytes true bs).signExtend 64 else (extendBytes false bs).setWidth 64
      | _ => (extendBytes q.signed bs).setWidth 64

/-- The writes that land the values of lanes. A uniform load of 8 bytes any of which failed gives all ones (R391). -/
def Req.lands (q : Req) (lanes : Mask) : List Write :=
  match q.dest with
  | .none => []
  | .v n pair => cancelWrites q.cancel (if pair then
      [.v n lanes (rowOf fun l => (q.value l).setWidth 32), .v (n + 1) lanes (rowOf fun l => (q.value l >>> 32).setWidth 32)]
    else [.v n lanes (rowOf fun l => (q.value l).setWidth 32)])
  | .t _ _ => []
  | .g n => if q.cancel.1.has 0 || n == 62 then []
    else if (q.laneBytes 0).any Option.isNone then [.g n 0xFFFFFFFFFFFFFFFF] else [.g n (q.value 0)]

/-- A result of an operation lands in its gang, and in the snapshots that count the operation (R260, R265). -/
def State.landOp (s : State) (k id run : Nat) (plan : Mask) (pc : DWord) (ws : List Write) : State :=
  match s.gang? k with
  | none => s
  | some g =>
    let s1 := s.landVar k run plan pc .general ws
    match s1.prot? g.team with
    | none => s1
    | some p => s1.modTeam g.team (fun t => { t with prot := some { p with snaps := p.snaps.map (fun x =>
        if id < x.point then { x with gangs := mmod k (fun g => ws.foldl (fun g w => g.land .general w) g) x.gangs } else x) } })

/-- The lanes of a request whose parts are all done. -/
def Req.lanesDone (q : Req) : Mask :=
  let open_ := (q.parts.filter (fun p => p.st != .done)).flatMap (fun p => p.accs.map Acc.lane)
  (Mask.slots q.lanes).foldl (fun m l => if open_.contains l then m else m ||| Mask.one l) 0

/-- A counted operation completes; an acquire that waited for it lets go (R188, R235). -/
def State.opComplete (s : State) (k id cls : Nat) : State :=
  s.modGang k (fun g =>
    let g1 := if cls < 4 then g.opDone id cls else g
    { g1 with acq := g1.acq.filter (· ≠ id) })

/-- A write of a gang is acknowledged with its GWCT. -/
def State.ackWrite (s : State) (k id gwct : Nat) (far : Bool) : State :=
  s.modGang k (fun g => { g with writes := g.writes.map (fun w =>
    if w.req = id then { w with acked := true, gwct := max w.gwct gwct, far := w.far || far } else w) })

/-- Writes that are complete at every scope are forgotten. -/
def Gang.dropWrites (g : Gang) (now : Nat) : Gang :=
  { g with writes := g.writes.filter (fun w => !w.complete now .sys) }

/-- A request is done: what is left to land lands, the counter falls, entries chained behind it wake in the next clk (R209). -/
def State.finishReq (s : State) (r : Nat) (q : Req) : State :=
  let s1 := match q.kind with
    | .atom => s.landOp q.gang r q.run q.plan q.pc (q.lands q.lanes)
    | .stmc | .stred => match q.dest with
      | .g n => s.landOp q.gang r q.run q.plan q.pc [.g n (BitVec.ofNat 64 q.denied)]
      | _ => s
    | _ => s
  let gw := q.parts.foldl (fun m p => max m p.gwct) 0
  let far := q.parts.any (fun p => match p.home with
    | some (.peer _ false) => s.adm.locked
    | _ => false)
  let s2 := if q.kind.writes then s1.ackWrite q.gang r gw far else s1
  let s3 := match q.kind with
    | .unitRead => { s2 with work := { s2.work with inbox := mput r q s2.work.inbox } }
    | _ => s2.opComplete q.gang r q.cls
  let s4 := { s3 with mem := { s3.mem with
    reqs := mdel r s3.mem.reqs
    noFill := s3.mem.noFill.filter (fun n => n.2.2 ≠ r) } }
  let chained := s4.mem.reqs.any (fun x => x.2.parts.any (fun p => match p.st with
    | .cistern 0x0302 key _ => key == r
    | _ => false))
  if chained then s4.sched (s.clk.now + 1) .cisternWake r else s4

/-! ## Pulls of host-shared pages (R72) -/

/-- A message leaves through a connection: a code, then data (log 5). Codes: 0 an answer, 1 NACK unsupported delivery mode, 2 NACK access
denied, 3 NACK that asks for retransmission, 4 an RMA read of a page, 5 an RMA write of a page. -/
def State.reply (s : State) (conn code : Nat) (data : List Byte) : State :=
  { s with adm := { s.adm with outbox := s.adm.outbox ++ [(conn, BitVec.ofNat 8 code :: data)] } }

/-- Where messages to the host of a context's shared pages stand: the manual does not say by which connection they go (log 57). -/
def hostConn (ctx : Nat) : Nat := 2 ^ 33 + ctx

/-- The virtual address of the page of a leaf, and its size in bytes. -/
def State.pageSpan (s : State) (ctx page : Nat) : Nat × Nat :=
  match s.leafOf ctx (page * 65536) with
  | .leaf _ size => (page * 65536 / pageBytes size * pageBytes size, pageBytes size)
  | _ => (page * 65536, 65536)

/-- The pull of a host-shared page begins, unless it runs (R72): the whole page by RMA read, 3,000 clk. -/
def State.startPull (s : State) (ctx page : Nat) : State :=
  if s.adm.pulls.any (fun x => x.2.1 == ctx && decide ((s.pageSpan ctx x.2.2).1 = (s.pageSpan ctx page).1)) then s
  else
    let (n, s) := s.takeFresh
    let s := s.reply (hostConn ctx) 4 (toBytes 8 (s.pageSpan ctx page).1 ++ toBytes 8 (s.pageSpan ctx page).2)
    ({ s with adm := { s.adm with pulls := mput n (ctx, page) s.adm.pulls } }).sched (s.clk.now + 3000) .migrationPullDone n

/-! ## Sampled loads (R277 to R279) -/

/-- LEVEL of a sample. -/
def Part.level (p : Part) (die : Nat) : Nat :=
  match p.home, p.lat with
  | none, _ => 1
  | _, 28 => 1
  | some (.slice d), t => if t ≤ 260 then (if d = die then 2 else 3) else if d = die then 4 else 5
  | some (.sorter st), _ => if st / 3 = die then 4 else 5
  | some (.window _), _ => 6
  | some (.peer _ _), _ => 7
  | some (.out _), _ => 0xFF

/-- The records of a context's sampled loads that are not yet written are written in order, each followed by the count word (R277), until one
meets a page that must first be served or pulled; another cause is recorded, and its record is lost. -/
def State.sampleFlush (s : State) (ctx : Nat) : Nat → State
  | 0 => s
  | n + 1 =>
    match mget ctx s.adm.samples with
    | none => s
    | some x =>
      match x.late with
      | [] => s
      | bs :: l =>
        let at_ := x.base + BitVec.ofNat 64 (64 * (x.recs % 2 ^ x.log))
        let stop := [(at_, 64), (x.cnt, 8)].findSome? (fun y => match s.access ctx .write y.1 with
          | .error c => some (c, y.1)
          | .ok _ => none)
        let taken := fun (s : State) => { s with adm := { s.adm with samples := mput ctx { x with late := l, recs := x.recs + 1 } s.adm.samples } }
        match stop with
        | none => (taken ((s.vwrite ctx at_ bs).1.vwrite ctx x.cnt (toBytes 8 (x.recs + 1))).1).sampleFlush ctx n
        | some (c, a) =>
          if c = 0x0101 then (if s.clk.agenda.any (fun i => i.ev == .lightFault ctx (BitVec.ofNat 64 (ptrVa a)) true) then s
            else s.sched (s.clk.now + 600) (.lightFault ctx (BitVec.ofNat 64 (ptrVa a)) true) 0)
          else if c = 0x0103 then s.startPull ctx (pageOf (ptrVa a))
          else (taken (s.log ⟨c, 1, ctx, 0xFFFF, 0xFFFF, a, s.clk.now, 0, 0⟩)).sampleFlush ctx n

/-- The record of a sampled load (R278). -/
def State.writeSample (s : State) (q : Req) (l : Nat) (p : Part) : State :=
  match mget q.ctx s.adm.samples, s.gang? q.gang with
  | some x, some g =>
    let acc := (p.accs.find? (fun a => a.lane == l)).getD ⟨l, p.blk, 1, 0, 0⟩
    let hops := p.hops ++ [(if p.lat = 28 then 1 else 4, s.clk.now - p.since)]
    let hops := if hops.length ≤ 6 then hops
      else hops.take 5 ++ [((hops.getLastD (0, 0)).1, (hops.drop 5).foldl (fun n h => n + h.2) 0)]
    let failed := p.data.all (fun d => d == [])
    let bytes := toBytes 8 q.pc.toNat ++ toBytes 8 acc.addr.toNat ++ toBytes 8 q.issued ++ toBytes 2 g.cluster ++
      toBytes 1 g.gangid ++ toBytes 1 (if failed then 0xFF else p.level g.die) ++
      toBytes 2 (((g.lanes.getD l none).map Lane.tlid).getD 0) ++ toBytes 1 hops.length ++ toBytes 1 0 ++
      (List.range 6).flatMap (fun i => let h := hops.getD i (0, 0); toBytes 4 (h.1 * 2 ^ 24 + min h.2 0xFFFFFF)) ++
      List.replicate 8 0
    let s1 := { s with adm := { s.adm with samples := mput q.ctx { x with late := x.late ++ [bytes] } s.adm.samples } }
    s1.sampleFlush q.ctx (x.late.length + 1)
  | _, _ => s

/-! ## Failures (R88, R150) -/

/-- The lanes of a part. -/
def Part.lanes (p : Part) : Mask := p.accs.foldl (fun m a => m ||| Mask.one a.lane) 0

/-- An error record of a request; a multicast gives one for each destination that it refuses (R462). -/
def State.reqRecord (s : State) (q : Req) (p : Part) (cause : Nat) (lanes : Mask) : State :=
  match s.gang? q.gang with
  | none => s
  | some g =>
    let addr := ((p.accs.find? (fun a => lanes.has a.lane)).map Acc.addr).getD p.blk
    s.logGang g cause (match q.kind with
      | .unitRead => if q.home then 5 else 0
      | k => k.code) addr (match q.kind with
      | .uld | .ust | .unitRead => 1
      | _ => lanes) q.runpc

/-- Destinations of a multicast that a part touches with these lanes are denied: one record for each that is new. -/
def State.deny (s : State) (r : Nat) (q : Req) (p : Part) (cause : Nat) (hit : Acc → Bool) : State :=
  (p.accs.filter hit).foldl (fun s a =>
    match s.req? r with
    | none => s
    | some x =>
      if x.denied.testBit a.dest then s
      else (s.reqRecord q p cause ((p.accs.filter (fun y => hit y && y.dest == a.dest)).foldl (fun m y => m ||| Mask.one y.lane) 0)).modReq r
        (fun x => { x with denied := x.denied ||| 2 ^ a.dest })) s

/-- A prefetch is dropped without a record (R464). -/
def RKind.silent : RKind → Bool
  | .pref => true
  | _ => false

/-- Puts an access into the parts of a request: one part for each block, speculative accesses of a rival apart. -/
def addAcc (blk : DWord) (spec : Bool) (a : Acc) : List Part → List Part
  | [] => [.new blk [a] spec]
  | p :: l => if p.blk = blk ∧ p.spec = spec then { p with accs := p.accs ++ [a] } :: l else p :: addAcc blk spec a l

/-- The block of a pointer, without its tag. -/
def blkOf (a : DWord) : DWord := BitVec.ofNat 64 (ptrVa a / 64 * 64)

/-- The accesses of one lane: one where the access is aligned or lies in one block, else one for each block (R224). -/
def laneAccs (lane : Nat) (addr : DWord) (sz dest : Nat) : List Acc :=
  let room := 64 - addr.toNat % 64
  if sz ≤ room then [⟨lane, addr, sz, 0, dest⟩]
  else [⟨lane, addr, room, 0, dest⟩, ⟨lane, addr + BitVec.ofNat 64 room, sz - room, room, dest⟩]

/-- An access of a rival is speculative (R147). -/
def State.speculative (s : State) (g : Gang) (a : DWord) : Bool :=
  match s.rivalOf g with
  | none => false
  | some v =>
    match (mget v.1 s.work.scopes).bind (fun x => x.rivals[v.2]?) with
    | none => false
    | some x => !decide (ptrVa x.pbase ≤ ptrVa a ∧ ptrVa a < ptrVa x.pbase + x.plen)

/-- The parts of accesses. -/
def State.partsOf (s : State) (g : Gang) (accs : List Acc) : List Part :=
  accs.foldl (fun ps a => addAcc (blkOf a.addr) (s.speculative g a.addr) a ps) []

/-- The clusters' L1 serves a gang; a control core has none (R392). -/
def Gang.l1Of (g : Gang) : Option Nat :=
  match g.core with
  | none => some g.cluster
  | some _ => none

/-- A store or an atomic issues (R199, R226): its cluster drops the block from its L1, and no fill of the block enters it until the
acknowledgement returns. -/
def State.storeDrop (s : State) (cl r loc : Nat) : State :=
  let s1 := s.dropL1 cl loc
  if s1.mem.noFill.contains (cl, loc, r) then s1 else { s1 with mem := { s1.mem with noFill := s1.mem.noFill ++ [(cl, loc, r)] } }

/-- What a request that writes drops at issue: the blocks of its parts, as the page tables place them. -/
def State.issueDrop (s : State) (r : Nat) : State :=
  match s.req? r with
  | none => s
  | some q =>
    match (s.gang? q.gang).bind Gang.l1Of with
    | none => s
    | some c =>
      if !q.kind.writes then s else
      q.parts.foldl (fun s p => if p.spec then s else match s.leafOf q.ctx (ptrVa p.blk) with
        | .leaf e size => match s.placeOf q.ctx e size (ptrVa p.blk) with
          | some a => s.storeDrop c r (a / 64)
          | none => s
        | _ => s) s

/-- A multicast whose table has been read writes to its destinations (R462): its parts are sent in this clk, or held (R253).
Without the whole table every destination is refused. `signed` says that it is STMC, `cmp` holds what R446 adds to the base. -/
def State.multicast (s : State) (r : Nat) (q : Req) : State :=
  let kind := if q.signed then RKind.stmc else RKind.stred
  let q1 := { q with kind := kind, signed := false, home := true, sample := none }
  let tab := q.bytesOf 0 128
  match s.gang? q.gang with
  | none => s
  | some g =>
    if tab.any Option.isNone then (s.setReq r { q1 with denied := q.sel }).finishReq r { q1 with denied := q.sel }
    else
      let bs := tab.filterMap id
      let all := ((List.range 16).filter (fun k => q.sel.testBit k)).flatMap (fun k =>
        (Mask.slots q.lanes).map (fun l =>
          (l, k, BitVec.ofNat 64 (ofBytes ((bs.drop (8 * k)).take 8)) + q.cmp.getD l 0)))
      let wrong := fun (x : Nat × Nat × DWord) =>
        if !ptrOk x.2.2 then 0x0108 else if !q.signed && x.2.2.toNat % q.sz != 0 then 0x010C else 0
      let good := (all.filter (fun x => wrong x == 0)).flatMap (fun x => laneAccs x.1 x.2.2 q.sz x.2.1)
      let parts := (s.partsOf g good).map (fun p => { p with st := match q.grp with
        | none => PState.idle
        | some h => .held h.1 h.2 })
      let q2 := { q1 with parts := parts }
      let s1 := (List.range 16).foldl (fun s k =>
        match all.find? (fun x => x.2.1 == k && wrong x != 0) with
        | none => s
        | some x =>
          let lanes := (all.filter (fun y => y.2.1 == k && wrong y == wrong x)).foldl (fun m y => m ||| Mask.one y.1) 0
          (s.logGang g (wrong x) 7 x.2.2 lanes q.runpc).modReq r (fun y => { y with denied := y.denied ||| 2 ^ k })) ((s.setReq r q2).issueDrop r)
      if parts = [] then s1.finishReq r ((s1.req? r).getD q2) else s1

/-- A part is done: the lanes it completes land (R106), and the request may be done. -/
def State.partDone (s : State) (r b : Nat) : State :=
  match s.req? r with
  | none => s
  | some q0 =>
    let before := q0.lanesDone
    let s1 := s.modPart r b (fun p => { p with st := .done })
    match s1.req? r with
    | none => s1
    | some q =>
      let s2 := match q.kind with
        | .ld | .uld | .dget => s1.landOp q.gang r q.run q.plan q.pc
            (let m := q.lanesDone &&& ~~~before
             if m = 0 then [] else q.lands m)
        | _ => s1
      let s3 := match q.sample, q.parts[b]? with
        | some l, some p => if p.accs.any (fun a => a.lane == l) then s2.writeSample q l p else s2
        | _, _ => s2
      if q.parts.all (fun p => p.st == .done) then (if q.kind = .tbl then s3.multicast r q else s3.finishReq r q) else s3

/-- A part fails with a cause: no access of it performs (R88); a rival faults (R150). With `rcd` it writes its own error record. -/
def State.failOne (s : State) (r b cause : Nat) (rcd : Bool) : State :=
  match s.req? r with
  | none => s
  | some q =>
    match q.parts[b]? with
    | none => s
    | some p =>
      let s1 := if q.kind.silent then s
        else match q.kind with
          | .stmc | .stred => s.deny r q p cause (fun _ => true)
          | _ => if rcd then s.reqRecord q p cause p.lanes else s
      let s2 := s1.modPart r b (fun p => { p with data := p.accs.map (fun _ => []), gwct := s.clk.now, line := none })
      let s3 := match (s.gang? q.gang).bind s.rivalOf with
        | some v => if q.kind.silent then s2 else s2.faultRival v.1 v.2
        | none => s2
      s3.partDone r b

/-- A part fails by itself. -/
def State.failPart (s : State) (r b cause : Nat) : State := s.failOne r b cause true

/-- What follows a cause that bounces (R88, R89, R72): the memory processor serves it. -/
def State.serveCause (s : State) (ctx : Nat) (va : Nat) (cause : Nat) (write : Bool) : State :=
  if cause = 0x0101 then s.sched (s.clk.now + 600) (.lightFault ctx (BitVec.ofNat 64 va) write) 0
  else if cause = 0x0103 then s.startPull ctx (pageOf va)
  else s

/-- The parts of a request whose page is translated at once with that of part `b` (R105). -/
def Req.together (q : Req) (b : Nat) : List Nat :=
  match q.parts[b]? with
  | none => []
  | some p => (List.range q.parts.length).filter (fun j => match q.parts[j]? with
    | none => false
    | some y => y.st == p.st && pageOf (ptrVa y.blk) == pageOf (ptrVa p.blk))

/-- The lanes of a page meet a cause in its translation: they bounce, or they fail, with one error record for the page (R91, R105). -/
def State.causePart (s : State) (r b cause : Nat) : State :=
  match s.req? r with
  | none => s
  | some q =>
    match q.parts[b]? with
    | none => s
    | some p =>
      if q.kind.silent then s.failPart r b cause
      else
        let js := q.together b
        let lanes := js.foldl (fun m j => m ||| ((q.parts[j]?).map Part.lanes).getD 0) 0
        if bounces cause then
          let s1 := if cause = 0x0102 then s.reqRecord q p cause lanes else s
          (js.foldl (fun (s : State) j => s.park r j cause 0 (((q.parts[j]?).map Part.qc).getD 0xFF)) s1).serveCause q.ctx (ptrVa p.blk) cause
            (q.kind.acc != .read)
        else
          let s1 := match q.kind with
            | .stmc | .stred => s
            | _ => s.reqRecord q p cause lanes
          js.foldl (fun (s : State) j => s.failOne r j cause false) s1

/-! ## Sending a part (R85, R199, R210, R226, R253) -/

/-- Bytes of a part's accesses out of a block's 64 bytes. -/
def Part.slice (p : Part) (block : List Byte) : List (List Byte) :=
  p.accs.map (fun a => (block.drop (a.addr.toNat % 64)).take a.len)

/-- Puts bytes over a block. -/
def overlayBytes (block : List Byte) (at_ : Nat) (bs : List Byte) : List Byte :=
  block.take at_ ++ bs ++ block.drop (at_ + bs.length)

/-- The bytes of one store access: the low bytes of its lane's data. -/
def Req.accBytes (q : Req) (a : Acc) : List Byte := ((toBytes 8 (q.data.getD a.lane 0).toNat).drop a.off).take a.len

/-- An atomic's new value from the operand `s` (for cas the new value) and the compare value `c`; `none` writes nothing
(R454, R455). -/
def atomNew (op : AOp) (signed : Bool) (w : Nat) (old s c : Nat) : Option Nat :=
  let m := 2 ^ w
  let v := fun (x : Nat) => if signed ∧ m / 2 ≤ x then (x : Int) - m else (x : Int)
  match op with
  | .add => some ((old + s) % m)
  | .xchg => some (s % m)
  | .and => some (Nat.land old (s % m))
  | .or => some (Nat.lor old (s % m))
  | .xor => some (Nat.xor old (s % m))
  | .min => some (if v (s % m) < v old then s % m else old)
  | .max => some (if v old < v (s % m) then s % m else old)
  | .cas => if old = c % m then some (s % m) else none

/-- A held write of a team to a block: a part of a request, or an engine's write. -/
inductive HeldAt where
  | part (q : Req) (p : Part)
  | eng (h : HeldWrite)

/-- Puts a held write among others by its issue number; of one operation they keep their order. -/
def heldInsert (n : Nat) (x : HeldAt) : List (Nat × HeldAt) → List (Nat × HeldAt)
  | [] => [(n, x)]
  | y :: l => if n < y.1 then (n, x) :: y :: l else y :: heldInsert n x l

/-- The held writes of a team to a block that issued before number `upto`, in gang order (R225, R253). -/
def State.heldAt (s : State) (t upto : Nat) (blk : DWord) : List (Nat × HeldAt) :=
  let here := fun (a : DWord) => ptrVa a / 64 == ptrVa blk / 64
  let reqs := s.mem.reqs.flatMap (fun r =>
    if ((s.gang? r.2.gang).map Gang.team) = some t ∧ r.1 < upto then
      r.2.parts.filterMap (fun p => match p.st with
        | .held _ _ => if here p.blk then some (r.1, HeldAt.part r.2 p) else none
        | _ => none)
    else [])
  match s.prot? t with
  | none => reqs
  | some p => (p.held.filter (fun h => here h.ptr && decide (h.id < upto))).foldl (fun l h => heldInsert h.id (.eng h) l) reqs

/-- The accesses of an atomic apply one after another on a block's bytes: the bytes after, the values returned, whether any
of them wrote (`atomNew` gives each new value). -/
def Req.atomics (q : Req) (accs : List (Acc × Bool)) (block : List Byte) : List Byte × List (List Byte) × Bool :=
  accs.foldl (fun r x =>
    let a := x.1
    if !x.2 then (r.1, r.2.1 ++ [[]], r.2.2)
    else
      let at_ := a.addr.toNat % 64
      let old := (r.1.drop at_).take a.len
      match atomNew q.op q.signed (8 * a.len) (ofBytes old) (q.data.getD a.lane 0).toNat (q.cmp.getD a.lane 0).toNat with
      | none => (r.1, r.2.1 ++ [old], r.2.2)
      | some v => (overlayBytes r.1 at_ (toBytes a.len v), r.2.1 ++ [old], true)) (block, [], false)

/-- A held write lies over a block's bytes and descriptor. -/
def HeldAt.over (x : HeldAt) (b : List Byte × BitVec 16) : List Byte × BitVec 16 :=
  match x with
  | .eng h => ((List.range 64).map (fun i => (h.data.getD i none).getD (b.1.getD i 0)), h.desc.getD b.2)
  | .part q p =>
    match q.kind with
    | .atom | .stred => ((q.atomics (p.accs.map (fun a => (a, true))) b.1).1, b.2)
    | .dset => (b.1, p.accs.foldl (fun _ a => BitVec.ofNat 16 (q.data.getD a.lane 0).toNat) b.2)
    | _ => (p.accs.foldl (fun bl a => overlayBytes bl (a.addr.toNat % 64) (q.accBytes a)) b.1, b.2)

/-- A block as a team sees it: its own held writes that issued before number `upto` lie over it, in gang order (R253). -/
def State.teamView (s : State) (t upto : Nat) (blk : DWord) (b : List Byte × BitVec 16) : List Byte × BitVec 16 :=
  (s.heldAt t upto blk).foldl (fun b x => x.2.over b) b

/-- A block as a request of a gang sees it. -/
def State.reqView (s : State) (r : Nat) (q : Req) (blk : DWord) (b : List Byte × BitVec 16) : List Byte × BitVec 16 :=
  match (s.gang? q.gang).map Gang.team with
  | none => b
  | some t => s.teamView t r blk b

/-- A load or an atomic consumes a poisoned block: POISON is recorded once for its gang and run (R193, R306). -/
def State.poisonRec (s : State) (r : Nat) (q : Req) (lanes : Mask) : State :=
  match s.gang? q.gang with
  | none => s
  | some g => s.arith q.gang g (if q.run = 0 then r else q.run) (if q.runpc = 0 then q.pc else q.runpc) 0x0204 lanes

/-- Adds a unit to what a part has passed. -/
def Part.hop (p : Part) (unit clk : Nat) : Part := { p with hops := p.hops ++ [(unit, clk)] }

/-- Where the speculative accesses of a rival are served: the die slice of the opener's die (R147). -/
def State.specHome (s : State) (v : Nat × Nat) : Home :=
  .slice (((mget v.1 s.work.scopes).bind (fun x => (s.team? x.opener).map (fun t => dieOf t.cluster))).getD 0)

/-- A translated part goes to its home, or the L1 serves it. Lines of TSO pages and of pages with HOME 10 or 11 are served at the home
only (R74, R198). -/
def State.sendLeaf (s : State) (r b : Nat) (leaf : DWord) (size : Nat) : State :=
  match s.req? r with
  | none => s
  | some q =>
    match q.parts[b]?, s.gang? q.gang with
    | some p, some g =>
      let va := ptrVa p.blk
      match leafCause q.kind.acc leaf with
      | some c => s.causePart r b c
      | none =>
        match s.homeOf q.ctx g.die leaf size va, s.placeOf q.ctx leaf size va with
        | some h, some a =>
          let loc := a / 64
          let hostAtom := match h, q.kind with
            | .peer _ true, .atom => true
            | .peer _ true, .stred => true
            | _, _ => false
          let cached := (leafHome leaf = 0 ∨ leafHome leaf = 1) ∧ !leafTso leaf
          if hostAtom then s.causePart r b 0x0104
          else if q.kind = .pref ∧ (leafHome leaf = 2 ∨ leafHome leaf = 3) then s.failPart r b 0
          else
            let line := if q.kind.loads ∧ !q.home ∧ !p.spec ∧ cached then g.l1Of.bind (fun c => s.l1? c loc q.ctx) else none
            match line with
            | some l =>
              let bad := fun (x : Acc) => leafTagck leaf && ptrTag x.addr != l.tag.toNat
              let seen := s.reqView r q p.blk (l.data, l.desc)
              let s1 := { s with mem := { s.mem with l1 := s.mem.l1.map (fun y => if y = l then { y with last := s.clk.now } else y) } }
              let badLanes := (p.accs.filter bad).foldl (fun m x => m ||| Mask.one x.lane) 0
              let s2 := if badLanes = 0 then s1
                else match s.rivalOf g with
                  | some v => (s1.reqRecord q p 0x0106 badLanes).faultRival v.1 v.2
                  | none => s1.reqRecord q p 0x0106 badLanes
              let desc := q.kind == .dget
              let data := (p.accs.zip (p.slice seen.1)).map (fun x => if bad x.1 then [] else if desc then toBytes 4 seen.2.toNat
                else if poisoned l.desc then [] else x.2)
              let s2 := if poisoned l.desc && !desc then s2.poisonRec r q (p.lanes &&& ~~~badLanes) else s2
              let s3 := s2.modPart r b (fun p => { p with st := .accepted, leaf := leaf, home := some h, loc := loc, lat := 28, data := data })
              s3.sched (s.clk.now + 28) .loadComplete r b
            | none =>
              let h := match h, p.spec, (s.gang? q.gang).bind s.rivalOf with
                | .out d, _, _ => Home.out d
                | _, true, some v => s.specHome v
                | h, _, _ => h
              let cl := g.l1Of
              let s1 := if q.kind.writes && !p.spec then
                  match cl with
                  | some c => s.storeDrop c r loc
                  | none => s
                else s
              let s2 := s1.modPart r b (fun p => { p with
                st := .flying, leaf := leaf, home := some h, loc := loc, since := s.clk.now, line := none, till := none
                gwct := if cached then 1 else 0 })
              s2.sched (s.clk.now + h.oneWay g.die cl) .requestAccept r b
        | _, _ => s.causePart r b 0x0109
    | _, _ => s

/-- The buffer a request translates through: the walk-ahead buffer for a descriptor of TDLOAD. -/
def Req.place (q : Req) (g : Gang) : Place :=
  match q.kind with
  | .unitRead => if q.home then .walkAhead g.cluster else g.place
  | _ => g.place

/-- The part has not been sent. -/
def PState.unsent : PState → Bool
  | .idle | .woken _ | .held _ _ => true
  | _ => false

/-- A part is translated (R85): a buffer hit sends it, a miss waits for a walk under the interval of the XLATE class. -/
def State.sendPart (s : State) (r b : Nat) : State :=
  match s.req? r with
  | none => s
  | some q =>
    match q.parts[b]?, s.gang? q.gang with
    | some p, some g =>
      let page := pageOf (ptrVa p.blk)
      if !p.st.unsent then s else
      match s.lookup (q.place g) g.die q.ctx page with
      | (some e, s1) => s1.sendLeaf r b e.leaf e.size
      | (none, s1) =>
        let till := s.clk.now + s.sluiceOf q.ctx 2
        let s2 := (s1.modPart r b (fun p => { p with st := .walking, since := s.clk.now, till := some (2, till) })).walkFor g.die q.ctx page (.part r b)
        s2.sched till .sluiceBounce r b
    | _, _ => s

/-- A part is sent, or held where its team is protected and it writes (R253). -/
def State.startPart (s : State) (r b : Nat) (held : Option (Nat × Nat)) : State :=
  match held with
  | none => s.sendPart r b
  | some h => s.modPart r b (fun p => { p with st := .held h.1 h.2 })

/-! ## New requests (R187, R210, R448) -/

/-- The newest entry of a gang's cistern that a block's accesses must chain behind (R210). -/
def State.chainBehind (s : State) (k : Nat) (blks : List DWord) : Option Nat :=
  ((s.mem.reqs.filter (fun r => r.2.gang == k && r.2.btime != 0 &&
    r.2.parts.any (fun p => p.st != .done && blks.any (fun y => ptrVa y == ptrVa p.blk)))).map Prod.fst).getLast?

/-- A request of a gang is issued: it takes its number and raises its counter; its parts are sent, held, or chained. -/
def State.newReq (s : State) (q : Req) : State :=
  let (r, s) := s.takeFresh
  let s1 := s.modGang q.gang (fun g => { g with
    reqs := g.reqs + 1
    ops := if q.cls < 4 then g.ops ++ [⟨r, q.cls, false⟩] else g.ops
    writes := if q.kind.writes || q.kind == .tbl then g.writes ++ [⟨r, r, false, 0, false⟩] else g.writes
    acq := if q.acq then g.acq ++ [r] else g.acq })
  let s2 := (s1.setReq r q).issueDrop r
  if q.parts = [] then s2.finishReq r q
  else
    match s.chainBehind q.gang (q.parts.map Part.blk) with
    | some c =>
      if q.kind.silent then (List.range q.parts.length).foldl (fun s b => s.sendPart r b) s2
      else (List.range q.parts.length).foldl (fun s b => s.park r b 0x0302 c 0xFF) s2
    | none => (List.range q.parts.length).foldl (fun s b => s.startPart r b (if q.kind.writes then q.grp else none)) s2

/-! ## Acceptance at a home (R205, R225, R233, R455) -/

/-- Bytes of the accesses of a store as a masked block: the highest slot stays (R227). -/
def Req.storeMask (q : Req) (accs : List (Acc × Bool)) : List (Option Byte) :=
  accs.foldl (fun bl x =>
    if x.2 then
      let at_ := x.1.addr.toNat % 64
      (List.range 64).map (fun i => if at_ ≤ i ∧ i < at_ + x.1.len then some ((q.accBytes x.1).getD (i - at_) 0) else bl.getD i none)
    else bl) (List.replicate 64 none)

/-- The blocks that a multicast will write as far as they can be known: from its table as read, else as the table stands now (R225). -/
def State.tableBlocks (s : State) (q : Req) : List Nat :=
  let tab := q.bytesOf 0 128
  let bs := if tab.any Option.isNone then (match s.vread q.ctx q.base 128 with
    | .ok bs => bs
    | .error _ => []) else tab.filterMap id
  ((List.range 16).filter (fun k => q.sel.testBit k && decide (8 * k + 8 ≤ bs.length))).flatMap (fun k => (Mask.slots q.lanes).flatMap (fun l =>
    (laneAccs l (BitVec.ofNat 64 (ofBytes ((bs.drop (8 * k)).take 8)) + q.cmp.getD l 0) q.sz k).map (fun a => ptrVa a.addr / 64)))

/-- An earlier request of the gang to the block that its home has not accepted, a multicast whose table is still read among them (R225), or, on a TSO page, an earlier request of
the same kind to another TSO block (R74). -/
def State.earlier (s : State) (r : Nat) (q : Req) (p : Part) (tso : Bool) : Option Nat :=
  let pending := fun (x : Part) => match x.st with
    | .accepted => false
    | .done => false
    | .held _ _ => false
    | _ => true
  ((s.mem.reqs.filter (fun x => decide (x.1 < r) && x.2.gang == q.gang && !x.2.kind.silent &&
    ((x.2.kind == .tbl && (s.tableBlocks x.2).contains (ptrVa p.blk / 64)) || x.2.parts.any (fun y => pending y && (y.blk == p.blk ||
      (tso && x.2.kind.writes == q.kind.writes && (match s.leafOf q.ctx (ptrVa y.blk) with
        | .leaf e _ => leafTso e
        | _ => false))))))).map Prod.fst).getLast?

/-- The block of a rival's write set at an address (R147). -/
def State.specBlk (s : State) (v : Nat × Nat) (blk : DWord) : Option WBlk :=
  ((mget v.1 s.work.scopes).bind (fun x => x.rivals[v.2]?)).bind (fun x => mget (ptrVa blk / 64) x.ws)

/-- The block bytes a speculative reader sees (R147). -/
def State.specBlock (s : State) (v : Nat × Nat) (blk : DWord) (block : List Byte) : List Byte :=
  match s.specBlk v blk with
  | none => block
  | some ws => (List.range 64).map (fun i => (ws.bytes.getD i none).getD (block.getD i 0))

/-- The descriptor and the tag that a speculative access finds, where memory has `d` and `t`. -/
def State.specDesc (s : State) (v : Nat × Nat) (blk : DWord) (d : BitVec 16) : BitVec 16 := ((s.specBlk v blk).bind WBlk.desc).getD d
def State.specTag (s : State) (v : Nat × Nat) (blk : DWord) (t : Nat) : Nat := ((s.specBlk v blk).bind WBlk.tag).getD t

/-- A rival's teams are asked to stop at weirs; one that waits to be placed is no candidate any more (R139, R149, R152, R162). -/
def State.stopRival (s : State) (v : Nat × Nat) : State :=
  (s.work.teams.filter (fun t => t.2.rival == some v)).foldl (fun s t =>
    (t.2.gangs.foldl (fun s k => s.modGang k (fun g => g.ask s.clk.now)) s).modTeam t.1 (fun t => match t.st with
      | .placed => { t with st := .stopping }
      | .candidate => { t with st := .stopped }
      | _ => t)) s

/-- A speculative write merges into the write set, or overflows it (R147, R149). `full` copies the block's memory value in. -/
def State.specWrite (s : State) (v : Nat × Nat) (blk : DWord) (full : Bool) (mem : List Byte) (new : WBlk) : State :=
  match (mget v.1 s.work.scopes).bind (fun x => x.rivals[v.2]?) with
  | none => s
  | some x =>
    let key := ptrVa blk / 64
    let old := mget key x.ws
    if old.isNone ∧ 8192 ≤ x.ws.length then
      let s1 := { s with work := { s.work with scopes := mmod v.1 (fun y => { y with rivals := lmod y.rivals v.2 (fun x =>
        if x.st = RivState.running ∨ x.st = RivState.barrier ∨ x.st = RivState.winner then { x with st := .overflowed } else x) }) s.work.scopes } }
      s1.stopRival v
    else
      let base : WBlk := old.getD ⟨if full then mem.map some else List.replicate 64 none, none, none⟩
      let bytes := (List.range 64).map (fun i => match new.bytes.getD i none with
        | some b => some b
        | none => base.bytes.getD i none)
      let blk : WBlk := ⟨bytes, match new.desc with
        | some d => some d
        | none => base.desc, match new.tag with
        | some t => some t
        | none => base.tag⟩
      { s with work := { s.work with scopes := mmod v.1 (fun y => { y with rivals := lmod y.rivals v.2 (fun x =>
        { x with ws := mput key blk x.ws }) }) s.work.scopes } }

/-- A speculative part performs at the opener's die slice (R147); `ok` says which accesses fail on no tag. An access that takes a byte
of poisoned memory fails. -/
def State.performSpec (s : State) (r b : Nat) (q : Req) (p : Part) (v : Nat × Nat) (ok : List (Acc × Bool)) (block : List Byte)
    (poison : Bool) (tag : Option Nat) (back : Nat) : State :=
  let seen := s.specBlock v p.blk block
  let held := (((s.specBlk v p.blk).map WBlk.bytes).getD []).map Option.isSome
  let ok := ok.map (fun (x : Acc × Bool) => (x.1, x.2 && (!poison || (List.range x.1.len).all (fun i => held.getD (x.1.addr.toNat % 64 + i) false))))
  if q.kind.writes then
    let (after, olds, _) := match q.kind with
      | .atom | .stred => q.atomics ok seen
      | _ => (seen, ok.map (fun (x : Acc × Bool) => if x.2 then [(0 : Byte)] else []), true)
    let new : List (Option Byte) := match q.kind with
      | .atom | .stred => after.map some
      | .dset => []
      | _ => q.storeMask ok
    let full := match q.kind with
      | .atom | .stred => true
      | _ => false
    let desc : Option (BitVec 16) := match q.kind with
      | .dset => ((ok.filter Prod.snd).getLast?).map (fun (x : Acc × Bool) => BitVec.ofNat 16 (q.data.getD x.1.lane 0).toNat)
      | _ => none
    let s0 := if ok.any Prod.snd then s.specWrite v p.blk full block ⟨new, desc, tag⟩ else s
    let s1 := s0.modPart r b (fun p => { p with st := .accepted, data := olds, gwct := s.clk.now })
    if q.returns then s1.sched (s.clk.now + back) .loadComplete r b else s1.sched s.clk.now .storeAck r b
  else
    (s.modPart r b (fun p => { p with
      st := .accepted, lat := 2 * back
      data := (ok.zip (p.slice (s.reqView r q p.blk (seen, 0)).1)).map (fun x => if x.1.2 then x.2 else []) })).sched (s.clk.now + back) .loadComplete r b

/-- A part performs at its home: the home accepts it now (R233). -/
def State.perform (s : State) (r b : Nat) (q : Req) (p : Part) (g : Gang) (h : Home) : State :=
  let loc := p.loc
  let way := h.oneWay g.die g.l1Of
  let tagck := leafTagck p.leaf
  let tag := if tagck then (p.accs.head?).map (fun a => ptrTag a.addr) else none
  let rd := s.readLatency h g.die g.l1Of loc q.ctx
  let ackAt := match h with
    | .sorter _ => p.since + rd
    | _ => s.clk.now + way
  let whole := (q.kind == .st || q.kind == .ust || q.kind == .stmc) && (q.storeMask (p.accs.map (fun a => (a, true)))).all Option.isSome
  let blkTag := match p.spec, s.rivalOf g with
    | true, some v => s.specTag v p.blk (s.tagOf loc)
    | _, _ => s.tagOf loc
  let bad := fun (a : Acc) => tagck && !whole && ptrTag a.addr != blkTag
  let badLanes := (p.accs.filter bad).foldl (fun m a => m ||| Mask.one a.lane) 0
  let s1 := if badLanes = 0 || q.kind.silent then s
    else match q.kind with
      | .stmc | .stred => s.deny r q p 0x0106 bad
      | _ => s.reqRecord q p 0x0106 badLanes
  let s1 := match s.rivalOf g with
    | some v => if badLanes = 0 then s1 else s1.faultRival v.1 v.2
    | none => s1
  let ok : List (Acc × Bool) := p.accs.map (fun a => (a, !bad a))
  if q.kind.acc == .write && p.spec then
    match s.rivalOf g with
    | some v => s1.performSpec r b q p v ok [] false
        (if whole && tagck then ((p.accs.getLast?).map (fun (a : Acc) => ptrTag a.addr)) else none) way
    | none => s1
  else if q.kind.acc == .write then
    -- stores, multicasts and descriptor writes
    let s2 : State := match q.kind with
      | .dset =>
        let s2 := if ok.any Prod.snd then s1.ownWrite g.l1Of loc else s1
        let s3 := ok.foldl (fun (s : State) (x : Acc × Bool) => if x.2 then (s.setDesc loc (BitVec.ofNat 16 (q.data.getD x.1.lane 0).toNat)).newVersion loc else s) s2
        if tagck || !(ok.any Prod.snd) then s3 else s3.setTag loc 0
      | _ =>
        let m := q.storeMask ok
        if m.all Option.isNone then s1
        else
          let t : Nat := if whole then (if tagck then ((p.accs.getLast?).map (fun (a : Acc) => ptrTag a.addr)).getD 0 else 0)
            else if tagck then s1.tagOf loc else 0
          ((s1.ownWrite g.l1Of loc).writeAt (loc * 64) m).setTag loc t
    let s2 := s2.sliceTouch loc q.ctx
    let s3 := s2.modPart r b (fun p => { p with
      st := .accepted, data := ok.map (fun (x : Acc × Bool) => if x.2 then [0] else []), lat := 2 * way
      gwct := match h with
        | .peer _ true => ackAt
        | .peer _ false => if s.adm.locked then s2.gwctOf loc g.l1Of else ackAt
        | _ => s2.gwctOf loc g.l1Of })
    s3.sched ackAt .storeAck r b
  else
    let (block, poison, found, s2) := s1.readHome loc q.ctx tag
    let s3 := match found with
      | none => s2
      | some c => if q.kind.silent then s2 else (s2.reqRecord q p c p.lanes).consume g q.kind.code
    let eats := match q.kind with
      | .pref => false
      | .dget => false
      | _ => true
    let s3 := if poison && found.isNone && eats then s3.poisonRec r q (p.lanes &&& ~~~badLanes) else s3
    let s3 := match g.l1Of with
      | some c => s3.cancelFills c loc (mgetD 0 loc s3.mem.vers)
      | none => s3
    if (s3.req? r).isNone then s3
    else if p.spec && q.kind != .dget then
      match s.rivalOf g with
      | some v => s3.performSpec r b q p v ok block poison none way
      | none => s3
    else
      match q.kind with
      | .atom | .stred =>
        let (after, olds, wrote) := q.atomics (ok.map (fun x => (x.1, x.2 && !poison))) block
        let s4 := if wrote then
            (((s3.ownWrite g.l1Of loc).writeAt (loc * 64) ((after.zip block).map (fun x => if x.1 = x.2 then none else some x.1))).setTag loc
              (if tagck then s3.tagOf loc else 0)).sliceTouch loc q.ctx
          else s3.ownWrite g.l1Of loc
        let gw := if wrote then (match h with
          | .peer _ _ => if s.adm.locked then s4.gwctOf loc g.l1Of else s.clk.now + way
          | _ => s4.gwctOf loc g.l1Of) else s.clk.now
        let s5 := s4.modPart r b (fun p => { p with st := .accepted, data := olds, gwct := gw, lat := rd })
        if q.returns && q.kind == .atom then s5.sched (max (p.since + rd) (s.clk.now + way)) .loadComplete r b else s5.sched ackAt .storeAck r b
      | .dget =>
        let d := match p.spec, s3.rivalOf g with
          | true, some v => s3.specDesc v p.blk (s3.descOf loc)
          | _, _ => (s3.reqView r q p.blk (block, s3.descOf loc)).2
        let s4 := (s3.sliceTouch loc q.ctx).modPart r b (fun p => { p with st := .accepted, lat := rd, data := ok.map (fun x => if x.2 then toBytes 4 d.toNat else []) })
        s4.sched (max (p.since + rd) (s.clk.now + way)) .loadComplete r b
      | _ =>
        let seen := (s3.reqView r q p.blk (block, s3.descOf loc)).1
        let cached := p.gwct == 1
        let slice := match h with
          | .slice _ => cached
          | _ => false
        let s4 := if slice then s3.sliceFill loc q.ctx (leafHome p.leaf = 1) (max s.clk.now (p.since + rd - way)) else s3
        let exp := s.clk.now + leafLease p.leaf
        let noHost := match h with
          | .peer _ host => !host && s.adm.locked
          | _ => true
        let line : Option L1Line := match g.l1Of with
          | some c => if cached && noHost && q.fill then
              some ⟨c, loc, q.ctx, block, s3.descOf loc, BitVec.ofNat 4 (s3.tagOf loc), exp, mgetD 0 loc s3.mem.vers, s.clk.now⟩ else none
          | none => none
        let s5 := match line, h with
          | some l, .peer _ _ => s4.grantLease ⟨loc, true, l.cluster, q.ctx, exp⟩
          | some l, _ => s4.grantLease ⟨loc, false, l.cluster, q.ctx, exp⟩
          | none, _ => s4
        let s6 := s5.modPart r b (fun p => { p with
          st := .accepted, lat := rd, line := line
          data := (ok.zip (p.slice seen)).map (fun x => if x.1.2 && !poison then x.2 else []) })
        s6.sched (max (p.since + rd) (s.clk.now + way)) .loadComplete r b

/-- The port of a home's connection is down: what goes through it waits until the port returns (R42). -/
def State.portDown (s : State) (h : Home) : Bool :=
  match h with
  | .peer c _ => ((mget c s.adm.conns).map (fun x => !(s.adm.ports.getD x.port false))).getD false
  | _ => false

/-- A part of a request waits in a shared queue of a class: till `free`, where that is known and comes before its wait reaches the interval
that the queue had when it entered (R202, R204); else it bounces then. -/
def State.queueWait (s : State) (r b cls ctx : Nat) (free : Option Nat) : State :=
  let held := (((s.req? r).bind (fun q => q.parts[b]?)).bind Part.till).bind (fun t => if t.1 = cls then some t.2 else none)
  let till := held.getD (s.clk.now + s.sluiceOf ctx cls)
  let s1 := if held.isSome then s else (s.modPart r b (fun p => { p with till := some (cls, till) })).sched till .sluiceBounce r b
  match free with
  | some f => if f < till then s1.sched f .requestAccept r b else s1
  | none => s1

/-- The class of the queue of a home: PORTOUT towards peers and hosts, else HOMEIN (R203). -/
def Home.cls : Home → Nat
  | .peer _ _ => 6
  | _ => 0

/-- A request reaches its home's queue (REQUEST_ACCEPT), by the link between the dies where the home stands on another: the home accepts it,
or it waits while other traffic holds the queue, and bounces when its interval ends first (R35, R202, R205). The ingress of the link stands
where the home does (log 15). -/
def State.accept (s : State) (r b : Nat) : State :=
  match s.req? r with
  | none => s
  | some q =>
    match q.parts[b]?, s.gang? q.gang with
    | some p, some g =>
      match p.st, p.home with
      | .flying, some h =>
        let far := s.homeDie h
        let link := mgetD 0 (meshQueue g.die far) s.mem.busy
        let onMesh := far != g.die && (match p.till with
          | some (c, _) => c == 1
          | none => true)
        if onMesh && decide (s.clk.now < link) then s.queueWait r b 1 q.ctx (some link)
        else
        let arr := match h with
          | .slice d => s.arrUse (bankArr d p.loc)
          | .window c => s.arrUse (spArr c)
          | _ => (s.clk.now, s)
        let s := arr.2
        let busy := max arr.1 (mgetD 0 h.queue s.mem.busy)
        if s.portDown h then s.queueWait r b 6 q.ctx none
        else if s.clk.now < busy then s.queueWait r b h.cls q.ctx (some busy)
        else
          let local_ := match h with
            | .peer _ _ => false
            | .out _ => false
            | _ => true
          let gate := if q.kind == .atom && local_ && !p.spec then s.gate q.gang g h.die q.pc q.runpc else (true, s)
          if !gate.1 then
            let s2 := gate.2.park r b 0x0305 h.die 0
            if s2.clk.agenda.any (fun i => i.ev == .replayStall && i.subj.a == q.ctx && i.subj.b == h.die) then s2
            else s2.sched (s.clk.now + 1200000) .replayStall q.ctx h.die
          else
            match s.earlier r q p (leafTso p.leaf) with
            | some c => if leafTso p.leaf ∧ !(((s.req? c).map (fun x => x.parts.any (fun y => y.blk == p.blk))).getD false) then
                  s.queueWait r b h.cls q.ctx (some (s.clk.now + 1))
                else s.park r b 0x0302 c p.qc
            | none =>
              match h with
              | .out _ => (s.modPart r b (fun p => { p with st := .accepted, data := p.accs.map (fun _ => []) })).sched
                  (s.clk.now + h.oneWay g.die g.l1Of) .loadComplete r b
              | _ => (gate.2.modPart r b (fun p => { p with till := none })).perform r b q p g h
      | _, _ => s
    | _, _ => s

def execRequestAccept (s : State) : Host.Outcome State Fault Refusal := .next (s.accept s.clk.subj.a s.clk.subj.b)

/-- LOAD_COMPLETE: an answer reaches the issuer. A physical address that does not exist fails here (R32). While the timebase is not locked no
line homed on a peer enters an L1 (R45). -/
def State.answer (s : State) (r b : Nat) : State :=
  match s.req? r with
  | none => s
  | some q =>
    match q.parts[b]? with
    | none => s
    | some p =>
      match p.st with
      | .accepted =>
        match p.home with
        | some (.out _) => s.failPart r b 0x010A
        | _ =>
          let s1 := match p.line with
            | some l => if locFar l.loc && !s.adm.locked then s else s.fillL1 l
            | none => s
          s1.partDone r b
      | _ => s

def execLoadComplete (s : State) : Host.Outcome State Fault Refusal := .next (s.answer s.clk.subj.a s.clk.subj.b)

/-- A request whose wait in a shared queue has reached the interval leaves it (R202, R206, R220). -/
def State.sluiced (s : State) (r b : Nat) : State :=
  match s.req? r with
  | none => s
  | some q =>
    match q.parts[b]? with
    | none => s
    | some p =>
      match p.st, p.till with
      | .walking, some (_, t) =>
        if t ≤ s.clk.now then (if q.kind.silent then s.failPart r b 0 else s.park r b 0x0301 0 2) else s
      | .flying, some (c, t) =>
        if t ≤ s.clk.now then (if q.kind.silent then s.failPart r b 0 else s.bounceSluice r b q.ctx c) else s
      | _, _ => s

/-- SLUICE_BOUNCE: a part of a request, a copy or tile operation (`c` 1), or a request to a unit (`c` 2), has waited in a shared queue for its
interval. -/
def execSluiceBounce (s : State) : Host.Outcome State Fault Refusal :=
  .next (if s.clk.subj.c = 2 then s.uncSluiced s.clk.subj.a else if s.clk.subj.c = 1 then s.opSluiced s.clk.subj.a
    else s.sluiced s.clk.subj.a s.clk.subj.b)

/-! ## Walks end (R87, R96, R206, R222) -/

/-- A waiting part takes what its walk found. -/
def State.walkPart (s : State) (r b : Nat) (f : Found) : State :=
  match s.req? r with
  | none => s
  | some q =>
    match q.parts[b]?, s.gang? q.gang with
    | some p, some g =>
      let fill := fun (s : State) => match f with
        | .leaf e size => s.tlbFill (q.place g) q.ctx (pageOf (ptrVa p.blk)) size (s.gen g.die q.ctx) e
        | _ => s
      let s0 := s.modPart r b (fun p => p.hop 2 (s.clk.now - p.since))
      match p.st with
      | .walking =>
        match f with
        | .leaf e size => (fill s0).sendLeaf r b e size
        | _ => s0.causePart r b ((f.cause q.kind.acc).getD 0x0102)
      | .cistern 0x0301 0 2 =>
        match f.cause q.kind.acc with
        | none => ((fill s).modPart r b (fun p => { p with st := .woken s.clk.now })).kickReissue g.port
        | some c => (fill s).causePart r b c
      | _ => s
    | _, _ => s

/-- A fetch takes what its walk found: its paths try again, or wait for the wake of a cause that bounces. -/
def State.walkFetch (s : State) (who ctx page : Nat) (f : Found) : State :=
  let place := if 1000 ≤ who then Place.die ((who - 1000) / 8) else .cluster who
  let s1 := match f with
    | .leaf e size => s.tlbFill place ctx page size (s.gen (if 1000 ≤ who then (who - 1000) / 8 else dieOf who) ctx) e
    | _ => s
  let mine := fun (x : FetchWait) => x.ctx == ctx && x.page == page && x.cluster == who
  match f.cause .exec with
  | none => { s1 with mem := { s1.mem with fetches := s1.mem.fetches.filter (fun x => !mine x) } }
  | some c =>
    let s2 := { s1 with mem := { s1.mem with fetches := s1.mem.fetches.map (fun x => if mine x then { x with cause := c } else x) } }
    if bounces c then
      let s3 := match c == 0x0102, s2.mem.fetches.find? mine with
        | true, some x => match s2.gang? x.gang with
          | some g => s2.logGang g c 3 x.addr x.lanes x.runpc
          | none => s2
        | _, _ => s2
      s3.serveCause ctx (page * 65536) c false
    else s2

/-- WALK_COMPLETE: a walk under an old generation is discarded and walks again (R96); else it fills the buffers and its waiters go
on; the next miss takes its place (R87). -/
def execWalkComplete (s : State) : Host.Outcome State Fault Refusal :=
  let n := s.clk.subj.a
  match mget n s.mem.walks with
  | none => .next s
  | some k =>
    if k.gen ≠ s.gen k.die k.ctx then
      let s1 := { s with mem := { s.mem with wcache := s.mem.wcache.filter (fun w => !(w.die == k.die && w.ctx == k.ctx)) } }
      .next (s1.walkBegin n)
    else
      let va := k.page * 65536
      let w := s.walkNow k.die k.ctx va
      let s3 := s.walkFill k.die k.ctx k.page k.gen w
      let s4 := { s3 with mem := { s3.mem with walks := mdel n s3.mem.walks } }
      let s5 := k.waiters.foldl (fun s x => match x with
        | .part r b => s.walkPart r b w.1
        | .fetch who => s.walkFetch who k.ctx k.page w.1
        | .op id => s.walkOp id k.page (match w.1 with
          | .leaf _ _ => true
          | _ => false)) s4
      match s5.mem.walks.find? (fun x => x.2.die == k.die && !x.2.started) with
      | none => .next s5
      | some x => .next (s5.walkBegin x.1)

/-! ## Wakes (R89, R90, R211) -/

/-- Wakes the parts and the fetches that wait with a cause for pages of a range. -/
def State.wakePages (s : State) (ctx page n cause : Nat) : State :=
  let inside := fun (p : Nat) => decide (page ≤ p ∧ p < page + n)
  let s1 := s.wakeWhere (fun _ q p => q.ctx == ctx && (match p.st with
    | .cistern c _ _ => c == cause && inside (pageOf (ptrVa p.blk))
    | _ => false))
  let s1 := s1.wakeOps (fun _ c _ b => c == ctx && b.1 == cause && inside b.2.1)
  (s1.mem.fetches.filter (fun x => x.ctx == ctx && x.cause == cause && inside x.page)).foldl
    (fun s x => s.sched s.clk.now .fetchWake ctx x.page) s1

/-- LIGHT_FAULT: the memory processor has served a light fault (R89). -/
def execLightFault (ctx : Nat) (va : DWord) (write : Bool) (s : State) : Host.Outcome State Fault Refusal :=
  let s1 := s.lightServe ctx (ptrVa va) write
  match s1.leafOf ctx (ptrVa va) with
  | .leaf _ size =>
    let n := pageBytes size / 65536
    .next (s1.wakePages ctx (pageOf (ptrVa va) / n * n) n 0x0101)
  | _ => .next (s1.wakePages ctx (pageOf (ptrVa va)) 1 0x0101)

/-- FETCH_WAKE: fetches of a page that waited for a wake translate again (R88). -/
def execFetchWake (s : State) : Host.Outcome State Fault Refusal :=
  .next { s with mem := { s.mem with fetches := s.mem.fetches.filter (fun x => !(x.ctx == s.clk.subj.a && x.page == s.clk.subj.b && bounces x.cause)) } }

/-! ## Acknowledgements of engine writes (R103, R245 to R248) -/

/-- A write of an operation has a GWCT; `far`: it is homed on another 9400 (R235, R240). -/
def State.raiseGwct (s : State) (k id gwct : Nat) (far : Bool) : State :=
  s.modGang k (fun g => { g with writes := g.writes.map (fun w => if w.req = id then { w with gwct := max w.gwct gwct, far := w.far || far } else w) })

/-- Writes of an operation that its team still holds (R253). -/
def State.heldOp (s : State) (k id : Nat) : Bool :=
  match ((s.gang? k).bind (fun g => s.prot? g.team)) with
  | none => false
  | some p => p.held.any (fun h => h.id == id && h.gang == k)

/-- An operation that has ended settles: its counter falls when every write that has gone to a home has been acknowledged (R246), and
fences look at it no more when none is held either (R235, R253). -/
def State.opSettle (s : State) (id : Nat) : State :=
  match mget id s.work.eended with
  | none => s
  | some (k, cls) =>
    if s.work.eacks.any (fun x => x.id == id) then s
    else
      let s1 := if cls < 4 then s.opComplete k id cls else s
      if s1.heldOp k id then { s1 with work := { s1.work with eended := mput id (k, 4) s1.work.eended } }
      else ({ s1 with work := { s1.work with eended := mdel id s1.work.eended } }).ackWrite k id 0 false

/-- A copy (counter 2) or tile operation (3) of a gang ends. -/
def State.opEnds (s : State) (k id cls : Nat) : State :=
  { s with work := { s.work with eended := mput id (k, cls) s.work.eended, owalk := mdel id s.work.owalk } }.opSettle id

/-- A failed access of a rival's engine faults the rival (R150). -/
def State.engFault (s : State) (g : Gang) : State :=
  match s.rivalOf g with
  | none => s
  | some v => s.faultRival v.1 v.2

/-- Bytes of a copy have performed or failed: COUNT of the barrier object that the copy names falls (R248, R469, R484). -/
def State.boCount (s : State) (g : Gang) (bo : Option DWord) (n : Nat) : State :=
  match bo with
  | some a => s.modTeam g.team (fun t => t.boLower a n)
  | none => s

/-- An acknowledgement is on its way to an operation. -/
def State.eackAdd (s : State) (x : EAck) : State :=
  let s1 := { s with work := { s.work with eacks := s.work.eacks ++ [x] } }
  if s.work.eacks.any (fun y => y.id == x.id && y.due == x.due) then s1
  else if x.acc = 1 then s1.sched x.due .storeAck x.id 0 1
  else if x.acc = 4 then s1.sched x.due .copyComplete x.gang 1 x.id else s1.sched x.due .matrixOpComplete 0 x.id 4 x.gang

/-- Acknowledgements that a predicate names have arrived: COUNT of their barrier objects falls by their bytes (R248). -/
def State.eackTake (s : State) (f : EAck → Bool) : State :=
  let s1 := (s.work.eacks.filter f).foldl (fun (s : State) x => match s.gang? x.gang with
    | some g => s.boCount g x.bo x.n
    | none => s) s
  let s2 := { s1 with work := { s1.work with eacks := s1.work.eacks.filter (fun x => !f x) } }
  ((s.work.eacks.filter f).map EAck.id).foldl State.opSettle s2

/-- The acknowledgements of an operation that are due arrive. -/
def State.eackDue (s : State) (id : Nat) : State := s.eackTake (fun x => x.id == id && decide (x.due ≤ s.clk.now))

/-- A block that an engine of a cluster writes is accepted at its home now (R226, R233, R245): bytes, tag and descriptor, the GWCT, the
acknowledgement on its way. `n` bytes count in the barrier object. -/
def State.engAccept (s : State) (g : Gang) (k id acc : Nat) (ptr leaf : DWord) (h : Home) (loc : Nat) (data : List (Option Byte))
    (desc : Option (BitVec 16)) (bo : Option DWord) : State :=
  let way := h.oneWay g.die g.l1Of
  let back := s.clk.now + (match h with
    | .peer _ _ => 2 * way
    | _ => way)
  let s1 := ((s.ownWrite g.l1Of loc).writeAt (loc * 64) data).setTag loc (if leafTagck leaf then ptrTag ptr else 0)
  let s2 := (match desc with
    | some d => s1.setDesc loc d
    | none => s1).sliceTouch loc (s.ctxOf g)
  let far := match h with
    | .peer _ false => s.adm.locked
    | _ => false
  let gw := match h with
    | .peer _ true => back
    | .peer _ false => if s.adm.locked then s2.gwctOf loc g.l1Of else back
    | _ => s2.gwctOf loc g.l1Of
  (s2.raiseGwct k id gw far).eackAdd ⟨id, k, back, (data.filter Option.isSome).length, bo, (match h with
    | .peer c _ => some c
    | _ => none), ptr, acc⟩

/-- Where an engine's request is served: a speculative one of a rival at the opener's die slice (R147). -/
def State.engHome (s : State) (g : Gang) (leaf : DWord) (size : Nat) (ptr : DWord) : Option Home :=
  match s.rivalOf g, s.speculative g ptr with
  | some v, true => some (s.specHome v)
  | _, _ => s.homeOf (s.ctxOf g) g.die leaf size (ptrVa ptr)

/-- A block's tag as an access of a gang finds it. -/
def State.tagFor (s : State) (g : Gang) (ptr : DWord) (loc : Nat) : Nat :=
  match s.rivalOf g, s.speculative g ptr with
  | some v, true => s.specTag v (blkOf ptr) (s.tagOf loc)
  | _, _ => s.tagOf loc

/-- A block that an engine of a gang writes is accepted: a speculative one of a rival enters the write set (R147), another performs at its
home. -/
def State.engStore (s : State) (g : Gang) (k id acc : Nat) (ptr leaf : DWord) (h : Home) (loc : Nat) (data : List (Option Byte))
    (desc : Option (BitVec 16)) (bo : Option DWord) : State :=
  match s.rivalOf g, s.speculative g ptr with
  | some v, true =>
    ((s.specWrite v (blkOf ptr) false (s.stored (loc * 64) 64)
      ⟨data, desc, if data.all Option.isSome && leafTagck leaf then some (ptrTag ptr) else none⟩).raiseGwct k id s.clk.now false).eackAdd
      ⟨id, k, s.clk.now + h.oneWay g.die g.l1Of, (data.filter Option.isSome).length, bo, none, ptr, acc⟩
  | _, _ => s.engAccept g k id acc ptr leaf h loc data desc bo

/-- STORE_ACK: the home's acknowledgement with the GWCT reaches the issuer of a store, or of blocks of a commit (`c` 1) (R160, R233, R235). -/
def execStoreAck (s : State) : Host.Outcome State Fault Refusal :=
  .next (if s.clk.subj.c = 1 then s.eackDue s.clk.subj.a else s.answer s.clk.subj.a s.clk.subj.b)

/-! ## Release of held groups (R253, R263) -/

/-- The held parts of a group of a team: request, part, part of the group. -/
def State.heldOf (s : State) (t group : Nat) : List (Nat × Nat × Nat) :=
  s.mem.reqs.flatMap (fun r =>
    if ((s.gang? r.2.gang).map Gang.team) = some t then
      (List.range r.2.parts.length).filterMap (fun b => match (r.2.parts[b]?).map Part.st with
        | some (.held g sub) => if g = group then some (r.1, b, sub) else none
        | _ => none)
    else [])

/-- A held record of a reservoir table goes into it (R253, R345). -/
def State.releaseRec (s : State) (x : Nat × Nat × List Byte) : State :=
  { s with work := { s.work with res := mput x.2.1 x.2.2 s.work.res } }

/-- The held engine writes of a group of a team, by number. -/
def State.heldEng (s : State) (t group : Nat) : List HeldWrite :=
  match s.prot? t with
  | none => []
  | some p => p.held.filter (fun h => h.group == group && !h.sent)

/-- An engine write that was held leaves for its home, and is accepted there one way later (R253). -/
def State.sendHeld (s : State) (t : Nat) (h : HeldWrite) : State :=
  match s.gang? h.gang with
  | none => s
  | some g =>
    let ctx := s.ctxOf g
    let way := match s.access ctx .write h.ptr with
      | .ok p => ((s.engHome g p.1 p.2.1 h.ptr).map (fun x => x.oneWay g.die g.l1Of)).getD 0
      | .error _ => 0
    (s.modTeam t (fun tm => { tm with prot := tm.prot.map (fun p => { p with held := p.held.map (fun y =>
      if y.num = h.num then { y with sent := true } else y) }) })).sched (s.clk.now + way) .groupRelease t h.num 2

/-- A held engine write arrives at its home. A cause that bounces is served, and the write tried again in the next clk; another is
recorded, and the write does not perform (R88, log 48). -/
def State.arriveHeld (s : State) (t num : Nat) : State :=
  match (s.prot? t).bind (fun p => p.held.find? (fun h => h.num == num)) with
  | none => s
  | some h =>
    match s.gang? h.gang with
    | none => s
    | some g =>
      let ctx := s.ctxOf g
      let gone := fun (s : State) => s.modTeam t (fun tm => { tm with prot := tm.prot.map (fun p => { p with held := p.held.filter (fun y => y.num ≠ num) }) })
      let fails := fun (c : Nat) =>
        ((((gone s).logGang g c h.acc h.ptr 0 0).engFault g).boCount g h.bo (h.data.filter Option.isSome).length).opSettle h.id
      match s.access ctx .write h.ptr with
      | .error c =>
        if bounces c then
          let s1 := if c = 0x0102 ∧ s.clk.subj.d = 0 then s.logGang g c h.acc h.ptr 0 0 else s
          let s2 := if s.clk.subj.d = 0 then s1.serveCause ctx (ptrVa h.ptr) c true else s1
          s2.sched (s.clk.now + 1) .groupRelease t num 2 1
        else fails c
      | .ok p =>
        match s.engHome g p.1 p.2.1 h.ptr with
        | none => fails 0x0109
        | some home =>
          let loc := p.2.2 / 64
          if leafTagck p.1 && !(h.data.all Option.isSome) && ptrTag h.ptr != s.tagFor g h.ptr loc then fails 0x0106
          else (gone s).engStore g h.gang h.id h.acc h.ptr p.1 home loc h.data h.desc h.bo

/-- Sends the first part of a group that is left, its parts of requests and its engine writes in the order of their numbers; more parts
wait until it is complete. -/
def State.sendGroup (s : State) (t group : Nat) : State :=
  let eng := s.heldEng t group
  match s.heldOf t group with
  | [] => eng.foldl (fun s h => s.sendHeld t h) s
  | x :: l =>
    let first := l.foldl (fun m y => min m y.2.2) x.2.2
    let now_ := (x :: l).filter (fun y => y.2.2 = first)
    let all := eng.foldl (fun a h => heldInsert h.id (.eng h) a) (now_.filterMap (fun y => (s.req? y.1).bind (fun q =>
      (q.parts[y.2.1]?).map (fun p => (y.1, HeldAt.part q p)))))
    let s1 := all.foldl (fun (s : State) y => match y.2 with
      | .eng h => s.sendHeld t h
      | .part _ p => match (s.req? y.1).bind (fun q => (List.range q.parts.length).find? (fun b => q.parts[b]? == some p)) with
        | some b => s.sendPart y.1 b
        | none => s) s
    if (s1.heldOf t group) = [] then s1 else s1.sched (s.clk.now + 1) .groupRelease t group 1

/-- GROUP_RELEASE: the group of a team whose 256 clk have passed is released (`c` 0), the next part of one when the operation between
them has been waited for at its scope (1), or one of its engine writes arrives at its home (2) (R253, R263). -/
def execGroupRelease (s : State) : Host.Outcome State Fault Refusal :=
  let t := s.clk.subj.a
  match s.team? t with
  | none => .next s
  | some tm =>
    match tm.prot with
    | none => .next s
    | some p =>
      if s.clk.subj.c = 2 then .next (s.arriveHeld t s.clk.subj.b)
      else if s.clk.subj.c = 1 then
        let group := s.clk.subj.b
        let left := (s.heldOf t group).map Prod.fst
        let before := left.foldl min s.clk.fresh
        let sc := scopeOfSub (((s.heldOf t group).map (fun x => x.2.2)).foldl min 65536)
        let ready := tm.gangs.all (fun k => ((s.gang? k).map (fun g => g.relDone s.clk.now before sc)).getD true)
        if ready then .next (s.sendGroup t group) else .next (s.sched (s.clk.now + 1) .groupRelease t group 1)
      else
        match p.closed with
        | [] => .next s
        | c :: rest =>
          if s.clk.now < c.2 then .next s
          else
            let keep := p.snaps.filter (fun x => c.1 < x.group)
            let snaps := if keep = [] then p.snaps.drop (p.snaps.length - 1) else keep
            let p1 : Prot := { p with closed := rest, snaps := snaps.map (fun x => { x with rolls := 0 }), recs := p.recs.filter (fun h => h.1 ≠ c.1) }
            let s1 := s.setTeam t { tm with prot := some p1 }
            let s2 := (p.recs.filter (fun h => h.1 = c.1)).foldl State.releaseRec s1
            .next (s2.sendGroup t c.1)

/-! ## Peers (R103) -/

/-- The first block of a request that waits for a reply of a peer, by its place in the request. -/
def Req.waitsPeer (q : Req) (conn : Nat) : List Nat :=
  (List.range q.parts.length).filter (fun b => match q.parts[b]? with
    | some p => (p.st == .flying || p.st == .accepted) && (match p.home with
      | some (.peer c _) => c == conn
      | _ => false)
    | none => false)

/-- Requests that wait for a reply of a peer complete with PEERDOWN, one record for each; a store counts as complete now. Copies and tile
operations that wait for its acknowledgements go on with a record (R103). -/
def State.failPeer (s : State) (ctx conn : Nat) : State :=
  let s1 := s.mem.reqs.foldl (fun (s : State) r =>
    if r.2.ctx ≠ ctx then s
    else
      let bs := r.2.waitsPeer conn
      match bs with
      | [] => s
      | b :: _ =>
        let lanes := bs.foldl (fun m b => m ||| ((r.2.parts[b]?).map Part.lanes).getD 0) 0
        let s1 := match r.2.kind, r.2.parts[b]? with
          | .pref, _ | .stmc, _ | .stred, _ => s
          | _, some p => s.reqRecord r.2 p 0x0109 lanes
          | _, none => s
        bs.foldl (fun (s : State) b => s.failOne r.1 b 0x0109 false) s1) s
  let mine := fun (x : EAck) => x.conn == some conn && decide (s.clk.now < x.due) && ((s1.gang? x.gang).map s1.ctxOf) == some ctx
  let gone := s1.work.eacks.filter mine
  let firsts := gone.foldl (fun (l : List EAck) x => if l.any (fun y => y.id == x.id) then l else l ++ [x]) []
  let s2 := firsts.foldl (fun (s : State) x => match s.gang? x.gang with
    | some g => s.logGang g 0x0109 x.acc x.ptr 0 0
    | none => s) s1
  let s3 := gone.foldl (fun (s : State) x => s.modGang x.gang (fun g => { g with writes := g.writes.map (fun w =>
    if w.req = x.id then { w with gwct := min w.gwct s.clk.now } else w) })) s2
  s3.eackTake mine

/-- PEER_DOWN: a peer entry goes DOWN (R103): lines homed through it go, requests that wait for it complete. -/
def State.peerGone (s : State) (ctx peer : Nat) : State :=
  match mget (ctx * 4096 + peer) s.adm.peers with
  | none => s
  | some p =>
    let far := fun (loc : Nat) => loc * 64 / 2 ^ 64 == p.conn + 1
    let s1 := { s with
      adm := { s.adm with peers := mput (ctx * 4096 + peer) { p with up := false } s.adm.peers }
      mem := { s.mem with
        l1 := s.mem.l1.filter (fun l => !(far l.loc && l.tenant == ctx))
        slices := s.mem.slices.filter (fun l => !(far l.loc && l.tenant == ctx)) } }
    s1.failPeer ctx p.conn

def execPeerDown (ctx peer : Nat) (s : State) : Host.Outcome State Fault Refusal := .next (s.peerGone ctx peer)

end Sys2Proof.Machine
end

