-- ==== Sys2Proof/Machine/MemInstr.lean ====
section
/-! DEFINITION. Lane and uniform memory instructions: addresses, loads, stores, atomics, multicasts, prefetches and
descriptors, scratchpad accesses (R197, R228, R280, R390, R446 to R465). -/

namespace Sys2Proof

/-- Bytes of an access size, and whether a load extends its sign (R363, R447). -/
def SZ.bytes : SZ → Nat
  | .n8 | .i8 => 1
  | .n16 | .i16 => 2
  | .n32 => 4
  | .n64 => 8

def SZ.sgn : SZ → Bool
  | .i8 | .i16 => true
  | _ => false

def USZ.bytes : USZ → Nat
  | .n8 => 1
  | .n16 => 2
  | .n32 => 4
  | .n64 => 8

/-- min and max compare as signed (R454). -/
def SZ.cmpSigned : SZ → Bool
  | .i8 | .i16 | .n64 => true
  | _ => false

/-- The operation of a short atomic. -/
def SAOp.op : SAOp → AOp
  | .add => .add
  | .xchg => .xchg
  | .and => .and
  | .or => .or
  | .xor => .xor
  | .minI => .min
  | .maxI => .max

/-- The operation of STRED. -/
def StredOp.op : StredOp → AOp
  | .add => .add
  | .and => .and
  | .or => .or
  | .xor => .xor
  | .min => .min
  | .max => .max

end Sys2Proof

namespace Sys2Proof.Machine

/-! ## Addresses (R446) -/

/-- The index of a lane, read as signed, times 2^SC. -/
def Iss.index (x : Iss) (ws sc l : Nat) : DWord :=
  ((x.g.vlane ((x.path.run.map Run.va).getD 0 + ws) l).signExtend 64) <<< sc

end Sys2Proof.Machine

namespace Sys2Proof

/-- The base of a short operand; of a long one. -/
def LMem.baseOf (m : LMem) (x : Machine.Iss) : DWord :=
  match m.base with
  | none => 0
  | some n => x.g.g.getD n.val 0

def LXMem.baseOf (m : LXMem) (x : Machine.Iss) : DWord :=
  match m.base with
  | none => 0
  | some n => x.g.g.getD n.val 0

/-- What a short operand adds to its base in a lane. -/
def LMem.add (m : LMem) (x : Machine.Iss) (l : Nat) : DWord :=
  match m.addr with
  | .indexed ws sc oc => x.index ws.val sc.val l + BitVec.ofNat 64 (oc.val % 4 * 4 ^ (oc.val / 4 + 1))
  | .direct ofs => ofs.signExtend 64 * 4

/-- What a long operand adds to its base in a lane. -/
def LXMem.add (m : LXMem) (x : Machine.Iss) (l : Nat) : DWord :=
  (match m.idx with
    | none => 0
    | some i => x.index i.1.val i.2.val l) +
  (match m.off with
    | none => 0
    | some w => w.signExtend 64)

def LMem.at_ (m : LMem) (x : Machine.Iss) (l : Nat) : DWord := m.baseOf x + m.add x l
def LXMem.at_ (m : LXMem) (x : Machine.Iss) (l : Nat) : DWord := m.baseOf x + m.add x l

end Sys2Proof

namespace Sys2Proof.Machine

/-! ## Requests from instructions -/

/-- The index V register's values, for a cistern entry (R208). -/
def Iss.indexRow (x : Iss) (ws : Option Nat) : List Word :=
  match ws with
  | none => []
  | some w => (List.range 32).map (fun l => x.g.vlane ((x.path.run.map Run.va).getD 0 + w) l)

/-- A request of the instruction that issues, with nothing asked yet. -/
def Iss.req (x : Iss) (kind : RKind) (base : DWord) (idx : List Word) (lanes : Mask) (sz cls : Nat) : Req where
  gang := x.k
  ctx := x.ctx
  kind := kind
  pc := x.pc
  runpc := x.hdr
  run := x.run
  base := base
  word := x.word
  lanes := lanes
  bad := 0
  dest := .none
  sz := sz
  signed := false
  op := .add
  idx := idx
  data := []
  cmp := []
  fill := true
  home := false
  acq := false
  cls := cls
  btime := 0
  seq := x.g.reqs
  issued := x.now
  plan := x.path.lanes
  cancel := (0, 0)
  sel := 0
  denied := 0
  sample := none
  grp := none
  parts := []

/-- The destination of a load or atomic. -/
def destOf (d : LDst) (pair : Bool) : Dest :=
  match d with
  | .v n => .v n.val pair
  | .t n => .t n.val pair

/-- A lane operand as 64 bits, by its width. -/
def Iss.dataOf (x : Iss) (wide : Bool) (a : LSrc) : List DWord :=
  (List.range 32).map (fun l => if wide then x.w64 a l else (x.w32 a l).setWidth 64)

/-- The new value of a cas: the register behind its compare value (R453). -/
def Iss.casOf (x : Iss) (wide : Bool) (a : LSrc) : List DWord :=
  (List.range 32).map (fun l => match a, wide with
    | .v n, true => join (x.g.vlane (n.val + 2) l) (x.g.vlane (n.val + 3) l)
    | .v n, false => (x.g.vlane (n.val + 1) l).setWidth 64
    | .t n, true => join (x.g.tlane (n.val + 2) l) (x.g.tlane (n.val + 3) l)
    | .t n, false => (x.g.tlane (n.val + 1) l).setWidth 64
    | _, _ => 0)

/-- One in 2^k of a context's loads on a cluster is sampled, in its lowest active lane (R277). -/
def State.takeSample (s : State) (x : Iss) (lanes : Mask) : Option Nat × State :=
  match mget x.ctx s.adm.samples, x.g.core with
  | some y, none =>
    let n := mgetD 0 x.g.cluster y.seen + 1
    let s1 := { s with adm := { s.adm with samples := mput x.ctx { y with seen := mput x.g.cluster n y.seen } s.adm.samples } }
    (if n % 2 ^ y.k = 0 then some (Mask.low lanes) else none, s1)
  | _, _ => (none, s)

/-- Where a write of the instruction is held now. -/
def State.grpOf (s : State) (x : Iss) : Option (Nat × Nat) :=
  (s.gang? x.k).bind (fun g => (g.path? x.path.lanes).bind (fun p => s.heldAs g p))

/-- The kinds that must be aligned (R449). -/
def RKind.aligned : RKind → Bool
  | .atom | .atoms => true
  | _ => false

/-- Held writes of the instruction have taken its cluster past 1,024 blocks: in a run the interval closes behind the run (R253, R263,
log 49). -/
def State.overRun (s : State) (x : Iss) : State :=
  if x.run ≠ 0 ∧ (s.prot? x.g.team).isSome ∧ 1024 < s.heldBlocks x.g.cluster then
    s.modGang x.k (fun g => g.modPath x.path.lanes (fun p => { p with run := p.run.map (fun r => { r with closes := true }) }))
  else s

/-- A lane or uniform instruction issues its request: no active lane makes none (R448); bits [59:57] of any pointer trap before
any lane's request (R78); a misaligned atomic fails in its lane (R449). -/
def State.memReq (s : State) (x : Iss) (addr : Nat → DWord) (len : Nat) (q : Req) : State :=
  if q.lanes = 0 then s.pass x
  else
    let form := maskOf q.lanes (fun l => !ptrOk (addr l))
    if form ≠ 0 then s.trapAccess x.k x.path.lanes x.pc 0x0108 q.kind.code (addr (Mask.low form)) form
    else
      let bad := if q.kind.aligned then maskOf q.lanes (fun l => decide ((addr l).toNat % len ≠ 0)) else 0
      let s1 := if bad = 0 then s else s.logGang x.g 0x010C q.kind.code (addr (Mask.low bad)) bad x.hdr
      let accs := (Mask.slots (q.lanes &&& ~~~bad)).flatMap (fun l => laneAccs l (addr l) len 0)
      let smp := if q.kind.loads && q.kind != .dget then s1.takeSample x q.lanes else (none, s1)
      let s2 := smp.2.expandAt x (q.dest.marks q.lanes)
      ((s2.newReq { q with bad := bad, sample := smp.1, grp := s2.grpOf x, parts := s2.partsOf x.g accs }).overRun x).pass x

/-- The gang's store hash takes stores in ascending slot; an `SREGW` before them has its effect first (R280). -/
def Gang.hashStores (g : Gang) (l : List (DWord × DWord)) : Gang :=
  let isHash := fun (x : Pend) => match x.w with
    | .sr false _ => true
    | _ => false
  let g1 := (g.pend.filter isHash).foldl (fun g x => g.land x.tag x.w) { g with pend := g.pend.filter (fun x => !isHash x) }
  { g1 with storehash := l.foldl (fun h a => h.rotateLeft 5 ^^^ join (a.2.setWidth 32) (a.1.setWidth 32)) g1.storehash }

/-- The stores of an instruction enter its gang's hash; without an active lane there are none. -/
def State.hash (s : State) (x : Iss) (lanes : Mask) (addr : Nat → DWord) (data : List DWord) : State :=
  if lanes = 0 then s
  else s.modGang x.k (fun g => g.hashStores ((Mask.slots lanes).map (fun l => (addr l, data.getD l 0))))

/-- Store data cut to the width stored. -/
def cutData (sz : Nat) (l : List DWord) : List DWord := l.map (fun v => BitVec.ofNat 64 (v.toNat % 2 ^ (8 * sz)))

/-- A release write of a run begins a new part of the run's group (R263). -/
def State.ordering (s : State) (x : Iss) (rel : Option Scope) : State :=
  match rel with
  | some _ => s.closeBy x rel
  | none => s

/-! ## Loads and stores (R450 to R452) -/

/-- A lane load. -/
def State.load (s : State) (p : Pred) (d : LDst) (sz : SZ) (acq : Option Scope) (nl1 : Bool) (base : Iss → DWord)
    (ws : Option Nat) (addr : Iss → Nat → DWord) : Host.Outcome State Fault Refusal :=
  s.issue fun x =>
    s.memReq x (addr x) sz.bytes { x.req .ld (base x) (x.indexRow ws) (x.act p) sz.bytes 0 with
      dest := destOf d sz.wide
      signed := sz.sgn
      fill := !nl1
      home := (acq.map wideScope).getD false
      acq := acq.isSome }

/-- A lane store. -/
def State.store (s : State) (p : Pred) (a : LSrc) (sz : USZ) (rel : Option Scope) (base : Iss → DWord) (ws : Option Nat)
    (addr : Iss → Nat → DWord) : Host.Outcome State Fault Refusal :=
  s.issue fun x =>
    let lanes := x.act p
    let data := cutData sz.bytes (x.dataOf sz.wide a)
    let s1 := s.ordering x (if lanes = 0 then none else rel)
    let ok := (maskOf lanes (fun l => !ptrOk (addr x l))) = 0
    let s2 := if ok then s1.hash x lanes (addr x) data else s
    s2.memReq x (addr x) sz.bytes { x.req .st (base x) (x.indexRow ws) lanes sz.bytes 1 with data := data }

def execLd (p : Pred) (d : LDst) (m : LMem) (s : State) : Host.Outcome State Fault Refusal :=
  s.load p d .n32 none false m.baseOf m.ws m.at_

def execSt (p : Pred) (a : LSrc) (m : LMem) (s : State) : Host.Outcome State Fault Refusal :=
  s.store p a .n32 none m.baseOf m.ws m.at_

def execLdLong (p : Pred) (sz : SZ) (acq : Option Scope) (nl1 : Bool) (d : LDst) (m : LXMem) (s : State) :
    Host.Outcome State Fault Refusal :=
  s.load p d sz acq nl1 m.baseOf m.ws m.at_

def execStLong (p : Pred) (sz : USZ) (rel : Option Scope) (a : LSrc) (m : LXMem) (s : State) : Host.Outcome State Fault Refusal :=
  s.store p a sz rel m.baseOf m.ws m.at_

/-! ## Atomics (R453 to R457) -/

/-- An atomic at a block's home. -/
def State.atomic (s : State) (p : Pred) (op : AOp) (len : Nat) (signed : Bool) (ord : AOrd) (d : Option LDst) (a : LSrc)
    (base : Iss → DWord) (ws : Option Nat) (addr : Iss → Nat → DWord) : Host.Outcome State Fault Refusal :=
  s.issue fun x =>
    let lanes := x.act p
    let rel := match ord with
      | .rel sc => some sc
      | .ar sc => some sc
      | _ => none
    let acq := match ord with
      | .acq _ => true
      | .ar _ => true
      | _ => false
    let wide := len == 8
    let operand := x.dataOf wide a
    let data := match op with
      | .cas => x.casOf wide a
      | _ => operand
    let s1 := s.ordering x (if lanes = 0 then none else rel)
    (if (maskOf lanes (fun l => !ptrOk (addr x l))) = 0 then s1 else s).memReq x (addr x) len
      { x.req .atom (base x) (x.indexRow ws) lanes len (if d.isSome then 0 else 1) with
        dest := match d with
          | none => .none
          | some r => destOf r wide
        op := op
        signed := signed
        data := data
        cmp := operand
        acq := acq }

/-- The address of a short atomic: the base alone. -/
def baseOnly (b : Option (Fin 15)) (x : Iss) : DWord :=
  match b with
  | none => 0
  | some n => x.g.g.getD n.val 0

def execAtom (p : Pred) (op : SAOp) (d : LDst) (base : Option (Fin 15)) (a : LSrc) (s : State) : Host.Outcome State Fault Refusal :=
  s.atomic p op.op 4 true .plain (some d) a (baseOnly base) none (fun x _ => baseOnly base x)

def execAtomNoret (p : Pred) (op : SAOp) (base : Option (Fin 15)) (a : LSrc) (s : State) : Host.Outcome State Fault Refusal :=
  s.atomic p op.op 4 true .plain none a (baseOnly base) none (fun x _ => baseOnly base x)

def execAtomLong (p : Pred) (op : AOp) (sz : SZ) (ord : AOrd) (d : Option LDst) (m : LXMem) (a : LSrc) (s : State) :
    Host.Outcome State Fault Refusal :=
  s.atomic p op sz.bytes sz.cmpSigned ord d a m.baseOf m.ws m.at_

/-! ## Multicast and reducing stores (R461 to R463) -/

/-- An operation that a rival may not do: its record is written and the rival faults with RIVALOP (R147, R150). -/
def State.rivalOp (s : State) (x : Iss) (access : Nat) (addr : DWord) (lanes : Mask) : State :=
  match s.rivalOf x.g with
  | none => s
  | some v => (s.logGang x.g 0x0111 access addr lanes x.hdr).faultRival v.1 v.2

/-- A multicast: the table is read as one load; what follows is `State.multicast`. -/
def State.cast (s : State) (p : Pred) (mc : Bool) (op : AOp) (sz : USZ) (rel : Option Scope) (a : LSrc) (m : LXMem) (gm : Fin 7) :
    Host.Outcome State Fault Refusal :=
  s.issue fun x =>
    let lanes := x.act p
    let base := m.baseOf x
    let sel := (x.g.g.getD gm.val 0).toNat % 65536
    if lanes = 0 then (s.landVar x.k x.run x.path.lanes x.pc .general [.g gm.val 0]).pass x
    else if (s.rivalOf x.g).isSome then (s.rivalOp x 7 base lanes).pass x
    else if !ptrOk base then s.trapAccess x.k x.path.lanes x.pc 0x0108 7 base lanes
    else
      let data := cutData sz.bytes (x.dataOf sz.wide a)
      let s1 := s.ordering x rel
      let s2 := if mc then
          match s.vread x.ctx base 8 with
          | .ok bs => s1.hash x lanes (fun l => BitVec.ofNat 64 (ofBytes bs) + m.add x l) data
          | .error _ => s1
        else s1
      if sel = 0 then (s2.landVar x.k x.run x.path.lanes x.pc .general [.g gm.val 0]).pass x
      else
        let accs := (List.range 16).flatMap (fun i =>
          (laneAccs 0 (base + BitVec.ofNat 64 (8 * i)) 8 0).map (fun y => { y with off := 8 * i + y.off }))
        (s2.newReq { x.req .tbl base (x.indexRow m.ws) lanes sz.bytes 1 with
          dest := .g gm.val
          signed := mc
          op := op
          data := data
          cmp := (List.range 32).map (m.add x)
          sel := sel
          grp := s2.grpOf x
          parts := s2.partsOf x.g accs }).pass x

def execStmc (p : Pred) (sz : USZ) (rel : Option Scope) (a : LSrc) (m : LXMem) (gm : Fin 7) (s : State) :
    Host.Outcome State Fault Refusal :=
  s.cast p true .add sz rel a m gm

def execStred (p : Pred) (op : StredOp) (sz : USZ) (rel : Option Scope) (a : LSrc) (m : LXMem) (gm : Fin 7) (s : State) :
    Host.Outcome State Fault Refusal :=
  s.cast p false op.op sz rel a m gm

/-! ## Prefetch and descriptors (R464, R465) -/

def execPref (p : Pred) (slice : Bool) (m : LXMem) (s : State) : Host.Outcome State Fault Refusal :=
  s.issue fun x =>
    s.memReq x (m.at_ x) 1 { x.req .pref (m.baseOf x) (x.indexRow m.ws) (x.act p) 1 4 with fill := !slice }

/-- The pointer of a lane's block. -/
def blockPtr (a : DWord) : DWord := a &&& ~~~63

def execDset (p : Pred) (a : LSrc) (m : LXMem) (s : State) : Host.Outcome State Fault Refusal :=
  s.issue fun x =>
    s.memReq x (fun l => blockPtr (m.at_ x l)) 2 { x.req .dset (m.baseOf x) (x.indexRow m.ws) (x.act p) 2 1 with
      data := cutData 2 (x.dataOf false a) }

def execDget (p : Pred) (d : LDst) (m : LXMem) (s : State) : Host.Outcome State Fault Refusal :=
  s.issue fun x =>
    s.memReq x (fun l => blockPtr (m.at_ x l)) 4 { x.req .dget (m.baseOf x) (x.indexRow m.ws) (x.act p) 4 0 with dest := destOf d false }

/-! ## Uniform loads and stores (R390 to R392) -/

/-- The address of a uniform memory operand. -/
def Iss.uaddr (x : Iss) (b : USrc) (off : UOff) (len : Nat) : DWord :=
  x.u b + (match off with
    | .imm o => o.signExtend 64 * BitVec.ofNat 64 len
    | .lit w => w.signExtend 64)

def execLdUniform (p : Pred) (sz : SZ) (d : UDst) (b : USrc) (off : UOff) (s : State) : Host.Outcome State Fault Refusal :=
  s.uni p fun x =>
    let a := x.uaddr b off sz.bytes
    s.memReq x (fun _ => a) sz.bytes { x.req .uld a [] 1 sz.bytes 0 with
      dest := match d with
        | .g n => .g n.val
        | .zero => .g 62
      signed := sz.sgn }

/-- The blocks that an access at an address touches. -/
def blocksOf (a : DWord) (len : Nat) : Nat := if a.toNat % 64 + len ≤ 64 then 1 else 2

/-- A store that would take its cluster's held writes past 1,024 blocks (R253). -/
def State.overflows (s : State) (g : Gang) (blocks : Nat) : Bool :=
  (s.prot? g.team).isSome && decide (1024 < s.heldBlocks g.cluster + blocks)

/-- Blocks that a TCLOSE of a team would commit (R160). -/
def State.commitBlocks (s : State) (t : Nat) : Nat :=
  (s.work.scopes.filter (fun x => x.2.opener == t && x.2.st == .decided)).foldl (fun n x =>
    n + (((x.2.winner.bind (fun i => x.2.rivals[i]?)).map (fun r => r.ws.length)).getD 0)) 0

def execStUniform (p : Pred) (sz : USZ) (a : UDst) (b : USrc) (off : UOff) (s : State) : Host.Outcome State Fault Refusal :=
  s.uni p fun x =>
    let at_ := x.uaddr b off sz.bytes
    let data := cutData sz.bytes [x.ud a]
    let s1 := if x.run = 0 && ptrOk at_ && s.overflows x.g (blocksOf at_ sz.bytes) then s.closeBy x none else s
    let s2 := if ptrOk at_ then s1.hash x 1 (fun _ => at_) data else s1
    s2.memReq x (fun _ => at_) sz.bytes { x.req .ust at_ [] 1 sz.bytes 1 with data := data }

/-! ## Scratchpad accesses (R197, R228) -/

/-- A scratchpad access issues: it performs 20 clk later. Its accesses stand in one part; an atomic that is not aligned fails in
its lane (R449). -/
def State.spReq (s : State) (x : Iss) (addr : Nat → DWord) (len : Nat) (q : Req) : State :=
  if q.lanes = 0 then s.pass x
  else
    let bad := if q.kind.aligned then maskOf q.lanes (fun l => decide ((addr l).toNat % len ≠ 0)) else 0
    let s1 := if bad = 0 then s else s.logGang x.g 0x010C q.kind.code (addr (Mask.low bad)) bad x.hdr
    let accs := (Mask.slots (q.lanes &&& ~~~bad)).map (fun l => (⟨l, addr l, len, 0, 0⟩ : Acc))
    let (r, s2) := (s1.expandAt x (q.dest.marks q.lanes)).takeFresh
    let s3 := s2.modGang x.k (fun g => { g with
      ops := if q.cls < 4 then g.ops ++ [⟨r, q.cls, false⟩] else g.ops
      writes := if q.kind == .lds then g.writes else g.writes ++ [⟨r, r, false, 0, false⟩] })
    let s4 := s3.setReq r { q with bad := bad, parts := [.pad accs x.now] }
    (s4.sched (s.clk.now + 20) .scratchpadPerform r).pass x

/-- A scratchpad load. -/
def State.spLoad (s : State) (p : Pred) (d : LDst) (sz : SZ) (base : Iss → DWord) (ws : Option Nat) (addr : Iss → Nat → DWord) :
    Host.Outcome State Fault Refusal :=
  s.issue fun x => s.spReq x (addr x) sz.bytes { x.req .lds (base x) (x.indexRow ws) (x.act p) sz.bytes 0 with
    dest := destOf d sz.wide, signed := sz.sgn }

/-- A scratchpad store. -/
def State.spStore (s : State) (p : Pred) (a : LSrc) (sz : USZ) (rel : Option Scope) (base : Iss → DWord) (ws : Option Nat)
    (addr : Iss → Nat → DWord) : Host.Outcome State Fault Refusal :=
  s.issue fun x =>
    let data := cutData sz.bytes (x.dataOf sz.wide a)
    let s1 := s.ordering x (if x.act p = 0 then none else rel)
    (s1.hash x (x.act p) (addr x) data).spReq x (addr x) sz.bytes
      { x.req .sts (base x) (x.indexRow ws) (x.act p) sz.bytes 1 with data := data }

def execLds (p : Pred) (d : LDst) (m : LMem) (s : State) : Host.Outcome State Fault Refusal :=
  s.spLoad p d .n32 m.baseOf m.ws m.at_

def execSts (p : Pred) (a : LSrc) (m : LMem) (s : State) : Host.Outcome State Fault Refusal :=
  s.spStore p a .n32 none m.baseOf m.ws m.at_

/-- An acquire form orders scratchpad accesses, which perform in issue order as they are (R228, R451). -/
def execLdsLong (p : Pred) (sz : SZ) (_acq : Option Scope) (d : LDst) (m : LXMem) (s : State) : Host.Outcome State Fault Refusal :=
  s.spLoad p d sz m.baseOf m.ws m.at_

def execStsLong (p : Pred) (sz : USZ) (rel : Option Scope) (a : LSrc) (m : LXMem) (s : State) : Host.Outcome State Fault Refusal :=
  s.spStore p a sz rel m.baseOf m.ws m.at_

def execAtoms (p : Pred) (op : AOp) (sz : SZ) (d : Option LDst) (m : LXMem) (a : LSrc) (s : State) :
    Host.Outcome State Fault Refusal :=
  s.issue fun x =>
    let operand := x.dataOf sz.wide a
    s.spReq x (m.at_ x) sz.bytes
      { x.req .atoms (m.baseOf x) (x.indexRow m.ws) (x.act p) sz.bytes (if d.isSome then 0 else 1) with
        dest := match d with
          | none => .none
          | some r => destOf r sz.wide
        op := op
        signed := sz.cmpSigned
        data := match op with
          | .cas => x.casOf sz.wide a
          | _ => operand
        cmp := operand }

end Sys2Proof.Machine
end

