-- ==== Sys2Proof/Machine/Scratch.lean ====
section
/-! DEFINITION. What performs in scratchpad: loads, stores, atomics, flumes and barrier objects (R197, R213 to R216, R228, R450,
R455, R466 to R470). -/

namespace Sys2Proof.Machine

/-! ## LDS, STS and ATOMS -/

/-- Lanes of accesses. -/
def accLanes (l : List Acc) : Mask := l.foldl (fun m a => m ||| Mask.one a.lane) 0

/-- One access of a lane on a scratchpad: the scratchpad after it and the bytes read. -/
def Req.spAcc (q : Req) (t : Team) (a : Acc) : Team × List Byte :=
  let off := a.addr.toNat
  let old := t.spBytes off a.len
  match q.kind with
  | .lds => (t, old)
  | .sts => (t.spPut off (q.accBytes a), [])
  | _ =>
    match atomNew q.op q.signed (8 * a.len) (ofBytes old) (q.data.getD a.lane 0).toNat (q.cmp.getD a.lane 0).toNat with
    | none => (t, old)
    | some v => (t.spPut off (toBytes a.len v), old)

/-- A load, store or atomic performs: lanes at or above SP fail (R197), reads of a poisoned block return all ones (R306). -/
def State.spPerform (s : State) (r : Nat) (q : Req) (g : Gang) (t : Team) : State :=
  let accs := (q.parts.head?.map Part.accs).getD []
  let out := fun (a : Acc) => decide (t.spSize < a.addr.toNat + a.len)
  let pois := fun (a : Acc) => q.kind != .sts && (t.spPoisoned a.addr.toNat || t.spPoisoned (a.addr.toNat + a.len - 1))
  let bad := accLanes (accs.filter out)
  let s1 := if bad = 0 then s
    else s.logGang g 0x010B q.kind.code (((accs.find? out).map Acc.addr).getD 0) bad q.runpc
  let eaten := accLanes (accs.filter (fun a => !out a && pois a))
  let s2 := if eaten = 0 then s1 else s1.poisonRec r q eaten
  let res := accs.foldl (fun (x : Team × List (List Byte)) a =>
    if out a || pois a then (x.1, x.2 ++ [[]])
    else let y := q.spAcc x.1 a; (y.1, x.2 ++ [y.2])) (t, [])
  let s3 := s2.modTeam g.team (fun tm => { tm with sp := res.1.sp })
  let q1 := { q with parts := q.parts.map (fun (p : Part) => { p with st := PState.done, data := res.2 }) }
  let s4 := s3.landOp q.gang r q.run q.plan q.pc (q1.lands q1.lanes)
  let s5 := (s4.ackWrite q.gang r s.clk.now false).opComplete q.gang r q.cls
  { s5 with mem := { s5.mem with reqs := mdel r s5.mem.reqs } }

/-! ## Flumes (R213 to R216, R466, R467) -/

/-- A flume's control block lies below SP and its NSLOT and SLOTB keep R213; else SPADRANGE or FLFORM. -/
def Team.flume (t : Team) (a : DWord) : Except Nat (Nat × Nat) :=
  let off := a.toNat
  if off % 64 ≠ 0 ∨ t.spSize < off + 64 then .error 0x010B
  else
    let n := t.spNum off 1
    let b := t.spNum (off + 4) 4
    if n = 0 ∨ 16 < n ∨ b % 64 ≠ 0 ∨ b < 64 ∨ 65536 < b then .error 0x010D else .ok (n, b)

/-- Wakes the copies that wait with FLFULL on a control block of a team (R209, R216). -/
def State.wakeFlume (s : State) (team addr : Nat) : State := s.wakeOps (fun _ _ t b => t == team && b.1 == 0x0303 && b.2.1 == addr)

/-- FLINIT performs: the Reset column of R213. -/
def State.flinitPerform (s : State) (g : Gang) (t : Team) (a : DWord) (n b : Nat) (runpc : DWord) : State :=
  let off := a.toNat
  if off % 64 ≠ 0 ∨ t.spSize < off + 64 + n * b then s.logGang g 0x010B 1 a 0 runpc
  else
    (s.modTeam g.team (fun t => t.spPut off
      (toBytes 1 n ++ toBytes 3 0 ++ toBytes 4 b ++ toBytes 8 0 ++ List.replicate 16 0xFF ++ List.replicate 32 0))).wakeFlume g.team off

/-- The first slot from WSLOT on that a gang holds. -/
def Team.heldSlot (t : Team) (off n gangid : Nat) : Option Nat :=
  let w := t.spNum (off + 8) 1
  ((List.range n).map (fun i => (w + i) % n)).find? (fun k => t.spNum (off + 0x10 + k) 1 == gangid)

/-- FLREL performs (R216). -/
def State.flrelPerform (s : State) (g : Gang) (t : Team) (a runpc : DWord) : State :=
  match t.flume a with
  | .error c => s.logGang g c 1 a 0 runpc
  | .ok (n, _) =>
    match t.heldSlot a.toNat n g.gangid with
    | none => s
    | some k => (s.modTeam g.team (fun t => t.spPut (a.toNat + 0x10 + k) [0xFF])).wakeFlume g.team a.toNat

/-- The slot that an acquisition takes, where RSLOT is filled. -/
def Team.filledSlot (t : Team) (off n : Nat) : Option Nat :=
  let r := t.spNum (off + 9) 1
  if r < n ∧ t.spNum (off + 0x10 + r) 1 = 0xFE then some r else none

/-- The acquisitions that wait in a team, in their order of arrival: gang, lanes, address, arrival, issue slot. -/
def State.acquirers (s : State) (t : Team) : List (Nat × Mask × DWord × Nat × Nat) :=
  t.gangs.flatMap (fun k => match s.gang? k with
    | none => []
    | some g => g.paths.filterMap (fun p => match p.wait with
      | .flacq a _ since => if since ≤ s.clk.now then some (k, p.lanes, a, since, g.slot) else none
      | _ => none))

/-- The acquisition served now: the earliest among the first of each flume whose slot RSLOT is filled or whose block is
wrong (R215). -/
def State.acquirer (s : State) (t : Team) : Option (Nat × Mask) :=
  let l := s.acquirers t
  let rank := fun (x : Nat × Mask × DWord × Nat × Nat) => x.2.2.2.1 * 4 + x.2.2.2.2
  let firsts := l.filter (fun x => !(l.any (fun y => y.2.2.1 == x.2.2.1 && decide (rank y < rank x))))
  let ok := firsts.filter (fun x => match t.flume x.2.2.1 with
    | .error _ => true
    | .ok (n, _) => (t.filledSlot x.2.2.1.toNat n).isSome)
  (lruOf rank ok).map (fun x => (x.1, x.2.1))

/-- A path that waits goes on behind its instruction. -/
def State.resume (s : State) (k : Nat) (lanes : Mask) : State :=
  s.modGang k (fun g => g.modPath lanes (fun p => { p.next p.wlen with wait := .none }))

/-- An acquisition is served: it takes the slot, or writes all ones with its record (R467). -/
def State.flacqServe (s : State) (tk : Nat) (t : Team) : State :=
  match s.acquirer t with
  | none => s
  | some (k, lanes) =>
    match s.gang? k with
    | none => s
    | some g =>
      match g.path? lanes with
      | none => s
      | some p =>
        match p.wait with
        | .flacq a d _ =>
          match t.flume a with
          | .error c => ((s.logGang g c 0 a 0 0).landVar k 0 lanes p.pc .general (writeG d 0xFFFFFFFFFFFFFFFF)).resume k lanes
          | .ok (n, b) =>
            match t.filledSlot a.toNat n with
            | none => s
            | some r =>
              let s1 := s.modTeam tk (fun t => (t.spPut (a.toNat + 0x10 + r) (toBytes 1 g.gangid)).spPut (a.toNat + 9) (toBytes 1 ((r + 1) % n)))
              (s1.landVar k 0 lanes p.pc .general (writeG d (a + 64 + BitVec.ofNat 64 (r * b)))).resume k lanes
        | _ => s

/-- FLACQ (R215, R467): the acquisition arrives at the scratchpad 20 clk after its issue. -/
def execFlacq (p : Pred) (d : UDst) (a : USrc) (s : State) : Host.Outcome State Fault Refusal :=
  s.uni p fun x => s.await x (.flacq (x.u a) d (s.clk.now + 20))

/-- A scratchpad write of a uniform instruction: it counts in no counter and performs in issue order. -/
def State.spWrite (s : State) (x : Iss) (kind : RKind) (a : DWord) (data : List DWord) : State :=
  let (r, s1) := s.takeFresh
  ((s1.setReq r { x.req kind a [] 0 0 4 with data := data }).sched (s.clk.now + 20) .scratchpadPerform r).pass x

def execFlinit (p : Pred) (a : USrc) (nslot1 : Fin 16) (slotb1 : BitVec 10) (s : State) : Host.Outcome State Fault Refusal :=
  s.uni p fun x => s.spWrite x .flinit (x.u a)
    [BitVec.ofNat 64 (nslot1.val + 1), BitVec.ofNat 64 (64 * (slotb1.toNat + 1))]

def execFlrel (p : Pred) (a : USrc) (s : State) : Host.Outcome State Fault Refusal :=
  s.uni p fun x => s.spWrite x .flrel (x.u a) []

/-! ## Barrier objects (R469, R470) -/

/-- BOARM performs. -/
def State.boarmPerform (s : State) (g : Gang) (t : Team) (a count runpc : DWord) : State :=
  if t.boOk a then s.modTeam g.team (fun t => t.spPut a.toNat (toBytes 8 (2 ^ 63 + count.toNat % 2 ^ 40)))
  else s.logGang g 0x010B 1 a 0 runpc

def execBoarm (p : Pred) (a b : USrc) (s : State) : Host.Outcome State Fault Refusal :=
  s.uni p fun x => s.spWrite x .boarm (x.u a) [x.u b]

/-- BOWAIT: it looks at the object 20 clk after its issue, in issue order. -/
def execBowait (p : Pred) (a : USrc) (s : State) : Host.Outcome State Fault Refusal :=
  s.uni p fun x => s.await x (.bo (x.u a) (s.clk.now + 20))

/-- A path that waits at BOWAIT goes on when its object is not armed or its count is 0; a wrong address returns at once. -/
def State.bowaitTry (s : State) (k : Nat) (g : Gang) (lanes : Mask) (a : DWord) : State :=
  match s.team? g.team with
  | none => s
  | some t =>
    if t.boOk a then
      let v := t.spNum a.toNat 8
      if v < 2 ^ 63 then s.resume k lanes
      else if v % 2 ^ 40 = 0 then (s.modTeam g.team (fun t => t.spPut a.toNat (toBytes 8 (v - 2 ^ 63)))).resume k lanes
      else s
    else (s.logGang g 0x010B 0 a 0 0).resume k lanes

/-! ## The perform event -/

/-- A request of scratchpad. -/
def RKind.pad : RKind → Bool
  | .lds | .sts | .atoms | .flinit | .flrel | .boarm => true
  | _ => false

/-- The accesses of a cluster's scratchpad whose 20 clk have passed, in issue order. -/
def State.padDue (s : State) (cl : Nat) : List Nat :=
  (s.mem.reqs.filter (fun r => r.2.kind.pad && decide (r.2.issued + 20 ≤ s.clk.now) && ((s.gang? r.2.gang).map Gang.cluster) == some cl)).map Prod.fst

/-- The blocks that a scratchpad access touches, and whether it writes them. -/
def Req.padBlks (q : Req) : List Nat × Bool :=
  match q.kind with
  | .flinit | .flrel | .boarm => ([q.base.toNat / 64], true)
  | k => (((q.parts.head?.map Part.accs).getD []).flatMap (fun a => [a.addr.toNat / 64, (a.addr.toNat + a.len - 1) / 64]), k != .lds)

/-- One access of scratchpad performs. -/
def State.padOne (s : State) (r : Nat) : State :=
  match s.req? r with
  | none => s
  | some q =>
    match s.gang? q.gang with
    | none => s
    | some g =>
      match s.team? g.team with
      | none => s
      | some t =>
        let gone := fun (s : State) => { s with mem := { s.mem with reqs := mdel r s.mem.reqs } }
        match q.kind with
        | .flinit => gone (s.flinitPerform g t q.base (q.data.getD 0 0).toNat (q.data.getD 1 0).toNat q.runpc)
        | .flrel => gone (s.flrelPerform g t q.base q.runpc)
        | .boarm => gone (s.boarmPerform g t q.base (q.data.getD 0 0) q.runpc)
        | _ => s.spPerform r q g t

/-- Accesses perform in their order; one that waits for a block which its team's snapshot or rollback has still to take holds those behind
it for a clk (R228, R260, R266). -/
def State.padRun (s : State) : List Nat → State
  | [] => s
  | r :: l =>
    match (s.req? r).bind (fun q => (s.gang? q.gang).map (fun g => (q, g))) with
    | none => s.padRun l
    | some (q, g) =>
      if s.spWaits g.team q.padBlks.1 q.padBlks.2 then (s.wantBlks g.team q.padBlks.1).sched (s.clk.now + 1) .scratchpadPerform r
      else (s.padOne r).padRun l

/-- An access of an engine to blocks of a team's scratchpad: the clk at which it is tried again, where its array leaves retention first or a
snapshot or rollback has still to take a block (R260, R266, R273). -/
def State.padWait (s : State) (cl t : Nat) (blks : List Nat) (write : Bool) : Option Nat × State :=
  let u := s.arrUse (spArr cl)
  if s.clk.now < u.1 then (some u.1, u.2)
  else if u.2.spWaits t blks write then (some (s.clk.now + 1), u.2.wantBlks t blks)
  else (none, u.2)

/-- SCRATCHPAD_PERFORM: an access performs 20 clk after its issue, or when its array has left retention, behind those issued before it
(R228, R273). -/
def execScratchpadPerform (s : State) : Host.Outcome State Fault Refusal :=
  let r := s.clk.subj.a
  match (s.req? r).bind (fun q => s.gang? q.gang) with
  | none => .next s
  | some g =>
    let u := s.arrUse (spArr g.cluster)
    if s.clk.now < u.1 then .next (u.2.sched u.1 .scratchpadPerform r)
    else .next (u.2.padRun (u.2.padDue g.cluster))

end Sys2Proof.Machine
end

