-- ==== Sys2Proof/Machine/Issue.lean ====
section
/-! DEFINITION. Issue: what a path's next instruction is, whether it can issue, and the issue turns and groups of a clk
(R165 to R168, R172, R177, R178, R181, R184, R185, R187, R235, R376, R377). -/

namespace Sys2Proof.Machine

/-! ## The next instruction of a path -/

/-- What stands at a path's address: an instruction with its length and first word, a trap (with the address of the word whose fetch
has failed), the address of a word whose fetch waits. -/
inductive Next where
  | instr (i : Instr) (len : Nat) (word : Word)
  | trap (cause : Nat) (fetch : Option DWord)
  | wait (addr : DWord)
  deriving DecidableEq, Repr

/-- The cause that has ended a fetch for a page of a gang's place, where its walk has found one. -/
def State.fetchCause (s : State) (g : Gang) (page : Nat) : Option Nat :=
  (s.mem.fetches.find? (fun f => f.ctx == s.ctxOf g && f.page == page && f.cluster == g.port && f.cause != 0 && !bounces f.cause)).map FetchWait.cause

/-- The causes that have ended fetches for the pages of a path's next words are forgotten once its trap has been taken. -/
def State.fetchForget (s : State) (g : Gang) (pc : DWord) : State :=
  let page := pageOf (ptrVa pc)
  { s with mem := { s.mem with fetches := s.mem.fetches.filter (fun f =>
      !(f.ctx == s.ctxOf g && f.cluster == g.port && f.cause != 0 && !bounces f.cause && (f.page == page || f.page == page + 1))) } }

/-- The path waits for the fetch of the page of a word (R88): for a walk, or, where a buffer holds the page, for the wake of its cause. -/
def State.awaitFetch (s : State) (k : Nat) (g : Gang) (lanes : Mask) (addr runpc : DWord) : State :=
  let ctx := s.ctxOf g
  let page := pageOf (ptrVa addr)
  let s1 := s.modGang k (fun g => g.modPath lanes (fun p => { p with wait := .fetch }))
  let wait := fun (c : Nat) => { s1 with mem := { s1.mem with fetches := s1.mem.fetches ++ [(⟨ctx, page, g.port, c, k, lanes, addr, runpc⟩ : FetchWait)] } }
  match s.fetchWord g ctx addr with
  | .cause c => (wait c).serveCause ctx (ptrVa addr) c false
  | _ => (wait 0).walkFor g.die ctx page (.fetch g.port)

/-- The next instruction of a path: decoded again at each issue, with the checks of the decode class outside runs (R189). -/
def State.nextOf (s : State) (g : Gang) (p : Path) : Next :=
  match s.fetchInstr g (s.ctxOf g) p.pc with
  | .error (.miss page, a) =>
    match s.fetchCause g page with
    | some c => .trap c (some a)
    | none => .wait a
  | .error (.cause c, a) => if bounces c then .wait a else .trap c (some a)
  | .error (.word _, _) => .trap 0x0001 none
  | .ok (.error rsv) => .trap (if rsv then 0x0002 else 0x0001) none
  | .ok (.ok (i, len, w)) =>
    match i.shape with
    | none => .trap 0x0001 none
    | some x =>
      match p.run with
      | none => match x.cause g.core.isSome g.rows with
        | some c => .trap c none
        | none => .instr i len w
      | some _ => .instr i len w

/-! ## Waits at issue -/

/-- The view an instruction of a path would issue with. -/
def State.issAt (s : State) (k : Nat) (p : Path) (len : Nat) (w : Word) : Option Iss :=
  { s with clk := { s.clk with cur := some ⟨k, p.lanes, p.pc, len, w⟩ } }.iss

/-- G registers with a result on its way (R172, R377): landing later, outstanding loads and multicasts, an acquisition, a
firmware call. -/
def State.gPending (s : State) (k : Nat) (g : Gang) : List Nat :=
  g.pend.filterMap (fun x => match x.w with
    | .g n _ => if s.clk.now < x.land then some n else none
    | _ => none) ++
  s.mem.reqs.filterMap (fun r => if r.2.gang = k then (match r.2.dest with
    | .g n => some n
    | _ => none) else none) ++
  g.paths.flatMap (fun p => match p.wait with
    | .fwcall _ _ => [1, 2, 3, 4]
    | .flacq _ (.g n) _ => [n.val]
    | _ => [])

/-- Q registers with a result on its way. -/
def State.qPending (s : State) (g : Gang) : List Nat :=
  g.pend.filterMap (fun x => match x.w with
    | .q n _ => if s.clk.now < x.land then some n else none
    | _ => none)

/-- V registers with a result on its way: of no open run, or, for a register that a run has published, of whatever run (R185). -/
def State.vPending (s : State) (g : Gang) : List Nat :=
  g.pend.filterMap (fun x => match x.w with
    | .v n _ _ => if (x.run = 0 ∨ g.pub.contains n) ∧ s.clk.now < x.land then some n else none
    | _ => none)

/-- A run header waits for every pending write of what its working set holds of published registers, and for the fixed-latency writes of
the path's last run (R181, R185). -/
def State.headerWaits (s : State) (k : Nat) (g : Gang) (p : Path) (va n : Nat) : Bool :=
  let set := (List.range n).map (fun i => va + i)
  let pending := s.vWaits k g
  set.any (fun r => g.pub.contains r && pending.contains r) ||
  g.pend.any (fun x => x.fixed && x.own != 0 && x.run == 0 && decide (s.clk.now < x.land) && x.lanes &&& p.lanes != 0)

/-- The scope of a release form that waits before it issues (R235). -/
def relScope : Instr → Option Scope
  | .stLong _ _ rel _ _ => rel
  | .stmc _ _ rel _ _ _ => rel
  | .stred _ _ _ rel _ _ _ => rel
  | .atomLong _ _ _ ord _ _ _ => match ord with
    | .rel sc => some sc
    | .ar sc => some sc
    | _ => none
  | _ => none

/-- A run from a header on holds an instruction that closes an interval (R263). -/
def State.runCloses (s : State) (g : Gang) (ctx : Nat) : Nat → DWord → Bool
  | 0, _ => false
  | n + 1, pc =>
    match s.fetchInstr g ctx pc with
    | .ok (.ok (i, len, _)) => closesInterval i || s.runCloses g ctx n (pc + BitVec.ofNat 64 (4 * len))
    | _ => false

/-- An instruction closes its team's interval, so that it waits as R259 says. -/
def State.closerWaits (s : State) (g : Gang) (p : Path) (i : Instr) : Bool :=
  if (s.prot? g.team).isNone then false
  else
    let closes := match i with
      | .runb n _ _ => s.runCloses g (s.ctxOf g) n.toNat (p.pc + 4)
      | .rune _ _ => (p.run.map Run.closes).getD false
      | .fence _ _ _ => p.run.isNone && closesInterval i
      | .stUniform _ _ _ _ _ => p.run.isNone && s.overflows g 2
      | .tclose _ _ => p.run.isNone && s.overflows g (s.commitBlocks g.team)
      | _ => false
    closes && !s.mayClose g

/-- The instruction is one of those of which a gang has at most one uncounted request (R207). -/
def isUncounted : Instr → Bool
  | .qsend _ _ _ _ _ => true
  | .tasksub _ _ _ _ => true
  | .fapp _ _ _ => true
  | _ => false

/-- The score register that TSCORE reads at issue (R377, R493). -/
def State.scoreReg (s : State) (g : Gang) : List Nat :=
  match (s.rivalOf g).bind (fun v => mget v.1 s.work.scopes) with
  | none => []
  | some x => [x.screg]

/-- An instruction that a memory ordering holds: it stands behind an acquire, or behind another path's fence (R235). -/
def Gang.ordered (g : Gang) (p : Path) : Bool :=
  g.acq != [] || g.paths.any (fun y => y.lanes != p.lanes && (match y.wait with
    | .fence _ _ _ => true
    | _ => false))

/-- A change of the gang's block waits: the other path is in a run, or a result for the upper registers is on its way (R495). -/
def State.rowsWait (s : State) (k : Nat) (g : Gang) (p : Path) : Bool :=
  p.run.isNone && (g.paths.any (fun y => y.lanes != p.lanes && y.run.isSome) ||
    g.upperRegs.any (fun n => (s.vPending g).contains n || (s.varDests k g).contains n))

/-- The rows that an instruction reads and that a rollback has not yet restored: those it names, and the working set of a run (R266). -/
def State.wantedRows (s : State) (k : Nat) (g : Gang) (i : Instr) (x : Shape) : List Nat :=
  match s.unrestored k g with
  | [] => []
  | l => ((match i with
    | .runb _ va c => (List.range c.toNat).map (fun n => va.toNat + n)
    | _ => x.vr.flatMap vNames).filter l.contains)

/-- The next instruction of a path cannot issue now. -/
def State.blocked (s : State) (k : Nat) (g : Gang) (p : Path) (i : Instr) (x : Shape) (v : Iss) : Bool :=
  let outside := p.run.isNone
  if !x.lane && outside && (s.qPending g).contains x.p.n.val then true
  else
    let active := if x.lane then v.act x.p != 0 else v.qp x.p
    if !active then
      -- no lane or a false prefix: it issues and does nothing; an SFU instruction enters its queue all the same (R441)
      x.cls.contains .sfu && decide (64 ≤ sfuWaiting s.clk.now ((mget g.cluster s.work.sfu).getD []))
    else
      (!x.lane && outside && (
        x.gr.any (fun n => (s.gPending k g).contains n) || x.qr.any (fun n => (s.qPending g).contains n) ||
        (x.vr.flatMap vNames).any (fun n => (s.vPending g).contains n || (s.varDests k g).contains n))) ||
      (match x.ctr with
        | some c => decide (63 ≤ g.count c)
        | none => false) ||
      (x.mem && g.ordered p) ||
      (match relScope i with
        | some sc => !(g.relDone s.clk.now (s.upto p) sc)
        | none => false) ||
      (x.cls.contains .sfu && decide (64 ≤ sfuWaiting s.clk.now ((mget g.cluster s.work.sfu).getD []))) ||
      (isUncounted i && g.uncounted.isSome) ||
      s.closerWaits g p i ||
      (s.wantedRows k g i x) != [] ||
      (match i with
        | .runb _ va c =>
          s.headerWaits k g p va.toNat c.toNat || g.trapPend.isSome ||
          decide (2 ≤ (g.paths.filter (fun y => y.run.isSome)).length)
        | .fwcall _ _ => g.paths.any (fun y => match y.wait with
          | .fwcall _ _ => true
          | _ => false)
        | .rgive _ _ => g.rows != 16 && s.rowsWait k g p
        | .rclaim _ _ => (s.claimPlace k g).isSome && s.rowsWait k g p
        | .tscore _ _ => (s.scoreReg g).any (fun n => (s.gPending k g).contains n)
        | _ => false)

/-! ## Turns (R165 to R168) -/

/-- The issue slot of a gang in the table of slots; a control core is a slot of its own. -/
def Gang.slotKey (g : Gang) : Nat :=
  match g.core with
  | none => 4 * g.cluster + g.slot
  | some c => 4 * 136 + c

/-- The gang is resident and issues. -/
def State.issues (s : State) (g : Gang) : Bool :=
  (match g.stop with
    | .run => true
    | .asking _ => true
    | .asked _ => true
    | _ => false) &&
  (match (s.team? g.team).map Team.st with
    | some .placed => true
    | some .stopping => true
    | _ => false) && decide (g.busyUntil ≤ s.clk.now)

/-- The cluster compacts: paths outside runs do not issue (R118). -/
def State.compacting (s : State) (g : Gang) : Bool := g.core.isNone && (mget g.cluster s.work.compact).isSome

/-- A path that may be looked at for issue. -/
def State.open_ (s : State) (g : Gang) (p : Path) : Bool :=
  p.wait == .none && decide (p.hold ≤ s.clk.now) && !(p.run.isNone && (s.compacting g || g.trapPend.isSome))

/-- The weir table of a gang's code (R141): where its entries stand, how many they are and the load address of the code section; of a
task whose ENTRY lies in no loaded kernel there is none. `code` of a launch and of an object is the load address of the code section. -/
def State.weirTable (s : State) (g : Gang) : Option (DWord × Nat × DWord) :=
  let ctx := s.ctxOf g
  match (s.team? g.team).map Team.src with
  | none => none
  | some (.launch lid) => (mget lid s.work.launches).map (fun l => (l.weirs, l.weirCnt, l.code))
  | some (.task tid) => (mget tid s.work.tasks).bind (fun k =>
      (s.adm.objs.filter (fun o => o.ctx == ctx)).findSome? (fun o =>
        (List.range (o.krecSize / 128)).findSome? (fun i =>
          match s.vread ctx (o.krecs + BitVec.ofNat 64 (128 * i)) 128 with
          | .error _ => none
          | .ok r =>
            let lo := o.code + BitVec.ofNat 64 (ofBytes ((r.drop 0x20).take 8))
            let len := ofBytes ((r.drop 0x28).take 4)
            if lo.toNat ≤ k.entry.toNat ∧ k.entry.toNat < lo.toNat + len then
              some (o.weirs + BitVec.ofNat 64 (32 * ofBytes ((r.drop 0x34).take 2)), ofBytes ((r.drop 0x36).take 2), o.code)
            else none)))

/-- The address is the ENTRY of a task's gang, which counts as a weir beside its kernel's table (R141). -/
def State.atEntry (s : State) (g : Gang) (pc : DWord) : Bool :=
  match (s.team? g.team).map Team.src with
  | some (.task tid) => ((mget tid s.work.tasks).map (fun k => k.entry == pc)).getD false
  | _ => false

/-- The weir table entry at an address for a gang (R22, R138, R141): live P, Q, G and V. An entry whose bytes cannot be read (its page
is not mapped, or has no permission) is no weir, and no record is written: the spec is silent on it (DESIGN CHOICE, log 86). -/
def State.weirAt (s : State) (g : Gang) (pc : DWord) : Option (BitVec 8 × BitVec 8 × DWord × BitVec 112) :=
  match s.weirTable g with
  | none => none
  | some (weirs, cnt, code) =>
    if s.atEntry g pc then some (0, 0, 3, 0)
    else (List.range cnt).findSome? (fun i =>
      match s.vread (s.ctxOf g) (weirs + BitVec.ofNat 64 (32 * i)) 32 with
      | .error _ => none
      | .ok bs => if code + BitVec.ofNat 64 (ofBytes (bs.take 4)) = pc then
          some (BitVec.ofNat 8 (ofBytes ((bs.drop 4).take 1)), BitVec.ofNat 8 (ofBytes ((bs.drop 5).take 1)),
            BitVec.ofNat 64 (ofBytes ((bs.drop 8).take 8)), BitVec.ofNat 112 (ofBytes ((bs.drop 16).take 14)))
        else none)

/-- A path at which a gang with a stop request does not issue: it stands outside runs at a weir, or the wait for one is over, or
the gang has none (R139, R141). -/
def State.stopsAt (s : State) (g : Gang) (p : Path) : Bool :=
  match g.stop with
  | .asked c =>
    p.run.isNone && g.trapPend.isNone &&
    (g.core.isSome || c == 0 || decide (c + 65536 ≤ s.clk.now) || (s.weirTable g).isNone || (s.weirAt g p.pc).isSome)
  | _ => false

/-- What path of a gang could take part in a turn, with its instruction (`none`: it traps). -/
structure Cand where
  path : Path
  instr : Option (Instr × Shape)
  deriving DecidableEq, Repr

def State.candOf (s : State) (k : Nat) (g : Gang) (p : Path) : Option Cand :=
  if !s.open_ g p || s.stopsAt g p then none
  else
    match s.nextOf g p with
    | .wait _ => none
    | .trap _ _ => some ⟨p, none⟩
    | .instr i len w =>
      match i.shape, s.issAt k p len w with
      | some x, some v => if s.blocked k g p i x v then none else some ⟨p, some (i, x)⟩
      | _, _ => none

/-- Path `a` ranks above path `b` (R166). -/
def Path.above (a b : Path) : Bool :=
  if a.run.isSome != b.run.isSome then a.run.isSome
  else if a.run.isNone && decide (32 ≤ a.starve) != decide (32 ≤ b.starve) then decide (32 ≤ a.starve)
  else if Mask.count a.lanes != Mask.count b.lanes then decide (Mask.count b.lanes < Mask.count a.lanes)
  else decide (a.pc.toNat < b.pc.toNat)

/-- Puts a candidate into its rank. -/
def rankIn (c : Cand) : List Cand → List Cand
  | [] => [c]
  | d :: l => if c.path.above d.path then c :: d :: l else d :: rankIn c l

/-- A candidate that is a lane instruction. -/
def Cand.lane (c : Cand) : Bool := (c.instr.map (fun i => i.2.lane)).getD false

/-- The issue group of a gang's candidates: lane instructions of A and B, one uniform instruction (R167, R168). -/
def groupOf (cs : List Cand) : List Mask :=
  match cs.foldl (fun l c => rankIn c l) [] with
  | [] => []
  | [a] => [a.path.lanes]
  | a :: b :: _ =>
    let cls := fun (c : Cand) => (c.instr.map (fun i => i.2.cls)).getD []
    if a.lane && b.lane then
      (if (cls a).any (fun x => (cls b).contains x) then [a.path.lanes] else [a.path.lanes, b.path.lanes])
    else if a.lane then [a.path.lanes, b.path.lanes]
    else if b.lane then [b.path.lanes, a.path.lanes]
    else [a.path.lanes]

/-- An issue clk of a die falls at this clk (R6, R51). -/
def State.issueTick (s : State) (die : Nat) : Bool :=
  let m := s.adm.mhz.getD die 1200
  m == 1200 || s.clk.now == 0 || s.clk.now * m / 1200 != (s.clk.now - 1) * m / 1200

/-- The turn of an issue slot: the first gang after the one it chose last that has a group (R165). -/
def State.slotTurn (s : State) (key : Nat) (gs : List (Nat × Gang)) : Option (Nat × List Mask) :=
  let last := mgetD 0 key s.clk.rr
  let order := gs.filter (fun g => decide (last < g.1)) ++ gs.filter (fun g => decide (g.1 ≤ last))
  order.findSome? (fun g =>
    match groupOf (g.2.paths.filterMap (s.candOf g.1 g.2)) with
    | [] => none
    | l => some (g.1, l))

/-- Counts lanes of one state in a bin of a census (R275, R276): 0 Active, 1 Masked, 2 Predicated off, 3 Absent. -/
def Census.add (c : Census) (cl : Nat) (addr : DWord) (state n : Nat) : Census :=
  if n = 0 then c
  else
    let bin := ((List.range c.ranges.length).find? (fun i => match c.ranges[i]? with
      | some r => decide (r.1.toNat ≤ addr.toNat ∧ addr.toNat < r.2.toNat)
      | none => false)).getD 16
    let key := 128 * (17 * cl + bin) + state
    { c with counts := mput key (mgetD 0 key c.counts + n) c.counts }

/-- The lanes of a path that issues a lane instruction, and those of them whose predicate is true. -/
def State.censusPath (s : State) (k : Nat) (g : Gang) (p : Path) : Mask × Mask :=
  match s.nextOf g p with
  | .instr i len w => match i.shape, s.issAt k p len w with
    | some x, some v => if x.lane then (p.lanes, v.act x.p) else (0, 0)
    | _, _ => (0, 0)
  | _ => (0, 0)

/-- The census of its context counts a turn of a gang's paths (R169, R275): Idle lanes are those of the turns not given. -/
def State.censusTurn (s : State) (k : Nat) (ls : List Mask) : State :=
  match s.gang? k with
  | none => s
  | some g =>
    match mget (s.ctxOf g) s.adm.census with
    | none => s
    | some c0 =>
      if g.core.isSome then s
      else
        let taken := g.paths.filter (fun p => ls.contains p.lanes)
        let first := match taken with
          | [] => 0
          | p :: ps => (ps.foldl (fun (a b : Path) => if b.above a then b else a) p).pc
        let c1 := g.paths.foldl (fun (c : Census) p =>
          let lane := if ls.contains p.lanes then s.censusPath k g p else (0, 0)
          let c1 := c.add g.cluster p.pc 0 (Mask.count lane.2)
          let c2 := c1.add g.cluster p.pc 2 (Mask.count (lane.1 &&& ~~~lane.2))
          if lane.1 = 0 then c2.add g.cluster p.pc 1 (Mask.count p.lanes) else c2) c0
        let c2 := c1.add g.cluster first 3 (32 - Mask.count g.live)
        { s with adm := { s.adm with census := mput (s.ctxOf g) c2 s.adm.census } }

/-- Notes for a gang's paths which of them issue at this turn (R166). -/
def Gang.noteTurn (g : Gang) (ls : List Mask) : Gang :=
  { g with paths := g.paths.map (fun p => if ls.contains p.lanes then { p with starve := 0 } else { p with starve := p.starve + 1 }) }

/-- The slots that hold gangs, ascending. -/
def State.slots (s : State) : List Nat :=
  (s.work.gangs.foldl (fun (m : Map Unit) g => mput g.2.slotKey () m) []).map Prod.fst

/-- Gives out the turns of this clk. -/
def State.giveTurns (s : State) : State :=
  s.slots.foldl (fun s key =>
    if s.clk.now < mgetD 0 key s.clk.slotBusy then s
    else
      let gs := s.work.gangs.filter (fun g => g.2.slotKey == key && s.issues g.2)
      match gs with
      | [] => s
      | g0 :: _ =>
        if s.issueTick g0.2.die then
          match s.slotTurn key gs with
          | none => s
          | some (k, ls) =>
            let s1 := (s.censusTurn k ls).modGang k (fun g => g.noteTurn ls)
            { s1 with clk := { s1.clk with
              rr := mput key k s1.clk.rr
              turns := s1.clk.turns ++ ls.map (fun l => ⟨k, l⟩) } }
        else s) s

/-- The rows that the paths of protected teams wait for are restored next (R266). -/
def State.wantTick (s : State) : State :=
  s.work.gangs.foldl (fun (s : State) y =>
    if (s.unrestored y.1 y.2) = [] then s
    else y.2.paths.foldl (fun (s : State) p => match s.nextOf y.2 p with
      | .instr i _ _ => match i.shape with
        | some x => match s.wantedRows y.1 y.2 i x with
          | [] => s
          | l => s.wantRows y.1 y.2 l
        | none => s
      | _ => s) s) s

/-- Paths whose next word needs a walk wait for it (R88). -/
def State.fetchAll (s : State) : State :=
  s.work.gangs.foldl (fun s g =>
    if s.issues g.2 then
      g.2.paths.foldl (fun s p =>
        if s.open_ g.2 p then
          match s.nextOf g.2 p with
          | .wait a => s.awaitFetch g.1 g.2 p.lanes a ((p.run.map Run.hdr).getD 0)
          | _ => s
        else s) s
    else s) s

end Sys2Proof.Machine
end

