-- ==== Sys2Proof/Machine/Runs.lean ====
section
/-! DEFINITION. Runs: RUNB and RUNE, the paths that leave a run, the regroup windows they open (R173, R180 to R186, R263, R374,
R383, R418). -/

namespace Sys2Proof.Machine

/-- The interval of a protected team closes when the RUNB of a run that holds a closing instruction issues (R263). -/
def State.runbClose (s : State) (x : Iss) (n : Nat) : State :=
  if (s.prot? x.g.team).isSome && s.runCloses x.g x.ctx n (x.pc + 4) then
    (s.closeBy x none).modGang x.k (fun g => g.modPath x.path.lanes (fun p => { p with run := p.run.map (fun r => { r with closes := true }) }))
  else s

/-- The address of a word of a run that a RUNB first fetches and that is not there yet (R88, R180). -/
def State.runbAwaits (s : State) (g : Gang) (p : Path) : Instr → Option DWord
  | .runb n va k =>
    if p.run.isSome ∨ n.toNat = 0 ∨ 24 < n.toNat ∨ 8 < k.toNat ∨ 112 < va.toNat + k.toNat then none
    else
      match s.scanRun g (s.ctxOf g) n.toNat va.toNat k.toNat (n.toNat + 1) 0 (p.pc + 4) with
      | .fetch (.miss page) _ a => if (s.fetchCause g page).isSome then none else some a
      | .fetch (.cause c) _ a => if bounces c then some a else none
      | _ => none
  | _ => none

def execRunb (n : BitVec 5) (va : BitVec 7) (k : BitVec 4) (s : State) : Host.Outcome State Fault Refusal :=
  s.issue fun x =>
    let n := n.toNat
    let va := va.toNat
    let k := k.toNat
    if x.run ≠ 0 ∨ n = 0 ∨ 24 < n ∨ 8 < k ∨ 112 < va + k then s.trap x.k x.path.lanes x.pc 0x0005
    else
      match s.scanRun x.g x.ctx n va k (n + 1) 0 (x.pc + 4) with
      | .ok => (s.openRun x n va k).runbClose x n
      | .bad c pc => (s.openRun x n va k).trap x.k x.path.lanes pc c
      | .fetch (.miss page) pc a =>
        match s.fetchCause x.g page with
        | some c => ((s.openRun x n va k).trapAccess x.k x.path.lanes pc c 3 a x.path.lanes).fetchForget x.g pc
        | none => s.awaitFetch x.k x.g x.path.lanes a x.pc
      | .fetch (.cause c) pc a =>
        if bounces c then s.awaitFetch x.k x.g x.path.lanes a x.pc
        else (s.openRun x n va k).trapAccess x.k x.path.lanes pc c 3 a x.path.lanes
      | .fetch (.word _) pc _ => (s.openRun x n va k).trap x.k x.path.lanes pc 0x0001

/-- The paths that leave a run at its RUNE: branched lanes at their targets, ended lanes nowhere, the others behind it. -/
def leaveRun (r : Run) (p : Path) (next : DWord) : List Path :=
  let taken := r.branch.foldl (fun m b => m ||| b.1) 0
  let stay := p.lanes &&& ~~~taken &&& ~~~r.exits
  let q := fun (m : Mask) (t : DWord) => ({ p with pc := t, lanes := m, run := none, wait := .none, starve := 0, hold := 0 } : Path)
  (r.branch.map (fun b => q b.1 b.2) ++ [q stay next]).filter (fun p => p.lanes ≠ 0)

/-- A request of a gang stands in its cistern: a part that has bounced and not been issued again, or an uncounted request that waits
(R207, R208). -/
def State.inCistern (s : State) (k : Nat) (g : Gang) : Bool :=
  s.mem.reqs.any (fun r => r.2.gang == k && r.2.parts.any (fun p => match p.st with
    | .cistern _ _ _ => true
    | .woken _ => true
    | _ => false)) ||
  (match g.uncounted with
    | some id => (mget id s.work.uncs).any (fun u => u.ent.btime != 0)
    | none => false)

/-- A gang takes part in regrouping (R173): all its live lanes on this path, counters 0, no cistern entry, no SFU result. -/
def State.mayRegroup (s : State) (k : Nat) (g : Gang) (lanes : Mask) : Bool :=
  decide (g.live = lanes) && g.ops == [] && !s.inCistern k g && g.sfu == 0 && g.trapPend.isNone && g.core.isNone

/-- The gang opens or joins a regroup window at an LBR.rg address (R173). -/
def State.joinWindow (s : State) (k : Nat) (g : Gang) (addr : DWord) (lg : BitVec 8) (lq : BitVec 7) : State :=
  let w := s.work
  match w.windows.find? (fun x => x.cluster == g.cluster && x.team == g.team && x.addr == addr) with
  | some _ => { s with work := { w with windows := w.windows.map (fun x =>
      if x.cluster = g.cluster ∧ x.team = g.team ∧ x.addr = addr then { x with gangs := x.gangs ++ [k] } else x) } }
  | none =>
    let s1 := { s with work := { w with windows := w.windows ++ [(⟨g.cluster, g.team, addr, s.clk.now + 64, [k], lg, lq⟩ : Window)] } }
    s1.sched (s.clk.now + 64) .regroupWindowEnd g.cluster

/-- A recording or replay session covers the gang's launch (R281). -/
def State.inSession (s : State) (g : Gang) : Bool :=
  match s.team? g.team with
  | none => false
  | some t => match t.src with
    | .launch lid => ((mget lid s.work.launches).map (fun l => l.sess.isSome)).getD false
    | .task _ => false

/-- The address of the last instruction of a run that ends at `pc` with LBR.rg: the word pair before RUNE. -/
def lbrRgAddr (pc : DWord) : DWord := pc - 8

/-- The path of a run leaves it at RUNE: its range is published (R185), its lanes go to their targets (R180), a run that ends with
LBR.rg may wait for regrouping (R173). -/
def State.runeLeave (s : State) (x : Iss) (r : Run) (va k : Nat) : State :=
  match s.gang? x.k with
  | none => s
  | some g =>
    let range := (List.range k).map (fun i => va + i)
    let g0 := g.closeRun r.uid
    let pub := range.filter (fun n => (s.vWaits x.k g0).contains n)
    let ps := g.paths.flatMap (fun p => if p.lanes = x.path.lanes then leaveRun r p (x.pc + BitVec.ofNat 64 (4 * x.len)) else [p])
    let g1 := { g0 with paths := ps, pub := g.pub ++ pub.filter (fun n => !g.pub.contains n) }
    if ps = [] then s.setGang x.k (g1.finish x.pc)
    else
      match r.regroup with
      | none => s.setGang x.k g1
      | some l =>
        if s.mayRegroup x.k g x.path.lanes && !s.inSession g then
          let g2 := { g1 with paths := g1.paths.map (fun p => { p with wait := .regroup (lbrRgAddr x.pc) }) }
          (s.setGang x.k g2).joinWindow x.k g2 (lbrRgAddr x.pc) l.1 l.2
        else s.setGang x.k g1

def execRune (va : BitVec 7) (k : BitVec 4) (s : State) : Host.Outcome State Fault Refusal :=
  s.issue fun x =>
    match x.path.run with
    | none => s.trap x.k x.path.lanes x.pc 0x0005
    | some r =>
      if 8 < k.toNat ∨ 112 < va.toNat + k.toNat then s.trap x.k x.path.lanes x.pc 0x0005
      else
      let s1 := s.runeLeave x r va.toNat k.toNat
      if r.closes then s1.closeGroup x.g.team true else s1

end Sys2Proof.Machine
end

