-- ==== Sys2Proof/Machine/Tensor.lean ====
section
/-! DEFINITION. Tensor descriptor records, the tile address walker, and the blocks that a cluster's engines read and write
(R253, R306, R320 to R323, R336, R484). -/

namespace Sys2Proof.Machine

/-! ## Tensor descriptor records (R320, R322) -/

/-- A record that keeps R320: extents, tile extents and strides by dimension. -/
structure TRec where
  base : DWord
  ndim : Nat
  etype : Nat
  ext : List Nat
  tile : List Nat
  stride : List Nat
  deriving DecidableEq, Repr

/-- A number of `n` bytes at an offset of a record. -/
def numAt (bs : List Byte) (off n : Nat) : Nat := ofBytes ((bs.drop off).take n)

/-- Bytes of a record that must be zero. -/
def zeroAt (bs : List Byte) (off n : Nat) : Bool := ((bs.drop off).take n).all (fun b => b == 0)

/-- Width in bits of a format code's elements. -/
def widthOf (code : Nat) : Nat := ((elemOf code).map Elem.w).getD 8

/-- The product of a list. -/
def prod (l : List Nat) : Nat := l.foldl (· * ·) 1

/-- The record that 256 bytes hold, where they keep R320. Bits [59:57] of BASE are checked apart (R78). -/
def TRec.parse (bs : List Byte) : Option TRec :=
  let nd := numAt bs 8 1
  let et := numAt bs 9 1
  let ks := List.range nd
  let x : TRec := ⟨BitVec.ofNat 64 (numAt bs 0 8), nd, et, ks.map (fun k => numAt bs (0x40 + 12 * k) 4),
    ks.map (fun k => numAt bs (0x44 + 12 * k) 2), ks.map (fun k => numAt bs (0x46 + 12 * k) 6)⟩
  if x.base.toNat % 64 = 0 ∧ 1 ≤ nd ∧ nd ≤ 16 ∧ 1 ≤ et ∧ et ≤ 10 ∧ zeroAt bs 0x0A 54 ∧
      (x.ext.all (fun n => n != 0)) ∧ (x.tile.all (fun n => n != 0)) ∧ x.stride.headD 1 = 0 ∧
      ((x.stride.drop 1).all (fun n => n % 64 == 0)) ∧ zeroAt bs (0x40 + 12 * nd) (192 - 12 * nd) ∧
      prod x.tile * widthOf et ≤ 8 * 2 ^ 24 then some x
  else none

/-- Width in bits of a record's elements. -/
def TRec.w (x : TRec) : Nat := widthOf x.etype

/-- The pointer of the block that holds an element, and the element's bit in that block. -/
def TRec.elemAt (x : TRec) (o : List Nat) : DWord × Nat :=
  let bit := o.headD 0 * x.w
  let off := ((x.stride.drop 1).zip (o.drop 1)).foldl (fun n p => n + p.1 * p.2) (bit / 512 * 64)
  (x.base + BitVec.ofNat 64 off, bit % 512)

/-- An element lies in its dimensions' extents. -/
def TRec.inside (x : TRec) (o : List Nat) : Bool := (o.zip x.ext).all (fun p => decide (p.1 < p.2))

/-- Tiles in each dimension. -/
def TRec.counts (x : TRec) : List Nat := (x.ext.zip x.tile).map (fun p => (p.1 + p.2 - 1) / p.2)

/-- The digits of a number by mixed radix, the first fastest. -/
def digits : Nat → List Nat → List Nat
  | _, [] => []
  | t, n :: l => t % n :: digits (t / n) l

/-- The origin of a tile; `none` where the coordinate names none. -/
def TRec.origin (x : TRec) (t : Nat) : Option (List Nat) :=
  if t < prod x.counts then some (((digits t x.counts).zip x.tile).map (fun p => p.1 * p.2)) else none

/-- Elements of a tile, and its bytes times 8. -/
def TRec.tileLen (x : TRec) : Nat := prod x.tile
def TRec.tileBits (x : TRec) : Nat := x.tileLen * x.w

/-- The place of element `i` of the packed tile at an origin. -/
def TRec.nth (x : TRec) (org : List Nat) (i : Nat) : List Nat := ((digits i x.tile).zip org).map (fun p => p.1 + p.2)

/-! ## Blocks that engines read (R217, R271, R306, R323) -/

/-- What a read gives: a block with its descriptor (`fresh`: the read found it uncorrectable, so that POISON is not recorded; `failed`: the
access failed, and the block is consumed as a poisoned one), or a bounce with cause, key and class; cause 0 when a protected team has rolled
back (R264). -/
inductive EngRead where
  | ok (data : List Byte) (desc : BitVec 16) (fresh failed : Bool)
  | bounce (cause key cls : Nat)
  deriving DecidableEq, Repr

/-- The descriptor of a poisoned block that a failed access is consumed as (R323). -/
def poisonDesc : BitVec 16 := 0x0FF0

/-- An engine's request meets a bouncing cause (R88, R89, R336). -/
def State.engBounce (s : State) (g : Gang) (acc cause : Nat) (ptr runpc : DWord) (write : Bool) : State :=
  (if cause = 0x0102 then s.logGang g cause acc ptr 0 runpc else s).serveCause (s.ctxOf g) (ptrVa ptr) cause write

/-- The buffer that an engine translates through: the walk-ahead TLB of the tile address walker (ACCESS 5), else the die TLB. -/
def Gang.engPlace (g : Gang) (acc : Nat) : Place := if acc = 5 then .walkAhead g.cluster else .die g.die

/-- An engine's request of an operation looks a page up (R85): on a miss the operation waits for the walk of the page (cause 0x0300), unless
that walk has just found no leaf. -/
def State.engPage (s : State) (g : Gang) (id acc : Nat) (ptr : DWord) : Option (Nat × Nat × Nat) × State :=
  let page := pageOf (ptrVa ptr)
  match s.lookup (g.engPlace acc) g.die (s.ctxOf g) page with
  | (some _, s1) => (none, s1)
  | (none, s1) => (if mget id s.work.owalk = some page then none else some (0x0300, page, 2), s1)

/-- The shared queue in which an engine's request to a home would wait (R202, R203): the clk at which it is served, 0 where that is not known,
and the class. A bank in retention serves when it has left it (R273). -/
def State.engQueue (s : State) (g : Gang) (h : Home) (loc : Nat) : Option (Nat × Nat × Nat) × State :=
  let far := s.homeDie h
  let link := mgetD 0 (meshQueue g.die far) s.mem.busy
  let arr := match h with
    | .slice d => s.arrUse (bankArr d loc)
    | .window c => s.arrUse (spArr c)
    | _ => (s.clk.now, s)
  let busy := max arr.1 (mgetD 0 h.queue s.mem.busy)
  if far ≠ g.die ∧ s.clk.now < link then (some (0x02FF, link, 1), s)
  else if s.portDown h then (some (0x02FF, 0, 6), s)
  else if s.clk.now < busy then (some (0x02FF, busy, h.cls), arr.2)
  else (none, arr.2)

/-- A block and its descriptor as a gang's engine sees them: a rival's write set lies over memory, the team's own held writes over
both (R147, R253). -/
def State.engView (s : State) (g : Gang) (ptr : DWord) (b : List Byte × BitVec 16) : List Byte × BitVec 16 :=
  s.teamView g.team s.clk.fresh (blkOf ptr) (match s.rivalOf g, s.speculative g ptr with
    | some v, true => (s.specBlock v (blkOf ptr) b.1, s.specDesc v (blkOf ptr) b.2)
    | _, _ => b)

/-- Operation `id` of a gang reads the block at a pointer. `acc` is the ACCESS of its records. -/
def State.engRead (s : State) (k id acc : Nat) (ptr runpc : DWord) : EngRead × State :=
  match s.gang? k with
  | none => (.ok (List.replicate 64 0) poisonDesc true true, s)
  | some g =>
    match s.engPage g id acc ptr with
    | (some b, s) => (.bounce b.1 b.2.1 b.2.2, s)
    | (none, s) =>
    let ctx := s.ctxOf g
    let failed := fun (s : State) (c : Nat) =>
      ((.ok (List.replicate 64 0) poisonDesc false true : EngRead), (s.logGang g c acc ptr 0 runpc).engFault g)
    match s.access ctx .read ptr with
    | .error c => if bounces c then (.bounce c (pageOf (ptrVa ptr)) 0xFF, s.engBounce g acc c ptr runpc false) else failed s c
    | .ok (leaf, size, a) =>
      match s.engHome g leaf size ptr with
      | none => failed s 0x0109
      | some h =>
      let loc := a / 64
      match s.engQueue g h loc with
      | (some b, s) => (.bounce b.1 b.2.1 b.2.2, s)
      | (none, s) =>
        if leafTagck leaf && ptrTag ptr != s.tagFor g ptr loc then failed s 0x0106
        else
          let (data, _, found, s1) := s.readHome loc ctx (if leafTagck leaf then some (ptrTag ptr) else none)
          let s2 := match found with
            | none => s1
            | some c => (s1.logGang g c acc ptr 0 runpc).consume g acc
          if found.isSome ∧ (s1.prot? g.team).isSome then (.bounce 0 0 0xFF, s2)
          else
            let s3 := if leafPeer leaf = 0 ∧ leafHome leaf ≤ 1 then s2.sliceFill loc ctx (leafHome leaf = 1) s.clk.now else s2
            let seen := s3.engView g ptr (data, s3.descOf loc)
            (.ok seen.1 seen.2 found.isSome false, s3)

/-! ## Blocks that engines write (R147, R163, R245, R246, R248, R253, R337) -/

/-- Operation `id` of a gang writes bytes of the block at a pointer, and its descriptor where there is one; `bo` is the barrier object that
counts the bytes. A bounce, or none: the write has been accepted or held, or has failed, whose bytes count at once (R484). -/
def State.engWrite (s : State) (k id acc : Nat) (ptr runpc : DWord) (data : List (Option Byte)) (desc : Option (BitVec 16))
    (bo : Option DWord) : Option (Nat × Nat × Nat) × State :=
  match s.gang? k with
  | none => (none, s)
  | some g =>
    let ctx := s.ctxOf g
    match s.prot? g.team with
    | some p =>
      let (n, s1) := s.takeFresh
      (none, s1.modTeam g.team (fun t => { t with prot := some { p with held := p.held ++ [⟨p.cur, n, id, k, acc, false, bo, ptr, data, desc⟩] } }))
    | none =>
    match s.engPage g id acc ptr with
    | (some b, s) => (some b, s)
    | (none, s) =>
      let failed := fun (s : State) (c : Nat) => ((none : Option (Nat × Nat × Nat)),
        ((s.logGang g c acc ptr 0 runpc).engFault g).boCount g bo (data.filter Option.isSome).length)
      match s.access ctx .write ptr with
      | .error c => if bounces c then (some (c, pageOf (ptrVa ptr), 0xFF), s.engBounce g acc c ptr runpc true) else failed s c
      | .ok (leaf, size, a) =>
        match s.engHome g leaf size ptr with
        | none => failed s 0x0109
        | some h =>
        let loc := a / 64
        match s.engQueue g h loc with
        | (some b, s) => (some b, s)
        | (none, s) =>
          if leafTagck leaf && !(data.all Option.isSome) && ptrTag ptr != s.tagFor g ptr loc then failed s 0x0106
          else (none, s.engStore g k id acc ptr leaf h loc data desc bo)

/-! ## Records as an operation reads them -/

/-- What an operation finds at a record's address: the record, no record, or a bounce. -/
inductive RecRead where
  | ok (x : TRec)
  | bad
  | bounce (cause key cls : Nat)
  deriving DecidableEq, Repr

/-- Reads blocks from a pointer on, `n` of them; failed ones are marked. -/
def State.engBlocks (s : State) (k id acc : Nat) (runpc : DWord) : Nat → DWord → (Except (Nat × Nat × Nat) (List (List Byte × BitVec 16))) × State
  | 0, _ => (.ok [], s)
  | n + 1, ptr =>
    match s.engRead k id acc ptr runpc with
    | (.bounce c y z, s1) => (.error (c, y, z), s1)
    | (.ok d e _ _, s1) =>
      match s1.engBlocks k id acc runpc n (ptr + 64) with
      | (.error b, s2) => (.error b, s2)
      | (.ok l, s2) => (.ok ((d, e) :: l), s2)

/-- The record at a pointer, read through the walker and checked against R320; bits [59:57] of BASE write ADDRFORM (R78). -/
def State.engRecord (s : State) (k id : Nat) (ptr runpc : DWord) : RecRead × State :=
  if ptr.toNat % 64 ≠ 0 then (.bad, s)
  else
    match s.engBlocks k id 5 runpc 4 ptr with
    | (.error b, s1) => (.bounce b.1 b.2.1 b.2.2, s1)
    | (.ok bs, s1) =>
      if bs.any (fun b => poisoned b.2) then (.bad, s1)
      else
        match TRec.parse (bs.flatMap Prod.fst) with
        | none => (.bad, s1)
        | some x =>
          if ptrOk x.base then (.ok x, s1)
          else match s1.gang? k with
            | none => (.bad, s1)
            | some g => (.bad, s1.logGang g 0x0108 5 x.base 0 runpc)

/-- The value of the element at a bit of a block. -/
def bitsAt (block : List Byte) (bit w : Nat) : Nat := ofBytes ((block.drop (bit / 8)).take ((w + 7) / 8)) / 2 ^ (bit % 8) % 2 ^ w

end Sys2Proof.Machine
end

