-- ==== Sys2Proof/Machine/Matrix.lean ====
section
/-! DEFINITION. The matrix engine: reservation, tile operations, products, outliers and drains (R310 to R312, R316 to R338,
R475 to R479). -/

namespace Sys2Proof

/-- A state takes a pair of slots. -/
def TileState.wide : TileState → Bool
  | .f64 | .i64 => true
  | _ => false

end Sys2Proof

namespace Sys2Proof.Machine

/-! ## The engine of a cluster (R316, R327) -/

/-- An engine that no team holds. -/
def Engine.free : Engine := ⟨none, false, List.replicate 16 ⟨.none, []⟩, [], 0⟩

def State.engine (s : State) (cl : Nat) : Engine := (mget cl s.work.engines).getD Engine.free

def State.setEngine (s : State) (cl : Nat) (e : Engine) : State := { s with work := { s.work with engines := mput cl e s.work.engines } }

/-- A team holds the engine of a cluster, and has not begun to release it. -/
def State.holds (s : State) (cl t : Nat) : Bool := (s.engine cl).holder == some t && !(s.engine cl).releasing

/-- The state of a slot, and the elements of its tile. -/
def tileState (ts : List Tile) (m : Nat) : TileState := (ts.getD m ⟨.none, []⟩).st
def tileData (ts : List Tile) (m : Nat) : Map DWord :=
  (ts.getD (if (tileState ts m).wide then m / 2 * 2 else m) ⟨.none, []⟩).data

/-- A slot, or an even pair, takes a state and elements; a pair that it breaks is dissolved (R327, R478). -/
def tileSet (ts : List Tile) (m : Nat) (st : TileState) (data : Map DWord) : List Tile :=
  let b := m / 2 * 2
  let ts := if (tileState ts m).wide then lset (lset ts b ⟨.none, []⟩) (b + 1) ⟨.none, []⟩ else ts
  if st.wide then lset (lset ts b ⟨st, data⟩) (b + 1) ⟨st, []⟩ else lset ts m ⟨st, data⟩

/-- The slots that an operation on slot `m` in a state touches. -/
def slotsOf (st : TileState) (m : Nat) : List Nat := if st.wide then [m / 2 * 2, m / 2 * 2 + 1] else [m]

/-- The value of a tile's element. -/
def tileValue (st : TileState) (b : DWord) : FVal :=
  match st with
  | .none => .fin false 0 0
  | .f32 => Fmt.f32.decode (b.toNat % 2 ^ 32)
  | .f64 => Fmt.f64.decode b.toNat
  | .i64 => ofInteger b.toInt

/-! ## Reservation (R316, R317, R475, R476) -/

/-- The gangs' tile operations that the engine has not ended. -/
def Engine.opsOf (e : Engine) (gangs : List Nat) : List TileOp := e.ops.filter (fun o => gangs.contains o.gang)

/-- The reservation of a cluster's engine ends: slots become NONE, a protected team's tile snapshot area is freed. -/
def State.engineFree (s : State) (cl : Nat) : State :=
  let e := s.engine cl
  let s1 := s.setEngine cl { Engine.free with kdone := e.kdone }
  match e.holder with
  | none => s1
  | some t => match s1.prot? t with
    | none => s1
    | some p => (s1.areaFree p.tarea).modTeam t (fun tm => { tm with prot := some { p with tarea := (0, 0) } })

def execMres (p : Pred) (qd : Fin 8) (s : State) : Host.Outcome State Fault Refusal :=
  s.uni p fun x =>
    let cl := x.g.cluster
    let t := x.g.team
    let e := s.engine cl
    let clear := fun (s : State) => s.modTeam t (fun tm => { tm with lerr := 0 })
    let out := fun (s : State) (b : Bool) => s.regs x 4 .general [.q qd.val b] []
    if s.holds cl t then out (clear s) true
    else if e.holder.isSome then out s false
    else
      let take := fun (s : State) => clear (s.setEngine cl { Engine.free with holder := some t })
      match s.prot? t with
      | none => out (take s) true
      | some pr => match s.areaTake x.ctx (dieOf cl) (4 * 2 ^ 20) with
        | none => out s false
        | some a => out (take (a.2.modTeam t (fun tm => { tm with prot := some { pr with tarea := a.1 } }))) true

/-- An engine that is being released is free once its team's operations have ended. -/
def State.engineRelease (s : State) (cl : Nat) : State :=
  let e := s.engine cl
  if e.releasing ∧ e.ops = [] then s.engineFree cl else s

/-- A team's release: the engine becomes RELEASING, and free when no operation is left. -/
def State.mrel (s : State) (cl t : Nat) : State :=
  if s.holds cl t then (s.setEngine cl { s.engine cl with releasing := true }).engineRelease cl else s

def execMrel (p : Pred) (s : State) : Host.Outcome State Fault Refusal :=
  s.uni p fun x => (s.mrel x.g.cluster x.g.team).pass x

/-- The code of a tile's state (R334). -/
def tileCode : TileState → Nat
  | .none => 0
  | .f32 => 1
  | .f64 => 2
  | .i64 => 3

/-! ## Issue and the parameter block (R318, R324, R477, R478) -/

/-- A counted tile operation enters its gang's counter, and its writes if it makes any. -/
def Gang.tileIssue (g : Gang) (id : Nat) (writes done : Bool) : Gang :=
  { g with
    reqs := g.reqs + 1
    ops := dropDone 3 (g.ops ++ [⟨id, 3, done⟩])
    writes := if writes then g.writes ++ [⟨id, id, false, 0, false⟩] else g.writes }

/-- The gang that issued a counted operation. -/
def State.opOwner (s : State) (id : Nat) : Option (Nat × Gang) := s.work.gangs.find? (fun g => g.2.ops.any (fun o => o.id == id))

/-- The cistern entry that an operation of the instruction that issues would have (R208); the number of its request is its gang's next. -/
def Iss.opEnt (x : Iss) : OpEnt := ⟨x.pc, x.hdr, x.word, x.run, x.g.reqs + 1, 0, 0xFF, none, none⟩

/-- A tile operation with a parameter block issues. The scratchpad reads the block 20 clk later; an operation of a team without
the engine is refused in the same access. -/
def State.tileIssue (s : State) (p : Pred) (kind : Nat) (a : USrc) : Host.Outcome State Fault Refusal :=
  s.uni p fun x =>
    let o := (x.u a).toNat
    let (id, s1) := s.takeFresh
    let cl := x.g.cluster
    let sp := ((s.team? x.g.team).map Team.spSize).getD 0
    let writes := kind != 1
    if o % 64 ≠ 0 ∨ sp < o + 64 then
      let s2 := (s1.logGang x.g 0x010B 0 (x.u a) 0 x.hdr).modTeam x.g.team (fun t => { t with lerr := 1 })
      (s2.modGang x.k (fun g => g.tileIssue id false true)).pass x
    else
      let s2 := s1.modGang x.k (fun g => g.tileIssue id (writes && s.holds cl x.g.team) false)
      if s.holds cl x.g.team then
        let e := s2.engine cl
        let op : TileOp := ⟨x.k, id, x.runPc, kind, o, [], 0, 0, 0, 0, 0, none, none, x.opEnt, s.clk.now⟩
        ((s2.setEngine cl { e with ops := e.ops ++ [op] }).sched (s.clk.now + 20) .matrixOpComplete cl id 2).pass x
      else (s2.sched (s.clk.now + 20) .matrixOpComplete cl id 3 o).pass x

def execMmaq (p : Pred) (a : USrc) (s : State) : Host.Outcome State Fault Refusal := s.tileIssue p 1 a
def execMdelta (p : Pred) (a : USrc) (s : State) : Host.Outcome State Fault Refusal := s.tileIssue p 2 a
def execMdrain (p : Pred) (a : USrc) (s : State) : Host.Outcome State Fault Refusal := s.tileIssue p 3 a

/-- MZERO (R333, R478): its tile and state stand where other operations have their block. -/
def execMzero (p : Pred) (tile : Fin 16) (st : TileState) (s : State) : Host.Outcome State Fault Refusal :=
  s.uni p fun x =>
    let (id, s1) := s.takeFresh
    let cl := x.g.cluster
    if s.holds cl x.g.team then
      let e := s1.engine cl
      let op : TileOp := ⟨x.k, id, x.runPc, 4, 0, [BitVec.ofNat 8 tile.val, BitVec.ofNat 8 (tileCode st)], 1, 0, 0, 0, 0, none, none, x.opEnt, s.clk.now⟩
      ((s1.setEngine cl { e with ops := e.ops ++ [op] }).modGang x.k (fun g => g.tileIssue id false false)).pass x
    else ((s1.modTeam x.g.team (fun t => { t with lerr := 3 })).modGang x.k (fun g => g.tileIssue id false true)).pass x

/-- Bytes of a team's scratchpad as an engine reads them: beyond SP all ones (R197). -/
def Team.spWord (t : Team) (off : Nat) : Nat := if off + 4 ≤ t.spSize then t.spNum off 4 else 0xFFFFFFFF

/-- STATUS of a refused or ended operation (R334). -/
def statusOf (kdone err : Nat) : Nat := kdone % 2 ^ 24 * 2 ^ 40 + err

/-- STATUS performs as a write of scratchpad: LERR keeps an error; TLC falls when the operation's writes have been acknowledged (R245,
R334). -/
def State.tileStatus (s : State) (cl id off status : Nat) : State :=
  match s.opOwner id with
  | none => s
  | some (k, g) =>
    match s.padWait g.cluster g.team [off / 64] true with
    | (some t, s1) => s1.sched t .matrixOpComplete cl id 1 (status + 2 ^ 64 * off)
    | (none, s1) =>
      (s1.modTeam g.team (fun t =>
        { (t.spPut (off + 0x38) (toBytes 8 status)) with lerr := if status % 16 = 0 then t.lerr else status % 16 })).opEnds k id 3

/-- An operation leaves the engine; its STATUS performs 20 clk later. -/
def State.tileEnd (s : State) (cl : Nat) (op : TileOp) (status : Nat) : State :=
  let e := s.engine cl
  ((s.setEngine cl { e with ops := e.ops.filter (fun o => o.id ≠ op.id), kdone := status / 2 ^ 40 % 2 ^ 24 }).sched (s.clk.now + 20) .matrixOpComplete cl op.id 1
    (status + 2 ^ 64 * op.off)).engineRelease cl

/-- Changes an operation of an engine. -/
def State.modOp (s : State) (cl id : Nat) (f : TileOp → TileOp) : State :=
  let e := s.engine cl
  s.setEngine cl { e with ops := e.ops.map (fun o => if o.id = id then f o else o) }

/-- A cause for which a request waits where it is: the walk of a page, or a shared queue. -/
def stalls (cause : Nat) : Bool := cause == 0x0300 || cause == 0x02FF

/-- An operation stops with its progress (R336): a request of it waits for a walk or in a shared queue, or it bounces into its gang's cistern;
the engine stays reserved. Cause 0 stands for a rollback, which has taken the operation away. -/
def State.tileBounce (s : State) (cl : Nat) (op : TileOp) (b : Nat × Nat × Nat) : State :=
  if b.1 = 0 then s
  else
    let s1 := s.modOp cl op.id (fun o => { o with kdone := op.kdone, status := op.status, version := op.version, start := none })
    if stalls b.1 then s1.opStall op.id b
    else s1.modOp cl op.id (fun o => { o with bounce := some b, ent := o.ent.enter s.clk.now b.2.2 })

/-! ## Checks (R325, R326, R332) -/

/-- K in a K-step, and the period, of a pair of classes and an accumulating format (R325). -/
def stepOf (wa wb accf : Nat) : Option (Nat × Nat) :=
  if accf = 1 then (if wa = 64 ∧ wb = 64 then some (8, 64) else none)
  else
    let narrow := wa = 8 ∧ wb = 8 ∨ wa = 8 ∧ wb = 4 ∨ wa = 4 ∧ wb = 8
    if accf = 0 then
      if wa = 32 ∧ wb = 32 then some (16, 64)
      else if wa = 16 ∧ wb = 16 then some (32, 16)
      else if wa = 4 ∧ wb = 4 then some (128, 16)
      else if narrow then some (64, 16) else none
    else if accf = 2 then
      if wa = 4 ∧ wb = 4 then some (128, 16) else if narrow then some (64, 16) else none
    else none

/-- The block codes that a class accepts (R325). -/
def codesOf (w accf : Nat) : List Nat :=
  if w = 64 then [10] else if w = 32 then [9] else if w = 16 then [7, 8]
  else if w = 8 then (if accf = 2 then [4, 5] else [1, 2, 4, 5])
  else if accf = 2 then [6] else [3, 6]

/-- The state of an accumulating format. -/
def accState : Nat → TileState
  | 0 => .f32
  | 1 => .f64
  | _ => .i64

/-- The code that the down-converter gives (R328). -/
def dcCode : Nat → Nat
  | 0 => 7
  | 1 => 1
  | _ => 4

/-- One operand of a product: its record, the first row, its width, the codes accepted. -/
structure Opd where
  trec : TRec
  row : Nat
  deriving DecidableEq, Repr

/-- Extent of a dimension; 1 for one that the record does not have (R325). -/
def TRec.extOf (x : TRec) (k : Nat) : Nat := x.ext.getD k 1

/-- A flag bit of a byte. -/
def flagAt (bs : List Byte) (off i : Nat) : Bool := numAt bs off 1 / 2 ^ i % 2 == 1

/-- The widths of an MMAQ's operands. -/
def mmaqW (bs : List Byte) (ra rb : Option TRec) : Nat × Nat :=
  (if flagAt bs 3 2 then widthOf (dcCode (numAt bs 5 1)) else (ra.map TRec.w).getD 0, (rb.map TRec.w).getD 0)

/-- The checks of R326 that do not look at tiles. -/
def mmaqOk (bs : List Byte) (ra rb : Option TRec) : Bool :=
  let accf := numAt bs 2 1
  let asrc := flagAt bs 3 2
  let outl := flagAt bs 3 1
  let w := mmaqW bs ra rb
  let ks := numAt bs 0x24 4
  numAt bs 0 1 == 1 && decide (numAt bs 1 1 < 16) && decide (numAt bs 3 1 < 8) && decide (accf ≤ 2) && decide (numAt bs 6 2 < 2 ^ 12) &&
  (accf == 0 || numAt bs 1 1 % 2 == 0) && zeroAt bs 0x2C 12 && rb.isSome && (stepOf w.1 w.2 accf).isSome &&
  decide (1 ≤ ks ∧ ks ≤ 16777216) &&
  (if asrc then decide (numAt bs 4 1 < 16) && decide (numAt bs 5 1 ≤ 2) && numAt bs 8 8 == 0 &&
      ks == (if numAt bs 5 1 = 0 then 4 else 2)
    else numAt bs 4 1 == 0 && ra.isSome) &&
  (if outl then numAt bs 0x28 4 % 4 == 0 && accf != 2 else numAt bs 0x28 4 == 0)

/-- The checks of R326 that look at the tiles as earlier operations have left them. -/
def mmaqTiles (bs : List Byte) (ts : List Tile) : Bool :=
  let d := numAt bs 1 1
  let st := accState (numAt bs 2 1)
  let src := numAt bs 4 1
  let now := tileState ts d
  let lap := (slotsOf (tileState ts src) src).any (fun m => (slotsOf st d).contains m)
  !(flagAt bs 3 2 && lap) && (flagAt bs 3 0 || now == .none || now == st)

/-- The checks of R332 that do not look at tiles. -/
def mdrainOk (bs : List Byte) (rd : Option TRec) : Bool :=
  let mul := numAt bs 4 2
  match rd with
  | none => false
  | some d =>
    numAt bs 0 1 == 3 && decide (numAt bs 1 1 < 16) && numAt bs 2 1 == d.etype && decide (numAt bs 3 1 < 8) &&
    decide (mul < 2 ^ 12) && decide (1 ≤ seE mul ∧ seE mul ≤ 254) && decide (numAt bs 6 2 < 2 ^ 12) &&
    numAt bs 0x14 4 * d.w % 512 == 0 && zeroAt bs 0x18 32

/-- A drained tile of a pair is named by its even slot. -/
def mdrainTiles (bs : List Byte) (ts : List Tile) : Bool :=
  !((tileState ts (numAt bs 1 1)).wide && numAt bs 1 1 % 2 == 1)

/-! ## Operand blocks (R306, R325, R328) -/

/-- What the elements of some operand blocks are, and what reading them records. -/
structure Vals where
  v : List FVal
  pois : Bool
  rsv : Bool
  deriving DecidableEq, Repr

/-- `n` zeros. -/
def Vals.zeros (n : Nat) : Vals := ⟨List.replicate n (.fin false 0 0), false, false⟩

/-- The values of `n` elements of a block from a bit on, read with the codes accepted (R305, R306, R325). `accf` 2 reads integers
without scales; `n8` says whether the operand is N8. `fresh`: the read found the block uncorrectable. -/
def blockVals (etype accf : Nat) (codes : List Nat) (n8 : Bool) (data : List Byte) (desc : BitVec 16) (fresh : Bool) (bit n : Nat) : Vals :=
  let code0 := desc.toNat / 4096
  let se := desc.toNat % 4096
  let code := if code0 = 0 then etype else code0
  let scaled := decide (1 ≤ code0 ∧ code0 ≤ 6)
  let bad := !codes.contains code || (accf == 2 && (code == 5) != n8)
  if seE se = 255 || bad then
    ⟨List.replicate n (if accf = 2 then .fin false 0 0 else .nan false), !fresh, decide (11 ≤ code0) && codes.all (fun c => decide (c ≤ 6))⟩
  else if scaled && seE se == 0 then Vals.zeros n
  else match elemOf code with
    | none => Vals.zeros n
    | some el =>
      ⟨(List.range n).map (fun i =>
        let x := el.value (bitsAt data (bit + i * el.w) el.w)
        if scaled && accf != 2 then (x.mul (seScale se)).1 else x), false, false⟩

/-- Row `i` of an operand in a K-step: the blocks read, elements beyond the extents zero (R322, R325). -/
def State.opdRow (s : State) (op : TileOp) (x : Opd) (accf : Nat) (n8 : Bool) (step kper i : Nat) :
    Except (Nat × Nat × Nat) Vals × State :=
  let o0 := step * kper
  let o1 := x.row + i
  if x.trec.extOf 0 ≤ o0 ∨ x.trec.extOf 1 ≤ o1 then (.ok (Vals.zeros kper), s)
  else
    let at_ := x.trec.elemAt [o0, o1]
    match s.engRead op.gang op.id 5 at_.1 op.pc with
    | (.bounce a b c, s1) => (.error (a, b, c), s1)
    | (.ok data desc fresh _, s1) =>
      let r := blockVals x.trec.etype accf (codesOf x.trec.w accf) n8 data desc fresh at_.2 kper
      (.ok { r with v := r.v.take (x.trec.extOf 0 - o0) ++ List.replicate (kper - (x.trec.extOf 0 - o0)) (.fin false 0 0) }, s1)

/-- `n` rows of an operand from row `i` on. -/
def State.opdRows (s : State) (op : TileOp) (x : Opd) (accf : Nat) (n8 : Bool) (step kper : Nat) :
    Nat → Nat → Except (Nat × Nat × Nat) (List (List FVal) × Bool × Bool) × State
  | 0, _ => (.ok ([], false, false), s)
  | n + 1, i =>
    match s.opdRow op x accf n8 step kper i with
    | (.error b, s1) => (.error b, s1)
    | (.ok r, s1) =>
      match s1.opdRows op x accf n8 step kper n (i + 1) with
      | (.error b, s2) => (.error b, s2)
      | (.ok rs, s2) => (.ok (r.v :: rs.1, r.pois || rs.2.1, r.rsv || rs.2.2), s2)

/-- Whether an operand of an integer product is N8, as the block of its first row at the first K-step decides (R325). -/
def State.opdN8 (s : State) (op : TileOp) (x : Opd) (kblk kper : Nat) : Except (Nat × Nat × Nat) Bool × State :=
  if x.trec.extOf 0 ≤ kblk * kper ∨ x.trec.extOf 1 ≤ x.row then (.ok (x.trec.etype == 5), s)
  else
    match s.engRead op.gang op.id 5 (x.trec.elemAt [kblk * kper, x.row]).1 op.pc with
    | (.bounce a b c, s1) => (.error (a, b, c), s1)
    | (.ok _ desc _ _, s1) => (.ok ((if desc.toNat / 4096 = 0 then x.trec.etype else desc.toNat / 4096) == 5), s1)

/-- The rows of a converted source tile in a K-step, and whether a conversion overflows or is invalid (R328). -/
def tileRows (ts : List Tile) (bs : List Byte) (j kper : Nat) : List (List FVal) × Bool × Bool × Bool :=
  let m := numAt bs 4 1
  let st := tileState ts m
  let data := tileData ts m
  let code := dcCode (numAt bs 5 1)
  let se := numAt bs 6 2
  let accf := numAt bs 2 1
  let res := (List.range 128).map (fun i => (List.range kper).map (fun k =>
    quantGiven code se .rne true (tileValue st (mgetD 0 (128 * i + j * kper + k) data))))
  let desc := BitVec.ofNat 16 (code * 4096 + se)
  let all := res.flatMap id
  let rows := res.map (fun r => match elemOf code with
    | none => []
    | some el =>
      let ok := !(poisoned desc) && (codesOf el.w accf).contains code
      if !ok then List.replicate kper (if accf = 2 then FVal.fin false 0 0 else .nan false)
      else if code ≤ 6 ∧ seE se = 0 then List.replicate kper (.fin false 0 0)
      else r.map (fun x => if code ≤ 6 ∧ accf ≠ 2 then ((el.value x.bits).mul (seScale se)).1 else el.value x.bits))
  (rows, all.any FRes.ovf, all.any FRes.inv, poisoned desc || !(codesOf (widthOf code) accf).contains code)

/-! ## Outliers (R330, R331) -/

/-- The entries of one K-step from an address on: (row, K, residual bits), and the address behind its end entry; else the address of
the entry that is not good. -/
def Team.outliers (t : Team) (kper : Nat) : Nat → Nat → List (Nat × Nat × Nat) → Except Nat (List (Nat × Nat × Nat) × Nat)
  | 0, off, _ => .error off
  | fuel + 1, off, acc =>
    let w := t.spWord off
    if w % 4 = 0 then .ok (acc, off + 4)
    else if w % 4 = 1 ∧ bits w 9 7 < kper then t.outliers kper fuel (off + 4) (acc ++ [(bits w 2 7, bits w 9 7, bits w 16 16)])
    else .error off

/-- The entries of K-step `j` of an operation. -/
def Team.outliersOf (t : Team) (kper : Nat) : Nat → Nat → Except Nat (List (Nat × Nat × Nat) × Nat)
  | 0, off => t.outliers kper (t.spSize / 4 + 2) off []
  | j + 1, off => match t.outliers kper (t.spSize / 4 + 2) off [] with
    | .error x => .error x
    | .ok x => t.outliersOf kper j x.2

/-- A list word read at or beyond SP reads as 0xFFFF_FFFF and records SPADRANGE (R197, R331). -/
def State.outlierRange (s : State) (op : TileOp) (off : Nat) : State :=
  match s.gang? op.gang with
  | none => s
  | some g => match s.team? g.team with
    | none => s
    | some t => if t.spSize < off + 4 then s.logGang g 0x010B 0 (BitVec.ofNat 64 off) 0 op.pc else s

/-! ## Products (R310 to R312, R327) -/

/-- An exact value that is an integer. -/
def FVal.toInt : FVal → Int
  | .fin n m e => signed n (m * 2 ^ e.toNat)
  | _ => 0

/-- The new bits of an accumulator element, INVALID, OVERFLOW. -/
def accNew (st : TileState) (old : DWord) (terms : List FVal) : DWord × Bool × Bool :=
  match st with
  | .i64 => (BitVec.ofInt 64 (old.toInt + terms.foldl (fun (n : Int) v => n + v.toInt) 0), false, false)
  | _ =>
    let f := if st = .f64 then Fmt.f64 else Fmt.f32
    let sum := sumExact terms
    let r := f.arith .rne ((tileValue st old).add .rne sum.1)
    let inv := ((tileValue st old).add .rne sum.1).2
    (BitVec.ofNat 64 r.bits, r.inv || sum.2 || inv, r.ovf)

/-- A K-step is added to every element: the elements after, INVALID, OVERFLOW. -/
def stepAdd (st : TileState) (data : Map DWord) (a b : List (List FVal)) (out : List (Nat × Nat × Nat)) : Map DWord × Bool × Bool :=
  let res := (List.range 16384).map (fun n =>
    let i := n / 128
    let j := n % 128
    let bj := b.getD j []
    let main := ((a.getD i []).zip bj).map (fun p => (p.1.mul p.2).1)
    let extra := (out.filter (fun o => o.1 == i)).map (fun o => ((Fmt.bf16.decode o.2.2).mul (bj.getD o.2.1 (.fin false 0 0))).1)
    (n, accNew st (mgetD 0 n data) (main ++ extra)))
  ((res.filter (fun x => x.2.1 != 0)).map (fun x => (x.1, x.2.1)), res.any (fun x => x.2.2.1), res.any (fun x => x.2.2.2))

/-- The error records of an operation: one lane stands for it (R193, R306). -/
def State.tileErrs (s : State) (op : TileOp) (es : List (Nat × Bool)) : State :=
  es.foldl (fun s e => if e.2 then (match s.gang? op.gang with
    | none => s
    | some g => s.arith op.gang g (if op.ent.run = 0 then op.id else op.ent.run) op.pc e.1 1) else s) s

/-- How an operation's run ends: done, an error, a bounce. -/
inductive TileOut where
  | done
  | err (n : Nat)
  | bounce (b : Nat × Nat × Nat)
  deriving DecidableEq, Repr

/-- The operands of an MMAQ in a K-step of the operation. -/
def State.mmaqRows (s : State) (cl : Nat) (op : TileOp) (ra : Option TRec) (rb : TRec) (kper : Nat) (n8 : Bool × Bool) :
    Except (Nat × Nat × Nat) (List (List FVal) × List (List FVal)) × State :=
  let bs := op.blk
  let accf := numAt bs 2 1
  let step := numAt bs 0x20 4 + op.kdone
  match s.opdRows op ⟨rb, numAt bs 0x1C 4⟩ accf n8.2 step kper 128 0 with
  | (.error b, s1) => (.error b, s1)
  | (.ok rows, s1) =>
    let s2 := s1.tileErrs op [(0x0204, rows.2.1), (0x0205, rows.2.2)]
    match ra with
    | none =>
      let r := tileRows (s2.engine cl).tiles bs op.kdone kper
      (.ok (r.1, rows.1), s2.tileErrs op [(0x0203, r.2.1), (0x0201, r.2.2.1), (0x0204, r.2.2.2)])
    | some x => match s2.opdRows op ⟨x, numAt bs 0x18 4⟩ accf n8.1 step kper 128 0 with
      | (.error b, s3) => (.error b, s3)
      | (.ok ar, s3) => (.ok (ar.1, rows.1), s3.tileErrs op [(0x0204, ar.2.1), (0x0205, ar.2.2)])

/-- K-steps of an MMAQ, at most `n`. -/
def State.mmaqSteps (s : State) (cl : Nat) (ra : Option TRec) (rb : TRec) (kper : Nat) (n8 : Bool × Bool) :
    Nat → TileOp → TileOut × TileOp × State
  | 0, op => (.done, op, s)
  | n + 1, op =>
    let bs := op.blk
    let st := accState (numAt bs 2 1)
    let team := (s.gang? op.gang).bind (fun g => s.team? g.team)
    let out : Except Nat (List (Nat × Nat × Nat) × Nat) := match team, flagAt bs 3 1 with
      | some t, true => t.outliersOf kper op.kdone (numAt bs 0x28 4)
      | _, _ => .ok ([], 0)
    match out with
    | .error off => (.err 2, op, s.outlierRange op off)
    | .ok (out, _) =>
      match s.mmaqRows cl op ra rb kper n8 with
      | (.error b, s1) => (.bounce b, op, s1)
      | (.ok (a, b), s1) =>
        let e := s1.engine cl
        let d := numAt bs 1 1
        let r := stepAdd st (tileData e.tiles d) a b out
        let s2 := (s1.setEngine cl { e with tiles := tileSet e.tiles d st r.1, kdone := op.kdone + 1 }).tileErrs op [(0x0201, r.2.1), (0x0203, r.2.2)]
        s2.mmaqSteps cl ra rb kper n8 n { op with kdone := op.kdone + 1 }

/-- A record that an operation reads again as it runs (R249, R486). -/
def State.opRecord (s : State) (op : TileOp) (off : Nat) : RecRead × State := s.engRecord op.gang op.id (BitVec.ofNat 64 (numAt op.blk off 8)) op.pc

/-- Reads the operand records of an MMAQ: none for a source tile. -/
def State.mmaqRecs (s : State) (op : TileOp) : Except (Nat × Nat × Nat) (Option TRec × Option TRec) × State :=
  let a := if flagAt op.blk 3 2 then (RecRead.bad, s) else s.opRecord op 8
  let b := a.2.opRecord op 0x10
  let get := fun (r : RecRead) => match r with
    | .ok x => some x
    | _ => none
  match a.1, b.1 with
  | .bounce x y z, _ => (.error (x, y, z), a.2)
  | _, .bounce x y z => (.error (x, y, z), b.2)
  | x, y => (.ok (get x, get y), b.2)

/-- An MMAQ runs for at most `n` K-steps. -/
def State.mmaqRun (s : State) (cl : Nat) (op : TileOp) (n : Nat) : TileOut × TileOp × State :=
  match s.mmaqRecs op with
  | (.error b, s1) => (.bounce b, op, s1)
  | (.ok (ra, some rb), s1) =>
    let bs := op.blk
    let w := mmaqW bs ra (some rb)
    match stepOf w.1 w.2 (numAt bs 2 1) with
    | none => (.err 1, op, s1)
    | some (kper, _) =>
      let kblk := numAt bs 0x20 4
      let int := numAt bs 2 1 == 2
      let na := match ra, int with
        | some x, true => s1.opdN8 op ⟨x, numAt bs 0x18 4⟩ kblk kper
        | _, _ => (.ok false, s1)
      let nb := if int then na.2.opdN8 op ⟨rb, numAt bs 0x1C 4⟩ kblk kper else (.ok false, na.2)
      match na.1, nb.1 with
      | .error b, _ => (.bounce b, op, na.2)
      | _, .error b => (.bounce b, op, nb.2)
      | .ok x, .ok y =>
        let e := nb.2.engine cl
        let d := numAt bs 1 1
        let st := accState (numAt bs 2 1)
        -- the first K-step starts from zeros with ZERO; the state is ACCF from here on
        let s2 := if op.kdone = 0 then nb.2.setEngine cl { e with tiles := tileSet e.tiles d st (if flagAt bs 3 0 then [] else tileData e.tiles d) } else nb.2
        s2.mmaqSteps cl ra rb kper (x, y) (min n (numAt bs 0x24 4 - op.kdone)) op
  | (.ok _, s1) => (.err 1, op, s1)

/-! ## Drains (R332) -/

/-- One destination block of a drained row: the data, the descriptor, OVERFLOW, INVALID. -/
def drainBlock (ts : List Tile) (bs : List Byte) (i j0 n : Nat) (inside : Nat) : List Byte × BitVec 16 × Bool × Bool :=
  let m := numAt bs 1 1
  let st := tileState ts m
  let data := tileData ts m
  let code := numAt bs 2 1
  let mul := numAt bs 4 2
  let qsc := numAt bs 6 2
  let sat := flagAt bs 3 0
  let vals := (List.range n).map (fun k => if k < inside then ((tileValue st (mgetD 0 (128 * i + j0 + k) data)).mul (seScale mul)).1
    else FVal.fin false 0 0)
  let w := widthOf code
  let pack := fun (es : List Nat) => toBytes 64 ((es.zip (List.range n)).foldl (fun acc p => acc + p.1 % 2 ^ w * 2 ^ (w * p.2)) 0)
  if 7 ≤ code then
    let rs := vals.map (fun v => match elemOf code with
      | some el => el.ofValue .rne sat v
      | none => { bits := 0 })
    (pack (rs.map FRes.bits), BitVec.ofNat 16 (code * 4096), rs.any FRes.ovf, rs.any FRes.inv)
  else if flagAt bs 3 1 then
    let r := quantBlock code .rne vals
    (pack r.2.1, BitVec.ofNat 16 (code * 4096 + r.1), false, r.2.2.2)
  else
    let rs := vals.map (quantGiven code qsc .rne sat)
    (pack (rs.map FRes.bits), BitVec.ofNat 16 (code * 4096 + qsc), rs.any FRes.ovf, rs.any FRes.inv)

/-- The blocks of a drained row, `n` of them from block `b` on. -/
def State.drainRow (s : State) (cl : Nat) (op : TileOp) (d : TRec) (i : Nat) : Nat → Nat → TileOut × State
  | 0, _ => (.done, s)
  | n + 1, b =>
    let bs := op.blk
    let epb := 512 / d.w
    let o0 := numAt bs 0x14 4 + b * epb
    let o1 := numAt bs 0x10 4 + i
    if d.extOf 0 ≤ o0 ∨ d.extOf 1 ≤ o1 then s.drainRow cl op d i n (b + 1)
    else
      let r := drainBlock (s.engine cl).tiles bs i (b * epb) epb (d.extOf 0 - o0)
      match s.engWrite op.gang op.id 5 (d.elemAt [o0, o1]).1 op.pc (r.1.map some) (some r.2.1) none with
      | (some x, s1) => (.bounce x, s1)
      | (none, s1) => (s1.tileErrs op [(0x0203, r.2.2.1), (0x0201, r.2.2.2)]).drainRow cl op d i n (b + 1)

/-- The rows that a drain writes: those within EXTENT1, when its first column lies within EXTENT0. -/
def drainCount (bs : List Byte) (d : TRec) : Nat :=
  if d.extOf 0 ≤ numAt bs 0x14 4 then 0 else min 128 (d.extOf 1 - numAt bs 0x10 4)

/-- Rows of a drain, at most `n`. -/
def State.drainRows (s : State) (cl : Nat) (d : TRec) : Nat → TileOp → TileOut × TileOp × State
  | 0, op => (.done, op, s)
  | n + 1, op =>
    if drainCount op.blk d ≤ op.kdone then (.done, op, s)
    else
      match s.drainRow cl op d op.kdone (d.w / 4) 0 with
      | (.done, s1) => (s1.setEngine cl { s1.engine cl with kdone := op.kdone + 1 }).drainRows cl d n { op with kdone := op.kdone + 1 }
      | (o, s1) => (o, op, s1)

end Sys2Proof.Machine
end

