-- ==== Sys2Proof/Machine/Reservoir.lean ====
section
/-! DEFINITION. Reservoirs: MDELTA, its record and its watch, RSVINV and RSVQ; and how the engine runs its operations (R164, R329,
R335, R336, R339 to R347, R474, R480, R481). -/

namespace Sys2Proof.Machine

/-! ## Answers of units (R474) -/

/-- The answer of a unit on a die: the die-slice latency of R10. -/
def unitTime (die unit : Nat) : Nat := if die = unit then 140 else 260

/-- The path goes on when the answer has arrived. -/
def State.answered (s : State) (x : Iss) (t : Nat) : State :=
  s.modGang x.k (fun g => (g.goOn x).modPath x.path.lanes (fun p => { p with hold := t }))

/-- The path goes on at the answer, and a Q result lands 4 issue clk after it. -/
def State.answerQ (s : State) (x : Iss) (unit : Nat) (qd : Fin 8) (v : Bool) : State :=
  let t := s.clk.now + unitTime x.g.die unit
  match s.gang? x.k with
  | none => s
  | some g =>
    (s.setGang x.k (g.results x (s.issueFrom g.die t 4) 4 .general [.q qd.val v])).answered x t

/-! ## Uncounted requests and the queues of units (R202, R203, R207, R474) -/

/-- The uncounted request of a gang is over. -/
def State.uncDone (s : State) (k id : Nat) : State :=
  ({ s with work := { s.work with uncs := mdel id s.work.uncs } }).modGang k (fun g => if g.uncounted = some id then { g with uncounted := none } else g)

/-- An uncounted request enters its gang's cistern. -/
def State.uncPut (s : State) (id : Nat) (u : Unc) : State :=
  { s.modGang u.gang (fun g => { g with uncounted := some id }) with work := { (s.modGang u.gang (fun g => { g with uncounted := some id })).work with
    uncs := mput id u s.work.uncs } }

/-- An uncounted request that has been reissued stays in the cistern, with the cause that it has met. -/
def State.uncStay (s : State) (id cause : Nat) : State :=
  { s with work := { s.work with uncs := mmod id (fun u => { u with cause := cause, ent := { u.ent with woken := none } }) s.work.uncs } }

/-- The number of a unit's queue in the table of busy times: 0 compaction units, 1 address-matching tables, 2 scope units, by die. -/
def workQueue (kind die : Nat) : Nat := 2 ^ 41 + 4 * kind + die

/-- Other requests hold the queue of a unit now. -/
def State.workBusy (s : State) (queue : Nat) : Bool := decide (s.clk.now < mgetD 0 queue s.mem.busy)

/-- A request enters the queue of a unit, and bounces when its wait reaches the interval that the queue has now (R202, R204). -/
def State.workEnter (s : State) (id k queue : Nat) (e : OpEnt) : State :=
  let till := s.clk.now + s.sluiceOf (((s.gang? k).map s.ctxOf).getD 0) 7
  (s.uncPut id ⟨k, .issue queue, 0x02FF, 0, { e with till := some (7, till) }⟩).sched till .sluiceBounce id 0 2

/-- An instruction that a unit answers: `f` where the unit's queue takes its request now; else its path waits at issue for the queue, or
for the gang's uncounted request that is under way (R207), and issues again. -/
def State.workGate (s : State) (x : Iss) (kind die : Nat) (f : State → State) : State :=
  if s.workBusy (workQueue kind die) then
    match x.g.uncounted with
    | some id => s.await x (.work id)
    | none =>
      let (id, s1) := s.takeFresh
      (s1.workEnter id x.k (workQueue kind die) x.opEnt).await x (.work id)
  else f s

/-- A path that waits for the queue of a unit looks at it: its request leaves the queue, or is gone from the cistern, and the instruction
issues again. -/
def State.workResume (s : State) (k : Nat) (lanes : Mask) (id : Nat) : State :=
  let go := fun (s : State) => s.modGang k (fun g => { g.modPath lanes (fun p => { p with wait := .none }) with again := g.again ||| lanes })
  match mget id s.work.uncs with
  | none => go s
  | some u => match u.what with
    | .issue queue => if u.ent.btime = 0 ∧ !s.workBusy queue then go (s.uncDone k id) else s
    | _ => s

/-- The die that homes a context's reservoir table. -/
def State.resDie (s : State) (ctx : Nat) (die : Nat) : Nat :=
  match mget ctx s.work.resRoot with
  | some a => paStack a / 3
  | none => die

/-! ## Records (R339, R341, R344, R346) -/

/-- A number put into bytes. -/
def setNum (bs : List Byte) (off n v : Nat) : List Byte := bs.take off ++ toBytes n v ++ bs.drop (off + n)

/-- The number of a record among all contexts. -/
def resKey (ctx idx : Nat) : Nat := ctx * 4096 + idx

/-- OWNER of a context now. -/
def State.ownerWord (s : State) (ctx : Nat) : Nat := ctx % 64 + 64 * (mgetD 0 ctx s.adm.epochs % 2 ^ 26)

/-- A record as a team's operations see it: the update that the team holds lies over it (R253). -/
def State.recFor (s : State) (t ctx idx : Nat) : List Byte :=
  match ((s.prot? t).map Prot.recs).bind (fun l => (l.filter (fun x => x.2.1 == resKey ctx idx)).getLast?) with
  | some x => x.2.2
  | none => s.resRec ctx idx

def recValid (r : List Byte) : Bool := flagAt r 0x14 0

/-- The record of an operation's block and caller matches (R341). -/
def State.recMatches (s : State) (ctx : Nat) (r bs : List Byte) (w : TRec) : Bool :=
  recValid r && numAt r 0 8 == numAt bs 8 8 && numAt r 8 4 == s.ownerWord ctx && numAt r 0x1A 1 == numAt bs 0x30 1 &&
  numAt r 0x1B 1 == numAt bs 0x31 1 && numAt r 0x1C 4 == w.extOf 0 && numAt r 0x20 8 == w.base.toNat &&
  numAt r 0x28 8 == (numAt bs 0x30 1 + 1) * w.stride.getD 1 0 && numAt r 0x30 8 == numAt bs 0x20 8 && numAt r 0x38 8 == numAt bs 0x28 8

/-- The checks of R340. -/
def mdeltaOk (bs : List Byte) (w : Option TRec) : Bool :=
  match w with
  | none => false
  | some w =>
    let k := w.extOf 0
    numAt bs 0 1 == 2 && decide (numAt bs 1 1 < 16) && numAt bs 2 1 != 0 && numAt bs 3 1 != 0 && decide (numAt bs 4 2 < 4096) &&
    decide (1 ≤ numAt bs 6 1 ∧ numAt bs 6 1 ≤ 64) && zeroAt bs 7 1 && zeroAt bs 0x32 6 &&
    w.ndim == 2 && (w.etype == 4 || w.etype == 6) && k % 64 == 0 && decide (64 ≤ k ∧ k ≤ 65536) &&
    decide (numAt bs 0x30 1 + 1 ≤ w.extOf 1) && numAt bs 0x18 8 % 64 == 0 && numAt bs 0x20 8 % 64 == 0 && numAt bs 0x28 8 % 64 == 0

/-! ## The watch (R123, R344) -/

/-- Entries of a die's address-matching table in use: ranges of tasks, runs of watches. -/
def State.tableUsed (s : State) (die : Nat) : Nat :=
  (s.work.watches.filter (fun w => w.die == die)).length +
  (s.work.tasks.map (fun t => if t.2.die = die then (if t.2.rlen = 0 then 0 else 1) + (if t.2.wlen = 0 then 0 else 1) else 0)).foldl (· + ·) 0

/-- Removes a record's watch. -/
def State.watchRemove (s : State) (ctx idx : Nat) : State :=
  { s with work := { s.work with watches := s.work.watches.filter (fun w => !(w.ctx == ctx && w.idx == idx)) } }

/-- Adds a span of blocks to runs of physically contiguous blocks of one die. -/
def addRun (die loc n : Nat) : List (Nat × Nat × Nat) → List (Nat × Nat × Nat)
  | [] => [(die, loc, n)]
  | (d, l, c) :: rest => if rest = [] ∧ d = die ∧ l + c = loc then [(d, l, c + n)] else (d, l, c) :: addRun die loc n rest

/-- The runs of blocks of a range, 64 KiB page by page; `none` where a page does not translate to this device's memory. -/
def State.watchRuns (s : State) (ctx : Nat) : Nat → Nat → Nat → List (Nat × Nat × Nat) → Option (List (Nat × Nat × Nat))
  | 0, _, _, acc => some acc
  | fuel + 1, va, len, acc =>
    if len = 0 then some acc
    else
      let n := min len (65536 - va % 65536)
      match s.leafOf ctx va with
      | .leaf e size =>
        if leafPeer e ≠ 0 ∨ !paOk (leafAddr e size va) then none
        else
          let pa := leafAddr e size va
          s.watchRuns ctx fuel (va + n) (len - n) (addRun (paStack pa / 3) (pa / 64) (n / 64) acc)
      | _ => none

/-- A claim installs its watch, or does not where the tables lack entries or a page does not translate: whether it did. -/
def State.watchInstall (s : State) (ctx idx : Nat) (ptr : DWord) (len : Nat) : Bool × State :=
  let s1 := s.watchRemove ctx idx
  match s1.watchRuns ctx (len / 65536 + 2) (ptrVa ptr) len [] with
  | none => (false, s1)
  | some runs =>
    if (List.range 4).all (fun d => decide (s1.tableUsed d + (runs.filter (fun r => r.1 == d)).length ≤ 2048)) then
      (true, { s1 with work := { s1.work with watches := s1.work.watches ++ runs.map (fun r => (⟨r.1, ctx, idx, r.2.1, r.2.2⟩ : Watch)) } })
    else (false, s1)

/-! ## What MDELTA reads (R340) -/

/-- The bits of NaN that stand for the elements of a poisoned block. -/
def nan32 : Nat := 0x7FC00000

/-- F32 values from a pointer on, `n` blocks of 16; whether a block was poisoned. -/
def State.f32Blocks (s : State) (op : TileOp) : Nat → DWord → Except (Nat × Nat × Nat) (List Nat) × State
  | 0, _ => (.ok [], s)
  | n + 1, ptr =>
    match s.engRead op.gang op.id 5 ptr op.pc with
    | (.bounce a b c, s1) => (.error (a, b, c), s1)
    | (.ok data desc fresh _, s1) =>
      let code := desc.toNat / 4096
      let bad := poisoned desc || !(code == 0 || code == 9)
      let s2 := s1.tileErrs op [(0x0204, bad && !fresh)]
      match s2.f32Blocks op n (ptr + 64) with
      | (.error b, s3) => (.error b, s3)
      | (.ok l, s3) => (.ok ((List.range 16).map (fun i => if bad then nan32 else numAt data (4 * i) 4) ++ l), s3)

/-- Row `n` of W from block `b` on: the integers, `none` where a block is consumed as poisoned. -/
def State.wBlocks (s : State) (op : TileOp) (w : TRec) (se n : Nat) : Nat → Nat → Except (Nat × Nat × Nat) (List (Option Int)) × State
  | 0, _ => (.ok [], s)
  | m + 1, b =>
    let epb := 512 / w.w
    match s.engRead op.gang op.id 5 (w.elemAt [b * epb, n]).1 op.pc with
    | (.bounce x y z, s1) => (.error (x, y, z), s1)
    | (.ok data desc fresh _, s1) =>
      let bad := poisoned desc || desc.toNat / 4096 != w.etype || desc.toNat % 4096 != se
      let s2 := s1.tileErrs op [(0x0204, bad && !fresh)]
      match s2.wBlocks op w se n m (b + 1) with
      | (.error e, s3) => (.error e, s3)
      | (.ok l, s3) => (.ok ((List.range epb).map (fun i => if bad then none
          else if seE se = 0 then some 0 else some (intOf w.w true (bitsAt data (i * w.w) w.w))) ++ l), s3)

/-- The first `n` rows of W. -/
def State.wRows (s : State) (op : TileOp) (w : TRec) (se : Nat) : Nat → Nat → Except (Nat × Nat × Nat) (List (List (Option Int))) × State
  | 0, _ => (.ok [], s)
  | m + 1, n =>
    let epb := 512 / w.w
    match s.wBlocks op w se n ((w.extOf 0 + epb - 1) / epb) 0 with
    | (.error e, s1) => (.error e, s1)
    | (.ok r, s1) =>
      match s1.wRows op w se m (n + 1) with
      | (.error e, s2) => (.error e, s2)
      | (.ok l, s2) => (.ok (r.take (w.extOf 0) :: l), s2)

/-- The SE12 of W's first block. -/
def State.wScale (s : State) (op : TileOp) (w : TRec) : Except (Nat × Nat × Nat) Nat × State :=
  match s.engRead op.gang op.id 5 w.base op.pc with
  | (.bounce a b c, s1) => (.error (a, b, c), s1)
  | (.ok _ desc _ _, s1) => (.ok (desc.toNat % 4096), s1)

/-- What an MDELTA has read. -/
structure MIn where
  n : Nat
  c : Nat
  k : Nat
  se : Nat
  w : List (List (Option Int))
  x : List Nat
  xp : List Nat
  yp : List Nat
  deriving DecidableEq, Repr

/-- Reads the data of an MDELTA: the refresh path reads no X_prev and no Y_prev (R342). -/
def State.mdeltaRead (s : State) (op : TileOp) (w : TRec) (delta : Bool) : Except (Nat × Nat × Nat) MIn × State :=
  let bs := op.blk
  let n := numAt bs 0x30 1 + 1
  let c := numAt bs 0x31 1 + 1
  let k := w.extOf 0
  match s.wScale op w with
  | (.error b, s1) => (.error b, s1)
  | (.ok se, s1) =>
    match s1.wRows op w se n 0 with
    | (.error b, s2) => (.error b, s2)
    | (.ok ws, s2) =>
      match s2.f32Blocks op (k * c / 16) (BitVec.ofNat 64 (numAt bs 0x18 8)) with
      | (.error b, s3) => (.error b, s3)
      | (.ok x, s3) =>
        if !delta then (.ok ⟨n, c, k, se, ws, x, [], []⟩, s3) else
        match s3.f32Blocks op (k * c / 16) (BitVec.ofNat 64 (numAt bs 0x20 8)) with
        | (.error b, s4) => (.error b, s4)
        | (.ok xp, s4) =>
          match s4.f32Blocks op ((n * c + 15) / 16) (BitVec.ofNat 64 (numAt bs 0x28 8)) with
          | (.error b, s5) => (.error b, s5)
          | (.ok yp, s5) => (.ok ⟨n, c, k, se, ws, x, xp, yp⟩, s5)

/-! ## The two paths (R342, R343) -/

/-- What a path gives: Y and X_prev as F32 bits, saturated blocks, INVALID, OVERFLOW. -/
structure MOut where
  y : List Nat
  xp : List Nat
  sat : Nat
  inv : Bool
  ovf : Bool
  deriving DecidableEq, Repr

/-- Row `c` of a C by K array. -/
def rowAt (l : List Nat) (k c : Nat) : List Nat := (l.drop (k * c)).take k

/-- One refreshed element: groups of 16 K, each rounded once. -/
def refreshElem (sc : FVal) : Nat → List (Option Int) → List Nat → FRes → FRes
  | 0, _, _, y => y
  | m + 1, w, x, y =>
    let terms := ((w.take 16).zip (x.take 16)).map (fun p => match p.1 with
      | none => FVal.nan false
      | some v => (((ofInteger v).mul sc).1.mul (Fmt.f32.decode p.2)).1)
    let sum := sumExact terms
    let a := (Fmt.f32.decode y.bits).add .rne sum.1
    let r := Fmt.f32.arith .rne a
    refreshElem sc m (w.drop 16) (x.drop 16) { bits := r.bits, inv := y.inv || r.inv || sum.2, ovf := y.ovf || r.ovf }

/-- The scale of W; a poisoned or zero scale does not enter a product. -/
def wScaleVal (se : Nat) : FVal := if seE se = 0 ∨ seE se = 255 then .fin false 1 0 else seScale se

/-- The refresh path. -/
def refreshPath (i : MIn) : MOut :=
  let rs := (List.range (i.n * i.c)).map (fun m =>
    refreshElem (wScaleVal i.se) (i.k / 16) (i.w.getD (m / i.c) []) (rowAt i.x i.k (m % i.c)) { bits := 0 })
  ⟨rs.map FRes.bits, i.x, 0, rs.any FRes.inv, rs.any FRes.ovf⟩

/-- The differences of a column. -/
def deltaD (i : MIn) (c : Nat) : List Nat :=
  ((rowAt i.x i.k c).zip (rowAt i.xp i.k c)).map (fun p => (Fmt.f32.sub .rne p.1 p.2).bits)

/-- A difference forces a refresh (R343). -/
def deltaBad (i : MIn) : Bool := (List.range i.c).any (fun c => (deltaD i c).any (fun b => !(Fmt.f32.decode b).isFinite))

/-- One column of the delta path: the block exponents, the quantised differences with whether each was clamped. -/
def deltaQ (i : MIn) (c : Nat) : List Nat × List (List (Int × Bool)) :=
  let d := deltaD i c
  let blk := fun (b : Nat) => ((d.drop (64 * b)).take 64).map Fmt.f32.decode
  let es := (List.range (i.k / 64)).map (fun b => quantE 4 (blk b))
  let emax := es.foldl max 0
  let es := es.map (fun e => if e = 0 then 0 else max e (emax - 32))
  (es, (List.range (i.k / 64)).map (fun b =>
    let e := es.getD b 0
    (blk b).map (fun v => if e = 0 then (0, false)
      else let r := roundSat 4 .rne (v.scaleDown ((e : Int) - 127)); (intOf 8 true r.1, r.2))))

/-- Column `c` of the delta path: Y of the column, its X_prev, its saturated blocks, INVALID, OVERFLOW. -/
def deltaCol (i : MIn) (satth c : Nat) : MOut :=
  let q := deltaQ i c
  let xp := rowAt i.xp i.k c
  let yOld := (List.range i.n).map (fun n => i.yp.getD (i.c * n + c) 0)
  if q.1.all (fun e => e == 0) then ⟨yOld, xp, 0, false, false⟩
  else
    let eref := (q.1.filter (fun e => e != 0)).foldl min 255
    let sat := (q.2.filter (fun b => decide (satth ≤ (b.filter Prod.snd).length))).length
    let qs := q.2.flatMap (fun b => b.map Prod.fst)
    let ys := (List.range i.n).map (fun n =>
      let w := i.w.getD n []
      let s := (List.range (i.k / 64)).foldl (fun (acc : Int) b =>
        let e := q.1.getD b 0
        if e = 0 then acc
        else acc + 2 ^ (e - eref) * (((w.drop (64 * b)).take 64).zip ((qs.drop (64 * b)).take 64)).foldl (fun (m : Int) p => m + (p.1.getD 0) * p.2) 0) 0
      let t := Fmt.f32.round .rne (((FVal.fin (decide (s < 0)) s.natAbs ((eref : Int) - 127)).mul (wScaleVal i.se)).1)
      let y := Fmt.f32.add .rne (yOld.getD n 0) t.bits
      ({ bits := y.bits, inv := t.inv || y.inv, ovf := t.ovf || y.ovf } : FRes))
    let xs := (List.range i.k).map (fun k =>
      let e := q.1.getD (k / 64) 0
      let v := qs.getD k 0
      Fmt.f32.arith .rne ((Fmt.f32.decode (xp.getD k 0)).add .rne (.fin (decide (v < 0)) v.natAbs ((e : Int) - 127))))
    ⟨ys.map FRes.bits, xs.map FRes.bits, sat, ys.any FRes.inv || xs.any FRes.inv, ys.any FRes.ovf || xs.any FRes.ovf⟩

/-- The delta path: columns computed apart. -/
def deltaPath (i : MIn) (satth : Nat) : MOut :=
  let cols := (List.range i.c).map (deltaCol i satth)
  let y := (List.range (i.n * i.c)).map (fun m => ((cols.getD (m % i.c) ⟨[], [], 0, false, false⟩).y.getD (m / i.c) 0))
  ⟨y, cols.flatMap MOut.xp, cols.foldl (fun n o => n + o.sat) 0, cols.any MOut.inv, cols.any MOut.ovf⟩

/-! ## The end of an MDELTA (R341 to R347) -/

/-- The first block from a pointer on whose write would wait or bounce; a block with nothing to write is passed over. -/
def State.probe (s : State) (op : TileOp) : Nat → DWord → List (Option Nat) → Option (Nat × Nat × Nat) × State
  | 0, _, _ => (none, s)
  | n + 1, ptr, l =>
    match s.gang? op.gang with
    | none => (none, s)
    | some g =>
      if (s.prot? g.team).isSome then (none, s)
      else if (l.take 16).all Option.isNone then s.probe op n (ptr + 64) (l.drop 16)
      else match s.engPage g op.id 5 ptr with
        | (some b, s1) => (some b, s1)
        | (none, s1) =>
          match s1.access (s1.ctxOf g) .write ptr with
          | .error c => if bounces c then (some (c, pageOf (ptrVa ptr), 0xFF), s1.engBounce g 5 c ptr op.pc true) else s1.probe op n (ptr + 64) (l.drop 16)
          | .ok (leaf, size, a) => match (s1.engHome g leaf size ptr).map (fun h => s1.engQueue g h (a / 64)) with
            | some (some b, s2) => (some b, s2)
            | some (none, s2) => s2.probe op n (ptr + 64) (l.drop 16)
            | none => s1.probe op n (ptr + 64) (l.drop 16)

/-- Writes F32 values from a block-aligned pointer on, whose pages `probe` has just looked up. -/
def State.f32Write (s : State) (op : TileOp) : Nat → DWord → List (Option Nat) → State
  | 0, _, _ => s
  | n + 1, ptr, l =>
    if (l.take 16).all Option.isNone then s.f32Write op n (ptr + 64) (l.drop 16)
    else
    let bytes := (l.take 16).flatMap (fun v => match v with
      | some v => (toBytes 4 v).map some
      | none => List.replicate 4 none)
    let s0 := { s with work := { s.work with owalk := mput op.id (pageOf (ptrVa ptr)) s.work.owalk } }
    (s0.engWrite op.gang op.id 5 ptr op.pc (bytes ++ List.replicate (64 - bytes.length) none) none none).2.f32Write op n (ptr + 64) (l.drop 16)

/-- Stores a record, or holds it with a protected team's interval (R337). -/
def State.recStore (s : State) (t key : Nat) (r : List Byte) : State :=
  match s.prot? t with
  | none => { s with work := { s.work with res := mput key r s.work.res } }
  | some p => s.modTeam t (fun tm => { tm with prot := some { p with recs := p.recs ++ [(p.cur, key, r)] } })

/-- A refreshed or claimed record. -/
def recRefresh (r bs : List Byte) (w : TRec) (owner version vseen : Nat) (nowatch : Bool) : List Byte :=
  let base := (bs.drop 8).take 8 ++ toBytes 4 owner ++ toBytes 4 version ++ toBytes 4 vseen ++
    toBytes 1 (1 + (if nowatch then 2 else 0)) ++ toBytes 1 0 ++ (bs.drop 2).take 1 ++ toBytes 1 0 ++ (bs.drop 3).take 1 ++ (bs.drop 6).take 1 ++
    (bs.drop 0x30).take 2 ++ toBytes 4 (w.extOf 0) ++ toBytes 8 w.base.toNat ++ toBytes 8 ((numAt bs 0x30 1 + 1) * w.stride.getD 1 0) ++
    (bs.drop 0x20).take 8 ++ (bs.drop 0x28).take 8
  base ++ r.drop 64

/-- The elements of Y that the tile receives. -/
def tileY (o : MOut) (n c : Nat) : List (Nat × DWord) :=
  (List.range 16384).filterMap (fun m =>
    if m / 128 < n ∧ m % 128 < c then some (m, BitVec.ofNat 64 (o.y.getD (c * (m / 128) + m % 128) 0)) else none)

/-- The delta path is taken, unless R343 finds BADDX (R341). -/
def State.mdeltaDelta (s : State) (g : Gang) (op : TileOp) (w : TRec) : Bool :=
  let ctx := s.ctxOf g
  let r := s.recFor g.team ctx (numAt op.blk 4 2)
  op.status != 1 && (s.rivalOf g).isNone && s.recMatches ctx r op.blk w && !(flagAt r 0x14 1) &&
  op.version == numAt r 0x10 4 && decide (numAt r 0x15 1 < numAt r 0x16 1) && decide (numAt r 0x17 1 < numAt r 0x18 1)

/-- K-steps of an MDELTA over all its columns (R349). -/
def mdeltaSteps (bs : List Byte) (w : TRec) (delta : Bool) : Nat :=
  (numAt bs 0x31 1 + 1) * (w.extOf 0 / (if delta then (if w.w = 4 then 128 else 64) else 16))

/-- Clk of a K-step of each path: a group in 64 clk, 64 elements in 16 clk, of which a K-step of I4 weights holds two (R342, R343, R349). -/
def mdeltaRate (w : TRec) (delta : Bool) : Nat := if delta then (if w.w = 4 then 32 else 16) else 64

/-- Clk of the computation of an MDELTA. -/
def mdeltaClk (bs : List Byte) (w : TRec) (delta : Bool) : Nat :=
  (numAt bs 0x31 1 + 1) * (if delta then w.extOf 0 / 64 * 16 else w.extOf 0 / 16 * 64)

/-- An MDELTA has run: the path, Y, X_prev, the record, STATUS. `err` 1 marks a claim whose watch is not installed, `status` 1 a
claim. -/
def State.mdeltaEnd (s : State) (cl : Nat) (op : TileOp) : State :=
  match s.opRecord op 0x10, s.gang? op.gang with
  | (.bounce x y z, s1), _ => s1.tileBounce cl op (x, y, z)
  | (.ok w, s1), some g =>
    match s1.mdeltaRead op w (s1.mdeltaDelta g op w) with
    | (.error b, s2) => s2.tileBounce cl op b
    | (.ok i, s2) =>
      let bs := op.blk
      let ctx := s2.ctxOf g
      let idx := numAt bs 4 2
      let key := resKey ctx idx
      let r := s2.recFor g.team ctx idx
      let rival := (s2.rivalOf g).isSome
      let claim := op.status == 1
      let fits := s2.recMatches ctx r bs w
      let first := claim || !fits
      let nowatch := if claim then op.err == 1 else fits && flagAt r 0x14 1
      let stale := !first && op.version != numAt r 0x10 4
      let agemax := !first && decide (numAt r 0x16 1 ≤ numAt r 0x15 1)
      let driftmax := !first && decide (numAt r 0x18 1 ≤ numAt r 0x17 1)
      let baddx := !(rival || first || nowatch || stale || agemax || driftmax) && deltaBad i
      let refresh := rival || first || nowatch || stale || agemax || driftmax || baddx
      let o := if refresh then refreshPath i else deltaPath i (numAt r 0x19 1)
      let yptr := BitVec.ofNat 64 (numAt bs 0x28 8)
      let xptr := BitVec.ofNat 64 (numAt bs 0x20 8)
      let yn := (i.n * i.c + 15) / 16
      let xn := i.k * i.c / 16
      -- a column that the delta path leaves unchanged writes nothing
      let idle := (List.range i.c).map (fun c => !refresh && (deltaQ i c).1.all (fun e => e == 0))
      let ys := (List.range (i.n * i.c)).map (fun m => if idle.getD (m % i.c) false then none else some (o.y.getD m 0))
      let xs := (List.range (i.k * i.c)).map (fun m => if idle.getD (m / i.k) false then none else some (o.xp.getD m 0))
      let p1 := s2.probe op yn yptr ys
      let p2 := if rival then (none, p1.2) else p1.2.probe op xn xptr xs
      match p1.1, p2.1 with
      | some b, _ => p1.2.tileBounce cl op b
      | none, some b => p2.2.tileBounce cl op b
      | none, none =>
        let s3 := p2.2.tileErrs op [(0x0201, o.inv), (0x0203, o.ovf)]
        let y := s3.f32Write op yn yptr ys
        let x := if rival then y else y.f32Write op xn xptr xs
        let e := x.engine cl
        let d := numAt bs 1 1
        -- every other element of the tile holds +0 (R348)
        let data := (tileY o i.n i.c).foldl (fun m p => mset 0 p.1 p.2 m) []
        let steps := mdeltaSteps bs w (!refresh)
        let s4 := x.setEngine cl { e with tiles := tileSet e.tiles d .f32 data, kdone := steps }
        let age := if refresh then 0 else min (numAt r 0x15 1 + 1) 255
        let drift := if refresh then 0 else min (numAt r 0x17 1 + 1 + o.sat) 255
        -- the operation's own writes have bumped the version (R350)
        let version := numAt (s4.recFor g.team ctx idx) 0x0C 4
        let r1 := if rival then r
          else if claim then recRefresh r bs w (s4.ownerWord ctx) ((version + 2 ^ 32 - op.version) % 2 ^ 32) 0 nowatch
          else if refresh then recRefresh r bs w (s4.ownerWord ctx) version op.version nowatch
          else setNum (setNum (setNum r 0x15 1 age) 0x17 1 drift) 0x0C 4 version
        let s5 := if rival then s4 else s4.recStore g.team key r1
        let flag := fun (b : Bool) (n : Nat) => if b then 2 ^ n else 0
        let status := steps % 2 ^ 24 * 2 ^ 40 + min o.sat 255 * 2 ^ 32 + (if rival then (if fits then numAt r 0x17 1 else 0) else drift) * 2 ^ 24 +
          (if rival then (if fits then numAt r 0x15 1 else 0) else age) * 2 ^ 16 + flag baddx 14 + flag nowatch 13 + flag rival 12 + flag driftmax 11 +
          flag agemax 10 + flag first 9 + flag stale 8 + flag refresh 7
        (s5.recFree key).tileEnd cl op status
  | (_, s1), _ => s1.tileEnd cl op (statusOf 0 1)

/-! ## How the engine runs an operation (R319, R329, R335, R336) -/

/-- The time until the first data of an operand of a gang's engine arrive. -/
def State.firstData (s : State) (k : Nat) (ptr : DWord) : Nat :=
  match s.gang? k with
  | none => 0
  | some g => match s.access (s.ctxOf g) .read ptr with
    | .error _ => 0
    | .ok (leaf, size, a) => match s.engHome g leaf size ptr with
      | none => 0
      | some h => s.readLatency h g.die g.l1Of (a / 64) (s.ctxOf g)

/-- Entries of a K-step's outliers, the end entry included. -/
def State.outlierCount (s : State) (op : TileOp) (kper j : Nat) : Nat :=
  match (s.gang? op.gang).bind (fun g => s.team? g.team) with
  | none => 0
  | some t => match t.outliersOf kper j (numAt op.blk 0x28 4) with
    | .ok x => x.1.length + 1
    | .error _ => 0

/-- The longest time until a block of an operand's rows in a K-step arrives (R325, R329). -/
def State.opdTime (s : State) (k : Nat) (x : Opd) (o0 : Nat) : Nat :=
  if x.trec.extOf 0 ≤ o0 then 0
  else (List.range 128).foldl (fun n i =>
    if x.row + i < x.trec.extOf 1 then max n (s.firstData k (x.trec.elemAt [o0, x.row + i]).1) else n) 0

/-- When each of `n` K-steps from the `j`-th on is added, and when its period is over: it is added behind the K-step before, when its blocks
have arrived, which are fetched up to 8 K-steps ahead of the one that is added (R329). The list holds the earlier ones, the last first. -/
def addTimes (lat period : Nat → Nat) : Nat → Nat → List (Nat × Nat) → List (Nat × Nat)
  | 0, _, acc => acc.reverse
  | n + 1, j, acc =>
    let t := max (acc.headD (0, 0)).2 ((acc.getD 7 (0, 0)).1 + lat j)
    addTimes lat period n (j + 1) ((t, t + period j) :: acc)

/-- The K-steps that an MMAQ has left, with the times from its start or resumption on (R329, R330). -/
def State.mmaqTimes (s : State) (op : TileOp) : List (Nat × Nat) :=
  let bs := op.blk
  match (s.mmaqRecs op).1 with
  | .ok (ra, some rb) =>
    let w := mmaqW bs ra (some rb)
    match stepOf w.1 w.2 (numAt bs 2 1) with
    | none => []
    | some (kper, t) =>
      let o0 := fun (j : Nat) => (numAt bs 0x20 4 + j) * kper
      let lat := fun (j : Nat) => max (s.opdTime op.gang ⟨rb, numAt bs 0x1C 4⟩ (o0 j))
        ((ra.map (fun x => s.opdTime op.gang ⟨x, numAt bs 0x18 4⟩ (o0 j))).getD 0)
      let period := fun (j : Nat) => if flagAt bs 3 1 then max t ((s.outlierCount op kper j + 15) / 16) else t
      addTimes lat period (numAt bs 0x24 4 - op.kdone) op.kdone []
  | _ => []

/-- The time until the last data of an MDELTA arrive: its record, W, X, and in the delta path X_prev and Y_prev (R339, R345). -/
def State.mdeltaData (s : State) (op : TileOp) (w : TRec) (delta : Bool) : Nat :=
  let bs := op.blk
  let n := numAt bs 0x30 1 + 1
  let c := numAt bs 0x31 1 + 1
  let span := fun (off m : Nat) => (List.range m).map (fun b => BitVec.ofNat 64 (numAt bs off 8 + 64 * b))
  let epb := 512 / w.w
  let ptrs := (List.range n).flatMap (fun r => (List.range ((w.extOf 0 + epb - 1) / epb)).map (fun b => (w.elemAt [b * epb, r]).1)) ++
    span 0x18 (w.extOf 0 * c / 16) ++ (if delta then span 0x20 (w.extOf 0 * c / 16) ++ span 0x28 ((n * c + 15) / 16) else [])
  let rec0 := match s.gang? op.gang with
    | some g => unitTime g.die (s.resDie (s.ctxOf g) g.die)
    | none => 0
  ptrs.foldl (fun t p => max t (s.firstData op.gang p)) rec0

/-- How long before its start an MDELTA that no other operation delayed has issued: its rate time counts from there (R345). -/
def State.sinceIssue (s : State) (op : TileOp) : Nat :=
  let start := op.start.getD s.clk.now
  if start ≤ op.issued + 20 then start - op.issued else 0

/-- The path of an MDELTA as its record stands. -/
def State.mdeltaPath (s : State) (op : TileOp) : Option (TRec × Bool) :=
  match (s.opRecord op 0x10).1, s.gang? op.gang with
  | .ok w, some g => some (w, s.mdeltaDelta g op w)
  | _, _ => none

/-- The rows that a drain has left, and its element width. -/
def State.drainLeft (s : State) (op : TileOp) : Nat × Nat :=
  match (s.opRecord op 8).1 with
  | .ok d => (drainCount op.blk d - op.kdone, d.w)
  | _ => (0, 0)

/-- The time that an operation takes from its start or resumption on. -/
def State.tileTime (s : State) (op : TileOp) : Nat :=
  match op.kind with
  | 1 => ((s.mmaqTimes op).getLast?.map Prod.snd).getD 0
  | 2 => match s.mdeltaPath op with
    | some (w, delta) => max (s.mdeltaData op w delta) (mdeltaClk op.blk w delta - op.kdone * mdeltaRate w delta - s.sinceIssue op)
    | none => 0
  | 3 => ((s.drainLeft op).1 * (s.drainLeft op).2 + 15) / 16
  | _ => if numAt op.blk 1 1 < 2 then 64 else 128

/-- An operation that is refused or ends with an error before it has run. -/
def State.tileRefuse (s : State) (cl : Nat) (op : TileOp) (err : Nat) : State :=
  let e := s.engine cl
  ((s.setEngine cl { e with ops := e.ops.filter (fun o => o.id ≠ op.id) }).tileStatus cl op.id op.off (statusOf 0 err)).engineRelease cl

/-- The walker checks an operation whose block has been read (R321, R326, R332, R340): it is queued, refused, or bounces. -/
def State.tileCheck (s : State) (cl : Nat) (op : TileOp) : State :=
  let accept := fun (s : State) (ok : Bool) => if ok then s.modOp cl op.id (fun o => { o with blk := op.blk, stage := 1 }) else s.tileRefuse cl op 1
  let keep := fun (s : State) (b : Nat × Nat × Nat) => (s.modOp cl op.id (fun o => { o with blk := op.blk })).tileBounce cl op b
  match op.kind with
  | 1 => match s.mmaqRecs op with
    | (.error b, s1) => keep s1 b
    | (.ok r, s1) => accept s1 (mmaqOk op.blk r.1 r.2)
  | 2 => match s.opRecord op 0x10 with
    | (.bounce x y z, s1) => keep s1 (x, y, z)
    | (.ok w, s1) => accept s1 (mdeltaOk op.blk (some w))
    | (.bad, s1) => accept s1 false
  | _ => match s.opRecord op 8 with
    | (.bounce x y z, s1) => keep s1 (x, y, z)
    | (.ok d, s1) => accept s1 (mdrainOk op.blk (some d))
    | (.bad, s1) => accept s1 false

/-- The scratchpad reads a parameter block; VERSION is read with it (R251, R477). -/
def State.tileRead (s : State) (cl id : Nat) : State :=
  let fill := fun (s : State) (o : TileOp) => match (s.gang? o.gang).bind (fun g => (s.team? g.team).map (fun t => (g, t))) with
    | none => o
    | some (g, t) =>
      let blk := t.spBytes o.off 56
      { o with blk := blk, version := if o.kind = 2 then numAt (s.recFor g.team (s.ctxOf g) (numAt blk 4 2 % 4096)) 0x0C 4 else 0 }
  match (s.engine cl).ops.find? (fun o => o.id == id) with
  | some op =>
    match s.padWait cl (((s.gang? op.gang).map Gang.team).getD 0) [op.off / 64] false with
    | (some t, s1) => s1.sched t .matrixOpComplete cl id 2
    | (none, s1) => let op1 := fill s1 op; (s1.modOp cl id (fun _ => op1)).tileCheck cl op1
  | none => { s with work := { s.work with teams := s.work.teams.map (fun (t : Nat × Team) => (t.1, { t.2 with tops := t.2.tops.map (fun o =>
      if o.id = id then fill s o else o) })) } }

/-- An MDELTA takes its record, or bounces off one that is in use (R345); a claim installs its watch (R344). -/
def State.mdeltaStart (s : State) (cl : Nat) (op : TileOp) : Option TileOp × State :=
  match s.gang? op.gang with
  | none => (none, s)
  | some g =>
    let ctx := s.ctxOf g
    let idx := numAt op.blk 4 2
    let key := resKey ctx idx
    if (match mget key s.work.resBusy with
      | some o => o != op.id
      | none => false) then (none, s.tileBounce cl op (0x0306, 2 ^ 58 + idx, 0xFF))
    else
      match s.opRecord op 0x10 with
      | (.bounce x y z, s1) => (none, s1.tileBounce cl op (x, y, z))
      | (.bad, s1) => (none, s1.tileEnd cl op (statusOf 0 1))
      | (.ok w, s1) =>
        let s2 := { s1 with work := { s1.work with resBusy := mput key op.id s1.work.resBusy } }
        let r := s2.recFor g.team ctx idx
        if op.status = 1 ∨ (s2.rivalOf g).isSome ∨ s2.recMatches ctx r op.blk w then (some op, s2)
        else
          let i := s2.watchInstall ctx idx w.base ((numAt op.blk 0x30 1 + 1) * w.stride.getD 1 0)
          let op1 := { op with status := 1, version := numAt r 0x0C 4, err := if i.1 then 0 else 1 }
          (some op1, i.2.modOp cl op.id (fun _ => op1))

/-- Before an operation runs, the walker has read its records and translated the pages of its first data (R323): none, or what it waits
for. -/
def State.tileReady (s : State) (op : TileOp) : Option (Nat × Nat × Nat) × State :=
  let bs := op.blk
  let pages := fun (s : State) (l : List DWord) => l.foldl (fun (r : Option (Nat × Nat × Nat) × State) ptr =>
    match r.1, r.2.gang? op.gang with
    | none, some g => if ptrOk ptr then r.2.engPage g op.id 5 ptr else r
    | _, _ => r) (none, s)
  match op.kind with
  | 1 => match s.mmaqRecs op with
    | (.error b, s1) => (some b, s1)
    | (.ok (ra, some rb), s1) =>
      match stepOf (mmaqW bs ra (some rb)).1 (mmaqW bs ra (some rb)).2 (numAt bs 2 1) with
      | none => (none, s)
      | some (kper, _) =>
        let o0 := (numAt bs 0x20 4 + op.kdone) * kper
        let at_ := fun (x : TRec) (row : Nat) => if o0 < x.extOf 0 ∧ row < x.extOf 1 then [(x.elemAt [o0, row]).1] else []
        pages s1 (at_ rb (numAt bs 0x1C 4) ++ ((ra.map (fun x => at_ x (numAt bs 0x18 4))).getD []))
    | (.ok _, _) => (none, s)
  | 2 => match s.opRecord op 0x10 with
    | (.bounce x y z, s1) => (some (x, y, z), s1)
    | (.ok w, s1) => pages s1 [w.base]
    | (.bad, _) => (none, s)
  | 3 => match s.opRecord op 8 with
    | (.bounce x y z, s1) => (some (x, y, z), s1)
    | (.ok d, s1) => pages s1 (if op.kdone < drainCount bs d then [(d.elemAt [numAt bs 0x14 4, numAt bs 0x10 4 + op.kdone]).1] else [])
    | (.bad, _) => (none, s)
  | _ => (none, s)

/-- The clk before which a team's engine accepts no operation (R338). -/
def State.tilesAt (s : State) (t : Nat) : Nat := ((s.prot? t).map Prot.tileAt).getD 0

/-- The engine starts the first operation in its order, where that has arrived and does not wait (R319, R336). -/
def State.tileStart (s : State) (cl : Nat) : State :=
  let e := s.engine cl
  match e.ops with
  | [] => s
  | op :: _ =>
    let runs := match (s.gang? op.gang).bind (fun g => s.team? g.team) with
      | some t => t.st == .placed || t.st == .stopping || t.st == .ended
      | none => false
    if op.start.isSome || op.bounce.isSome || op.stage == 2 || !runs ||
        decide (s.clk.now < s.tilesAt (((s.gang? op.gang).map Gang.team).getD 0)) then s
    else if op.stage = 0 then (if op.blk = [] then s else s.tileCheck cl op)
    else
      let tilesOk := match op.kind with
        | 1 => op.kdone != 0 || mmaqTiles op.blk e.tiles
        | 2 => !(tileState e.tiles (numAt op.blk 1 1)).wide
        | 3 => mdrainTiles op.blk e.tiles
        | _ => true
      if !tilesOk then s.tileEnd cl op (statusOf 0 1)
      else
        match s.tileReady op with
        | (some b, s1) => s1.tileBounce cl op b
        | (none, s) =>
        let r := if op.kind = 2 then s.mdeltaStart cl op else (some op, s)
        match r.1 with
        | none => r.2
        | some op1 =>
          let op2 := { op1 with start := some s.clk.now }
          -- MSTAT.KDONE is that of the running or last operation (R334)
          let e1 := r.2.engine cl
          let s1 := r.2.setEngine cl { e1 with kdone := if op.kind < 4 then op.kdone else e1.kdone }
          (s1.modOp cl op.id (fun _ => op2)).sched (s.clk.now + r.2.tileTime op2) .matrixOpComplete cl op.id 0 s.clk.now

/-- An operation runs for at most `n` K-steps or rows, and ends, bounces, or stays where it is. -/
def State.tileRun (s : State) (cl : Nat) (op : TileOp) (n : Nat) : State :=
  match op.kind with
  | 1 =>
    match s.mmaqRun cl op n with
    | (.bounce b, o, s1) => s1.tileBounce cl o b
    | (.err c, o, s1) => s1.tileEnd cl o (statusOf o.kdone c)
    | (.done, o, s1) => if o.kdone = numAt op.blk 0x24 4 then s1.tileEnd cl o (statusOf o.kdone 0)
        else s1.modOp cl op.id (fun _ => o)
  | 2 => s.mdeltaEnd cl op
  | 3 =>
    match s.opRecord op 8 with
    | (.bounce x y z, s1) => s1.tileBounce cl op (x, y, z)
    | (.bad, s1) => s1.tileEnd cl op (statusOf op.kdone 1)
    | (.ok d, s1) =>
      match s1.drainRows cl d n op with
      | (.bounce b, o, s2) => s2.tileBounce cl o b
      | (_, o, s2) =>
        if drainCount op.blk d ≤ o.kdone then
          let e := s2.engine cl
          let s3 := if flagAt op.blk 3 2 then s2.setEngine cl { e with tiles := tileSet e.tiles (numAt op.blk 1 1) .none [] } else s2
          s3.tileEnd cl o (statusOf o.kdone 0)
        else s2.modOp cl op.id (fun _ => o)
  | _ =>
    let e := s.engine cl
    let st := match numAt op.blk 1 1 with
      | 0 => TileState.none
      | 1 => .f32
      | 2 => .f64
      | _ => .i64
    let s1 := s.setEngine cl { e with tiles := tileSet e.tiles (numAt op.blk 0 1) st [], ops := e.ops.filter (fun o => o.id ≠ op.id) }
    (s1.opEnds op.gang op.id 3).engineRelease cl

/-- MATRIX_OP_COMPLETE: the running operation ends (`c` 0, `d` its start), STATUS performs (1), the parameter block is read (2), an
operation without the engine is refused (3), the acknowledgements of an operation have arrived (4). -/
def execMatrixOpComplete (s : State) : Host.Outcome State Fault Refusal :=
  let y := s.clk.subj
  match y.c with
  | 0 => match (s.engine y.a).ops.find? (fun o => o.id == y.b) with
    | some op => if op.start = some y.d then .next (s.tileRun y.a op 16777216) else .next s
    | none => .next s
  | 1 => .next (s.tileStatus y.a y.b (y.d / 2 ^ 64) (y.d % 2 ^ 64))
  | 2 => .next (s.tileRead y.a y.b)
  | 3 => .next (s.tileStatus y.a y.b y.d (statusOf 0 3))
  | _ => .next (s.eackDue y.b)

/-- K-steps or rows that a running operation has done by now. -/
def State.tileSoFar (s : State) (op : TileOp) : Nat :=
  match op.start with
  | none => 0
  | some t =>
    let el := s.clk.now - t
    match op.kind with
    | 1 => ((s.mmaqTimes op).filter (fun x => decide (x.2 ≤ el))).length
    | 2 => match s.mdeltaPath op with
      | some (w, delta) => min (mdeltaSteps op.blk w delta - op.kdone) ((el + s.sinceIssue op) / mdeltaRate w delta)
      | none => 0
    | _ => if (s.drainLeft op).2 = 0 then 0 else min (s.drainLeft op).1 (el * 16 / (s.drainLeft op).2)

/-- Where a running operation stops (R335): the K-steps or rows it has done at the next boundary, and the time until then. A K-step whose
operands have arrived is added; MZERO runs to its end. -/
def State.tileStop (s : State) (op : TileOp) : Nat × Nat :=
  match op.start with
  | none => (0, 0)
  | some t =>
    let el := s.clk.now - t
    match op.kind with
    | 1 =>
      let l := (s.mmaqTimes op).filter (fun x => decide (x.1 ≤ el))
      (l.length, (l.getLast?.map Prod.snd).getD 0 - el)
    | 2 => match s.mdeltaPath op with
      | some (w, delta) =>
        let n := min (mdeltaSteps op.blk w delta - op.kdone) (s.tileSoFar op + 1)
        (n, n * mdeltaRate w delta - s.sinceIssue op - el)
      | none => (0, 0)
    | 3 =>
      let n := min (s.drainLeft op).1 (s.tileSoFar op + 1)
      (n, (n * (s.drainLeft op).2 + 15) / 16 - el)
    | _ => (1, s.tileTime op - el)

/-! ## MSTAT (R334, R479) -/

/-- The engine as it stands now: the K-steps or rows that a running operation has done, and the state they have given its tile (R327). -/
def State.engineView (s : State) (cl : Nat) : Engine :=
  let e := s.engine cl
  match e.ops with
  | [] => e
  | op :: _ =>
    let n := if op.start.isSome && decide (op.kind < 4) then s.tileSoFar op else 0
    if n = 0 then e
    else if op.kind = 2 then { e with kdone := e.kdone + n }
    else
      let r := (s.tileRun cl op n).engine cl
      { e with kdone := r.kdone, tiles := if op.kind = 1 then r.tiles else e.tiles }

/-- The engine's view for a team. -/
def State.mstat (s : State) (cl t : Nat) : DWord :=
  let e := s.engineView cl
  let mine := e.holder == some t
  let busy := (s.work.gangs.any (fun g => g.2.team == t && decide (0 < g.2.count 3))) || (mine && e.releasing)
  let tfmt := if mine then (List.range 16).foldl (fun n m => n + tileCode (tileState e.tiles m) * 4 ^ m) 0 else 0
  BitVec.ofNat 64 (tfmt * 2 ^ 32 + (if mine then e.kdone % 2 ^ 24 else 0) * 2 ^ 8 + ((s.team? t).map Team.lerr).getD 0 * 16 +
    (if busy then 4 else 0) + (if mine && !e.releasing then 2 else 0) + (if e.holder.isSome && !mine then 1 else 0))

def execMstat (p : Pred) (d : UDst) (s : State) : Host.Outcome State Fault Refusal :=
  s.gres p d fun x => s.mstat x.g.cluster x.g.team

/-- A team's reservation is revoked (R335): what the running operation has done is added, MZERO runs to its end, tiles and
operations go to the team's save. -/
def State.engineRevoke (s : State) (cl t : Nat) : State :=
  let e := s.engine cl
  if e.holder ≠ some t then s
  else
    let s1 := match e.ops with
      | op :: _ => if op.start.isNone then s
          else if op.kind = 2 then s.modOp cl op.id (fun o => { o with kdone := o.kdone + (s.tileStop op).1 })
          else s.tileRun cl op (s.tileStop op).1
      | [] => s
    let e1 := s1.engine cl
    if e1.holder ≠ some t then s1
    else
      let tops := e1.ops.map (fun o => { o with start := none })
      (s1.modTeam t (fun tm => { tm with tiles := e1.tiles, tops := tops })).setEngine cl { Engine.free with kdone := e1.kdone }

/-- The engine of the cluster that a team resumes on is reserved for it again (R335); a team that had saved nothing finds it reserved only
where it is free (R137, log 88). -/
def State.engineRestore (s : State) (cl t : Nat) : State :=
  match s.team? t with
  | none => s
  | some tm =>
    if tm.tiles = [] then s
    else if (s.engine cl).holder.isSome then s.modTeam t (fun tm => { tm with tiles := [], tops := [] })
    else (s.setEngine cl ⟨some t, false, tm.tiles, tm.tops, (s.engine cl).kdone⟩).modTeam t (fun tm => { tm with tiles := [], tops := [] })

/-! ## RSVINV and RSVQ (R480, R481) -/

/-- A record is cleared: not VALID, and its watch goes. -/
def State.recClear (s : State) (ctx idx : Nat) : State :=
  let key := resKey ctx idx
  let off := fun (r : List Byte) => setNum r 0x14 1 (numAt r 0x14 1 / 2 * 2)
  let held := s.work.teams.map (fun (t : Nat × Team) => (t.1, { t.2 with prot := t.2.prot.map (fun (p : Prot) =>
    { p with recs := p.recs.map (fun x => if x.2.1 = key then (x.1, key, off x.2.2) else x) }) }))
  ({ s with work := { s.work with res := mmod key off s.work.res, teams := held } }).watchRemove ctx idx

/-- RSVINV, with or without `.clear`. -/
def State.rsvinv (s : State) (p : Pred) (a : USrc) (clear : Bool) : Host.Outcome State Fault Refusal :=
  s.uni p fun x =>
    let i := (x.u a).toNat
    let t := s.clk.now + unitTime x.g.die (s.resDie x.ctx x.g.die)
    let r := s.recFor x.g.team x.ctx i
    if 4096 ≤ i ∨ !recValid r ∨ numAt r 8 4 ≠ s.ownerWord x.ctx then s.answered x t
    else
      let s1 := s.bumpVersion x.ctx i
      if !clear then s1.answered x t
      else if (mget (resKey x.ctx i) s.work.resBusy).isNone then (s1.recClear x.ctx i).answered x t
      else (s1.await x (.rsv (resKey x.ctx i))).modGang x.k (fun g => g.modPath x.path.lanes (fun p => { p with hold := t }))

def execRsvinv (p : Pred) (a : USrc) (s : State) : Host.Outcome State Fault Refusal := s.rsvinv p a false
def execRsvinvClear (p : Pred) (a : USrc) (s : State) : Host.Outcome State Fault Refusal := s.rsvinv p a true

/-- A path that waits with RSVINV.clear goes on when no MDELTA uses the record. -/
def State.rsvResume (s : State) (k : Nat) (lanes : Mask) (key : Nat) : State :=
  if (mget key s.work.resBusy).isNone then (s.recClear (key / 4096) (key % 4096)).resume k lanes else s

/-- RSVQ: 64 bytes go to scratchpad as one write, 20 clk after the answer. -/
def execRsvq (p : Pred) (a b : USrc) (s : State) : Host.Outcome State Fault Refusal :=
  s.uni p fun x =>
    let i := (x.u a).toNat
    let o := (x.u b).toNat
    let t := s.clk.now + unitTime x.g.die (s.resDie x.ctx x.g.die)
    let sp := ((s.team? x.g.team).map Team.spSize).getD 0
    if o % 64 ≠ 0 ∨ sp < o + 64 then (s.logGang x.g 0x010B 1 (x.u b) 0 x.hdr).answered x t
    else
      let r := s.recFor x.g.team x.ctx i
      let bytes := if 4096 ≤ i ∨ numAt r 8 4 ≠ s.ownerWord x.ctx then List.replicate 64 0 else r
      let (n, s1) := s.takeFresh
      let accs := (List.range 8).map (fun l => (⟨l, BitVec.ofNat 64 (o + 8 * l), 8, 0, 0⟩ : Acc))
      let q : Req := { x.req .sts (x.u b) [] 0xFF 8 4 with
        issued := t
        data := (List.range 8).map (fun l => BitVec.ofNat 64 (numAt bytes (8 * l) 8))
        parts := [.pad accs s.clk.now] }
      (((s1.setReq n q).sched (t + 20) .scratchpadPerform n)).answered x t

end Sys2Proof.Machine
end

