-- ==== Sys2Proof/Machine/Copy.lean ====
section
/-! DEFINITION. Copies: COPYT, KICK, the copy engine of a cluster, and TDLOAD (R63, R147, R213, R214, R216 to R219, R245 to R248,
R336, R482 to R486). -/

namespace Sys2Proof.Machine

/-! ## Issue (R483, R485) -/

/-- The copies of a cluster's engine, in arrival order. -/
def State.copyQueue (s : State) (cl : Nat) : List CopyOp := (mget cl s.work.copies).getD []

def State.setCopies (s : State) (cl : Nat) (l : List CopyOp) : State := { s with work := { s.work with copies := mput cl l s.work.copies } }

/-- A copy enters its cluster's queue and raises CPC; it bounces out of the queue when it has waited there for the interval that the class
has now (R202, R204). -/
def State.copyIssue (s : State) (x : Iss) (kick : Bool) (d a b : DWord) : State :=
  let (id, s1) := s.takeFresh
  let t := s.sluiceOf x.ctx 3
  let s2 := s1.modGang x.k (fun g => { g with
    reqs := g.reqs + 1
    ops := g.ops ++ [⟨id, 2, false⟩]
    writes := g.writes ++ [⟨id, id, false, 0, false⟩] })
  let op : CopyOp := ⟨x.k, id, kick, d, a, b, x.runPc, 0, none, none, (s.clk.now, t), [], x.opEnt⟩
  (((s2.setCopies x.g.cluster (s2.copyQueue x.g.cluster ++ [op])).sched (s.clk.now + t) .sluiceBounce id 0 1).pass x)

def execCopyt (p : Pred) (d a b : USrc) (s : State) : Host.Outcome State Fault Refusal :=
  s.uni p fun x => s.copyIssue x false (x.u d) (x.u a) (x.u b)

def execKick (p : Pred) (d a : USrc) (s : State) : Host.Outcome State Fault Refusal :=
  s.uni p fun x => s.copyIssue x true (x.u d) (x.u a) 0

/-! ## Progress and ends (R188, R219, R248, R484) -/

/-- The barrier object a copy names. -/
def CopyOp.bo (o : CopyOp) : Option DWord :=
  if o.kick then (if o.d.getLsbD 20 then some (BitVec.ofNat 64 (field o.d 3 17 * 8)) else none)
  else if o.b.getLsbD 60 then some (BitVec.ofNat 64 (field o.b 40 20 * 8)) else none

def State.modCopy (s : State) (cl id : Nat) (f : CopyOp → CopyOp) : State :=
  s.setCopies cl ((s.copyQueue cl).map (fun o => if o.id = id then f o else o))

/-- A copy leaves its engine; CPC falls when its writes have been acknowledged (R246). -/
def State.copyEnd (s : State) (cl : Nat) (o : CopyOp) : State :=
  (s.setCopies cl ((s.copyQueue cl).filter (fun y => y.id ≠ o.id))).opEnds o.gang o.id 2

/-- A copy stops at its progress (R336, R484): a request of it waits for a walk or in a shared queue, and its pass goes on then; or it bounces
into its gang's cistern, and a new pass begins when it is reissued (R218). Cause 0 stands for a rollback. -/
def State.copyBounce (s : State) (cl : Nat) (o : CopyOp) (b : Nat × Nat × Nat) : State :=
  if b.1 = 0 then s
  else
    let s1 := s.modCopy cl o.id (fun y => { y with prog := o.prog, start := none, cache := if stalls b.1 then o.cache else [] })
    if stalls b.1 then s1.opStall o.id b
    else s1.modCopy cl o.id (fun y => { y with bounce := some b, ent := y.ent.enter s.clk.now b.2.2 })

/-- A check of R483 or R485 fails: CPYFORM, and nothing is copied. -/
def State.copyForm (s : State) (cl : Nat) (o : CopyOp) (addr : DWord) : State :=
  match s.gang? o.gang with
  | none => s
  | some g => (s.logGang g 0x010E 4 addr 0 o.pc).copyEnd cl o

/-- A copy of a rival with a speculative destination (R147, R484). -/
def State.copyRivalOp (s : State) (cl : Nat) (o : CopyOp) (addr : DWord) : State :=
  match s.gang? o.gang with
  | none => s
  | some g => ((s.logGang g 0x0111 4 addr 0 o.pc).engFault g).copyEnd cl o

/-! ## COPYT (R482, R483) -/

/-- Where a tile goes. -/
inductive CDest where
  | flume (off : Nat)
  | buffer (off : Nat)
  | mem (ptr : DWord)
  deriving DecidableEq, Repr

/-- The destination that g(D) names, with its zero bits checked. -/
def CopyOp.dest (o : CopyOp) : Option CDest :=
  let dk := field o.d 57 3
  if dk = 4 then (if field o.d 0 6 = 0 then some (.mem (o.d &&& 0xF1FFFFFFFFFFFFFF)) else none)
  else if dk ≤ 1 ∧ field o.d 60 4 = 0 ∧ field o.d 20 37 = 0 ∧ field o.d 0 6 = 0 then
    some (if dk = 0 then .flume (field o.d 0 20) else .buffer (field o.d 0 20))
  else none

/-- The zero bits of g(B). -/
def CopyOp.bOk (o : CopyOp) : Bool := field o.b 61 3 == 0 && (o.b.getLsbD 60 || field o.b 40 20 == 0)

/-- Blocks read in this pass, by block of virtual address: the data and the descriptor; a block whose access failed has no descriptor. -/
abbrev Cache := Map (List Byte × Option (BitVec 16))

/-- Reads a block once in a pass. -/
def State.cached (s : State) (o : CopyOp) (acc : Nat) (c : Cache) (ptr : DWord) :
    Except (Nat × Nat × Nat) (List Byte × Option (BitVec 16)) × Cache × State :=
  match mget (ptrVa ptr / 64) c with
  | some x => (.ok x, c, s)
  | none => match s.engRead o.gang o.id acc ptr o.pc with
    | (.bounce x y z, s1) => (.error (x, y, z), c, s1)
    | (.ok data desc _ failed, s1) =>
      let x := (data, if failed then none else some desc)
      (.ok x, mput (ptrVa ptr / 64) x c, s1)

/-- The bits of a packed tile from element `i` on, `n` elements: the number they form, and the descriptor that element `i` brings. -/
def State.packElems (s : State) (o : CopyOp) (x : TRec) (org : List Nat) (c : Cache) : Nat → Nat → Nat → Nat →
    Except (Nat × Nat × Nat) (Nat × Option (BitVec 16)) × Cache × State
  | 0, _, _, acc => (.ok (acc, none), c, s)
  | n + 1, i, sh, acc =>
    let e := x.nth org i
    if !x.inside e then
      match s.packElems o x org c n (i + 1) (sh + x.w) acc with
      | (.ok (v, _), r) => (.ok (v, some (BitVec.ofNat 16 (x.etype * 4096))), r)
      | r => r
    else
      let at_ := x.elemAt e
      match s.cached o 5 c at_.1 with
      | (.error b, c1, s1) => (.error b, c1, s1)
      | (.ok (data, desc), c1, s1) =>
        match s1.packElems o x org c1 n (i + 1) (sh + x.w) (acc + bitsAt data at_.2 x.w * 2 ^ sh) with
        | (.ok (v, _), r) => (.ok (v, some (desc.getD poisonDesc)), r)
        | r => r

/-- A copy writes a block of a team's scratchpad. -/
def Team.spBlock (t : Team) (off : Nat) (data : List Byte) (desc : BitVec 16) : Team :=
  { (t.spPut off data) with spDesc := mset 0 (off / 64) desc t.spDesc }

/-- One destination block of a tile goes to where its bytes lie; `at_` is its place in a flume slot or buffer. A bounce, or none. -/
def State.putBlock (s : State) (o : CopyOp) (d : CDest) (at_ : Nat) (data : List Byte) (desc : BitVec 16) : Option (Nat × Nat × Nat) × State :=
  match d with
  | .mem ptr => s.engWrite o.gang o.id 4 (ptr + BitVec.ofNat 64 at_) o.pc (data.map some) (some desc) o.bo
  | _ => match s.gang? o.gang with
    | none => (none, s)
    | some g => (none, (s.modTeam g.team (fun t => t.spBlock at_ data desc)).boCount g o.bo 64)

/-- How far a pass has come: the progress, the blocks read, a bounce. -/
structure Pass where
  prog : Nat
  cache : Cache
  out : Option (Nat × Nat × Nat)
  deriving DecidableEq, Repr

/-- A copy as a pass has left it. -/
def CopyOp.after (o : CopyOp) (p : Pass) : CopyOp := { o with prog := p.prog, cache := p.cache }

/-- Blocks of a tile, at most `n`; `place` is where the first byte of the pass lies. -/
def State.tileBlocks (s : State) (o : CopyOp) (x : TRec) (org : List Nat) (d : CDest) (place : Nat) : Nat → Pass → Pass × State
  | 0, p => (p, s)
  | n + 1, p =>
    if x.tileBits / 8 ≤ p.prog then (p, s)
    else
      let epb := 512 / x.w
      match s.packElems o x org p.cache epb (p.prog / 64 * epb) 0 0 with
      | (.error b, c1, s1) => ({ p with cache := c1, out := some b }, s1)
      | (.ok (v, desc), c1, s1) =>
        match s1.putBlock o d (place + (p.prog - o.prog)) (toBytes 64 v) (desc.getD 0) with
        | (some b, s2) => ({ p with cache := c1, out := some b }, s2)
        | (none, s2) => s2.tileBlocks o x org d place n { p with cache := c1, prog := p.prog + 64 }

/-- The blocks of a destination all lie in a rival's private range. -/
def State.privateAll (s : State) (g : Gang) (ptr : DWord) (n : Nat) : Bool :=
  match s.rivalOf g with
  | none => true
  | some v => match (mget v.1 s.work.scopes).bind (fun x => x.rivals[v.2]?) with
    | none => true
    | some r => n == 0 || (decide (ptrVa r.pbase ≤ ptrVa ptr ∧ ptrVa ptr + n ≤ ptrVa r.pbase + r.plen))

/-- A pass of COPYT: checks, then the whole tile, or one slot of a flume (R214). -/
def State.copytRun (s : State) (cl : Nat) (o : CopyOp) : State :=
  match s.gang? o.gang with
  | none => s
  | some g =>
    match s.team? g.team with
    | none => s
    | some t =>
      match s.engRecord o.gang o.id o.a o.pc with
      | (.bounce x y z, s1) => s1.copyBounce cl o (x, y, z)
      | (.bad, s1) => s1.copyForm cl o o.a
      | (.ok x, s1) =>
        match x.origin (field o.b 0 40), o.dest with
        | some org, some d =>
          let len := x.tileBits / 8
          let boOk := match o.bo with
            | none => true
            | some a => t.boOk a
          if x.tileBits % 512 ≠ 0 ∨ !o.bOk ∨ !boOk then s1.copyForm cl o o.a
          else
            let p0 : Pass := ⟨o.prog, o.cache, none⟩
            let wait := fun (s : State) (off n : Nat) (f : State → State) =>
              match s.padWait g.cluster g.team ((List.range (n / 64)).map (fun i => off / 64 + i)) true with
              | (some u, s2) => s2.sched u .copyComplete cl 0 o.id (o.start.getD 0)
              | (none, s2) => f s2
            match d with
            | .mem ptr =>
              if !s1.privateAll g ptr len then s1.copyRivalOp cl o ptr
              else
                let r := s1.tileBlocks o x org d o.prog (len / 64 + 1) p0
                match r.1.out with
                | some b => r.2.copyBounce cl (o.after r.1) b
                | none => r.2.copyEnd cl o
            | .buffer off =>
              if t.spSize < off + len then s1.copyForm cl o o.a
              else wait s1 off len fun s1 =>
                let r := s1.tileBlocks o x org d (off + o.prog) (len / 64 + 1) p0
                match r.1.out with
                | some b => r.2.copyBounce cl (o.after r.1) b
                | none => r.2.copyEnd cl o
            | .flume off =>
              match t.flume (BitVec.ofNat 64 off) with
              | .error _ => s1.copyForm cl o o.a
              | .ok (n, b) =>
                if t.spSize < off + 64 + n * b then s1.copyForm cl o o.a
                else wait s1 off (64 + n * b) fun s1 =>
                let w := t.spNum (off + 8) 1
                let st := t.spNum (off + 0x10 + w) 1
                let fillb := t.spNum (off + 0x0C) 4
                if n ≤ w ∨ !(st = 0xFF ∨ st = 0xFD) then s1.copyBounce cl o (0x0303, off, 0xFF)
                else
                  let s2 := s1.modTeam g.team (fun t => t.spPut (off + 0x10 + w) [0xFD])
                  let room := (b - fillb) / 64
                  let r := s2.tileBlocks o x org d (off + 64 + w * b + fillb) room p0
                  let filled := fillb + (r.1.prog - o.prog)
                  match r.1.out with
                  | some c => (r.2.modTeam g.team (fun t => t.spPut (off + 0x0C) (toBytes 4 filled))).copyBounce cl (o.after r.1) c
                  | none =>
                    let s3 := r.2.modTeam g.team (fun t =>
                      ((t.spPut (off + 0x10 + w) [0xFE]).spPut (off + 0x0C) (toBytes 4 0)).spPut (off + 8) (toBytes 1 ((w + 1) % n)))
                    if len ≤ r.1.prog then s3.copyEnd cl o
                    else
                      let now := s3.clk.now
                      (s3.modCopy cl o.id (fun y => { (y.after r.1) with start := some now })).sched
                        (now + (min b (len - r.1.prog) + 127) / 128) .copyComplete cl 0 o.id now
        | _, _ => s1.copyForm cl o o.a

/-! ## Chains of copy control blocks (R63, R485) -/

/-- A copy control block. -/
structure Ccb where
  src : DWord
  dst : DWord
  len : Nat
  desc : Bool
  next : DWord
  deriving DecidableEq, Repr

/-- The block that 64 bytes hold, where they keep R63. -/
def Ccb.parse (bs : List Byte) : Option Ccb :=
  let x : Ccb := ⟨BitVec.ofNat 64 (numAt bs 0 8), BitVec.ofNat 64 (numAt bs 8 8), numAt bs 0x10 8, flagAt bs 0x18 0, BitVec.ofNat 64 (numAt bs 0x20 8)⟩
  if 1 ≤ x.len ∧ x.len ≤ 2 ^ 40 ∧ numAt bs 0x18 8 ≤ 1 ∧ zeroAt bs 0x28 24 ∧
      (!x.desc || (x.src.toNat % 64 == 0 && x.dst.toNat % 64 == 0 && x.len % 64 == 0)) then some x
  else none

/-- What a chain of control blocks holds, as far as it is good (R63, R78, R485): its blocks, and why it stops before its end: a cause and a
pointer. -/
structure Chain where
  blocks : List Ccb
  bad : Option (Nat × DWord)
  cache : Cache
  out : Option (Nat × Nat × Nat)
  deriving DecidableEq, Repr

/-- Reads the chain of at most `n` blocks at a pointer. -/
def State.chain (s : State) (o : CopyOp) : Nat → DWord → Chain → Chain × State
  | 0, _, c => ({ c with bad := some (0x010E, o.a) }, s)
  | n + 1, ptr, c =>
    if ptr.toNat % 64 ≠ 0 then ({ c with bad := some (0x010E, o.a) }, s)
    else if !ptrOk ptr then ({ c with bad := some (0x0108, ptr) }, s)
    else
      match s.cached o 4 c.cache ptr with
      | (.error b, c1, s1) => ({ c with cache := c1, out := some b }, s1)
      | (.ok (data, desc), c1, s1) =>
        let c := { c with cache := c1 }
        match (if poisoned (desc.getD poisonDesc) then none else Ccb.parse data) with
        | none => ({ c with bad := some (0x010E, o.a) }, s1)
        | some x =>
          if !ptrOk x.src then ({ c with bad := some (0x0108, x.src) }, s1)
          else if !ptrOk x.dst then ({ c with bad := some (0x0108, x.dst) }, s1)
          else
            let c := { c with blocks := c.blocks ++ [x] }
            if x.next = 0 then (c, s1) else s1.chain o n x.next c

/-- Writes bytes at a pointer, block by block: how many were written, a bounce. -/
def State.putSpans (s : State) (o : CopyOp) (desc : Option (BitVec 16)) : List (Nat × Nat) → List Byte → Nat →
    (Nat × Option (Nat × Nat × Nat)) × State
  | [], _, n => ((n, none), s)
  | (a, m) :: rest, bs, n =>
    let mask := List.replicate (a % 64) none ++ (bs.take m).map some ++ List.replicate (64 - a % 64 - m) none
    match s.engWrite o.gang o.id 4 (BitVec.ofNat 64 (a / 64 * 64)) o.pc mask desc o.bo with
    | (some b, s1) => ((n, some b), s1)
    | (none, s1) => s1.putSpans o desc rest (bs.drop m) (n + m)

/-- The bytes of one control block from `pos` on; `base` is the chain's progress at its byte 0. A source block whose access fails is written
as a poisoned one (R484). -/
def State.ccbRun (s : State) (o : CopyOp) (x : Ccb) (base : Nat) : Nat → Nat → Pass → Pass × State
  | 0, _, p => (p, s)
  | fuel + 1, pos, p =>
    if x.len ≤ pos then (p, s)
    else
      let src := x.src + BitVec.ofNat 64 pos
      let n := min (64 - src.toNat % 64) (x.len - pos)
      match s.cached o 5 p.cache (BitVec.ofNat 64 (src.toNat / 64 * 64)) with
      | (.error b, c1, s1) => ({ p with cache := c1, out := some b }, s1)
      | (.ok (data, desc), c1, s1) =>
        let r := s1.putSpans o (if x.desc then some (desc.getD poisonDesc) else if desc.isNone then some poisonDesc else none)
          (spansOf (x.dst + BitVec.ofNat 64 pos).toNat n) ((data.drop (src.toNat % 64)).take n) 0
        let p1 : Pass := ⟨base + pos + r.1.1, c1, r.1.2⟩
        if r.1.2.isSome then (p1, r.2) else r.2.ccbRun o x base fuel (pos + n) p1

/-- The blocks of a chain in order, from the operation's progress on. -/
def State.chainRun (s : State) (o : CopyOp) : List Ccb → Nat → Pass → Pass × State
  | [], _, p => (p, s)
  | x :: l, base, p =>
    if base + x.len ≤ p.prog then s.chainRun o l (base + x.len) p
    else
      let r := s.ccbRun o x base (x.len / 64 + 2) (p.prog - base) p
      if r.1.out.isSome then r else r.2.chainRun o l (base + x.len) r.1

/-- Bits of g(D) that KICK requires to be zero. -/
def CopyOp.kickOk (o : CopyOp) : Bool := field o.d 21 43 == 0 && field o.d 0 3 == 0 && (o.d.getLsbD 20 || field o.d 3 17 == 0)

/-- A pass of KICK. -/
def State.kickRun (s : State) (cl : Nat) (o : CopyOp) : State :=
  match s.gang? o.gang with
  | none => s
  | some g =>
    match s.team? g.team with
    | none => s
    | some t =>
      let boOk := match o.bo with
        | none => true
        | some a => t.boOk a
      if !o.kickOk ∨ !boOk then s.copyForm cl o o.a
      else
        let c := s.chain o 1024 o.a ⟨[], none, o.cache, none⟩
        match c.1.out with
        | some b => c.2.copyBounce cl { o with cache := c.1.cache } b
        | none =>
          match c.1.blocks.find? (fun x => !c.2.privateAll g x.dst x.len) with
          | some x => c.2.copyRivalOp cl o x.dst
          | none =>
            let r := c.2.chainRun o c.1.blocks 0 ⟨o.prog, c.1.cache, none⟩
            match r.1.out with
            | some b => r.2.copyBounce cl (o.after r.1) b
            | none => (match c.1.bad with
              | some y => r.2.logGang g y.1 4 y.2 0 o.pc
              | none => r.2).copyEnd cl o

/-! ## The engine (R483, R484) -/

/-- What a copy reads before its first source block: the record, or the chain. A bounce, or the bytes that its pass moves and the pointers
of its first reads. -/
def State.copyReady (s : State) (o : CopyOp) : Except ((Nat × Nat × Nat) × CopyOp) (Nat × List DWord) × State :=
  if o.kick then
    let c := s.chain o 1024 o.a ⟨[], none, o.cache, none⟩
    match c.1.out with
    | some b => (.error (b, { o with cache := c.1.cache }), c.2)
    | none => (.ok (c.1.blocks.foldl (fun n x => n + x.len) 0 - o.prog, o.a :: (c.1.blocks.take 1).map Ccb.src), s)
  else
    match s.engRecord o.gang o.id o.a o.pc with
    | (.bounce x y z, s1) => (.error ((x, y, z), o), s1)
    | (.bad, _) => (.ok (0, [o.a]), s)
    | (.ok x, _) =>
      let n := x.tileBits / 8 - o.prog
      let m := match o.dest, (s.gang? o.gang).bind (fun g => s.team? g.team) with
        | some (.flume off), some t => match t.flume (BitVec.ofNat 64 off) with
          | .ok f => min n f.2
          | .error _ => 0
        | _, _ => n
      (.ok (m, o.a :: (match x.origin (field o.b 0 40) with
        | some org => [(x.elemAt org).1]
        | none => [])), s)

/-- A copy engine takes the next copy of its queue that is not in a cistern, unless one runs or waits for a walk or in a shared queue. The
control block of a flume is read 20 clk after issue at the earliest; the record and the first source block arrive, 128 bytes a clk
follow. A copy goes on wherever its team is (R135). -/
def State.copyStart (s : State) (cl : Nat) : State :=
  let q := s.copyQueue cl
  let busy := fun (o : CopyOp) => o.start.isSome || ((o.bounce.map (fun b => stalls b.1)).getD false)
  if q.any busy then s
  else match q.find? (fun o => o.bounce.isNone) with
    | none => s
    | some o =>
      match s.copyReady o with
      | (.error b, s1) => s1.copyBounce cl b.2 b.1
      | (.ok r, s1) =>
        let t := 20 + (r.2.map (fun p => s1.firstData o.gang p)).foldl (· + ·) 0 + (r.1 + 127) / 128
        (s1.modCopy cl o.id (fun y => { y with start := some s.clk.now })).sched (s.clk.now + t) .copyComplete cl 0 o.id s.clk.now

/-- A pass or a slot of a gang's copy has been moved (`b` 0), or acknowledgements of its writes have arrived (`b` 1). -/
def State.copyEvent (s : State) : State :=
  let y := s.clk.subj
  if y.b = 0 then
    match (s.copyQueue y.a).find? (fun o => o.id == y.c) with
    | none => s
    | some o => if o.start = some y.d then (if o.kick then s.kickRun y.a o else s.copytRun y.a o) else s
  else s.eackDue y.c

/-! ## TDLOAD (R486) -/

def execTdload (p : Pred) (d : UDst) (a : USrc) (s : State) : Host.Outcome State Fault Refusal :=
  s.uni p fun x =>
    let ptr := x.u a
    if !ptrOk ptr then s.trapAccess x.k x.path.lanes x.pc 0x0108 5 ptr 1
    else
      let accs := (List.range (if ptr.toNat % 64 = 0 then 4 else 5)).filterMap (fun i =>
        let at_ := if i = 0 then ptr else BitVec.ofNat 64 (ptr.toNat / 64 * 64 + 64 * i)
        let off := at_.toNat - ptr.toNat
        let n := min (64 - at_.toNat % 64) (256 - off)
        if n = 0 then none else some (⟨0, at_, n, off, 0⟩ : Acc))
      (s.newReq { x.req .unitRead ptr [] 1 256 0 with
        dest := match d with
          | .g n => .g n.val
          | .zero => .g 62
        home := true
        parts := accs.map (fun y => Part.new (blkOf y.addr) [y] (s.speculative x.g y.addr)) }).pass x

/-- The value that TDLOAD gives for a record. -/
def tdloadValue (x : TRec) : DWord :=
  BitVec.ofNat 64 (x.etype * 2 ^ 52 + (x.ndim - 1) * 2 ^ 48 + min (prod x.counts) (2 ^ 48 - 1))

/-- The record that TDLOAD names has been read: the result lands and LDC falls. -/
def State.tdloadDone (s : State) (r : Nat) (q : Req) : State :=
  let s0 := { s with work := { s.work with inbox := mdel r s.work.inbox } }
  match s0.gang? q.gang, q.dest with
  | some g, .g n =>
    let out := fun (s : State) (v : DWord) =>
      (s.landOp q.gang r q.run q.plan q.pc (if n = 62 ∨ q.cancel.1.has 0 then [] else [.g n v])).opComplete q.gang r 0
    let bs := q.bytesOf 0 256
    let ones : DWord := 0xFFFFFFFFFFFFFFFF
    if bs.any Option.isNone then out s0 ones
    else match (if q.base.toNat % 64 = 0 then TRec.parse (bs.filterMap id) else none) with
      | none => out (s0.logGang g 0x010E 5 q.base 1 q.runpc) ones
      | some x => if ptrOk x.base then out s0 (tdloadValue x)
          else out ((s0.logGang g 0x0108 5 x.base 1 q.runpc).logGang g 0x010E 5 q.base 1 q.runpc) ones
  | _, _ => s0

end Sys2Proof.Machine
end

