-- ==== Sys2Proof/Machine/Place.lean ====
section
/-! DEFINITION. Room on the clusters: register blocks, scratchpad, gang slots, save areas, and what places a team, takes it off its
cluster and puts it back (R100, R101, R110, R113, R116 to R118, R135 to R140, R165, R496). -/

namespace Sys2Proof.Machine

/-! ## Slots and scratchpad -/

/-- The gangs that hold a slot of a cluster: those of teams that are here and have not exited (R113, R165, R382). -/
def State.slotGangs (s : State) (cl : Nat) : List (Nat × Gang) :=
  (s.liveGangs cl).filter (fun g => ((s.team? g.2.team).map Team.here).getD false && (match g.2.stop with
    | .ending => false
    | .ended => false
    | _ => true))

/-- The issue slots that new gangs are given: the one with the fewest gangs, the lowest on a tie (R165). -/
def slotsFor : Nat → List Nat → List Nat
  | 0, _ => []
  | n + 1, c =>
    let i := ([1, 2, 3].foldl (fun b j => if c.getD j 0 < c.getD b 0 then j else b) 0)
    i :: slotsFor n (lmod c i (· + 1))

/-- How many gangs each issue slot of a cluster holds. -/
def State.slotCounts (s : State) (cl : Nat) : List Nat :=
  (List.range 4).map (fun i => ((s.slotGangs cl).filter (fun g => g.2.slot == i)).length)

/-- Bytes of a cluster's scratchpad below its window (R198). -/
def State.spTop (s : State) (cl : Nat) : Nat := 786432 - 65536 * mgetD 0 cl s.work.spwin

/-- Bytes of a team's scratchpad, a granted growth included. -/
def Team.spFull (t : Team) : Nat := max t.spSize ((t.grow.map Prod.snd).getD 0)

/-- The scratchpads on a cluster: those of teams that are here or whose save runs. -/
def State.spTaken (s : State) (cl : Nat) : List (Nat × Nat) :=
  (s.work.teams.filter (fun t => t.2.cluster == cl && t.2.spFull != 0 && (t.2.here || t.2.saveTill != 0))).map (fun t => (t.2.spBase, t.2.spFull))

/-- The lowest place for a scratchpad of some bytes (log 21). -/
def State.spPlace (s : State) (cl size : Nat) : Option Nat :=
  let taken := s.spTaken cl
  let ok := fun (b : Nat) => decide (b + size ≤ s.spTop cl) && taken.all (fun o => decide (o.1 + o.2 ≤ b ∨ b + size ≤ o.1))
  let places := (0 :: taken.map (fun o => o.1 + o.2)).filter ok
  if size = 0 then some 0
  else match places with
    | [] => none
    | b :: bs => some (bs.foldl min b)

/-! ## Where a team fits (R113, R117) -/

/-- A place for a team: the first rows of its gangs' blocks, how many kept blocks go, its scratchpad. -/
structure Fit where
  cluster : Nat
  bases : List Nat
  evict : Nat
  spBase : Nat

/-- The cluster of a die that stands behind cluster number 34 d + i: that of the i-th lowest bit set in the die's enable mask (R29). -/
def State.physCluster (s : State) (cl : Nat) : Option Nat :=
  if cl < 136 then ((List.range 36).filter (fun i => (s.adm.enmask.getD (dieOf cl) 0).getLsbD i))[cl % 34]? else none

/-- Clusters and control cores run work: not in the recovery state, nor after a module fatal error (R36, R50). -/
def State.runs (s : State) : Bool := !s.adm.recovery && s.adm.fatal.isNone

/-- A cluster runs work (R29). -/
def State.enabled (s : State) (cl : Nat) : Bool := s.runs && (s.physCluster cl).isSome

/-- The clusters of a context's partition on a die, ascending. -/
def State.clustersOf (s : State) (ctx die : Nat) : List Nat :=
  (s.partClusters (s.partOf ctx)).filter (fun c => dieOf c == die && s.enabled c)

/-- Slots and scratchpad of a cluster suffice. -/
def State.roomOn (s : State) (cl gangs sp : Nat) : Bool :=
  decide ((s.slotGangs cl).length + gangs ≤ 64) && (s.spPlace cl sp).isSome && (mget cl s.work.compact).isNone

/-- The place for a team on a cluster: kept blocks go only as free rows do not suffice. -/
def State.fitOn (s : State) (cl : Nat) (blocks : List Nat) (sp : Nat) : Option Fit :=
  if s.roomOn cl blocks.length sp then
    let kept := s.keptBlocks cl
    let try_ := fun (k : Nat) => (rowTakes (s.liveBlocks cl ++ (kept.drop k).map (fun r => (r.2.1, r.2.2))) blocks).map (fun b => (b, k))
    match (List.range (kept.length + 1)).findSome? try_, s.spPlace cl sp with
    | some (b, k), some p => some ⟨cl, b, k, p⟩
    | _, _ => none
  else none

/-- The lowest cluster that a team fits on. -/
def State.fit (s : State) (cls : List Nat) (blocks : List Nat) (sp : Nat) : Option Fit := cls.findSome? (fun c => s.fitOn c blocks sp)

/-- A cluster whose rows would suffice if they were compacted (R118). -/
def State.compactFor (s : State) (cls : List Nat) (blocks : List Nat) (sp : Nat) : Option Nat :=
  cls.find? (fun c => s.roomOn c blocks.length sp &&
    (rowTakes ((packBlocks (s.liveGangs c)).map (fun b => b.2)) blocks).isSome)

/-- The partition's stacks could hold an area of some bytes: granules that are not the partial one are enough (R92, R136, R496). -/
def areaFits (bytes : Nat) : Bool := decide ((bytes + 65535) / 65536 ≤ lastGranule)

/-- The stacks of a context's partition could hold areas of some bytes each (R136). -/
def State.areasFit (s : State) (ctx : Nat) (bytes : List Nat) : Bool := s.partStacks (s.partOf ctx) != [] && bytes.all areaFits

/-- A team of so many rows and so much scratchpad could stand on an empty cluster, and its areas on the partition's stacks (R136). -/
def State.couldFit (s : State) (ctx : Nat) (cls : List Nat) (blocks : List Nat) (sp : Nat) (bytes : List Nat) : Bool :=
  cls.any (fun c => decide (blocks.length ≤ 64) && decide (sp ≤ s.spTop c) && (rowTakes [] blocks).isSome) && s.areasFit ctx bytes

/-- Kept blocks of a cluster are saved and their rows given up: the clk that the saves take. -/
def State.evict (s : State) (cl n : Nat) : Nat × State :=
  let out := (s.keptBlocks cl).take n
  let time := (out.map (fun r => ((s.gang? r.1).map Gang.rowTime).getD 0)).foldl (· + ·) 0
  (time, { s with work := { s.work with retained := s.work.retained.filter (fun r => !(r.1 == cl && out.any (fun o => o.1 == r.2.1))) } })

/-! ## New teams (R101, R110, R113, R122, R136) -/

/-- A gang before its first instruction (R21, R101): every V register uniform and 0. -/
def Gang.fresh (team gangid role cluster slot : Nat) (core : Option Nat) (base rows : Nat) (lanes : List (Option Lane))
    (g : List DWord) (pc : DWord) (busy : Nat) : Gang where
  team := team
  gangid := gangid
  role := role
  cluster := cluster
  slot := slot
  core := core
  base := base
  rows := rows
  lanes := lanes
  v := List.replicate 112 ⟨.uniform, List.replicate 32 0⟩
  t := List.replicate 8 (List.replicate 32 0)
  p := List.replicate 8 0
  g := g
  q := List.replicate 8 false
  paths := [⟨pc, (List.range 32).foldl (fun m l => if (lanes.getD l none).isSome then m ||| Mask.one l else m) 0, none, 0, 0, .none, 0⟩]
  pend := []
  ops := []
  writes := []
  acq := []
  seq := 0
  trapvec := 0
  trapcause := 0
  storehash := 0
  shadow := (0, 0)
  inHandler := false
  saved := []
  trapLanes := 0
  trapPend := none
  rets := []
  busyUntil := busy
  pub := []
  sfu := 0
  uncounted := none
  errs := []
  again := 0
  waitFrom := none
  reqs := 0
  stop := .run
  taken := []
  exitPc := pc

/-- The save area of a team of so many gangs; a control-core task's (R136). -/
def saveBytes (gangs sp : Nat) (rival : Bool) : Nat :=
  gangs * (128 * 128 + 4096 + 240 * 1088) + (if rival then 786432 else sp) + 1048576 + 4096
def coreSaveBytes : Nat := 4096 + 240 * 1088

/-- The snapshot area of a protected team (R258). -/
def snapBytes (gangs rows sp : Nat) : Nat := 4 * (gangs * rows * 128 + sp + 4096)

/-- The areas that a team needs. -/
def teamBytes (gangs rows sp : Nat) (rival prot : Bool) : List Nat :=
  saveBytes gangs sp rival :: (if prot then [snapBytes gangs rows sp] else [])

/-- What a team is placed from. -/
structure Spec where
  ctx : Nat
  src : Source
  teamid : Nat
  rows : Nat
  sp : Nat
  gangs : List (Nat × List (Option Lane))
  g : List DWord
  pc : DWord
  estiv : Nat
  prio : Nat
  rival : Option (Nat × Nat)
  prot : Bool

/-- Scratchpad rounded up to 64 bytes (R197). -/
def Spec.spSize (x : Spec) : Nat := (x.sp + 63) / 64 * 64

/-- The areas of a team are taken: its save area and, where it is protected, its snapshot area (R136, R258). -/
def State.areasFor (s : State) (x : Spec) (die bytes : Nat) : Option ((Nat × Nat) × (Nat × Nat) × State) :=
  match s.areaTake x.ctx die bytes with
  | none => none
  | some (a, s1) =>
    if x.prot then
      match s1.areaTake x.ctx die (snapBytes x.gangs.length x.rows x.spSize) with
      | none => none
      | some (b, s2) => some (a, b, s2)
    else some (a, (0, 0), s1)

/-- A new team record. -/
def Spec.team (x : Spec) (cluster : Nat) (gangs : List Nat) (spBase now : Nat) (area sarea : Nat × Nat) : Team where
  ctx := x.ctx
  src := x.src
  teamid := x.teamid
  cluster := cluster
  gangs := gangs
  spBase := spBase
  spSize := x.spSize
  sp := []
  spDesc := []
  st := .placed
  saveTill := 0
  kill := false
  waitFrom := none
  estiv := x.estiv
  prio := x.prio
  since := now
  age := 0
  area := area
  bound := 0
  rival := x.rival
  quota := x.spSize
  grow := none
  lerr := 0
  tiles := []
  tops := []
  prot := if x.prot then some ⟨0, [], [], [], [], false, sarea, (0, 0), [], [], [], [], 0⟩ else none

/-- A TEAM IS PLACED on a cluster (R113): its areas, its blocks, its gangs. The number of the team. -/
def State.placeAt (s : State) (x : Spec) (f : Fit) : Option (Nat × State) :=
  match s.areasFor x (dieOf f.cluster) (saveBytes x.gangs.length x.spSize x.rival.isSome) with
  | none => none
  | some (a, b, s1) =>
    let (time, s2) := s1.evict f.cluster f.evict
    let slots := slotsFor x.gangs.length (s2.slotCounts f.cluster)
    let t := s2.clk.fresh
    let ks := (List.range x.gangs.length).map (fun i => t + 1 + i)
    let s3 := { s2 with clk := { s2.clk with fresh := t + 1 + x.gangs.length } }
    let s4 := (List.range x.gangs.length).foldl (fun (s : State) i =>
      let r := x.gangs.getD i (0, [])
      s.setGang (t + 1 + i) (Gang.fresh t i r.1 f.cluster (slots.getD i 0) none (f.bases.getD i 0) x.rows r.2 x.g x.pc (s.clk.now + time))) s3
    some (t, s4.setTeam t (x.team f.cluster ks f.spBase s.clk.now a b))

/-- The lowest free control core of a die, of its 8 (R7, R127). -/
def State.freeCore (s : State) (die : Nat) : Option Nat :=
  if !s.runs then none else
  ((List.range 8).map (fun i => 8 * die + i)).find? (fun c => !(s.work.gangs.any (fun g =>
    g.2.core == some c && s.resident g.2)))

/-- A control-core task is placed on a core (R122, R127): one gang with one lane, on the uniform set. -/
def State.placeCore (s : State) (x : Spec) (core : Nat) : Option (Nat × State) :=
  match s.areaTake x.ctx (core / 8) coreSaveBytes with
  | none => none
  | some (a, s1) =>
    let t := s1.clk.fresh
    let s2 := { s1 with clk := { s1.clk with fresh := t + 2 } }
    let s3 := s2.setGang (t + 1) (Gang.fresh t 0 0 0xFFFF 0 (some core) 0 0 (x.gangs.headD (0, [])).2 x.g x.pc s.clk.now)
    some (t, s3.setTeam t (x.team 0xFFFF [t + 1] 0 s.clk.now a (0, 0)))

/-- The lanes of gang `g` of a team of `n` lanes whose work identifiers a function gives. -/
def gangLanes (n g : Nat) (wid : Nat → DWord) : List (Option Lane) :=
  (List.range 32).map (fun l => if 32 * g + l < n then some ⟨32 * g + l, wid (32 * g + l)⟩ else none)

/-- The uniform registers before the first instruction: those of `ps`, every other 0 (R26, R113). Where two parameter entries of one
kernel name the same G register the later entry of the table wins: the spec is silent on it (DESIGN CHOICE, log 90). -/
def gFile (ps : List (Nat × DWord)) : List DWord := ps.foldl (fun l p => lset l p.1 p.2) (List.replicate 62 0)

/-- The sum of dk 2^Ok (R110). -/
def widSum : List Nat → List Nat → Nat
  | d :: ds, w :: ws => d + 2 ^ w * widSum ds ws
  | _, _ => 0

/-- The work identifier of lane `j` of team `t` of a launch. -/
def Launch.wid (l : Launch) (t j : Nat) : DWord :=
  BitVec.ofNat 64 (widSum (digits j (l.extents.take l.cut) ++ digits t (l.extents.drop l.cut)) l.widths)

/-- Team `t` of a launch (R110, R113). -/
def Launch.spec (l : Launch) (lid t : Nat) : Spec where
  ctx := l.ctx
  src := .launch lid
  teamid := t
  rows := l.rows
  sp := l.spad
  gangs := let n := (l.lanes + 31) / 32
    (List.range n).map (fun g => (g * l.roles / n, gangLanes l.lanes g (l.wid t)))
  g := gFile l.params
  pc := l.start
  estiv := l.estiv
  prio := l.prio
  rival := none
  prot := l.prot

/-- The team or control-core task of a task record (R122). -/
def Task.spec (k : Task) (tid : Nat) (prot : Bool) : Spec where
  ctx := k.ctx
  src := .task tid
  teamid := 0
  rows := k.rows
  sp := k.spad
  gangs := if k.core then [(0, (List.range 32).map (fun l => if l = 0 then some ⟨0, k.coord⟩ else none))]
    else (List.range k.gangs).map (fun g => (0, gangLanes (32 * k.gangs) g (fun _ => k.coord)))
  g := gFile [(0, k.arg), (1, k.coord)]
  pc := k.entry
  estiv := 8192
  prio := k.prio
  rival := k.rival
  prot := prot && !k.core

/-! ## Leaving a cluster and coming back (R100, R135, R137, R139, R140) -/

/-- A stopped or waiting team leaves its cluster: its engine reservation is revoked, its rows are kept, its scratchpad and tiles
are saved and then freed, its slots are free at once; its copies go on (R100, R135, R335). -/
def State.vacate (s : State) (t : Nat) (st : TState) : State :=
  match s.team? t with
  | none => s
  | some t0 =>
    -- the running operation reaches its boundary before the save begins (R335)
    let wait := if (s.engine t0.cluster).holder = some t then ((s.engine t0.cluster).ops.head?.map (fun o => (s.tileStop o).2)).getD 0 else 0
    let s1 := s.engineRevoke t0.cluster t
    match s1.team? t with
    | none => s1
    | some tm =>
      let keep := tm.gangs.filterMap (fun k => match s1.gang? k with
        | some g => if g.core.isNone ∧ g.rows ≠ 0 then some (g.cluster, k, g.base, g.rows) else none
        | none => none)
      let tiles := (tm.tiles.filter (fun x => x.st != TileState.none)).length
      let till := s.clk.now + wait + tm.spSize / 64 + 256 * tiles
      let s2 := { s1 with work := { s1.work with retained := s1.work.retained ++ keep } }
      (s2.setTeam t { tm with st := st, saveTill := till, waitFrom := none }).sched till .saveComplete t

/-- A row with nothing in it. -/
def VReg.zero : VReg := ⟨.uniform, List.replicate 32 0⟩

/-- Registers outside a weir's live masks read 0 or false when a gang resumes (R140). -/
def Gang.mask (g : Gang) (p q : BitVec 8) (gl : DWord) (v : BitVec 112) : Gang :=
  { g with
    v := (List.range 112).map (fun i => if v.getLsbD i then g.v.getD i VReg.zero else VReg.zero)
    g := (List.range 62).map (fun i => if gl.getLsbD i then g.g.getD i 0 else 0)
    p := (List.range 8).map (fun i => if p.getLsbD i then g.p.getD i 0 else 0)
    q := (List.range 8).map (fun i => if q.getLsbD i then g.q.getD i false else false) }

/-- A gang resumes on a cluster at an issue slot and a block. -/
def Gang.resume (g : Gang) (cl slot base now busy : Nat) : Gang :=
  let g1 := g.settle (now + 1)
  let g2 := match g1.stop with
    | .weir p q gl v => g1.mask p q gl v
    | _ => g1
  { g2 with
    cluster := cl, slot := slot, base := base, busyUntil := busy
    stop := match g2.stop with
      | .ending => .ending
      | .ended => .ended
      | _ => .run }

/-- The gangs of a team that hold rows. -/
def State.rowGangs (s : State) (tm : Team) : List (Nat × Gang) :=
  tm.gangs.filterMap (fun k => match s.gang? k with
    | some g => if g.rows = 0 then none else some (k, g)
    | none => none)

/-- Every block of a team is still in place on its cluster (R100). -/
def State.allKept (s : State) (tm : Team) : Bool :=
  (s.rowGangs tm).all (fun g => s.work.retained.contains (g.2.cluster, g.1, g.2.base, g.2.rows))

/-- The engine of a cluster is free for a team that comes back with tiles or operations (R137, R335). -/
def State.engineOk (s : State) (tm : Team) (cl : Nat) : Bool :=
  (tm.tiles.all (fun x => x.st == TileState.none) && tm.tops == []) || (s.engine cl).holder.isNone

/-- Where a team that has left can come back: on its cluster with its rows in place, else on the lowest cluster of its die (R137). -/
def State.comeBack (s : State) (tm : Team) : Option (Fit × Bool) :=
  let gs := s.rowGangs tm
  let here := decide (tm.cluster ∈ s.clustersOf tm.ctx (dieOf tm.cluster)) && s.allKept tm && s.roomOn tm.cluster gs.length tm.spSize && s.engineOk tm tm.cluster
  if here then some (⟨tm.cluster, gs.map (fun g => g.2.base), 0, (s.spPlace tm.cluster tm.spSize).getD 0⟩, true)
  else
    let s1 := { s with work := { s.work with retained := s.work.retained.filter (fun r => !tm.gangs.contains r.2.1) } }
    (s1.fit ((s1.clustersOf tm.ctx (dieOf tm.cluster)).filter (s1.engineOk tm)) (gs.map (fun g => g.2.rows)) tm.spSize).map (fun f => (f, false))

/-- A team comes back to a cluster (R137, R140): its registers, scratchpad and tiles are restored first. -/
def State.bringBack (s : State) (t : Nat) (tm : Team) (f : Fit) (here : Bool) : State :=
  let s0 := { s with work := { s.work with retained := s.work.retained.filter (fun r => !tm.gangs.contains r.2.1) } }
  let (time, s1) := s0.evict f.cluster f.evict
  let gs := s1.rowGangs tm
  let slots := slotsFor gs.length (s1.slotCounts f.cluster)
  let rows := if here then 0 else (gs.map (fun g => g.2.rowTime)).foldl (· + ·) 0
  let tiles := (tm.tiles.filter (fun x => x.st != TileState.none)).length
  let busy := s.clk.now + time + rows + tm.spSize / 64 + 256 * tiles
  let s2 := (List.range gs.length).foldl (fun (s : State) i => match gs[i]? with
    | none => s
    | some g => s.setGang g.1 (g.2.resume f.cluster (slots.getD i 0) (f.bases.getD i 0) s.clk.now busy)) s1
  let s3 := s2.modTeam t (fun tm => { tm with cluster := f.cluster, spBase := f.spBase, st := .placed, since := s.clk.now, age := 0, waitFrom := none })
  (s3.engineRestore f.cluster t).kickReissue f.cluster

/-- A control-core task comes back to a core of its die. -/
def State.bringCore (s : State) (t : Nat) (tm : Team) (core : Nat) : State :=
  let s1 := tm.gangs.foldl (fun (s : State) k => s.modGang k (fun g => { (g.resume 0xFFFF 0 0 s.clk.now s.clk.now) with core := some core })) s
  (s1.modTeam t (fun tm => { tm with st := .placed, since := s.clk.now, age := 0, waitFrom := none })).kickReissue (1000 + core)

/-! ## Stop requests (R139) -/

/-- A stop of a team is requested: each gang that has not exited stops as R139 says. -/
def State.stopTeam (s : State) (t : Nat) : State :=
  match s.team? t with
  | none => s
  | some tm =>
    match tm.st with
    | .placed => (tm.gangs.foldl (fun (s : State) k => s.modGang k (fun g => g.ask s.clk.now)) s).modTeam t (fun x => { x with st := .stopping })
    | _ => s

end Sys2Proof.Machine
end

