-- ==== Sys2Proof/Machine/Tasks.lean ====
section
/-! DEFINITION. Tasks: the checks of a record, the address-matching tables, TASKSUB, TASKDONE and completion (R120 to R126, R145,
R146, R487, R488). -/

namespace Sys2Proof.Machine

/-! ## Records (R120, R121) -/

def recKind (r : List Byte) : Nat := numAt r 0x38 8
def recRivv (r : List Byte) : Bool := bits (recKind r) 25 1 == 1
def recRival (r : List Byte) : Nat := bits (recKind r) 26 6
def recCore (r : List Byte) : Bool := bits (recKind r) 0 2 == 1
def recRows (r : List Byte) : Nat := 16 * 2 ^ bits (recKind r) 23 2
def recGangs (r : List Byte) : Nat := bits (recKind r) 6 5 + 1
def recSpad (r : List Byte) : Nat := bits (recKind r) 32 10

/-- The field checks of R121; RIVAL and RIVV of a rival's own submission do not count (R145). -/
def recOk (r : List Byte) (rival : Bool) : Bool :=
  let k := recKind r
  bits k 42 22 == 0 && bits k 18 5 == 0 && bits k 11 5 == 0 && bits k 2 4 == 0 && decide (bits k 0 2 ≤ 1) && decide (recSpad r ≤ 768) &&
  (rival || recRivv r || recRival r == 0) &&
  (!recCore r || (bits k 6 5 == 0 && bits k 23 2 == 0 && recSpad r == 0))

/-- The scope that a team has opened and not closed (R142). -/
def State.scopeOf (s : State) (t : Nat) : Option (Nat × Scp) := s.work.scopes.find? (fun x => x.2.opener == t && x.2.st != ScState.closed)

/-- The rival that a submission belongs to: the submitter's own, or the one its record names in the submitter's scope;
`none` where R121 refuses it. -/
def State.recRivalOf (s : State) (r : List Byte) (team : Option Nat) : Option (Option (Nat × Nat)) :=
  match (team.bind s.team?).bind Team.rival with
  | some v => some (some v)
  | none =>
    if !recRivv r then some none
    else match team.bind s.scopeOf with
      | none => none
      | some x => if recRival r < x.2.rivals.length then some (some (x.1, recRival r)) else none

/-- The protection of the team that opened a rival's scope (R163). -/
def State.openerProt (s : State) (v : Option (Nat × Nat)) : Bool :=
  match v with
  | none => false
  | some v => (((mget v.1 s.work.scopes).bind (fun x => s.team? x.opener)).map (fun t => t.prot.isSome)).getD false

/-- A record's team fits some cluster of the partition on a die, with its areas; for a control core only its area counts (R121, R136). -/
def State.recFits (s : State) (ctx die : Nat) (r : List Byte) (v : Option (Nat × Nat)) : Bool :=
  if recCore r then s.areasFit ctx [coreSaveBytes]
  else s.couldFit ctx (s.clustersOf ctx die) (List.replicate (recGangs r) (recRows r)) (recSpad r * 1024)
    (teamBytes (recGangs r) (recRows r) (recSpad r * 1024) v.isSome (s.openerProt v))

/-! ## The table (R123, R124, R146) -/

/-- Table entries that a record takes: one for each range with bytes. -/
def recEntries (r : List Byte) : Nat := (if numAt r 0x30 4 = 0 then 0 else 1) + (if numAt r 0x34 4 = 0 then 0 else 1)

/-- Two ranges share a block of 64 bytes. -/
def shareBlock (a : DWord) (n : Nat) (b : DWord) (m : Nat) : Bool :=
  decide (n ≠ 0 ∧ m ≠ 0 ∧ ptrVa a / 64 ≤ (ptrVa b + m - 1) / 64 ∧ ptrVa b / 64 ≤ (ptrVa a + n - 1) / 64)

/-- A new task depends on an earlier one (R124, R146). -/
def Task.after (u v : Task) : Bool :=
  u.ctx == v.ctx && u.die == v.die && u.rival == v.rival &&
  (shareBlock u.wbase u.wlen v.rbase v.rlen || shareBlock u.wbase u.wlen v.wbase v.wlen || shareBlock u.rbase u.rlen v.wbase v.wlen)

/-- A candidate becomes ready: its wait counts from now (R129). Kinds: 0 launch, 1 task, 2 team. -/
def State.ageFrom (s : State) (kind n : Nat) : State := s.sched (s.clk.now + 65536) .priorityAging kind n s.clk.now

/-- A task becomes ready. -/
def State.taskReady (s : State) (tid : Nat) : State :=
  ({ s with work := { s.work with tasks := mmod tid (fun k => { k with st := .ready, since := s.clk.now, age := 0, bound := s.sluiceOf k.ctx 5 }) s.work.tasks } }).ageFrom 1 tid

/-- The rival has been killed. -/
def State.rivalGone (s : State) (v : Option (Nat × Nat)) : Bool :=
  match v with
  | none => false
  | some v => match (mget v.1 s.work.scopes).bind (fun x => x.rivals[v.2]?) with
    | none => true
    | some x => x.st == RivState.killed

/-- A record that has passed its checks enters the table of a die; a finished rival runs again. The task of a killed rival is gone at once (R157). -/
def State.enterTask (s : State) (ctx die : Nat) (r : List Byte) (rival : Option (Nat × Nat)) (parent : Option Nat) (source : Nat) : State :=
  if s.rivalGone rival then s
  else
    let (tid, s) := s.takeFresh
    let k : Task := {
      ctx := ctx, die := die, st := .waiting
      entry := BitVec.ofNat 64 (numAt r 0 8), arg := BitVec.ofNat 64 (numAt r 8 8), coord := BitVec.ofNat 64 (numAt r 0x10 8)
      succ := BitVec.ofNat 64 (numAt r 0x18 8)
      rbase := BitVec.ofNat 64 (numAt r 0x20 8), rlen := numAt r 0x30 4, wbase := BitVec.ofNat 64 (numAt r 0x28 8), wlen := numAt r 0x34 4
      core := recCore r, rows := recRows r, gangs := recGangs r, spad := recSpad r * 1024
      prio := bits (recKind r) 16 2, since := s.clk.now, age := 0, rival := rival, deps := [], parent := parent, source := source, bound := 0, area := (0, 0) }
    let deps := (s.work.tasks.filter (fun t => k.after t.2)).map Prod.fst
    let s1 := { s with work := { s.work with
      tasks := mput tid { k with deps := deps } s.work.tasks
      scopes := match rival with
        | none => s.work.scopes
        | some v => mmod v.1 (fun x => { x with rivals := lmod x.rivals v.2 (fun y => if y.st = .finished then { y with st := .running } else y) }) s.work.scopes } }
    if deps = [] then s1.taskReady tid else s1

/-- What the table answers to a submission. -/
inductive SubAns where
  | refused | full | taken
  deriving DecidableEq, Repr

/-- A submission to the table of a die. -/
def State.submit (s : State) (ctx die : Nat) (r : List Byte) (team parent : Option Nat) (source : Nat) : SubAns × State :=
  match s.recRivalOf r team with
  | none => (.refused, s)
  | some v =>
    if !recOk r v.isSome || !s.recFits ctx die r v then (.refused, s)
    else if 2048 < s.tableUsed die + recEntries r then (.full, s)
    else (.taken, s.enterTask ctx die r v parent source)

/-! ## TASKSUB (R487) -/

/-- A path that has waited for a unit goes on when the answer arrives after the trip to it; a Q result lands 4 clk later. -/
def State.lateQ (s : State) (k : Nat) (lanes : Mask) (time : Nat) (qd : Nat) (v : Bool) : State :=
  match s.gang? k with
  | none => s
  | some g =>
    match g.path? lanes with
    | none => s
    | some p =>
      let run := (p.run.map Run.uid).getD 0
      let pos := (p.run.map Run.pos).getD 0
      let t := s.clk.now + time
      s.setGang k ((g.push ⟨s.issueFrom g.die t 4, pos + 4, run, run, true, lanes, p.pc, .general, .q qd v⟩).modPath lanes (fun p => { p.next p.wlen with wait := .none, hold := t }))

/-- TASKSUB: the record is read as a load of the gang that counts in no counter; what follows is `State.tasksubRead`. -/
def execTasksub (p : Pred) (space : Bool) (qd : Fin 8) (a : USrc) (s : State) : Host.Outcome State Fault Refusal :=
  s.uni p fun x =>
    let ptr := x.u a
    if !ptrOk ptr then s.trapAccess x.k x.path.lanes x.pc 0x0108 0 ptr 1
    else if ptr.toNat % 64 ≠ 0 then (s.logGang x.g 0x010F 0 ptr 1 x.hdr).answerQ x x.g.die qd false
    else
      let id := s.clk.fresh
      let acc : Acc := ⟨0, ptr, 64, 0, 0⟩
      let s1 := s.newReq { x.req .unitRead ptr [] 1 64 4 with parts := s.partsOf x.g [acc] }
      (s1.modGang x.k (fun g => { g with uncounted := some id })).await x (.sub id qd.val space)

/-- The place of a gang's task submissions among the sources of R128. -/
def gangSource (k : Nat) : Nat := 3 * k + 2

/-- The record of a TASKSUB has been read: the table's answer, once its queue takes the submission (R474). -/
def State.tasksubRead (s : State) (id : Nat) (q : Req) : State :=
  let queue := workQueue 1 (((s.gang? q.gang).map Gang.die).getD 0)
  let held := mget id s.work.uncs
  if (held.map (fun u => u.ent.btime)).getD 0 ≠ 0 then s
  else if s.workBusy queue && (s.gang? q.gang).isSome then
    (if held.isSome then s else s.workEnter id q.gang queue ⟨q.pc, q.runpc, q.word, q.run, q.seq, 0, 0xFF, none, none⟩)
  else
  let s0 := { s with work := { s.work with inbox := mdel id s.work.inbox } }
  match s0.gang? q.gang with
  | none => s0
  | some g =>
    match g.paths.findSome? (fun p => match p.wait with
      | .sub i qd sp => if i = id then some (p.lanes, qd, sp) else none
      | _ => none) with
    | none => s0.uncDone q.gang id
    | some (lanes, qd, space) =>
      let bs := q.bytesOf 0 64
      let refuse := fun (s : State) => ((s.logGang g 0x010F 0 q.base 1 q.runpc).uncDone q.gang id).lateQ q.gang lanes 140 qd false
      if q.bad ≠ 0 ∨ bs.any Option.isNone ∨ bs.length < 64 then refuse s0
      else
        let r := bs.filterMap (fun b => b)
        match s0.submit q.ctx g.die r (some g.team) (some q.gang) (gangSource q.gang) with
        | (.refused, s1) => refuse s1
        | (.taken, s1) => (s1.uncDone q.gang id).lateQ q.gang lanes 140 qd true
        | (.full, s1) =>
          if space then
            (s1.uncPut id ⟨q.gang, .tasksub r g.die, 0x0304, BitVec.ofNat 64 (2 ^ 57 + g.die), ⟨q.pc, q.runpc, q.word, q.run, q.seq, s.clk.now, 0xFF, none, none⟩⟩).lateQ
              q.gang lanes 140 qd true
          else (s1.uncDone q.gang id).lateQ q.gang lanes 140 qd false

/-- A submission that stands in a cistern is submitted again (R125, R211, R487). -/
def State.retrySub (s : State) (id k : Nat) (r : List Byte) (die : Nat) : State :=
  match s.gang? k with
  | none => s.uncDone k id
  | some g =>
    if 2048 < s.tableUsed die + recEntries r then s.uncStay id 0x0304
    else match s.recRivalOf r (some g.team) with
      | some v => (s.enterTask (s.ctxOf g) die r v (some k) (gangSource k)).uncDone k id
      | none => s.uncDone k id

/-! ## TASKDONE (R488) -/

/-- Every task that a gang has submitted has completed, none waits in its cistern. -/
def State.tasksDone (s : State) (k : Nat) (g : Gang) : Bool :=
  s.work.tasks.all (fun t => t.2.parent != some k) && (match g.uncounted.bind (fun id => mget id s.work.uncs) with
    | some ⟨_, .tasksub _ _, _, _, _⟩ => false
    | _ => true)

def execTaskdone (p : Pred) (s : State) : Host.Outcome State Fault Refusal :=
  s.uni p fun x => if s.tasksDone x.k x.g then s.pass x else s.await x (.task x.pc)

/-! ## Completion (R126) -/

/-- Tasks are gone; the save area of one that was waiting for its last decrement is freed (R126, R136, R157). -/
def State.dropTasks (s : State) (f : Nat × Task → Bool) : State :=
  let s1 := (s.work.tasks.filter f).foldl (fun (s : State) t => s.areaFree t.2.area) s
  { s1 with work := { s1.work with tasks := s1.work.tasks.filter (fun t => !f t) } }

/-- Steps 2 and 3: the task's entries are removed, and tasks whose last predecessor it was become ready. -/
def State.taskEnd (s : State) (tid : Nat) : State :=
  let s := s.areaFree (((mget tid s.work.tasks).map Task.area).getD (0, 0))
  let ts := (mdel tid s.work.tasks).map (fun (t : Nat × Task) => (t.1, { t.2 with deps := t.2.deps.filter (fun d => d != tid) }))
  let s1 := { s with work := { s.work with tasks := ts } }
  (ts.filter (fun t => t.2.st == KState.waiting && t.2.deps == [])).foldl (fun (s : State) t => s.taskReady t.1) s1

/-- An address lies outside a rival's private range (R147). -/
def State.specAddr (s : State) (v : Nat × Nat) (a : DWord) : Bool :=
  match (mget v.1 s.work.scopes).bind (fun x => x.rivals[v.2]?) with
  | none => false
  | some x => !decide (ptrVa x.pbase ≤ ptrVa a ∧ ptrVa a < ptrVa x.pbase + x.plen)

/-- The SUCC word is lowered by 1, as any atomic on its block performs (R79, R147, R272): the new state, and a cause, 0x02FF where the way to
its home is taken (R42, R202), or the trip that the acknowledgement takes. -/
def State.decSucc (s : State) (k : Task) : State × Except Nat Nat :=
  if k.succ.toNat % 8 ≠ 0 then (s, .error 0x010C)
  else
    match s.access k.ctx .atomic k.succ with
    | .error c => (s, .error c)
    | .ok (leaf, size, a) =>
      let spec := match k.rival with
        | some v => if s.specAddr v k.succ then some v else none
        | none => none
      let home := match spec with
        | some v => some (s.specHome v)
        | none => s.homeOf k.ctx k.die leaf size (ptrVa k.succ)
      match home with
      | none => (s, .error 0x0109)
      | some (.peer _ true) => (s, .error 0x0104)
      | some h =>
        let loc := a / 64
        let tag := match spec with
          | some v => s.specTag v (blkOf k.succ) (s.tagOf loc)
          | none => s.tagOf loc
        if s.portDown h || decide (s.clk.now < mgetD 0 h.queue s.mem.busy) then (s, .error 0x02FF)
        else if leafTagck leaf && ptrTag k.succ != tag then (s, .error 0x0106)
        else
          match s.readHome loc k.ctx (if leafTagck leaf then some (ptrTag k.succ) else none) with
          | (_, true, found, s1) => (s1, .error (found.getD 0x0204))
          | (mem, false, _, s1) =>
            let off := ptrVa k.succ % 64
            let low := fun (block : List Byte) => toBytes 8 ((ofBytes ((block.drop off).take 8) + 2 ^ 64 - 1) % 2 ^ 64)
            let trip := h.trip k.die none
            match spec with
            | some v =>
              let seen := s1.specBlock v (blkOf k.succ) mem
              (s1.specWrite v (blkOf k.succ) true mem ⟨(overlayBytes seen off (low seen)).map some, none, none⟩, .ok trip)
            | none => (((s1.writeAt a ((low mem).map some)).setTag loc (if leafTagck leaf then ptrTag k.succ else 0)).sliceTouch loc k.ctx, .ok trip)

/-- A decrement waits: for its page, or for the way to its home. -/
def succWaits (c : Nat) : Bool := bounces c || c == 0x02FF

/-- TASK_COMPLETE: a task whose gangs have exited and whose stores are complete. `d` 0: its SUCC word is lowered; 1: that is acknowledged. A
decrement of a missing page writes its record when it bounces (R90, R91). -/
def execTaskComplete (s : State) : Host.Outcome State Fault Refusal :=
  let tid := s.clk.subj.a
  match mget tid s.work.tasks with
  | none => .next s
  | some k =>
    let mark := fun (s : State) (b : Bool) => { s with work := { s.work with tasks := mmod tid (fun k => { k with st := .ending b }) s.work.tasks } }
    let rcd := fun (s : State) (c : Nat) => s.log ⟨c, 2, k.ctx, 0xFFFF, 0xFFFF, k.succ, s.clk.now, 1, 0⟩
    if s.clk.subj.d = 1 ∨ k.succ = 0 then .next (s.taskEnd tid)
    else
      match s.decSucc k with
      | (s1, .ok trip) => .next ((mark s1 false).sched (s.clk.now + trip) .taskComplete tid 0 0 1)
      | (s1, .error c) =>
        if succWaits c then .next ((mark (if c = 0x0102 then rcd s1 c else s1) true).serveCause k.ctx (ptrVa k.succ) c true)
        else .next ((rcd s1 c).taskEnd tid)

/-- A decrement that waits is tried again when nothing is in its way any more (R126). -/
def State.retrySucc (s : State) (tid : Nat) (k : Task) : State :=
  let waits := match (s.decSucc k).2 with
    | .error c => succWaits c
    | .ok _ => false
  if waits then s
  else ({ s with work := { s.work with tasks := mput tid { k with st := .ending false } s.work.tasks } }).sched s.clk.now .taskComplete tid

end Sys2Proof.Machine
end

