-- ==== Sys2Proof/Machine/Furrow.lean ====
section
/-! DEFINITION. Furrows: the compaction units, FAPP, FTAKE, DRYW and the drought detector (R131 to R133, R489 to R491). -/

namespace Sys2Proof.Machine

/-! ## Records (R131) -/

/-- A furrow that a unit holds, by its context and the address of its record. -/
def State.furrow? (s : State) (ctx : Nat) (a : DWord) : Option Furrow :=
  s.work.furrows.find? (fun f => f.ctx == ctx && ptrVa f.addr == ptrVa a)

/-- What a unit finds at a record: the furrow, a record that breaks R131, a cause. -/
inductive FurRead where
  | ok (f : Furrow)
  | bad
  | cause (c : Nat)

/-- The unit reads a record that it does not hold. -/
def State.furrowRead (s : State) (ctx die : Nat) (a : DWord) : FurRead :=
  match s.furrow? ctx a with
  | some f => .ok f
  | none =>
    if a.toNat % 64 ≠ 0 then .bad
    else
      match s.access ctx .read a with
      | .error c => .cause c
      | .ok (leaf, size, p) =>
        if s.tagBad leaf a p then .cause 0x0106
        else
        let bs := s.stored p 64
        let home := ((s.homeOf ctx die leaf size (ptrVa a)).map Home.die).getD die
        if decide (5 ≤ numAt bs 8 1) && decide (numAt bs 8 1 ≤ 24) && decide (numAt bs 9 1 < 16) && zeroAt bs 0x0A 6 && zeroAt bs 0x28 24 then
          .ok ⟨ctx, (if home < 4 then home else die), a, BitVec.ofNat 64 (numAt bs 0 8), numAt bs 8 1, numAt bs 9 1,
            numAt bs 0x10 8, numAt bs 0x18 8, numAt bs 0x20 8⟩
        else .bad

/-- The unit holds a furrow. -/
def State.setFurrow (s : State) (f : Furrow) : State :=
  let fs := if (s.furrow? f.ctx f.addr).isSome then
      s.work.furrows.map (fun (x : Furrow) => if x.ctx = f.ctx ∧ ptrVa x.addr = ptrVa f.addr then f else x)
    else s.work.furrows ++ [f]
  { s with work := { s.work with furrows := fs } }

/-- The address of an item. -/
def Furrow.item (f : Furrow) (i : Nat) : DWord := f.base + BitVec.ofNat 64 (8 * (i % 2 ^ f.log2n))

/-- Items left to take; slots free for appends. -/
def Furrow.left (f : Furrow) : Nat := f.appended - f.taken
def Furrow.room (f : Furrow) : Nat := 2 ^ f.log2n - f.left

/-- The first cause and address that the ring gives for `n` items from index `i` on. -/
def State.ringCause (s : State) (f : Furrow) (k : AccKind) (i : Nat) : Nat → Option (Nat × DWord)
  | 0 => none
  | n + 1 => match s.access f.ctx k (f.item i) with
    | .error c => some (c, f.item i)
    | .ok _ => s.ringCause f k (i + 1) n

/-! ## Drought (R133) -/

def drKey (ctx group : Nat) : Nat := ctx * 16 + group

/-- What the detector keeps for a group; one that has never been used has been found empty by every sweep since reset. -/
def State.droughtOf (s : State) (key : Nat) : Drought :=
  (mget key s.work.drought).getD ⟨0, 0, if 1024 ≤ s.clk.now then some 0 else none, decide (2048 ≤ s.clk.now)⟩

def State.setDrought (s : State) (key : Nat) (d : Drought) : State := { s with work := { s.work with drought := mput key d s.work.drought } }

/-- The sums over the furrows of a context and group that the units serve. -/
def State.groupSums (s : State) (key : Nat) : Nat × Nat :=
  (s.work.furrows.filter (fun f => drKey f.ctx f.group == key)).foldl (fun x f => (x.1 + f.appended, x.2 + f.drained)) (0, 0)

/-- The units write the records of a group back and give them up. -/
def State.writeBack (s : State) (key : Nat) : State :=
  let fs := s.work.furrows.filter (fun f => drKey f.ctx f.group == key)
  let s1 := fs.foldl (fun (s : State) f => (s.vwrite f.ctx f.addr (toBytes 8 f.base.toNat ++ [BitVec.ofNat 8 f.log2n, BitVec.ofNat 8 f.group] ++
    List.replicate 6 0 ++ toBytes 8 f.appended ++ toBytes 8 f.taken ++ toBytes 8 f.drained ++ List.replicate 24 0)).1) s
  { s1 with work := { s1.work with furrows := s1.work.furrows.filter (fun f => drKey f.ctx f.group != key) } }

/-- One sweep finds a group. -/
def State.sweepGroup (s : State) (key : Nat) : State :=
  let d := s.droughtOf key
  let x := s.groupSums key
  if x.1 = x.2 then
    if d.last = some x.1 then (s.writeBack key).setDrought key ⟨0, 0, some 0, true⟩
    else s.setDrought key { d with app := x.1, drn := x.2, last := some x.1 }
  else s.setDrought key { d with app := x.1, drn := x.2, last := none }

/-- DROUGHT_SWEEP: every 1,024 clk the detector reads the sums of the four dies. -/
def execDroughtSweep (s : State) : Host.Outcome State Fault Refusal :=
  .next (((s.work.drought.map Prod.fst).foldl State.sweepGroup s).sched (s.clk.now + 1024) .droughtSweep 0)

/-! ## Instructions -/

/-- The items that a gang has taken count as drained (R132). -/
def State.drainTaken (s : State) (k : Nat) : State :=
  match s.gang? k with
  | none => s
  | some g =>
    let ctx := s.ctxOf g
    let s1 := g.taken.foldl (fun (s : State) t => { s with work := { s.work with furrows := s.work.furrows.map (fun f =>
      if f.ctx = ctx ∧ ptrVa f.addr = t.1 then { f with drained := f.drained + t.2 } else f) } }) s
    s1.modGang k (fun g => { g with taken := [] })

/-- Slots of a mask in ascending TLID. -/
def Gang.byTlid (g : Gang) (m : Mask) : List Nat :=
  let tl := fun (l : Nat) => ((g.lanes.getD l none).map Lane.tlid).getD l
  (Mask.slots m).foldl (fun acc l => acc.takeWhile (fun x => decide (tl x < tl l)) ++ [l] ++ acc.dropWhile (fun x => decide (tl x < tl l))) []

/-- What a unit's instruction does with a furrow record: `f` with the furrow, `bad` where the record breaks R131. A cause that
bounces is served, and the instruction waits at issue; another cause is recorded (log 24). -/
def State.withFurrow (s : State) (x : Iss) (a : DWord) (access : Nat) (f : State → Furrow → State) (bad : State → State) : State :=
  if !ptrOk a then s.trapAccess x.k x.path.lanes x.pc 0x0108 access a 1
  else
    match s.furrowRead x.ctx x.g.die a with
    | .ok y => s.workGate x 0 y.die (fun s => f (s.setFurrow y) y)
    | .bad => bad (s.logGang x.g 0x010D access a 1 x.hdr)
    | .cause c =>
      if bounces c then (((if c = 0x0102 then s.logGang x.g c access a 1 x.hdr else s).serveCause x.ctx (ptrVa a) c false).await x (.unit a false))
      else bad ((s.logGang x.g c access a 1 x.hdr).engFault x.g)

/-- The ring of a furrow gives a cause for the items that an instruction touches. -/
def State.ringStop (s : State) (x : Iss) (access : Nat) (c : Nat × DWord) (bad : State → State) : State :=
  if bounces c.1 then
    ((if c.1 = 0x0102 then s.logGang x.g c.1 access c.2 1 x.hdr else s).serveCause x.ctx (ptrVa c.2) c.1 (access == 1)).await x (.unit c.2 (access == 1))
  else bad ((s.logGang x.g c.1 access c.2 1 x.hdr).engFault x.g)

/-- An append is accepted: items take consecutive indices, a drought report of the group is cleared. -/
def State.append (s : State) (f : Furrow) (items : List DWord) : State :=
  let s1 := (items.foldl (fun (r : State × Nat) v => ((r.1.vwrite f.ctx (f.item r.2) (toBytes 8 v.toNat)).1, r.2 + 1)) (s, f.appended)).1
  let key := drKey f.ctx f.group
  (s1.setFurrow { f with appended := f.appended + items.length }).setDrought key { s.droughtOf key with report := false }

/-- FAPP. -/
def execFapp (p : Pred) (g : USrc) (v : Fin 112) (s : State) : Host.Outcome State Fault Refusal :=
  s.uni p fun x =>
    let a := x.u g
    let items := (x.g.byTlid x.path.lanes).map (fun l => join (x.g.vlane v.val l) (x.g.vlane (v.val + 1) l))
    let done := fun (s : State) (die : Nat) =>
      (s.answered x (s.clk.now + unitTime x.g.die die)).modGang x.k (fun g => { g with reqs := g.reqs + 1 })
    s.withFurrow x a 1
      (fun s f =>
        if f.room < items.length then
          let (id, s) := s.takeFresh
          done (s.uncPut id ⟨x.k, .fapp a items, 0x0304, a, { x.opEnt with btime := s.clk.now }⟩) f.die
        else match s.ringCause f .write f.appended items.length with
          | some c => s.ringStop x 1 c (fun s => done s f.die)
          | none => done (s.append f items) f.die)
      (fun s => done s x.g.die)

/-- A bounced append is made again (R211): it is accepted, or stays with the cause that it meets. -/
def State.retryFapp (s : State) (id k : Nat) (a : DWord) (items : List DWord) : State :=
  match s.gang? k with
  | none => s.uncDone k id
  | some g =>
    let rec_ := fun (s : State) (c : Nat) (p : DWord) => s.logGang g c 1 p 1 0
    let cause := fun (c : Nat) (p : DWord) (write : Bool) =>
      if bounces c then ((if c = 0x0102 then rec_ s c p else s).serveCause (s.ctxOf g) (ptrVa p) c write).uncStay id c
      else ((rec_ s c p).engFault g).uncDone k id
    match s.furrowRead (s.ctxOf g) g.die a with
    | .ok f =>
      if f.room < items.length then s.uncStay id 0x0304
      else match s.ringCause f .write f.appended items.length with
        | some c => cause c.1 c.2 true
        | none => ((s.setFurrow f).append f items).uncDone k id
    | .bad => (rec_ s 0x010D a).uncDone k id
    | .cause c => cause c a false

/-- A bounced append would not wait any longer (R209): its furrow has room, and no page of it has a cause that bounces. -/
def State.fappReady (s : State) (g : Gang) (a : DWord) (n : Nat) : Bool :=
  match s.furrowRead (s.ctxOf g) g.die a with
  | .ok f => decide (n ≤ f.room) && (match s.ringCause f .write f.appended n with
    | some c => !bounces c.1
    | none => true)
  | .bad => true
  | .cause c => !bounces c

/-- FTAKE. -/
def execFtake (p : Pred) (g : USrc) (v : Fin 112) (pd : Fin 8) (s : State) : Host.Outcome State Fault Refusal :=
  s.uni p fun x =>
    let a := x.u g
    let finish := fun (s : State) (die : Nat) (given : Mask) (vals : Nat → DWord) =>
      let t := s.clk.now + unitTime x.g.die die
      match s.gang? x.k with
      | none => s
      | some g =>
        let ws : List Write := [.v v.val given (rowOf fun l => (vals l).setWidth 32), .v (v.val + 1) given (rowOf fun l => (vals l >>> 32).setWidth 32),
          .p pd.val x.path.lanes given]
        ((s.setGang x.k (g.results x (s.issueFrom g.die t 6) 6 .general ws)).expandFor g ws).answered x t
    let none_ := fun (s : State) (die : Nat) => finish s die 0 (fun _ => 0)
    (s.drainTaken x.k).withFurrow x a 0
      (fun s f =>
        let ls := (x.g.byTlid x.path.lanes).take f.left
        match s.ringCause f .read f.taken ls.length with
        | some c => s.ringStop x 0 c (fun s => none_ s f.die)
        | none =>
          let vals := (List.range ls.length).map (fun i => (ls.getD i 32, BitVec.ofNat 64 (match s.vread f.ctx (f.item (f.taken + i)) 8 with
            | .ok bs => ofBytes bs
            | .error _ => 0)))
          let m := ls.foldl (fun m l => m ||| Mask.one l) 0
          let s0 := (List.range ls.length).foldl (fun (s : State) i => s.readRecs f.ctx (f.item (f.taken + i)) 8) s
          let s1 := s0.setFurrow { f with taken := f.taken + ls.length }
          let key := drKey f.ctx f.group
          let s2 := (s1.setDrought key (s1.droughtOf key)).modGang x.k (fun g => { g with taken := g.taken ++ (if ls = [] then [] else [(ptrVa a, ls.length)]) })
          finish s2 f.die m (fun l => ((vals.find? (fun y => y.1 == l)).map Prod.snd).getD 0))
      (fun s => none_ s x.g.die)

/-- DRYW. -/
def execDryw (p : Pred) (a : USrc) (s : State) : Host.Outcome State Fault Refusal :=
  s.uni p fun x =>
    let ptr := x.u a
    let s1 := s.drainTaken x.k
    if !ptrOk ptr then s1.trapAccess x.k x.path.lanes x.pc 0x0108 0 ptr 1
    else
      match s1.furrowRead x.ctx x.g.die ptr with
      | .ok f => if (s1.droughtOf (drKey x.ctx f.group)).report then s1.pass x else s1.await x (.dry (drKey x.ctx f.group))
      | .bad => (s1.logGang x.g 0x010D 0 ptr 1 x.hdr).pass x
      | .cause c =>
        if bounces c then ((if c = 0x0102 then s1.logGang x.g c 0 ptr 1 x.hdr else s1).serveCause x.ctx (ptrVa ptr) c false).await x (.unit ptr false)
        else (s1.logGang x.g c 0 ptr 1 x.hdr).pass x

/-- A path that waits for the page of a unit's record issues again when the page bounces no more. -/
def State.unitResume (s : State) (k : Nat) (lanes : Mask) (ctx : Nat) (ptr : DWord) (write : Bool) : State :=
  match s.access ctx (if write then .write else .read) ptr with
  | .error c => if bounces c then s else s.modGang k (fun g => { g.modPath lanes (fun p => { p with wait := .none }) with again := g.again ||| lanes })
  | .ok _ => s.modGang k (fun g => { g.modPath lanes (fun p => { p with wait := .none }) with again := g.again ||| lanes })

end Sys2Proof.Machine
end

