-- ==== Sys2Proof/Machine/Tourney.lean ====
section
/-! DEFINITION. Tournament scopes: TOPEN, TRIVAL, TSCORE, TSTAT, TCLOSE, SPGROW, rounds, kills and commits (R142 to R163, R492 to
R494). -/

namespace Sys2Proof.Machine

/-- The die of a team's cluster or core. -/
def State.teamDie (s : State) (t : Nat) : Nat :=
  match s.team? t with
  | none => 0
  | some tm => match (tm.gangs.findSome? s.gang?) with
    | some g => g.die
    | none => dieOf tm.cluster

def State.setScope (s : State) (n : Nat) (x : Scp) : State := { s with work := { s.work with scopes := mput n x s.work.scopes } }
def State.modScope (s : State) (n : Nat) (f : Scp → Scp) : State := { s with work := { s.work with scopes := mmod n f s.work.scopes } }
def State.modRival (s : State) (v : Nat × Nat) (f : Rival → Rival) : State := s.modScope v.1 (fun x => { x with rivals := lmod x.rivals v.2 f })

/-- A live rival (R153). -/
def Rival.live (r : Rival) : Bool :=
  match r.st with
  | .killed => false
  | .winner => false
  | _ => true

/-- The rival's allowance of the present round is used up (R151, R152). -/
def Scp.spent (x : Scp) (r : Rival) : Bool := decide (x.a0 * 2 ^ x.round ≤ r.count)

/-- A team or task of a rival may be placed: the rival runs within its allowance, or has won. -/
def State.rivalMayRun (s : State) (v : Option (Nat × Nat)) : Bool :=
  match v with
  | none => true
  | some v => match mget v.1 s.work.scopes with
    | none => false
    | some x => match x.rivals[v.2]? with
      | none => false
      | some r => match r.st with
        | .running => !x.spent r
        | .winner => true
        | _ => false

/-- The scope that the unit answers for: a rival's, else the newest of the team. -/
def State.scopeFor (s : State) (g : Gang) : Option (Nat × Scp) :=
  match s.rivalOf g with
  | some v => (mget v.1 s.work.scopes).map (fun x => (v.1, x))
  | none => (s.work.scopes.filter (fun x => x.2.opener == g.team)).getLast?

/-- The die of the scope unit that answers a gang (R474): the opener's. -/
def State.scopeDie (s : State) (g : Gang) : Nat :=
  match s.rivalOf g with
  | none => g.die
  | some v => ((mget v.1 s.work.scopes).map (fun x => s.teamDie x.opener)).getD g.die

/-- The answer of the scope unit to the instruction that issues. -/
def State.scopeAns (s : State) (x : Iss) (qd : Fin 8) (v : Bool) : State := s.answerQ x (s.scopeDie x.g) qd v

/-! ## TOPEN (R143, R492) -/

/-- The open block is right (R492). -/
def openOk (b : List Byte) : Bool :=
  decide (2 ≤ numAt b 0 1 ∧ numAt b 0 1 ≤ 64) && decide (numAt b 1 1 ≤ 61) && decide (numAt b 2 1 < 8) && decide (numAt b 2 1 % 4 ≠ 3) &&
  zeroAt b 3 5 && decide (1 ≤ numAt b 8 8 ∧ numAt b 8 8 ≤ 2 ^ 32)

/-- Write sets that the scopes of a die have reserved: one for each rival not killed of a scope not closed (R143, R157). -/
def State.setsOn (s : State) (die : Nat) : Nat :=
  ((s.work.scopes.filter (fun x => x.2.st != ScState.closed && s.teamDie x.2.opener == die)).map (fun x =>
    (x.2.rivals.filter (fun r => r.st != RivState.killed)).length)).foldl (· + ·) 0

def execTopen (p : Pred) (qd : Fin 8) (a : USrc) (s : State) : Host.Outcome State Fault Refusal :=
  s.uni p fun x => s.workGate x 2 (s.scopeDie x.g) fun s =>
    let off := (x.u a).toNat
    match s.team? x.g.team with
    | none => s.scopeAns x qd false
    | some t =>
      let b := t.spBytes off 16
      let die := x.g.die
      let open_ := (s.work.scopes.filter (fun y => y.2.st != ScState.closed && s.teamDie y.2.opener == die)).length
      if off % 16 ≠ 0 ∨ t.spSize < off + 16 ∨ !openOk b ∨ t.rival.isSome ∨ (s.scopeOf x.g.team).isSome ∨ 16 ≤ open_ ∨
          48 * 1024 < (s.setsOn die + numAt b 0 1) * 640 then s.scopeAns x qd false
      else
        let (n, s1) := s.takeFresh
        let riv : Rival := ⟨.running, 0, none, [], 0, 0⟩
        (s1.setScope n ⟨x.g.team, numAt b 8 8, numAt b 1 1, numAt b 2 1, .opened, 0, none, false, List.replicate (numAt b 0 1) riv, none⟩).scopeAns x qd true

/-! ## TRIVAL (R144, R493) -/

/-- The record of a first task as the rival's: RIVV 1 and RIVAL i. -/
def rivalRecord (r : List Byte) (i : Nat) : List Byte :=
  let k := recKind r
  setNum r 0x38 8 (k - bits k 25 7 * 2 ^ 25 + 2 ^ 25 + i * 2 ^ 26)

/-- What the checks of TRIVAL find: the entries with their first records, a failure, or a page that bounces. -/
inductive RivCheck where
  | ok (l : List (DWord × Nat × List Byte))
  | bad
  | wait (a : DWord) (c : Nat)

def State.rivalEntries (s : State) (ctx die scope : Nat) (table : DWord) : Nat → Nat → RivCheck
  | 0, _ => .ok []
  | n + 1, i =>
    let ea := table + BitVec.ofNat 64 (32 * i)
    match s.vread ctx ea 32 with
    | .error c => if bounces c then .wait ea c else .bad
    | .ok e =>
      let task := BitVec.ofNat 64 (numAt e 0 8)
      if task.toNat % 64 ≠ 0 ∨ !zeroAt e 0x14 12 then .bad
      else match s.vread ctx task 64 with
        | .error c => if bounces c then .wait task c else .bad
        | .ok r =>
          let r1 := rivalRecord r i
          if !recOk r1 true || !s.recFits ctx die r1 (some (scope, i)) then .bad
          else match s.rivalEntries ctx die scope table n (i + 1) with
            | .ok l => .ok ((BitVec.ofNat 64 (numAt e 8 8), numAt e 0x10 4, r1) :: l)
            | x => x

def execTrival (p : Pred) (qd : Fin 8) (a : USrc) (s : State) : Host.Outcome State Fault Refusal :=
  s.uni p fun x => s.workGate x 2 (s.scopeDie x.g) fun s =>
    let table := x.u a
    match s.scopeOf x.g.team with
    | none => s.scopeAns x qd false
    | some (n, sc) =>
      if sc.st ≠ ScState.opened ∨ table.toNat % 32 ≠ 0 ∨ !ptrOk table then s.scopeAns x qd false
      else
        match s.rivalEntries x.ctx x.g.die n table sc.rivals.length 0 with
        | .bad => s.scopeAns x qd false
        | .wait ptr c => ((if c = 0x0102 then s.logGang x.g c 0 ptr 1 x.hdr else s).serveCause x.ctx (ptrVa ptr) c false).await x (.unit ptr false)
        | .ok l =>
          if 2048 < s.tableUsed x.g.die + (l.map (fun e => recEntries e.2.2)).foldl (· + ·) 0 then s.scopeAns x qd false
          else
            let rivals := (l.map (fun e => (⟨.running, 0, none, [], e.1, e.2.1⟩ : Rival)))
            let s1 := s.setScope n { sc with st := .racing, round := 0, rivals := rivals }
            let s2 := (List.range l.length).foldl (fun (s : State) i =>
              s.enterTask x.ctx x.g.die (l.getD i (0, 0, [])).2.2 (some (n, i)) none (gangSource x.k)) s1
            s2.scopeAns x qd true

/-! ## TSCORE and TSTAT (R155, R493, R494) -/

def execTscore (p : Pred) (qd : Fin 8) (s : State) : Host.Outcome State Fault Refusal :=
  s.uni p fun x => s.workGate x 2 (s.scopeDie x.g) fun s =>
    match s.rivalOf x.g with
    | none => s.scopeAns x qd false
    | some v => match mget v.1 s.work.scopes with
      | none => s.scopeAns x qd false
      | some sc => match sc.st with
        | .racing => (s.modRival v (fun r => { r with score := some (x.g.g.getD sc.screg 0) })).scopeAns x qd true
        | .decided => (s.modRival v (fun r => { r with score := some (x.g.g.getD sc.screg 0) })).scopeAns x qd true
        | _ => s.scopeAns x qd false

def RivState.code : RivState → Nat
  | .running => 0
  | .barrier => 1
  | .finished => 2
  | .faulted => 3
  | .overflowed => 4
  | .killed => 5
  | .winner => 6

def ScState.code : ScState → Nat
  | .opened => 1
  | .racing => 2
  | .decided => 3
  | .closed => 4

/-- The scope was decided with no winner (R156). -/
def Scp.noWin (x : Scp) : Bool :=
  x.nowin || (match x.winner with
    | none => false
    | some i => match (x.rivals[i]?).map Rival.st with
      | some .faulted => true
      | some .overflowed => true
      | _ => false)

/-- The record of R494. -/
def Scp.record (x : Scp) : List Byte :=
  [BitVec.ofNat 8 x.st.code, BitVec.ofNat 8 x.round, BitVec.ofNat 8 x.rivals.length,
    BitVec.ofNat 8 (if x.noWin then 0xFF else x.winner.getD 0xFF), (if x.noWin then 1 else 0)] ++ List.replicate 11 0 ++
  x.rivals.flatMap (fun r => [BitVec.ofNat 8 r.st.code, (if r.score.isSome then 1 else 0)] ++ List.replicate 6 0 ++ toBytes 8 (r.score.getD 0).toNat)

/-- One scratchpad write of the answer of a unit, 20 clk after it; 8 bytes of it stand in each slot of each access. -/
def State.unitWrite (s : State) (x : Iss) (t : Nat) (off : Nat) (bs : List Byte) : State :=
  (List.range ((bs.length + 255) / 256)).foldl (fun (s : State) i =>
    let part := (bs.drop (256 * i)).take 256
    let lanes := part.length / 8
    let (n, s1) := s.takeFresh
    let accs := (List.range lanes).map (fun l => (⟨l, BitVec.ofNat 64 (off + 256 * i + 8 * l), 8, 0, 0⟩ : Acc))
    let q : Req := { x.req .sts (BitVec.ofNat 64 off) [] 0xFFFFFFFF 8 4 with
      data := (List.range lanes).map (fun l => BitVec.ofNat 64 (numAt part (8 * l) 8))
      parts := [.pad accs s.clk.now] }
    (s1.setReq n q).sched (t + 20) .scratchpadPerform n) s

def execTstat (p : Pred) (qd : Fin 8) (b : USrc) (s : State) : Host.Outcome State Fault Refusal :=
  s.uni p fun x => s.workGate x 2 (s.scopeDie x.g) fun s =>
    let off := (x.u b).toNat
    let sp := ((s.team? x.g.team).map Team.spSize).getD 0
    match s.scopeFor x.g with
    | none => s.scopeAns x qd false
    | some (_, sc) =>
      let bs := sc.record
      if off % 16 ≠ 0 ∨ sp < off + bs.length ∨ (sc.st = ScState.closed ∧ (s.rivalOf x.g).isSome) then s.scopeAns x qd false
      else (s.unitWrite x (s.clk.now + unitTime x.g.die (s.scopeDie x.g)) off bs).scopeAns x qd true

/-! ## Kills (R157, R161) -/

/-- A team is gone: its rows, scratchpad, slots, engine, areas, requests and gangs (R157). -/
def State.dropTeam (s : State) (t : Nat) : State :=
  match s.team? t with
  | none => s
  | some tm =>
    let s0 := if (s.engine tm.cluster).holder = some t then s.engineFree tm.cluster else s
    let tm := (s0.team? t).getD tm
    let s1 := s0.discard tm.gangs 0
    let s2 := (s1.areaFree tm.area).areaFree ((tm.prot.map Prot.area).getD (0, 0))
    let s2 := s2.areaFree ((tm.prot.map Prot.tarea).getD (0, 0))
    { s2 with work := { s2.work with
        gangs := s2.work.gangs.filter (fun g => !tm.gangs.contains g.1)
        teams := mdel t s2.work.teams
        uncs := s2.work.uncs.filter (fun u => !tm.gangs.contains u.2.gang)
        inbox := s2.work.inbox.filter (fun q => !tm.gangs.contains q.2.gang)
        windows := s2.work.windows.map (fun w => { w with gangs := w.gangs.filter (fun k => !tm.gangs.contains k) })
        retained := s2.work.retained.filter (fun r => !tm.gangs.contains r.2.1) } }

/-- A request lies in a cistern there with this part. -/
def Part.inCistern (p : Part) : Bool :=
  match p.st with
  | .cistern _ _ _ => true
  | .woken _ => true
  | _ => false

/-- A copy or tile operation lies in its gang's cistern: it has bounced, and does not wait for a walk or in a shared queue. -/
def opInCistern (b : OpBounce) : Bool :=
  match b.1 with
  | some x => !stalls x.1
  | none => false

/-- The requests in the cisterns of gangs are discarded, with what they count. -/
def State.dropReqs (s : State) (gangs : List Nat) : State :=
  let hit := s.mem.reqs.filter (fun r => gangs.contains r.2.gang && r.2.parts.any Part.inCistern)
  hit.foldl (fun (s : State) r =>
    let q : Req := { r.2 with parts := r.2.parts.map (fun (p : Part) => if p.inCistern then { p with st := .done } else p) }
    if q.parts.all (fun p => p.st == .done) then
      let s1 := { s with mem := { s.mem with reqs := mdel r.1 s.mem.reqs, noFill := s.mem.noFill.filter (fun n => n.2.2 ≠ r.1) } }
      (if q.kind.writes then s1.ackWrite q.gang r.1 0 false else s1).opComplete q.gang r.1 q.cls
    else s.setReq r.1 q) s

/-- The copies and tile operations in the cisterns of gangs are discarded, with what they count. -/
def State.dropOps (s : State) (gangs : List Nat) : State :=
  let hit := fun (k : Nat) (b : OpBounce) => gangs.contains k && opInCistern b
  let ids := (s.allOps.filter (fun o => hit o.1 o.2.2)).map (fun o => (o.2.1, o.1))
  let copies := s.work.copies.flatMap (fun c => c.2.map (fun (o : CopyOp) => o.id))
  let keep := fun (id : Nat) => !(ids.any (fun x => x.1 == id))
  let s1 := s.recsFree (fun _ id => !keep id)
  let s2 := { s1 with work := { s1.work with
      engines := s1.work.engines.map (fun e => (e.1, { e.2 with ops := e.2.ops.filter (fun o => keep o.id) }))
      teams := s1.work.teams.map (fun t => (t.1, { t.2 with tops := t.2.tops.filter (fun o => keep o.id) }))
      copies := s1.work.copies.map (fun c => (c.1, c.2.filter (fun o => keep o.id))) } }
  ids.foldl (fun (s : State) x => s.opEnds x.2 x.1 (if copies.contains x.1 then 2 else 3)) s2

/-- The cistern entries of gangs are discarded, with what they count (R157, R212). -/
def State.dropCisterns (s : State) (gangs : List Nat) : State :=
  gangs.foldl (fun (s : State) k => match ((s.gang? k).map Gang.uncounted).getD none with
    | some id => s.uncDone k id
    | none => s) ((s.dropReqs gangs).dropOps gangs)

/-- A team is stopped for good: it stops at weirs, or waits where it is off its cluster, and is dropped when every stop is complete. -/
def State.killTeam (s : State) (t : Nat) : State :=
  match s.team? t with
  | none => s
  | some tm =>
    let s1 := s.dropCisterns tm.gangs
    if tm.here then (s1.stopTeam t).modTeam t (fun x => { x with kill := true })
    else if tm.st = TState.ended then s1
    else s1.modTeam t (fun x => { x with kill := true, st := .stopped })

/-- RIVAL_KILL (R157). -/
def State.killRival (s : State) (v : Nat × Nat) : State :=
  let s1 := (s.modRival v (fun r => { r with st := .killed, ws := [] })).dropTasks (fun k => k.2.rival == some v)
  (s1.work.teams.filter (fun t => t.2.rival == some v)).foldl (fun (s : State) t => s.killTeam t.1) s1

/-- A scope is aborted: every live rival is killed, and a winner that has not finished with them; it closes (R161, log 26). -/
def State.abortScope (s : State) (n : Nat) : State :=
  match mget n s.work.scopes with
  | none => s
  | some x =>
    let s1 := (List.range x.rivals.length).foldl (fun (s : State) i =>
      match (x.rivals[i]?).map Rival.st with
      | some .killed => s
      | _ => s.killRival (n, i)) s
    s1.modScope n (fun x => { x with st := .closed })

def execTcloseAbort (p : Pred) (qd : Fin 8) (s : State) : Host.Outcome State Fault Refusal :=
  s.uni p fun x => s.workGate x 2 (s.scopeDie x.g) fun s =>
    match s.rivalOf x.g, s.scopeOf x.g.team with
    | none, some (n, _) => (s.abortScope n).scopeAns x qd true
    | _, _ => s.scopeAns x qd false

/-! ## TCLOSE (R160, R163) -/

/-- The winner has finished: no task of it is left. -/
def State.winnerDone (s : State) (n : Nat) (x : Scp) : Bool :=
  match x.winner with
  | none => false
  | some i => !x.noWin && s.work.tasks.all (fun t => t.2.rival != some (n, i))

/-- One block of a commit is written by the scope unit, under the tag that the rival's accesses were checked against; `true`: it has been
accepted or held, or has failed. A block whose page bounces waits until the page bounces no more. -/
def State.commitBlock (s : State) (k id ctx : Nat) (again prot : Bool) (b : Nat × WBlk) : Bool × State :=
  let va := BitVec.ofNat 64 (64 * b.1)
  let tag := match s.access ctx .write va with
    | .ok (leaf, _, a) => if leafTagck leaf then b.2.tag.getD (s.tagOf (a / 64)) else 0
    | .error _ => 0
  let ptr := va + BitVec.ofNat 64 (tag * 2 ^ 60)
  let waits := !prot && again && (match s.access ctx .write ptr with
    | .error c => bounces c
    | .ok _ => false)
  if waits then (false, s)
  else
    let s1 := match s.gang? k with
      | some g => (s.dieWalks g.die ctx [pageOf (ptrVa ptr)]).2
      | none => s
    let s2 := { s1 with work := { s1.work with owalk := mput id (pageOf (ptrVa ptr)) s1.work.owalk } }
    let r := s2.engWrite k id 1 ptr 0 b.2.bytes b.2.desc none
    (r.1.isNone, r.2)

/-- A commit goes on: the blocks of the winner's write set that are left are written as engine writes of the issuing gang. When all are
acknowledged and their GWCTs have passed at DEV scope, the store completes (R160). A protected opener holds the blocks, and the write set
stays until they have gone to their homes, so that a rollback finds the scope as it was (R163). -/
def State.commitStep (s : State) (n : Nat) (x : Scp) (c : Nat × Nat × Nat × Bool) : State :=
  let i := x.winner.getD 0
  match s.gang? c.1 with
  | none => s.modScope n (fun x => { x with commit := none })
  | some g =>
    let prot := (s.prot? g.team).isSome
    let ws := if prot && c.2.2.2 then [] else ((x.rivals[i]?).map Rival.ws).getD []
    let s1 := ws.foldl (fun (s : State) b =>
      let r := s.commitBlock c.1 c.2.1 (s.ctxOf g) c.2.2.2 prot b
      if r.1 && !prot then r.2.modRival (n, i) (fun y => { y with ws := mdel b.1 y.ws }) else r.2) s
    let s2 := s1.modScope n (fun x => { x with commit := some (c.1, c.2.1, c.2.2.1, true) })
    let left := (((mget n s2.work.scopes).bind (fun y => y.rivals[i]?)).map Rival.ws).getD []
    if (!prot && left != []) || s2.heldOp c.1 c.2.1 || s2.work.eacks.any (fun e => e.id == c.2.1) then s2
    else
      let s3 := s2.ackWrite c.1 c.2.1 0 false
      let done := match (s3.gang? c.1).bind (fun g => g.writes.find? (fun w => w.req == c.2.1)) with
        | none => true
        | some w => w.complete s.clk.now .dev
      if done then
        let s4 := ((s3.opComplete c.1 c.2.1 1).modScope n (fun x => { x with commit := none })).modRival (n, i) (fun y => { y with ws := [] })
        { s4 with work := { s4.work with owalk := mdel c.2.1 s4.work.owalk } }
      else s3

def execTclose (p : Pred) (qd : Fin 8) (s : State) : Host.Outcome State Fault Refusal :=
  s.uni p fun x => s.workGate x 2 (s.scopeDie x.g) fun s =>
    match s.rivalOf x.g, s.scopeOf x.g.team with
    | none, some (n, sc) =>
      if sc.st ≠ ScState.decided then s.scopeAns x qd false
      else if sc.noWin then (s.abortScope n).scopeAns x qd true
      else if s.winnerDone n sc then
        let s0 := if x.run = 0 && s.overflows x.g (s.commitBlocks x.g.team) then s.closeBy x none else s
        let (id, s1) := s0.takeFresh
        let s2 := s1.modGang x.k (fun g => { g with ops := g.ops ++ [⟨id, 1, false⟩], writes := g.writes ++ [⟨id, id, false, 0, false⟩] })
        let sc2 := { sc with st := ScState.closed, commit := some (x.k, id, 0, false) }
        ((s2.setScope n sc2).commitStep n sc2 (x.k, id, 0, false)).scopeAns x qd true
      else s.scopeAns x qd false
    | _, _ => s.scopeAns x qd false

/-! ## SPGROW (R159) -/

def execSpgrow (p : Pred) (qd : Fin 8) (s : State) : Host.Outcome State Fault Refusal :=
  s.uni p fun x => s.workGate x 2 (s.scopeDie x.g) fun s =>
    match s.team? x.g.team with
    | none => s.scopeAns x qd false
    | some t =>
      let others := (s.work.teams.filter (fun y => y.1 != x.g.team && y.2.cluster == t.cluster && (y.2.here || y.2.saveTill != 0))).map
        (fun y => (y.2.spBase, y.2.spFull))
      let from_ := t.spBase + t.spSize
      let free := decide (t.spBase + t.quota ≤ s.spTop t.cluster) && others.all (fun o => decide (o.2 = 0 ∨ o.1 + o.2 ≤ from_ ∨ t.spBase + t.quota ≤ o.1))
      if t.rival.isSome ∧ x.g.core.isNone ∧ free then
        let lands := s.clk.now + unitTime x.g.die (s.scopeDie x.g) + 4
        (s.modTeam x.g.team (fun t => { t with grow := some (lands, max t.spSize t.quota) })).scopeAns x qd true
      else s.scopeAns x qd false

/-- A growth whose clk has come. -/
def State.growNow (s : State) (t : Nat) (tm : Team) : State :=
  match tm.grow with
  | none => s
  | some (clk, size) => if clk ≤ s.clk.now then s.setTeam t { tm with spSize := size, grow := none } else s

/-! ## Allowances and rounds (R151 to R156, R159) -/

/-- A gang-instruction of a rival is counted when it issues; the allowance may be reached (R151). -/
def State.countIssue (s : State) (g : Gang) : State :=
  match s.rivalOf g with
  | none => s
  | some v =>
    let s1 := s.modRival v (fun r => { r with count := r.count + 1 })
    match mget v.1 s1.work.scopes with
    | none => s1
    | some x =>
      match x.rivals[v.2]? with
      | none => s1
      | some r => if x.st = ScState.racing ∧ r.count = x.a0 * 2 ^ x.round ∧ r.st = RivState.running then s1.sched s1.clk.now .allowanceReached v.1 v.2 else s1

/-- ALLOWANCE_REACHED: the rival's teams are asked to stop (R152). -/
def execAllowanceReached (s : State) : Host.Outcome State Fault Refusal := .next (s.stopRival (s.clk.subj.a, s.clk.subj.b))

/-- An F32 as a number that rises in the total order. -/
def f32Key (b : Nat) : Nat := if b < 2 ^ 31 then b + 2 ^ 31 else 2 ^ 32 - 1 - b

def f32NaN (b : Nat) : Bool := decide (2139095040 < b % 2 ^ 31)

/-- A score as a number that rises with the interpretation's order. -/
def Scp.key (x : Scp) (v : DWord) : Nat :=
  match x.mode % 4 with
  | 0 => (v + BitVec.twoPow 64 63).toNat
  | 1 => v.toNat
  | _ => f32Key (v.toNat % 2 ^ 32)

/-- The class of a rival at a round end (R154). -/
def Scp.cls (x : Scp) (r : Rival) : Nat :=
  match r.st with
  | .faulted => 4
  | .overflowed => 4
  | _ => match r.score with
    | none => 3
    | some v => if x.mode % 4 = 2 ∧ f32NaN (v.toNat % 2 ^ 32) then 2 else 1

/-- Rival `i` ranks above rival `j`. -/
def Scp.above (x : Scp) (i j : Nat) : Bool :=
  match x.rivals[i]?, x.rivals[j]? with
  | some a, some b =>
    let ca := x.cls a
    let cb := x.cls b
    let ka := x.key (a.score.getD 0)
    let kb := x.key (b.score.getD 0)
    if ca ≠ cb then decide (ca < cb)
    else if ca = 1 ∧ ka ≠ kb then (if x.mode / 4 % 2 = 1 then decide (ka < kb) else decide (kb < ka))
    else decide (i < j)
  | _, _ => decide (i < j)

/-- The live rivals, the best first. -/
def Scp.ranked (x : Scp) : List Nat :=
  ((List.range x.rivals.length).filter (fun i => ((x.rivals[i]?).map Rival.live).getD false)).foldl (fun acc i =>
    acc.takeWhile (fun j => x.above j i) ++ [i] ++ acc.dropWhile (fun j => x.above j i)) []

/-- Every team of a rival has stopped or is estivated, and there is none on its way to a stop. -/
def State.rivalStill (s : State) (v : Nat × Nat) : Bool := s.work.teams.all (fun t => t.2.rival != some v || !(t.2.here))

/-- A rival that is running and whose every team is estivated (R153). -/
def State.rivalSleeps (s : State) (v : Nat × Nat) : Bool :=
  let ts := s.work.teams.filter (fun t => t.2.rival == some v && t.2.st != TState.ended)
  ts != [] && ts.all (fun t => t.2.st == TState.estivated)

/-- No live rival of a scope is RUNNING (R153). -/
def State.roundOver (s : State) (n : Nat) (x : Scp) : Bool :=
  x.st == ScState.racing && (List.range x.rivals.length).all (fun i => match x.rivals[i]? with
    | none => true
    | some r => r.st != RivState.running || s.rivalSleeps (n, i))

/-- The states of a scope's rivals as they follow from their tasks and teams, and the round's end (R152, R153). -/
def State.scopeTick (s : State) (n : Nat) : State :=
  match mget n s.work.scopes with
  | none => s
  | some x =>
    if x.st ≠ ScState.racing then s
    else
      let s1 := (List.range x.rivals.length).foldl (fun (s : State) i =>
        match x.rivals[i]? with
        | none => s
        | some r =>
          if r.st = RivState.running ∨ r.st = RivState.barrier then
            if s.work.tasks.all (fun t => t.2.rival != some (n, i)) then s.modRival (n, i) (fun r => { r with st := .finished })
            else if r.st = RivState.running ∧ x.spent r ∧ s.rivalStill (n, i) then s.modRival (n, i) (fun r => { r with st := .barrier })
            else s
          else s) s
      match mget n s1.work.scopes with
      | none => s1
      | some y => if s1.roundOver n y && !(s1.clk.agenda.any (fun e => e.ev == .roundEnd && e.subj.a == n)) then s1.sched s1.clk.now .roundEnd n else s1

/-- A scope is decided: the best of those left wins, unless it is faulted or overflowed; the others are killed. -/
def State.settleScope (s : State) (n : Nat) (left : List Nat) : State :=
  match left with
  | [] => s
  | w :: ls =>
    let s1 := ls.foldl (fun (s : State) i => s.killRival (n, i)) s
    let bad := match ((mget n s1.work.scopes).bind (fun x => x.rivals[w]?)).map Rival.st with
      | some .faulted => true
      | some .overflowed => true
      | _ => false
    let s2 := s1.modScope n (fun x => { x with st := .decided, winner := if bad then none else some w, nowin := bad })
    if bad then s2 else s2.modRival (n, w) (fun r => { r with st := .winner })

/-- The stopped teams of a rival become candidates again. -/
def State.wakeRival (s : State) (v : Nat × Nat) : State :=
  (s.work.teams.filter (fun t => t.2.rival == some v && t.2.st == TState.stopped)).foldl (fun (s : State) t => s.sched s.clk.now .teamResume t.1) s

/-- ROUND_END (R154, R156). -/
def execRoundEnd (s : State) : Host.Outcome State Fault Refusal :=
  let n := s.clk.subj.a
  match mget n s.work.scopes with
  | none => .next s
  | some x =>
    if !s.roundOver n x then .next s
    else
      let order := x.ranked
      let keep := order.length - order.length / 2
      let s1 := (order.drop keep).foldl (fun (s : State) i => s.killRival (n, i)) s
      let left := order.take keep
      let fin := left.all (fun i => ((x.rivals[i]?).map (fun r => r.st == RivState.finished)).getD false)
      let s2 := { s1 with work := { s1.work with teams := s1.work.teams.map (fun (t : Nat × Team) =>
        if left.any (fun i => t.2.rival == some (n, i)) then (t.1, { t.2 with quota := min 786432 (2 * t.2.quota) }) else t) } }
      let won := match left with
        | [_] => true
        | _ => false
      if won || fin || x.round == 15 then
        let s3 := s2.settleScope n left
        .next (match left with
          | w :: _ => s3.wakeRival (n, w)
          | [] => s3)
      else
        let s3 := s2.modScope n (fun x => { x with round := x.round + 1 })
        .next (left.foldl (fun (s : State) i =>
          (s.modRival (n, i) (fun r => { r with count := 0, st := if r.st = .barrier then .running else r.st })).wakeRival (n, i)) s3)

end Sys2Proof.Machine
end

