-- ==== Sys2Proof/Machine/Sched.lean ====
section
/-! DEFINITION. The schedulers: who is placed next on a die, stealing, ageing, pre-emption, stops, estivation, compaction, RGIVE and
RCLAIM, the end of a regroup window (R112 to R119, R127 to R130, R134 to R141, R158, R173 to R175, R495). -/

namespace Sys2Proof.Machine

/-! ## Candidates (R127 to R129, R158) -/

/-- What a candidate is. -/
inductive CandKind where
  | launch (lid : Nat)
  | task (tid : Nat)
  | team (t : Nat)
  deriving DecidableEq, Repr

/-- A candidate of a die: its priority, what ageing has added, since when it has found no room on the die and the interval of the
dispatch class then (R130, R204), its context, its source, whether it belongs to a rival of a scope that has killed others. -/
structure DCand where
  kind : CandKind
  prio : Nat
  age : Nat
  since : Nat
  bound : Nat
  ctx : Nat
  source : Nat
  favour : Bool

/-- The dies that hold clusters of a context's partition, ascending (R112). -/
def State.diesOf (s : State) (ctx : Nat) : List Nat := (List.range 4).filter (fun d => s.clustersOf ctx d != [])

/-- The next team of a launch on a die: of the chunk it has begun, else the first of its lowest chunk (R112, R113). -/
def Launch.next (l : Launch) (die : Nat) : Option (Nat × Launch) :=
  match mget die l.begun with
  | some (n, e) =>
    if n < e then some (n, { l with begun := mput die (n + 1, e) l.begun })
    else match mgetD [] die l.shares with
      | [] => none
      | c :: cs => some (c * l.chunk, { l with begun := mput die (c * l.chunk + 1, min ((c + 1) * l.chunk) l.teams) l.begun, shares := mput die cs l.shares })
  | none => match mgetD [] die l.shares with
    | [] => none
    | c :: cs => some (c * l.chunk, { l with begun := mput die (c * l.chunk + 1, min ((c + 1) * l.chunk) l.teams) l.begun, shares := mput die cs l.shares })

/-- A rival of a scope from which another has been killed (R158). -/
def State.favoured (s : State) (v : Option (Nat × Nat)) : Bool :=
  match v with
  | none => false
  | some v => ((mget v.1 s.work.scopes).map (fun x => x.rivals.any (fun r => r.st == RivState.killed))).getD false

/-- The source of a team (R128). -/
def State.sourceOf (s : State) (tm : Team) : Nat :=
  match tm.src with
  | .launch l => 3 * l
  | .task k => ((mget k s.work.tasks).map Task.source).getD (3 * k + 1)

/-- The candidates of a die: of a launch the team that is next there, ready tasks, and teams that have left their cluster. Those of a rival
that may not run are none (R149, R150, R152). -/
def State.dcands (s : State) (die : Nat) : List DCand :=
  (s.work.launches.filter (fun l => (l.2.next die).isSome)).map (fun l =>
    let w := mgetD (l.2.since, l.2.bound) die l.2.room
    ⟨.launch l.1, l.2.prio, l.2.age, w.1, w.2, l.2.ctx, 3 * l.1, false⟩) ++
  (s.work.tasks.filter (fun k => k.2.st == KState.ready && k.2.die == die && s.rivalMayRun k.2.rival)).map (fun k =>
    ⟨.task k.1, k.2.prio, k.2.age, k.2.since, k.2.bound, k.2.ctx, k.2.source, s.favoured k.2.rival⟩) ++
  (s.work.teams.filter (fun t => t.2.st == TState.candidate && s.teamDie t.1 == die && s.rivalMayRun t.2.rival)).map (fun t =>
    ⟨.team t.1, t.2.prio, t.2.age, t.2.since, t.2.bound, t.2.ctx, s.sourceOf t.2, s.favoured t.2.rival⟩)

/-- The effective priority (R129). -/
def DCand.level (c : DCand) : Nat := min 3 (c.prio + c.age)

/-- The order in which candidates are looked at: by level, favoured rivals first, then the sources in turn after the last one served. -/
def State.ordered (s : State) (die : Nat) (cs : List DCand) : List DCand :=
  let turn := fun (c : DCand) =>
    let last := mgetD 0 (4 * die + c.level) s.work.lastSource
    if last < c.source then c.source else c.source + 2 ^ 64
  let above := fun (a b : DCand) =>
    if a.level ≠ b.level then decide (b.level < a.level)
    else if a.favour ≠ b.favour then a.favour
    else decide (turn a ≤ turn b)
  cs.foldl (fun acc c => acc.takeWhile (fun x => above x c) ++ [c] ++ acc.dropWhile (fun x => above x c)) []

/-- Rows and scratchpad that a candidate needs; `none` for a control-core task. -/
def State.needs (s : State) (c : DCand) : Option (List Nat × Nat) :=
  match c.kind with
  | .launch l => (mget l s.work.launches).map (fun x => (List.replicate ((x.lanes + 31) / 32) x.rows, x.spad))
  | .task k => match mget k s.work.tasks with
    | none => none
    | some x => if x.core then none else some (List.replicate x.gangs x.rows, x.spad)
  | .team t => match s.team? t with
    | none => none
    | some tm => if (s.rowGangs tm) = [] then none else some ((s.rowGangs tm).map (fun g => g.2.rows), tm.spSize)

/-- Places a candidate on a die; `none` where it does not fit or its areas cannot be taken (R113, R127, R136, R137). The other teams of a launch
wait on as they did (R129). -/
def State.place (s : State) (die : Nat) (c : DCand) : Option State :=
  match c.kind with
  | .launch lid =>
    match (mget lid s.work.launches).bind (fun l => (l.next die).map (fun n => (l, n))) with
    | none => none
    | some (l, t, l2) =>
      let x := l.spec lid t
      match s.fit (s.clustersOf l.ctx die) (List.replicate x.gangs.length x.rows) x.spSize with
      | none => none
      | some f => (s.placeAt x f).map (fun r =>
          { r.2 with work := { r.2.work with launches := mput lid { l2 with
              placed := l2.placed + 1, room := mput die (s.clk.now, s.sluiceOf l.ctx 5) l2.room } r.2.work.launches } })
  | .task tid =>
    match mget tid s.work.tasks with
    | none => none
    | some k =>
      let x := k.spec tid (s.openerProt k.rival)
      let run := fun (r : Nat × State) => { r.2 with work := { r.2.work with tasks := mput tid { k with st := .running r.1 } r.2.work.tasks } }
      if k.core then (s.freeCore die).bind (fun c => (s.placeCore x c).map run)
      else match s.fit (s.clustersOf k.ctx die) (List.replicate k.gangs k.rows) x.spSize with
        | none => none
        | some f => (s.placeAt x f).map run
  | .team t =>
    match s.team? t with
    | none => none
    | some tm =>
      if tm.cluster = 0xFFFF then (s.freeCore die).map (fun c => s.bringCore t tm c)
      else (s.comeBack tm).map (fun f => s.bringBack t tm f.1 f.2)

/-- The candidate that a die serves next, and the state once it is placed. -/
def State.pick (s : State) (die : Nat) : Option (DCand × State) :=
  (s.ordered die (s.dcands die)).findSome? (fun c => (s.place die c).map (fun s1 =>
    (c, { s1 with work := { s1.work with lastSource := mput (4 * die + c.level) c.source s1.work.lastSource } })))

/-- An event of these numbers is in flight. -/
def State.has (s : State) (ev : Instr) (a : Nat) : Bool := s.clk.agenda.any (fun i => i.ev == ev && i.subj.a == a)

/-- The first candidate of a die that rows would only have to be compacted for, and the cluster (R118). -/
def State.compactNext (s : State) (die : Nat) : Option Nat :=
  (s.ordered die (s.dcands die)).findSome? (fun c => (s.needs c).bind (fun n =>
    let cls := s.clustersOf c.ctx die
    if (s.fit cls n.1 n.2).isSome then none else s.compactFor cls n.1 n.2))

/-- A placement on a die, a dispatch or a return of a team falls due. -/
def State.placing (s : State) (die : Nat) : Bool :=
  s.has .teamPlace die || s.has .taskDispatch die || s.clk.agenda.any (fun i => i.ev == .teamResume && s.teamDie i.subj.a == die)

/-- The event that places a die's next candidate falls due now; where rows only need compacting for one, a compaction does (R118). -/
def State.dispatch (s : State) (die : Nat) : State :=
  if s.placing die then s
  else
    let s1 := match s.compactNext die with
      | some cl => if s.has .compaction cl then s else s.sched s.clk.now .compaction cl
      | none => s
    match s1.pick die with
    | some (c, _) => match c.kind with
      | .launch _ => s1.sched s.clk.now .teamPlace die
      | .task _ => s1.sched s.clk.now .taskDispatch die
      | .team t => s1.sched s.clk.now .teamResume t
    | none => s1

/-- TEAM_PLACE: the die's distributor places a team of a launch (R113). -/
def execTeamPlace (s : State) : Host.Outcome State Fault Refusal :=
  match s.pick s.clk.subj.a with
  | some (⟨.launch _, _, _, _, _, _, _, _⟩, s1) => .next (s1.dispatch s.clk.subj.a)
  | _ => .next s

/-- TASK_DISPATCH: a ready task is placed (R127). -/
def execTaskDispatch (s : State) : Host.Outcome State Fault Refusal :=
  match s.pick s.clk.subj.a with
  | some (⟨.task _, _, _, _, _, _, _, _⟩, s1) => .next (s1.dispatch s.clk.subj.a)
  | _ => .next s

/-- TEAM_RESUME: a stopped or estivated team becomes a candidate, and is placed when its turn comes (R137). -/
def execTeamResume (s : State) : Host.Outcome State Fault Refusal :=
  let t := s.clk.subj.a
  match s.team? t with
  | none => .next s
  | some tm =>
    match tm.st with
    | .candidate =>
      let die := s.teamDie t
      match s.pick die with
      | some (⟨.team u, _, _, _, _, _, _, _⟩, s1) => .next (if u = t then s1.dispatch die else s)
      | _ => .next s
    | .placed | .stopping | .ended => .next s
    | _ =>
      if tm.saveTill = 0 ∧ tm.kill = false ∧ s.rivalMayRun tm.rival then
        .next ((((s.setTeam t { tm with st := .candidate, since := s.clk.now, age := 0, bound := s.sluiceOf tm.ctx 5 }).ageFrom 2 t)).dispatch (s.teamDie t))
      else .next s

/-- PRIORITY_AGING: a candidate that has waited 65,536 clk more rises by 1 (R129). Kinds: 0 launch, 1 task, 2 team. -/
def execPriorityAging (s : State) : Host.Outcome State Fault Refusal :=
  let k := s.clk.subj.a
  let n := s.clk.subj.b
  let since := s.clk.subj.c
  let again := fun (s : State) (a : Nat) => if a < 2 then s.sched (s.clk.now + 65536) .priorityAging k n since else s
  if k = 0 then
    match mget n s.work.launches with
    | some l => if l.since = since ∧ l.age < 3 then
        .next (again { s with work := { s.work with launches := mput n { l with age := l.age + 1 } s.work.launches } } l.age) else .next s
    | none => .next s
  else if k = 1 then
    match mget n s.work.tasks with
    | some t => if t.since = since ∧ t.age < 3 ∧ t.st = .ready then
        .next (again { s with work := { s.work with tasks := mput n { t with age := t.age + 1 } s.work.tasks } } t.age) else .next s
    | none => .next s
  else
    match s.team? n with
    | some t => if t.since = since ∧ t.age < 3 ∧ t.st = .candidate then .next (again (s.setTeam n { t with age := t.age + 1 }) t.age) else .next s
    | none => .next s

/-! ## Stealing (R114, R115) -/

/-- The dies that a thief asks, in turn: from the die after its own on. -/
def stealOrder (dies : List Nat) (thief : Nat) : List Nat := dies.filter (fun d => decide (thief < d)) ++ dies.filter (fun d => decide (d < thief))

/-- A die whose share of a launch is used up asks the next die that has not answered empty, where it could place a team. -/
def State.stealTick (s : State) (lid : Nat) (l : Launch) (thief : Nat) : State :=
  let dies := s.diesOf l.ctx
  let asking := s.clk.agenda.any (fun i => (i.ev == .stealRequest || i.ev == .stealAnswer) && i.subj.a == lid && i.subj.b == thief)
  let x := l.spec lid 0
  if asking || (l.next thief).isSome || !dies.contains thief then s
  else if (s.fit (s.clustersOf l.ctx thief) (List.replicate x.gangs.length x.rows) x.spSize).isNone then s
  else match (stealOrder dies thief).find? (fun d => !l.dry.contains (4 * thief + d)) with
    | none => s
    | some d => s.sched (s.clk.now + 260) .stealRequest lid thief d

/-- STEAL_REQUEST: the die gives its highest chunk that has not been begun, or answers empty; what the die itself begins in the same clk
comes first (R115). -/
def execStealRequest (s : State) : Host.Outcome State Fault Refusal :=
  let lid := s.clk.subj.a
  let victim := s.clk.subj.c
  match mget lid s.work.launches with
  | none => .next s
  | some l =>
    let own := s.dispatch victim
    if own.placing victim then .next (own.sched s.clk.now .stealRequest lid s.clk.subj.b victim)
    else
    match (mgetD [] victim l.shares).getLast? with
    | none => .next (s.sched (s.clk.now + 260) .stealAnswer lid s.clk.subj.b victim 0)
    | some c =>
      let l2 := { l with shares := mput victim ((mgetD [] victim l.shares).dropLast) l.shares }
      .next (({ s with work := { s.work with launches := mput lid l2 s.work.launches } }).sched (s.clk.now + 260) .stealAnswer lid s.clk.subj.b victim (c + 1))

/-- STEAL_ANSWER: a chunk joins the thief's share, or the die counts as empty for it. -/
def execStealAnswer (s : State) : Host.Outcome State Fault Refusal :=
  let lid := s.clk.subj.a
  let thief := s.clk.subj.b
  match mget lid s.work.launches with
  | none => .next s
  | some l =>
    let l2 := if s.clk.subj.d = 0 then { l with dry := l.dry ++ [4 * thief + s.clk.subj.c] }
      else { l with shares := mput thief (mgetD [] thief l.shares ++ [s.clk.subj.d - 1]) l.shares, dry := l.dry.filter (fun d => d / 4 != thief) }
    .next ({ s with work := { s.work with launches := mput lid l2 s.work.launches } })

/-! ## Pre-emption (R130) -/

/-- For each partition and level: the one context whose teams stand there while candidates of others wait at the level, and since when
(R130). -/
def State.loneTick (s : State) : State :=
  let cs := (List.range 4).flatMap s.dcands
  let lone := s.adm.parts.flatMap (fun p => (List.range 4).filterMap (fun lv =>
    let key := 4 * p.1 + lv
    let here := s.work.teams.filter (fun t => t.2.here && t.2.prio == lv && (s.partClusters p.1).contains t.2.cluster)
    match here.head? with
    | none => none
    | some t =>
      let x := t.2.ctx
      if here.all (fun u => u.2.ctx == x) && cs.any (fun c => c.ctx != x && c.level == lv && s.partOf c.ctx == p.1 && (s.needs c).isSome) then
        some (key, (match mget key s.work.lone with
          | some y => if y.1 = x then y else (x, s.clk.now)
          | none => (x, s.clk.now)))
      else none))
  { s with work := { s.work with lone := lone } }

/-- The team that a candidate without room pre-empts: the resident team of lowest priority below its own whose room suffices, the
last placed on a tie; after 1,200,000 clk the oldest of the teams of the one context that has held its level (R130). -/
def State.victimFor (s : State) (die : Nat) (c : DCand) : Option Nat :=
  let cls := s.clustersOf c.ctx die
  let core := (s.needs c).isNone
  let here := s.work.teams.filter (fun t => t.2.st == TState.placed && (if core then t.2.cluster == 0xFFFF && s.teamDie t.1 == die else cls.contains t.2.cluster))
  let enough := fun (t : Nat × Team) =>
    let s1 := s.modTeam t.1 (fun x => { x with st := .stopped })
    match s.needs c with
    | none => core
    | some n => (s1.fitOn t.2.cluster n.1 n.2).isSome
  let low := here.filter (fun t => decide (t.2.prio < c.prio) && enough t)
  let first := low.foldl (fun (b : Option (Nat × Team)) t => match b with
    | none => some t
    | some u => if t.2.prio < u.2.prio ∨ (t.2.prio = u.2.prio ∧ u.2.since ≤ t.2.since) then some t else some u) none
  match (if c.since + c.bound ≤ s.clk.now then first else none), mget (4 * s.partOf c.ctx + c.level) s.work.lone with
  | some t, _ => some t.1
  | none, some (x, t) =>
    if !core && x != c.ctx && decide (t + 1200000 ≤ s.clk.now) then
      (here.filter (fun t => t.2.prio == c.level && t.2.ctx == x)).foldl (fun (b : Option (Nat × Nat)) t => match b with
        | none => some (t.1, t.2.since)
        | some u => if t.2.since < u.2 then some (t.1, t.2.since) else some u) none |>.map Prod.fst
    else none
  | none, none => none

/-- The team that a die stops next, unless one of its teams is on its way to a stop. -/
def State.victim (s : State) (die : Nat) : Option Nat :=
  if s.work.teams.any (fun t => t.2.st == TState.stopping && s.teamDie t.1 == die) then none
  else (s.ordered die (s.dcands die)).findSome? (s.victimFor die)

/-- PREEMPT: a resident team is asked to stop (R130, R139). -/
def execPreempt (s : State) : Host.Outcome State Fault Refusal :=
  match s.victim s.clk.subj.a with
  | none => .next s
  | some t => .next (s.stopTeam t)

/-! ## Waits, stops and estivation (R134, R135, R137, R139) -/

/-- A wait of R134 that a path stands at; a fetch counts where every path of the gang waits on one (R88). -/
def Path.waits (p : Path) : Bool :=
  match p.wait with
  | .ctr _ _ _ _ => true
  | .bar => true
  | .flacq _ _ _ => true
  | .bo _ _ => true
  | .dry _ => true
  | .fwcall _ _ => true
  | .task _ => p.run.isNone
  | .fetch => true
  | _ => false

/-- A path stands at a run header whose scoreboard awaits a variable-latency result. -/
def State.atHeader (s : State) (k : Nat) (g : Gang) (p : Path) : Bool :=
  p.wait == .none && p.run.isNone && (match s.nextOf g p with
    | .instr (.runb _ va n) _ _ => ((List.range n.toNat).map (fun i => va.toNat + i)).any (fun r => g.pub.contains r && (s.varDests k g).contains r)
    | _ => false)

/-- A gang waits as in R134. -/
def State.gangWaits (s : State) (k : Nat) (g : Gang) : Bool :=
  g.paths != [] && g.trapPend.isNone && g.paths.all (fun p => p.waits || s.atHeader k g p)

/-- Every gang of a team that has not exited waits. -/
def State.teamWaits (s : State) (tm : Team) : Bool :=
  let gs := (tm.gangs.filterMap (fun k => (s.gang? k).map (fun g => (k, g)))).filter (fun g => match g.2.stop with
    | .ending => false
    | .ended => false
    | _ => true)
  gs != [] && gs.all (fun g => s.gangWaits g.1 g.2)

/-- ESTIVATE: a team whose wait has reached its threshold leaves its cluster (R135). -/
def execEstivate (s : State) : Host.Outcome State Fault Refusal :=
  let t := s.clk.subj.a
  match s.team? t with
  | none => .next s
  | some tm =>
    match tm.waitFrom with
    | some c => if tm.st = TState.placed ∧ s.teamWaits tm ∧ c + tm.estiv ≤ s.clk.now then .next (s.vacate t .estivated) else .next s
    | none => .next s

/-- SAVE_COMPLETE: a team's save has ended; its scratchpad is free. -/
def execSaveComplete (s : State) : Host.Outcome State Fault Refusal :=
  let t := s.clk.subj.a
  match s.team? t with
  | none => .next s
  | some tm => if tm.saveTill ≤ s.clk.now then .next ((s.setTeam t { tm with saveTill := 0 }).dispatch (s.teamDie t)) else .next s

/-- STOP_TIMEOUT: a gang that has reached no weir stops at the first point outside runs (R139). -/
def execStopTimeout (s : State) : Host.Outcome State Fault Refusal :=
  .next (s.modGang s.clk.subj.a (fun g => match g.stop with
    | .asked c => if c + 65536 ≤ s.clk.now then { g with stop := .asked 0 } else g
    | _ => g))

/-- A path of a gang that was issuing when its stop was requested stands where it stops (R139): at a weir, or, once the gang stops at the
first point outside runs, wherever it stands there. -/
def State.pathStops (s : State) (g : Gang) (c : Nat) (p : Path) : Bool :=
  p.run.isNone && decide (p.hold ≤ s.clk.now) && (match p.wait with
    | .regroup _ => false
    | .none => s.stopsAt g p
    | _ => c == 0 || g.core.isSome || (s.weirTable g).isNone)

/-- A gang whose stop has been requested stops at once where it waits, and else at its weirs (R139). -/
def State.askTick (s : State) : State :=
  s.work.gangs.foldl (fun (s : State) x => match x.2.stop with
    | .asking c => s.modGang x.1 (fun g => { g with stop := if s.gangWaits x.1 g then .full else .asked c })
    | _ => s) s

/-- A gang whose paths all stand where it stops is stopped: at weirs with the registers that they mark, else in full (R139). -/
def State.stopGang (s : State) (k : Nat) (g : Gang) : State :=
  match g.stop with
  | .asked c =>
    if g.trapPend.isSome || !(g.paths.all (s.pathStops g c)) then s
    else
      let ws := g.paths.map (fun p => if p.wait == .none && c != 0 && g.core.isNone then s.weirAt g p.pc else none)
      if ws ≠ [] ∧ ws.all Option.isSome then
        let l := ws.filterMap id
        let st : GStop := .weir (l.foldl (fun m w => m ||| w.1) 0) (l.foldl (fun m w => m ||| w.2.1) 0)
          (l.foldl (fun m w => m ||| w.2.2.1) 0) (l.foldl (fun m w => m ||| w.2.2.2) 0)
        s.setGang k { g with stop := st }
      else s.setGang k { g with stop := .full }
  | _ => s

/-- What a gang counts has completed, lies in its cistern, is held, or lies with its engine (R139, R335). -/
def State.opsStill (s : State) (k : Nat) (g : Gang) : Bool :=
  g.sfu == 0 &&
  g.ops.all (fun o => o.done || o.cls == 3 || (match s.req? o.id with
    | some q => q.parts.all (fun p => match p.st with
      | .done => true
      | .cistern _ _ _ => true
      | .woken _ => true
      | .held _ _ => true
      | _ => false)
    | none => s.allOps.any (fun y => y.2.1 == o.id && opInCistern y.2.2))) &&
  !(s.mem.reqs.any (fun r => r.2.gang == k && (match r.2.kind with
    | .lds => true
    | .sts => true
    | .atoms => true
    | .flinit => true
    | .flrel => true
    | .boarm => true
    | _ => false)))

/-- A gang's stop is complete (R139). -/
def State.stopDone (s : State) (k : Nat) (g : Gang) : Bool :=
  (match g.stop with
    | .run => false
    | .asking _ => false
    | .asked _ => false
    | _ => true) && s.opsStill k g

/-- A team on its way to a stop: its gangs stop, and when every stop is complete it leaves its cluster, or is dropped where it was
killed. One that was off its cluster when it was killed is dropped when its operations are still. -/
def State.stopTick (s : State) (t : Nat) : State :=
  match s.team? t with
  | none => s
  | some tm =>
    if tm.st ≠ TState.stopping then
      (if tm.kill && tm.st == TState.stopped && tm.gangs.all (fun k => ((s.gang? k).map (s.opsStill k)).getD true) then s.dropTeam t else s)
    else
      let s1 := tm.gangs.foldl (fun (s : State) k => match s.gang? k with
        | some g => match g.stop with
          | .asked c => if c ≠ 0 ∧ c + 65536 ≤ s.clk.now ∧ !s.has .stopTimeout k then (s.stopGang k g).sched s.clk.now .stopTimeout k else s.stopGang k g
          | _ => s
        | none => s) s
      if tm.gangs.all (fun k => match s1.gang? k with
        | some g => s1.stopDone k g
        | none => true) then
        (if tm.kill then s1.dropTeam t else s1.vacate t .stopped)
      else s1

/-- What an estivated team waits for has happened: a path waits no more, or a cistern entry of it, of a request, a copy, a tile operation or an
uncounted request, has been woken (R137). -/
def State.wakes (s : State) (tm : Team) : Bool :=
  tm.gangs.any (fun k => match s.gang? k with
    | none => false
    | some g => (g.paths.any (fun p => p.wait == .none && !s.atHeader k g p)) ||
        s.mem.reqs.any (fun r => r.2.gang == k && r.2.parts.any (fun p => match p.st with
          | .woken _ => true
          | _ => false)) ||
        s.allOps.any (fun o => o.1 == k && o.2.2.2.woken.isSome) || s.work.uncs.any (fun u => u.2.gang == k && u.2.ent.woken.isSome))

/-! ## Compaction (R118) -/

/-- The blocks move when every gang of the cluster stands outside runs, at 4 rows a clk. -/
def State.compactTick (s : State) (cl : Nat) : State :=
  match mget cl s.work.compact with
  | none => s
  | some c =>
    let gs := s.liveGangs cl
    if c.moving || gs.any (fun g => g.2.paths.any (fun p => p.run.isSome)) then s
    else
      let moved := ((packBlocks gs).filter (fun b => ((s.gang? b.1).map Gang.base) != some b.2.1)).map (fun b => b.2.2)
      let rows := moved.foldl (· + ·) 0
      ({ s with work := { s.work with compact := mput cl { c with moving := true } s.work.compact } }).sched (max s.clk.now c.since + (rows + 3) / 4) .compactionDone cl

/-- COMPACTION: the cluster's gangs stop issuing outside runs; blocks kept for stopped teams are saved and given up first. -/
def execCompaction (s : State) : Host.Outcome State Fault Refusal :=
  let cl := s.clk.subj.a
  if (mget cl s.work.compact).isSome then .next s
  else
    let (time, s1) := s.evict cl (s.keptBlocks cl).length
    .next (({ s1 with work := { s1.work with compact := mput cl ⟨s.clk.now + time, false⟩ s1.work.compact } }).compactTick cl)

/-- COMPACTION_DONE: each gang has its new block base, and every gang resumes. The blocks of a team that has stopped meanwhile are saved
and given up first. -/
def execCompactionDone (s : State) : Host.Outcome State Fault Refusal :=
  let cl := s.clk.subj.a
  let kept := s.keptBlocks cl
  if kept ≠ [] then
    let (time, s1) := s.evict cl kept.length
    .next (s1.sched (s.clk.now + time) .compactionDone cl)
  else
  let s1 := (packBlocks (s.liveGangs cl)).foldl (fun (s : State) b => s.modGang b.1 (fun g => { g with base := b.2.1 })) s
  .next (({ s1 with work := { s1.work with compact := mdel cl s1.work.compact } }).dispatch (dieOf cl))

/-! ## RGIVE and RCLAIM (R119, R495) -/

/-- The path goes on after the instruction's 4 issue clk and `more` clk. -/
def State.holdFor (s : State) (x : Iss) (n : Nat) : State :=
  s.modGang x.k (fun g => { g with paths := g.paths.map (fun p => if p.lanes = x.path.lanes then { p with hold := max p.hold n } else p) })

def execRgive (p : Pred) (qd : Fin 8) (s : State) : Host.Outcome State Fault Refusal :=
  s.uni p fun x =>
    let n := x.g.rows
    if n ≤ 16 ∨ x.run ≠ 0 then s.regs x 4 .general [.q qd.val false] []
    else
      let s1 := s.modGang x.k (fun g => { g with
        rows := n / 2
        v := (List.range 112).map (fun i => if i < n / 2 - 16 then g.v.getD i VReg.zero else VReg.zero) })
      ((s1.regs x 4 .general [.q qd.val true] []).holdFor x (s.issueClk x.g.die 4))

def execRclaim (p : Pred) (qd : Fin 8) (s : State) : Host.Outcome State Fault Refusal :=
  s.uni p fun x =>
    let n := x.g.rows
    let no := fun (s : State) => s.regs x 4 .general [.q qd.val false] []
    if x.run ≠ 0 ∨ 128 ≤ n then no s
    else
      match s.gang? x.k with
      | none => s
      | some g =>
        match s.claimPlace x.k g with
        | some (base, moves) =>
          let more := if moves then n / 4 else 0
          let t := s.issueClk g.die 4 + more
          let r := g.results x t 4 .general [.q qd.val true]
          let g1 := { r.goOn x with
            rows := 2 * n, base := base
            busyUntil := if moves then max g.busyUntil t else g.busyUntil
            v := (List.range 112).map (fun i => if i < n - 16 then r.v.getD i VReg.zero else VReg.zero) }
          (s.setGang x.k g1).holdFor x t
        | none =>
          let packed := (packBlocks (s.liveGangs g.cluster)).map (fun b => b.2)
          let would := (rowFree packed).any (fun b => decide (2 * n ≤ b.2))
          let s1 := no s
          if would ∧ (mget g.cluster s.work.compact).isNone ∧ !s.has .compaction g.cluster then s1.sched (s.issueClk g.die 4) .compaction g.cluster else s1

/-! ## The end of a regroup window (R174, R175) -/

/-- A lane of a class: its target, its TLID, its gang and slot. -/
structure RLane where
  target : DWord
  tlid : Nat
  gang : Nat
  slot : Nat

/-- Puts a lane in its place by target and TLID. -/
def rlaneInsert (x : RLane) : List RLane → List RLane
  | [] => [x]
  | y :: l => if x.target.toNat < y.target.toNat ∨ (x.target = y.target ∧ x.tlid < y.tlid) then x :: y :: l else y :: rlaneInsert x l

/-- The groups of one target, packed from the front: 32 to a gang, the last one short. -/
def rlanePack (n : Nat) (l : List RLane) : List (List RLane) :=
  match n with
  | 0 => []
  | m + 1 => match l with
    | [] => []
    | x :: _ =>
      let same := l.takeWhile (fun y => y.target == x.target)
      same.take 32 :: rlanePack m (l.drop (same.take 32).length)

/-- A gang after all its results have landed. -/
def Gang.settled (g : Gang) (now : Nat) : Gang := g.settle (now + 1000)

/-- A row of a formed gang, gathered from the gangs its lanes come from. -/
def gatherRow (ls : List RLane) (f : Nat → Nat → Word) : Row :=
  (List.range 32).map (fun i => match ls[i]? with
    | some x => f x.gang x.slot
    | none => 0)

/-- The formed gang that takes the place of `g` (R174, R175). -/
def formGang (g : Gang) (ls : List RLane) (all : List (Nat × Gang)) (hold : Nat) : Gang :=
  let of := fun (k : Nat) => ((all.find? (fun x => x.1 == k)).map Prod.snd).getD g
  let lanes := (List.range 32).map (fun i => match ls[i]? with
    | some x => (of x.gang).lanes.getD x.slot none
    | none => none)
  let mask : Mask := (List.range ls.length).foldl (fun m i => m ||| Mask.one i) 0
  let vs := (List.range 112).map (fun n =>
    let row := gatherRow ls (fun k l => (of k).vlane n l)
    let first := row.getD 0 0
    (⟨if (row.take ls.length).all (fun w => w == first) then Tag.uniform else Tag.general, row⟩ : VReg))
  { g with
    lanes := lanes
    v := vs
    t := (List.range 8).map (fun n => gatherRow ls (fun k l => (of k).tlane n l))
    p := (List.range 8).map (fun n => (List.range ls.length).foldl (fun m i => match ls[i]? with
      | some x => if ((of x.gang).p.getD n 0).has x.slot then m ||| Mask.one i else m
      | none => m) 0)
    paths := [⟨(ls.head?.map RLane.target).getD 0, mask, none, 0, hold, .none, 0⟩] }

/-- Paths of a gang that waited in the unit go on. -/
def Gang.leaveUnit (g : Gang) : Gang := { g with paths := g.paths.map (fun p => match p.wait with
  | .regroup _ => { p with wait := .none }
  | _ => p) }

/-- One class of gangs regroups, or each of its gangs goes on with its own paths. -/
def State.regroupClass (s : State) (gs : List (Nat × Gang)) : State :=
  let lanes := (gs.flatMap (fun g => g.2.paths.flatMap (fun p => (Mask.slots p.lanes).map (fun l =>
    (⟨p.pc, ((g.2.lanes.getD l none).map Lane.tlid).getD l, g.1, l⟩ : RLane))))).foldl (fun acc x => rlaneInsert x acc) []
  let packs := rlanePack (lanes.length + 1) lanes
  if gs.length < packs.length then gs.foldl (fun (s : State) g => s.setGang g.1 g.2.leaveUnit) s
  else
    (List.range gs.length).foldl (fun (s : State) i =>
      match gs[i]?, packs[i]? with
      | some g, some ls => s.setGang g.1 (formGang g.2 ls gs (s.clk.now + 16 + 2 * (g.2.rows - 16)))
      | some g, none => s.setGang g.1 (g.2.finish g.2.exitPc)
      | _, _ => s) s

/-- Gangs sorted into classes by a key, each class in ascending GANGID. -/
def classesOf (key : Gang → List DWord × List Bool × Nat) : List (Nat × Gang) → List (List (Nat × Gang))
  | [] => []
  | g :: l =>
    let rest := classesOf key l
    match rest.find? (fun c => (c.head?.map (fun x => key x.2)) == some (key g.2)) with
    | some c => rest.map (fun d => if d = c then
        d.takeWhile (fun x => decide (x.2.gangid < g.2.gangid)) ++ [g] ++ d.dropWhile (fun x => decide (x.2.gangid < g.2.gangid)) else d)
    | none => rest ++ [[g]]

/-- REGROUP_WINDOW_END: windows of the cluster that have ended are split into classes (R174). -/
def execRegroupWindowEnd (s : State) : Host.Outcome State Fault Refusal :=
  let cl := s.clk.subj.a
  let ended := s.work.windows.filter (fun w => w.cluster == cl && decide (w.due ≤ s.clk.now))
  let s1 := { s with work := { s.work with windows := s.work.windows.filter (fun w => !(w.cluster == cl && decide (w.due ≤ s.clk.now))) } }
  .next (ended.foldl (fun (s : State) w =>
    let gs := (w.gangs.filterMap (fun k => (s.gang? k).map (fun g => (k, g.settled s.clk.now)))).filter (fun g =>
      g.2.paths != [] && g.2.paths.all (fun p => p.wait == .regroup w.addr))
    let key := fun (g : Gang) =>
      ((List.range 8).map (fun i => if w.liveG.getLsbD i then g.g.getD i 0 else 0),
       (List.range 7).map (fun i => w.liveQ.getLsbD i && g.q.getD (i + 1) false), g.rows)
    (classesOf key gs).foldl State.regroupClass s) s1)

end Sys2Proof.Machine
end

