-- ==== Sys2Proof/Machine/Firmware.lean ====
section
/-! DEFINITION. Firmware services: page tables, ownership, peers, partitions and sluice intervals (R92 to R98, R102, R104, R198,
R204, R344, R401, R402, R496). -/

namespace Sys2Proof.Machine

/-! ## FWCALL (R401, R402) -/

/-- The service that an FWCALL calls, by SVC and, for CENSUS, SAMPLE and RECSESS, an argument; `none`: not assigned, or the
argument is out of its range. -/
def fwService (svc : Nat) (g1 g4 : Nat) : Option Instr :=
  match svc with
  | 0x010 => some .mapins
  | 0x011 => some .maprem
  | 0x012 => some .mapget
  | 0x013 => some .grant
  | 0x014 => some .peerbind
  | 0x015 => some .partset
  | 0x016 => some .ctxpart
  | 0x017 => some .sluiceset
  | 0x018 => some .sluiceget
  | 0x020 => if g4 = 1 then some .censusStart else if g4 = 0 then some .censusStop else none
  | 0x021 => if g1 = 0 then some .sampleOff else if 4 ≤ g1 ∧ g1 ≤ 20 then some .sampleOn else none
  | 0x022 => if g1 = 0 then some .recsessEnd else if g1 = 1 then some .recsessRecord else if g1 = 2 then some .recsessReplay else none
  | _ => none

/-- The die whose memory processor serves a translation service: the one that homes the context's root table, else the gang's. -/
def State.rootDie (s : State) (ctx die : Nat) : Nat :=
  match mget ctx s.mem.roots with
  | some pa => paStack pa / 3
  | none => die

def execFwcall (p : Pred) (svc : BitVec 12) (s : State) : Host.Outcome State Fault Refusal :=
  s.uni p fun x =>
    let n := svc.toNat
    let unit := if 0x010 ≤ n ∧ n ≤ 0x016 then s.rootDie x.ctx x.g.die else x.g.die
    let time := unitTime x.g.die unit
    match fwService n (x.g.g.getD 1 0).toNat (x.g.g.getD 4 0).toNat with
    | some e => s.fwcall x n (some e) time
    | none =>
      match s.gang? x.k with
      | none => s
      | some g =>
        let t := s.clk.now + time
        (s.setGang x.k (g.push ⟨t, x.pos, 0, x.run, false, x.path.lanes, x.pc, .general, .g 1 1⟩)).answered x t

/-- The arguments G1 to G4 of the call that a gang waits for. -/
def State.fwArgs (s : State) (k : Nat) : Option (Gang × List Nat) :=
  match s.gang? k with
  | none => none
  | some g => (g.paths.findSome? (fun p => match p.wait with
    | .fwcall _ a => some (a.map BitVec.toNat)
    | _ => none)).map (fun a => (g, a))

/-- A service ends: its status lands in G1, its other results in their registers, and the path goes on (R377, R401). -/
def State.fwEnd (s : State) (k status : Nat) (res : List (Nat × DWord)) : State :=
  match s.gang? k with
  | none => s
  | some g =>
    match g.paths.find? (fun p => match p.wait with
      | .fwcall _ _ => true
      | _ => false) with
    | none => s
    | some p =>
      let ws := Write.g 1 (BitVec.ofNat 64 status) :: res.map (fun r => Write.g r.1 r.2)
      (s.landVar k 0 p.lanes p.pc .general ws).modGang k (fun g => g.modPath p.lanes (fun p => { p.next p.wlen with wait := .none }))

/-- A service of a gang: what it does with the gang and the arguments. -/
def State.service (s : State) (f : Nat → Gang → Nat → (Nat → Nat) → State) : Host.Outcome State Fault Refusal :=
  let k := s.clk.subj.a
  match s.fwArgs k with
  | none => .next s
  | some (g, a) => .next (f k g (s.ctxOf g) (fun i => a.getD (i - 1) 0))

/-! ## Access of command processors, services and arriving RMA to a buffer (R42, R72, R85, R86, R89) -/

/-- What an agent outside the clusters meets on a buffer: every byte can be accessed, the first cause that fails and its address, or it tries
again at a clk. -/
inductive Gate where
  | ok
  | fail (cause : Nat) (at_ : DWord)
  | later (t : Nat)
  deriving DecidableEq, Repr

/-- The page of the first byte of a span for which an access fails, the cause, or the clk at which the port of its home is looked at again. -/
def State.gateSpan (s : State) (ctx die : Nat) (k : AccKind) (at_ : DWord) : Gate :=
  match s.access ctx k at_ with
  | .error c => .fail c at_
  | .ok (leaf, size, _) => match s.homeOf ctx die leaf size (ptrVa at_) with
    | some h => if s.portDown h then .later (s.clk.now + 1) else .ok
    | none => .ok

/-- An agent that a die serves accesses a buffer: its pages are translated by the die's TLB and walker (R85), a light fault is served (R89),
a page that the host owns is pulled (R72) where `pull` says so; what goes through a port that is down waits (R42). -/
def State.ready (s : State) (ctx die : Nat) (k : AccKind) (ptr : DWord) (n : Nat) (pull : Bool) : Gate × State :=
  let w := s.dieWalks die ctx (if ptrOk ptr then pagesOf (ptrVa ptr) n else [])
  if w.1 ≠ 0 then (.later (s.clk.now + w.1), w.2)
  else
    let s1 := w.2
    match (spansOf ptr.toNat n).foldl (fun (g : Gate) x => match g with
      | .ok => s1.gateSpan ctx die k (BitVec.ofNat 64 x.1)
      | g => g) .ok with
    | .fail 0x0101 a => (.later (s.clk.now + 600), s1.serveCause ctx (ptrVa a) 0x0101 (k != .read))
    | .fail 0x0103 a => if pull then (.later (s.clk.now + 3000), s1.startPull ctx (pageOf (ptrVa a))) else (.fail 0x0103 a, s1)
    | g => (g, s1)

/-- A service of a gang first needs a buffer to read, or to write (R93): what it does then, or BADFIELD. -/
def State.fwBuffer (s : State) (k ctx : Nat) (ev : Instr) (write : Bool) (a n : Nat) (f : State → State) : State :=
  let ptr := BitVec.ofNat 64 a
  match s.ready ctx (((s.gang? k).map Gang.die).getD 0) (if write then .write else .read) ptr n false with
  | (.ok, s1) => f (if write then s1 else s1.readRecs ctx ptr n)
  | (.fail _ _, s1) => s1.fwEnd k 1 []
  | (.later t, s1) => s1.sched t ev k s.clk.subj.b s.clk.subj.c s.clk.subj.d

/-! ## Tables (R80 to R83, R92, R496) -/

/-- A lost entry (R83). -/
def entryLost (e : DWord) : Bool := !leafV e && field e 1 3 == 1

/-- The bytes of a range read 0, and its descriptors and stored errors go. -/
def State.clearRange (s : State) (a n : Nat) : State :=
  let inside := fun (x : Nat) => decide (a ≤ x ∧ x < a + n)
  { s with mem := { s.mem with
      bytes := s.mem.bytes.filter (fun c => !inside c.1)
      desc := s.mem.desc.filter (fun d => !inside (d.1 * 64))
      tags := s.mem.tags.filter (fun d => !inside (d.1 * 64))
      flips := s.mem.flips.filter (fun f => !inside (f.loc * 64)) } }

/-- A new table of 0 entries, in a granule of its own (log 20): its address. -/
def State.newTable (s : State) (ctx : Nat) : Option (Nat × State) :=
  match s.areaTake ctx 0 4096 with
  | none => none
  | some (a, s1) => some (a.1 * 65536, s1.clearRange (a.1 * 65536) 65536)

/-- The root table and the reservoir table of a context are reserved at its first MAPINS or MAP (R496); `none`: no granules. -/
def State.needRoot (s : State) (ctx : Nat) : Option State :=
  if (mget ctx s.mem.roots).isSome then some s
  else
    match s.newTable ctx with
    | none => none
    | some (pa, s1) =>
      match s1.areaTake ctx 0 262144 with
      | none => none
      | some (a, s2) => some { s2 with
          mem := { s2.mem with roots := mput ctx pa s2.mem.roots }
          work := { s2.work with resRoot := mput ctx (a.1 * 65536) s2.work.resRoot } }

/-- The entry of a VA at a level, from the table at an address of a level down: the level reached and the entry's address. A leaf or
a lost entry above ends the way. With `make`, tables on the way are reserved; `none`: no granule is left. -/
def State.slotAt (s : State) (ctx va target : Nat) (make : Bool) : Nat → Nat → Option (Nat × Nat) × State
  | 0, pa => (some (0, pa + 8 * levelIndex va 0), s)
  | l + 1, pa =>
    let at_ := pa + 8 * levelIndex va (l + 1)
    let e := s.tableRead at_
    if l + 1 = target then (some (l + 1, at_), s)
    else if leafV e then
      if leafLeaf e then (some (l + 1, at_), s) else s.slotAt ctx va target make l (tableNext e)
    else if entryLost e ∨ !make then (some (l + 1, at_), s)
    else
      match s.newTable ctx with
      | none => (none, s)
      | some (t, s1) => (s1.tableWrite at_ (BitVec.ofNat 64 (t + 1))).slotAt ctx va target make l t

/-- How many entries a table of a level has (R80). -/
def tableLen (level : Nat) : Nat := if level = 0 then 32 else 512

/-- A valid leaf or a lost entry stands in the table at an address or beneath it. -/
def State.anyBeneath (s : State) : Nat → Nat → Bool
  | 0, pa => (List.range 32).any (fun i => leafV (s.tableRead (pa + 8 * i)) || entryLost (s.tableRead (pa + 8 * i)))
  | l + 1, pa => (List.range 512).any (fun i =>
      let e := s.tableRead (pa + 8 * i)
      entryLost e || (leafV e && (leafLeaf e || s.anyBeneath l (tableNext e))))

/-- The granules of a table and of those beneath it. -/
def State.tablesOf (s : State) : Nat → Nat → List Nat
  | 0, pa => [pa / 65536]
  | l + 1, pa => pa / 65536 :: (List.range 512).flatMap (fun i =>
      let e := s.tableRead (pa + 8 * i)
      if leafV e && !leafLeaf e then s.tablesOf l (tableNext e) else [])

/-! ## The checks of MAPINS (R81, R84, R94, R198) -/

/-- The fields of a map call: the address, how many pages, their size. -/
def mapRange (va count size : Nat) : Bool :=
  decide (1 ≤ count ∧ count ≤ 65536 ∧ size ≤ 2) && decide (va + count * pageBytes size ≤ 2 ^ 57)

/-- A template may be installed. -/
def tmplOk (e : DWord) (size : Nat) : Bool :=
  leafV e && leafLeaf e && !leafBad e size && decide (leafHcl e < 136) && decide (leafPeer e < 4096)

/-- A granule exists in a data region (R32, R92). -/
def granuleOk (g : Nat) : Bool := decide (g / 2 ^ 20 < 12) && decide (g % 2 ^ 20 ≤ lastGranule)

/-- A context may map a granule (R94). -/
def State.mayMap (s : State) (ctx g : Nat) : Bool :=
  let e := s.ownerOf g
  granuleOk g && !ownFw e && (ctx == 0 || (ownAlloc e && ownCtx e == ctx))

/-- The status of a page's check under R94 and R198: 0 when it may be installed. -/
def State.mapCheck (s : State) (ctx : Nat) (e : DWord) (pfn n : Nat) : Nat :=
  let cl := leafHcl e
  if 2 ^ 24 < pfn + n then 1
  else if leafPeer e ≠ 0 ∧ (mget (ctx * 4096 + leafPeer e) s.adm.peers).isNone then 1
  else if leafHome e = 2 ∧ !(s.partClusters (s.partOf ctx)).contains cl then 1
  else if leafPeer e = 0 ∧ !(List.range n).all (fun i => s.mayMap ctx (pfn + i)) then 2
  else 0

/-- The status of the limits of HOME 01 and HOME 10 (R198). -/
def State.homeCheck (s : State) (e : DWord) (pfn n : Nat) : Nat :=
  if leafPeer e ≠ 0 then 0
  else if leafHome e = 1 then (if 512 < mgetD 0 (pfn / 2 ^ 20 / 3) s.mem.pins + n then 1 else 0)
  else if leafHome e = 2 then
    let cl := leafHcl e
    if 4 ≤ mgetD 0 cl s.work.spwin then 1
    else if (s.spTaken cl).any (fun o => decide (786432 - 65536 * (mgetD 0 cl s.work.spwin + 1) < o.1 + o.2)) then 6
    else 0
  else 0

/-- The room that a leaf takes under HOME 01 and HOME 10 is counted, or given back. -/
def State.homeCount (s : State) (e : DWord) (n : Nat) (add : Bool) : State :=
  let f := fun (old k : Nat) => if add then old + k else old - k
  let die := leafPfn e / 2 ^ 20 / 3
  if leafPeer e ≠ 0 then s
  else if leafHome e = 1 then { s with mem := { s.mem with pins := mset 0 die (f (mgetD 0 die s.mem.pins) n) s.mem.pins } }
  else if leafHome e = 2 then { s with work := { s.work with spwin := mset 0 (leafHcl e) (f (mgetD 0 (leafHcl e) s.work.spwin) 1) s.work.spwin } }
  else s

/-! ## Installing and removing (R93, R95, R344) -/

/-- A page of a watched range changes: the reservoirs that watch it see a new version (R344). -/
def State.watchPage (s : State) (ctx va n : Nat) : State :=
  let near := fun (w : Watch) =>
    let r := s.resRec w.ctx w.idx
    let base := ptrVa (BitVec.ofNat 64 (numAt r 0x20 8))
    w.ctx == ctx && decide (base < va + n ∧ va < base + numAt r 0x28 8)
  let keys := s.work.watches.foldl (fun (m : Map Unit) w => if near w then mput (resKey w.ctx w.idx) () m else m) []
  keys.foldl (fun s k => s.bumpVersion (k.1 / 4096) (k.1 % 4096)) s

/-- How a map service ends: its status, the pages done, the pages whose requests it waits for (R95 step 3; how many, 0 none). -/
structure MapRes where
  status : Nat
  done : Nat
  page : Nat
  wait : Nat
  deriving DecidableEq, Repr

/-- One page of MAPINS: the status, whether tables went, the state. -/
def State.mapinsPage (s : State) (ctx va : Nat) (tmpl : DWord) (pfn size : Nat) : Nat × Bool × State :=
  let n := pageBytes size / 65536
  let e := (tmpl &&& ~~~(0xFFFFFF0000 : DWord)) ||| BitVec.ofNat 64 (pfn % 2 ^ 24 * 65536)
  let st := s.mapCheck ctx e pfn n
  if st ≠ 0 then (st, false, s)
  else
    match mget ctx s.mem.roots with
    | none => (5, false, s)
    | some root =>
      match s.slotAt ctx va size true 4 root with
      | (none, s1) => (5, false, s1)
      | (some (level, pa), s1) =>
        let old := s1.tableRead pa
        let beneath := leafV old && !leafLeaf old
        let taken := level != size || entryLost old || (leafV old && leafLeaf old) || (beneath && (size == 0 || s1.anyBeneath (size - 1) (tableNext old)))
        let room := s1.homeCheck e pfn n
        if taken then (3, false, s1)
        else if room ≠ 0 then (room, false, s1)
        else
          let s2 := if beneath then (s1.tablesOf (size - 1) (tableNext old)).foldl (fun s g => s.areaFree (g, 1)) s1 else s1
          let s3 := (s2.tableWrite pa e).homeCount e n true
          let s4 := if beneath then s3.invalidate ctx (pageOf va) n else s3
          (0, beneath, (s4.watchPage ctx va (pageBytes size)).wakePages ctx (pageOf va) n 0x0102)

/-- The pages of MAPINS, ascending: `left` are to do, `i` are done. -/
def State.mapinsLoop (s : State) (ctx va : Nat) (tmpl : DWord) (size : Nat) : Nat → Nat → Bool → (Nat × Nat × Bool) × State
  | 0, i, w => ((0, i, w), s)
  | left + 1, i, w =>
    match s.mapinsPage ctx (va + i * pageBytes size) tmpl (leafPfn tmpl + i * (pageBytes size / 65536)) size with
    | (0, b, s1) => s1.mapinsLoop ctx va tmpl size left (i + 1) (w || b)
    | (st, _, s1) => ((st, i, w), s1)

/-- MAPINS of a context. -/
def State.doMapins (s : State) (ctx va : Nat) (tmpl : DWord) (count size : Nat) : MapRes × State :=
  if !mapRange va count size then (⟨1, count, 0, 0⟩, s)
  else if va % pageBytes size ≠ 0 ∨ !tmplOk tmpl size then (⟨1, 0, 0, 0⟩, s)
  else
    match s.needRoot ctx with
    | none => (⟨5, 0, 0, 0⟩, s)
    | some s1 =>
      match s1.mapinsLoop ctx va tmpl size count 0 false with
      | ((st, i, w), s2) => (⟨st, if st = 0 then count else i, pageOf va, if w then count * (pageBytes size / 65536) else 0⟩, s2)

/-- One page of MAPREM: a not-present entry takes the place of the leaf, or of the mark of a lost page (R104). -/
def State.mapremPage (s : State) (ctx va size : Nat) : Option State :=
  match mget ctx s.mem.roots with
  | none => none
  | some root =>
    match s.slotAt ctx va size false 4 root with
    | (some (level, pa), _) =>
      let old := s.tableRead pa
      let n := pageBytes size / 65536
      if level ≠ size then none
      else if entryLost old then some ((s.tableWrite pa 0).invalidate ctx (pageOf va) n)
      else if leafV old && leafLeaf old then
        some ((((s.tableWrite pa 0).homeCount old n false).invalidate ctx (pageOf va) n).watchPage ctx va (pageBytes size))
      else none
    | (none, _) => none

def State.mapremLoop (s : State) (ctx va size : Nat) : Nat → Nat → (Nat × Nat) × State
  | 0, i => ((0, i), s)
  | left + 1, i =>
    match s.mapremPage ctx (va + i * pageBytes size) size with
    | some s1 => s1.mapremLoop ctx va size left (i + 1)
    | none => ((4, i), s)

/-- MAPREM of a context. -/
def State.doMaprem (s : State) (ctx va count size : Nat) : MapRes × State :=
  if !mapRange va count size ∨ va % pageBytes size ≠ 0 then (⟨1, count, 0, 0⟩, s)
  else
    match s.mapremLoop ctx va size count 0 with
    | ((st, i), s1) => (⟨st, if st = 0 then count else i, pageOf va, i * (pageBytes size / 65536)⟩, s1)

/-- A request of the context that was translated for one of these pages has neither been accepted nor bounced (R95 step 3). -/
def State.inFlight (s : State) (ctx page n : Nat) : Bool :=
  s.mem.reqs.any (fun r => r.2.ctx == ctx && r.2.parts.any (fun p => p.st == .flying &&
    decide (page ≤ pageOf (ptrVa p.blk) ∧ pageOf (ptrVa p.blk) < page + n)))

/-- A map service of a gang ends, at once or when the requests it waits for have been accepted or have bounced: `c` holds the
status and the pages done, `d` the pages. -/
def State.mapEnd (s : State) (k ctx : Nat) (ev : Instr) (r : MapRes) : State :=
  if r.wait ≠ 0 ∧ s.inFlight ctx r.page r.wait then
    s.sched (s.clk.now + 1) ev k 1 (r.status + 16 * r.done) (r.page + 2 ^ 48 * r.wait)
  else s.fwEnd k r.status [(3, BitVec.ofNat 64 r.done)]

/-- What a map service that waits has kept. -/
def mapKept (c d : Nat) : MapRes := ⟨c % 16, c / 16, d % 2 ^ 48, d / 2 ^ 48⟩

/-- MAPINS (R93, R94). -/
def execMapins (s : State) : Host.Outcome State Fault Refusal :=
  s.service fun k _ ctx a =>
    if s.clk.subj.b = 1 then s.mapEnd k ctx .mapins (mapKept s.clk.subj.c s.clk.subj.d)
    else
      match s.doMapins ctx (a 1) (BitVec.ofNat 64 (a 2)) (a 3) (a 4) with
      | (r, s1) => s1.mapEnd k ctx .mapins r

/-- MAPREM (R93, R95). -/
def execMaprem (s : State) : Host.Outcome State Fault Refusal :=
  s.service fun k _ ctx a =>
    if s.clk.subj.b = 1 then s.mapEnd k ctx .maprem (mapKept s.clk.subj.c s.clk.subj.d)
    else
      match s.doMaprem ctx (a 1) (a 3) (a 4) with
      | (r, s1) => s1.mapEnd k ctx .maprem r

/-- MAPGET (R93). -/
def execMapget (s : State) : Host.Outcome State Fault Refusal :=
  s.service fun k _ ctx a =>
    if 2 ^ 57 ≤ a 1 then s.fwEnd k 1 []
    else
      match mget ctx s.mem.roots with
      | none => s.fwEnd k 0 [(2, 0), (4, 4)]
      | some root =>
        match (s.slotAt ctx (a 1) 0 false 4 root).1 with
        | some (level, pa) => s.fwEnd k 0 [(2, s.tableRead pa), (4, BitVec.ofNat 64 level)]
        | none => s

/-! ## Ownership, peers, partitions, sluice intervals (R93, R97, R102, R204) -/

/-- GRANT: granted granules start with zero data and descriptors (R217). -/
def execGrant (s : State) : Host.Outcome State Fault Refusal :=
  s.service fun k _ ctx a =>
    let stack := bits (a 1) 36 4
    let first := bits (a 1) 0 20
    let c := a 4
    let gs := (List.range (a 3)).map (fun i => stack * 2 ^ 20 + first + i)
    let free := fun (g : Nat) => let e := s.ownerOf g
      !ownAlloc e && !ownFw e
    if ctx ≠ 0 then s.fwEnd k 7 []
    else if a 1 ≠ stack * 2 ^ 36 + first ∨ 12 ≤ stack ∨ a 3 = 0 ∨ lastGranule + 1 < first + a 3 ∨ 64 ≤ c then s.fwEnd k 1 []
    else if !(s.partStacks (s.partOf c)).contains stack || !gs.all free then s.fwEnd k 2 []
    else
      let s1 := gs.foldl (fun s g => s.setOwner g (ownEntry true false (s.partOf c) c)) s
      (s1.clearRange ((stack * 2 ^ 20 + first) * 65536) (a 3 * 65536)).fwEnd k 0 []

/-- PEERBIND: the peer entry is UP with the connection's present epoch (R102). -/
def execPeerbind (s : State) : Host.Outcome State Fault Refusal :=
  s.service fun k _ ctx a =>
    match mget (a 3) s.adm.conns with
    | some c =>
      if a 1 = 0 ∨ 4096 ≤ a 1 ∨ 2 ≤ a 4 ∨ c.ctx ≠ ctx ∨ !c.up then s.fwEnd k 1 []
      else
        let p : Peer := ⟨a 3, BitVec.ofNat 64 (a 2), a 4 == 1, c.epoch, true⟩
        ({ s with adm := { s.adm with peers := mput (ctx * 4096 + a 1) p s.adm.peers } }).fwEnd k 0 []
    | none => s.fwEnd k 1 []

/-- A context of a partition among these has a team that has not ended, a task, or a request in a cistern, woken or not: of a gang, an
engine, or a command queue (R68, R97, R207). -/
def State.partBusy (s : State) (ps : List Nat) : Bool :=
  let mine := fun (ctx : Nat) => ps.contains (s.partOf ctx)
  let gang := fun (k : Nat) => ((s.gang? k).map (fun g => mine (s.ctxOf g))).getD false
  s.work.teams.any (fun t => mine t.2.ctx && t.2.st != .ended) || s.work.tasks.any (fun t => mine t.2.ctx) ||
  s.mem.reqs.any (fun r => mine r.2.ctx && r.2.parts.any (fun p => match p.st with
    | .cistern _ _ _ => true
    | .woken _ => true
    | _ => false)) ||
  s.allOps.any (fun o => gang o.1 && o.2.2.2.btime != 0) || s.work.uncs.any (fun u => gang u.2.gang && u.2.ent.btime != 0) ||
  s.adm.queues.any (fun q => mine q.2.ctx && q.2.entries.any Entry.bounced)

/-- PARTSET: the clusters and stacks leave the partitions that hold them (R97). -/
def execPartset (s : State) : Host.Outcome State Fault Refusal :=
  s.service fun k _ ctx a =>
    if ctx ≠ 0 then s.fwEnd k 7 []
    else if 8 ≤ a 1 ∨ a 2 % 8 ≠ 0 ∨ 2 ^ 12 ≤ a 3 then s.fwEnd k 1 []
    else s.fwBuffer k ctx .partset false (a 2) 24 fun s1 =>
      match s1.vread ctx (BitVec.ofNat 64 (a 2)) 24 with
      | .error _ => s1.fwEnd k 1 []
      | .ok bs =>
        let cl := ofBytes bs
        let hit := s1.adm.parts.filter (fun p => p.1 != a 1 && (Nat.land p.2.1 cl != 0 || Nat.land p.2.2 (a 3) != 0))
        if 2 ^ 136 ≤ cl then s1.fwEnd k 1 []
        else if s1.partBusy (a 1 :: hit.map Prod.fst) then s1.fwEnd k 6 []
        else
          let less := fun (x y : Nat) => Nat.xor x (Nat.land x y)
          let ps := s1.adm.parts.map (fun p => (p.1, (less p.2.1 cl, less p.2.2 (a 3))))
          ({ s1 with adm := { s1.adm with parts := mput (a 1) (cl, a 3) ps } }).fwEnd k 0 []

/-- CTXPART (R97). -/
def execCtxpart (s : State) : Host.Outcome State Fault Refusal :=
  s.service fun k _ ctx a =>
    if ctx ≠ 0 then s.fwEnd k 7 []
    else if a 1 = 0 ∨ 64 ≤ a 1 ∨ (mget (a 2) s.adm.parts).isNone then s.fwEnd k 1 []
    else if s.partBusy [a 2, s.partOf (a 1)] then s.fwEnd k 6 []
    else ({ s with adm := { s.adm with ctxPart := mset 0 (a 1) (a 2) s.adm.ctxPart } }).fwEnd k 0 []

/-- SLUICESET (R204). -/
def execSluiceset (s : State) : Host.Outcome State Fault Refusal :=
  s.service fun k _ ctx a =>
    if ctx ≠ 0 then s.fwEnd k 7 []
    else if 8 ≤ a 1 ∨ 8 ≤ a 2 ∨ a 3 < 32 ∨ 65536 < a 3 then s.fwEnd k 1 []
    else ({ s with mem := { s.mem with sluice := mset 512 (a 1 * 8 + a 2) (a 3) s.mem.sluice } }).fwEnd k 0 []

/-- SLUICEGET (R204). -/
def execSluiceget (s : State) : Host.Outcome State Fault Refusal :=
  s.service fun k _ ctx a =>
    if 8 ≤ a 1 ∨ 8 ≤ a 2 then s.fwEnd k 1 []
    else if ctx ≠ 0 ∧ a 1 ≠ s.partOf ctx then s.fwEnd k 7 []
    else s.fwEnd k 0 [(3, BitVec.ofNat 64 (mgetD 512 (a 1 * 8 + a 2) s.mem.sluice))]

/-! ## Host-shared pages (R72, R104) -/

/-- The first page and the pages of the leaf that covers a page, and where its entry lies. -/
def State.leafSpan (s : State) (ctx page : Nat) : Option (Nat × Nat × Nat × DWord) :=
  match s.leafOf ctx (page * 65536), s.pteAddr ctx (page * 65536) with
  | .leaf e size, some pa => let n := pageBytes size / 65536
    some (page / n * n, n, pa, e)
  | _, _ => none

/-- `n` times 8 bytes that the host has sent: free values (log 5). -/
def freeBytes (cnt : Nat) : Nat → List Byte
  | 0 => []
  | n + 1 => toBytes 8 (Config.freeValue cnt).toNat ++ freeBytes (cnt + 1) n

/-- The bytes of a page of HBM become what the host has sent. -/
def State.pullBytes (s : State) (a bytes : Nat) : State :=
  let data := freeBytes s.clk.freeCnt (bytes / 8)
  { s with
    clk := { s.clk with freeCnt := s.clk.freeCnt + bytes / 8 }
    mem := { s.mem with bytes := writeBytes s.mem.bytes a data, flips := s.mem.flips.filter (fun f => !decide (a ≤ f.loc * 64 ∧ f.loc * 64 < a + bytes)) } }

/-- The page of a pull has arrived whole: it belongs to the 9400 from now on, and what waits for it goes on (R72). -/
def State.pulled (s : State) (ctx page : Nat) : State :=
  match s.leafSpan ctx page with
  | none => s
  | some (first, n, pa, e) =>
    if !leafHown e then s
    else
      let s1 := if leafPeer e = 0 then s.pullBytes (leafPfn e * 65536) (n * 65536) else s
      let s2 := ((s1.tableWrite pa (e &&& ~~~(0x200 : DWord))).dropTlb ctx first n).watchPage ctx (first * 65536) (n * 65536)
      (s2.wakePages ctx first n 0x0103).wakePages ctx first n 0x0102

/-- A part that waits for a page's pull. -/
def Part.pullWait (p : Part) (first n : Nat) : Bool :=
  (match p.st with
    | .cistern 0x0103 _ _ => true
    | _ => false) && decide (first ≤ pageOf (ptrVa p.blk) ∧ pageOf (ptrVa p.blk) < first + n)

/-- The pull of a page has failed: the page is lost, and every request that waits for it completes as LOST (R104). -/
def State.pullLost (s : State) (ctx page : Nat) : State :=
  match s.leafSpan ctx page with
  | none => s
  | some (first, n, pa, _) =>
    let s1 := (s.tableWrite pa 2).invalidate ctx first n
    let s2 := s1.mem.reqs.foldl (fun s r =>
      if r.2.ctx ≠ ctx then s
      else (List.range r.2.parts.length).foldl (fun s b =>
        match ((s.req? r.1).bind (fun q => q.parts[b]?)) with
        | none => s
        | some p => if p.pullWait first n then s.failPart r.1 b 0x0105 else s) s) s1
    let s3 := { s2 with mem := { s2.mem with fetches := s2.mem.fetches.map (fun (x : FetchWait) =>
      if x.ctx = ctx ∧ x.cause = 0x0103 ∧ first ≤ x.page ∧ x.page < first + n then { x with cause := 0x0105 } else x) } }
    (s3.wakePages ctx first n 0x0103).watchPage ctx (first * 65536) (n * 65536)

end Sys2Proof.Machine
end

