-- ==== Sys2Proof/Machine/Casux.lean ====
section
/-! DEFINITION. Casux command queues: wakes, reading entries, starting and completing them, and their commands (R55 to R73, R108,
R109, R471, R472). -/

namespace Sys2Proof.Machine

/-! ## Queues and entries (R56, R61) -/

def State.queue? (s : State) (q : Nat) : Option Queue := mget q s.adm.queues
def State.modQueue (s : State) (q : Nat) (f : Queue → Queue) : State := { s with adm := { s.adm with queues := mmod q f s.adm.queues } }
def State.modEntry (s : State) (q i : Nat) (f : Entry → Entry) : State :=
  s.modQueue q (fun x => { x with entries := x.entries.map (fun e => if e.idx = i then f e else e) })

def Queue.size (q : Queue) : Nat := 2 ^ q.log2

/-- A number in an entry. -/
def Entry.num (e : Entry) (off n : Nat) : Nat := numAt e.bytes off n
def Entry.addr (e : Entry) (off : Nat) : DWord := BitVec.ofNat 64 (e.num off 8)
def Entry.op (e : Entry) : Nat := e.num 0 1
def Entry.barrier (e : Entry) : Bool := flagAt e.bytes 1 0
def Entry.signals (e : Entry) : Bool := flagAt e.bytes 1 1

/-- The queue and the entry that an event concerns. -/
def State.entry? (s : State) (q i : Nat) : Option (Queue × Entry) :=
  match s.queue? q with
  | none => none
  | some x => (x.entries.find? (fun e => e.idx == i)).map (fun e => (x, e))

/-- The die whose command processor serves a queue: the one that homes its base address (R56). -/
def State.queueDie (s : State) (q : Queue) : Nat :=
  match s.leafOf q.ctx (ptrVa q.base) with
  | .leaf e size => match s.homeOf q.ctx 0 e size (ptrVa q.base) with
    | some h => if h.die < 4 then h.die else 0
    | none => 0
  | _ => 0

/-! ## Access to what a command names (R65, R88, R89, R72) -/

/-- The status that a cause gives a command (R65). -/
def causeStatus (c : Nat) : Nat := if c = 0x0105 then 8 else 4

/-- A record of an access of the command processor. -/
def State.cmdRecord (s : State) (ctx cause access : Nat) (ptr : DWord) : State :=
  s.log ⟨cause, access, ctx, 0xFFFF, 0xFFFF, ptr, s.clk.now, 0, 0⟩

/-- ACCESS of an error record. -/
def AccKind.code : AccKind → Nat
  | .read => 0
  | .write => 1
  | .atomic => 2
  | .exec => 3

/-- A buffer of a queue's command (R85, R89, R72): a cause that fails is recorded. -/
def State.gateOne (s : State) (x : Queue) (k : AccKind) (ptr : DWord) (n : Nat) : Gate × State :=
  match s.ready x.ctx (s.queueDie x) k ptr n true with
  | (.fail c a, s1) => (.fail c a, s1.cmdRecord x.ctx c k.code a)
  | r => r

/-- The buffers of a command, in order; what a read finds beside the bytes is recorded once all can be accessed. -/
def State.gateAll (s : State) (x : Queue) : List (AccKind × DWord × Nat) → Gate × State
  | [] => (.ok, s)
  | y :: l =>
    match s.gateOne x y.1 y.2.1 y.2.2 with
    | (.ok, s1) =>
      match s1.gateAll x l with
      | (.ok, s2) => (.ok, if y.1 = .write then s2 else s2.readRecs x.ctx y.2.1 y.2.2)
      | r => r
    | r => r

/-- The GWCT of a write that a command makes now to a place (R45, R233): for peer memory the arrival of the acknowledgement. -/
def State.cmdGwct (s : State) (leaf : DWord) (a : Nat) : Nat :=
  if leafPeer leaf = 0 then s.gwctOf (a / 64) none
  else max (s.clk.now + 3000) (if s.adm.locked then s.gwctOf (a / 64) none else 0)

/-- The clk at which a write made now to a range has a GWCT that has passed at SYS scope. -/
def State.writeTime (s : State) (ctx : Nat) (ptr : DWord) (n : Nat) : Nat :=
  (spansOf ptr.toNat n).foldl (fun t x =>
    match s.access ctx .write (BitVec.ofNat 64 x.1) with
    | .ok p => max t (s.cmdGwct p.1 p.2.2)
    | .error _ => t) s.clk.now

/-! ## Completing an entry (R64, R66) -/

/-- An entry is over: it leaves the command processor's store. -/
def State.entryGone (s : State) (q i : Nat) : State := s.modQueue q (fun x => { x with entries := x.entries.filter (fun e => e.idx != i) })

/-- A completion signal (R64), or the clk at which it is tried again. One that cannot be written is dropped, with its error record: the entry
is over, and its STATUS is nowhere (log 58, DESIGN CHOICE: the manual does not say). -/
def State.sendSignal (s : State) (x : Queue) (addr : DWord) (tag status qid detail : Nat) : Option Nat × State :=
  match s.gateOne x .write addr 16 with
  | (.ok, s1) => (none, (s1.vwrite x.ctx addr (toBytes 4 tag ++ toBytes 2 status ++ toBytes 2 qid ++ toBytes 8 detail)).1)
  | (.fail _ _, s1) => (none, s1)
  | (.later t, s1) => (some t, s1)

/-- AN ENTRY COMPLETES with a status: its signal is written where it asks for one. `detail`: what DETAIL holds, NOW where it is
`none`. An entry whose SIGADDR is not aligned ends with BADFIELD, and no signal is written anywhere (log 58, DESIGN CHOICE: the manual
names no other place). -/
def State.entryEnd (s : State) (q i status : Nat) (detail : Option Nat := none) : State :=
  match s.entry? q i with
  | none => s
  | some (x, e) =>
    if !e.signals || e.num 8 8 % 16 != 0 then s.entryGone q i
    else
      match s.sendSignal x (e.addr 8) (e.num 4 4) status q (detail.getD s.clk.now) with
      | (none, s1) => s1.entryGone q i
      | (some t, s1) => (s1.modEntry q i (fun e => { e with done := true })).sched t .commandRestart q i (1 + status) (match detail with
          | none => 0
          | some d => d + 1)

/-- A command that first needs its buffers: what it does with them; where they are not ready, its event comes again. -/
def State.withBuffers (s : State) (q i : Nat) (x : Queue) (ev : Instr) (l : List (AccKind × DWord × Nat)) (f : State → State) : State :=
  match s.gateAll x l with
  | (.ok, s1) => f s1
  | (.fail c _, s1) => s1.entryEnd q i (causeStatus c)
  | (.later t, s1) => s1.sched t ev q i s.clk.subj.c s.clk.subj.d

/-- A command of an entry that has started and is not over. -/
def State.command (s : State) (f : Nat → Nat → Queue → Entry → State) : Host.Outcome State Fault Refusal :=
  let q := s.clk.subj.a
  let i := s.clk.subj.b
  match s.entry? q i with
  | none => .next s
  | some (x, e) => .next (if e.done || e.started.isNone then s else f q i x e)

/-! ## Wakes (R57, R471, R472) -/

/-- What a wake meets. -/
inductive WakeAns where
  | accepted | full | refused
  deriving DecidableEq, Repr

/-- A proposed write index of a context. -/
def State.wakeAnswer (s : State) (ctx qid : Nat) (v : Word) : WakeAns :=
  match s.queue? qid with
  | none => .refused
  | some q =>
    let ahead := (v - q.widx).toNat
    if q.ctx ≠ ctx ∨ q.stopped ∨ q.dying ∨ ahead = 0 ∨ q.size < ahead then .refused
    else if q.size < (v - q.ridx).toNat then .full
    else .accepted

/-- WIDX ← v; or the wake is ignored and counted. -/
def State.wakeQueue (s : State) (ctx qid : Nat) (v : Word) : State :=
  match s.wakeAnswer ctx qid v with
  | .accepted => s.modQueue qid (fun q => { q with widx := v })
  | _ => s.modQueue qid (fun q => { q with errs := q.errs + 1 })

/-- WAKE_MESSAGE (R57). -/
def execWakeMessage (conn qid : Nat) (widx : Word) (s : State) : Host.Outcome State Fault Refusal :=
  match mget conn s.adm.conns with
  | some c => .next (if c.up then s.wakeQueue c.ctx qid widx else s)
  | none => .next s

/-- QSEND's answer when the wake goes to a peer 9400: its endpoint's answer is a free value (log 5). -/
def State.qsendPeer (s : State) (x : Iss) (qd : Fin 8) (peer qid : Nat) (v : Word) : State :=
  match s.peer? x.ctx peer with
  | none => (s.logGang x.g 0x0109 1 (BitVec.ofNat 64 qid) 1 x.hdr).answerQ x 4 qd false
  | some p =>
    if p.host then (s.modQueue qid (fun q => { q with errs := q.errs + 1 })).answerQ x x.g.die qd false
    else
      let (f, s1) := s.drawFree
      let s2 := { s1 with adm := { s1.adm with outbox := s1.adm.outbox ++
        [(p.conn, toBytes 2 qid ++ toBytes 2 0 ++ toBytes 4 v.toNat ++ toBytes 8 0)] } }
      match s2.gang? x.k with
      | none => s2
      | some g =>
        let t := s2.clk.now + 3000
        (s2.setGang x.k (g.results x (s2.issueFrom g.die t 4) 4 .general [.q qd.val (f.getLsbD 0)])).answered x t

def execQsend (p : Pred) (space : Bool) (qd : Fin 8) (a b : USrc) (s : State) : Host.Outcome State Fault Refusal :=
  s.uni p fun x =>
    let ga := (x.u a).toNat
    let gb := (x.u b).toNat
    let qid := bits ga 0 10
    let peer := bits ga 16 12
    let v := BitVec.ofNat 32 gb
    if (s.rivalOf x.g).isSome then s.rivalOp x 1 (x.u a) 1
    else if ga ≠ qid + peer * 2 ^ 16 ∨ 2 ^ 32 ≤ gb then
      (s.modQueue qid (fun q => { q with errs := q.errs + 1 })).answerQ x x.g.die qd false
    else if peer ≠ 0 then s.qsendPeer x qd peer qid v
    else
      let unit := ((s.queue? qid).map s.queueDie).getD x.g.die
      match s.wakeAnswer x.ctx qid v with
      | .accepted => (s.wakeQueue x.ctx qid v).answerQ x unit qd true
      | .refused => (s.wakeQueue x.ctx qid v).answerQ x unit qd false
      | .full =>
        if space then
          let (id, s1) := s.takeFresh
          let key := ((s.queue? qid).map Queue.base).getD 0
          (s1.uncPut id ⟨x.k, .qsend qid v, 0x0304, key, { x.opEnt with btime := s.clk.now }⟩).answerQ x unit qd true
        else s.answerQ x unit qd false

/-- A wake that stands in a cistern with SPACE is sent again (R211, R472). -/
def State.retryQsend (s : State) (id k qid : Nat) (v : Word) : State :=
  match s.gang? k with
  | none => s.uncDone k id
  | some g =>
    match s.wakeAnswer (s.ctxOf g) qid v with
    | .full => s.uncStay id 0x0304
    | _ => (s.wakeQueue (s.ctxOf g) qid v).uncDone k id

/-! ## Reading entries (R58 to R60) -/

/-- What the slot at RIDX reads: its bytes where their phase is right, nothing written yet, or a clk at which it is read again. -/
inductive Slot64 where
  | entry (bs : List Byte)
  | unwritten
  | later (t : Nat)
  deriving DecidableEq, Repr

/-- The slot at RIDX as it reads now; an unreadable slot is one that is not yet written (log 58). -/
def State.readSlot (s : State) (q : Queue) : Slot64 × State :=
  let i := q.ridx.toNat
  let at_ := q.base + BitVec.ofNat 64 (64 * (i % q.size))
  match s.gateOne q .read at_ 64 with
  | (.later t, s1) => (.later t, s1)
  | (.fail _ _, s1) => (.unwritten, s1)
  | (.ok, s1) => match s1.vread q.ctx at_ 64 with
    | .ok bs => (if bits (numAt bs 1 1) 7 1 = i / q.size % 2 then .entry bs else .unwritten, s1.readRecs q.ctx at_ 64)
    | .error _ => (.unwritten, s1)

/-- The mirror is to be written: at once, or when 256 clk have passed since it was (R59). -/
def State.mirrorLater (s : State) (qid : Nat) (q : Queue) : State :=
  if q.mirror = 0 ∨ s.has .mirrorWrite qid then s
  else s.sched (match q.lastMirror with
    | none => s.clk.now
    | some t => max s.clk.now (t + 256)) .mirrorWrite qid

/-- The STALE signal of a queue that has stopped, at its error address, which may be 0 (R58). -/
def State.staleSignal (s : State) (qid : Nat) : State :=
  match s.queue? qid with
  | none => s
  | some q =>
    match s.sendSignal q q.erraddr q.ridx.toNat 10 qid s.clk.now with
    | (none, s1) => s1
    | (some t, s1) => s1.sched t .entryReread qid 1

/-- The slot at RIDX is read: it is copied, or read again 256 clk later, or the queue stops after 16 rereads. -/
def State.readEntry (s : State) (qid : Nat) (again : Bool) : State :=
  match s.queue? qid with
  | none => s
  | some q =>
    if q.stopped || q.dying || q.ridx == q.widx then s
    else
      let n := if again then q.rereads + 1 else q.rereads
      match s.readSlot q with
      | (.later t, s1) => s1.sched t (if again then .entryReread else .entryRead) qid
      | (.entry bs, s1) =>
        let e : Entry := ⟨q.ridx.toNat, bs, none, false, false, s.clk.now, 0⟩
        (s1.modQueue qid (fun q => { q with ridx := q.ridx + 1, rereads := 0, entries := q.entries ++ [e] })).mirrorLater qid q
      | (.unwritten, s1) =>
        if n < 16 then (s1.modQueue qid (fun q => { q with rereads := n })).sched (s.clk.now + 256) .entryReread qid
        else (s1.modQueue qid (fun q => { q with rereads := n, stopped := true })).staleSignal qid

/-- ENTRY_READ (R59). -/
def execEntryRead (s : State) : Host.Outcome State Fault Refusal := .next (s.readEntry s.clk.subj.a false)

/-- ENTRY_REREAD (R58); `b` 1: the STALE signal is tried again. -/
def execEntryReread (s : State) : Host.Outcome State Fault Refusal :=
  .next (if s.clk.subj.b = 1 then s.staleSignal s.clk.subj.a else s.readEntry s.clk.subj.a true)

/-- MIRROR_WRITE (R59). -/
def execMirrorWrite (s : State) : Host.Outcome State Fault Refusal :=
  let qid := s.clk.subj.a
  match s.queue? qid with
  | none => .next s
  | some q =>
    if q.mirror = 0 then .next s
    else .next (match s.gateOne q .write q.mirror 4 with
      | (.later t, s1) => s1.sched t .mirrorWrite qid
      | (.fail _ _, s1) => s1.modQueue qid (fun q => { q with lastMirror := some s.clk.now })
      | (.ok, s1) => (s1.vwrite q.ctx q.mirror (toBytes 4 q.ridx.toNat)).1.modQueue qid (fun q => { q with lastMirror := some s.clk.now }))

/-! ## Starting entries (R61, R62, R67 to R69) -/

/-- The event of a MGMT sub-operation (R69). -/
def mgmtEvent (sub : Nat) : Instr :=
  match sub with
  | 1 => .status
  | 2 => .monitors
  | 3 => .qcreate
  | 4 => .qdestroy
  | 5 => .ctxbind
  | 6 => .ctxreset
  | 7 => .flashwrite
  | 8 => .flashverify
  | 9 => .attest
  | 10 => .modreset
  | _ => .mgmtUnassigned

/-- The event of an entry's operation; `none`: OP is not assigned. -/
def Entry.event (e : Entry) : Option Instr :=
  match e.op with
  | 1 => some .launch
  | 2 => some .task
  | 3 => some .copy
  | 4 => some (if e.num 0x20 1 = 1 then .signalAdd else .signalStore)
  | 5 => some .wait
  | 6 => some (match e.num 0x2D 1 with
    | 1 => .mapRemove
    | 2 => .mapGiveToHost
    | 3 => .mapTakeFromHost
    | _ => .mapInstall)
  | 7 => some (mgmtEvent (e.num 0x10 2))
  | _ => none

/-- The 9400 refuses an entry: in the recovery state all but the management commands on status and flash (R50, R69); after a module
fatal error all but management commands (R36), with the status DENIED (log 62, DESIGN CHOICE: the manual names none). -/
def State.refuses (s : State) (e : Entry) : Option Nat :=
  if s.adm.recovery then (if e.op = 7 ∧ [1, 7, 8].contains (e.num 0x10 2) then none else some 9)
  else if s.adm.fatal.isSome ∧ e.op ≠ 7 then some 7
  else none

/-- AN ENTRY STARTS: its header is checked, and its operation falls due. An OP that is not assigned is reported before a zero field that is
not zero (log 58, DESIGN CHOICE: the manual gives no order). -/
def State.startEntry (s : State) (q i : Nat) : State :=
  match s.entry? q i with
  | none => s
  | some (_, e) =>
    let s1 := s.modEntry q i (fun e => { e with started := some s.clk.now, bounced := false })
    match s.refuses e, e.event with
    | some st, _ => s1.entryEnd q i st
    | none, none => s1.entryEnd q i 1
    | none, some ev =>
      if bits (e.num 1 1) 2 5 ≠ 0 ∨ e.num 2 2 ≠ 0 ∨ (e.signals ∧ e.num 8 8 % 16 ≠ 0) then s1.entryEnd q i 2
      else s1.sched s.clk.now ev q i

/-- The head of the entries that have not started can start (R67): no WAIT is under way, and a BARRIER has nothing before it. -/
def Queue.head (q : Queue) : Option (Entry × Bool) :=
  let going := q.entries.filter (fun e => e.started.isSome)
  (q.entries.find? (fun e => e.started.isNone)).map (fun e =>
    (e, !(going.any (fun x => x.op == 5 && !x.done)) && (!e.barrier || going == [])))

/-- The word that a WAIT watches satisfies its condition; `none`: it cannot be read (R62). -/
def State.waitHolds (s : State) (q : Queue) (e : Entry) : Option Bool :=
  match s.vread q.ctx (e.addr 0x10) 8 with
  | .error _ => none
  | .ok bs =>
    let v := ofBytes bs
    let x := e.num 0x18 8
    some (match e.num 0x20 1 with
      | 0 => v == x
      | 1 => v != x
      | _ => decide (x ≤ v))

/-- The next record of a TASK that waits for room now has it (R125). -/
def State.taskCanGo (s : State) (q : Queue) (e : Entry) : Bool :=
  match s.vread q.ctx (e.addr 0x10 + BitVec.ofNat 64 (64 * e.prog)) 64 with
  | .ok r => decide (s.tableUsed (s.queueDie q) + recEntries r ≤ 2048)
  | .error _ => true

/-- What a command processor does in a clk for a queue: it reads the slot at RIDX where it has no entry ahead, starts the entries that
can start, starts again those that have bounced, and looks at a WAIT (R59, R67, R68). -/
def State.pumpQueue (s : State) (qid : Nat) : State :=
  match s.queue? qid with
  | none => s
  | some q =>
    let ahead := q.entries.any (fun e => e.started.isNone)
    let s1 := if !q.stopped && !q.dying && !ahead && q.ridx != q.widx && !s.has .entryRead qid && !s.has .entryReread qid then
        s.sched s.clk.now .entryRead qid else s
    let s2 := match q.head with
      | none => s1
      | some (e, true) =>
        if e.bounced then (if s1.clk.agenda.any (fun x => x.ev == .commandRestart && x.subj.a == qid && x.subj.b == e.idx) then s1
          else s1.sched s.clk.now .commandRestart qid e.idx) else s1.startEntry qid e.idx
      | some (e, false) =>
        if e.bounced || s1.has .commandBounce qid then s1
        else s1.sched (max s.clk.now (e.since + s.sluiceOf q.ctx 4)) .commandBounce qid e.idx
    q.entries.foldl (fun (s : State) e =>
      if e.started.isNone || e.done then s
      else if e.op = 5 ∧ e.prog = 1 then
        (match s.waitHolds q e with
          | some false => s
          | _ => if s.clk.agenda.any (fun x => x.ev == .wait && x.subj.a == qid && x.subj.b == e.idx) then s else s.sched s.clk.now .wait qid e.idx)
      else if e.op = 2 ∧ e.bounced ∧ s.taskCanGo q e then
        (if s.clk.agenda.any (fun x => x.ev == .commandRestart && x.subj.a == qid && x.subj.b == e.idx) then s else s.sched s.clk.now .commandRestart qid e.idx)
      else s) s2

/-- COMMAND_BOUNCE (R68). -/
def execCommandBounce (s : State) : Host.Outcome State Fault Refusal :=
  .next (s.modEntry s.clk.subj.a s.clk.subj.b (fun e =>
    if e.started.isNone then { e with bounced := true } else e))

/-- COMMAND_RESTART (R68): a bounced entry starts again; `c` not 0: a completion signal whose page has been pulled is written. -/
def execCommandRestart (s : State) : Host.Outcome State Fault Refusal :=
  let y := s.clk.subj
  match s.entry? y.a y.b with
  | none => .next s
  | some (_, e) =>
    if y.c ≠ 0 then .next (s.entryEnd y.a y.b (y.c - 1) (if y.d = 0 then none else some (y.d - 1)))
    else if e.started.isNone then .next (s.startEntry y.a y.b)
    else .next ((s.modEntry y.a y.b (fun e => { e with bounced := false })).sched s.clk.now .task y.a y.b)

/-! ## LAUNCH (R25, R26, R62, R108 to R112) -/

/-- The fields of a launch header that are valid, with extents of 0 as 2^w: extents, widths. -/
def headerOf (h : List Byte) : Option (List Nat × List Nat) :=
  let nf := numAt h 0 1
  let cut := numAt h 1 1
  let roles := numAt h 2 1
  let w := fun (i : Nat) => numAt h (8 + i) 1
  let e := fun (i : Nat) => numAt h (0x10 + 8 * i) 8
  let field := fun (i : Nat) => if i < nf then decide (1 ≤ w i ∧ w i ≤ 64 ∧ e i ≤ 2 ^ w i) else w i == 0 && e i == 0
  let ext := (List.range nf).map (fun i => if e i = 0 then 2 ^ w i else e i)
  let wid := (List.range nf).map w
  let lanes := (ext.take cut).foldl (· * ·) 1
  let teams := (ext.drop cut).foldl (· * ·) 1
  if 1 ≤ nf ∧ nf ≤ 6 ∧ 1 ≤ cut ∧ cut ≤ nf ∧ (roles = 1 ∨ roles = 2 ∨ roles = 4) ∧ numAt h 3 1 ≤ 1 ∧
      1 ≤ numAt h 4 4 ∧ numAt h 4 4 ≤ 65536 ∧ (List.range 6).all field ∧ wid.foldl (· + ·) 0 ≤ 64 ∧
      1 ≤ lanes ∧ lanes ≤ 1024 ∧ 1 ≤ teams ∧ teams ≤ 2 ^ 40 ∧ (lanes + 31) / 32 % roles = 0 then
    some (ext, wid)
  else none

/-- The uniform registers of a launch from its parameter entries: their values, or the status that refuses it. Where several entries are
refused, the last of the table gives the status (log 90, DESIGN CHOICE: the manual gives no order). -/
def bindParams (o : Obj) (args : List Byte) (arglen : Nat) : List (List Byte) → Except Nat (List (Nat × DWord))
  | [] => .ok []
  | p :: l =>
    match bindParams o args arglen l with
    | .error c => .error c
    | .ok r =>
      let g := numAt p 0 1
      if 61 < g then .error 2
      else if numAt p 1 1 = 0 then
        let k := numAt p 4 4
        if !zeroAt p 2 2 || !zeroAt p 8 8 then .error 2
        else if arglen ≤ k then .error 3 else .ok ((g, BitVec.ofNat 64 (numAt args (8 * k) 8)) :: r)
      else if numAt p 1 1 = 1 then
        match o.sections[numAt p 2 2]? with
        | none => .error 2
        | some a => if !zeroAt p 4 4 then .error 2 else .ok ((g, a + BitVec.ofNat 64 (numAt p 8 8)) :: r)
      else .error 2

/-- Bytes of an argument buffer that can be read. -/
def State.bytesAt (s : State) (ctx : Nat) (ptr : DWord) (n : Nat) : List Byte :=
  match s.vread ctx ptr n with
  | .ok bs => bs
  | .error _ => []

/-- The shares of a launch's chunks (R112). -/
def sharesOf (dies : List Nat) (chunks : Nat) : Map (List Nat) :=
  (List.range dies.length).map (fun i => (dies.getD i 0, (List.range ((chunks + dies.length - 1 - i) / dies.length)).map (fun j => i + j * dies.length)))

/-- A launch with its kernel record, header, parameters: it starts, or is refused with a status. -/
def State.startLaunch (s : State) (q i : Nat) (x : Queue) (e : Entry) (o : Obj) (k h : List Byte) (params : List (Nat × DWord))
    (ext wid : List Nat) : Except Nat State :=
  let ctx := x.ctx
  let cut := numAt h 1 1
  let lanes := (ext.take cut).foldl (· * ·) 1
  let teams := (ext.drop cut).foldl (· * ·) 1
  let rows := numAt k 0x2C 2
  let spad := (numAt k 0x30 4 + 63) / 64 * 64
  let dies := s.diesOf ctx
  let chunk := numAt h 4 4
  let cls := dies.flatMap (s.clustersOf ctx)
  let gangs := (lanes + 31) / 32
  if !s.couldFit ctx cls (List.replicate gangs rows) spad (teamBytes gangs rows spad false (numAt h 3 1 == 1)) then .error 6
  else
    let (lid, s1) := s.takeFresh
    let sess := match mget ctx s1.adm.sess with
      | none => none
      | some y => some (y.serial, y.nlaunch)
    let prio := e.num 0x2C 1
    let l : Launch := {
      ctx := ctx, qid := q, entry := i, nfield := numAt h 0 1, cut := cut, roles := numAt h 2 1, prot := numAt h 3 1 == 1
      chunk := chunk, widths := wid, extents := ext
      estiv := if numAt h 0xE 2 = 0 then 8192 else numAt h 0xE 2 * 256
      lanes := lanes, teams := teams, rows := rows, spad := spad
      code := o.code, start := o.code + BitVec.ofNat 64 (numAt k 0x20 8)
      weirs := o.weirs + BitVec.ofNat 64 (32 * numAt k 0x34 2), weirCnt := numAt k 0x36 2
      params := params, prio := if prio = 0xFF then x.prio else prio, since := s.clk.now, age := 0
      shares := sharesOf dies ((teams + chunk - 1) / chunk), begun := [], placed := 0, ended := 0, dry := [], sess := sess
      bound := s.sluiceOf ctx 5, room := [] }
    let s2 := { s1 with work := { s1.work with launches := mput lid l s1.work.launches } }
    .ok ((s2.modSess ctx (fun y => { y with nlaunch := y.nlaunch + 1 })).ageFrom 0 lid)

/-- LAUNCH (R62). -/
def execLaunch (s : State) : Host.Outcome State Fault Refusal :=
  s.command fun q i x e =>
    let ctx := x.ctx
    let krec := e.addr 0x10
    let lhdr := e.addr 0x18
    let n := e.num 0x28 4
    let prio := e.num 0x2C 1
    let obj := s.adm.objs.find? (fun o => o.ctx == ctx && decide (o.krecs.toNat ≤ krec.toNat ∧ krec.toNat + 128 ≤ o.krecs.toNat + o.krecSize) &&
      (krec.toNat - o.krecs.toNat) % 128 == 0)
    if !zeroAt e.bytes 0x2D 19 || decide (4096 < n) || (decide (3 < prio) && prio != 0xFF) || lhdr.toNat % 8 != 0 then s.entryEnd q i 2
    else s.withBuffers q i x .launch ([(.read, krec, 128)] ++ (if lhdr = 0 then [] else [(.read, lhdr, 64)]) ++ [(.read, e.addr 0x20, 8 * n)]) fun s1 =>
      match obj with
      | none => s1.entryEnd q i 2
      | some o =>
        let k := s1.bytesAt ctx krec 128
        let rows := numAt k 0x2C 2
        let pc := numAt k 0x3A 2
        let ptab := o.params + BitVec.ofNat 64 (16 * numAt k 0x38 2)
        let h := if lhdr = 0 then k.drop 0x40 else s1.bytesAt ctx lhdr 64
        if !(rows = 16 ∨ rows = 32 ∨ rows = 64 ∨ rows = 128) ∨ 16 < pc ∨ !zeroAt k 0x2E 2 ∨ !zeroAt k 0x3C 4 then s1.entryEnd q i 2
        else
          match headerOf h with
          | none => s1.entryEnd q i 2
          | some (ext, wid) =>
            s1.withBuffers q i x .launch [(.read, ptab, 16 * pc)] fun s2 =>
              let ps := (List.range pc).map (fun j => s2.bytesAt ctx (ptab + BitVec.ofNat 64 (16 * j)) 16)
              match bindParams o (s2.bytesAt ctx (e.addr 0x20) (8 * n)) n ps with
              | .error c => s2.entryEnd q i c
              | .ok params =>
                match s2.startLaunch q i x e o k h params ext wid with
                | .error c => s2.entryEnd q i c
                | .ok s3 => s3

/-- LAUNCH_COMPLETE: every team has ended and every store of the launch is complete at SYS scope. -/
def execLaunchComplete (s : State) : Host.Outcome State Fault Refusal :=
  let lid := s.clk.subj.a
  match mget lid s.work.launches with
  | none => .next s
  | some l => .next (({ s with work := { s.work with launches := mdel lid s.work.launches } }).entryEnd l.qid l.entry 0)

/-! ## TASK (R62, R121, R123, R125) -/

/-- The records of a TASK from the `n`-th on go into the table, in ascending order of address, as far as it has room. -/
def State.taskRecords (s : State) (q i : Nat) (x : Queue) (die : Nat) (e : Entry) : Nat → Nat → State
  | 0, _ => s.entryEnd q i 0
  | left + 1, n =>
    match s.submit x.ctx die (s.bytesAt x.ctx (e.addr 0x10 + BitVec.ofNat 64 (64 * n)) 64) none none (3 * q + 1) with
    | (.taken, s1) => s1.taskRecords q i x die e left (n + 1)
    | (.full, s1) => s1.modEntry q i (fun e => { e with prog := n, bounced := true })
    | (.refused, s1) => s1.entryEnd q i 2

/-- TASK: every record is checked before any is accepted. -/
def execTask (s : State) : Host.Outcome State Fault Refusal :=
  s.command fun q i x e =>
    let n := e.num 0x18 4
    let at_ := e.addr 0x10
    if !zeroAt e.bytes 0x1C 36 || n = 0 || decide (256 < n) || at_.toNat % 64 != 0 then s.entryEnd q i 2
    else s.withBuffers q i x .task [(.read, at_, 64 * n)] fun s1 =>
      let die := s1.queueDie x
      let rs := (List.range n).map (fun j => s1.bytesAt x.ctx (at_ + BitVec.ofNat 64 (64 * j)) 64)
      if e.prog = 0 ∧ !rs.all (fun r => recOk r false && !recRivv r) then s1.entryEnd q i 2
      else if e.prog = 0 ∧ !rs.all (fun r => s1.recFits x.ctx die r none) then s1.entryEnd q i 6
      else s1.taskRecords q i x die e (n - e.prog) e.prog

/-! ## COPY (R63, R78) -/

/-- A block as a command reads it, or the cause. A block whose tag does not match is read as a poisoned block of zeros, with its record, and
the COPY goes on (log 91, DESIGN CHOICE: R65 gives FAULT to addresses that do not translate or lack permission, and names no other). -/
def State.cmdBlock (s : State) (ctx : Nat) (ptr : DWord) : Except Nat (List Byte × BitVec 16) × State :=
  match s.access ctx .read ptr with
  | .error c => (.error c, s)
  | .ok (leaf, _, a) =>
    let loc := a / 64
    if s.tagBad leaf ptr a then (.ok (List.replicate 64 0, poisonDesc), s.cmdRecord ctx 0x0106 4 ptr)
    else
      let (data, _, found, s1) := s.readHome loc ctx (if leafTagck leaf then some (ptrTag ptr) else none)
      let s2 := match found with
        | none => s1
        | some c => s1.cmdRecord ctx c 4 ptr
      (.ok (data, s2.descOf loc), s2)

/-- Bytes of one block that a command writes, with a descriptor or without: the cause, or the clk its GWCT has passed. Part of a block whose
tag does not match is discarded, with its record, and the COPY goes on (log 91, DESIGN CHOICE). -/
def State.cmdPut (s : State) (ctx : Nat) (ptr : DWord) (data : List Byte) (desc : Option (BitVec 16)) : Except Nat Nat × State :=
  match s.access ctx .write ptr with
  | .error c => (.error c, s)
  | .ok (leaf, _, a) =>
    let loc := a / 64
    if data.length ≠ 64 ∧ s.tagBad leaf ptr a then (.ok s.clk.now, s.cmdRecord ctx 0x0106 4 ptr)
    else
      let t := s.cmdGwct leaf a
      let s1 := (s.writeAt a (data.map some)).setTag loc (if leafTagck leaf then ptrTag ptr else 0)
      (.ok t, match desc with
        | none => s1
        | some d => s1.setDesc loc d)

/-- How a COPY goes: the bytes of the chain that are copied, the latest GWCT, the time of the walks of its pages, what ends it (cause 0: BADFIELD; 1: a port is down) and
whether a write met it. -/
structure CmdPass where
  prog : Nat
  time : Nat
  walk : Nat
  stop : Option (Nat × DWord × Bool)
  deriving DecidableEq, Repr

/-- A step of a copy at a block: the die's TLB and walker translate it (R85), a port that is down ends the pass (R42), then `f`. -/
def State.cmdAt {α : Type} (s : State) (x : Queue) (ptr : DWord) (write : Bool) (p : CmdPass) (f : State → Except Nat α × State) :
    Except CmdPass (CmdPass × α) × State :=
  let w := s.dieWalks (s.queueDie x) x.ctx (if ptrOk ptr then [pageOf (ptrVa ptr)] else [])
  let p1 := { p with walk := p.walk + w.1 }
  match w.2.gateSpan x.ctx 0 (if write then .write else .read) ptr with
  | .later _ => (.error { p1 with stop := some (1, ptr, write) }, w.2)
  | _ =>
    match f w.2 with
    | (.error c, s1) => (.error { p1 with stop := some (c, ptr, write) }, s1)
    | (.ok a, s1) => (.ok (p1, a), s1)

/-- The bytes of a source span go to their places in the destination. -/
def State.cmdSpans (s : State) (x : Queue) (desc : Option (BitVec 16)) : List (Nat × Nat) → List Byte → CmdPass → CmdPass × State
  | [], _, p => (p, s)
  | (a, m) :: l, bs, p =>
    let ptr := BitVec.ofNat 64 a
    match s.cmdAt x ptr true p (fun s => s.cmdPut x.ctx ptr (bs.take m) desc) with
    | (.error p1, s1) => (p1, s1)
    | (.ok (p1, t), s1) => s1.cmdSpans x desc l (bs.drop m) { p1 with prog := p1.prog + m, time := max p1.time t }

/-- A control block from its byte `pos` on. -/
def State.cmdCcb (s : State) (x : Queue) (y : Ccb) : Nat → Nat → CmdPass → CmdPass × State
  | 0, _, p => (p, s)
  | fuel + 1, pos, p =>
    if y.len ≤ pos then (p, s)
    else
      let src := y.src + BitVec.ofNat 64 pos
      let n := min (64 - src.toNat % 64) (y.len - pos)
      let blk := BitVec.ofNat 64 (src.toNat / 64 * 64)
      match s.cmdAt x blk false p (fun s => s.cmdBlock x.ctx blk) with
      | (.error p1, s1) => (p1, s1)
      | (.ok (p1, data, desc), s1) =>
        match s1.cmdSpans x (if y.desc then some desc else none)
            (spansOf (y.dst + BitVec.ofNat 64 pos).toNat n) ((data.drop (src.toNat % 64)).take n) p1 with
        | (p2, s2) => if p2.stop.isSome then (p2, s2) else s2.cmdCcb x y fuel (pos + n) p2

/-- A chain: its control blocks are read one after the other, and their bytes are copied. A control block that breaks R63, or one too many,
ends it with BADFIELD. -/
def State.cmdChain (s : State) (x : Queue) : Nat → DWord → CmdPass → CmdPass × State
  | 0, ptr, p => ({ p with stop := some (0, ptr, false) }, s)
  | fuel + 1, ptr, p =>
    if ptr.toNat % 64 ≠ 0 then ({ p with stop := some (0, ptr, false) }, s)
    else
      match s.cmdAt x ptr false p (fun s => s.cmdBlock x.ctx ptr) with
      | (.error p1, s1) => (p1, s1)
      | (.ok (p1, data, _), s1) =>
        match Ccb.parse data with
        | none => ({ p1 with stop := some (0, ptr, false) }, s1)
        | some y =>
          let r := s1.cmdCcb x y (y.len / 64 + 2) 0 p1
          if r.1.stop.isSome ∨ y.next = 0 then r else r.2.cmdChain x fuel y.next r.1

/-- COPY: the copy is done by its COPY_COMPLETE. -/
def execCopy (s : State) : Host.Outcome State Fault Refusal :=
  s.command fun q i _ e =>
    if !zeroAt e.bytes 0x18 40 || e.num 0x10 8 % 64 != 0 then s.entryEnd q i 2
    else s.sched (s.clk.now + 520) .copyComplete q 3 i

/-- A COPY runs over its chain (`b` 3), and completes when every GWCT has passed (`b` 4, with the status and the progress in `d`). A run that
meets a light fault, a page that the host owns or a port that is down has done nothing, and the COPY runs again when that is over; nor has one
that ends with BADFIELD or LOST (R65). -/
def State.cmdCopy (s : State) (q i : Nat) : State :=
  match s.entry? q i with
  | none => s
  | some (x, e) =>
    let y := s.clk.subj
    if e.done || e.started.isNone then s
    else if y.b = 4 then s.entryEnd q i (y.d % 16) (if y.d % 16 = 4 then some (y.d / 16) else none)
    else
      match s.cmdChain x 1024 (e.addr 0x10) ⟨0, s.clk.now, 0, none⟩ with
      | (p, s1) =>
        match p.stop with
        | none => s1.sched (p.time + p.walk) .copyComplete q 4 i 0
        | some (c, ptr, write) =>
          if c = 0 then s.entryEnd q i 2
          else if c = 1 then s.sched (s.clk.now + 1) .copyComplete q 3 i
          else if c = 0x0101 then (s.serveCause x.ctx (ptrVa ptr) c write).sched (s.clk.now + 600) .copyComplete q 3 i
          else if c = 0x0103 then (s.startPull x.ctx (pageOf (ptrVa ptr))).sched (s.clk.now + 3000) .copyComplete q 3 i
          else if c = 0x0105 then (s.cmdRecord x.ctx c 4 ptr).entryEnd q i 8
          else (s1.cmdRecord x.ctx c 4 ptr).sched (p.time + p.walk) .copyComplete q 4 i (4 + 16 * p.prog)

/-- COPY_COMPLETE: a step of a gang's copy, or of a Casux COPY (R63, R188, R484). -/
def execCopyComplete (s : State) : Host.Outcome State Fault Refusal :=
  .next (if 3 ≤ s.clk.subj.b then s.cmdCopy s.clk.subj.a s.clk.subj.c else s.copyEvent)

/-! ## SIGNAL and WAIT (R62) -/

/-- SIGNAL: the value that takes the place of the old one; `c` 1: its GWCT has passed. -/
def State.doSignal (s : State) (q i : Nat) (x : Queue) (e : Entry) (ev : Instr) (f : Nat → Nat) : State :=
  let at_ := e.addr 0x10
  if s.clk.subj.c = 1 then s.entryEnd q i 0
  else if !zeroAt e.bytes 0x21 31 || decide (1 < e.num 0x20 1) || at_.toNat % 8 != 0 then s.entryEnd q i 2
  else s.withBuffers q i x ev [(if ev = .signalAdd then .atomic else .write, at_, 8)] fun s1 =>
    let t := s1.writeTime x.ctx at_ 8
    let old := ofBytes (s1.bytesAt x.ctx at_ 8)
    -- an atomic does not apply to a poisoned block (R272)
    let skip := ev == .signalAdd && (match s1.access x.ctx .atomic at_ with
      | .ok p => poisoned (s1.descOf (p.2.2 / 64))
      | .error _ => true)
    (if skip then s1 else (s1.vwrite x.ctx at_ (toBytes 8 (f old % 2 ^ 64))).1).sched t ev q i 1

def execSignalStore (s : State) : Host.Outcome State Fault Refusal :=
  s.command fun q i x e => s.doSignal q i x e .signalStore (fun _ => e.num 0x18 8)

def execSignalAdd (s : State) : Host.Outcome State Fault Refusal :=
  s.command fun q i x e => s.doSignal q i x e .signalAdd (fun old => old + e.num 0x18 8)

/-- WAIT: it completes where its condition holds; else it stays, and is looked at whenever something has happened. -/
def execWait (s : State) : Host.Outcome State Fault Refusal :=
  s.command fun q i x e =>
    let at_ := e.addr 0x10
    if !zeroAt e.bytes 0x21 3 || !zeroAt e.bytes 0x28 24 || decide (2 < e.num 0x20 1) || at_.toNat % 8 != 0 then s.entryEnd q i 2
    else
      let t := e.num 0x24 4
      let s0 := s.modEntry q i (fun e => { e with prog := 1 })
      let s1 := if t = 0 ∨ e.prog = 1 then s0 else s0.sched (e.started.getD s.clk.now + t) .waitTimeout q i
      s1.withBuffers q i x .wait [(.read, at_, 8)] fun s2 => if s2.waitHolds x e = some true then s2.entryEnd q i 0 else s2

def execWaitTimeout (s : State) : Host.Outcome State Fault Refusal :=
  s.command fun q i _ _ => s.entryEnd q i 5

/-! ## MAP (R72, R73, R93, R104) -/

/-- The fields of a MAP. -/
def Entry.mapOk (e : Entry) : Bool := zeroAt e.bytes 0x2E 18 && decide (e.num 0x2D 1 ≤ 3)

/-- The status of a map service as a command reports it (R65): NOTOWNED, EXISTS, NOTMAPPED, NOTABLE and BUSY are FAULT (log 92, DESIGN CHOICE:
the manual maps no service status to a command's). -/
def mapStatus (st : Nat) : Nat := if st = 0 then 0 else if st = 1 then 2 else if st = 7 then 7 else 4

/-- A MAP of kind 0 or 1 ends, at once or when the requests it waits for have been accepted or have bounced. -/
def State.cmdMapEnd (s : State) (q i ctx : Nat) (ev : Instr) (r : MapRes) : State :=
  if r.wait ≠ 0 ∧ s.inFlight ctx r.page r.wait then s.sched (s.clk.now + 1) ev q i (1 + r.status) (r.page + 2 ^ 48 * r.wait)
  else s.entryEnd q i (mapStatus r.status)

/-- MAP of kind 0: MAPINS with ATTR as the template and the PFN of PA. -/
def execMapInstall (s : State) : Host.Outcome State Fault Refusal :=
  s.command fun q i x e =>
    let y := s.clk.subj
    if y.c ≠ 0 then s.cmdMapEnd q i x.ctx .mapInstall ⟨y.c - 1, 0, y.d % 2 ^ 48, y.d / 2 ^ 48⟩
    else
      let pa := e.num 0x18 8
      if !e.mapOk || pa % 65536 != 0 || decide (2 ^ 40 ≤ pa) then s.entryEnd q i 2
      else
        let tmpl := (e.addr 0x20 &&& ~~~(0xFFFFFF0000 : DWord)) ||| BitVec.ofNat 64 pa
        match s.doMapins x.ctx (e.num 0x10 8) tmpl (e.num 0x28 4) (e.num 0x2C 1) with
        -- a command that ends with BADFIELD has had no effect (R65)
        | (r, s1) => if mapStatus r.status = 2 then s.entryEnd q i 2 else s1.cmdMapEnd q i x.ctx .mapInstall r

/-- MAP of kind 1: MAPREM. -/
def execMapRemove (s : State) : Host.Outcome State Fault Refusal :=
  s.command fun q i x e =>
    let y := s.clk.subj
    if y.c ≠ 0 then s.cmdMapEnd q i x.ctx .mapRemove ⟨y.c - 1, 0, y.d % 2 ^ 48, y.d / 2 ^ 48⟩
    else if !e.mapOk then s.entryEnd q i 2
    else match s.doMaprem x.ctx (e.num 0x10 8) (e.num 0x28 4) (e.num 0x2C 1) with
      | (r, s1) => s1.cmdMapEnd q i x.ctx .mapRemove r

/-- The range of a MAP of kind 2 or 3 keeps its fields' ranges. -/
def Entry.shareOk (e : Entry) : Bool :=
  e.mapOk && mapRange (e.num 0x10 8) (e.num 0x28 4) (e.num 0x2C 1) && e.num 0x10 8 % pageBytes (e.num 0x2C 1) == 0

/-- The leaf of a host-shared page of a size: its entry's address and the leaf, or the status. -/
def State.sharedLeaf (s : State) (ctx va size : Nat) : Except Nat (Nat × DWord) :=
  match s.leafOf ctx va, s.pteAddr ctx va with
  | .leaf e n, some pa => if n = size ∧ leafHsh e then .ok (pa, e) else .error 4
  | .absent true, _ => .error 8
  | _, _ => .error 4

/-- The statuses of the pages of a MAP of kind 2 or 3, in order, as they stand now; one that is lost comes before every effect (R65). -/
def State.anyLost (s : State) (ctx va size n : Nat) : Bool :=
  let l := (List.range n).map (fun j => match s.sharedLeaf ctx (va + j * pageBytes size) size with
    | .ok _ => 0
    | .error st => st)
  l.find? (fun st => st != 0) == some 8

/-- The clk at which every lease on a page's lines has ended, and every store to it has its GWCT (R73). -/
def State.quietTime (s : State) (a bytes : Nat) : Nat :=
  s.mem.leases.foldl (fun t l => if a ≤ l.loc * 64 ∧ l.loc * 64 < a + bytes then max t (l.expiry + (if l.far then 120 else 0)) else t) s.clk.now

/-- MAP of kind 2: page by page, `c` counts 3 times the pages done: the translation is removed (+ 0), requests under way and leases end and the
page is pushed to the host by RMA write (+ 1), it has arrived there and belongs to the host (+ 2). `d` keeps the leaf. -/
def execMapGiveToHost (s : State) : Host.Outcome State Fault Refusal :=
  s.command fun q i x e =>
    let c := s.clk.subj.c
    let size := e.num 0x2C 1
    let n := pageBytes size / 65536
    let va := e.num 0x10 8 + c / 3 * pageBytes size
    let leaf := BitVec.ofNat 64 s.clk.subj.d
    if !e.shareOk then s.entryEnd q i 2
    else if c = 0 ∧ s.anyLost x.ctx va size (e.num 0x28 4) then s.entryEnd q i 8
    else if e.num 0x28 4 ≤ c / 3 then s.entryEnd q i 0
    else if c % 3 = 0 then
      match s.sharedLeaf x.ctx va size with
      | .error st => s.entryEnd q i st
      | .ok (pa, l) =>
        if leafHown l then s.sched s.clk.now .mapGiveToHost q i (c + 3)
        else (((s.tableWrite pa 0).invalidate x.ctx (pageOf va) n).watchPage x.ctx va (pageBytes size)).sched s.clk.now .mapGiveToHost q i (c + 1) l.toNat
    else if c % 3 = 1 then
      let a := leafPfn leaf * 65536
      let quiet := s.quietTime a (pageBytes size)
      if s.inFlight x.ctx (pageOf va) n then s.sched (s.clk.now + 1) .mapGiveToHost q i c leaf.toNat
      else if s.clk.now < quiet then s.sched quiet .mapGiveToHost q i c leaf.toNat
      else (s.reply (hostConn x.ctx) 5 (toBytes 8 va ++ s.stored a (pageBytes size))).sched (s.clk.now + 3000) .mapGiveToHost q i (c + 1) leaf.toNat
    else
      match s.pteAddr x.ctx va with
      | none => s.entryEnd q i 4
      | some pa =>
        let a := leafPfn leaf * 65536
        let s1 := s.tableWrite pa (leaf ||| 0x200)
        let s2 := { s1 with mem := { s1.mem with slices := s1.mem.slices.filter (fun y => !(y.tenant == x.ctx && decide (a ≤ y.loc * 64 ∧ y.loc * 64 < a + pageBytes size))) } }
        (s2.wakePages x.ctx (pageOf va) n 0x0102).sched s.clk.now .mapGiveToHost q i (c + 1)

/-- MAP of kind 3: each page is pulled; `c` counts the pages done. -/
def execMapTakeFromHost (s : State) : Host.Outcome State Fault Refusal :=
  s.command fun q i x e =>
    let c := s.clk.subj.c
    let size := e.num 0x2C 1
    let va := e.num 0x10 8 + c * pageBytes size
    if !e.shareOk then s.entryEnd q i 2
    else if c = 0 ∧ s.anyLost x.ctx va size (e.num 0x28 4) then s.entryEnd q i 8
    else if e.num 0x28 4 ≤ c then s.entryEnd q i 0
    else
      match s.sharedLeaf x.ctx va size with
      | .error st => s.entryEnd q i st
      | .ok (_, l) =>
        if leafHown l then (s.startPull x.ctx (pageOf va)).sched (s.clk.now + 3000) .mapTakeFromHost q i c
        else s.sched s.clk.now .mapTakeFromHost q i (c + 1)

/-- MIGRATION_PULL_DONE (R72). -/
def execMigrationPullDone (s : State) : Host.Outcome State Fault Refusal :=
  match mget s.clk.subj.a s.adm.pulls with
  | none => .next s
  | some x => .next (({ s with adm := { s.adm with pulls := mdel s.clk.subj.a s.adm.pulls } }).pulled x.1 x.2)

/-- MIGRATION_PULL_FAIL (R104). -/
def execMigrationPullFail (s : State) : Host.Outcome State Fault Refusal :=
  match mget s.clk.subj.a s.adm.pulls with
  | none => .next s
  | some x => .next (({ s with adm := { s.adm with pulls := mdel s.clk.subj.a s.adm.pulls } }).pullLost x.1 x.2)

end Sys2Proof.Machine
end

