-- ==== Sys2Proof/Machine/Crypto.lean ====
section
/-! DEFINITION. SHA-512 and Ed25519, which the manual names (R1, R47, R49, R76): as FIPS 180-4 and RFC 8032 define them (log 13). -/

namespace Sys2Proof.Machine

/-! ## SHA-512 -/

def shaK1 : List DWord :=
  [0x428a2f98d728ae22, 0x7137449123ef65cd, 0xb5c0fbcfec4d3b2f, 0xe9b5dba58189dbbc, 0x3956c25bf348b538,
   0x59f111f1b605d019, 0x923f82a4af194f9b, 0xab1c5ed5da6d8118, 0xd807aa98a3030242, 0x12835b0145706fbe,
   0x243185be4ee4b28c, 0x550c7dc3d5ffb4e2, 0x72be5d74f27b896f, 0x80deb1fe3b1696b1, 0x9bdc06a725c71235,
   0xc19bf174cf692694, 0xe49b69c19ef14ad2, 0xefbe4786384f25e3, 0x0fc19dc68b8cd5b5, 0x240ca1cc77ac9c65]
def shaK2 : List DWord :=
  [0x2de92c6f592b0275, 0x4a7484aa6ea6e483, 0x5cb0a9dcbd41fbd4, 0x76f988da831153b5, 0x983e5152ee66dfab,
   0xa831c66d2db43210, 0xb00327c898fb213f, 0xbf597fc7beef0ee4, 0xc6e00bf33da88fc2, 0xd5a79147930aa725,
   0x06ca6351e003826f, 0x142929670a0e6e70, 0x27b70a8546d22ffc, 0x2e1b21385c26c926, 0x4d2c6dfc5ac42aed,
   0x53380d139d95b3df, 0x650a73548baf63de, 0x766a0abb3c77b2a8, 0x81c2c92e47edaee6, 0x92722c851482353b]
def shaK3 : List DWord :=
  [0xa2bfe8a14cf10364, 0xa81a664bbc423001, 0xc24b8b70d0f89791, 0xc76c51a30654be30, 0xd192e819d6ef5218,
   0xd69906245565a910, 0xf40e35855771202a, 0x106aa07032bbd1b8, 0x19a4c116b8d2d0c8, 0x1e376c085141ab53,
   0x2748774cdf8eeb99, 0x34b0bcb5e19b48a8, 0x391c0cb3c5c95a63, 0x4ed8aa4ae3418acb, 0x5b9cca4f7763e373,
   0x682e6ff3d6b2b8a3, 0x748f82ee5defb2fc, 0x78a5636f43172f60, 0x84c87814a1f0ab72, 0x8cc702081a6439ec]
def shaK4 : List DWord :=
  [0x90befffa23631e28, 0xa4506cebde82bde9, 0xbef9a3f7b2c67915, 0xc67178f2e372532b, 0xca273eceea26619c,
   0xd186b8c721c0c207, 0xeada7dd6cde0eb1e, 0xf57d4f7fee6ed178, 0x06f067aa72176fba, 0x0a637dc5a2c898a6,
   0x113f9804bef90dae, 0x1b710b35131c471b, 0x28db77f523047d84, 0x32caab7b40c72493, 0x3c9ebe0a15c9bebc,
   0x431d67c49c100d4c, 0x4cc5d4becb3e42b6, 0x597f299cfc657e2a, 0x5fcb6fab3ad6faec, 0x6c44198c4a475817]

/-- The constants of the 80 rounds. -/
def shaK : List DWord := shaK1 ++ shaK2 ++ shaK3 ++ shaK4

/-- The first hash value. -/
def shaInit : List DWord :=
  [0x6a09e667f3bcc908, 0xbb67ae8584caa73b, 0x3c6ef372fe94f82b, 0xa54ff53a5f1d36f1, 0x510e527fade682d1,
   0x9b05688c2b3e6c1f, 0x1f83d9abfb41bd6b, 0x5be0cd19137e2179]

/-- A number from bytes, the first the most significant. -/
def ofBytesBE (bs : List Byte) : Nat := bs.foldl (fun n b => 256 * n + b.toNat) 0

/-- The bytes of a number, the first the most significant. -/
def toBytesBE (n v : Nat) : List Byte := (toBytes n v).reverse

def shaRot (x : DWord) (a b c : Nat) : DWord := x.rotateRight a ^^^ x.rotateRight b ^^^ x.rotateRight c
def shaMix (x : DWord) (a b c : Nat) : DWord := x.rotateRight a ^^^ x.rotateRight b ^^^ (x >>> c)

/-- The message schedule, newest word first: `n` words more. -/
def shaSchedule : Nat → List DWord → List DWord
  | 0, l => l
  | n + 1, l => shaSchedule n ((shaMix (l.getD 1 0) 19 61 6 + l.getD 6 0 + shaMix (l.getD 14 0) 1 8 7 + l.getD 15 0) :: l)

/-- One round: the eight working variables, the round's constant and word. -/
def shaRound (v : List DWord) (kw : DWord × DWord) : List DWord :=
  let x := fun (i : Nat) => v.getD i 0
  let t1 := x 7 + shaRot (x 4) 14 18 41 + ((x 4 &&& x 5) ^^^ (~~~(x 4) &&& x 6)) + kw.1 + kw.2
  let t2 := shaRot (x 0) 28 34 39 + ((x 0 &&& x 1) ^^^ (x 0 &&& x 2) ^^^ (x 1 &&& x 2))
  [t1 + t2, x 0, x 1, x 2, x 3 + t1, x 4, x 5, x 6]

/-- The hash value after a block of 128 bytes. -/
def shaBlock (h : List DWord) (blk : List Byte) : List DWord :=
  let w := (List.range 16).map (fun i => BitVec.ofNat 64 (ofBytesBE ((blk.drop (8 * i)).take 8)))
  let v := (shaK.zip (shaSchedule 64 w.reverse).reverse).foldl shaRound h
  (h.zip v).map (fun x => x.1 + x.2)

/-- The hash value after `n` blocks. -/
def shaBlocks : Nat → List DWord → List Byte → List DWord
  | 0, h, _ => h
  | n + 1, h, m => shaBlocks n (shaBlock h (m.take 128)) (m.drop 128)

/-- SHA-512 of a message: 64 bytes. -/
def sha512 (m : List Byte) : List Byte :=
  let z := (239 - m.length % 128) % 128
  let padded := m ++ [0x80] ++ List.replicate z 0 ++ toBytesBE 16 (8 * m.length)
  (shaBlocks (padded.length / 128) shaInit padded).flatMap (fun x => toBytesBE 8 x.toNat)

/-! ## Ed25519: the curve -/

def edP : Nat := 2 ^ 255 - 19
/-- The order of the base point. -/
def edL : Nat := 2 ^ 252 + 27742317777372353535851937790883648493
def edD : Nat := 37095705934669439343138083508754565189542113879843219016388785533085940283555

/-- b^e mod m, by `n` bits of e. -/
def powMod (m : Nat) : Nat → Nat → Nat → Nat
  | 0, _, _ => 1 % m
  | n + 1, b, e => powMod m n (b * b % m) (e / 2) * (if e % 2 = 1 then b else 1) % m

def edInv (a : Nat) : Nat := powMod edP 256 (a % edP) (edP - 2)

/-- A point of the curve in extended coordinates: X, Y, Z, T. -/
structure EdPoint where
  x : Nat
  y : Nat
  z : Nat
  t : Nat
  deriving DecidableEq, Repr

def edZero : EdPoint := ⟨0, 1, 1, 0⟩

/-- a − b mod p, both below p. -/
def edSub (a b : Nat) : Nat := (a + edP - b) % edP

def EdPoint.add (p q : EdPoint) : EdPoint :=
  let a := edSub p.y p.x * edSub q.y q.x % edP
  let b := (p.y + p.x) * (q.y + q.x) % edP
  let c := 2 * p.t * q.t % edP * edD % edP
  let d := 2 * p.z * q.z % edP
  let e := edSub b a
  let f := edSub d c
  let g := (d + c) % edP
  let h := (b + a) % edP
  ⟨e * f % edP, g * h % edP, f * g % edP, e * h % edP⟩

/-- `n` bits of a scalar times a point. -/
def EdPoint.mul : Nat → Nat → EdPoint → EdPoint
  | 0, _, _ => edZero
  | n + 1, k, p => let r := EdPoint.mul n (k / 2) (p.add p)
    if k % 2 = 1 then r.add p else r

/-- Two points are the same. -/
def EdPoint.same (p q : EdPoint) : Bool := p.x * q.z % edP == q.x * p.z % edP && p.y * q.z % edP == q.y * p.z % edP

def edBase : EdPoint :=
  let x := 15112221349535400772501151409588531511454012693041857206046113283949847762202
  let y := 46316835694926478169428394003475163141307993866256225615783033603165251855960
  ⟨x, y, 1, x * y % edP⟩

/-- The 32 bytes of a point. -/
def EdPoint.bytes (p : EdPoint) : List Byte :=
  let zi := edInv p.z
  toBytes 32 (p.y * zi % edP + 2 ^ 255 * (p.x * zi % edP % 2))

/-- A point from its bytes; `none` where they name no point. -/
def edPoint (bs : List Byte) : Option EdPoint :=
  let n := ofBytes bs
  let y := n % 2 ^ 255
  let u := edSub (y * y % edP) 1
  let v := (edD * (y * y % edP) + 1) % edP
  let w := u * v % edP * v % edP * v % edP
  let x0 := w * powMod edP 256 (w * v % edP * v % edP * v % edP * v % edP) ((edP - 5) / 8) % edP
  let vx := v * x0 % edP * x0 % edP
  let root := if vx = u then some x0
    else if vx = edSub 0 u then some (x0 * powMod edP 256 2 ((edP - 1) / 4) % edP) else none
  if bs.length ≠ 32 ∨ edP ≤ y then none
  else match root with
    | none => none
    | some x =>
      if x = 0 ∧ n / 2 ^ 255 = 1 then none
      else
        let x1 := if x % 2 = n / 2 ^ 255 then x else edP - x
        some ⟨x1, y, 1, x1 * y % edP⟩

/-! ## Ed25519: keys and signatures -/

/-- The secret scalar and the prefix of a private key. -/
def edSecret (seed : List Byte) : Nat × List Byte :=
  let h := sha512 seed
  let a := ofBytes (h.take 32)
  (a % 2 ^ 254 / 8 * 8 + 2 ^ 254, h.drop 32)

/-- The public key of a private key. -/
def edPublic (seed : List Byte) : List Byte := (EdPoint.mul 256 (edSecret seed).1 edBase).bytes

/-- The signature of a message by a private key: 64 bytes. -/
def edSign (seed msg : List Byte) : List Byte :=
  let s := edSecret seed
  let r := ofBytes (sha512 (s.2 ++ msg)) % edL
  let rb := (EdPoint.mul 256 r edBase).bytes
  let k := ofBytes (sha512 (rb ++ edPublic seed ++ msg)) % edL
  rb ++ toBytes 32 ((r + k * s.1) % edL)

/-- A signature of a message verifies under a public key. -/
def edVerify (key msg sig : List Byte) : Bool :=
  let s := ofBytes (sig.drop 32)
  match edPoint key, edPoint (sig.take 32) with
  | some a, some r =>
    let k := ofBytes (sha512 (sig.take 32 ++ key ++ msg)) % edL
    sig.length == 64 && decide (s < edL) &&
      (EdPoint.mul 4 8 (EdPoint.mul 256 s edBase)).same (EdPoint.mul 4 8 ((EdPoint.mul 256 k a).add r))
  | _, _ => false

end Sys2Proof.Machine
end

