-- ==== Sys2Proof/Machine/Manage.lean ====
section
/-! DEFINITION. Management commands, flash images, module reset, ports, connections and arriving RMA (R34 to R55, R69, R70, R75, R76,
R205, R234, R244). -/

namespace Sys2Proof.Machine

/-! ## Records (R69, R76) -/

/-- Bytes of a record whose layout the manual does not give (log 14). -/
def openRecord (which : Nat) (nums : List Nat) : List Byte := (List.range 256).map (Config.recordByte which nums)

/-- What STATUS reports: module state, configuration SEQ, enabled clusters, port and timebase lock state, error counters. -/
def State.statusNums (s : State) : List Nat :=
  let a := s.adm
  [a.step, a.recovery.toNat, (a.fatal.map (· + 1)).getD 0, a.cfgSeq.toNat] ++ a.enmask.map BitVec.toNat ++ a.ports.map Bool.toNat ++
  [a.locked.toNat] ++ a.strikes ++ a.corrected ++ a.retries ++ a.uud ++ a.flow ++ a.oversize ++ a.queues.map (fun q => q.2.errs)

/-- What MONITORS reports of a die: temperature, voltage and process reading, clock. -/
def State.monitorNums (s : State) : List Nat :=
  (List.range 4).flatMap (fun d =>
    let m := s.adm.monitors.getD d ⟨0, 0, 0⟩
    [(m.temp + 1000).toNat, (m.volt + 1000).toNat, m.proc, s.adm.mhz.getD d 1200])

/-- A command that writes a result record, and completes when the record's GWCT has passed (`c` 1) (R66). -/
def State.writeResult (s : State) (q i : Nat) (x : Queue) (ev : Instr) (at_ : DWord) (bs : List Byte) : State :=
  if s.clk.subj.c = 1 then s.entryEnd q i 0
  else s.withBuffers q i x ev [(.write, at_, bs.length)] fun s1 =>
    (s1.vwrite x.ctx at_ bs).1.sched (s1.writeTime x.ctx at_ bs.length) ev q i 1

/-- A management command: its zero bytes are checked, then the contexts it is for (R69). -/
def State.manage (s : State) (own : Bool) (f : Nat → Nat → Queue → Entry → State) : Host.Outcome State Fault Refusal :=
  s.command fun q i x e =>
    if !zeroAt e.bytes 0x12 6 then s.entryEnd q i 2
    else if own ∧ x.ctx ≠ 0 then s.entryEnd q i 7
    else f q i x e

/-- MGMT with a SUBOP that is not assigned. -/
def execMgmtUnassigned (s : State) : Host.Outcome State Fault Refusal := s.command fun q i _ _ => s.entryEnd q i 1

def execStatus (s : State) : Host.Outcome State Fault Refusal :=
  s.manage false fun q i x e => s.writeResult q i x .status (e.addr 0x18) (openRecord 0 s.statusNums)

def execMonitors (s : State) : Host.Outcome State Fault Refusal :=
  s.manage false fun q i x e => s.writeResult q i x .monitors (e.addr 0x18) (openRecord 1 s.monitorNums)

/-- ATTEST (R76). -/
def execAttest (s : State) : Host.Outcome State Fault Refusal :=
  s.manage false fun q i x e =>
    let body := (e.bytes.drop 0x20).take 32 ++ s.adm.fwHash ++ s.adm.cfgHash ++ toBytes 8 s.clk.now ++ toBytes 1 x.ctx ++ List.replicate 23 0
    s.writeResult q i x .attest (e.addr 0x18) (body ++ edSign Config.identitySeed body)

/-! ## Queues and contexts (R56, R69) -/

/-- QCREATE. A context's 65th queue and a MIRROR or ERRADDR that is not aligned give BADFIELD, and a BASE that does not translate gives FAULT
(log 93, DESIGN CHOICE: the manual names no status for these). -/
def execQcreate (s : State) : Host.Outcome State Fault Refusal :=
  s.manage false fun q i x e =>
    let base := e.addr 0x20
    let qid := e.num 0x38 2
    let log := e.num 0x3A 1
    let prio := e.num 0x3B 1
    let ctx := e.num 0x3C 1
    if !zeroAt e.bytes 0x3D 3 then s.entryEnd q i 2
    else if x.ctx ≠ 0 ∧ ctx ≠ x.ctx then s.entryEnd q i 7
    else if 1023 < qid ∨ (s.queue? qid).isSome ∨ log < 4 ∨ 12 < log ∨ 3 < prio ∨ 63 < ctx ∨ e.num 0x20 8 % (64 * 2 ^ log) ≠ 0 ∨
        e.num 0x28 8 % 4 ≠ 0 ∨ e.num 0x30 8 % 16 ≠ 0 ∨ 64 ≤ (s.adm.queues.filter (fun y => y.2.ctx == ctx)).length then s.entryEnd q i 2
    else
      match s.leafOf ctx (ptrVa base) with
      | .leaf _ _ =>
        let y : Queue := ⟨ctx, base, log, 0, 0, prio, e.addr 0x28, e.addr 0x30, false, 0, 0, none, false, []⟩
        ({ s with adm := { s.adm with queues := mput qid y s.adm.queues } }).entryEnd q i 0
      | _ => s.entryEnd q i 4

/-- A queue that is being destroyed goes once no entry of it is left. -/
def State.queueGone (s : State) (t q i : Nat) : State :=
  match s.queue? t with
  | none => s
  | some y => if y.entries = [] then { s with adm := { s.adm with queues := mdel t s.adm.queues } }
    else s.sched (s.clk.now + 1) .qdestroy q i 2 t

/-- QDESTROY: entries not started are discarded, and the queue goes when those that are started have completed; `c` 1: it waits for them, 2:
the issuing entry's own signal is not written yet. A QID that does not exist gives BADFIELD (log 93, DESIGN CHOICE). -/
def execQdestroy (s : State) : Host.Outcome State Fault Refusal :=
  if s.clk.subj.c = 2 then .next (s.queueGone s.clk.subj.d s.clk.subj.a s.clk.subj.b)
  else s.manage false fun q i x e =>
    let t := e.num 0x38 2
    match s.queue? t with
    | none => s.entryEnd q i (if s.clk.subj.c = 1 then 0 else 2)
    | some y =>
      if x.ctx ≠ 0 ∧ y.ctx ≠ x.ctx then s.entryEnd q i 7
      else
        let s1 := s.modQueue t (fun y => { y with dying := true, entries := y.entries.filter (fun e => e.started.isSome) })
        let left := (((s1.queue? t).map Queue.entries).getD []).filter (fun e => !(t == q && e.idx == i))
        if left = [] then (s1.entryEnd q i 0).queueGone t q i
        else s1.sched (s.clk.now + 1) .qdestroy q i 1

def execCtxbind (s : State) : Host.Outcome State Fault Refusal :=
  s.manage true fun q i _ e =>
    let c := e.num 0x18 1
    if c = 0 ∨ 63 < c ∨ !zeroAt e.bytes 0x19 7 then s.entryEnd q i 2
    else ({ s with adm := { s.adm with keys := mput c ((e.bytes.drop 0x20).take 32) s.adm.keys } }).entryEnd q i 0

/-- CTXRESET begins: the context's teams stop for good, its scopes are aborted, its queues but the issuing one and its tasks that
wait are discarded, no more of its teams are placed (R139, R157, R161). -/
def State.ctxStop (s : State) (ctx q : Nat) : State :=
  let s1 := { s with
    adm := { s.adm with queues := s.adm.queues.filter (fun y => y.2.ctx != ctx || y.1 == q) }
    work := { s.work with
      launches := s.work.launches.map (fun (l : Nat × Launch) => if l.2.ctx = ctx then (l.1, { l.2 with shares := [], begun := [] }) else l) } }
  let s1 := s1.dropTasks (fun (k : Nat × Task) => k.2.ctx == ctx && (match k.2.st with
    | .running _ => false
    | _ => true))
  let scopes := s1.work.scopes.filter (fun x => x.2.st != ScState.closed && ((s1.team? x.2.opener).map Team.ctx) == some ctx)
  let s2 := scopes.foldl (fun (s : State) x => s.abortScope x.1) s1
  (s2.work.teams.filter (fun t => t.2.ctx == ctx)).foldl (fun (s : State) t => s.killTeam t.1) s2

/-- What is left of a context once no team of it is left: launches, tasks, requests, fetches; its epoch advances (R90, R212, R339). -/
def State.ctxClear (s : State) (ctx : Nat) : State :=
  let gone := s.mem.reqs.filter (fun r => r.2.ctx == ctx)
  let s := s.dropTasks (fun k => k.2.ctx == ctx)
  { s with
    adm := { s.adm with epochs := mput ctx (mgetD 0 ctx s.adm.epochs + 1) s.adm.epochs }
    mem := { s.mem with
      reqs := s.mem.reqs.filter (fun r => r.2.ctx != ctx)
      noFill := s.mem.noFill.filter (fun n => !(gone.any (fun r => r.1 == n.2.2)))
      fetches := s.mem.fetches.filter (fun f => f.ctx != ctx) }
    work := { s.work with
      launches := s.work.launches.filter (fun l => l.2.ctx != ctx) } }

/-- The launches of a context leave the entries of a queue. -/
def State.dropLaunches (s : State) (ctx q : Nat) : State :=
  (s.work.launches.filter (fun l => l.2.ctx == ctx && l.2.qid == q)).foldl (fun (s : State) l => s.entryGone q l.2.entry) s

def execCtxreset (s : State) : Host.Outcome State Fault Refusal :=
  s.manage true fun q i _ e =>
    let c := e.num 0x3C 1
    if 63 < c then s.entryEnd q i 2
    else
      let s1 := if s.clk.subj.c = 1 then s else s.ctxStop c q
      if s1.work.teams.any (fun t => t.2.ctx == c) then s1.sched (s.clk.now + 1) .ctxreset q i 1
      else ((s1.dropLaunches c q).ctxClear c).entryEnd q i 0

/-! ## Flash images (R46 to R49, R70) -/

/-- The capacity of a slot: 0 and 1 firmware, 2 and 3 configuration. -/
def slotCap (slot : Nat) : Nat := if slot < 2 then 67108864 else 16777216

/-- A byte of a slot; where nothing has been written since an erase, or since the part was made, a free value (log 7). -/
def State.flashAt (s : State) (slot off : Nat) : Byte :=
  let x := s.adm.flash.getD slot ⟨false, [], false⟩
  match mget off x.bytes with
  | some b => b
  | none => Config.flashByte (if x.erased then slot + 4 else slot) off

/-- `n` bytes of a slot. -/
def State.flashBytes (s : State) (slot off n : Nat) : List Byte := (List.range n).map (fun i => s.flashAt slot (off + i))

/-- A number in a slot. -/
def State.flashNum (s : State) (slot off n : Nat) : Nat := ofBytes (s.flashBytes slot off n)

/-- The bytes of a range of a slot are zero. -/
def State.flashZero (s : State) (slot off n : Nat) : Bool := (s.flashBytes slot off n).all (fun b => b == 0)

/-- The signature over an image but its last 64 bytes holds. -/
def State.flashSigned (s : State) (slot len : Nat) (key : List Byte) : Bool :=
  edVerify key (s.flashBytes slot 0 (len - 64)) (s.flashBytes slot (len - 64) 64)

/-- A configuration slot holds a valid image (R47, R48). -/
def State.cfgValid (s : State) (slot : Nat) : Bool :=
  let num := s.flashNum slot
  let len := num 0x10 8
  let rep := num 0x48 8
  num 0 4 == 0x56434647 && num 4 2 == 1 && s.flashZero slot 6 2 && s.flashZero slot 0x3E 2 && s.flashZero slot 0x58 8 &&
  decide (len ≤ 16777216) &&
  (List.range 4).all (fun d => let m := num (0x18 + 8 * d) 8
    decide (m < 2 ^ 36) && ((List.range 36).filter (fun b => Nat.testBit m b)).length == 34) &&
  decide (1500 ≤ num 0x38 4 ∧ num 0x38 4 ≤ 3000) && (decide (num 0x3C 1 ≤ 31) || num 0x3C 1 == 0xFF) && decide (num 0x3D 1 ≤ 1) &&
  decide (num 0x40 8 + 31 < 2 ^ 48) && decide (0xA0 ≤ rep ∧ rep + num 0x50 8 + 64 ≤ len) && s.flashSigned slot len Config.configKey

/-- A firmware slot holds a valid image (R49). -/
def State.fwValid (s : State) (slot : Nat) : Bool :=
  let num := s.flashNum slot
  let len := num 0x10 8
  let code := num 0x20 8
  num 0 4 == 0x5646574D && num 4 2 == 1 && s.flashZero slot 6 2 && s.flashZero slot 0x28 24 && s.flashZero slot 0x60 160 &&
  decide (512 ≤ len ∧ len ≤ 67108864) && decide (0x100 ≤ num 0x18 8 ∧ num 0x18 8 < 0x100 + code) && decide (0x100 + code + 64 ≤ len) &&
  s.flashSigned slot len Config.firmwareKey

/-- A slot holds a valid image: after a FIRST piece not until a LAST piece has been checked (R70). -/
def State.slotValid (s : State) (slot : Nat) : Bool :=
  !(s.adm.flash.getD slot ⟨false, [], false⟩).first && (if slot < 2 then s.fwValid slot else s.cfgValid slot)

/-- The slot that the boot ROM selects of two: the valid one with the higher SEQ, the first on a tie (R46, R49). -/
def State.pickSlot (s : State) (a b : Nat) : Option Nat :=
  match s.slotValid a, s.slotValid b with
  | false, false => none
  | true, false => some a
  | false, true => some b
  | true, true => if s.flashNum a 8 8 < s.flashNum b 8 8 then some b else some a

/-- Bytes put into a slot. -/
def putFlash (m : Map Byte) (off : Nat) : List Byte → Map Byte
  | [] => m
  | b :: bs => putFlash (mput off b m) (off + 1) bs

/-- FLASHWRITE: one piece (R70). -/
def execFlashwrite (s : State) : Host.Outcome State Fault Refusal :=
  s.manage true fun q i x e =>
    let src := e.addr 0x20
    let len := e.num 0x28 4
    let slot := e.num 0x2C 1
    let first := flagAt e.bytes 0x2D 0
    let last := flagAt e.bytes 0x2D 1
    let off := e.num 0x30 8
    let y := s.adm.flash.getD slot ⟨false, [], false⟩
    if len = 0 ∨ 57344 < len ∨ 3 < slot ∨ 3 < e.num 0x2D 1 ∨ !zeroAt e.bytes 0x2E 2 ∨ !zeroAt e.bytes 0x38 8 ∨ slotCap slot < off + len ∨
        0x10000 < src.toNat + len ∨ (!first ∧ !y.first) then s.entryEnd q i 2
    else
      let data := s.bytesAt x.ctx src len
      let old := if first then [] else y.bytes
      let s1 := { s with adm := { s.adm with flash := lset s.adm.flash slot ⟨y.erased || first, putFlash old off data, !last⟩ } }
      s1.entryEnd q i (if last && !s1.slotValid slot then 2 else 0)

def execFlashverify (s : State) : Host.Outcome State Fault Refusal :=
  s.manage true fun q i x e =>
    let slot := e.num 0x2C 1
    if 3 < slot then s.entryEnd q i 2
    else s.writeResult q i x .flashverify (e.addr 0x18) (toBytes 8 (s.slotValid slot).toNat)

/-- MODRESET: the reset follows the completion signal, however long that takes (`c` 1). -/
def execModreset (s : State) : Host.Outcome State Fault Refusal :=
  let y := s.clk.subj
  if y.c = 1 then .next (if (s.entry? y.a y.b).isSome then s.sched (s.clk.now + 1) .modreset y.a y.b 1 else s.sched s.clk.now .moduleReset 0)
  else s.manage true fun q i _ _ => (s.entryEnd q i 0).sched (s.clk.now + 1) .modreset q i 1

/-! ## Bring-up (R34, R46 to R50, R75) -/

/-- What module reset leaves beside the images: everything as right after reset, flash, monitors and the outcomes of training and
unsealing as they are; free values go on. -/
def State.cold (s : State) : State :=
  { State.reset with
    clk := { Clk.reset with freeCnt := s.clk.freeCnt }
    adm := { Adm.reset with flash := s.adm.flash, trained := s.adm.trained, sealedOk := s.adm.sealedOk, monitors := s.adm.monitors } }

/-- The fields that a configuration image gives (R47). -/
def State.useCfg (s : State) (slot : Nat) : State :=
  let num := s.flashNum slot
  { s with adm := { s.adm with
      cfgSlot := slot - 2
      cfgSeq := BitVec.ofNat 64 (num 8 8)
      enmask := (List.range 4).map (fun d => BitVec.ofNat 64 (num (0x18 + 8 * d) 8))
      pwrlim := num 0x38 4
      ptpport := num 0x3C 1
      payload8k := num 0x3D 1 == 1
      macbase := BitVec.ofNat 64 (num 0x40 8)
      idpub := s.flashBytes slot 0x60 32
      reckey := s.flashBytes slot 0x80 32
      cfgHash := sha512 (s.flashBytes slot 0 (num 0x10 8)) } }

/-- The fields that a firmware image gives (R49). -/
def State.useFw (s : State) (slot : Nat) : State :=
  { s with adm := { s.adm with
      fwSlot := slot
      opkey := s.flashBytes slot 0x40 32
      fwHash := sha512 (s.flashBytes slot 0 (s.flashNum slot 0x10 8)) } }

/-- The recovery state, entered at a step of bring-up: no cluster is enabled, and port 0 alone comes up (R50). -/
def State.recover (s : State) (step : Nat) : State :=
  { s with adm := { s.adm with step := step, recovery := true, macbase := 0x024652000000, enmask := List.replicate 4 0 } }

/-- The identity key can be unsealed, and is the one that the configuration image names (R75 step 4, R76). -/
def State.identityOk (s : State) : Bool := s.adm.sealedOk && edPublic Config.identitySeed == s.adm.idpub

/-- MODULE_RESET (R75). -/
def execModuleReset (s : State) : Host.Outcome State Fault Refusal :=
  let s0 := s.cold
  .next (match s0.pickSlot 2 3 with
  | none => ({ s0 with adm := { s0.adm with reckey := (List.range 32).map (fun j => Config.serviceKey.getD j 0) } }).recover 1
  | some c =>
    let s1 := s0.useCfg c
    match s1.pickSlot 0 1 with
    | none => s1.recover 2
    | some f =>
      let s2 := s1.useFw f
      if !s2.adm.trained then s2.recover 3
      else if !s2.identityOk then s2.recover 4
      else s2)

/-! ## Ports and connections (R36 to R42, R53) -/

/-- The MAC address of a port (R41). -/
def State.portMac (s : State) (port : Nat) : Nat := s.adm.macbase.toNat + port

/-- The bytes of a frame that a port accepts, and the payload of a packet (R40). -/
def frameMax : Nat := 9216
def State.payloadMax (s : State) : Nat := if s.adm.payload8k then 8192 else 4096

/-- A management event: the clk and what happened (1 the timebase locked, 2 it lost lock, 3 a session had no bound key, 4 a module
fatal error). -/
def State.event (s : State) (what : Nat) : State := { s with adm := { s.adm with mgmtEvents := s.adm.mgmtEvents ++ [(s.clk.now, what)] } }

/-- The parts that wait for a port are sent again. -/
def State.portBack (s : State) (port : Nat) : State :=
  s.mem.reqs.foldl (fun s r => (List.range r.2.parts.length).foldl (fun (s : State) b =>
    match r.2.parts[b]? with
    | none => s
    | some p => match p.st, p.home with
      | .flying, some (.peer c _) => if ((mget c s.adm.conns).map Conn.port) = some port then s.sched s.clk.now .requestAccept r.1 b else s
      | _, _ => s) s) s

def execPortLinkUp (port : Fin 32) (s : State) : Host.Outcome State Fault Refusal :=
  if s.adm.recovery ∧ port.val ≠ 0 then .next s
  else .next (({ s with adm := { s.adm with ports := lset s.adm.ports port.val true } }).portBack port.val)

def execPortLinkDown (port : Fin 32) (s : State) : Host.Outcome State Fault Refusal :=
  .next { s with adm := { s.adm with ports := lset s.adm.ports port.val false } }

/-- The peer entries that are bound to a connection go DOWN (R42, R103). -/
def State.peersGone (s : State) (conn : Nat) : State :=
  (s.adm.peers.filter (fun p => p.2.conn == conn && p.2.up)).foldl (fun (s : State) p => s.peerGone (p.1 / 4096) (p.1 % 4096)) s

/-- A connection fails: the peer entries that depend on it go DOWN (R42, R103). -/
def execConnectionFailure (conn : Nat) (s : State) : Host.Outcome State Fault Refusal :=
  .next (({ s with adm := { s.adm with conns := mmod conn (fun c => { c with up := false }) s.adm.conns } }).peersGone conn)

/-- The context whose key authenticates a session (R50, R53). -/
def State.keyCtx (s : State) (key : List Byte) : Option Nat :=
  if s.adm.recovery then (if key = s.adm.reckey then some 0 else none)
  else if key = s.adm.opkey then some 0
  else (s.adm.keys.find? (fun k => k.2 == key)).map Prod.fst

/-- A delivery mode from a free value. -/
def deliveryOf (f : DWord) : Delivery := if f.toNat % 3 = 0 then .rud else if f.toNat % 3 = 1 then .rod else .rudi

/-- A session authenticates: its connection is bound to a context, under a new epoch, with the delivery mode that the other side asks for (a
free value, log 94), or closed. Peer entries bound under an earlier epoch go DOWN (R103). In the recovery state the 9400 authenticates its own
side only where the identity key can be unsealed (R50). -/
def execConnectionAuth (conn : Nat) (port : Fin 32) (key : List Byte) (s : State) : Host.Outcome State Fault Refusal :=
  match s.keyCtx key with
  | some ctx =>
    let epoch := ((mget conn s.adm.conns).map (fun c => c.epoch + 1)).getD 0
    let (f, s1) := (s.peersGone conn).drawFree
    .next { s1 with adm := { s1.adm with conns := mput conn ⟨port.val, ctx, epoch, true, deliveryOf f, s.adm.sealedOk⟩ s1.adm.conns } }
  | none =>
    let s1 := s.peersGone conn
    .next (({ s1 with adm := { s1.adm with conns := mdel conn s1.adm.conns } }).event 3)

/-- A packet that requests UUD: counted, and answered with a NACK; the number of a port as a connection is 2^32 above it. -/
def execUudPacket (port : Fin 32) (s : State) : Host.Outcome State Fault Refusal :=
  .next (({ s with adm := { s.adm with uud := lmod s.adm.uud port.val (· + 1) } }).reply (2 ^ 32 + port.val) 1 [])

def execFlowControlFrame (port : Fin 32) (s : State) : Host.Outcome State Fault Refusal :=
  .next { s with adm := { s.adm with flow := lmod s.adm.flow port.val (· + 1) } }

def execOversizePacket (port : Fin 32) (s : State) : Host.Outcome State Fault Refusal :=
  .next { s with adm := { s.adm with oversize := lmod s.adm.oversize port.val (· + 1) } }

/-! ## Arriving RMA (R36, R40, R54, R74, R78, R202, R205, R233, R234, R239, R244) -/

/-- What an arriving access meets: it may be performed, access is denied, it must be sent again, or it goes on at a clk. -/
inductive RmaAns where
  | ok | denied | again
  | later (t : Nat)
  deriving DecidableEq, Repr

/-- The record of an arriving access. -/
def State.rmaRecord (s : State) (ctx cause : Nat) (at_ : DWord) : State := s.log ⟨cause, 6, ctx, 0xFFFF, 0xFFFF, at_, s.clk.now, 0, 0⟩

/-- The check of one span: the page permits host access, which comes first; then the leaf's own checks. A light fault is served, a page that the
host owns is pulled. A physical address that does not exist is found where the access is served (R32). -/
def State.rmaSpan (s : State) (ctx die : Nat) (k : AccKind) (at_ : DWord) : RmaAns × State :=
  let host := match s.leafOf ctx (ptrVa at_) with
    | .leaf e _ => leafHost e
    | _ => true
  if ptrOk at_ && !host then (.denied, s)
  else match s.gateSpan ctx die k at_ with
    | .ok => (.ok, s)
    | .later t => (.later t, s)
    | .fail 0x010A _ => (.ok, s)
    | .fail 0x0101 a => (.later (s.clk.now + 600), s.serveCause ctx (ptrVa a) 0x0101 (k != .read))
    | .fail 0x0103 a => (.again, s.startPull ctx (pageOf (ptrVa a)))
    | .fail c a => (.denied, s.rmaRecord ctx c a)

/-- The check of an arriving access: its pages are translated by the TLB and the walker of the die of its port (R85), then span by span. -/
def State.rmaCheck (s : State) (c : Conn) (k : AccKind) (addr : DWord) (n : Nat) : RmaAns × State :=
  let die := portDie c.port
  let w := s.dieWalks die c.ctx (if ptrOk addr then pagesOf (ptrVa addr) n else [])
  if w.1 ≠ 0 then (.later (s.clk.now + w.1), w.2)
  else (spansOf addr.toNat n).foldl (fun (r : RmaAns × State) x => match r.1 with
    | .ok => r.2.rmaSpan c.ctx die k (BitVec.ofNat 64 x.1)
    | _ => r) (.ok, w.2)

/-- The clk until which the queues of the homes that an arriving access goes to are busy. -/
def State.rmaBusy (s : State) (c : Conn) (addr : DWord) (n : Nat) : Nat :=
  (spansOf addr.toNat n).foldl (fun t x =>
    let va := ptrVa (BitVec.ofNat 64 x.1)
    match s.leafOf c.ctx va with
    | .leaf e size => match s.homeOf c.ctx (portDie c.port) e size va with
      | some h => max t (mgetD 0 h.queue s.mem.busy)
      | none => t
    | _ => t) 0

/-- The connection of an arriving access. -/
def rmaConn : Instr → Option Nat
  | .rmaWrite c _ _ => some c
  | .rmaRead c _ _ => some c
  | .rmaAtomic c _ _ _ _ _ => some c
  | _ => none

/-- AN ARRIVING ACCESS of a connection: performed where the check lets it, else answered with a NACK. `a` 1: it has been put off, `b` holds the
clk at which its wait in the queues of its homes reaches the sluice interval, 0 where it is in none, and `c` its place among those of its
connection, which are performed in the order of their arrival whatever the delivery mode (R74, R244). -/
def State.rma (s : State) (conn : Nat) (k : AccKind) (addr : DWord) (n : Nat) (ev : Instr) (f : Conn → State → State) :
    Host.Outcome State Fault Refusal :=
  match mget conn s.adm.conns with
  | none => .next s
  | some c =>
    let y := s.clk.subj
    let off := fun (s : State) (due till : Nat) => if y.a = 1 then s.sched due ev 1 till y.c else s.takeFresh.2.sched due ev 1 till s.takeFresh.1
    let till := if y.a = 1 then y.b else 0
    if !c.up then .next s
    else if k = .write ∧ frameMax < n then .next s
    else if k = .write ∧ s.payloadMax < n then .next { s with adm := { s.adm with oversize := lmod s.adm.oversize c.port (· + 1) } }
    -- after a module fatal error the ports serve management alone: the management window (R36, R55; log 62)
    else if s.adm.fatal.isSome ∧ !isWindow c.ctx (pageOf (ptrVa addr)) then .next (s.reply conn 2 [])
    else if s.clk.agenda.any (fun i => rmaConn i.ev == some conn && i.subj.a == 1 && (y.a != 1 || decide (i.subj.c < y.c))) then
      .next (off s (s.clk.now + 1) till)
    else if till ≠ 0 ∧ till ≤ s.clk.now then .next (s.reply conn 3 [])
    else
      match s.rmaCheck c k addr n with
      | (.denied, s1) => .next (s1.reply conn 2 [])
      | (.again, s1) => .next (s1.reply conn 3 [])
      | (.later t, s1) => .next (off s1 t 0)
      | (.ok, s1) =>
        let busy := s1.rmaBusy c addr n
        if s1.clk.now < busy then
          let t := if till ≠ 0 then till else s1.clk.now + s1.sluiceOf c.ctx 0
          .next (off s1 (min busy t) t)
        else .next (f c s1)

/-- Bytes of one block that an arriving write brings: the clk its GWCT has passed. -/
def State.rmaPut (s : State) (ctx : Nat) (at_ : DWord) (data : List Byte) : Nat × State :=
  match s.access ctx .write at_ with
  | .error c => (s.clk.now, s.rmaRecord ctx c at_)
  | .ok (leaf, _, a) =>
    if data.length ≠ 64 ∧ s.tagBad leaf at_ a then (s.clk.now, s.rmaRecord ctx 0x0106 at_)
    else (s.cmdGwct leaf a, ((s.writeAt a (data.map some)).setTag (a / 64) (if leafTagck leaf then ptrTag at_ else 0)).sliceTouch (a / 64) ctx)

/-- RMA_WRITE: the answer brings the latest GWCT of its blocks (R233). -/
def execRmaWrite (conn : Nat) (addr : DWord) (data : List Byte) (s : State) : Host.Outcome State Fault Refusal :=
  s.rma conn .write addr data.length (.rmaWrite conn addr data) fun c s1 =>
    let r := (spansOf addr.toNat data.length).foldl (fun (r : Nat × List Byte × State) x =>
      let y := r.2.2.rmaPut c.ctx (BitVec.ofNat 64 x.1) (r.2.1.take x.2)
      (max r.1 y.1, r.2.1.drop x.2, y.2)) (s1.clk.now, data, s1)
    r.2.2.reply conn 0 (toBytes 8 r.1)

/-- A block as an arriving read sees it: its bytes, a free value where it is poisoned, all ones where the tag does not match or the physical
address does not exist; a 9400 that reads it gets a lease while the timebase is locked. -/
def State.rmaBlock (s : State) (conn ctx : Nat) (at_ : DWord) (n : Nat) : List Byte × State :=
  match s.access ctx .read at_ with
  | .error c => (List.replicate n 0xFF, s.rmaRecord ctx c at_)
  | .ok (leaf, _, a) =>
    let loc := a / 64
    if s.tagBad leaf at_ a then (List.replicate n 0xFF, s.rmaRecord ctx 0x0106 at_)
    else
      let (block, poison, found, s1) := s.readHome loc ctx (if leafTagck leaf then some (ptrTag at_) else none)
      let s2 := match found with
        | none => s1
        | some c => s1.rmaRecord ctx c at_
      if poison then
        ((freeBytes s2.clk.freeCnt 8).take n, { s2 with clk := { s2.clk with freeCnt := s2.clk.freeCnt + 8 } })
      else
        let peer := s2.adm.peers.any (fun p => p.1 / 4096 == ctx && p.2.conn == conn && !p.2.host)
        let s3 := if peer && s2.adm.locked && leafPeer leaf == 0 && decide (leafHome leaf ≤ 1) && !leafTso leaf then
            s2.grantLease ⟨loc, true, conn, ctx, s.clk.now + leafLease leaf⟩ else s2
        ((block.drop (a % 64)).take n, s3.sliceTouch loc ctx)

/-- RMA_READ: served at the homes. -/
def execRmaRead (conn : Nat) (addr : DWord) (len : Nat) (s : State) : Host.Outcome State Fault Refusal :=
  s.rma conn .read addr len (.rmaRead conn addr len) fun c s1 =>
    let r := (spansOf addr.toNat len).foldl (fun (r : List Byte × State) x =>
      let y := r.2.rmaBlock conn c.ctx (BitVec.ofNat 64 x.1) x.2
      (r.1 ++ y.1, y.2)) ([], s1)
    r.2.reply conn 0 r.1

/-- RMA_ATOMIC: accepted once at its home, answered with the old value and the GWCT; one that is not aligned is denied. A poisoned block, a tag
that does not match, or a physical address that does not exist answers all ones, and nothing changes. -/
def execRmaAtomic (conn : Nat) (addr : DWord) (op : AOp) (sz : SZ) (data cmp : DWord) (s : State) : Host.Outcome State Fault Refusal :=
  let n := sz.bytes
  if addr.toNat % n ≠ 0 then .next (match mget conn s.adm.conns with
    | some c => if c.up then s.reply conn 2 [] else s
    | none => s)
  else s.rma conn .atomic addr n (.rmaAtomic conn addr op sz data cmp) fun c s1 =>
    let ones := List.replicate n (0xFF : Byte)
    match s1.access c.ctx .atomic addr with
    | .error x => (s1.rmaRecord c.ctx x addr).reply conn 0 (ones ++ toBytes 8 s1.clk.now)
    | .ok (leaf, _, a) =>
      if s1.tagBad leaf addr a then (s1.rmaRecord c.ctx 0x0106 addr).reply conn 0 (ones ++ toBytes 8 s1.clk.now)
      else
        let (block, poison, found, s2) := s1.readHome (a / 64) c.ctx (if leafTagck leaf then some (ptrTag addr) else none)
        let s3 := match found with
          | none => s2
          | some x => s2.rmaRecord c.ctx x addr
        if poison then s3.reply conn 0 (ones ++ toBytes 8 s1.clk.now)
        else
          let old := (block.drop (a % 64)).take n
          match atomNew op sz.cmpSigned (8 * n) (ofBytes old) data.toNat cmp.toNat with
          | none => s3.reply conn 0 (old ++ toBytes 8 s1.clk.now)
          | some v => (((s3.writeAt a ((toBytes n v).map some)).setTag (a / 64) (if leafTagck leaf then s3.tagOf (a / 64) else 0)).sliceTouch
              (a / 64) c.ctx).reply conn 0 (old ++ toBytes 8 (s1.cmdGwct leaf a))

/-! ## Mesh, timebase, power and health (R36, R43 to R45, R51, R52) -/

/-- A module fatal error: every context stops, a fatal record is written (R36). -/
def State.fatalError (s : State) (what : Nat) : State :=
  let gangs := s.work.gangs.map (fun (g : Nat × Gang) => (g.1, g.2.stopNow))
  let teams := s.work.teams.map (fun (t : Nat × Team) => if t.2.st = .placed then (t.1, { t.2 with st := .stopping }) else t)
  ({ s with adm := { s.adm with fatal := some what }, work := { s.work with gangs := gangs, teams := teams } }).event 4

def execMeshLinkRetry (link : Fin 6) (s : State) : Host.Outcome State Fault Refusal :=
  .next { s with adm := { s.adm with retries := lmod s.adm.retries link.val (· + 1) } }

def execMeshLinkFatal (link : Fin 6) (s : State) : Host.Outcome State Fault Refusal := .next (s.fatalError link.val)

/-- What a die's monitors read now. -/
def State.monitor (s : State) (die : Nat) : Monitor := s.adm.monitors.getD die ⟨0, 0, 0⟩

/-- A die is at 95 °C or above, and its clock goes down; it is at 105 °C or above, or its supply voltage is more than 5 % from nominal (R52). -/
def Monitor.hot (m : Monitor) : Bool := decide (95 ≤ m.temp)
def Monitor.bad (m : Monitor) : Bool := decide (105 ≤ m.temp) || decide (50 < m.volt.natAbs)

/-- MONITOR_FATAL: the monitors are looked at. -/
def execMonitorFatal (die : Fin 4) (s : State) : Host.Outcome State Fault Refusal :=
  .next (if (s.monitor die.val).bad then s.fatalError (16 + die.val) else s)

/-- The timebase gets or loses its lock. Without it no peer-homed line stays in an L1 (R45). -/
def State.setLock (s : State) (on : Bool) : State :=
  if on = s.adm.locked then s
  else
    let s1 := ({ s with adm := { s.adm with locked := on, everLocked := s.adm.everLocked || on } }).event (if on then 1 else 2)
    if on then s1 else { s1 with mem := { s1.mem with l1 := s1.mem.l1.filter (fun l => decide (l.loc * 64 < 2 ^ 64)) } }

/-- The timebase of a 9400 that has never been locked steps forward to the grandmaster's time; after the first lock only its rate is adjusted,
which no clk shows (R43). What was to happen at a clk that is stepped over happens at once (log 95). -/
def State.syncStep (s : State) (offset : Int) : State :=
  if s.adm.everLocked || decide (offset ≤ 60) then s else { s with clk := { s.clk with now := s.clk.now + offset.toNat } }

/-- SYNC_MESSAGE: by how many clk the grandmaster is ahead, the measurement error counted in it. -/
def execSyncMessage (offset : Int) (s : State) : Host.Outcome State Fault Refusal :=
  if s.adm.ptpport = 0xFF then .next s
  else
    let s1 := s.syncStep offset
    .next ((({ s1 with adm := { s1.adm with lastSync := s1.clk.now } }).setLock (decide (offset.natAbs ≤ 60))).sched (s1.clk.now + 60000000) .syncTimeout 0)

def execSyncTimeout (s : State) : Host.Outcome State Fault Refusal :=
  .next (if s.adm.lastSync + 60000000 ≤ s.clk.now then s.setLock false else s)

/-- A clk that lies some issue clk after `base`, once the die's clock has gone from `m` to `n` MHz (R6, R51). -/
def reclock (m n base t : Nat) : Nat := if t ≤ base then t else issueAfter n base (t * m / 1200 - base * m / 1200)

/-- From which clk on the results of a path count issue clk: where it waits for the answer of a unit, from that (R474). -/
def Path.counts (p : Path) (now : Nat) : Nat :=
  match p.run with
  | some r => if r.staged = p.hold then now else max now p.hold
  | none => max now p.hold

/-- What a gang has on its way keeps its issue clk. -/
def Gang.reclock (g : Gang) (m n now : Nat) : Gang :=
  { g with
    pend := g.pend.map (fun x => if x.fixed then
      { x with land := Machine.reclock m n (((g.paths.find? (fun p => p.lanes == x.lanes)).map (fun p => p.counts now)).getD now) x.land } else x)
    paths := g.paths.map (fun p => match p.run with
      | some r => if r.staged = p.hold then
          { p with hold := Machine.reclock m n now p.hold, run := some { r with staged := Machine.reclock m n now r.staged } } else p
      | none => p) }

/-- A die's clock changes, between two issue clk: pipeline latencies under way keep their issue clk, every other time stays (R51). -/
def State.setMhz (s : State) (die n : Nat) : State :=
  let m := s.adm.mhz.getD die 1200
  let now := s.clk.now
  let sfu := s.work.sfu.map (fun (q : Nat × List SfuOp) => if dieOf q.1 = die then
    (q.1, q.2.map (fun (o : SfuOp) => { o with head := Machine.reclock m n now o.head, due := Machine.reclock m n now o.due })) else q)
  let s1 := { s with
    adm := { s.adm with mhz := lset s.adm.mhz die n }
    clk := { s.clk with slotBusy := s.clk.slotBusy.map (fun b => if dieOf (b.1 / 4) = die then (b.1, Machine.reclock m n now b.2) else b) }
    work := { s.work with
      sfu := sfu
      gangs := s.work.gangs.map (fun (g : Nat × Gang) => if g.2.die = die then (g.1, g.2.reclock m n now) else g) } }
  sfu.foldl (fun (s : State) q => if dieOf q.1 = die then q.2.foldl (fun (s : State) o => s.sched o.due .sfuResult q.1) s else s) s1

/-- POWER_STEP: one die's clock goes down or up by 50 MHz, by the module's average power; which of the dies that can change, the manual leaves
open (log 3). -/
def execPowerStep (watts : Nat) (s : State) : Host.Outcome State Fault Refusal :=
  let s0 := { s with adm := { s.adm with avgPower := watts } }
  let lower := decide (s.adm.pwrlim < watts)
  let raise := decide (watts * 100 < s.adm.pwrlim * 95)
  let able := (List.range 4).filter (fun d => let m := s.adm.mhz.getD d 1200
    if lower then decide (650 ≤ m) else decide (m ≤ 1150) && !(s.monitor d).hot)
  if !(lower || raise) ∨ able = [] then .next s0
  else
    let (f, s1) := s0.drawFree
    let d := able.getD (f.toNat % able.length) 0
    let m := s1.adm.mhz.getD d 1200
    .next (s1.setMhz d (if lower then m - 50 else m + 50))

/-- TEMP_THROTTLE: a die at 95 °C or above is clocked one step lower, and again every 1,200,000 clk until its temperature is below that. -/
def execTempThrottle (die : Fin 4) (s : State) : Host.Outcome State Fault Refusal :=
  if !(s.monitor die.val).hot then .next s
  else
    let s1 := s.setMhz die.val (max 600 (s.adm.mhz.getD die.val 1200 - 50))
    .next (if s1.has (.tempThrottle die) 0 then s1 else s1.sched (s.clk.now + 1200000) (.tempThrottle die) 0)

end Sys2Proof.Machine
end

