-- ==== Sys2Proof/Machine/Reissue.lean ====
section
/-! DEFINITION. The reissue port of a cluster or control core, and cistern entries as they are written out (R207 to R212, R219, R221). -/

namespace Sys2Proof.Machine

/-! ## The reissue port (R106, R211) -/

/-- An entry of a cistern: a request, a copy or tile operation, an uncounted request. -/
inductive CEntry where
  | req (r : Nat)
  | op (id : Nat)
  | unc (id : Nat)
  deriving DecidableEq, Repr

/-- A part that has been woken, and when. -/
def Part.wokenAt (p : Part) : Option Nat :=
  match p.st with
  | .woken t => some t
  | _ => none

/-- When a request's entry was woken: at the first wake of its parts. -/
def Req.wokenAt (q : Req) (now : Nat) : Option Nat :=
  match (q.parts.filterMap Part.wokenAt).filter (fun t => decide (t ≤ now)) with
  | [] => none
  | t :: ts => some (ts.foldl min t)

/-- The woken entries of gangs, with the clk of the wake and SEQ. -/
def State.wokenAll (s : State) : List (Nat × Nat × Nat × CEntry) :=
  s.mem.reqs.filterMap (fun r => (r.2.wokenAt s.clk.now).map (fun t => (r.2.gang, t, r.2.seq, CEntry.req r.1))) ++
  s.allOps.filterMap (fun o => o.2.2.2.woken.map (fun t => (o.1, t, o.2.2.2.seq, CEntry.op o.2.1))) ++
  s.work.uncs.filterMap (fun u => u.2.ent.woken.map (fun t => (u.2.gang, t, u.2.ent.seq, CEntry.unc u.1)))

/-- The entry a reissue port takes: the earliest wake, then the lower issue slot, then the lower SEQ. -/
def State.reissueNext (s : State) (port : Nat) : Option CEntry :=
  let l := s.wokenAll.filterMap (fun x =>
    match s.gang? x.1 with
    | none => none
    | some g => if g.port ≠ port ∨ !s.resident g then none else some ((x.2.1 * 4 + g.slot) * 2 ^ 40 + x.2.2.1, x.2.2.2))
  (lruOf Prod.fst l).map Prod.snd

/-- A copy goes to the end of the queue of the engine that its gang is at now, with a full interval and a new pass (R202, R218); a tile operation
goes on in its engine. -/
def State.reissueOp (s : State) (id : Nat) : State :=
  match s.work.copies.findSome? (fun c => c.2.find? (fun o => o.id == id)) with
  | none => s.mapOps (fun _ i b => if i = id then (none, { b.2 with woken := none }) else b)
  | some o =>
    match s.gang? o.gang with
    | none => s
    | some g =>
      let t := s.sluiceOf (s.ctxOf g) 3
      let o1 := { o with bounce := none, start := none, cache := [], queued := (s.clk.now, t), ent := { o.ent with woken := none } }
      let s1 := { s with work := { s.work with copies := s.work.copies.map (fun (c : Nat × List CopyOp) => (c.1, c.2.filter (fun y => y.id ≠ id))) } }
      (s1.setCopies g.cluster (s1.copyQueue g.cluster ++ [o1])).sched (s.clk.now + t) .sluiceBounce id 0 1

/-- An uncounted request is made again. -/
def State.reissueUnc (s : State) (id : Nat) : State :=
  match mget id s.work.uncs with
  | none => s
  | some u => match u.what with
    | .tasksub bs die => s.retrySub id u.gang bs die
    | .fapp a items => s.retryFapp id u.gang a items
    | .qsend qid v => s.retryQsend id u.gang qid v
    | .issue _ => s.uncDone u.gang id

/-- A request is reissued in its lanes that are not done. -/
def State.reissueReq (s : State) (r : Nat) : State :=
  match s.req? r with
  | none => s
  | some q => (List.range q.parts.length).foldl (fun s b => match (q.parts[b]?).bind Part.wokenAt with
      | some _ => s.sendPart r b
      | none => s) s

/-- REISSUE: the port reissues one woken entry. -/
def execReissue (s : State) : Host.Outcome State Fault Refusal :=
  let port := s.clk.subj.a
  match s.reissueNext port with
  | none => .next s
  | some e =>
    let s0 := { s with mem := { s.mem with reissued := mput port s.clk.now s.mem.reissued } }
    let s1 := match e with
      | .req r => s0.reissueReq r
      | .op id => s0.reissueOp id
      | .unc id => s0.reissueUnc id
    .next (if (s1.reissueNext port).isSome then s1.kickReissue port else s1)

/-- An uncounted request no longer waits for what its entry names (R209): its target has room. -/
def State.uncReady (s : State) (u : Unc) : Bool :=
  match s.gang? u.gang with
  | none => true
  | some g => match u.what with
    | .tasksub bs die => decide (s.tableUsed die + recEntries bs ≤ 2048)
    | .fapp a items => s.fappReady g a items.length
    | .qsend qid v => (match s.wakeAnswer (s.ctxOf g) qid v with
      | .full => false
      | _ => true)
    | .issue _ => decide (u.ent.btime ≠ 0 ∧ u.key.toNat ≤ s.clk.now)

/-- Uncounted requests whose wake has come are woken. -/
def State.uncTick (s : State) : State :=
  s.work.uncs.foldl (fun (s : State) x => match mget x.1 s.work.uncs with
    | none => s
    | some u =>
      if u.ent.woken.isSome || !s.uncReady u then s
      else
        let s1 := { s with work := { s.work with uncs := mput x.1 { u with ent := { u.ent with woken := some s.clk.now } } s.work.uncs } }
        match s.gang? u.gang with
        | some g => s1.kickReissue g.port
        | none => s1) s

/-! ## Entries written out (R207, R208, R219) -/

/-- The header of an entry. -/
structure EntryHdr where
  pc : DWord
  runpc : DWord
  base : DWord
  done : Mask
  lanes : Mask
  cause : Nat
  ctr : Nat
  dest : Nat
  word : Word
  btime : Nat
  seq : Nat
  qc : Nat
  wkey : DWord
  deriving DecidableEq, Repr

/-- The 64 bytes of a header. -/
def EntryHdr.bytes (h : EntryHdr) : List Byte :=
  toBytes 8 h.pc.toNat ++ toBytes 8 h.runpc.toNat ++ toBytes 8 h.base.toNat ++ toBytes 4 h.done.toNat ++ toBytes 4 h.lanes.toNat ++
  toBytes 2 h.cause ++ toBytes 1 h.ctr ++ toBytes 1 h.dest ++ toBytes 4 h.word.toNat ++ toBytes 8 h.btime ++ toBytes 4 h.seq ++
  toBytes 1 h.qc ++ toBytes 3 0 ++ toBytes 8 h.wkey.toNat

/-- CTR of a counter's number. -/
def ctrCode (cls : Nat) : Nat := if cls < 4 then cls else 0xFF

/-- DEST: the code of the destination register. -/
def Dest.code : Dest → Nat
  | .none => 0xFF
  | .v n _ => n
  | .t n _ => 0x70 + n
  | .g n => n

/-- Why a request's entry waits now, and the key of its wake; 0 for an entry that does not wait (log 88). -/
def Req.waits (q : Req) : Nat × DWord :=
  (q.parts.findSome? (fun p => match p.st with
    | .cistern c key _ => some (c, if c = 0x0301 then BitVec.ofNat 64 key else 0)
    | _ => none)).getD (0, 0)

/-- QCLASS of a request's entry: that of the latest bounce that its parts name. -/
def Req.qclass (q : Req) : Nat := (q.parts.findSome? (fun p => if p.qc = 0xFF then none else some p.qc)).getD 0xFF

/-- The 1,088 bytes of a request's entry. -/
def Req.entry (q : Req) : List Byte :=
  let w := q.waits
  (⟨q.pc, q.runpc, q.base, q.lanesDone, q.lanes, w.1, ctrCode q.cls, q.dest.code, q.word, q.btime, q.seq, q.qclass, w.2⟩ : EntryHdr).bytes ++
  (List.range 32).flatMap (fun l => toBytes 4 (q.idx.getD l 0).toNat ++ toBytes 4 0 ++ toBytes 8 (q.data.getD l 0).toNat ++
    toBytes 8 (match q.kind with
      | .atom | .atoms => (q.cmp.getD l 0).toNat
      | _ => 0) ++ toBytes 8 0)

/-- The entry of a copy or tile operation with PROG, or of an uncounted request. -/
def OpEnt.entry (e : OpEnt) (ctr prog cause : Nat) (key : DWord) : List Byte :=
  (⟨e.ipc, e.runpc, BitVec.ofNat 64 prog, 0, 0, cause, ctr, 0xFF, e.word, e.btime, e.seq, e.qc, key⟩ : EntryHdr).bytes ++ List.replicate 1024 0

/-- Cause and key that an operation's bounce shows. -/
def opWaits (b : Option (Nat × Nat × Nat)) (e : OpEnt) : Nat × DWord :=
  match b, e.woken with
  | some (c, key, _), none => if stalls c then (0, 0) else
      (c, if c = 0x0301 ∨ c = 0x0303 ∨ c = 0x0306 then BitVec.ofNat 64 key else 0)
  | _, _ => (0, 0)

/-- PROG of a tile operation: 64 bytes a K-step, for a drain the bytes of its rows (R336). -/
def State.tileProg (s : State) (op : TileOp) : Nat :=
  if op.kind = 3 then (match (s.opRecord op 8).1 with
    | .ok d => op.kdone * 16 * d.w
    | _ => 0) else 64 * op.kdone

/-- The entries of a gang's cistern in the order of their first bounces: BTIME, SEQ and the bytes. -/
def State.cistern (s : State) (k : Nat) : List (Nat × Nat × List Byte) :=
  let reqs := s.mem.reqs.filterMap (fun r => if r.2.gang = k ∧ r.2.btime ≠ 0 then some (r.2.btime, r.2.seq, r.2.entry) else none)
  let op := fun (e : OpEnt) (b : Option (Nat × Nat × Nat)) (ctr prog : Nat) => if e.btime = 0 then none else
    some (e.btime, e.seq, e.entry ctr prog (opWaits b e).1 (opWaits b e).2)
  let copies := s.work.copies.flatMap (fun c => c.2.filterMap (fun o => if o.gang = k then op o.ent o.bounce 2 o.prog else none))
  let tile := fun (o : TileOp) => if o.gang = k then op o.ent o.bounce 3 (s.tileProg o) else none
  let tiles := s.work.engines.flatMap (fun e => e.2.ops.filterMap tile) ++ s.work.teams.flatMap (fun t => t.2.tops.filterMap tile)
  let uncs := s.work.uncs.filterMap (fun u => if u.2.gang = k ∧ u.2.ent.btime ≠ 0 then
    some (u.2.ent.btime, u.2.ent.seq, u.2.ent.entry 0xFF 0 (if u.2.ent.woken.isSome then 0 else u.2.cause) (if u.2.ent.woken.isSome then 0 else u.2.key)) else none)
  (reqs ++ copies ++ tiles ++ uncs).foldl (fun l x => l.takeWhile (fun y => decide (y.1 < x.1 ∨ y.1 = x.1 ∧ y.2.1 ≤ x.2.1)) ++ [x] ++
    l.dropWhile (fun y => decide (y.1 < x.1 ∨ y.1 = x.1 ∧ y.2.1 ≤ x.2.1))) []

/-- The first byte of a gang's overflow area in its team's save area: behind the gang's 128 rows and 4,096 bytes (R136, log 88). -/
def Team.overflowAt (t : Team) (i : Nat) (core : Bool) : Nat :=
  t.area.1 * 65536 + (if core then 4096 else i * (128 * 128 + 4096 + 240 * 1088) + 128 * 128 + 4096)

/-- The entries of a gang that do not stand on chip lie in its overflow area: those beyond the 16 of its cluster or core, and all of a team
that is not on its cluster (R207, R219, log 88). -/
def State.overTick (s : State) (_ : Nat) (tm : Team) : State :=
  if tm.area.2 = 0 then s
  else
    (List.range tm.gangs.length).foldl (fun (s : State) i =>
      match tm.gangs[i]? with
      | none => s
      | some k =>
        let l := s.cistern k
        let away := tm.st = .stopped ∨ tm.st = .estivated ∨ tm.st = .candidate
        let out := (if away then l else l.drop 16).take 240
        let at_ := tm.overflowAt i (((s.gang? k).bind Gang.core).isSome)
        (List.range out.length).foldl (fun (s : State) n =>
          { s with mem := { s.mem with bytes := writeBytes s.mem.bytes (at_ + 1088 * n) ((out.getD n (0, 0, [])).2.2) } }) s) s

end Sys2Proof.Machine
end

