-- ==== Sys2Proof/Machine/Reliab.lean ====
section
/-! DEFINITION. Strikes, the debugger, unassigned encodings, the lane-cycle census, sampled loads, record and replay sessions
(R194, R195, R257, R264, R274 to R278, R281 to R283, R289 to R291, R370). -/

namespace Sys2Proof.Machine

/-! ## Strikes (R256, R257, R264, R267) -/

/-- The cluster lies in a struck region: the cluster itself, or the die of a die slice. -/
def inRegion (die : Nat) (cluster : Option Nat) (cl : Nat) : Bool :=
  match cluster with
  | some c => cl == c
  | none => decide (cl < 136) && dieOf cl == die

/-- STRIKE_REPORT: the die's counter, a record for each context with a resident team in the region, a rollback of each protected
team whose place is there, in its save area where it has left (R267). -/
def execStrikeReport (die : Fin 4) (cluster : Option Nat) (s : State) : Host.Outcome State Fault Refusal :=
  let s1 := { s with adm := { s.adm with strikes := lmod s.adm.strikes die.val (· + 1) } }
  let here := s1.work.teams.filter (fun t => inRegion die.val cluster t.2.cluster)
  let ctxs := (here.foldl (fun (m : Map Unit) t => if t.2.here then mput t.2.ctx () m else m) []).map Prod.fst
  let s2 := ctxs.foldl (fun (s : State) c => s.log ⟨0x0401, 9, c, cluster.getD 0xFFFF, 0xFFFF, 0, s.clk.now, 0, 0⟩) s1
  .next (here.foldl (fun (s : State) t => if t.2.prot.isSome ∧ t.2.st ≠ .ended then s.rollback t.1 9 else s) s2)

/-! ## The debugger (R194, R195) -/

/-- A gang that a stop has stopped. -/
def Gang.stopped (g : Gang) : Bool :=
  match g.stop with
  | .weir _ _ _ _ => true
  | .full => true
  | _ => false

/-- Which of the two registers of a result a debugger's register number names: 0 to 111 are V, 112 to 119 T. -/
def ldstNames (d : LDst) (reg : Nat) : Bool × Bool :=
  let n := match d with
    | .v n => n.val
    | .t n => 112 + n.val
  (reg == n, reg == n + 1)

def Dest.names (d : Dest) (reg : Nat) : Bool × Bool :=
  match d with
  | .v n pair => (reg == n, pair && reg == n + 1)
  | .t n pair => (reg == 112 + n, pair && reg == 113 + n)
  | .g n => (reg == 128 + n, false)
  | .none => (false, false)

/-- Requests whose results a debugger's write cancels: loads and atomics (R195); the denied mask of a multicast is none. -/
def Req.cancels (q : Req) (gang : Nat) : Bool :=
  q.gang == gang && !(match q.kind with
    | .tbl => true
    | .stmc => true
    | .stred => true
    | _ => false)

/-- The lanes of a result that are still to land. -/
def Req.waiting (q : Req) : Mask :=
  match q.kind with
  | .uld => 1
  | .atom => q.lanes
  | _ => q.lanes &&& ~~~q.lanesDone

/-- Cancels lanes in the first, the second register, or neither. -/
def cancelIn (c : Mask × Mask) (names : Bool × Bool) (lanes : Mask) : Mask × Mask :=
  (if names.1 then c.1 ||| lanes else c.1, if names.2 then c.2 ||| lanes else c.2)

/-- A register of a gang is written: 0 to 111 V, 112 to 119 T, 120 to 127 P, 128 to 189 G, 192 to 199 Q. -/
def Gang.debugSet (g : Gang) (reg : Nat) (lanes : Mask) (value : DWord) : Gang :=
  let row : Row := List.replicate 32 (value.setWidth 32)
  if reg < 112 then g.land .general (.v reg lanes row)
  else if reg < 120 then g.land .general (.t (reg - 112) lanes row)
  else if reg < 128 then g.land .general (.p (reg - 120) lanes (if value.getLsbD 0 then 0xFFFFFFFF else 0))
  else if reg < 190 then g.land .general (.g (reg - 128) value)
  else if 192 ≤ reg ∧ reg < 200 then g.land .general (.q (reg - 192) (value.getLsbD 0))
  else g

/-- DEBUG_REG_WRITE: the register of a stopped gang takes the value in the lanes written, and every pending result to it is cancelled
there; CANCEL says whether there was one. A uniform register's lane is 0. -/
def execDebugRegWrite (gang : Nat) (reg : BitVec 8) (lanes : Mask) (value : DWord) (s : State) : Host.Outcome State Fault Refusal :=
  match s.gang? gang with
  | none => .next s
  | some g0 =>
    if !g0.stopped then .next s
    else
      let n := reg.toNat
      let m : Mask := if n < 128 then lanes else 1
      let hit := fun (names : Bool × Bool) (pending : Mask) => (names.1 || names.2) && pending &&& m != 0
      let cancelled :=
        s.mem.reqs.any (fun r => r.2.cancels gang && hit (r.2.dest.names n) r.2.waiting) ||
        s.work.sfu.any (fun q => q.2.any (fun o => o.gang == gang && hit (ldstNames o.d n) o.lanes))
      let s1 := s.setGang gang ((g0.settle (s.clk.now + 1000)).debugSet n lanes value)
      .next { s1 with
        mem := { s1.mem with reqs := s1.mem.reqs.map (fun (r : Nat × Req) =>
          if r.2.cancels gang then (r.1, { r.2 with cancel := cancelIn r.2.cancel (r.2.dest.names n) m }) else r) }
        work := { s1.work with sfu := s1.work.sfu.map (fun (q : Nat × List SfuOp) => (q.1, q.2.map (fun (o : SfuOp) =>
          if o.gang = gang then { o with cancel := cancelIn o.cancel (ldstNames o.d n) m } else o))) }
        adm := { s1.adm with dbgStatus := some cancelled } }

/-- DEBUG_BREAKPOINT: the gang of the lane takes a debug stop, a stop with a full save (R139, R194). -/
def execDebugBreakpoint (gang : Nat) (_addr : DWord) (s : State) : Host.Outcome State Fault Refusal :=
  .next (s.modGang gang (fun g => match g.stop with
    | .run => { g with stop := .asked 0 }
    | .asking _ | .asked _ => { g with stop := .asked 0 }
    | _ => g))

/-- An instruction of the `n` from an address on stands at `addr`. -/
def State.runHolds (s : State) (g : Gang) (ctx : Nat) (addr : DWord) : Nat → DWord → Bool
  | 0, _ => false
  | n + 1, pc => pc == addr || (match s.fetchInstr g ctx pc with
    | .ok (.ok (_, len, _)) => s.runHolds g ctx addr n (pc + BitVec.ofNat 64 (4 * len))
    | _ => false)

/-- A path of a gang stands at an address, or at the header of a run that contains it (R194). -/
def State.atBreak (s : State) (g : Gang) (p : Path) (addr : DWord) : Bool :=
  p.run.isNone && (p.pc == addr || (match s.nextOf g p with
    | .instr (.runb n _ _) _ _ => s.runHolds g (s.ctxOf g) addr (n.toNat + 1) (p.pc + 4)
    | _ => false))

/-- A breakpoint looks at the path of its lane, wherever regrouping has taken the lane. -/
def State.breakTick (s : State) (i : Nat) : State :=
  match s.adm.breaks[i]? with
  | none => s
  | some b =>
    let found := s.work.gangs.find? (fun g => g.2.cluster == b.cluster && g.2.core.isNone && s.resident g.2 &&
      ((s.team? g.2.team).map Team.teamid) == some b.teamid && g.2.lanes.any (fun l => (l.map Lane.tlid) == some b.tlid))
    let set := fun (s : State) (h : Bool) => { s with adm := { s.adm with breaks := lset s.adm.breaks i { b with hit := h } } }
    match found with
    | none => s
    | some (k, g) =>
      let slot := g.lanes.findIdx (fun l => (l.map Lane.tlid) == some b.tlid)
      match g.paths.find? (fun p => p.lanes.has slot) with
      | none => s
      | some p =>
        if s.atBreak g p b.addr then
          (if b.hit then s
            else
              let s1 := (set s true).sched s.clk.now (.debugBreakpoint k b.addr) 0
              s1.modGang k (fun g => { g with paths := g.paths.map (fun y => if y.lanes = p.lanes then { y with hold := max y.hold (s.clk.now + 1) } else y) }))
        else if b.hit then set s false else s

/-! ## Unassigned encodings (R189, R370) -/

/-- UNASSIGNED_ENCODING: a word that no encoding assigns, or one whose zero fields are not zero, traps. -/
def execUnassignedEncoding (rsv : Bool) (s : State) : Host.Outcome State Fault Refusal :=
  s.issue fun x => s.trap x.k x.path.lanes x.pc (if rsv then 0x0002 else 0x0001)

/-! ## The census (R274 to R276) -/

/-- CENSUS_START: the range table is read, and the context's clusters count from now on. -/
def execCensusStart (s : State) : Host.Outcome State Fault Refusal :=
  s.service fun k _ ctx a =>
    if (mget ctx s.adm.census).isSome then s.fwEnd k 6 []
    else s.fwBuffer k ctx .censusStart false (a 1) 256 fun s1 =>
      match s1.vread ctx (BitVec.ofNat 64 (a 1)) 256 with
      | .error _ => s.fwEnd k 1 []
      | .ok bs =>
        let word := fun (i : Nat) => BitVec.ofNat 64 (ofBytes ((bs.drop (8 * i)).take 8))
        let c : Census := ⟨(List.range 16).map (fun i => (word (2 * i), word (2 * i + 1))), s.clk.now, []⟩
        ({ s1 with adm := { s1.adm with census := mput ctx c s1.adm.census } }).fwEnd k 0 []

/-- The 1,024 bytes of a cluster: its counts, with every lane that has had no turn counted as Idle in bin 16. -/
def censusBytes (c : Census) (cl now : Nat) : List Byte :=
  let at_ := fun (bin state : Nat) => mgetD 0 (128 * (17 * cl + bin) + state) c.counts
  let others := (List.range 17).foldl (fun n b => (List.range 4).foldl (fun n t => n + at_ b t) n) 0
  (List.range 17).flatMap (fun b => (List.range 5).flatMap (fun t =>
    toBytes 8 (if t = 4 then (if b = 16 then 128 * (now - c.start) - others else 0) else at_ b t))) ++ List.replicate 344 0

/-- CENSUS_STOP: the counts of the partition's clusters are written, zero for every other cluster. -/
def execCensusStop (s : State) : Host.Outcome State Fault Refusal :=
  s.service fun k _ ctx a =>
    match mget ctx s.adm.census with
    | none => s.fwEnd k 6 []
    | some c => s.fwBuffer k ctx .censusStop true (a 2) (136 * 1024) fun s1 =>
        let mine := s1.partClusters (s1.partOf ctx)
        let bytes := (List.range 136).flatMap (fun cl => if mine.contains cl then censusBytes c cl s.clk.now else List.replicate 1024 0)
        let s2 := (s1.vwrite ctx (BitVec.ofNat 64 (a 2)) bytes).1
        ({ s2 with adm := { s2.adm with census := mdel ctx s2.adm.census } }).fwEnd k 0 []

/-! ## Sampled loads (R277, R278) -/

/-- SAMPLE_ON: the context's loads are sampled from now on. -/
def execSampleOn (s : State) : Host.Outcome State Fault Refusal :=
  s.service fun k _ ctx a =>
    if a 2 % 64 ≠ 0 ∨ a 3 < 6 ∨ 16 < a 3 then s.fwEnd k 1 []
    else s.fwBuffer k ctx .sampleOn true (a 2) (64 * 2 ^ a 3) fun s1 => s1.fwBuffer k ctx .sampleOn true (a 4) 8 fun s2 =>
          let x : Sample := ⟨a 1, BitVec.ofNat 64 (a 2), a 3, BitVec.ofNat 64 (a 4), [], 0, []⟩
          ({ s2 with adm := { s2.adm with samples := mput ctx x s2.adm.samples } }).fwEnd k 0 []

/-- SAMPLE_OFF: the context's loads are no longer sampled. -/
def execSampleOff (s : State) : Host.Outcome State Fault Refusal :=
  s.service fun k _ ctx _ => ({ s with adm := { s.adm with samples := mdel ctx s.adm.samples } }).fwEnd k 0 []

/-! ## Record and replay (R281 to R283, R289 to R291) -/

/-- The header of a session buffer meets R282: its zero fields are zero, its areas lie within its bytes and do not overlap. -/
def headerOk (h : List Byte) (size : Nat) : Bool :=
  let num := fun (o n : Nat) => ofBytes ((h.drop o).take n)
  let areas := [(0, 0x8080), (num 8 8, 16 * num 0x14 4), (num 0x18 8, 16 * num 0x20 4)]
  num 2 2 == 0 && num 0x24 4 == 0 && num 0x38 8 == 0 && areas.all (fun x => decide (x.1 + x.2 ≤ size)) &&
  (List.range 3).all (fun i => (List.range 3).all (fun j => i == j || (match areas[i]?, areas[j]? with
    | some x, some y => decide (x.2 = 0 ∨ y.2 = 0 ∨ x.1 + x.2 ≤ y.1 ∨ y.1 + y.2 ≤ x.1)
    | _, _ => true)))

/-- A session of a context begins: every byte of its buffer must be readable and writable. -/
def State.sessStart (s : State) (replay : Bool) (k ctx : Nat) (a : Nat → Nat) : State :=
  if (mget ctx s.adm.sess).isSome then s.fwEnd k 6 []
  else if a 4 / 2 ≠ 0 ∨ a 3 < 0x8080 then s.fwEnd k 1 []
  else
    let ev := if replay then Instr.recsessReplay else .recsessRecord
    s.fwBuffer k ctx ev false (a 2) (a 3) fun s1 => s1.fwBuffer k ctx ev true (a 2) (a 3) fun s2 =>
        let buf := BitVec.ofNat 64 (a 2)
        match s2.vread ctx buf 128 with
        | .error _ => s.fwEnd k 1 []
        | .ok h =>
          if !headerOk h (a 3) then s.fwEnd k 1 []
          else
            let num := fun (o n : Nat) => ofBytes ((h.drop o).take n)
            let w := fun (s : State) (o : Nat) (bs : List Byte) => (s.vwrite ctx (buf + BitVec.ofNat 64 o) bs).1
            let s3 := w s2 0 [if replay then 2 else 1, 0]
            let s4 := w s3 0x40 (List.replicate 64 0)
            let s5 := if replay then s4
              else w (w (w (w s4 4 (List.replicate 4 0)) 0x10 (List.replicate 4 0)) 0x28 (List.replicate 16 0)) 0x80 (List.replicate 32768 0)
            let (serial, s6) := s5.takeFresh
            let x : Sess := {
              serial := serial, replay := replay, buf := buf, size := a 3, stopdiv := a 4 % 2 == 1
              hoff := num 8 8, hmax := num 0x14 4, loff := num 0x18 8, lwords := num 0x20 4
              nlaunch := 0, ngang := 0, hcnt := 0, lcnt := [0, 0, 0, 0], ids := [], seqs := []
              last := List.replicate 4 (0xFFFF, 0), word := [0, 0, 0, 0], left := [0, 0, 0, 0], moved := List.replicate 4 s.clk.now
              full := false, diverged := false, late := [] }
            ({ s6 with adm := { s6.adm with sess := mput ctx x s6.adm.sess } }).fwEnd k 0 []

def execRecsessRecord (s : State) : Host.Outcome State Fault Refusal := s.service fun k _ ctx a => s.sessStart false k ctx a
def execRecsessReplay (s : State) : Host.Outcome State Fault Refusal := s.service fun k _ ctx a => s.sessStart true k ctx a

/-- RECSESS_END: STATE becomes ended, the gates open and wake what waits at them; the call returns, and the session is over, once every
write of the session has performed (`b` 2, the session `c`) and completed at SYS scope (`b` 1). -/
def execRecsessEnd (s : State) : Host.Outcome State Fault Refusal :=
  s.service fun k _ ctx a =>
    match mget ctx s.adm.sess with
    | none => s.fwEnd k (if s.clk.subj.b = 0 then 6 else 0) []
    | some x =>
      if s.clk.subj.b = 1 then
        (if x.serial = s.clk.subj.c then ({ s with adm := { s.adm with sess := mdel ctx s.adm.sess } }).fwEnd k 0 [] else s.fwEnd k 0 [])
      else if s.clk.subj.b = 2 then s.sched (s.writeTime ctx x.buf x.size) .recsessEnd k 1 s.clk.subj.c
      else if a 4 / 2 ≠ 0 then s.fwEnd k 1 []
      else
        let s1 := if x.full || x.diverged then s else s.sessPut ctx (((s.gang? k).map Gang.die).getD 0) (x.buf + 1) [1]
        let s2 := (s1.modSess ctx (fun x => { x with full := true, diverged := false })).wakeWhere (fun _ q p => q.ctx == ctx && (match p.st with
          | .cistern 0x0305 _ _ => true
          | _ => false))
        let arrived := (((mget ctx s2.adm.sess).map (fun y => y.late.map (fun w => w.1))).getD []).foldl max s.clk.now
        s2.sched (arrived + 1) .recsessEnd k 2 x.serial

end Sys2Proof.Machine
end

