-- ==== Sys2Proof/Machine/Dispatch.lean ====
section
/-! DEFINITION. What each instruction and event does: one arm for each constructor of `Instr`. -/

namespace Sys2Proof.Machine

/-- The meaning of an instruction or event. -/
def exec (i : Instr) (s : State) : Host.Outcome State Fault Refusal :=
  match i with
  | .nop p => Sys2Proof.Machine.execNop p s
  | .sreg p d sr => Sys2Proof.Machine.execSreg p d sr s
  | .lbr p ofs => Sys2Proof.Machine.execLbr p ofs s
  | .lexit p => Sys2Proof.Machine.execLexit p s
  | .lbrRg p ofs liveG liveQ => Sys2Proof.Machine.execLbrRg p ofs liveG liveQ s
  | .iadd p d a b => Sys2Proof.Machine.execIadd p d a b s
  | .isub p d a b => Sys2Proof.Machine.execIsub p d a b s
  | .imul p d a b => Sys2Proof.Machine.execImul p d a b s
  | .and p d a b => Sys2Proof.Machine.execAnd p d a b s
  | .or p d a b => Sys2Proof.Machine.execOr p d a b s
  | .xor p d a b => Sys2Proof.Machine.execXor p d a b s
  | .shl p d a b => Sys2Proof.Machine.execShl p d a b s
  | .shrN32 p d a b => Sys2Proof.Machine.execShrN32 p d a b s
  | .shrI32 p d a b => Sys2Proof.Machine.execShrI32 p d a b s
  | .iminI32 p d a b => Sys2Proof.Machine.execIminI32 p d a b s
  | .imaxI32 p d a b => Sys2Proof.Machine.execImaxI32 p d a b s
  | .iminN32 p d a b => Sys2Proof.Machine.execIminN32 p d a b s
  | .imaxN32 p d a b => Sys2Proof.Machine.execImaxN32 p d a b s
  | .icmp p cc pd a b => Sys2Proof.Machine.execIcmp p cc pd a b s
  | .fcmpF32 p cc pd a b => Sys2Proof.Machine.execFcmpF32 p cc pd a b s
  | .faddF32 p d a b => Sys2Proof.Machine.execFaddF32 p d a b s
  | .fsubF32 p d a b => Sys2Proof.Machine.execFsubF32 p d a b s
  | .fmulF32 p d a b => Sys2Proof.Machine.execFmulF32 p d a b s
  | .ffmaF32 p d a b => Sys2Proof.Machine.execFfmaF32 p d a b s
  | .fminF32 p d a b => Sys2Proof.Machine.execFminF32 p d a b s
  | .fmaxF32 p d a b => Sys2Proof.Machine.execFmaxF32 p d a b s
  | .fminnF32 p d a b => Sys2Proof.Machine.execFminnF32 p d a b s
  | .fmaxnF32 p d a b => Sys2Proof.Machine.execFmaxnF32 p d a b s
  | .faddF64 p d a b => Sys2Proof.Machine.execFaddF64 p d a b s
  | .fmulF64 p d a b => Sys2Proof.Machine.execFmulF64 p d a b s
  | .ffmaF64 p d a b => Sys2Proof.Machine.execFfmaF64 p d a b s
  | .faddBf16X2 p d a b => Sys2Proof.Machine.execFaddBf16X2 p d a b s
  | .fmulBf16X2 p d a b => Sys2Proof.Machine.execFmulBf16X2 p d a b s
  | .ffmaBf16X2 p d a b => Sys2Proof.Machine.execFfmaBf16X2 p d a b s
  | .faddF16X2 p d a b => Sys2Proof.Machine.execFaddF16X2 p d a b s
  | .fmulF16X2 p d a b => Sys2Proof.Machine.execFmulF16X2 p d a b s
  | .redux p op ty d a => Sys2Proof.Machine.execRedux p op ty d a s
  | .shfl p d a b => Sys2Proof.Machine.execShfl p d a b s
  | .recipF32 p d a => Sys2Proof.Machine.execRecipF32 p d a s
  | .rrootF32 p d a => Sys2Proof.Machine.execRrootF32 p d a s
  | .rootF32 p d a => Sys2Proof.Machine.execRootF32 p d a s
  | .pow2F32 p d a => Sys2Proof.Machine.execPow2F32 p d a s
  | .log2F32 p d a => Sys2Proof.Machine.execLog2F32 p d a s
  | .sineF32 p d a => Sys2Proof.Machine.execSineF32 p d a s
  | .cosineF32 p d a => Sys2Proof.Machine.execCosineF32 p d a s
  | .htanF32 p d a => Sys2Proof.Machine.execHtanF32 p d a s
  | .recipF64 p d a => Sys2Proof.Machine.execRecipF64 p d a s
  | .rrootF64 p d a => Sys2Proof.Machine.execRrootF64 p d a s
  | .rootF64 p d a => Sys2Proof.Machine.execRootF64 p d a s
  | .mov p d a => Sys2Proof.Machine.execMov p d a s
  | .ld p d m => Sys2Proof.Machine.execLd p d m s
  | .st p a_ m => Sys2Proof.Machine.execSt p a_ m s
  | .lds p d m => Sys2Proof.Machine.execLds p d m s
  | .sts p a_ m => Sys2Proof.Machine.execSts p a_ m s
  | .atom p op d base a_ => Sys2Proof.Machine.execAtom p op d base a_ s
  | .atomNoret p op base a_ => Sys2Proof.Machine.execAtomNoret p op base a_ s
  | .iaddLong p ty sat d a b => Sys2Proof.Machine.execIaddLong p ty sat d a b s
  | .isubLong p ty sat d a b => Sys2Proof.Machine.execIsubLong p ty sat d a b s
  | .imulLong p ty sat d a b => Sys2Proof.Machine.execImulLong p ty sat d a b s
  | .imulhi p ty d a b => Sys2Proof.Machine.execImulhi p ty d a b s
  | .imad p ty sat d a b c => Sys2Proof.Machine.execImad p ty sat d a b c s
  | .andLong p ty d a b => Sys2Proof.Machine.execAndLong p ty d a b s
  | .orLong p ty d a b => Sys2Proof.Machine.execOrLong p ty d a b s
  | .xorLong p ty d a b => Sys2Proof.Machine.execXorLong p ty d a b s
  | .andn p ty d a b => Sys2Proof.Machine.execAndn p ty d a b s
  | .not p ty d a => Sys2Proof.Machine.execNot p ty d a s
  | .shlLong p ty d a b => Sys2Proof.Machine.execShlLong p ty d a b s
  | .shrLong p ty d a b => Sys2Proof.Machine.execShrLong p ty d a b s
  | .iminLong p ty d a b => Sys2Proof.Machine.execIminLong p ty d a b s
  | .imaxLong p ty d a b => Sys2Proof.Machine.execImaxLong p ty d a b s
  | .iabs p ty sat d a => Sys2Proof.Machine.execIabs p ty sat d a s
  | .ineg p ty sat d a => Sys2Proof.Machine.execIneg p ty sat d a s
  | .popc p ty d a => Sys2Proof.Machine.execPopc p ty d a s
  | .clz p ty d a => Sys2Proof.Machine.execClz p ty d a s
  | .bitrev p ty d a => Sys2Proof.Machine.execBitrev p ty d a s
  | .xfld p ty d a b => Sys2Proof.Machine.execXfld p ty d a b s
  | .ifld p ty d a b c => Sys2Proof.Machine.execIfld p ty d a b c s
  | .icmpLong p ty cc pd a b => Sys2Proof.Machine.execIcmpLong p ty cc pd a b s
  | .sel p ty ps pn d a b => Sys2Proof.Machine.execSel p ty ps pn d a b s
  | .movLong p ty d a => Sys2Proof.Machine.execMovLong p ty d a s
  | .faddLong p ty rm ftz d a b => Sys2Proof.Machine.execFaddLong p ty rm ftz d a b s
  | .fsubLong p ty rm ftz d a b => Sys2Proof.Machine.execFsubLong p ty rm ftz d a b s
  | .fmulLong p ty rm ftz d a b => Sys2Proof.Machine.execFmulLong p ty rm ftz d a b s
  | .ffmaLong p ty rm ftz d a b c => Sys2Proof.Machine.execFfmaLong p ty rm ftz d a b c s
  | .fminLong p ty ftz d a b => Sys2Proof.Machine.execFminLong p ty ftz d a b s
  | .fmaxLong p ty ftz d a b => Sys2Proof.Machine.execFmaxLong p ty ftz d a b s
  | .fminnLong p ty ftz d a b => Sys2Proof.Machine.execFminnLong p ty ftz d a b s
  | .fmaxnLong p ty ftz d a b => Sys2Proof.Machine.execFmaxnLong p ty ftz d a b s
  | .fabs p ty d a => Sys2Proof.Machine.execFabs p ty d a s
  | .fneg p ty d a => Sys2Proof.Machine.execFneg p ty d a s
  | .fcmpLong p f64 cc ftz pd a b => Sys2Proof.Machine.execFcmpLong p f64 cc ftz pd a b s
  | .fclass p ty ftz d a => Sys2Proof.Machine.execFclass p ty ftz d a s
  | .cvt p dty sty rm ftz sat d a b => Sys2Proof.Machine.execCvt p dty sty rm ftz sat d a b s
  | .qblk p ty rm d a b => Sys2Proof.Machine.execQblk p ty rm d a b s
  | .qblks p ty rm sat d a b c => Sys2Proof.Machine.execQblks p ty rm sat d a b c s
  | .dqblk p ty rm ftz d a b => Sys2Proof.Machine.execDqblk p ty rm ftz d a b s
  | .shflLong p bytlid ty d a b pd => Sys2Proof.Machine.execShflLong p bytlid ty d a b pd s
  | .ldLong p sz acq nl1 d m => Sys2Proof.Machine.execLdLong p sz acq nl1 d m s
  | .stLong p sz rel a_ m => Sys2Proof.Machine.execStLong p sz rel a_ m s
  | .ldsLong p sz acq d m => Sys2Proof.Machine.execLdsLong p sz acq d m s
  | .stsLong p sz rel a_ m => Sys2Proof.Machine.execStsLong p sz rel a_ m s
  | .atomLong p op sz ord d m a_ => Sys2Proof.Machine.execAtomLong p op sz ord d m a_ s
  | .atoms p op sz d m a_ => Sys2Proof.Machine.execAtoms p op sz d m a_ s
  | .pref p slice m => Sys2Proof.Machine.execPref p slice m s
  | .dset p a_ m => Sys2Proof.Machine.execDset p a_ m s
  | .dget p d m => Sys2Proof.Machine.execDget p d m s
  | .stmc p sz rel a_ m gm => Sys2Proof.Machine.execStmc p sz rel a_ m gm s
  | .stred p op sz rel a_ m gm => Sys2Proof.Machine.execStred p op sz rel a_ m gm s
  | .runb n va k => Sys2Proof.Machine.execRunb n va k s
  | .rune va k => Sys2Proof.Machine.execRune va k s
  | .waitc p a b c d => Sys2Proof.Machine.execWaitc p a b c d s
  | .bartm p => Sys2Proof.Machine.execBartm p s
  | .fence p kind scope => Sys2Proof.Machine.execFence p kind scope s
  | .exit p => Sys2Proof.Machine.execExit p s
  | .bra p ofs => Sys2Proof.Machine.execBra p ofs s
  | .braq p pl all ofs => Sys2Proof.Machine.execBraq p pl all ofs s
  | .call p d ofs => Sys2Proof.Machine.execCall p d ofs s
  | .ret p a => Sys2Proof.Machine.execRet p a s
  | .jmpg p a => Sys2Proof.Machine.execJmpg p a s
  | .trap p ret => Sys2Proof.Machine.execTrap p ret s
  | .bkpt p tag => Sys2Proof.Machine.execBkpt p tag s
  | .fwcall p svc => Sys2Proof.Machine.execFwcall p svc s
  | .gadd p d a b => Sys2Proof.Machine.execGadd p d a b s
  | .gsub p d a b => Sys2Proof.Machine.execGsub p d a b s
  | .gmul p d a b => Sys2Proof.Machine.execGmul p d a b s
  | .gmulhiN64 p d a b => Sys2Proof.Machine.execGmulhiN64 p d a b s
  | .gmulhiI64 p d a b => Sys2Proof.Machine.execGmulhiI64 p d a b s
  | .gand p d a b => Sys2Proof.Machine.execGand p d a b s
  | .gor p d a b => Sys2Proof.Machine.execGor p d a b s
  | .gxor p d a b => Sys2Proof.Machine.execGxor p d a b s
  | .gandn p d a b => Sys2Proof.Machine.execGandn p d a b s
  | .gnot p d a => Sys2Proof.Machine.execGnot p d a s
  | .gpopc p d a => Sys2Proof.Machine.execGpopc p d a s
  | .gclz p d a => Sys2Proof.Machine.execGclz p d a s
  | .gshl p d a b => Sys2Proof.Machine.execGshl p d a b s
  | .gshr p d a b => Sys2Proof.Machine.execGshr p d a b s
  | .gsar p d a b => Sys2Proof.Machine.execGsar p d a b s
  | .grotl p d a b => Sys2Proof.Machine.execGrotl p d a b s
  | .gminI64 p d a b => Sys2Proof.Machine.execGminI64 p d a b s
  | .gmaxI64 p d a b => Sys2Proof.Machine.execGmaxI64 p d a b s
  | .gminN64 p d a b => Sys2Proof.Machine.execGminN64 p d a b s
  | .gmaxN64 p d a b => Sys2Proof.Machine.execGmaxN64 p d a b s
  | .gmov p d a => Sys2Proof.Machine.execGmov p d a s
  | .gmovN32 p d a => Sys2Proof.Machine.execGmovN32 p d a s
  | .gmovI32 p d a => Sys2Proof.Machine.execGmovI32 p d a s
  | .gcmp p cc lo qd a b => Sys2Proof.Machine.execGcmp p cc lo qd a b s
  | .gsel p f d a b => Sys2Proof.Machine.execGsel p f d a b s
  | .qand p qd qa na qb nb => Sys2Proof.Machine.execQand p qd qa na qb nb s
  | .qor p qd qa na qb nb => Sys2Proof.Machine.execQor p qd qa na qb nb s
  | .qxor p qd qa na qb nb => Sys2Proof.Machine.execQxor p qd qa na qb nb s
  | .sregUniform p d sr => Sys2Proof.Machine.execSregUniform p d sr s
  | .sregw p sr a => Sys2Proof.Machine.execSregw p sr a s
  | .vtog p m d v x => Sys2Proof.Machine.execVtog p m d v x s
  | .gtov p pair v g => Sys2Proof.Machine.execGtov p pair v g s
  | .vote p m d pl => Sys2Proof.Machine.execVote p m d pl s
  | .pmark p => Sys2Proof.Machine.execPmark p s
  | .ldUniform p sz d b off => Sys2Proof.Machine.execLdUniform p sz d b off s
  | .stUniform p sz a_ b off => Sys2Proof.Machine.execStUniform p sz a_ b off s
  | .qsend p space qd a b => Sys2Proof.Machine.execQsend p space qd a b s
  | .flinit p a nslot1 slotb1 => Sys2Proof.Machine.execFlinit p a nslot1 slotb1 s
  | .flacq p d a => Sys2Proof.Machine.execFlacq p d a s
  | .flrel p a => Sys2Proof.Machine.execFlrel p a s
  | .boarm p a b => Sys2Proof.Machine.execBoarm p a b s
  | .bowait p a => Sys2Proof.Machine.execBowait p a s
  | .mres p qd => Sys2Proof.Machine.execMres p qd s
  | .mrel p => Sys2Proof.Machine.execMrel p s
  | .mmaq p a => Sys2Proof.Machine.execMmaq p a s
  | .mdelta p a => Sys2Proof.Machine.execMdelta p a s
  | .mdrain p a => Sys2Proof.Machine.execMdrain p a s
  | .mzero p tile st => Sys2Proof.Machine.execMzero p tile st s
  | .mstat p d => Sys2Proof.Machine.execMstat p d s
  | .rsvinv p a => Sys2Proof.Machine.execRsvinv p a s
  | .rsvinvClear p a => Sys2Proof.Machine.execRsvinvClear p a s
  | .rsvq p a b => Sys2Proof.Machine.execRsvq p a b s
  | .copyt p d a b => Sys2Proof.Machine.execCopyt p d a b s
  | .kick p d a => Sys2Proof.Machine.execKick p d a s
  | .tdload p d a => Sys2Proof.Machine.execTdload p d a s
  | .tasksub p space qd a => Sys2Proof.Machine.execTasksub p space qd a s
  | .taskdone p => Sys2Proof.Machine.execTaskdone p s
  | .fapp p g v => Sys2Proof.Machine.execFapp p g v s
  | .ftake p g v pd => Sys2Proof.Machine.execFtake p g v pd s
  | .dryw p a => Sys2Proof.Machine.execDryw p a s
  | .topen p qd a => Sys2Proof.Machine.execTopen p qd a s
  | .trival p qd a => Sys2Proof.Machine.execTrival p qd a s
  | .tscore p qd => Sys2Proof.Machine.execTscore p qd s
  | .tstat p qd b => Sys2Proof.Machine.execTstat p qd b s
  | .tclose p qd => Sys2Proof.Machine.execTclose p qd s
  | .tcloseAbort p qd => Sys2Proof.Machine.execTcloseAbort p qd s
  | .spgrow p qd => Sys2Proof.Machine.execSpgrow p qd s
  | .rgive p qd => Sys2Proof.Machine.execRgive p qd s
  | .rclaim p qd => Sys2Proof.Machine.execRclaim p qd s
  | .portLinkUp port => Sys2Proof.Machine.execPortLinkUp port s
  | .portLinkDown port => Sys2Proof.Machine.execPortLinkDown port s
  | .connectionFailure conn => Sys2Proof.Machine.execConnectionFailure conn s
  | .connectionAuth conn port key => Sys2Proof.Machine.execConnectionAuth conn port key s
  | .uudPacket port => Sys2Proof.Machine.execUudPacket port s
  | .flowControlFrame port => Sys2Proof.Machine.execFlowControlFrame port s
  | .oversizePacket port => Sys2Proof.Machine.execOversizePacket port s
  | .rmaWrite conn addr data => Sys2Proof.Machine.execRmaWrite conn addr data s
  | .rmaRead conn addr len => Sys2Proof.Machine.execRmaRead conn addr len s
  | .peerDown ctx peer => Sys2Proof.Machine.execPeerDown ctx peer s
  | .meshLinkRetry link => Sys2Proof.Machine.execMeshLinkRetry link s
  | .meshLinkFatal link => Sys2Proof.Machine.execMeshLinkFatal link s
  | .syncMessage offset => Sys2Proof.Machine.execSyncMessage offset s
  | .powerStep watts => Sys2Proof.Machine.execPowerStep watts s
  | .tempThrottle die => Sys2Proof.Machine.execTempThrottle die s
  | .monitorFatal die => Sys2Proof.Machine.execMonitorFatal die s
  | .wakeMessage conn qid widx => Sys2Proof.Machine.execWakeMessage conn qid widx s
  | .lightFault ctx va write => Sys2Proof.Machine.execLightFault ctx va write s
  | .strikeReport die cluster => Sys2Proof.Machine.execStrikeReport die cluster s
  | .debugRegWrite gang reg lanes value => Sys2Proof.Machine.execDebugRegWrite gang reg lanes value s
  | .debugBreakpoint gang addr => Sys2Proof.Machine.execDebugBreakpoint gang addr s
  | .unassignedEncoding rsv => Sys2Proof.Machine.execUnassignedEncoding rsv s
  | .rmaAtomic conn addr op sz data cmp => Sys2Proof.Machine.execRmaAtomic conn addr op sz data cmp s
  | .moduleReset => Sys2Proof.Machine.execModuleReset s
  | .syncTimeout => Sys2Proof.Machine.execSyncTimeout s
  | .entryRead => Sys2Proof.Machine.execEntryRead s
  | .entryReread => Sys2Proof.Machine.execEntryReread s
  | .mirrorWrite => Sys2Proof.Machine.execMirrorWrite s
  | .commandBounce => Sys2Proof.Machine.execCommandBounce s
  | .commandRestart => Sys2Proof.Machine.execCommandRestart s
  | .launch => Sys2Proof.Machine.execLaunch s
  | .launchComplete => Sys2Proof.Machine.execLaunchComplete s
  | .task => Sys2Proof.Machine.execTask s
  | .copy => Sys2Proof.Machine.execCopy s
  | .signalStore => Sys2Proof.Machine.execSignalStore s
  | .signalAdd => Sys2Proof.Machine.execSignalAdd s
  | .wait => Sys2Proof.Machine.execWait s
  | .waitTimeout => Sys2Proof.Machine.execWaitTimeout s
  | .mapInstall => Sys2Proof.Machine.execMapInstall s
  | .mapRemove => Sys2Proof.Machine.execMapRemove s
  | .mapGiveToHost => Sys2Proof.Machine.execMapGiveToHost s
  | .mapTakeFromHost => Sys2Proof.Machine.execMapTakeFromHost s
  | .mgmtUnassigned => Sys2Proof.Machine.execMgmtUnassigned s
  | .status => Sys2Proof.Machine.execStatus s
  | .monitors => Sys2Proof.Machine.execMonitors s
  | .qcreate => Sys2Proof.Machine.execQcreate s
  | .qdestroy => Sys2Proof.Machine.execQdestroy s
  | .ctxbind => Sys2Proof.Machine.execCtxbind s
  | .ctxreset => Sys2Proof.Machine.execCtxreset s
  | .flashwrite => Sys2Proof.Machine.execFlashwrite s
  | .flashverify => Sys2Proof.Machine.execFlashverify s
  | .attest => Sys2Proof.Machine.execAttest s
  | .modreset => Sys2Proof.Machine.execModreset s
  | .migrationPullDone => Sys2Proof.Machine.execMigrationPullDone s
  | .migrationPullFail => Sys2Proof.Machine.execMigrationPullFail s
  | .walkComplete => Sys2Proof.Machine.execWalkComplete s
  | .sluiceBounce => Sys2Proof.Machine.execSluiceBounce s
  | .cisternWake => Sys2Proof.Machine.execCisternWake s
  | .reissue => Sys2Proof.Machine.execReissue s
  | .requestAccept => Sys2Proof.Machine.execRequestAccept s
  | .loadComplete => Sys2Proof.Machine.execLoadComplete s
  | .storeAck => Sys2Proof.Machine.execStoreAck s
  | .scratchpadPerform => Sys2Proof.Machine.execScratchpadPerform s
  | .leaseExpiry => Sys2Proof.Machine.execLeaseExpiry s
  | .fenceResume => Sys2Proof.Machine.execFenceResume s
  | .sfuResult => Sys2Proof.Machine.execSfuResult s
  | .fetchWake => Sys2Proof.Machine.execFetchWake s
  | .teamPlace => Sys2Proof.Machine.execTeamPlace s
  | .stealRequest => Sys2Proof.Machine.execStealRequest s
  | .stealAnswer => Sys2Proof.Machine.execStealAnswer s
  | .priorityAging => Sys2Proof.Machine.execPriorityAging s
  | .preempt => Sys2Proof.Machine.execPreempt s
  | .stopTimeout => Sys2Proof.Machine.execStopTimeout s
  | .estivate => Sys2Proof.Machine.execEstivate s
  | .teamResume => Sys2Proof.Machine.execTeamResume s
  | .taskDispatch => Sys2Proof.Machine.execTaskDispatch s
  | .taskComplete => Sys2Proof.Machine.execTaskComplete s
  | .compaction => Sys2Proof.Machine.execCompaction s
  | .regroupWindowEnd => Sys2Proof.Machine.execRegroupWindowEnd s
  | .droughtSweep => Sys2Proof.Machine.execDroughtSweep s
  | .allowanceReached => Sys2Proof.Machine.execAllowanceReached s
  | .roundEnd => Sys2Proof.Machine.execRoundEnd s
  | .groupRelease => Sys2Proof.Machine.execGroupRelease s
  | .retentionEntry => Sys2Proof.Machine.execRetentionEntry s
  | .retentionExitDone => Sys2Proof.Machine.execRetentionExitDone s
  | .replayStall => Sys2Proof.Machine.execReplayStall s
  | .matrixOpComplete => Sys2Proof.Machine.execMatrixOpComplete s
  | .copyComplete => Sys2Proof.Machine.execCopyComplete s
  | .mapins => Sys2Proof.Machine.execMapins s
  | .maprem => Sys2Proof.Machine.execMaprem s
  | .mapget => Sys2Proof.Machine.execMapget s
  | .grant => Sys2Proof.Machine.execGrant s
  | .peerbind => Sys2Proof.Machine.execPeerbind s
  | .partset => Sys2Proof.Machine.execPartset s
  | .ctxpart => Sys2Proof.Machine.execCtxpart s
  | .sluiceset => Sys2Proof.Machine.execSluiceset s
  | .sluiceget => Sys2Proof.Machine.execSluiceget s
  | .censusStart => Sys2Proof.Machine.execCensusStart s
  | .censusStop => Sys2Proof.Machine.execCensusStop s
  | .sampleOn => Sys2Proof.Machine.execSampleOn s
  | .sampleOff => Sys2Proof.Machine.execSampleOff s
  | .recsessRecord => Sys2Proof.Machine.execRecsessRecord s
  | .recsessReplay => Sys2Proof.Machine.execRecsessReplay s
  | .recsessEnd => Sys2Proof.Machine.execRecsessEnd s
  | .compactionDone => Sys2Proof.Machine.execCompactionDone s
  | .saveComplete => Sys2Proof.Machine.execSaveComplete s
  | .retentionEntryDone => Sys2Proof.Machine.execRetentionEntryDone s

end Sys2Proof.Machine
end

