-- ==== Sys2Proof/Machine/Poll.lean ====
section
/-! DEFINITION. What is looked at once in each clk, before the issue turns: results that have landed, waits that are over, teams that
end, stop, estivate, wake or are placed, units that take their next operation (R130, R133 to R137, R139, R153, R161, R172, R182, R185,
R188, R190, R215, R230, R235, R246, R253, R317, R329, R382, R385). -/

namespace Sys2Proof.Machine

/-! ## Gangs and paths -/

/-- Does something for every gang, as it stands when its turn comes. -/
def State.eachGang (s : State) (f : State → Nat → Gang → State) : State :=
  s.work.gangs.foldl (fun (st : State) k => match st.gang? k.1 with
    | none => st
    | some g => f st k.1 g) s

/-- Does something for every team. -/
def State.eachTeam (s : State) (f : State → Nat → Team → State) : State :=
  s.work.teams.foldl (fun (st : State) t => match st.team? t.1 with
    | none => st
    | some tm => f st t.1 tm) s

/-- Results that have landed take effect; registers whose results have landed are published no more (R185); lanes at one address join
(R166); a trap that waits is taken when it can be (R190). -/
def State.settleTick (s : State) (k : Nat) (g : Gang) : State :=
  let g1 := (g.settle s.clk.now).dropWrites s.clk.now
  let pending := s.vWaits k g1
  let g2 := { g1 with pub := g1.pub.filter (fun n => pending.contains n) }
  s.setGang k (if g2.trapPend.isSome then g2.tryTrap s.clk.now else g2.merge)

/-- Parts that have not been sent are sent (R462). -/
def State.idleTick (s : State) : State :=
  s.mem.reqs.foldl (fun (s : State) r =>
    (List.range r.2.parts.length).foldl (fun (s : State) b =>
      match ((s.req? r.1).bind (fun q => q.parts[b]?)).map Part.st with
      | some .idle => s.sendPart r.1 b
      | _ => s) s) s

/-- A path that waits for words looks at its page and the next one: its fetches have ended, well or with a cause that fails. -/
def State.fetchOver (s : State) (g : Gang) (p : Path) : Bool :=
  let page := pageOf (ptrVa p.pc)
  !(s.mem.fetches.any (fun f => f.ctx == s.ctxOf g && f.cluster == g.port && (f.page == page || f.page == page + 1) &&
    (f.cause == 0 || bounces f.cause)))

/-- What a path waits for is looked at. -/
def State.waitTick (s : State) (k : Nat) (lanes : Mask) : State :=
  match s.gang? k with
  | none => s
  | some g =>
    match g.path? lanes with
    | none => s
    | some p =>
      match p.wait with
      | .ctr a b c d => if g.ctrOk a b c d then s.resume k lanes else s
      | .fence kind sc upto => if g.fenceDone s.clk.now upto kind sc && !s.has .fenceResume k then s.sched s.clk.now .fenceResume k else s
      | .bo a since => if since ≤ s.clk.now then s.bowaitTry k g lanes a else s
      | .dry key => if (s.droughtOf key).report then s.resume k lanes else s
      | .task _ => if s.tasksDone k g then s.resume k lanes else s
      | .fetch => if s.fetchOver g p then s.modGang k (fun g => g.modPath lanes (fun p => { p with wait := .none })) else s
      | .rsv key => if p.hold ≤ s.clk.now then s.rsvResume k lanes key else s
      | .unit ptr write => s.unitResume k lanes (s.ctxOf g) ptr write
      | .work id => s.workResume k lanes id
      | .none | .bar | .fwcall _ _ | .flacq _ _ _ | .regroup _ | .sub _ _ _ => s

/-- A gang has arrived at the team's barrier (R230, R385). -/
def Gang.atBar (g : Gang) : Bool := g.trapPend.isNone && g.paths != [] && g.paths.all (fun p => p.wait == .bar)

/-- The paths of a gang leave the barrier. -/
def Gang.leaveBar (g : Gang) : Gang :=
  { g with paths := g.paths.map (fun p => if p.wait = .bar then { p.next p.wlen with wait := .none } else p) }

/-- A gang of a team that has not exited. -/
def Gang.unended (g : Gang) : Bool :=
  match g.stop with
  | .ending => false
  | .ended => false
  | _ => true

/-- The gangs of a team. -/
def State.gangsOf (s : State) (tm : Team) : List (Nat × Gang) := tm.gangs.filterMap (fun k => (s.gang? k).map (fun g => (k, g)))

/-- The interval that a barrier closes: its snapshot holds the paths behind the barrier (R262). -/
def State.barClose (s : State) (t : Nat) (gs : List (Nat × Gang)) : State :=
  let s1 := gs.foldl (fun (s : State) g => s.setGang g.1 g.2.leaveBar) s
  let s2 := (s1.closeGroup t true).modTeam t (fun tm => { tm with prot := tm.prot.map (fun p => { p with barred := true }) })
  gs.foldl (fun (s : State) g => s.setGang g.1 g.2) s2

/-- The team's barrier: when every gang that has not exited has arrived and its fence is over, the barrier opens. In a protected team
it closes the interval first. -/
def State.barTick (s : State) (t : Nat) (tm : Team) : State :=
  let gs := (s.gangsOf tm).filter (fun g => g.2.unended)
  if gs = [] ∨ !(gs.all (fun g => g.2.atBar)) then s
  else
    let closes := match tm.prot with
      | some p => !p.barred
      | none => false
    if closes then (if gs.all (fun g => s.mayClose g.2) then s.barClose t gs else s)
    else if gs.all (fun g => g.2.fenceDone s.clk.now s.clk.fresh .sc .team) then
      (gs.foldl (fun (s : State) g => s.setGang g.1 g.2.leaveBar) s).modTeam t (fun tm => { tm with prot := tm.prot.map (fun p => { p with barred := false }) })
    else s

/-- A gang whose lanes have all exited ends for its team: its checkpoint, and the items it has taken from furrows (R133, R286, R382). -/
def State.endTick (s : State) (k : Nat) (g : Gang) : State :=
  match g.stop with
  | .ending => ((s.sessExit k g g.exitPc).drainTaken k).modGang k (fun g => { g with stop := .ended })
  | .ended =>
    let idle := g.ops == [] && g.uncounted.isNone && !(s.mem.reqs.any (fun r => r.2.gang == k)) && !(s.work.inbox.any (fun q => q.2.gang == k))
    if idle && g.rows != 0 && (s.prot? g.team).isNone then s.modGang k (fun g => { g with rows := 0, base := 0 }) else s
  | _ => s

/-! ## Teams -/

/-- A team all of whose gangs have ended ends (R382): a protected one closes its last interval, and ends when its groups have been
released; the engine is released and the opener's scope aborted. -/
def State.teamEnd (s : State) (t : Nat) (tm : Team) : State :=
  if tm.kill || tm.st == .ended || !((s.gangsOf tm).all (fun g => g.2.stop == .ended)) then s
  else
    let ends := fun (s : State) =>
      let s1 := (s.modTeam t (fun tm => { tm with st := .ended, waitFrom := none })).mrel tm.cluster t
      match s1.scopeOf t with
      | some (n, _) => s1.abortScope n
      | none => s1
    match tm.prot with
    | some p =>
      if !p.barred then
        (if (s.gangsOf tm).all (fun g => s.mayClose g.2) then
          (s.closeGroup t false).modTeam t (fun tm => { tm with prot := tm.prot.map (fun p => { p with barred := true }) })
        else s)
      else if p.closed ≠ [] then s
      else ends s
    | none => ends s

/-- Nothing of a gang that has ended is left: its operations, requests, and writes at a scope. -/
def State.gangOver (s : State) (sc : Scope) (k : Nat) (g : Gang) : Bool :=
  g.ops == [] && g.uncounted.isNone && g.sfu == 0 && !(s.mem.reqs.any (fun r => r.2.gang == k)) && !(s.work.inbox.any (fun q => q.2.gang == k)) &&
  g.writes.all (fun w => w.complete s.clk.now sc)

/-- A team that has ended and whose stores are complete is gone: its launch or task goes on (R62, R126, R136). -/
def State.teamReap (s : State) (t : Nat) (tm : Team) : State :=
  let sc := match tm.src with
    | .launch _ => Scope.sys
    | .task _ => .dev
  if tm.st != .ended || !((s.gangsOf tm).all (fun g => s.gangOver sc g.1 g.2)) then s
  else
    match tm.src with
    | .launch lid =>
      let s1 := s.dropTeam t
      match mget lid s1.work.launches with
      | none => s1
      | some l =>
        let s2 := { s1 with work := { s1.work with launches := mput lid { l with ended := l.ended + 1 } s1.work.launches } }
        if l.ended + 1 = l.teams then s2.sched s.clk.now .launchComplete lid else s2
    | .task tid =>
      -- the save area stays until the decrement is done (R126); a task that is gone has no use of it
      let stays := (mget tid s.work.tasks).isSome
      let s1 := (if stays then s.setTeam t { tm with area := (0, 0) } else s).dropTeam t
      ({ s1 with work := { s1.work with tasks := mmod tid (fun k => { k with st := .ending false, area := tm.area }) s1.work.tasks } }).sched
        s.clk.now .taskComplete tid

/-- Notes since when a gang waits (R134): one that is found waiting has begun to in the clk before, in which it last issued. -/
def State.waitNote (s : State) (k : Nat) (g : Gang) : State :=
  if s.gangWaits k g then (if g.waitFrom.isSome then s else s.setGang k { g with waitFrom := some (s.clk.now - 1) })
  else if g.waitFrom.isSome then s.setGang k { g with waitFrom := none } else s

/-- A team waits from the latest clk at which one of its gangs began to, and is estivated when its wait reaches its threshold (R134, R135). -/
def State.estivTick (s : State) (t : Nat) (tm : Team) : State :=
  if tm.st ≠ .placed then s
  else if s.teamWaits tm then
    let c := ((s.gangsOf tm).filter (fun g => g.2.unended)).foldl (fun m g => max m (g.2.waitFrom.getD 0)) 0
    let s1 := if tm.waitFrom = some c then s else s.setTeam t { tm with waitFrom := some c }
    if c + tm.estiv ≤ s.clk.now && !s.has .estivate t then s1.sched s.clk.now .estivate t else s1
  else if tm.waitFrom.isSome then s.setTeam t { tm with waitFrom := none } else s

/-- An estivated team whose wait is over, and a stopped team that may run, become candidates (R130, R137, R158). -/
def State.wakeTick (s : State) (t : Nat) (tm : Team) : State :=
  let wakes := match tm.st with
    | .estivated => s.wakes tm
    | .stopped => !tm.kill
    | _ => false
  if wakes && tm.saveTill == 0 && s.rivalMayRun tm.rival && !s.has .teamResume t then s.sched s.clk.now .teamResume t else s

/-- Gangs that a debugger stops while their team stays on its cluster (R194). -/
def State.debugTick (s : State) (k : Nat) (g : Gang) : State :=
  match g.stop with
  | .asking _ | .asked _ => if ((s.team? g.team).map Team.st) = some .placed then s.stopGang k g else s
  | _ => s

/-! ## Units -/

/-- Records that units have read are answered. -/
def State.inboxTick (s : State) : State :=
  s.work.inbox.foldl (fun (s : State) x => match mget x.1 s.work.inbox with
    | none => s
    | some q => if q.home then s.tdloadDone x.1 q else s.tasksubRead x.1 q) s

/-- Decrements that have bounced are tried again. -/
def State.succTick (s : State) : State :=
  s.work.tasks.foldl (fun (s : State) x => match mget x.1 s.work.tasks with
    | some k => if k.st = .ending true then s.retrySucc x.1 k else s
    | none => s) s

/-- The engines take their next operations; scopes and compactions go on. -/
def State.unitTick (s : State) : State :=
  let s1 := s.work.engines.foldl (fun (s : State) e => (s.tileStart e.1).engineRelease e.1) s
  let s2 := s1.work.copies.foldl (fun (s : State) c => s.copyStart c.1) s1
  let s3 := s2.work.scopes.foldl (fun (s : State) x => match mget x.1 s.work.scopes with
    | some y => match y.commit with
      | some c => s.commitStep x.1 y c
      | none => s.scopeTick x.1
    | none => s) s2
  s3.work.compact.foldl (fun (s : State) c => s.compactTick c.1) s3

/-- The schedulers of the dies: placement, stealing, pre-emption (R113, R114, R127, R130). -/
def State.schedTick (s : State) : State :=
  (List.range 4).foldl (fun (s : State) die =>
    let s1 := s.dispatch die
    let s2 := s1.work.launches.foldl (fun (s : State) l => s.stealTick l.1 l.2 die) s1
    if (s2.victim die).isSome && !s2.has .preempt die then s2.sched s.clk.now .preempt die else s2) s.loneTick

/-- WHAT IS LOOKED AT IN A CLK, before the issue turns. -/
def State.poll (s : State) : State :=
  let s0 := ((s.adm.sess.foldl (fun (s : State) x => s.sessTick x.1 x.2) s).askTick.wantTick).eachTeam State.protTick
  let s1 := (s0.eachGang State.settleTick).idleTick
  let s2 := s1.eachTeam (fun s t tm => s.growNow t tm)
  let s3 := s2.eachTeam (fun s t tm => s.flacqServe t tm)
  let s4 := s3.eachGang (fun s k g => g.paths.foldl (fun (s : State) p => s.waitTick k p.lanes) s)
  let s5 := s4.eachTeam State.barTick
  let s6 := ((s5.inboxTick).uncTick).succTick
  let s7 := s6.unitTick
  let s8 := (s7.eachGang State.endTick).eachTeam State.teamEnd
  let s9 := s8.eachTeam State.teamReap
  let s10 := s9.eachTeam (fun s t _ => s.stopTick t)
  let s11 := s10.eachGang State.debugTick
  let s12 := ((s11.eachGang State.waitNote).eachTeam State.estivTick).eachTeam State.wakeTick
  let s13 := s12.schedTick
  let s14 := s13.adm.queues.foldl (fun (s : State) q => s.pumpQueue q.1) s13
  let s15 := s14.adm.samples.foldl (fun (s : State) x => if x.2.late = [] then s else s.sampleFlush x.1 x.2.late.length) s14
  (List.range s15.adm.breaks.length).foldl State.breakTick (s15.eachTeam State.overTick)

end Sys2Proof.Machine
end

