-- ==== Sys2Proof/Machine/Front.lean ====
section
/-! DEFINITION. The parts of a step: an issue turn, an event that falls due, the clk that advances; and the placing of one instruction
where the next step issues it (R6, R88, R151, R165 to R168, R189, R260, R283, R370; logs 2 and 12). -/

namespace Sys2Proof.Machine

/-! ## An issue turn -/

/-- The turn of a path: what its gang's first instruction and each instruction of a rival bring with them, and what stands at its
address. -/
inductive Front where
  | run (i : Instr) (s : State)
  | done (s : State)

/-- What a gang's instruction brings before it issues: the session id and the first snapshot of its first instruction (R260, R283), the
count of a rival (R151), once for an instruction that issues again behind a wait of its unit. -/
def State.beforeIssue (s : State) (k : Nat) (g : Gang) (lanes : Mask) : State :=
  let s1 := (s.sessEnter k).firstSnap g.team
  if g.again &&& lanes = 0 then s1.countIssue g else s1.modGang k (fun g => { g with again := g.again &&& ~~~lanes })

/-- The instruction that issues is named. -/
def State.withCur (s : State) (k : Nat) (lanes : Mask) (pc : DWord) (len : Nat) (w : Word) : State :=
  { s with clk := { s.clk with cur := some ⟨k, lanes, pc, len, w⟩ } }

/-- What a turn does: an instruction of the table executes, a path traps, a path waits for words (those of
the whole run at a RUNB), a path that a group's other instruction now orders waits (R235), or the path is gone. -/
def State.front (s : State) (t : Turn) : Front :=
  match s.gang? t.gang with
  | none => .done s
  | some g =>
    match g.path? t.lanes with
    | none => .done s
    | some p =>
      match s.nextOf g p with
      | .instr i len w =>
        match s.runbAwaits g p i with
        | some a => .done (s.awaitFetch t.gang g t.lanes a p.pc)
        | none =>
          if (i.shape.map Shape.mem).getD false && g.ordered p then .done s
          else .run i ((s.beforeIssue t.gang g t.lanes).withCur t.gang t.lanes p.pc len w)
      | .wait a => .done (s.awaitFetch t.gang g t.lanes a ((p.run.map Run.hdr).getD 0))
      | .trap cause fetch =>
        let s1 := s.beforeIssue t.gang g t.lanes
        match fetch with
        | some a => .done ((s1.trapAccess t.gang t.lanes p.pc cause 3 a t.lanes).fetchForget g p.pc)
        | none =>
        if cause = 0x0001 ∨ cause = 0x0002 then .run (.unassignedEncoding (cause == 0x0002)) (s1.withCur t.gang t.lanes p.pc 1 0)
        else .done (s1.trap t.gang t.lanes p.pc cause)

/-- An issue turn. -/
def State.turn (s : State) (t : Turn) : Host.Outcome State Fault Refusal :=
  match s.front t with
  | .run i s1 => exec i s1
  | .done s1 => .next s1

/-! ## Events and the clk -/

/-- An event is performed; what it concerns stands in `subj`, and no instruction issues. -/
def State.begin (s : State) (i : Item) : State := { s with clk := { s.clk with subj := i.subj, cur := none } }

/-- An item of the agenda that is an instruction of a path, and no event, has no effect. -/
def State.runItem (s : State) (i : Item) : Host.Outcome State Fault Refusal :=
  match exec i.ev (s.begin i) with
  | .next s1 => .next s1
  | .fault r => .fault r
  | .refused _ => .next s

/-- Something on the part goes on from one clk to the next without an event in flight. -/
def State.active (s : State) : Bool :=
  s.work.gangs != [] || s.work.launches != [] || s.work.tasks != [] || s.work.scopes != [] || s.mem.reqs != [] || s.adm.breaks != [] ||
  s.adm.sess.any (fun x => x.2.late != []) ||
  s.adm.queues.any (fun q => q.2.ridx != q.2.widx || q.2.entries != [])

/-- The next clk; while nothing but the agenda goes on, the clk of its first event. -/
def State.advance (s : State) : State :=
  let next := match s.active, s.clk.agenda with
    | false, i :: _ => max (s.clk.now + 1) i.due
    | _, _ => s.clk.now + 1
  { s with clk := { s.clk with now := next, phase := 0, cur := none } }

/-- The turns of this clk are given out. -/
def State.turns (s : State) : State := s.askTick.fetchAll.giveTurns

/-- The poll, the turns, the next clk. -/
def State.between (s : State) : Host.Outcome State Fault Refusal :=
  .next (match s.clk.phase with
    | 0 => { s.poll with clk := { s.poll.clk with phase := 1 } }
    | 1 => { s.turns with clk := { s.turns.clk with phase := 2 } }
    | _ => s.advance)

/-- What is left in a clk once no turn is left: an event that has fallen due, the poll, the turns, or the next clk. -/
def State.tick (s : State) : Host.Outcome State Fault Refusal :=
  match s.clk.agenda with
  | i :: l =>
    if i.due ≤ s.clk.now then ({ s with clk := { s.clk with agenda := l } }).runItem i
    else s.between
  | [] => s.between

/-! ## One instruction in the place where it issues next (log 12) -/

/-- The page on which a placed instruction stands: page 1 of context 0, at the first bytes of HBM page 1. -/
def codePage : Nat := 1
def codeVa : DWord := 0x10000
def codeLeaf : DWord := 0x1007F

/-- The instruction stands inside a run: a lane instruction, or RUNE. -/
def standsInRun (bs : List Byte) : Bool :=
  match decodeBytes bs with
  | .ok (.rune _ _, _) => true
  | .ok (i, _) => (i.shape.map Shape.lane).getD false
  | .error _ => false

/-- A gang of 32 lanes on cluster 0 whose next instruction is the placed one, and its team, the newest numbers of the state. -/
def codeGang (t : Nat) (run : Bool) : Gang :=
  let g := Gang.fresh t 0 0 0 0 none 0 128 (gangLanes 32 0 (fun l => BitVec.ofNat 64 l)) (List.replicate 62 0) codeVa 0
  if run then { g with paths := g.paths.map (fun p => { p with run := some ⟨t + 2, codeVa - 4, 24, 0, 8, 0, 0, [], 0, none, false, 0⟩ }) } else g

def codeTeam (t : Nat) : Team :=
  (⟨0, .launch 0, 0, 128, 65536, [], [], codeVa, 8192, 0, none, false⟩ : Spec).team 0 [t + 1] 0 0 (0, 0) (0, 0)

/-- The instruction whose bytes are `bs` is placed, and its path has the next turn. -/
def State.placeWord (s : State) (bs : List Byte) : State :=
  let t := s.clk.fresh
  let ent : TlbEnt := ⟨.cluster 0, 0, codePage, 0, s.gen 0 0, codeLeaf, s.clk.now⟩
  { s with
    clk := { s.clk with fresh := t + 3, turns := [⟨t + 1, 0xFFFFFFFF⟩] }
    mem := { s.mem with bytes := writeBytes s.mem.bytes 0x10000 bs, tlb := ent :: s.mem.tlb.filter (fun e => !(e.covers (.cluster 0) 0 codePage)) }
    work := { s.work with
      gangs := mput (t + 1) (codeGang t (standsInRun bs)) s.work.gangs
      teams := mput t (codeTeam t) s.work.teams } }

end Sys2Proof.Machine
end

