-- ==== Sys2Proof/Machine/Step.lean ====
section
/-! DEFINITION. One step of the part: an issue turn, an event, or the next part of a clk (log 2); and the placing of an instruction where
the next step fetches it (log 12). -/

namespace Sys2Proof.Machine

/-- ONE STEP: the first turn that is left is taken; without one, what is left of the clk goes on. -/
def step (s : State) : Host.Outcome State Fault Refusal :=
  match s.clk.turns with
  | t :: ts => ({ s with clk := { s.clk with turns := ts } }).turn t
  | [] => s.tick

/-- The instruction with bits `w` stands where the next step issues it. -/
def State.withFetchWord (s : State) (nbits w : Nat) : State := s.placeWord (tableBytes nbits w)

end Sys2Proof.Machine
end

