-- ==== Sys2Proof/Laws/Decode.lean ====
section
/-! SUPPORT. Lemmas about the decoder and the encoder: codes of operands, fields of words, and what the decoder answers for the
words of each format. -/

set_option linter.unusedSimpArgs false

namespace Sys2Proof

theorem b2n_lt (b : Bool) : b2n b < 2 := by cases b <;> decide
theorem Pred.code_lt (p : Pred) : p.code < 16 := by
  have := b2n_lt p.neg; have := p.n.isLt; unfold Pred.code; omega
theorem LDst.code_lt (d : LDst) : d.code < 120 := by cases d <;> (simp only [LDst.code]; omega)
theorem LSrc.code_lt (d : LSrc) : d.code < 128 := by cases d <;> (simp only [LSrc.code]; omega)
theorem UDst.code_lt (d : UDst) : d.code < 63 := by cases d <;> (simp only [UDst.code]; omega)
theorem USrc.code_lt (d : USrc) : d.code < 64 := by cases d <;> (simp only [USrc.code]; omega)

theorem predOf_code (p : Pred) : predOf p.code = p := by
  obtain ⟨neg, n⟩ := p
  revert neg n; decide
theorem ldstOf_code (d : LDst) : ldstOf d.code = d := by revert d; intro d; cases d with
  | v n => revert n; decide
  | t n => revert n; decide
theorem udstOf_code (d : UDst) : udstOf d.code = d := by cases d with
  | g n => revert n; decide
  | zero => rfl

theorem lsrcOf_code (a : LSrc) (w : Word) (h : a.isLit = false) : lsrcOf a.code w = a := by
  cases a with
  | v n =>
    have hn := n.isLt
    show lsrcOf n.val w = _
    rw [lsrcOf, if_pos hn]; exact congrArg LSrc.v (Fin.ext (Nat.mod_eq_of_lt hn))
  | t n =>
    have hn := n.isLt
    show lsrcOf (112 + n.val) w = _
    rw [lsrcOf, if_neg (by omega), if_pos (by omega), Nat.add_sub_cancel_left]
    exact congrArg LSrc.t (Fin.ext (Nat.mod_eq_of_lt hn))
  | g n =>
    have hn := n.isLt
    show lsrcOf (120 + n.val) w = _
    rw [lsrcOf, if_neg (by omega), if_neg (by omega), if_pos (by omega), Nat.add_sub_cancel_left]
    exact congrArg LSrc.g (Fin.ext (Nat.mod_eq_of_lt hn))
  | lit v => cases h

theorem lsrcOf_lit (v w : Word) : lsrcOf (LSrc.lit v).code w = .lit w := rfl

theorem isL_code (a : LSrc) : isL a.code = b2n a.isLit := by
  cases a with
  | v n => have := n.isLt; simp only [isL, LSrc.code, LSrc.isLit]; rw [beq_eq_false_iff_ne.2 (by omega)]
  | t n => have := n.isLt; simp only [isL, LSrc.code, LSrc.isLit]; rw [beq_eq_false_iff_ne.2 (by omega)]
  | g n => have := n.isLt; simp only [isL, LSrc.code, LSrc.isLit]; rw [beq_eq_false_iff_ne.2 (by omega)]
  | lit v => rfl

/-- A uniform operand that names the literal. -/
def USrc.isLit : USrc → Bool
  | .lit _ => true
  | _ => false

theorem usrcOf_code (a : USrc) (w : Word) (h : a.isLit = false) : usrcOf a.code w = a := by
  cases a with
  | g n =>
    have hn := n.isLt
    show usrcOf n.val w = _
    rw [usrcOf, if_pos hn]; exact congrArg USrc.g (Fin.ext (Nat.mod_eq_of_lt hn))
  | zero => rfl
  | lit v => cases h

theorem isU_code (a : USrc) : isU a.code = b2n a.isLit := by
  cases a with
  | g n => have := n.isLt; simp only [isU, USrc.code, USrc.isLit]; rw [beq_eq_false_iff_ne.2 (by omega)]
  | zero => rfl
  | lit v => rfl

theorem isL_v (n : Fin 112) : isL (LSrc.v n).code = 0 := isL_code _
theorem isL_t (n : Fin 8) : isL (LSrc.t n).code = 0 := isL_code _
theorem isL_g (n : Fin 7) : isL (LSrc.g n).code = 0 := isL_code _
theorem isL_lit (w : Word) : isL (LSrc.lit w).code = 1 := rfl
theorem isU_g (n : Fin 62) : isU (USrc.g n).code = 0 := isU_code _
theorem isU_zero : isU USrc.zero.code = 0 := rfl
theorem isU_lit (w : Word) : isU (USrc.lit w).code = 1 := rfl
theorem lsrcOf_v (n : Fin 112) (w : Word) : lsrcOf (LSrc.v n).code w = .v n := lsrcOf_code _ _ rfl
theorem lsrcOf_t (n : Fin 8) (w : Word) : lsrcOf (LSrc.t n).code w = .t n := lsrcOf_code _ _ rfl
theorem lsrcOf_g (n : Fin 7) (w : Word) : lsrcOf (LSrc.g n).code w = .g n := lsrcOf_code _ _ rfl
theorem usrcOf_g (n : Fin 62) (w : Word) : usrcOf (USrc.g n).code w = .g n := usrcOf_code _ _ rfl
theorem usrcOf_zero (w : Word) : usrcOf USrc.zero.code w = .zero := rfl
theorem usrcOf_lit (v w : Word) : usrcOf (USrc.lit v).code w = .lit w := rfl

theorem fin_l1 (n : Nat) (a : LSrc) (rest : List Word) (mk : LSrc → Instr) :
    fin true true (isL a.code) n (lLits [a] ++ rest).head? (fun w => mk (lsrcOf a.code w)) =
      .ok (mk a, n + (lLits [a]).length) := by
  cases a <;> simp [fin, lLits, isL_v, isL_t, isL_g, isL_lit, lsrcOf_v, lsrcOf_t, lsrcOf_g, lsrcOf_lit]

theorem fin_l2 (n : Nat) (a b : LSrc) (rest : List Word) (mk : LSrc → LSrc → Instr) (h : lCount [a, b] ≤ 1) :
    fin true true (isL a.code + isL b.code) n (lLits [a, b] ++ rest).head? (fun w => mk (lsrcOf a.code w) (lsrcOf b.code w)) =
      .ok (mk a b, n + (lLits [a, b]).length) := by
  cases a <;> cases b <;>
    simp [fin, lLits, lCount, isL_v, isL_t, isL_g, isL_lit, lsrcOf_v, lsrcOf_t, lsrcOf_g, lsrcOf_lit] at h ⊢

theorem fin_l3 (n : Nat) (a b c : LSrc) (rest : List Word) (mk : LSrc → LSrc → LSrc → Instr) (h : lCount [a, b, c] ≤ 1) :
    fin true true (isL a.code + isL b.code + isL c.code) n (lLits [a, b, c] ++ rest).head?
      (fun w => mk (lsrcOf a.code w) (lsrcOf b.code w) (lsrcOf c.code w)) = .ok (mk a b c, n + (lLits [a, b, c]).length) := by
  cases a <;> cases b <;> cases c <;>
    simp [fin, lLits, lCount, isL_v, isL_t, isL_g, isL_lit, lsrcOf_v, lsrcOf_t, lsrcOf_g, lsrcOf_lit] at h ⊢

theorem fin_u1 (n : Nat) (a : USrc) (rest : List Word) (mk : USrc → Instr) :
    fin true true (isU a.code) n (uLits [a] ++ rest).head? (fun w => mk (usrcOf a.code w)) =
      .ok (mk a, n + (uLits [a]).length) := by
  cases a <;> simp [fin, uLits, isU_g, isU_zero, isU_lit, usrcOf_g, usrcOf_zero, usrcOf_lit]

theorem fin_u2 (n : Nat) (a b : USrc) (rest : List Word) (mk : USrc → USrc → Instr) (h : uCount [a, b] ≤ 1) :
    fin true true (isU a.code + isU b.code) n (uLits [a, b] ++ rest).head? (fun w => mk (usrcOf a.code w) (usrcOf b.code w)) =
      .ok (mk a b, n + (uLits [a, b]).length) := by
  cases a <;> cases b <;> simp [fin, uLits, uCount, isU_g, isU_zero, isU_lit, usrcOf_g, usrcOf_zero, usrcOf_lit] at h ⊢

theorem fin_u3 (n : Nat) (a b c : USrc) (rest : List Word) (mk : USrc → USrc → USrc → Instr) (h : uCount [a, b, c] ≤ 1) :
    fin true true (isU a.code + isU b.code + isU c.code) n (uLits [a, b, c] ++ rest).head?
      (fun w => mk (usrcOf a.code w) (usrcOf b.code w) (usrcOf c.code w)) = .ok (mk a b c, n + (uLits [a, b, c]).length) := by
  cases a <;> cases b <;> cases c <;>
    simp [fin, uLits, uCount, isU_g, isU_zero, isU_lit, usrcOf_g, usrcOf_zero, usrcOf_lit] at h ⊢

theorem decode_lane (maj pc body : Nat) (rest : List Word) (hm : maj < 64) (hp : pc < 16) (hb : body < 2 ^ 21) :
    decode (wHead 0 maj pc body :: rest) = decodeLane maj (predOf pc) body rest := by
  have e1 : bits (wHead 0 maj pc body).toNat 25 6 = maj := by
    simp only [wHead, bits, BitVec.toNat_ofNat]; omega
  have e2 : bits (wHead 0 maj pc body).toNat 21 4 = pc := by
    simp only [wHead, bits, BitVec.toNat_ofNat]; omega
  have e3 : bits (wHead 0 maj pc body).toNat 0 21 = body := by
    simp only [wHead, bits, BitVec.toNat_ofNat]; omega
  have e4 : bits (wHead 0 maj pc body).toNat 31 1 = 0 := by
    simp only [wHead, bits, BitVec.toNat_ofNat]; omega
  simp only [decode, e1, e2, e3, e4, if_true]

theorem decode_uni (maj pc body : Nat) (rest : List Word) (hm : maj < 64) (hp : pc < 16) (hb : body < 2 ^ 21) :
    decode (wHead 1 maj pc body :: rest) = decodeUni maj (predOf pc) pc body rest.head? := by
  have e1 : bits (wHead 1 maj pc body).toNat 25 6 = maj := by
    simp only [wHead, bits, BitVec.toNat_ofNat]; omega
  have e2 : bits (wHead 1 maj pc body).toNat 21 4 = pc := by
    simp only [wHead, bits, BitVec.toNat_ofNat]; omega
  have e3 : bits (wHead 1 maj pc body).toNat 0 21 = body := by
    simp only [wHead, bits, BitVec.toNat_ofNat]; omega
  have e4 : bits (wHead 1 maj pc body).toNat 31 1 = 1 := by
    simp only [wHead, bits, BitVec.toNat_ofNat]; omega
  simp only [decode, e1, e2, e3, e4]; rfl

/-! ## Fields of the words -/

/-- Three seven-bit fields. -/
theorem bits_777 (d a b : Nat) (hd : d < 128) (ha : a < 128) (hb : b < 128) :
    d * 2 ^ 14 + a * 2 ^ 7 + b < 2 ^ 21 ∧ bits (d * 2 ^ 14 + a * 2 ^ 7 + b) 14 7 = d ∧
    bits (d * 2 ^ 14 + a * 2 ^ 7 + b) 7 7 = a ∧ bits (d * 2 ^ 14 + a * 2 ^ 7 + b) 0 7 = b := by
  simp only [bits]; omega

theorem decode_l3 (maj : Nat) (p : Pred) (d a b : Nat) (rest : List Word) (mk : Pred → LDst → LSrc → LSrc → Instr)
    (hm : maj < 64) (h : l3Of maj = some mk) (hd : d < 128) (ha : a < 128) (hb : b < 128) :
    decode (wHead 0 maj p.code (d * 2 ^ 14 + a * 2 ^ 7 + b) :: rest) =
      fin (decide (d < 120)) true (isL a + isL b) 1 rest.head? (fun w => mk p (ldstOf d) (lsrcOf a w) (lsrcOf b w)) := by
  obtain ⟨h0, h1, h2, h3⟩ := bits_777 d a b hd ha hb
  rw [decode_lane _ _ _ _ hm p.code_lt h0, predOf_code]
  simp only [decodeLane, h, h1, h2, h3]

theorem roundtrip_l3 (maj : Nat) (p : Pred) (d : LDst) (a b : LSrc) (rest : List Word) (mk : Pred → LDst → LSrc → LSrc → Instr)
    (hm : maj < 64) (h : l3Of maj = some mk) (hw : decide (lCount [a, b] ≤ 1) = true) :
    decode (encL3 maj p d a b ++ rest) = .ok (mk p d a b, (encL3 maj p d a b).length) := by
  have hd := d.code_lt
  rw [encL3, List.cons_append, decode_l3 maj p _ _ _ _ mk hm h (by omega) a.code_lt b.code_lt, ldstOf_code,
    decide_eq_true hd, fin_l2 1 a b rest (fun a b => mk p d a b) (of_decide_eq_true hw), List.length_cons, Nat.add_comm]

/-- A field between what stands above and what stands below it. -/
theorem bits_mid (q f r lo n : Nat) (hf : f < 2 ^ n) (hr : r < 2 ^ lo) : bits (q * 2 ^ (lo + n) + f * 2 ^ lo + r) lo n = f := by
  have h : q * 2 ^ (lo + n) + f * 2 ^ lo + r = r + 2 ^ lo * (f + 2 ^ n * q) := by rw [Nat.pow_add]; ring
  rw [bits, h, Nat.add_mul_div_left _ _ (Nat.two_pow_pos lo), Nat.div_eq_of_lt hr, Nat.zero_add, Nat.add_mul_mod_self_left,
    Nat.mod_eq_of_lt hf]

theorem lxExt_bits (xf c ty rm ftz sat ps pn pv : Nat) (h1 : xf < 256) (h2 : c < 128) (h3 : ty < 32) (h4 : rm < 4)
    (h5 : ftz < 2) (h6 : sat < 2) (h7 : ps < 8) (h8 : pn < 2) (h9 : pv < 2) :
    let x := (lxExt xf c ty rm ftz sat ps pn pv).toNat
    bits x 24 8 = xf ∧ bits x 17 7 = c ∧ bits x 12 5 = ty ∧ bits x 10 2 = rm ∧ bits x 9 1 = ftz ∧ bits x 8 1 = sat ∧
    bits x 5 3 = ps ∧ bits x 4 1 = pn ∧ bits x 3 1 = pv ∧ bits x 0 3 = 0 := by
  have h : xf * 2 ^ 24 + c * 2 ^ 17 + ty * 2 ^ 12 + rm * 2 ^ 10 + ftz * 2 ^ 9 + sat * 2 ^ 8 + ps * 2 ^ 5 + pn * 2 ^ 4 + pv * 2 ^ 3 < 2 ^ 32 := by omega
  simp only [lxExt, BitVec.toNat_ofNat, Nat.mod_eq_of_lt h]
  refine ⟨?_, ?_, ?_, ?_, ?_, ?_, ?_, ?_, ?_, ?_⟩
  · rw [show xf * 2 ^ 24 + c * 2 ^ 17 + ty * 2 ^ 12 + rm * 2 ^ 10 + ftz * 2 ^ 9 + sat * 2 ^ 8 + ps * 2 ^ 5 + pn * 2 ^ 4 + pv * 2 ^ 3 = (0) * 2 ^ (24 + 8) + xf * 2 ^ 24 + (c * 2 ^ 17 + ty * 2 ^ 12 + rm * 2 ^ 10 + ftz * 2 ^ 9 + sat * 2 ^ 8 + ps * 2 ^ 5 + pn * 2 ^ 4 + pv * 2 ^ 3) from by ring, bits_mid _ _ _ _ _ (by assumption) (by clear h; norm_num; omega)]
  · rw [show xf * 2 ^ 24 + c * 2 ^ 17 + ty * 2 ^ 12 + rm * 2 ^ 10 + ftz * 2 ^ 9 + sat * 2 ^ 8 + ps * 2 ^ 5 + pn * 2 ^ 4 + pv * 2 ^ 3 = (xf * 2 ^ 0) * 2 ^ (17 + 7) + c * 2 ^ 17 + (ty * 2 ^ 12 + rm * 2 ^ 10 + ftz * 2 ^ 9 + sat * 2 ^ 8 + ps * 2 ^ 5 + pn * 2 ^ 4 + pv * 2 ^ 3) from by ring, bits_mid _ _ _ _ _ (by assumption) (by clear h; norm_num; omega)]
  · rw [show xf * 2 ^ 24 + c * 2 ^ 17 + ty * 2 ^ 12 + rm * 2 ^ 10 + ftz * 2 ^ 9 + sat * 2 ^ 8 + ps * 2 ^ 5 + pn * 2 ^ 4 + pv * 2 ^ 3 = (xf * 2 ^ 7 + c * 2 ^ 0) * 2 ^ (12 + 5) + ty * 2 ^ 12 + (rm * 2 ^ 10 + ftz * 2 ^ 9 + sat * 2 ^ 8 + ps * 2 ^ 5 + pn * 2 ^ 4 + pv * 2 ^ 3) from by ring, bits_mid _ _ _ _ _ (by assumption) (by clear h; norm_num; omega)]
  · rw [show xf * 2 ^ 24 + c * 2 ^ 17 + ty * 2 ^ 12 + rm * 2 ^ 10 + ftz * 2 ^ 9 + sat * 2 ^ 8 + ps * 2 ^ 5 + pn * 2 ^ 4 + pv * 2 ^ 3 = (xf * 2 ^ 12 + c * 2 ^ 5 + ty * 2 ^ 0) * 2 ^ (10 + 2) + rm * 2 ^ 10 + (ftz * 2 ^ 9 + sat * 2 ^ 8 + ps * 2 ^ 5 + pn * 2 ^ 4 + pv * 2 ^ 3) from by ring, bits_mid _ _ _ _ _ (by assumption) (by clear h; norm_num; omega)]
  · rw [show xf * 2 ^ 24 + c * 2 ^ 17 + ty * 2 ^ 12 + rm * 2 ^ 10 + ftz * 2 ^ 9 + sat * 2 ^ 8 + ps * 2 ^ 5 + pn * 2 ^ 4 + pv * 2 ^ 3 = (xf * 2 ^ 14 + c * 2 ^ 7 + ty * 2 ^ 2 + rm * 2 ^ 0) * 2 ^ (9 + 1) + ftz * 2 ^ 9 + (sat * 2 ^ 8 + ps * 2 ^ 5 + pn * 2 ^ 4 + pv * 2 ^ 3) from by ring, bits_mid _ _ _ _ _ (by assumption) (by clear h; norm_num; omega)]
  · rw [show xf * 2 ^ 24 + c * 2 ^ 17 + ty * 2 ^ 12 + rm * 2 ^ 10 + ftz * 2 ^ 9 + sat * 2 ^ 8 + ps * 2 ^ 5 + pn * 2 ^ 4 + pv * 2 ^ 3 = (xf * 2 ^ 15 + c * 2 ^ 8 + ty * 2 ^ 3 + rm * 2 ^ 1 + ftz * 2 ^ 0) * 2 ^ (8 + 1) + sat * 2 ^ 8 + (ps * 2 ^ 5 + pn * 2 ^ 4 + pv * 2 ^ 3) from by ring, bits_mid _ _ _ _ _ (by assumption) (by clear h; norm_num; omega)]
  · rw [show xf * 2 ^ 24 + c * 2 ^ 17 + ty * 2 ^ 12 + rm * 2 ^ 10 + ftz * 2 ^ 9 + sat * 2 ^ 8 + ps * 2 ^ 5 + pn * 2 ^ 4 + pv * 2 ^ 3 = (xf * 2 ^ 16 + c * 2 ^ 9 + ty * 2 ^ 4 + rm * 2 ^ 2 + ftz * 2 ^ 1 + sat * 2 ^ 0) * 2 ^ (5 + 3) + ps * 2 ^ 5 + (pn * 2 ^ 4 + pv * 2 ^ 3) from by ring, bits_mid _ _ _ _ _ (by assumption) (by clear h; norm_num; omega)]
  · rw [show xf * 2 ^ 24 + c * 2 ^ 17 + ty * 2 ^ 12 + rm * 2 ^ 10 + ftz * 2 ^ 9 + sat * 2 ^ 8 + ps * 2 ^ 5 + pn * 2 ^ 4 + pv * 2 ^ 3 = (xf * 2 ^ 19 + c * 2 ^ 12 + ty * 2 ^ 7 + rm * 2 ^ 5 + ftz * 2 ^ 4 + sat * 2 ^ 3 + ps * 2 ^ 0) * 2 ^ (4 + 1) + pn * 2 ^ 4 + (pv * 2 ^ 3) from by ring, bits_mid _ _ _ _ _ (by assumption) (by clear h; norm_num; omega)]
  · rw [show xf * 2 ^ 24 + c * 2 ^ 17 + ty * 2 ^ 12 + rm * 2 ^ 10 + ftz * 2 ^ 9 + sat * 2 ^ 8 + ps * 2 ^ 5 + pn * 2 ^ 4 + pv * 2 ^ 3 = (xf * 2 ^ 20 + c * 2 ^ 13 + ty * 2 ^ 8 + rm * 2 ^ 6 + ftz * 2 ^ 5 + sat * 2 ^ 4 + ps * 2 ^ 1 + pn * 2 ^ 0) * 2 ^ (3 + 1) + pv * 2 ^ 3 + (0) from by ring, bits_mid _ _ _ _ _ (by assumption) (by norm_num)]
  · rw [show xf * 2 ^ 24 + c * 2 ^ 17 + ty * 2 ^ 12 + rm * 2 ^ 10 + ftz * 2 ^ 9 + sat * 2 ^ 8 + ps * 2 ^ 5 + pn * 2 ^ 4 + pv * 2 ^ 3 = (xf * 2 ^ 21 + c * 2 ^ 14 + ty * 2 ^ 9 + rm * 2 ^ 7 + ftz * 2 ^ 6 + sat * 2 ^ 5 + ps * 2 ^ 2 + pn * 2 ^ 1 + pv * 2 ^ 0) * 2 ^ (0 + 3) + 0 * 2 ^ 0 + 0 from by ring, bits_mid _ _ _ _ _ (by norm_num) (by norm_num)]


/-! ## Long arithmetic words -/

theorem decode_lx (p : Pred) (d a b : Nat) (x : Word) (lits rest : List Word) (hd : d < 128) (ha : a < 128) (hb : b < 128) :
    decode (encLX p d a b x lits ++ rest) = decodeLX p d a b x.toNat (lits ++ rest).head? := by
  obtain ⟨h0, h1, h2, h3⟩ := bits_777 d a b hd ha hb
  rw [encLX, List.cons_append, List.cons_append, decode_lane _ _ _ _ (by decide) p.code_lt h0, predOf_code]
  simp only [decodeLane, l3Of, h1, h2, h3]

theorem ITy.code_lt (t : ITy) : t.code < 4 := by cases t <;> decide
theorem ityOf_code (t : ITy) : ityOf t.code = t := by cases t <;> rfl
theorem FTy.code_lt (t : FTy) : t.code < 8 := by cases t <;> decide
theorem FTy.four_le (t : FTy) : 4 ≤ t.code := by cases t <;> decide
theorem ftyOf_code (t : FTy) : ftyOf t.code = t := by cases t <;> rfl
theorem RTy.code_lt (t : RTy) : t.code < 6 := by cases t <;> decide
theorem rtyOf_code (t : RTy) : rtyOf t.code = t := by cases t <;> rfl
theorem Ty.code_lt (t : Ty) : t.code < 19 := by cases t <;> decide
theorem tyOf_code (t : Ty) : tyOf t.code = t := by cases t <;> rfl
theorem QTy.code_lt (t : QTy) : t.code < 32 := by cases t <;> decide
theorem qtyOf_code (t : QTy) : qtyOf t.code = some t := by cases t <;> rfl
theorem RMode.code_lt (t : RMode) : t.code < 4 := by cases t <;> decide
theorem rmodeOf_code (t : RMode) : rmodeOf t.code = t := by cases t <;> rfl
theorem ICC.code_lt (t : ICC) : t.code < 10 := by cases t <;> decide
theorem iccOf_code (t : ICC) : iccOf t.code = t := by cases t <;> rfl
theorem FCC.code_lt (t : FCC) : t.code < 8 := by cases t <;> decide
theorem fccOf_code (t : FCC) : fccOf t.code = t := by cases t <;> rfl
theorem ROp.code_lt (t : ROp) : t.code < 6 := by cases t <;> decide
theorem ropOf_code (t : ROp) : ropOf t.code = t := by cases t <;> rfl
theorem AOp.code_lt (t : AOp) : t.code < 8 := by cases t <;> decide
theorem aopOf_code (t : AOp) : aopOf t.code = t := by cases t <;> rfl
theorem SAOp.code_lt (t : SAOp) : t.code < 7 := by cases t <;> decide
theorem saopOf_code (t : SAOp) : saopOf t.code = t := by cases t <;> rfl
theorem StredOp.code_lt (t : StredOp) : t.code < 8 := by cases t <;> decide
theorem stredOf_code (t : StredOp) : stredOf t.code = some t := by cases t <;> rfl
theorem SZ.code_lt (t : SZ) : t.code < 6 := by cases t <;> decide
theorem szOf_code (t : SZ) : szOf t.code = t := by cases t <;> rfl
theorem USZ.code_lt (t : USZ) : t.code < 6 := by cases t <;> decide
theorem uszOf_code (t : USZ) : uszOf t.code = some t := by cases t <;> rfl
theorem Scope.code_lt (t : Scope) : t.code < 5 := by cases t <;> decide
theorem scopeOf_code (t : Scope) : scopeOf t.code = t := by cases t <;> rfl
theorem SReg.code_lt (t : SReg) : t.code < 19 := by cases t <;> decide
theorem sregOf_code (t : SReg) : sregOf t.code = t := by cases t <;> rfl
theorem TileState.code_lt (t : TileState) : t.code < 4 := by cases t <;> decide
theorem tileStateOf_code (t : TileState) : tileStateOf t.code = t := by cases t <;> rfl
theorem FKind.code_lt (t : FKind) : t.code < 3 := by cases t <;> decide
theorem fkindOf_code (t : FKind) : fkindOf t.code = t := by cases t <;> rfl
theorem b2n_beq_one (b : Bool) : (b2n b == 1) = b := by cases b <;> rfl
theorem finOf_val {n : Nat} [NeZero n] (x : Fin n) : Fin.ofNat n x.val = x := Fin.ext (Nat.mod_eq_of_lt x.isLt)

/-! The decoder's answer for each shape of long arithmetic word. -/
theorem decodeLX_lABsat {mk} (p : Pred) (d a b x : Nat) (lit : Option Word) (h : lxABsat (bits x 24 8) = some mk) :
    decodeLX p d a b x lit = fin (decide (d < 120) && decide (bits x 12 5 < 4)) (lxZero x false false false true false false false) (isL a + isL b) 2 lit
      (fun w => mk p (ityOf (bits x 12 5)) (bits x 8 1 == 1) (ldstOf d) (lsrcOf a w) (lsrcOf b w)) := by
  unfold decodeLX; simp only [h]

theorem decodeLX_lAB {mk} (p : Pred) (d a b x : Nat) (lit : Option Word) (h0 : lxABsat (bits x 24 8) = none) (h : lxAB (bits x 24 8) = some mk) :
    decodeLX p d a b x lit = fin (decide (d < 120) && decide (bits x 12 5 < 4)) (lxZero x false false false false false false false) (isL a + isL b) 2 lit
      (fun w => mk p (ityOf (bits x 12 5)) (ldstOf d) (lsrcOf a w) (lsrcOf b w)) := by
  unfold decodeLX; simp only [h0, h]

theorem decodeLX_lA {mk} (p : Pred) (d a b x : Nat) (lit : Option Word) (h0 : lxABsat (bits x 24 8) = none) (h1 : lxAB (bits x 24 8) = none) (h : lxA (bits x 24 8) = some mk) :
    decodeLX p d a b x lit = fin (decide (d < 120) && decide (bits x 12 5 < 4)) (lxZero x false false false false false false false && b == 0) (isL a) 2 lit
      (fun w => mk p (ityOf (bits x 12 5)) (ldstOf d) (lsrcOf a w)) := by
  unfold decodeLX; simp only [h0, h1, h]

theorem decodeLX_lAsat {mk} (p : Pred) (d a b x : Nat) (lit : Option Word) (h0 : lxABsat (bits x 24 8) = none) (h1 : lxAB (bits x 24 8) = none) (h2 : lxA (bits x 24 8) = none) (h : lxAsat (bits x 24 8) = some mk) :
    decodeLX p d a b x lit = fin (decide (d < 120) && decide (bits x 12 5 < 4)) (lxZero x false false false true false false false && b == 0) (isL a) 2 lit
      (fun w => mk p (ityOf (bits x 12 5)) (bits x 8 1 == 1) (ldstOf d) (lsrcOf a w)) := by
  unfold decodeLX; simp only [h0, h1, h2, h]

theorem decodeLX_lFrm {mk} (p : Pred) (d a b x : Nat) (lit : Option Word) (h0 : lxABsat (bits x 24 8) = none) (h1 : lxAB (bits x 24 8) = none) (h2 : lxA (bits x 24 8) = none) (h3 : lxAsat (bits x 24 8) = none) (h : lxFrm (bits x 24 8) = some mk) :
    decodeLX p d a b x lit = fin (decide (d < 120) && (decide (4 ≤ bits x 12 5) && decide (bits x 12 5 < 8))) (lxZero x false true true false false false false) (isL a + isL b) 2 lit
      (fun w => mk p (ftyOf (bits x 12 5)) (rmodeOf (bits x 10 2)) (bits x 9 1 == 1) (ldstOf d) (lsrcOf a w) (lsrcOf b w)) := by
  unfold decodeLX; simp only [h0, h1, h2, h3, h]

theorem decodeLX_lFmm {mk} (p : Pred) (d a b x : Nat) (lit : Option Word) (h0 : lxABsat (bits x 24 8) = none) (h1 : lxAB (bits x 24 8) = none) (h2 : lxA (bits x 24 8) = none) (h3 : lxAsat (bits x 24 8) = none) (h4 : lxFrm (bits x 24 8) = none) (h : lxFmm (bits x 24 8) = some mk) :
    decodeLX p d a b x lit = fin (decide (d < 120) && (decide (4 ≤ bits x 12 5) && decide (bits x 12 5 < 8))) (lxZero x false false true false false false false) (isL a + isL b) 2 lit
      (fun w => mk p (ftyOf (bits x 12 5)) (bits x 9 1 == 1) (ldstOf d) (lsrcOf a w) (lsrcOf b w)) := by
  unfold decodeLX; simp only [h0, h1, h2, h3, h4, h]

theorem decodeLX_imad (p : Pred) (d a b x : Nat) (lit : Option Word) (h : bits x 24 8 = 0x04) :
    decodeLX p d a b x lit = fin (decide (d < 120) && decide (bits x 12 5 < 4)) (lxZero x true false false true false false false) (isL a + isL b + isL (bits x 17 7)) 2 lit
      (fun w => .imad p (ityOf (bits x 12 5)) (bits x 8 1 == 1) (ldstOf d) (lsrcOf a w) (lsrcOf b w) (lsrcOf (bits x 17 7) w)) := by
  unfold decodeLX; simp only [h]; rfl

theorem decodeLX_ifld (p : Pred) (d a b x : Nat) (lit : Option Word) (h : bits x 24 8 = 0x14) :
    decodeLX p d a b x lit = fin (decide (d < 120) && decide (bits x 12 5 < 4)) (lxZero x true false false false false false false) (isL a + isL b + isL (bits x 17 7)) 2 lit
      (fun w => .ifld p (ityOf (bits x 12 5)) (ldstOf d) (lsrcOf a w) (lsrcOf b w) (lsrcOf (bits x 17 7) w)) := by
  unfold decodeLX; simp only [h]; rfl

theorem decodeLX_icmp (p : Pred) (d a b x : Nat) (lit : Option Word) (h : bits x 24 8 = 0x15) :
    decodeLX p d a b x lit = fin (decide (bits x 12 5 < 4) && decide (bits x 17 7 % 16 < 10)) (lxZero x true false false false true false false && bits x 17 7 / 16 == 0 && d == 0) (isL a + isL b) 2 lit
      (fun w => .icmpLong p (ityOf (bits x 12 5)) (iccOf (bits x 17 7 % 16)) (Fin.ofNat 8 (bits x 5 3)) (lsrcOf a w) (lsrcOf b w)) := by
  unfold decodeLX; simp only [h]; rfl

theorem decodeLX_sel (p : Pred) (d a b x : Nat) (lit : Option Word) (h : bits x 24 8 = 0x16) :
    decodeLX p d a b x lit = fin (decide (d < 120) && decide (bits x 12 5 < 4)) (lxZero x false false false false true true false) (isL a + isL b) 2 lit
      (fun w => .sel p (ityOf (bits x 12 5)) (Fin.ofNat 8 (bits x 5 3)) (bits x 4 1 == 1) (ldstOf d) (lsrcOf a w) (lsrcOf b w)) := by
  unfold decodeLX; simp only [h]; rfl

theorem decodeLX_ffma (p : Pred) (d a b x : Nat) (lit : Option Word) (h : bits x 24 8 = 0x23) :
    decodeLX p d a b x lit = fin (decide (d < 120) && (decide (4 ≤ bits x 12 5) && decide (bits x 12 5 < 8))) (lxZero x true true true false false false false) (isL a + isL b + isL (bits x 17 7)) 2 lit
      (fun w => .ffmaLong p (ftyOf (bits x 12 5)) (rmodeOf (bits x 10 2)) (bits x 9 1 == 1) (ldstOf d) (lsrcOf a w) (lsrcOf b w) (lsrcOf (bits x 17 7) w)) := by
  unfold decodeLX; simp only [h]; rfl

theorem decodeLX_fabs (p : Pred) (d a b x : Nat) (lit : Option Word) (h : bits x 24 8 = 0x28) :
    decodeLX p d a b x lit = fin (decide (d < 120) && (decide (4 ≤ bits x 12 5) && decide (bits x 12 5 < 8))) (lxZero x false false false false false false false && b == 0) (isL a) 2 lit
      (fun w => .fabs p (ftyOf (bits x 12 5)) (ldstOf d) (lsrcOf a w)) := by
  unfold decodeLX; simp only [h]; rfl

theorem decodeLX_fneg (p : Pred) (d a b x : Nat) (lit : Option Word) (h : bits x 24 8 = 0x29) :
    decodeLX p d a b x lit = fin (decide (d < 120) && (decide (4 ≤ bits x 12 5) && decide (bits x 12 5 < 8))) (lxZero x false false false false false false false && b == 0) (isL a) 2 lit
      (fun w => .fneg p (ftyOf (bits x 12 5)) (ldstOf d) (lsrcOf a w)) := by
  unfold decodeLX; simp only [h]; rfl

theorem decodeLX_fcmp (p : Pred) (d a b x : Nat) (lit : Option Word) (h : bits x 24 8 = 0x2A) :
    decodeLX p d a b x lit = fin (decide (4 ≤ bits x 12 5) && decide (bits x 12 5 < 6) && decide (bits x 17 7 % 16 < 8)) (lxZero x true false true false true false false && bits x 17 7 / 16 == 0 && d == 0) (isL a + isL b) 2 lit
      (fun w => .fcmpLong p (bits x 12 5 == 5) (fccOf (bits x 17 7 % 16)) (bits x 9 1 == 1) (Fin.ofNat 8 (bits x 5 3)) (lsrcOf a w) (lsrcOf b w)) := by
  unfold decodeLX; simp only [h]; rfl

theorem decodeLX_fclass (p : Pred) (d a b x : Nat) (lit : Option Word) (h : bits x 24 8 = 0x2B) :
    decodeLX p d a b x lit = fin (decide (d < 120) && (decide (4 ≤ bits x 12 5) && decide (bits x 12 5 < 8))) (lxZero x false false true false false false false && b == 0) (isL a) 2 lit
      (fun w => .fclass p (ftyOf (bits x 12 5)) (bits x 9 1 == 1) (ldstOf d) (lsrcOf a w)) := by
  unfold decodeLX; simp only [h]; rfl

theorem decodeLX_cvt (p : Pred) (d a b x : Nat) (lit : Option Word) (h : bits x 24 8 = 0x40) :
    decodeLX p d a b x lit = fin (decide (d < 120) && decide (bits x 12 5 < 19) && decide (bits x 17 7 % 32 < 19) && cvtOk (tyOf (bits x 12 5)) (tyOf (bits x 17 7 % 32))) (lxZero x true true (cvtFtz (tyOf (bits x 12 5)) (tyOf (bits x 17 7 % 32))) (cvtSat (tyOf (bits x 12 5))) false false false && bits x 17 7 / 32 == 0 && (cvtPacks (tyOf (bits x 12 5)) (tyOf (bits x 17 7 % 32)) || b == 0)) (isL a + (if cvtPacks (tyOf (bits x 12 5)) (tyOf (bits x 17 7 % 32)) = true then isL b else 0)) 2 lit
      (fun w => .cvt p (tyOf (bits x 12 5)) (tyOf (bits x 17 7 % 32)) (rmodeOf (bits x 10 2)) (bits x 9 1 == 1) (bits x 8 1 == 1) (ldstOf d) (lsrcOf a w) (if cvtPacks (tyOf (bits x 12 5)) (tyOf (bits x 17 7 % 32)) = true then some (lsrcOf b w) else none)) := by
  unfold decodeLX; simp only [h]; rfl

theorem decodeLX_qblk (q : QTy) (p : Pred) (d a b x : Nat) (lit : Option Word) (h : bits x 24 8 = 0x41) (hq : qtyOf (bits x 12 5) = some q) :
    decodeLX p d a b x lit = fin (decide (d < 120) && a != 127 && (q != .e2m1 || b != 127)) (lxZero x false true false false false false false && (q == .e2m1 || b == 0)) (0) 2 lit
      (fun w => .qblk p q (rmodeOf (bits x 10 2)) (ldstOf d) (lsrcOf a w) (if q = .e2m1 then some (lsrcOf b w) else none)) := by
  unfold decodeLX; simp only [h]
  show (match qtyOf (bits x 12 5) with
    | none => _
    | some q => _) = _
  rw [hq]

theorem decodeLX_qblks (q : QTy) (p : Pred) (d a b x : Nat) (lit : Option Word) (h : bits x 24 8 = 0x42) (hq : qtyOf (bits x 12 5) = some q) :
    decodeLX p d a b x lit = fin (decide (d < 120) && a != 127 && (q != .e2m1 || bits x 17 7 != 127)) (lxZero x (q == .e2m1) true false true false false false) (isL b) 2 lit
      (fun w => .qblks p q (rmodeOf (bits x 10 2)) (bits x 8 1 == 1) (ldstOf d) (lsrcOf a w) (lsrcOf b w) (if q = .e2m1 then some (lsrcOf (bits x 17 7) w) else none)) := by
  unfold decodeLX; simp only [h]
  show (match qtyOf (bits x 12 5) with
    | none => _
    | some q => _) = _
  rw [hq]

theorem decodeLX_dqblk (q : QTy) (p : Pred) (d a b x : Nat) (lit : Option Word) (h : bits x 24 8 = 0x43) (hq : qtyOf (bits x 12 5) = some q) :
    decodeLX p d a b x lit = fin (decide (d < 120)) (lxZero x false true true false false false false && (q == .e2m1 || b == 0)) (isL a + (if q = .e2m1 then isL b else 0)) 2 lit
      (fun w => .dqblk p q (rmodeOf (bits x 10 2)) (bits x 9 1 == 1) (ldstOf d) (lsrcOf a w) (if q = .e2m1 then some (lsrcOf b w) else none)) := by
  unfold decodeLX; simp only [h]
  show (match qtyOf (bits x 12 5) with
    | none => _
    | some q => _) = _
  rw [hq]

theorem decodeLX_shfl (p : Pred) (d a b x : Nat) (lit : Option Word) (h : bits x 24 8 = 0x50) :
    decodeLX p d a b x lit = fin (decide (d < 120) && decide (bits x 12 5 < 6)) (lxZero x true false false false (bits x 3 1 == 1) false true && bits x 17 7 / 2 == 0) (isL a + isL b) 2 lit
      (fun w => .shflLong p (bits x 17 7 % 2 == 1) (rtyOf (bits x 12 5)) (ldstOf d) (lsrcOf a w) (lsrcOf b w) (if (bits x 3 1 == 1) = true then some (Fin.ofNat 8 (bits x 5 3)) else none)) := by
  unfold decodeLX; simp only [h]; rfl

/-- The literals of an instruction and its length, from its words before them. -/
theorem ok_len {i : Instr} {n m : Nat} (h : n = m) : (Except.ok (i, n) : DecRes) = .ok (i, m) := by rw [h]

/-! ## Round trips of the long arithmetic formats -/

theorem roundtrip_lABsat {mk} (xf : Nat)  (h : lxABsat xf = some mk) (hxf : xf < 256) (p : Pred) (ty : ITy) (sat : Bool) (d : LDst) (a b : LSrc) (rest : List Word) (hw : decide (lCount [a, b] ≤ 1) = true) :
    decode (encLX p d.code a.code b.code (lxExt xf 0 ty.code 0 0 (b2n sat) 0 0 0) (lLits [a, b]) ++ rest) =
      .ok (mk p ty sat d a b, (encLX p d.code a.code b.code (lxExt xf 0 ty.code 0 0 (b2n sat) 0 0 0) (lLits [a, b])).length) := by
  have hd := decide_eq_true d.code_lt
  have ht := ty.code_lt
  have ht2 := decide_eq_true ht
  have hs := b2n_lt sat
  obtain ⟨e1, e2, e3, e4, e5, e6, e7, e8, e9, e10⟩ := lxExt_bits xf (0) (ty.code) (0) (0) (b2n sat) (0) (0) (0) hxf (by decide) (by omega) (by decide) (by decide) hs (by decide) (by decide) (by decide)
  rw [decode_lx _ _ _ _ _ _ _ (Nat.lt_trans d.code_lt (by decide)) a.code_lt b.code_lt, decodeLX_lABsat _ _ _ _ _ _ (by rw [e1]; exact h)]
  simp only [lxZero, e2, e3, e4, e5, e6, e7, e8, e9, e10, ldstOf_code, ityOf_code, b2n_beq_one, hd, ht2]
  exact (fin_l2 2 a b rest (fun a b => mk p ty sat d a b) (of_decide_eq_true hw)).trans (ok_len (Nat.add_comm 2 _))

theorem roundtrip_lAB {mk} (xf : Nat) (h0 : lxABsat xf = none) (h : lxAB xf = some mk) (hxf : xf < 256) (p : Pred) (ty : ITy) (d : LDst) (a b : LSrc) (rest : List Word) (hw : decide (lCount [a, b] ≤ 1) = true) :
    decode (encLX p d.code a.code b.code (lxExt xf 0 ty.code 0 0 0 0 0 0) (lLits [a, b]) ++ rest) =
      .ok (mk p ty d a b, (encLX p d.code a.code b.code (lxExt xf 0 ty.code 0 0 0 0 0 0) (lLits [a, b])).length) := by
  have hd := decide_eq_true d.code_lt
  have ht := ty.code_lt
  have ht2 := decide_eq_true ht
  obtain ⟨e1, e2, e3, e4, e5, e6, e7, e8, e9, e10⟩ := lxExt_bits xf (0) (ty.code) (0) (0) (0) (0) (0) (0) hxf (by decide) (by omega) (by decide) (by decide) (by decide) (by decide) (by decide) (by decide)
  rw [decode_lx _ _ _ _ _ _ _ (Nat.lt_trans d.code_lt (by decide)) a.code_lt b.code_lt, decodeLX_lAB _ _ _ _ _ _ (by rw [e1]; exact h0) (by rw [e1]; exact h)]
  simp only [lxZero, e2, e3, e4, e5, e6, e7, e8, e9, e10, ldstOf_code, ityOf_code, b2n_beq_one, hd, ht2]
  exact (fin_l2 2 a b rest (fun a b => mk p ty d a b) (of_decide_eq_true hw)).trans (ok_len (Nat.add_comm 2 _))

theorem roundtrip_lA {mk} (xf : Nat) (h0 : lxABsat xf = none) (h1 : lxAB xf = none) (h : lxA xf = some mk) (hxf : xf < 256) (p : Pred) (ty : ITy) (d : LDst) (a : LSrc) (rest : List Word)  :
    decode (encLX p d.code a.code 0 (lxExt xf 0 ty.code 0 0 0 0 0 0) (lLits [a]) ++ rest) =
      .ok (mk p ty d a, (encLX p d.code a.code 0 (lxExt xf 0 ty.code 0 0 0 0 0 0) (lLits [a])).length) := by
  have hd := decide_eq_true d.code_lt
  have ht := ty.code_lt
  have ht2 := decide_eq_true ht
  obtain ⟨e1, e2, e3, e4, e5, e6, e7, e8, e9, e10⟩ := lxExt_bits xf (0) (ty.code) (0) (0) (0) (0) (0) (0) hxf (by decide) (by omega) (by decide) (by decide) (by decide) (by decide) (by decide) (by decide)
  rw [decode_lx _ _ _ _ _ _ _ (Nat.lt_trans d.code_lt (by decide)) a.code_lt (by decide), decodeLX_lA _ _ _ _ _ _ (by rw [e1]; exact h0) (by rw [e1]; exact h1) (by rw [e1]; exact h)]
  simp only [lxZero, e2, e3, e4, e5, e6, e7, e8, e9, e10, ldstOf_code, ityOf_code, b2n_beq_one, hd, ht2]
  exact (fin_l1 2 a rest (fun a => mk p ty d a)).trans (ok_len (Nat.add_comm 2 _))

theorem roundtrip_lAsat {mk} (xf : Nat) (h0 : lxABsat xf = none) (h1 : lxAB xf = none) (h2 : lxA xf = none) (h : lxAsat xf = some mk) (hxf : xf < 256) (p : Pred) (ty : ITy) (sat : Bool) (d : LDst) (a : LSrc) (rest : List Word)  :
    decode (encLX p d.code a.code 0 (lxExt xf 0 ty.code 0 0 (b2n sat) 0 0 0) (lLits [a]) ++ rest) =
      .ok (mk p ty sat d a, (encLX p d.code a.code 0 (lxExt xf 0 ty.code 0 0 (b2n sat) 0 0 0) (lLits [a])).length) := by
  have hd := decide_eq_true d.code_lt
  have ht := ty.code_lt
  have ht2 := decide_eq_true ht
  have hs := b2n_lt sat
  obtain ⟨e1, e2, e3, e4, e5, e6, e7, e8, e9, e10⟩ := lxExt_bits xf (0) (ty.code) (0) (0) (b2n sat) (0) (0) (0) hxf (by decide) (by omega) (by decide) (by decide) hs (by decide) (by decide) (by decide)
  rw [decode_lx _ _ _ _ _ _ _ (Nat.lt_trans d.code_lt (by decide)) a.code_lt (by decide), decodeLX_lAsat _ _ _ _ _ _ (by rw [e1]; exact h0) (by rw [e1]; exact h1) (by rw [e1]; exact h2) (by rw [e1]; exact h)]
  simp only [lxZero, e2, e3, e4, e5, e6, e7, e8, e9, e10, ldstOf_code, ityOf_code, b2n_beq_one, hd, ht2]
  exact (fin_l1 2 a rest (fun a => mk p ty sat d a)).trans (ok_len (Nat.add_comm 2 _))

theorem roundtrip_lFrm {mk} (xf : Nat) (h0 : lxABsat xf = none) (h1 : lxAB xf = none) (h2 : lxA xf = none) (h3 : lxAsat xf = none) (h : lxFrm xf = some mk) (hxf : xf < 256) (p : Pred) (ty : FTy) (rm : RMode) (ftz : Bool) (d : LDst) (a b : LSrc) (rest : List Word) (hw : decide (lCount [a, b] ≤ 1) = true) :
    decode (encLX p d.code a.code b.code (lxExt xf 0 ty.code rm.code (b2n ftz) 0 0 0 0) (lLits [a, b]) ++ rest) =
      .ok (mk p ty rm ftz d a b, (encLX p d.code a.code b.code (lxExt xf 0 ty.code rm.code (b2n ftz) 0 0 0 0) (lLits [a, b])).length) := by
  have hd := decide_eq_true d.code_lt
  have ht := ty.code_lt
  have ht2 := decide_eq_true ht
  have ht4 := decide_eq_true ty.four_le
  have hz := b2n_lt ftz
  have hr := rm.code_lt
  obtain ⟨e1, e2, e3, e4, e5, e6, e7, e8, e9, e10⟩ := lxExt_bits xf (0) (ty.code) (rm.code) (b2n ftz) (0) (0) (0) (0) hxf (by decide) (by omega) hr hz (by decide) (by decide) (by decide) (by decide)
  rw [decode_lx _ _ _ _ _ _ _ (Nat.lt_trans d.code_lt (by decide)) a.code_lt b.code_lt, decodeLX_lFrm _ _ _ _ _ _ (by rw [e1]; exact h0) (by rw [e1]; exact h1) (by rw [e1]; exact h2) (by rw [e1]; exact h3) (by rw [e1]; exact h)]
  simp only [lxZero, e2, e3, e4, e5, e6, e7, e8, e9, e10, ldstOf_code, ftyOf_code, rmodeOf_code, b2n_beq_one, hd, ht2, ht4]
  exact (fin_l2 2 a b rest (fun a b => mk p ty rm ftz d a b) (of_decide_eq_true hw)).trans (ok_len (Nat.add_comm 2 _))

theorem roundtrip_lFmm {mk} (xf : Nat) (h0 : lxABsat xf = none) (h1 : lxAB xf = none) (h2 : lxA xf = none) (h3 : lxAsat xf = none) (h4 : lxFrm xf = none) (h : lxFmm xf = some mk) (hxf : xf < 256) (p : Pred) (ty : FTy) (ftz : Bool) (d : LDst) (a b : LSrc) (rest : List Word) (hw : decide (lCount [a, b] ≤ 1) = true) :
    decode (encLX p d.code a.code b.code (lxExt xf 0 ty.code 0 (b2n ftz) 0 0 0 0) (lLits [a, b]) ++ rest) =
      .ok (mk p ty ftz d a b, (encLX p d.code a.code b.code (lxExt xf 0 ty.code 0 (b2n ftz) 0 0 0 0) (lLits [a, b])).length) := by
  have hd := decide_eq_true d.code_lt
  have ht := ty.code_lt
  have ht2 := decide_eq_true ht
  have ht4 := decide_eq_true ty.four_le
  have hz := b2n_lt ftz
  obtain ⟨e1, e2, e3, e4, e5, e6, e7, e8, e9, e10⟩ := lxExt_bits xf (0) (ty.code) (0) (b2n ftz) (0) (0) (0) (0) hxf (by decide) (by omega) (by decide) hz (by decide) (by decide) (by decide) (by decide)
  rw [decode_lx _ _ _ _ _ _ _ (Nat.lt_trans d.code_lt (by decide)) a.code_lt b.code_lt, decodeLX_lFmm _ _ _ _ _ _ (by rw [e1]; exact h0) (by rw [e1]; exact h1) (by rw [e1]; exact h2) (by rw [e1]; exact h3) (by rw [e1]; exact h4) (by rw [e1]; exact h)]
  simp only [lxZero, e2, e3, e4, e5, e6, e7, e8, e9, e10, ldstOf_code, ftyOf_code, rmodeOf_code, b2n_beq_one, hd, ht2, ht4]
  exact (fin_l2 2 a b rest (fun a b => mk p ty ftz d a b) (of_decide_eq_true hw)).trans (ok_len (Nat.add_comm 2 _))

theorem roundtrip_imad (p : Pred) (ty : ITy) (sat : Bool) (d : LDst) (a b c : LSrc) (rest : List Word) (hw : decide (lCount [a, b, c] ≤ 1) = true) :
    decode (encLX p d.code a.code b.code (lxExt 0x04 c.code ty.code 0 0 (b2n sat) 0 0 0) (lLits [a, b, c]) ++ rest) =
      .ok (.imad p ty sat d a b c, (encLX p d.code a.code b.code (lxExt 0x04 c.code ty.code 0 0 (b2n sat) 0 0 0) (lLits [a, b, c])).length) := by
  have hd := decide_eq_true d.code_lt
  have ht := ty.code_lt
  have ht2 := decide_eq_true ht
  have hs := b2n_lt sat
  obtain ⟨e1, e2, e3, e4, e5, e6, e7, e8, e9, e10⟩ := lxExt_bits 0x04 (c.code) (ty.code) (0) (0) (b2n sat) (0) (0) (0) (by decide) c.code_lt (by omega) (by decide) (by decide) hs (by decide) (by decide) (by decide)
  rw [decode_lx _ _ _ _ _ _ _ (Nat.lt_trans d.code_lt (by decide)) a.code_lt b.code_lt, decodeLX_imad _ _ _ _ _ _ e1]
  simp only [lxZero, e2, e3, e4, e5, e6, e7, e8, e9, e10, ldstOf_code, ityOf_code, b2n_beq_one, hd, ht2]
  exact (fin_l3 2 a b c rest (fun a b c => .imad p ty sat d a b c) (of_decide_eq_true hw)).trans (ok_len (Nat.add_comm 2 _))

theorem roundtrip_ifld (p : Pred) (ty : ITy) (d : LDst) (a b c : LSrc) (rest : List Word) (hw : decide (lCount [a, b, c] ≤ 1) = true) :
    decode (encLX p d.code a.code b.code (lxExt 0x14 c.code ty.code 0 0 0 0 0 0) (lLits [a, b, c]) ++ rest) =
      .ok (.ifld p ty d a b c, (encLX p d.code a.code b.code (lxExt 0x14 c.code ty.code 0 0 0 0 0 0) (lLits [a, b, c])).length) := by
  have hd := decide_eq_true d.code_lt
  have ht := ty.code_lt
  have ht2 := decide_eq_true ht
  obtain ⟨e1, e2, e3, e4, e5, e6, e7, e8, e9, e10⟩ := lxExt_bits 0x14 (c.code) (ty.code) (0) (0) (0) (0) (0) (0) (by decide) c.code_lt (by omega) (by decide) (by decide) (by decide) (by decide) (by decide) (by decide)
  rw [decode_lx _ _ _ _ _ _ _ (Nat.lt_trans d.code_lt (by decide)) a.code_lt b.code_lt, decodeLX_ifld _ _ _ _ _ _ e1]
  simp only [lxZero, e2, e3, e4, e5, e6, e7, e8, e9, e10, ldstOf_code, ityOf_code, b2n_beq_one, hd, ht2]
  exact (fin_l3 2 a b c rest (fun a b c => .ifld p ty d a b c) (of_decide_eq_true hw)).trans (ok_len (Nat.add_comm 2 _))

theorem roundtrip_icmpLong (p : Pred) (ty : ITy) (cc : ICC) (pd : Fin 8) (a b : LSrc) (rest : List Word) (hw : decide (lCount [a, b] ≤ 1) = true) :
    decode (encLX p 0 a.code b.code (lxExt 0x15 cc.code ty.code 0 0 0 (pd.val) 0 0) (lLits [a, b]) ++ rest) =
      .ok (.icmpLong p ty cc pd a b, (encLX p 0 a.code b.code (lxExt 0x15 cc.code ty.code 0 0 0 (pd.val) 0 0) (lLits [a, b])).length) := by
  have ht := ty.code_lt
  have ht2 := decide_eq_true ht
  have hc := cc.code_lt
  have hc1 : cc.code % 16 = cc.code := by omega
  have hc2 : cc.code / 16 = 0 := by omega
  have hc3 := decide_eq_true hc
  obtain ⟨e1, e2, e3, e4, e5, e6, e7, e8, e9, e10⟩ := lxExt_bits 0x15 (cc.code) (ty.code) (0) (0) (0) (pd.val) (0) (0) (by decide) (by omega) (by omega) (by decide) (by decide) (by decide) pd.isLt (by decide) (by decide)
  rw [decode_lx _ _ _ _ _ _ _ (by decide) a.code_lt b.code_lt, decodeLX_icmp _ _ _ _ _ _ e1]
  simp only [lxZero, e2, e3, e4, e5, e6, e7, e8, e9, e10, ityOf_code, iccOf_code, hc1, hc2, hc3, ht2, finOf_val]
  exact (fin_l2 2 a b rest (fun a b => .icmpLong p ty cc pd a b) (of_decide_eq_true hw)).trans (ok_len (Nat.add_comm 2 _))

theorem roundtrip_sel (p : Pred) (ty : ITy) (ps : Fin 8) (pn : Bool) (d : LDst) (a b : LSrc) (rest : List Word) (hw : decide (lCount [a, b] ≤ 1) = true) :
    decode (encLX p d.code a.code b.code (lxExt 0x16 0 ty.code 0 0 0 (ps.val) (b2n pn) 0) (lLits [a, b]) ++ rest) =
      .ok (.sel p ty ps pn d a b, (encLX p d.code a.code b.code (lxExt 0x16 0 ty.code 0 0 0 (ps.val) (b2n pn) 0) (lLits [a, b])).length) := by
  have hd := decide_eq_true d.code_lt
  have ht := ty.code_lt
  have ht2 := decide_eq_true ht
  obtain ⟨e1, e2, e3, e4, e5, e6, e7, e8, e9, e10⟩ := lxExt_bits 0x16 (0) (ty.code) (0) (0) (0) (ps.val) (b2n pn) (0) (by decide) (by decide) (by omega) (by decide) (by decide) (by decide) ps.isLt (b2n_lt pn) (by decide)
  rw [decode_lx _ _ _ _ _ _ _ (Nat.lt_trans d.code_lt (by decide)) a.code_lt b.code_lt, decodeLX_sel _ _ _ _ _ _ e1]
  simp only [lxZero, e2, e3, e4, e5, e6, e7, e8, e9, e10, ldstOf_code, ityOf_code, b2n_beq_one, hd, ht2, finOf_val]
  exact (fin_l2 2 a b rest (fun a b => .sel p ty ps pn d a b) (of_decide_eq_true hw)).trans (ok_len (Nat.add_comm 2 _))

theorem roundtrip_ffmaLong (p : Pred) (ty : FTy) (rm : RMode) (ftz : Bool) (d : LDst) (a b c : LSrc) (rest : List Word) (hw : decide (lCount [a, b, c] ≤ 1) = true) :
    decode (encLX p d.code a.code b.code (lxExt 0x23 c.code ty.code rm.code (b2n ftz) 0 0 0 0) (lLits [a, b, c]) ++ rest) =
      .ok (.ffmaLong p ty rm ftz d a b c, (encLX p d.code a.code b.code (lxExt 0x23 c.code ty.code rm.code (b2n ftz) 0 0 0 0) (lLits [a, b, c])).length) := by
  have hd := decide_eq_true d.code_lt
  have ht := ty.code_lt
  have ht2 := decide_eq_true ht
  have ht4 := decide_eq_true ty.four_le
  have hz := b2n_lt ftz
  have hr := rm.code_lt
  obtain ⟨e1, e2, e3, e4, e5, e6, e7, e8, e9, e10⟩ := lxExt_bits 0x23 (c.code) (ty.code) (rm.code) (b2n ftz) (0) (0) (0) (0) (by decide) c.code_lt (by omega) hr hz (by decide) (by decide) (by decide) (by decide)
  rw [decode_lx _ _ _ _ _ _ _ (Nat.lt_trans d.code_lt (by decide)) a.code_lt b.code_lt, decodeLX_ffma _ _ _ _ _ _ e1]
  simp only [lxZero, e2, e3, e4, e5, e6, e7, e8, e9, e10, ldstOf_code, ftyOf_code, rmodeOf_code, b2n_beq_one, hd, ht2, ht4]
  exact (fin_l3 2 a b c rest (fun a b c => .ffmaLong p ty rm ftz d a b c) (of_decide_eq_true hw)).trans (ok_len (Nat.add_comm 2 _))

theorem roundtrip_fabs (p : Pred) (ty : FTy) (d : LDst) (a : LSrc) (rest : List Word)  :
    decode (encLX p d.code a.code 0 (lxExt 0x28 0 ty.code 0 0 0 0 0 0) (lLits [a]) ++ rest) =
      .ok (.fabs p ty d a, (encLX p d.code a.code 0 (lxExt 0x28 0 ty.code 0 0 0 0 0 0) (lLits [a])).length) := by
  have hd := decide_eq_true d.code_lt
  have ht := ty.code_lt
  have ht2 := decide_eq_true ht
  have ht4 := decide_eq_true ty.four_le
  obtain ⟨e1, e2, e3, e4, e5, e6, e7, e8, e9, e10⟩ := lxExt_bits 0x28 (0) (ty.code) (0) (0) (0) (0) (0) (0) (by decide) (by decide) (by omega) (by decide) (by decide) (by decide) (by decide) (by decide) (by decide)
  rw [decode_lx _ _ _ _ _ _ _ (Nat.lt_trans d.code_lt (by decide)) a.code_lt (by decide), decodeLX_fabs _ _ _ _ _ _ e1]
  simp only [lxZero, e2, e3, e4, e5, e6, e7, e8, e9, e10, ldstOf_code, ftyOf_code, rmodeOf_code, b2n_beq_one, hd, ht2, ht4]
  exact (fin_l1 2 a rest (fun a => .fabs p ty d a)).trans (ok_len (Nat.add_comm 2 _))

theorem roundtrip_fneg (p : Pred) (ty : FTy) (d : LDst) (a : LSrc) (rest : List Word)  :
    decode (encLX p d.code a.code 0 (lxExt 0x29 0 ty.code 0 0 0 0 0 0) (lLits [a]) ++ rest) =
      .ok (.fneg p ty d a, (encLX p d.code a.code 0 (lxExt 0x29 0 ty.code 0 0 0 0 0 0) (lLits [a])).length) := by
  have hd := decide_eq_true d.code_lt
  have ht := ty.code_lt
  have ht2 := decide_eq_true ht
  have ht4 := decide_eq_true ty.four_le
  obtain ⟨e1, e2, e3, e4, e5, e6, e7, e8, e9, e10⟩ := lxExt_bits 0x29 (0) (ty.code) (0) (0) (0) (0) (0) (0) (by decide) (by decide) (by omega) (by decide) (by decide) (by decide) (by decide) (by decide) (by decide)
  rw [decode_lx _ _ _ _ _ _ _ (Nat.lt_trans d.code_lt (by decide)) a.code_lt (by decide), decodeLX_fneg _ _ _ _ _ _ e1]
  simp only [lxZero, e2, e3, e4, e5, e6, e7, e8, e9, e10, ldstOf_code, ftyOf_code, rmodeOf_code, b2n_beq_one, hd, ht2, ht4]
  exact (fin_l1 2 a rest (fun a => .fneg p ty d a)).trans (ok_len (Nat.add_comm 2 _))

theorem roundtrip_fclass (p : Pred) (ty : FTy) (ftz : Bool) (d : LDst) (a : LSrc) (rest : List Word)  :
    decode (encLX p d.code a.code 0 (lxExt 0x2B 0 ty.code 0 (b2n ftz) 0 0 0 0) (lLits [a]) ++ rest) =
      .ok (.fclass p ty ftz d a, (encLX p d.code a.code 0 (lxExt 0x2B 0 ty.code 0 (b2n ftz) 0 0 0 0) (lLits [a])).length) := by
  have hd := decide_eq_true d.code_lt
  have ht := ty.code_lt
  have ht2 := decide_eq_true ht
  have ht4 := decide_eq_true ty.four_le
  have hz := b2n_lt ftz
  obtain ⟨e1, e2, e3, e4, e5, e6, e7, e8, e9, e10⟩ := lxExt_bits 0x2B (0) (ty.code) (0) (b2n ftz) (0) (0) (0) (0) (by decide) (by decide) (by omega) (by decide) hz (by decide) (by decide) (by decide) (by decide)
  rw [decode_lx _ _ _ _ _ _ _ (Nat.lt_trans d.code_lt (by decide)) a.code_lt (by decide), decodeLX_fclass _ _ _ _ _ _ e1]
  simp only [lxZero, e2, e3, e4, e5, e6, e7, e8, e9, e10, ldstOf_code, ftyOf_code, rmodeOf_code, b2n_beq_one, hd, ht2, ht4]
  exact (fin_l1 2 a rest (fun a => .fclass p ty ftz d a)).trans (ok_len (Nat.add_comm 2 _))

theorem roundtrip_fcmpLong (p : Pred) (f64 : Bool) (cc : FCC) (ftz : Bool) (pd : Fin 8) (a b : LSrc) (rest : List Word) (hw : decide (lCount [a, b] ≤ 1) = true) :
    decode (encLX p 0 a.code b.code (lxExt 0x2A cc.code (4 + b2n f64) 0 (b2n ftz) 0 (pd.val) 0 0) (lLits [a, b]) ++ rest) =
      .ok (.fcmpLong p f64 cc ftz pd a b, (encLX p 0 a.code b.code (lxExt 0x2A cc.code (4 + b2n f64) 0 (b2n ftz) 0 (pd.val) 0 0) (lLits [a, b])).length) := by
  have h64 := b2n_lt f64
  have h4 : decide (4 ≤ 4 + b2n f64) = true := decide_eq_true (by omega)
  have h6 : decide (4 + b2n f64 < 6) = true := decide_eq_true (by omega)
  have h5 : (4 + b2n f64 == 5) = f64 := by cases f64 <;> rfl
  have hc := cc.code_lt
  have hc1 : cc.code % 16 = cc.code := by omega
  have hc2 : cc.code / 16 = 0 := by omega
  have hc3 := decide_eq_true hc
  have hz := b2n_lt ftz
  obtain ⟨e1, e2, e3, e4, e5, e6, e7, e8, e9, e10⟩ := lxExt_bits 0x2A (cc.code) (4 + b2n f64) (0) (b2n ftz) (0) (pd.val) (0) (0) (by decide) (by omega) (by omega) (by decide) hz (by decide) pd.isLt (by decide) (by decide)
  rw [decode_lx _ _ _ _ _ _ _ (by decide) a.code_lt b.code_lt, decodeLX_fcmp _ _ _ _ _ _ e1]
  simp only [lxZero, e2, e3, e4, e5, e6, e7, e8, e9, e10, fccOf_code, hc1, hc2, hc3, h4, h5, h6, finOf_val, b2n_beq_one]
  exact (fin_l2 2 a b rest (fun a b => .fcmpLong p f64 cc ftz pd a b) (of_decide_eq_true hw)).trans (ok_len (Nat.add_comm 2 _))

theorem optLSrc_lt (b : Option LSrc) : optLSrc b < 128 := by
  cases b with
  | none => decide
  | some s => exact s.code_lt

theorem e2m1_beq (q : QTy) : (q == QTy.e2m1) = decide (q = .e2m1) := by cases q <;> rfl

theorem LSrc.code_ne (a : LSrc) (h : (!a.isLit) = true) : (a.code != 127) = true := by
  cases a with
  | v n => have := n.isLt; simp only [LSrc.code]; exact bne_iff_ne.2 (by omega)
  | t n => have := n.isLt; simp only [LSrc.code]; exact bne_iff_ne.2 (by omega)
  | g n => have := n.isLt; simp only [LSrc.code]; exact bne_iff_ne.2 (by omega)
  | lit w => cases h

/-- No operand of these names the literal. -/
theorem fin_0 (n : Nat) (lit : Option Word) (i : Instr) (mk : Word → Instr) (h : mk 0 = i) :
    fin true true 0 n lit mk = .ok (i, n) := by subst h; rfl

theorem lLits_nil1 (a : LSrc) (h : (!a.isLit) = true) : lLits [a] = [] := by
  cases a <;> first | rfl | cases h
theorem lLits_nil2 (a b : LSrc) (h : (!a.isLit) = true) (hb : (!b.isLit) = true) : lLits [a, b] = [] := by
  cases a <;> first | exact lLits_nil1 b hb | cases h
theorem lLits_skip (a : LSrc) (l : List LSrc) (h : (!a.isLit) = true) : lLits (a :: l) = lLits l := by
  cases a <;> first | rfl | cases h
theorem lLits_mid (b c : LSrc) (h : (!c.isLit) = true) : lLits [b, c] = lLits [b] := by
  cases b <;> cases c <;> first | rfl | cases h

theorem roundtrip_cvt (p : Pred) (dty sty : Ty) (rm : RMode) (ftz sat : Bool) (d : LDst) (a : LSrc) (b : Option LSrc) (rest : List Word)
    (hw : (cvtOk dty sty && (cvtFtz dty sty || !ftz) && (cvtSat dty || !sat) && b.isSome == cvtPacks dty sty &&
      decide (lCount (a :: optL b) ≤ 1)) = true) :
    decode (encLX p d.code a.code (optLSrc b) (lxExt 0x40 sty.code dty.code rm.code (b2n ftz) (b2n sat) 0 0 0) (lLits (a :: optList b)) ++ rest) =
      .ok (.cvt p dty sty rm ftz sat d a b, (encLX p d.code a.code (optLSrc b) (lxExt 0x40 sty.code dty.code rm.code (b2n ftz) (b2n sat) 0 0 0)
        (lLits (a :: optList b))).length) := by
  simp only [Bool.and_eq_true] at hw
  obtain ⟨⟨⟨⟨ok, hf⟩, hsat⟩, hp⟩, hl⟩ := hw
  have hd := decide_eq_true d.code_lt
  have h1 := sty.code_lt
  have h2 := dty.code_lt
  have h1' := decide_eq_true h1
  have h2' := decide_eq_true h2
  have hr := rm.code_lt
  have hz := b2n_lt ftz
  have hs := b2n_lt sat
  have hc1 : sty.code % 32 = sty.code := by omega
  have hc2 : sty.code / 32 = 0 := by omega
  have hf' : (cvtFtz dty sty || b2n ftz == 0) = true := by cases ftz <;> simp_all [b2n]
  have hs' : (cvtSat dty || b2n sat == 0) = true := by cases sat <;> simp_all [b2n]
  obtain ⟨e1, e2, e3, e4, e5, e6, e7, e8, e9, e10⟩ := lxExt_bits 0x40 sty.code dty.code rm.code (b2n ftz) (b2n sat) 0 0 0 (by decide) (by omega) (by omega) hr hz hs (by decide) (by decide) (by decide)
  rw [decode_lx _ _ _ _ _ _ _ (Nat.lt_trans d.code_lt (by decide)) a.code_lt (optLSrc_lt b), decodeLX_cvt _ _ _ _ _ _ e1]
  simp only [lxZero, e2, e3, e4, e5, e6, e7, e8, e9, e10, ldstOf_code, tyOf_code, rmodeOf_code, b2n_beq_one, hd, h1', h2', hc1, hc2, ok, hf', hs']
  cases b with
  | none =>
    have hp' : cvtPacks dty sty = false := by rw [← eq_of_beq hp]; rfl
    simp only [hp']
    exact (fin_l1 2 a rest (fun a => .cvt p dty sty rm ftz sat d a none)).trans (ok_len (Nat.add_comm 2 _))
  | some b =>
    have hp' : cvtPacks dty sty = true := by rw [← eq_of_beq hp]; rfl
    simp only [hp']
    exact (fin_l2 2 a b rest (fun a b => .cvt p dty sty rm ftz sat d a (some b)) (of_decide_eq_true hl)).trans (ok_len (Nat.add_comm 2 _))

theorem roundtrip_dqblk (p : Pred) (ty : QTy) (rm : RMode) (ftz : Bool) (d : LDst) (a : LSrc) (b : Option LSrc) (rest : List Word)
    (hw : (b.isSome == (ty == .e2m1) && decide (lCount (a :: optL b) ≤ 1)) = true) :
    decode (encLX p d.code a.code (optLSrc b) (lxExt 0x43 0 ty.code rm.code (b2n ftz) 0 0 0 0) (lLits (a :: optList b)) ++ rest) =
      .ok (.dqblk p ty rm ftz d a b, (encLX p d.code a.code (optLSrc b) (lxExt 0x43 0 ty.code rm.code (b2n ftz) 0 0 0 0)
        (lLits (a :: optList b))).length) := by
  simp only [Bool.and_eq_true] at hw
  obtain ⟨hp, hl⟩ := hw
  have hd := decide_eq_true d.code_lt
  obtain ⟨e1, e2, e3, e4, e5, e6, e7, e8, e9, e10⟩ := lxExt_bits 0x43 0 ty.code rm.code (b2n ftz) 0 0 0 0 (by decide) (by decide) ty.code_lt rm.code_lt (b2n_lt ftz) (by decide) (by decide) (by decide) (by decide)
  rw [decode_lx _ _ _ _ _ _ _ (Nat.lt_trans d.code_lt (by decide)) a.code_lt (optLSrc_lt b), decodeLX_dqblk ty _ _ _ _ _ _ e1 (by rw [e3]; exact qtyOf_code ty)]
  simp only [lxZero, e2, e3, e4, e5, e6, e7, e8, e9, e10, ldstOf_code, rmodeOf_code, b2n_beq_one, hd]
  cases b with
  | none =>
    have hp' : (ty == QTy.e2m1) = false := by rw [← eq_of_beq hp]; rfl
    have hq : ty ≠ .e2m1 := by intro h; rw [h] at hp'; cases hp'
    simp only [hq, hp', if_false]
    exact (fin_l1 2 a rest (fun a => .dqblk p ty rm ftz d a none)).trans (ok_len (Nat.add_comm 2 _))
  | some b =>
    have hp' : (ty == QTy.e2m1) = true := by rw [← eq_of_beq hp]; rfl
    have hq : ty = .e2m1 := eq_of_beq hp'
    simp only [hq]
    exact (fin_l2 2 a b rest (fun a b => .dqblk p .e2m1 rm ftz d a (some b)) (of_decide_eq_true hl)).trans (ok_len (Nat.add_comm 2 _))

theorem roundtrip_qblk (p : Pred) (ty : QTy) (rm : RMode) (d : LDst) (a : LSrc) (b : Option LSrc) (rest : List Word)
    (hw : (!a.isLit && !optIsLit b && b.isSome == (ty == .e2m1)) = true) :
    decode (encLX p d.code a.code (optLSrc b) (lxExt 0x41 0 ty.code rm.code 0 0 0 0 0) (lLits (a :: optList b)) ++ rest) =
      .ok (.qblk p ty rm d a b, (encLX p d.code a.code (optLSrc b) (lxExt 0x41 0 ty.code rm.code 0 0 0 0 0)
        (lLits (a :: optList b))).length) := by
  simp only [Bool.and_eq_true] at hw
  obtain ⟨⟨ha, hb⟩, hp⟩ := hw
  have hd := decide_eq_true d.code_lt
  have ha' := a.code_ne ha
  have hA : a.isLit = false := by cases h : a.isLit <;> simp_all
  obtain ⟨e1, e2, e3, e4, e5, e6, e7, e8, e9, e10⟩ := lxExt_bits 0x41 0 ty.code rm.code 0 0 0 0 0 (by decide) (by decide) ty.code_lt rm.code_lt (by decide) (by decide) (by decide) (by decide) (by decide)
  rw [decode_lx _ _ _ _ _ _ _ (Nat.lt_trans d.code_lt (by decide)) a.code_lt (optLSrc_lt b), decodeLX_qblk ty _ _ _ _ _ _ e1 (by rw [e3]; exact qtyOf_code ty)]
  simp only [lxZero, e2, e3, e4, e5, e6, e7, e8, e9, e10, ldstOf_code, rmodeOf_code, hd, ha']
  cases b with
  | none =>
    have hp' : (ty == QTy.e2m1) = false := by rw [← eq_of_beq hp]; rfl
    have hq : ty ≠ .e2m1 := by intro h; rw [h] at hp'; cases hp'
    have hq' : (ty != QTy.e2m1) = true := bne_iff_ne.2 hq
    simp only [hq, hq', hp', if_false]
    refine (fin_0 2 _ (.qblk p ty rm d a none) _ ?_).trans (ok_len ?_)
    · simp [lsrcOf_code a _ hA]
    · simp [encLX, optList, lLits_nil1 a ha]
  | some b =>
    have hp' : (ty == QTy.e2m1) = true := by rw [← eq_of_beq hp]; rfl
    have hq : ty = .e2m1 := eq_of_beq hp'
    have hb' : (!b.isLit) = true := by cases b <;> first | rfl | cases hb
    have hB : b.isLit = false := by cases h : b.isLit <;> simp_all
    have hbn : (optLSrc (some b) != 127) = true := b.code_ne hb'
    subst hq
    simp only [hbn, if_true]
    refine (fin_0 2 _ (.qblk p .e2m1 rm d a (some b)) _ ?_).trans (ok_len ?_)
    · simp [lsrcOf_code a _ hA, lsrcOf_code b _ hB, optLSrc]
    · simp [encLX, optList, lLits_nil2 a b ha hb']

theorem roundtrip_qblks (p : Pred) (ty : QTy) (rm : RMode) (sat : Bool) (d : LDst) (a b : LSrc) (c : Option LSrc) (rest : List Word)
    (hw : (!a.isLit && !optIsLit c && c.isSome == (ty == .e2m1)) = true) :
    decode (encLX p d.code a.code b.code (lxExt 0x42 (optLSrc c) ty.code rm.code 0 (b2n sat) 0 0 0) (lLits (a :: b :: optList c)) ++ rest) =
      .ok (.qblks p ty rm sat d a b c, (encLX p d.code a.code b.code (lxExt 0x42 (optLSrc c) ty.code rm.code 0 (b2n sat) 0 0 0)
        (lLits (a :: b :: optList c))).length) := by
  simp only [Bool.and_eq_true] at hw
  obtain ⟨⟨ha, hc⟩, hp⟩ := hw
  have hd := decide_eq_true d.code_lt
  have ha' := a.code_ne ha
  have hA : a.isLit = false := by cases h : a.isLit <;> simp_all
  obtain ⟨e1, e2, e3, e4, e5, e6, e7, e8, e9, e10⟩ := lxExt_bits 0x42 (optLSrc c) ty.code rm.code 0 (b2n sat) 0 0 0 (by decide) (optLSrc_lt c) ty.code_lt rm.code_lt (by decide) (b2n_lt sat) (by decide) (by decide) (by decide)
  rw [decode_lx _ _ _ _ _ _ _ (Nat.lt_trans d.code_lt (by decide)) a.code_lt b.code_lt, decodeLX_qblks ty _ _ _ _ _ _ e1 (by rw [e3]; exact qtyOf_code ty)]
  simp only [lxZero, e2, e3, e4, e5, e6, e7, e8, e9, e10, ldstOf_code, rmodeOf_code, hd, ha', lsrcOf_code a _ hA, b2n_beq_one]
  cases c with
  | none =>
    have hp' : (ty == QTy.e2m1) = false := by rw [← eq_of_beq hp]; rfl
    have hq : ty ≠ .e2m1 := by intro h; rw [h] at hp'; cases hp'
    have hq' : (ty != QTy.e2m1) = true := bne_iff_ne.2 hq
    simp only [hq, hq', hp', if_false, optList, optLSrc]
    rw [lLits_skip a _ ha]
    exact (fin_l1 2 b rest (fun b => .qblks p ty rm sat d a b none)).trans (ok_len (Nat.add_comm 2 _))
  | some c =>
    have hp' : (ty == QTy.e2m1) = true := by rw [← eq_of_beq hp]; rfl
    have hq : ty = .e2m1 := eq_of_beq hp'
    have hc' : (!c.isLit) = true := by cases c <;> first | rfl | cases hc
    have hC : c.isLit = false := by cases h : c.isLit <;> simp_all
    have hcn : (optLSrc (some c) != 127) = true := c.code_ne hc'
    subst hq
    simp only [hcn, if_true, optList]
    rw [lLits_skip a _ ha, lLits_mid b c hc']
    simp only [optLSrc, lsrcOf_code c _ hC]
    exact (fin_l1 2 b rest (fun b => .qblks p .e2m1 rm sat d a b (some c))).trans (ok_len (Nat.add_comm 2 _))

theorem roundtrip_shflLong (p : Pred) (m : Bool) (ty : RTy) (d : LDst) (a b : LSrc) (pd : Option (Fin 8)) (rest : List Word)
    (hw : decide (lCount [a, b] ≤ 1) = true) :
    decode (encLX p d.code a.code b.code (lxExt 0x50 (b2n m) ty.code 0 0 0 (match pd with | none => 0 | some q => q.val) 0 (b2n pd.isSome))
        (lLits [a, b]) ++ rest) =
      .ok (.shflLong p m ty d a b pd, (encLX p d.code a.code b.code (lxExt 0x50 (b2n m) ty.code 0 0 0
        (match pd with | none => 0 | some q => q.val) 0 (b2n pd.isSome)) (lLits [a, b])).length) := by
  have hd := decide_eq_true d.code_lt
  have ht := ty.code_lt
  have ht2 := decide_eq_true ht
  have hm := b2n_lt m
  have hm1 : b2n m / 2 = 0 := by omega
  have hm2 : b2n m % 2 = b2n m := by omega
  cases pd with
  | none =>
    obtain ⟨e1, e2, e3, e4, e5, e6, e7, e8, e9, e10⟩ := lxExt_bits 0x50 (b2n m) ty.code 0 0 0 0 0 0 (by decide) (by omega) (by omega) (by decide) (by decide) (by decide) (by decide) (by decide) (by decide)
    rw [decode_lx _ _ _ _ _ _ _ (Nat.lt_trans d.code_lt (by decide)) a.code_lt b.code_lt]
    refine (decodeLX_shfl _ _ _ _ _ _ e1).trans ?_
    simp only [lxZero, e2, e3, e4, e5, e6, e7, e8, e9, e10, ldstOf_code, rtyOf_code, b2n_beq_one, hd, ht2, hm1, hm2]
    exact (fin_l2 2 a b rest (fun a b => .shflLong p m ty d a b none) (of_decide_eq_true hw)).trans (ok_len (Nat.add_comm 2 _))
  | some q =>
    obtain ⟨e1, e2, e3, e4, e5, e6, e7, e8, e9, e10⟩ := lxExt_bits 0x50 (b2n m) ty.code 0 0 0 q.val 0 1 (by decide) (by omega) (by omega) (by decide) (by decide) (by decide) q.isLt (by decide) (by decide)
    rw [decode_lx _ _ _ _ _ _ _ (Nat.lt_trans d.code_lt (by decide)) a.code_lt b.code_lt]
    refine (decodeLX_shfl _ _ _ _ _ _ e1).trans ?_
    simp only [lxZero, e2, e3, e4, e5, e6, e7, e8, e9, e10, ldstOf_code, rtyOf_code, b2n_beq_one, hd, ht2, hm1, hm2, finOf_val]
    exact (fin_l2 2 a b rest (fun a b => .shflLong p m ty d a b (some q)) (of_decide_eq_true hw)).trans (ok_len (Nat.add_comm 2 _))

/-! ## Other lane words -/

theorem roundtrip_nop (p : Pred) (rest : List Word) :
    decode ([wHead 0 0x01 p.code 0] ++ rest) = .ok (.nop p, 1) := by
  rw [List.singleton_append, decode_lane _ _ _ _ (by decide) p.code_lt (by decide), predOf_code]; rfl

theorem roundtrip_lexit (p : Pred) (rest : List Word) :
    decode ([wHead 0 0x04 p.code 0] ++ rest) = .ok (.lexit p, 1) := by
  rw [List.singleton_append, decode_lane _ _ _ _ (by decide) p.code_lt (by decide), predOf_code]; rfl

theorem roundtrip_lbr (p : Pred) (o : BitVec 21) (rest : List Word) :
    decode ([wHead 0 0x03 p.code o.toNat] ++ rest) = .ok (.lbr p o, 1) := by
  rw [List.singleton_append, decode_lane _ _ _ _ (by decide) p.code_lt o.isLt, predOf_code]
  show Except.ok (Instr.lbr p (BitVec.ofNat 21 o.toNat), 1) = _
  rw [BitVec.ofNat_toNat, BitVec.setWidth_eq]

theorem roundtrip_lbrRg (p : Pred) (o : BitVec 21) (g : BitVec 8) (q : BitVec 7) (rest : List Word) :
    decode ([wHead 0 0x05 p.code o.toNat, BitVec.ofNat 32 (q.toNat * 2 ^ 8 + g.toNat)] ++ rest) = .ok (.lbrRg p o g q, 2) := by
  have hq := q.isLt
  have hg := g.isLt
  rw [List.cons_append, decode_lane _ _ _ _ (by decide) p.code_lt o.isLt, predOf_code]
  have h0 : bits (BitVec.ofNat 32 (q.toNat * 2 ^ 8 + g.toNat)).toNat 15 17 = 0 := by simp only [bits, BitVec.toNat_ofNat]; omega
  have h1 : bits (BitVec.ofNat 32 (q.toNat * 2 ^ 8 + g.toNat)).toNat 0 8 = g.toNat := by simp only [bits, BitVec.toNat_ofNat]; omega
  have h2 : bits (BitVec.ofNat 32 (q.toNat * 2 ^ 8 + g.toNat)).toNat 8 7 = q.toNat := by simp only [bits, BitVec.toNat_ofNat]; omega
  simp only [decodeLane, l3Of, List.cons_append, List.nil_append, h0, h1, h2, BitVec.ofNat_toNat, BitVec.setWidth_eq]
  exact fin_0 2 _ _ _ rfl

theorem roundtrip_sreg (p : Pred) (d : LDst) (sr : SReg) (rest : List Word) :
    decode ([wHead 0 0x02 p.code (d.code * 2 ^ 14 + sr.code * 2 ^ 8)] ++ rest) = .ok (.sreg p d sr, 1) := by
  have hd := d.code_lt
  have hs := sr.code_lt
  rw [List.singleton_append, decode_lane _ _ _ _ (by decide) p.code_lt (by omega), predOf_code]
  have h0 : bits (d.code * 2 ^ 14 + sr.code * 2 ^ 8) 14 7 = d.code := by simp only [bits]; omega
  have h1 : bits (d.code * 2 ^ 14 + sr.code * 2 ^ 8) 8 6 = sr.code := by simp only [bits]; omega
  have h2 : bits (d.code * 2 ^ 14 + sr.code * 2 ^ 8) 0 8 = 0 := by simp only [bits]; omega
  show fin (decide (bits (d.code * 2 ^ 14 + sr.code * 2 ^ 8) 14 7 < 120) && decide (bits (d.code * 2 ^ 14 + sr.code * 2 ^ 8) 8 6 < 19))
    (bits (d.code * 2 ^ 14 + sr.code * 2 ^ 8) 0 8 == 0) 0 1 rest.head?
    (fun _ => .sreg p (ldstOf (bits (d.code * 2 ^ 14 + sr.code * 2 ^ 8) 14 7)) (sregOf (bits (d.code * 2 ^ 14 + sr.code * 2 ^ 8) 8 6))) = _
  simp only [h0, h1, h2, decide_eq_true hd, decide_eq_true hs, ldstOf_code, sregOf_code]
  exact fin_0 1 _ _ _ rfl

/-- Words of format L2: D, A and a function code. -/
theorem decode_l2 (maj : Nat) (p : Pred) (d a f : Nat) (rest : List Word) (hm : maj < 64) (hd : d < 128) (ha : a < 128) (hf : f < 128) :
    decode (wHead 0 maj p.code (d * 2 ^ 14 + a * 2 ^ 7 + f) :: rest) = decodeLane maj p (d * 2 ^ 14 + a * 2 ^ 7 + f) rest := by
  rw [decode_lane _ _ _ _ hm p.code_lt (bits_777 d a f hd ha hf).1, predOf_code]

theorem decodeLane_sfu {mk} (p : Pred) (body : Nat) (rest : List Word) (h : sfuOf (bits body 0 7) = some mk) :
    decodeLane 0x2A p body rest = fin (decide (bits body 14 7 < 120)) true (isL (bits body 7 7)) 1 rest.head?
      (fun w => mk p (ldstOf (bits body 14 7)) (lsrcOf (bits body 7 7) w)) := by
  show (match sfuOf (bits body 0 7) with
    | none => _
    | some mk => _) = _
  rw [h]

theorem roundtrip_sfu {mk} (f : Nat) (hf : f < 128) (h : sfuOf f = some mk) (p : Pred) (d : LDst) (a : LSrc) (rest : List Word) :
    decode (encL2 0x2A p d a f ++ rest) = .ok (mk p d a, (encL2 0x2A p d a f).length) := by
  have hd := Nat.lt_trans d.code_lt (show 120 < 128 by decide)
  obtain ⟨_, h1, h2, h3⟩ := bits_777 d.code a.code f hd a.code_lt hf
  rw [encL2, List.cons_append, decode_l2 _ _ _ _ _ _ (by decide) hd a.code_lt hf, decodeLane_sfu p _ _ (by rw [h3]; exact h)]
  simp only [h1, h2, decide_eq_true d.code_lt, ldstOf_code]
  exact (fin_l1 1 a rest (fun a => mk p d a)).trans (ok_len (Nat.add_comm 1 _))

theorem roundtrip_mov (p : Pred) (d : LDst) (a : LSrc) (rest : List Word) :
    decode (encL2 0x2B p d a 0 ++ rest) = .ok (.mov p d a, (encL2 0x2B p d a 0).length) := by
  have hd := Nat.lt_trans d.code_lt (show 120 < 128 by decide)
  obtain ⟨_, h1, h2, h3⟩ := bits_777 d.code a.code 0 hd a.code_lt (by decide)
  rw [encL2, List.cons_append, decode_l2 _ _ _ _ _ _ (by decide) hd a.code_lt (by decide)]
  simp only [decodeLane, l3Of, h1, h2, h3, decide_eq_true d.code_lt, ldstOf_code]
  exact (fin_l1 1 a rest (fun a => .mov p d a)).trans (ok_len (Nat.add_comm 1 _))

theorem roundtrip_redux (p : Pred) (op : ROp) (ty : RTy) (d : LDst) (a : LSrc) (rest : List Word)
    (hw : (match op with
      | .add | .min | .max => true
      | _ => ty != .f32 && ty != .f64) = true) :
    decode (encL2 0x28 p d a (op.code * 2 ^ 4 + ty.code) ++ rest) = .ok (.redux p op ty d a, (encL2 0x28 p d a (op.code * 2 ^ 4 + ty.code)).length) := by
  have hd := Nat.lt_trans d.code_lt (show 120 < 128 by decide)
  have ho := op.code_lt
  have ht := ty.code_lt
  obtain ⟨_, h1, h2, h3⟩ := bits_777 d.code a.code (op.code * 2 ^ 4 + ty.code) hd a.code_lt (by omega)
  rw [encL2, List.cons_append, decode_l2 _ _ _ _ _ _ (by decide) hd a.code_lt (by omega)]
  have b1 : bits (op.code * 2 ^ 4 + ty.code) 4 3 = op.code := by simp only [bits]; omega
  have b2 : bits (op.code * 2 ^ 4 + ty.code) 0 4 = ty.code := by simp only [bits]; omega
  have hc : (decide (op.code < 3) || decide (ty.code < 4)) = true := by
    cases op <;> cases ty <;> first | rfl | cases hw
  simp only [decodeLane, l3Of, h1, h2, h3, b1, b2, decide_eq_true d.code_lt, decide_eq_true ho, decide_eq_true ht, hc, ldstOf_code, ropOf_code, rtyOf_code]
  exact (fin_l1 1 a rest (fun a => .redux p op ty d a)).trans (ok_len (Nat.add_comm 1 _))

/-- A compare's fields. -/
theorem bits_lc (pd cc a b : Nat) (hp : pd < 8) (hc : cc < 16) (ha : a < 128) (hb : b < 128) :
    let body := pd * 2 ^ 18 + cc * 2 ^ 14 + a * 2 ^ 7 + b
    body < 2 ^ 21 ∧ bits body 18 3 = pd ∧ bits body 14 4 = cc ∧ bits body 7 7 = a ∧ bits body 0 7 = b := by
  simp only [bits]; omega

theorem roundtrip_icmp (p : Pred) (cc : ICC) (pd : Fin 8) (a b : LSrc) (rest : List Word) (hw : decide (lCount [a, b] ≤ 1) = true) :
    decode (encLC 0x15 p pd cc.code a b ++ rest) = .ok (.icmp p cc pd a b, (encLC 0x15 p pd cc.code a b).length) := by
  have hc := cc.code_lt
  obtain ⟨h0, h1, h2, h3, h4⟩ := bits_lc pd.val cc.code a.code b.code pd.isLt (by omega) a.code_lt b.code_lt
  rw [encLC, List.cons_append, decode_lane _ _ _ _ (by decide) p.code_lt h0, predOf_code]
  simp only [decodeLane, l3Of, h1, h2, h3, h4, decide_eq_true hc, iccOf_code, finOf_val]
  exact (fin_l2 1 a b rest (fun a b => .icmp p cc pd a b) (of_decide_eq_true hw)).trans (ok_len (Nat.add_comm 1 _))

theorem roundtrip_fcmp (p : Pred) (cc : FCC) (pd : Fin 8) (a b : LSrc) (rest : List Word) (hw : decide (lCount [a, b] ≤ 1) = true) :
    decode (encLC 0x16 p pd cc.code a b ++ rest) = .ok (.fcmpF32 p cc pd a b, (encLC 0x16 p pd cc.code a b).length) := by
  have hc := cc.code_lt
  obtain ⟨h0, h1, h2, h3, h4⟩ := bits_lc pd.val cc.code a.code b.code pd.isLt (by omega) a.code_lt b.code_lt
  rw [encLC, List.cons_append, decode_lane _ _ _ _ (by decide) p.code_lt h0, predOf_code]
  simp only [decodeLane, l3Of, h1, h2, h3, h4, decide_eq_true hc, fccOf_code, finOf_val]
  exact (fin_l2 1 a b rest (fun a b => .fcmpF32 p cc pd a b) (of_decide_eq_true hw)).trans (ok_len (Nat.add_comm 1 _))

/-! ## Short memory words -/

theorem baseCode15_lt (b : Option (Fin 15)) : baseCode15 b < 16 := by
  cases b with
  | none => decide
  | some b => exact Nat.lt_succ_of_lt b.isLt

theorem base15_code (b : Option (Fin 15)) :
    (if baseCode15 b < 15 then some (Fin.ofNat 15 (baseCode15 b)) else none) = b := by
  cases b with
  | none => rfl
  | some b => simp only [baseCode15, b.isLt, if_true, finOf_val]

theorem LMAddr.enc_lt (m : LMAddr) : m.enc < 1024 := by
  cases m with
  | indexed ws sc oc => have := ws.isLt; have := sc.isLt; have := oc.isLt; simp only [LMAddr.enc]; omega
  | direct o => have := o.isLt; simp only [LMAddr.enc]; omega

theorem lmemOf_enc (d : Nat) (m : LMem) (hd : d < 128) :
    let body := d * 2 ^ 14 + baseCode15 m.base * 2 ^ 10 + m.addr.enc
    body < 2 ^ 21 ∧ bits body 14 7 = d ∧ lmemOf body = m := by
  obtain ⟨b, ad⟩ := m
  have hb := baseCode15_lt b
  have ha := ad.enc_lt
  have e1 : bits (d * 2 ^ 14 + baseCode15 b * 2 ^ 10 + ad.enc) 10 4 = baseCode15 b := by simp only [bits]; omega
  refine ⟨by simp only; omega, by simp only [bits]; omega, ?_⟩
  simp only [lmemOf, e1, base15_code]
  cases ad with
  | indexed ws sc oc =>
    have := ws.isLt; have := sc.isLt; have := oc.isLt
    have e2 : bits (d * 2 ^ 14 + baseCode15 b * 2 ^ 10 + (LMAddr.indexed ws sc oc).enc) 9 1 = 1 := by simp only [bits, LMAddr.enc]; omega
    have e3 : bits (d * 2 ^ 14 + baseCode15 b * 2 ^ 10 + (LMAddr.indexed ws sc oc).enc) 6 3 = ws.val := by simp only [bits, LMAddr.enc]; omega
    have e4 : bits (d * 2 ^ 14 + baseCode15 b * 2 ^ 10 + (LMAddr.indexed ws sc oc).enc) 4 2 = sc.val := by simp only [bits, LMAddr.enc]; omega
    have e5 : bits (d * 2 ^ 14 + baseCode15 b * 2 ^ 10 + (LMAddr.indexed ws sc oc).enc) 0 4 = oc.val := by simp only [bits, LMAddr.enc]; omega
    simp only [e2, e3, e4, e5, finOf_val, if_true]
  | direct o =>
    have := o.isLt
    have e2 : bits (d * 2 ^ 14 + baseCode15 b * 2 ^ 10 + (LMAddr.direct o).enc) 9 1 = 0 := by simp only [bits, LMAddr.enc]; omega
    have e3 : bits (d * 2 ^ 14 + baseCode15 b * 2 ^ 10 + (LMAddr.direct o).enc) 0 9 = o.toNat := by simp only [bits, LMAddr.enc]; omega
    simp only [e2, e3, BitVec.ofNat_toNat, BitVec.setWidth_eq]
    rfl

theorem roundtrip_ld (p : Pred) (d : LDst) (m : LMem) (rest : List Word) :
    decode (encLM 0x30 p d.code m [] ++ rest) = .ok (.ld p d m, 1) := by
  obtain ⟨h0, h1, h2⟩ := lmemOf_enc d.code m (Nat.lt_trans d.code_lt (by decide))
  rw [encLM, List.cons_append, decode_lane _ _ _ _ (by decide) p.code_lt h0, predOf_code]
  simp only [decodeLane, l3Of, h1, h2, decide_eq_true d.code_lt, ldstOf_code]
  exact fin_0 1 _ _ _ rfl

theorem roundtrip_lds (p : Pred) (d : LDst) (m : LMem) (rest : List Word) :
    decode (encLM 0x32 p d.code m [] ++ rest) = .ok (.lds p d m, 1) := by
  obtain ⟨h0, h1, h2⟩ := lmemOf_enc d.code m (Nat.lt_trans d.code_lt (by decide))
  rw [encLM, List.cons_append, decode_lane _ _ _ _ (by decide) p.code_lt h0, predOf_code]
  simp only [decodeLane, l3Of, h1, h2, decide_eq_true d.code_lt, ldstOf_code]
  exact fin_0 1 _ _ _ rfl

theorem roundtrip_st (p : Pred) (s : LSrc) (m : LMem) (rest : List Word) :
    decode (encLM 0x31 p s.code m (lLits [s]) ++ rest) = .ok (.st p s m, (encLM 0x31 p s.code m (lLits [s])).length) := by
  obtain ⟨h0, h1, h2⟩ := lmemOf_enc s.code m s.code_lt
  rw [encLM, List.cons_append, decode_lane _ _ _ _ (by decide) p.code_lt h0, predOf_code]
  simp only [decodeLane, l3Of, h1, h2]
  exact (fin_l1 1 s rest (fun s => .st p s m)).trans (ok_len (Nat.add_comm 1 _))

theorem roundtrip_sts (p : Pred) (s : LSrc) (m : LMem) (rest : List Word) :
    decode (encLM 0x33 p s.code m (lLits [s]) ++ rest) = .ok (.sts p s m, (encLM 0x33 p s.code m (lLits [s])).length) := by
  obtain ⟨h0, h1, h2⟩ := lmemOf_enc s.code m s.code_lt
  rw [encLM, List.cons_append, decode_lane _ _ _ _ (by decide) p.code_lt h0, predOf_code]
  simp only [decodeLane, l3Of, h1, h2]
  exact (fin_l1 1 s rest (fun s => .sts p s m)).trans (ok_len (Nat.add_comm 1 _))

theorem bits_atom (d s b o : Nat) (hd : d < 128) (hs : s < 128) (hb : b < 16) (ho : o < 8) :
    let body := d * 2 ^ 14 + s * 2 ^ 7 + b * 2 ^ 3 + o
    body < 2 ^ 21 ∧ bits body 14 7 = d ∧ bits body 7 7 = s ∧ bits body 3 4 = b ∧ bits body 0 3 = o := by
  simp only [bits]; omega

theorem roundtrip_atom (p : Pred) (op : SAOp) (d : LDst) (b : Option (Fin 15)) (s : LSrc) (rest : List Word) :
    decode (wHead 0 0x34 p.code (d.code * 2 ^ 14 + s.code * 2 ^ 7 + baseCode15 b * 2 ^ 3 + op.code) :: lLits [s] ++ rest) =
      .ok (.atom p op d b s, (wHead 0 0x34 p.code (d.code * 2 ^ 14 + s.code * 2 ^ 7 + baseCode15 b * 2 ^ 3 + op.code) :: lLits [s]).length) := by
  have ho := op.code_lt
  obtain ⟨h0, h1, h2, h3, h4⟩ := bits_atom d.code s.code (baseCode15 b) op.code (Nat.lt_trans d.code_lt (by decide)) s.code_lt (baseCode15_lt b) (by omega)
  rw [List.cons_append, decode_lane _ _ _ _ (by decide) p.code_lt h0, predOf_code]
  simp only [decodeLane, l3Of, h1, h2, h3, h4, decide_eq_true d.code_lt, decide_eq_true ho, ldstOf_code, saopOf_code, base15_code]
  exact (fin_l1 1 s rest (fun s => .atom p op d b s)).trans (ok_len (Nat.add_comm 1 _))

theorem roundtrip_atomNoret (p : Pred) (op : SAOp) (b : Option (Fin 15)) (s : LSrc) (rest : List Word) :
    decode (wHead 0 0x35 p.code (s.code * 2 ^ 7 + baseCode15 b * 2 ^ 3 + op.code) :: lLits [s] ++ rest) =
      .ok (.atomNoret p op b s, (wHead 0 0x35 p.code (s.code * 2 ^ 7 + baseCode15 b * 2 ^ 3 + op.code) :: lLits [s]).length) := by
  have ho := op.code_lt
  obtain ⟨h0, h1, h2, h3, h4⟩ := bits_atom 0 s.code (baseCode15 b) op.code (by decide) s.code_lt (baseCode15_lt b) (by omega)
  simp only [Nat.zero_mul, Nat.zero_add] at h0 h1 h2 h3 h4
  rw [List.cons_append, decode_lane _ _ _ _ (by decide) p.code_lt h0, predOf_code]
  simp only [decodeLane, l3Of, h1, h2, h3, h4, decide_eq_true ho, saopOf_code, base15_code]
  exact (fin_l1 1 s rest (fun s => .atomNoret p op b s)).trans (ok_len (Nat.add_comm 1 _))

/-! ## Long memory words -/

/-- The base code of a long operand. -/
def LXMem.baseCode (m : LXMem) : Nat := match m.base with | none => 62 | some b => b.val
/-- The index fields of a long operand. -/
def LXMem.idxCode (m : LXMem) : Nat := match m.idx with | none => 0 | some (ws, sc) => 2 ^ 7 + ws.val * 2 ^ 4 + sc.val * 2 ^ 2

theorem LXMem.baseCode_lt (m : LXMem) : m.baseCode < 63 := by
  obtain ⟨b, i, o⟩ := m
  cases b with
  | none => show 62 < 63; decide
  | some b => exact Nat.lt_succ_of_lt b.isLt

theorem LXMem.idxCode_lt (m : LXMem) : m.idxCode < 256 := by
  obtain ⟨b, i, o⟩ := m
  cases i with
  | none => show 0 < 256; decide
  | some i => have := i.1.isLt; have := i.2.isLt; simp only [LXMem.idxCode]; omega

theorem LXMem.base_code (m : LXMem) : (if m.baseCode < 62 then some (Fin.ofNat 62 m.baseCode) else none) = m.base := by
  obtain ⟨b, i, o⟩ := m
  cases b with
  | none => rfl
  | some b => simp only [LXMem.baseCode, b.isLt, if_true, finOf_val]

/-- The fields of a long memory word's body. -/
theorem bits_lmx (d nr : Nat) (m : LXMem) (hd : d < 128) (hn : nr < 2) :
    let body := d * 2 ^ 14 + m.baseCode * 2 ^ 8 + m.idxCode + nr
    body < 2 ^ 21 ∧ bits body 14 7 = d ∧ bits body 8 6 = m.baseCode ∧ bits body 0 1 = nr ∧ bits body 1 1 = 0 ∧
    (if bits body 7 1 = 1 then some (Fin.ofNat 8 (bits body 4 3), Fin.ofNat 4 (bits body 2 2)) else none) = m.idx ∧
    (bits body 7 1 == 1 || (bits body 4 3 == 0 && bits body 2 2 == 0)) = true := by
  have hb := m.baseCode_lt
  obtain ⟨b, i, o⟩ := m
  cases i with
  | none =>
    generalize LXMem.baseCode ⟨b, none, o⟩ = bb at *
    have h7 : bits (d * 2 ^ 14 + bb * 2 ^ 8 + 0 + nr) 7 1 = 0 := by simp only [bits]; omega
    have h4 : bits (d * 2 ^ 14 + bb * 2 ^ 8 + 0 + nr) 4 3 = 0 := by simp only [bits]; omega
    have h2 : bits (d * 2 ^ 14 + bb * 2 ^ 8 + 0 + nr) 2 2 = 0 := by simp only [bits]; omega
    simp only [LXMem.idxCode, h7, h4, h2]
    simp only [bits]
    refine ⟨by omega, by omega, by omega, by omega, by omega, by trivial, by trivial⟩
  | some i =>
    obtain ⟨ws, sc⟩ := i
    have hw := ws.isLt
    have hs := sc.isLt
    generalize LXMem.baseCode ⟨b, some (ws, sc), o⟩ = bb at *
    have h7 : bits (d * 2 ^ 14 + bb * 2 ^ 8 + (2 ^ 7 + ws.val * 2 ^ 4 + sc.val * 2 ^ 2) + nr) 7 1 = 1 := by simp only [bits]; omega
    have h4 : bits (d * 2 ^ 14 + bb * 2 ^ 8 + (2 ^ 7 + ws.val * 2 ^ 4 + sc.val * 2 ^ 2) + nr) 4 3 = ws.val := by simp only [bits]; omega
    have h2 : bits (d * 2 ^ 14 + bb * 2 ^ 8 + (2 ^ 7 + ws.val * 2 ^ 4 + sc.val * 2 ^ 2) + nr) 2 2 = sc.val := by simp only [bits]; omega
    simp only [LXMem.idxCode, h7, h4, h2, finOf_val, if_true]
    simp only [bits]
    refine ⟨by omega, by omega, by omega, by omega, by omega, by trivial, by trivial⟩

/-- The extension word of a long memory instruction. -/
def lmxExt (op sz ord scope hint s ol : Nat) : Word :=
  BitVec.ofNat 32 (op * 2 ^ 26 + sz * 2 ^ 23 + ord * 2 ^ 21 + scope * 2 ^ 18 + hint * 2 ^ 16 + s * 2 ^ 9 + ol * 2)

theorem lmxExt_bits (op sz ord scope hint s ol : Nat) (h1 : op < 64) (h2 : sz < 8) (h3 : ord < 4) (h4 : scope < 8) (h5 : hint < 4)
    (h6 : s < 128) (h7 : ol < 2) :
    let x := (lmxExt op sz ord scope hint s ol).toNat
    bits x 26 6 = op ∧ bits x 23 3 = sz ∧ bits x 21 2 = ord ∧ bits x 18 3 = scope ∧ bits x 16 2 = hint ∧ bits x 9 7 = s ∧
    bits x 2 7 = 0 ∧ bits x 1 1 = ol ∧ bits x 0 1 = 0 := by
  have h : op * 2 ^ 26 + sz * 2 ^ 23 + ord * 2 ^ 21 + scope * 2 ^ 18 + hint * 2 ^ 16 + s * 2 ^ 9 + ol * 2 < 2 ^ 32 := by omega
  simp only [lmxExt, BitVec.toNat_ofNat, Nat.mod_eq_of_lt h]
  refine ⟨?_, ?_, ?_, ?_, ?_, ?_, ?_, ?_, ?_⟩
  · rw [show op * 2 ^ 26 + sz * 2 ^ 23 + ord * 2 ^ 21 + scope * 2 ^ 18 + hint * 2 ^ 16 + s * 2 ^ 9 + ol * 2 = (0) * 2 ^ (26 + 6) + op * 2 ^ 26 + (sz * 2 ^ 23 + ord * 2 ^ 21 + scope * 2 ^ 18 + hint * 2 ^ 16 + s * 2 ^ 9 + ol * 2) from by ring, bits_mid _ _ _ _ _ (by assumption) (by clear h; norm_num; omega)]
  · rw [show op * 2 ^ 26 + sz * 2 ^ 23 + ord * 2 ^ 21 + scope * 2 ^ 18 + hint * 2 ^ 16 + s * 2 ^ 9 + ol * 2 = (op * 2 ^ 0) * 2 ^ (23 + 3) + sz * 2 ^ 23 + (ord * 2 ^ 21 + scope * 2 ^ 18 + hint * 2 ^ 16 + s * 2 ^ 9 + ol * 2) from by ring, bits_mid _ _ _ _ _ (by assumption) (by clear h; norm_num; omega)]
  · rw [show op * 2 ^ 26 + sz * 2 ^ 23 + ord * 2 ^ 21 + scope * 2 ^ 18 + hint * 2 ^ 16 + s * 2 ^ 9 + ol * 2 = (op * 2 ^ 3 + sz * 2 ^ 0) * 2 ^ (21 + 2) + ord * 2 ^ 21 + (scope * 2 ^ 18 + hint * 2 ^ 16 + s * 2 ^ 9 + ol * 2) from by ring, bits_mid _ _ _ _ _ (by assumption) (by clear h; norm_num; omega)]
  · rw [show op * 2 ^ 26 + sz * 2 ^ 23 + ord * 2 ^ 21 + scope * 2 ^ 18 + hint * 2 ^ 16 + s * 2 ^ 9 + ol * 2 = (op * 2 ^ 5 + sz * 2 ^ 2 + ord * 2 ^ 0) * 2 ^ (18 + 3) + scope * 2 ^ 18 + (hint * 2 ^ 16 + s * 2 ^ 9 + ol * 2) from by ring, bits_mid _ _ _ _ _ (by assumption) (by clear h; norm_num; omega)]
  · rw [show op * 2 ^ 26 + sz * 2 ^ 23 + ord * 2 ^ 21 + scope * 2 ^ 18 + hint * 2 ^ 16 + s * 2 ^ 9 + ol * 2 = (op * 2 ^ 8 + sz * 2 ^ 5 + ord * 2 ^ 3 + scope * 2 ^ 0) * 2 ^ (16 + 2) + hint * 2 ^ 16 + (s * 2 ^ 9 + ol * 2) from by ring, bits_mid _ _ _ _ _ (by assumption) (by clear h; norm_num; omega)]
  · rw [show op * 2 ^ 26 + sz * 2 ^ 23 + ord * 2 ^ 21 + scope * 2 ^ 18 + hint * 2 ^ 16 + s * 2 ^ 9 + ol * 2 = (op * 2 ^ 10 + sz * 2 ^ 7 + ord * 2 ^ 5 + scope * 2 ^ 2 + hint * 2 ^ 0) * 2 ^ (9 + 7) + s * 2 ^ 9 + (ol * 2) from by ring, bits_mid _ _ _ _ _ (by assumption) (by clear h; norm_num; omega)]
  · rw [show op * 2 ^ 26 + sz * 2 ^ 23 + ord * 2 ^ 21 + scope * 2 ^ 18 + hint * 2 ^ 16 + s * 2 ^ 9 + ol * 2 = (op * 2 ^ 17 + sz * 2 ^ 14 + ord * 2 ^ 12 + scope * 2 ^ 9 + hint * 2 ^ 7 + s * 2 ^ 0) * 2 ^ (2 + 7) + 0 * 2 ^ 2 + (ol * 2) from by ring, bits_mid _ _ _ _ _ (by norm_num) (by clear h; norm_num; omega)]
  · rw [show op * 2 ^ 26 + sz * 2 ^ 23 + ord * 2 ^ 21 + scope * 2 ^ 18 + hint * 2 ^ 16 + s * 2 ^ 9 + ol * 2 = (op * 2 ^ 24 + sz * 2 ^ 21 + ord * 2 ^ 19 + scope * 2 ^ 16 + hint * 2 ^ 14 + s * 2 ^ 7) * 2 ^ (1 + 1) + ol * 2 ^ 1 + (0) from by ring, bits_mid _ _ _ _ _ (by assumption) (by norm_num)]
  · rw [show op * 2 ^ 26 + sz * 2 ^ 23 + ord * 2 ^ 21 + scope * 2 ^ 18 + hint * 2 ^ 16 + s * 2 ^ 9 + ol * 2 = (op * 2 ^ 25 + sz * 2 ^ 22 + ord * 2 ^ 20 + scope * 2 ^ 17 + hint * 2 ^ 15 + s * 2 ^ 8 + ol * 2 ^ 0) * 2 ^ (0 + 1) + 0 * 2 ^ 0 + (0) from by ring, bits_mid _ _ _ _ _ (by norm_num) (by norm_num)]

theorem encLMX_eq (p : Pred) (d nr : Nat) (m : LXMem) (op sz ord scope hint s : Nat) (lits : List Word) :
    encLMX p d nr m op sz ord scope hint s lits =
      wHead 0 0x36 p.code (d * 2 ^ 14 + m.baseCode * 2 ^ 8 + m.idxCode + nr) :: lmxExt op sz ord scope hint s (b2n m.off.isSome) ::
        (offLits m.off ++ lits) := rfl

theorem decode_lmx (p : Pred) (d nr : Nat) (m : LXMem) (op sz ord scope hint s : Nat) (lits rest : List Word) (hd : d < 128) (hn : nr < 2) :
    decode (encLMX p d nr m op sz ord scope hint s lits ++ rest) =
      decodeLMX p (d * 2 ^ 14 + m.baseCode * 2 ^ 8 + m.idxCode + nr) (lmxExt op sz ord scope hint s (b2n m.off.isSome)).toNat
        (offLits m.off ++ lits ++ rest).head? := by
  rw [encLMX_eq, List.cons_append, List.cons_append, decode_lane _ _ _ _ (by decide) p.code_lt (bits_lmx d nr m hd hn).1, predOf_code]
  simp only [decodeLane, l3Of]

theorem fin_off0 (n : Nat) (off : Option Word) (rest : List Word) (mk : Option Word → Instr) :
    fin true true (b2n off.isSome) n (offLits off ++ [] ++ rest).head? (fun w => mk (if b2n off.isSome = 1 then some w else none)) =
      .ok (mk off, n + (offLits off ++ []).length) := by
  cases off <;> rfl

theorem fin_off1 (n : Nat) (off : Option Word) (a : LSrc) (rest : List Word) (mk : Option Word → LSrc → Instr)
    (h : offCount off + lCount [a] ≤ 1) :
    fin true true (b2n off.isSome + isL a.code) n (offLits off ++ lLits [a] ++ rest).head?
      (fun w => mk (if b2n off.isSome = 1 then some w else none) (lsrcOf a.code w)) =
      .ok (mk off a, n + (offLits off ++ lLits [a]).length) := by
  cases off <;> cases a <;>
    simp [fin, lLits, lCount, offLits, offCount, b2n, isL_v, isL_t, isL_g, isL_lit, lsrcOf_v, lsrcOf_t, lsrcOf_g, lsrcOf_lit] at h ⊢

theorem len_lmx (p : Pred) (d nr : Nat) (m : LXMem) (op sz ord scope hint s : Nat) (lits : List Word) :
    2 + (offLits m.off ++ lits).length = (encLMX p d nr m op sz ord scope hint s lits).length := Nat.add_comm 2 _

theorem LXMem.baseCode_ne (m : LXMem) : (m.baseCode != 63) = true := bne_iff_ne.2 (Nat.ne_of_lt m.baseCode_lt)

theorem decodeLMX_ld (p : Pred) (body x : Nat) (lit : Option Word) (h : bits x 26 6 = 0) :
    decodeLMX p body x lit = fin ((bits body 8 6 != 63) && decide (bits body 14 7 < 120) && decide (bits x 23 3 < 6) && decide (bits x 21 2 < 2) && (bits x 21 2 == 0 || decide (bits x 18 3 < 5)) && decide (bits x 16 2 < 2)) ((bits body 1 1 == 0 && (bits body 7 1 == 1 || (bits body 4 3 == 0 && bits body 2 2 == 0)) && bits x 2 7 == 0 && bits x 0 1 == 0) && bits body 0 1 == 0 && bits x 9 7 == 0 && (bits x 21 2 != 0 || bits x 18 3 == 0)) (bits x 1 1) 2 lit
      (fun w => .ldLong p (szOf (bits x 23 3)) (if bits x 21 2 = 1 then some (scopeOf (bits x 18 3)) else none) (bits x 16 2 == 1) (ldstOf (bits body 14 7))
        ⟨if bits body 8 6 < 62 then some (Fin.ofNat 62 (bits body 8 6)) else none,
        if bits body 7 1 = 1 then some (Fin.ofNat 8 (bits body 4 3), Fin.ofNat 4 (bits body 2 2)) else none,
        if bits x 1 1 = 1 then some w else none⟩) := by
  unfold decodeLMX; simp only [h]

theorem decodeLMX_lds (p : Pred) (body x : Nat) (lit : Option Word) (h : bits x 26 6 = 2) :
    decodeLMX p body x lit = fin ((bits body 8 6 != 63) && decide (bits body 14 7 < 120) && decide (bits x 23 3 < 6) && decide (bits x 21 2 < 2) && (bits x 21 2 == 0 || decide (bits x 18 3 < 2))) ((bits body 1 1 == 0 && (bits body 7 1 == 1 || (bits body 4 3 == 0 && bits body 2 2 == 0)) && bits x 2 7 == 0 && bits x 0 1 == 0) && bits body 0 1 == 0 && bits x 9 7 == 0 && (bits x 21 2 != 0 || bits x 18 3 == 0) && bits x 16 2 == 0) (bits x 1 1) 2 lit
      (fun w => .ldsLong p (szOf (bits x 23 3)) (if bits x 21 2 = 1 then some (scopeOf (bits x 18 3)) else none) (ldstOf (bits body 14 7))
        ⟨if bits body 8 6 < 62 then some (Fin.ofNat 62 (bits body 8 6)) else none,
        if bits body 7 1 = 1 then some (Fin.ofNat 8 (bits body 4 3), Fin.ofNat 4 (bits body 2 2)) else none,
        if bits x 1 1 = 1 then some w else none⟩) := by
  unfold decodeLMX; simp only [h]

theorem decodeLMX_pref (p : Pred) (body x : Nat) (lit : Option Word) (h : bits x 26 6 = 4) :
    decodeLMX p body x lit = fin ((bits body 8 6 != 63) && decide (bits x 16 2 < 2)) ((bits body 1 1 == 0 && (bits body 7 1 == 1 || (bits body 4 3 == 0 && bits body 2 2 == 0)) && bits x 2 7 == 0 && bits x 0 1 == 0) && bits body 0 1 == 0 && bits x 9 7 == 0 && bits x 23 3 == 0 && bits x 21 2 == 0 && bits x 18 3 == 0 && bits body 14 7 == 0) (bits x 1 1) 2 lit
      (fun w => .pref p (bits x 16 2 == 1)
        ⟨if bits body 8 6 < 62 then some (Fin.ofNat 62 (bits body 8 6)) else none,
        if bits body 7 1 = 1 then some (Fin.ofNat 8 (bits body 4 3), Fin.ofNat 4 (bits body 2 2)) else none,
        if bits x 1 1 = 1 then some w else none⟩) := by
  unfold decodeLMX; simp only [h]

theorem decodeLMX_dset (p : Pred) (body x : Nat) (lit : Option Word) (h : bits x 26 6 = 5) :
    decodeLMX p body x lit = fin ((bits body 8 6 != 63)) ((bits body 1 1 == 0 && (bits body 7 1 == 1 || (bits body 4 3 == 0 && bits body 2 2 == 0)) && bits x 2 7 == 0 && bits x 0 1 == 0) && bits body 0 1 == 0 && bits x 9 7 == 0 && bits x 23 3 == 0 && bits x 21 2 == 0 && bits x 18 3 == 0 && bits x 16 2 == 0) (bits x 1 1 + isL (bits body 14 7)) 2 lit
      (fun w => .dset p (lsrcOf (bits body 14 7) w)
        ⟨if bits body 8 6 < 62 then some (Fin.ofNat 62 (bits body 8 6)) else none,
        if bits body 7 1 = 1 then some (Fin.ofNat 8 (bits body 4 3), Fin.ofNat 4 (bits body 2 2)) else none,
        if bits x 1 1 = 1 then some w else none⟩) := by
  unfold decodeLMX; simp only [h]

theorem decodeLMX_dget (p : Pred) (body x : Nat) (lit : Option Word) (h : bits x 26 6 = 6) :
    decodeLMX p body x lit = fin ((bits body 8 6 != 63) && decide (bits body 14 7 < 120)) ((bits body 1 1 == 0 && (bits body 7 1 == 1 || (bits body 4 3 == 0 && bits body 2 2 == 0)) && bits x 2 7 == 0 && bits x 0 1 == 0) && bits body 0 1 == 0 && bits x 9 7 == 0 && bits x 23 3 == 0 && bits x 21 2 == 0 && bits x 18 3 == 0 && bits x 16 2 == 0) (bits x 1 1) 2 lit
      (fun w => .dget p (ldstOf (bits body 14 7))
        ⟨if bits body 8 6 < 62 then some (Fin.ofNat 62 (bits body 8 6)) else none,
        if bits body 7 1 = 1 then some (Fin.ofNat 8 (bits body 4 3), Fin.ofNat 4 (bits body 2 2)) else none,
        if bits x 1 1 = 1 then some w else none⟩) := by
  unfold decodeLMX; simp only [h]

theorem decodeLMX_atom (p : Pred) (body x : Nat) (lit : Option Word) (k : Nat) (hk : k < 8) (h : bits x 26 6 = 8 + k) :
    decodeLMX p body x lit = fin ((bits body 8 6 != 63) && decide (bits x 23 3 < 6) && (bits x 21 2 == 0 || decide (bits x 18 3 < 5)) && (bits body 0 1 == 1 || decide (bits body 14 7 < 120)) && (aopOf k != .cas || casOk (szOf (bits x 23 3)) (bits x 9 7))) ((bits body 1 1 == 0 && (bits body 7 1 == 1 || (bits body 4 3 == 0 && bits body 2 2 == 0)) && bits x 2 7 == 0 && bits x 0 1 == 0) && (bits x 21 2 != 0 || bits x 18 3 == 0) && bits x 16 2 == 0 && (bits body 0 1 == 0 || bits body 14 7 == 0)) (bits x 1 1 + isL (bits x 9 7)) 2 lit
      (fun w => .atomLong p (aopOf k) (szOf (bits x 23 3)) (aordOf (bits x 21 2) (bits x 18 3)) (if bits body 0 1 = 1 then none else some (ldstOf (bits body 14 7)))
        ⟨if bits body 8 6 < 62 then some (Fin.ofNat 62 (bits body 8 6)) else none,
        if bits body 7 1 = 1 then some (Fin.ofNat 8 (bits body 4 3), Fin.ofNat 4 (bits body 2 2)) else none,
        if bits x 1 1 = 1 then some w else none⟩ (lsrcOf (bits x 9 7) w)) := by
  unfold decodeLMX; 
  interval_cases k <;> simp only [h] <;> rfl

theorem decodeLMX_atoms (p : Pred) (body x : Nat) (lit : Option Word) (k : Nat) (hk : k < 8) (h : bits x 26 6 = 16 + k) :
    decodeLMX p body x lit = fin ((bits body 8 6 != 63) && decide (bits x 23 3 < 6) && bits x 21 2 == 0 && (bits body 0 1 == 1 || decide (bits body 14 7 < 120)) && (aopOf k != .cas || casOk (szOf (bits x 23 3)) (bits x 9 7))) ((bits body 1 1 == 0 && (bits body 7 1 == 1 || (bits body 4 3 == 0 && bits body 2 2 == 0)) && bits x 2 7 == 0 && bits x 0 1 == 0) && (bits x 21 2 != 0 || bits x 18 3 == 0) && bits x 16 2 == 0 && (bits body 0 1 == 0 || bits body 14 7 == 0)) (bits x 1 1 + isL (bits x 9 7)) 2 lit
      (fun w => .atoms p (aopOf k) (szOf (bits x 23 3)) (if bits body 0 1 = 1 then none else some (ldstOf (bits body 14 7)))
        ⟨if bits body 8 6 < 62 then some (Fin.ofNat 62 (bits body 8 6)) else none,
        if bits body 7 1 = 1 then some (Fin.ofNat 8 (bits body 4 3), Fin.ofNat 4 (bits body 2 2)) else none,
        if bits x 1 1 = 1 then some w else none⟩ (lsrcOf (bits x 9 7) w)) := by
  unfold decodeLMX; 
  interval_cases k <;> simp only [h] <;> rfl

theorem decodeLMX_st (u : USZ) (p : Pred) (body x : Nat) (lit : Option Word) (h : bits x 26 6 = 1) (hu : uszOf (bits x 23 3) = some u) :
    decodeLMX p body x lit = fin ((bits body 8 6 != 63) && (bits x 21 2 == 0 || bits x 21 2 == 2) && (bits x 21 2 == 0 || decide (bits x 18 3 < 5))) ((bits body 1 1 == 0 && (bits body 7 1 == 1 || (bits body 4 3 == 0 && bits body 2 2 == 0)) && bits x 2 7 == 0 && bits x 0 1 == 0) && bits body 0 1 == 0 && bits x 9 7 == 0 && (bits x 21 2 != 0 || bits x 18 3 == 0) && bits x 16 2 == 0) (bits x 1 1 + isL (bits body 14 7)) 2 lit
      (fun w => .stLong p u (if bits x 21 2 = 2 then some (scopeOf (bits x 18 3)) else none) (lsrcOf (bits body 14 7) w)
        ⟨if bits body 8 6 < 62 then some (Fin.ofNat 62 (bits body 8 6)) else none,
        if bits body 7 1 = 1 then some (Fin.ofNat 8 (bits body 4 3), Fin.ofNat 4 (bits body 2 2)) else none,
        if bits x 1 1 = 1 then some w else none⟩) := by
  unfold decodeLMX; 
  simp only [h, hu]; rfl

theorem decodeLMX_sts (u : USZ) (p : Pred) (body x : Nat) (lit : Option Word) (h : bits x 26 6 = 3) (hu : uszOf (bits x 23 3) = some u) :
    decodeLMX p body x lit = fin ((bits body 8 6 != 63) && (bits x 21 2 == 0 || bits x 21 2 == 2) && (bits x 21 2 == 0 || decide (bits x 18 3 < 2))) ((bits body 1 1 == 0 && (bits body 7 1 == 1 || (bits body 4 3 == 0 && bits body 2 2 == 0)) && bits x 2 7 == 0 && bits x 0 1 == 0) && bits body 0 1 == 0 && bits x 9 7 == 0 && (bits x 21 2 != 0 || bits x 18 3 == 0) && bits x 16 2 == 0) (bits x 1 1 + isL (bits body 14 7)) 2 lit
      (fun w => .stsLong p u (if bits x 21 2 = 2 then some (scopeOf (bits x 18 3)) else none) (lsrcOf (bits body 14 7) w)
        ⟨if bits body 8 6 < 62 then some (Fin.ofNat 62 (bits body 8 6)) else none,
        if bits body 7 1 = 1 then some (Fin.ofNat 8 (bits body 4 3), Fin.ofNat 4 (bits body 2 2)) else none,
        if bits x 1 1 = 1 then some w else none⟩) := by
  unfold decodeLMX; 
  simp only [h, hu]; rfl

theorem decodeLMX_stmc (u : USZ) (p : Pred) (body x : Nat) (lit : Option Word) (h : bits x 26 6 = 7) (hu : uszOf (bits x 23 3) = some u) :
    decodeLMX p body x lit = fin ((bits body 8 6 != 63) && (bits x 21 2 == 0 || bits x 21 2 == 2) && (bits x 21 2 == 0 || decide (bits x 18 3 < 5)) && decide (120 ≤ bits x 9 7) && decide (bits x 9 7 < 127)) ((bits body 1 1 == 0 && (bits body 7 1 == 1 || (bits body 4 3 == 0 && bits body 2 2 == 0)) && bits x 2 7 == 0 && bits x 0 1 == 0) && bits body 0 1 == 0 && (bits x 21 2 != 0 || bits x 18 3 == 0) && bits x 16 2 == 0) (bits x 1 1 + isL (bits body 14 7)) 2 lit
      (fun w => .stmc p u (if bits x 21 2 = 2 then some (scopeOf (bits x 18 3)) else none) (lsrcOf (bits body 14 7) w)
        ⟨if bits body 8 6 < 62 then some (Fin.ofNat 62 (bits body 8 6)) else none,
        if bits body 7 1 = 1 then some (Fin.ofNat 8 (bits body 4 3), Fin.ofNat 4 (bits body 2 2)) else none,
        if bits x 1 1 = 1 then some w else none⟩ (Fin.ofNat 7 (bits x 9 7 - 120))) := by
  unfold decodeLMX; 
  simp only [h, hu]; rfl

theorem decodeLMX_stred (u : USZ) (so : StredOp) (p : Pred) (body x : Nat) (lit : Option Word) (h : bits x 26 6 = 0x18 + so.code) (hu : uszOf (bits x 23 3) = some u) :
    decodeLMX p body x lit = fin ((bits body 8 6 != 63) && (bits x 21 2 == 0 || bits x 21 2 == 2) && (bits x 21 2 == 0 || decide (bits x 18 3 < 5)) && decide (120 ≤ bits x 9 7) && decide (bits x 9 7 < 127)) ((bits body 1 1 == 0 && (bits body 7 1 == 1 || (bits body 4 3 == 0 && bits body 2 2 == 0)) && bits x 2 7 == 0 && bits x 0 1 == 0) && bits body 0 1 == 0 && (bits x 21 2 != 0 || bits x 18 3 == 0) && bits x 16 2 == 0) (bits x 1 1 + isL (bits body 14 7)) 2 lit
      (fun w => .stred p so u (if bits x 21 2 = 2 then some (scopeOf (bits x 18 3)) else none) (lsrcOf (bits body 14 7) w)
        ⟨if bits body 8 6 < 62 then some (Fin.ofNat 62 (bits body 8 6)) else none,
        if bits body 7 1 = 1 then some (Fin.ofNat 8 (bits body 4 3), Fin.ofNat 4 (bits body 2 2)) else none,
        if bits x 1 1 = 1 then some w else none⟩ (Fin.ofNat 7 (bits x 9 7 - 120))) := by
  unfold decodeLMX; 
  cases so <;> simp only [h, hu, StredOp.code] <;> rfl

/-! ## Round trips of long memory words -/

theorem optScope_lt (a : Option Scope) : optScope a < 5 := by
  cases a with
  | none => decide
  | some s => exact s.code_lt

theorem roundtrip_ldLong (p : Pred) (sz : SZ) (acq : Option Scope) (nl1 : Bool) (d : LDst) (m : LXMem) (rest : List Word) :
    decode (encLMX p d.code 0 m 0x00 sz.code (b2n acq.isSome) (optScope acq) (b2n nl1) 0 [] ++ rest) =
      .ok (.ldLong p sz acq nl1 d m, (encLMX p d.code 0 m 0x00 sz.code (b2n acq.isSome) (optScope acq) (b2n nl1) 0 []).length) := by
  have hd := decide_eq_true d.code_lt
  have hz := sz.code_lt
  have hz2 := decide_eq_true hz
  have hn := b2n_lt nl1
  have hn2 := decide_eq_true hn
  have hsc := optScope_lt acq
  have ha := b2n_lt acq.isSome
  have ha2 := decide_eq_true ha
  have hs1 : (b2n acq.isSome == 0 || decide (optScope acq < 5)) = true := by cases acq <;> simp [optScope_lt, optScope, Scope.code_lt, b2n]
  have hs2 : (b2n acq.isSome != 0 || optScope acq == 0) = true := by cases acq <;> rfl
  have hs3 : (if b2n acq.isSome = 1 then some (scopeOf (optScope acq)) else none) = acq := by cases acq <;> simp [optScope, scopeOf_code, b2n]
  obtain ⟨b0, b1, b2, b3, b4, b5, b6⟩ := bits_lmx d.code 0 m (Nat.lt_trans d.code_lt (by decide)) (by decide)
  obtain ⟨e1, e2, e3, e4, e5, e6, e7, e8, e9⟩ := lmxExt_bits 0x00 sz.code (b2n acq.isSome) (optScope acq) (b2n nl1) 0 (b2n m.off.isSome) (by decide) (by omega) (by omega) (by omega) (by omega) (by decide) (b2n_lt _)
  rw [decode_lmx _ _ _ _ _ _ _ _ _ _ _ _ (Nat.lt_trans d.code_lt (by decide)) (by decide), decodeLMX_ld _ _ _ _ e1]
  simp only [b1, b2, b3, b4, b5, b6, e2, e3, e4, e5, e6, e7, e8, e9, m.base_code, m.baseCode_ne, ldstOf_code, szOf_code, hd, hz2, ha2, hs1, hs2, hs3, hn2, b2n_beq_one]
  exact (fin_off0 2 m.off rest (fun o => .ldLong p sz acq nl1 d ⟨m.base, m.idx, o⟩)).trans (ok_len (len_lmx ..))

theorem roundtrip_ldsLong (p : Pred) (sz : SZ) (acq : Option Scope) (d : LDst) (m : LXMem) (rest : List Word) (hw : spadScope acq = true) :
    decode (encLMX p d.code 0 m 0x02 sz.code (b2n acq.isSome) (optScope acq) 0 0 [] ++ rest) =
      .ok (.ldsLong p sz acq d m, (encLMX p d.code 0 m 0x02 sz.code (b2n acq.isSome) (optScope acq) 0 0 []).length) := by
  have hd := decide_eq_true d.code_lt
  have hz := sz.code_lt
  have hz2 := decide_eq_true hz
  have hsc := optScope_lt acq
  have ha := b2n_lt acq.isSome
  have ha2 := decide_eq_true ha
  have hs1 : (b2n acq.isSome == 0 || decide (optScope acq < 2)) = true := by
    cases acq with
    | none => rfl
    | some s => cases s <;> first | rfl | cases hw
  have hs2 : (b2n acq.isSome != 0 || optScope acq == 0) = true := by cases acq <;> rfl
  have hs3 : (if b2n acq.isSome = 1 then some (scopeOf (optScope acq)) else none) = acq := by cases acq <;> simp [optScope, scopeOf_code, b2n]
  obtain ⟨b0, b1, b2, b3, b4, b5, b6⟩ := bits_lmx d.code 0 m (Nat.lt_trans d.code_lt (by decide)) (by decide)
  obtain ⟨e1, e2, e3, e4, e5, e6, e7, e8, e9⟩ := lmxExt_bits 0x02 sz.code (b2n acq.isSome) (optScope acq) 0 0 (b2n m.off.isSome) (by decide) (by omega) (by omega) (by omega) (by decide) (by decide) (b2n_lt _)
  rw [decode_lmx _ _ _ _ _ _ _ _ _ _ _ _ (Nat.lt_trans d.code_lt (by decide)) (by decide), decodeLMX_lds _ _ _ _ e1]
  simp only [b1, b2, b3, b4, b5, b6, e2, e3, e4, e5, e6, e7, e8, e9, m.base_code, m.baseCode_ne, ldstOf_code, szOf_code, hd, hz2, ha2, hs1, hs2, hs3]
  exact (fin_off0 2 m.off rest (fun o => .ldsLong p sz acq d ⟨m.base, m.idx, o⟩)).trans (ok_len (len_lmx ..))

theorem roundtrip_pref (p : Pred) (sl : Bool) (m : LXMem) (rest : List Word) :
    decode (encLMX p 0 0 m 0x04 0 0 0 (b2n sl) 0 [] ++ rest) =
      .ok (.pref p sl m, (encLMX p 0 0 m 0x04 0 0 0 (b2n sl) 0 []).length) := by
  have hn := b2n_lt sl
  have hn2 := decide_eq_true hn
  obtain ⟨b0, b1, b2, b3, b4, b5, b6⟩ := bits_lmx 0 0 m (by decide) (by decide)
  obtain ⟨e1, e2, e3, e4, e5, e6, e7, e8, e9⟩ := lmxExt_bits 0x04 0 0 0 (b2n sl) 0 (b2n m.off.isSome) (by decide) (by decide) (by decide) (by decide) (by omega) (by decide) (b2n_lt _)
  rw [decode_lmx _ _ _ _ _ _ _ _ _ _ _ _ (by decide) (by decide), decodeLMX_pref _ _ _ _ e1]
  simp only [b1, b2, b3, b4, b5, b6, e2, e3, e4, e5, e6, e7, e8, e9, m.base_code, m.baseCode_ne, hn2, b2n_beq_one]
  exact (fin_off0 2 m.off rest (fun o => .pref p sl ⟨m.base, m.idx, o⟩)).trans (ok_len (len_lmx ..))

theorem roundtrip_dset (p : Pred) (s : LSrc) (m : LXMem) (rest : List Word) (hw : decide (offCount m.off + lCount [s] ≤ 1) = true) :
    decode (encLMX p s.code 0 m 0x05 0 0 0 0 0 (lLits [s]) ++ rest) =
      .ok (.dset p s m, (encLMX p s.code 0 m 0x05 0 0 0 0 0 (lLits [s])).length) := by
  obtain ⟨b0, b1, b2, b3, b4, b5, b6⟩ := bits_lmx s.code 0 m s.code_lt (by decide)
  obtain ⟨e1, e2, e3, e4, e5, e6, e7, e8, e9⟩ := lmxExt_bits 0x05 0 0 0 0 0 (b2n m.off.isSome) (by decide) (by decide) (by decide) (by decide) (by decide) (by decide) (b2n_lt _)
  rw [decode_lmx _ _ _ _ _ _ _ _ _ _ _ _ s.code_lt (by decide), decodeLMX_dset _ _ _ _ e1]
  simp only [b1, b2, b3, b4, b5, b6, e2, e3, e4, e5, e6, e7, e8, e9, m.base_code, m.baseCode_ne, Nat.zero_add]
  exact (fin_off1 2 m.off s rest (fun o s => .dset p s ⟨m.base, m.idx, o⟩) (of_decide_eq_true hw)).trans (ok_len (len_lmx ..))

theorem roundtrip_dget (p : Pred) (d : LDst) (m : LXMem) (rest : List Word) :
    decode (encLMX p d.code 0 m 0x06 0 0 0 0 0 [] ++ rest) =
      .ok (.dget p d m, (encLMX p d.code 0 m 0x06 0 0 0 0 0 []).length) := by
  have hd := decide_eq_true d.code_lt
  obtain ⟨b0, b1, b2, b3, b4, b5, b6⟩ := bits_lmx d.code 0 m (Nat.lt_trans d.code_lt (by decide)) (by decide)
  obtain ⟨e1, e2, e3, e4, e5, e6, e7, e8, e9⟩ := lmxExt_bits 0x06 0 0 0 0 0 (b2n m.off.isSome) (by decide) (by decide) (by decide) (by decide) (by decide) (by decide) (b2n_lt _)
  rw [decode_lmx _ _ _ _ _ _ _ _ _ _ _ _ (Nat.lt_trans d.code_lt (by decide)) (by decide), decodeLMX_dget _ _ _ _ e1]
  simp only [b1, b2, b3, b4, b5, b6, e2, e3, e4, e5, e6, e7, e8, e9, m.base_code, m.baseCode_ne, ldstOf_code, hd]
  exact (fin_off0 2 m.off rest (fun o => .dget p d ⟨m.base, m.idx, o⟩)).trans (ok_len (len_lmx ..))

theorem roundtrip_stLong (p : Pred) (sz : USZ) (rel : Option Scope) (s : LSrc) (m : LXMem) (rest : List Word) (hw : decide (offCount m.off + lCount [s] ≤ 1) = true) :
    decode (encLMX p s.code 0 m 0x01 sz.code (2 * b2n rel.isSome) (optScope rel) 0 0 (lLits [s]) ++ rest) =
      .ok (.stLong p sz rel s m, (encLMX p s.code 0 m 0x01 sz.code (2 * b2n rel.isSome) (optScope rel) 0 0 (lLits [s])).length) := by
  have hz := sz.code_lt
  have hr := b2n_lt rel.isSome
  have hsc := optScope_lt rel
  have hs0 : (2 * b2n rel.isSome == 0 || 2 * b2n rel.isSome == 2) = true := by cases rel <;> rfl
  have hs2 : (2 * b2n rel.isSome != 0 || optScope rel == 0) = true := by cases rel <;> rfl
  have hs3 : (if 2 * b2n rel.isSome = 2 then some (scopeOf (optScope rel)) else none) = rel := by cases rel <;> simp [optScope, scopeOf_code, b2n]
  have hs1 : (2 * b2n rel.isSome == 0 || decide (optScope rel < 5)) = true := by cases rel <;> simp [optScope_lt, optScope, Scope.code_lt, b2n]
  obtain ⟨b0, b1, b2, b3, b4, b5, b6⟩ := bits_lmx s.code 0 m s.code_lt (by decide)
  obtain ⟨e1, e2, e3, e4, e5, e6, e7, e8, e9⟩ := lmxExt_bits 0x01 sz.code (2 * b2n rel.isSome) (optScope rel) 0 0 (b2n m.off.isSome) (by decide) (by omega) (by omega) (by omega) (by decide) (by decide) (b2n_lt _)
  rw [decode_lmx _ _ _ _ _ _ _ _ _ _ _ _ s.code_lt (by decide), decodeLMX_st sz _ _ _ _ e1 (by rw [e2]; exact uszOf_code sz)]
  simp only [b1, b2, b3, b4, b5, b6, e2, e3, e4, e5, e6, e7, e8, e9, m.base_code, m.baseCode_ne, hs0, hs1, hs2, hs3]
  exact (fin_off1 2 m.off s rest (fun o s => .stLong p sz rel s ⟨m.base, m.idx, o⟩) (of_decide_eq_true hw)).trans (ok_len (len_lmx ..))

theorem roundtrip_stsLong (p : Pred) (sz : USZ) (rel : Option Scope) (s : LSrc) (m : LXMem) (rest : List Word) (hsp : spadScope rel = true) (hw : decide (offCount m.off + lCount [s] ≤ 1) = true) :
    decode (encLMX p s.code 0 m 0x03 sz.code (2 * b2n rel.isSome) (optScope rel) 0 0 (lLits [s]) ++ rest) =
      .ok (.stsLong p sz rel s m, (encLMX p s.code 0 m 0x03 sz.code (2 * b2n rel.isSome) (optScope rel) 0 0 (lLits [s])).length) := by
  have hz := sz.code_lt
  have hr := b2n_lt rel.isSome
  have hsc := optScope_lt rel
  have hs0 : (2 * b2n rel.isSome == 0 || 2 * b2n rel.isSome == 2) = true := by cases rel <;> rfl
  have hs2 : (2 * b2n rel.isSome != 0 || optScope rel == 0) = true := by cases rel <;> rfl
  have hs3 : (if 2 * b2n rel.isSome = 2 then some (scopeOf (optScope rel)) else none) = rel := by cases rel <;> simp [optScope, scopeOf_code, b2n]
  have hs1 : (2 * b2n rel.isSome == 0 || decide (optScope rel < 2)) = true := by
    cases rel with
    | none => rfl
    | some s => cases s <;> first | rfl | cases hsp
  obtain ⟨b0, b1, b2, b3, b4, b5, b6⟩ := bits_lmx s.code 0 m s.code_lt (by decide)
  obtain ⟨e1, e2, e3, e4, e5, e6, e7, e8, e9⟩ := lmxExt_bits 0x03 sz.code (2 * b2n rel.isSome) (optScope rel) 0 0 (b2n m.off.isSome) (by decide) (by omega) (by omega) (by omega) (by decide) (by decide) (b2n_lt _)
  rw [decode_lmx _ _ _ _ _ _ _ _ _ _ _ _ s.code_lt (by decide), decodeLMX_sts sz _ _ _ _ e1 (by rw [e2]; exact uszOf_code sz)]
  simp only [b1, b2, b3, b4, b5, b6, e2, e3, e4, e5, e6, e7, e8, e9, m.base_code, m.baseCode_ne, hs0, hs1, hs2, hs3]
  exact (fin_off1 2 m.off s rest (fun o s => .stsLong p sz rel s ⟨m.base, m.idx, o⟩) (of_decide_eq_true hw)).trans (ok_len (len_lmx ..))

theorem roundtrip_stmc (p : Pred) (sz : USZ) (rel : Option Scope) (s : LSrc) (m : LXMem) (gm : Fin 7) (rest : List Word) (hw : decide (offCount m.off + lCount [s] ≤ 1) = true) :
    decode (encLMX p s.code 0 m 0x07 sz.code (2 * b2n rel.isSome) (optScope rel) 0 (120 + gm.val) (lLits [s]) ++ rest) =
      .ok (.stmc p sz rel s m gm, (encLMX p s.code 0 m 0x07 sz.code (2 * b2n rel.isSome) (optScope rel) 0 (120 + gm.val) (lLits [s])).length) := by
  have hz := sz.code_lt
  have hr := b2n_lt rel.isSome
  have hsc := optScope_lt rel
  have hs0 : (2 * b2n rel.isSome == 0 || 2 * b2n rel.isSome == 2) = true := by cases rel <;> rfl
  have hs2 : (2 * b2n rel.isSome != 0 || optScope rel == 0) = true := by cases rel <;> rfl
  have hs3 : (if 2 * b2n rel.isSome = 2 then some (scopeOf (optScope rel)) else none) = rel := by cases rel <;> simp [optScope, scopeOf_code, b2n]
  have hs1 : (2 * b2n rel.isSome == 0 || decide (optScope rel < 5)) = true := by cases rel <;> simp [optScope_lt, optScope, Scope.code_lt, b2n]
  have hg := gm.isLt
  have hg1 : decide (120 ≤ 120 + gm.val) = true := decide_eq_true (by omega)
  have hg2 : decide (120 + gm.val < 127) = true := decide_eq_true (by omega)
  have hg3 : Fin.ofNat 7 (120 + gm.val - 120) = gm := by rw [Nat.add_sub_cancel_left]; exact finOf_val gm
  obtain ⟨b0, b1, b2, b3, b4, b5, b6⟩ := bits_lmx s.code 0 m s.code_lt (by decide)
  obtain ⟨e1, e2, e3, e4, e5, e6, e7, e8, e9⟩ := lmxExt_bits 0x07 sz.code (2 * b2n rel.isSome) (optScope rel) 0 (120 + gm.val) (b2n m.off.isSome) (by decide) (by omega) (by omega) (by omega) (by decide) (by omega) (b2n_lt _)
  rw [decode_lmx _ _ _ _ _ _ _ _ _ _ _ _ s.code_lt (by decide), decodeLMX_stmc sz _ _ _ _ e1 (by rw [e2]; exact uszOf_code sz)]
  simp only [b1, b2, b3, b4, b5, b6, e2, e3, e4, e5, e6, e7, e8, e9, m.base_code, m.baseCode_ne, hs0, hs1, hs2, hs3, hg1, hg2, hg3]
  exact (fin_off1 2 m.off s rest (fun o s => .stmc p sz rel s ⟨m.base, m.idx, o⟩ gm) (of_decide_eq_true hw)).trans (ok_len (len_lmx ..))

theorem roundtrip_stred (p : Pred) (op : StredOp) (sz : USZ) (rel : Option Scope) (s : LSrc) (m : LXMem) (gm : Fin 7) (rest : List Word) (hw : decide (offCount m.off + lCount [s] ≤ 1) = true) :
    decode (encLMX p s.code 0 m (0x18 + op.code) sz.code (2 * b2n rel.isSome) (optScope rel) 0 (120 + gm.val) (lLits [s]) ++ rest) =
      .ok (.stred p op sz rel s m gm, (encLMX p s.code 0 m (0x18 + op.code) sz.code (2 * b2n rel.isSome) (optScope rel) 0 (120 + gm.val) (lLits [s])).length) := by
  have hz := sz.code_lt
  have hr := b2n_lt rel.isSome
  have hsc := optScope_lt rel
  have hs0 : (2 * b2n rel.isSome == 0 || 2 * b2n rel.isSome == 2) = true := by cases rel <;> rfl
  have hs2 : (2 * b2n rel.isSome != 0 || optScope rel == 0) = true := by cases rel <;> rfl
  have hs3 : (if 2 * b2n rel.isSome = 2 then some (scopeOf (optScope rel)) else none) = rel := by cases rel <;> simp [optScope, scopeOf_code, b2n]
  have hs1 : (2 * b2n rel.isSome == 0 || decide (optScope rel < 5)) = true := by cases rel <;> simp [optScope_lt, optScope, Scope.code_lt, b2n]
  have hg := gm.isLt
  have hg1 : decide (120 ≤ 120 + gm.val) = true := decide_eq_true (by omega)
  have hg2 : decide (120 + gm.val < 127) = true := decide_eq_true (by omega)
  have hg3 : Fin.ofNat 7 (120 + gm.val - 120) = gm := by rw [Nat.add_sub_cancel_left]; exact finOf_val gm
  obtain ⟨b0, b1, b2, b3, b4, b5, b6⟩ := bits_lmx s.code 0 m s.code_lt (by decide)
  obtain ⟨e1, e2, e3, e4, e5, e6, e7, e8, e9⟩ := lmxExt_bits (0x18 + op.code) sz.code (2 * b2n rel.isSome) (optScope rel) 0 (120 + gm.val) (b2n m.off.isSome) (by have := op.code_lt; omega) (by omega) (by omega) (by omega) (by decide) (by omega) (b2n_lt _)
  rw [decode_lmx _ _ _ _ _ _ _ _ _ _ _ _ s.code_lt (by decide), decodeLMX_stred sz op _ _ _ _ e1 (by rw [e2]; exact uszOf_code sz)]
  simp only [b1, b2, b3, b4, b5, b6, e2, e3, e4, e5, e6, e7, e8, e9, m.base_code, m.baseCode_ne, hs0, hs1, hs2, hs3, hg1, hg2, hg3]
  exact (fin_off1 2 m.off s rest (fun o s => .stred p op sz rel s ⟨m.base, m.idx, o⟩ gm) (of_decide_eq_true hw)).trans (ok_len (len_lmx ..))

theorem casSrc_ok (op : AOp) (sz : SZ) (s : LSrc) (h : casSrc op sz s = true) : (op != .cas || casOk sz s.code) = true := by
  cases op <;> try rfl
  cases s with
  | v n =>
    have hn := n.isLt
    show casOk sz n.val = true
    simp only [casOk, Bool.and_eq_true, Bool.or_eq_true, decide_eq_true_eq, bne_iff_ne]
    exact ⟨⟨by omega, by omega⟩, Or.inr (by omega)⟩
  | t n => revert h; revert n; cases sz <;> decide
  | g n => cases h
  | lit w => cases h

theorem casBase_lt (d : Option LDst) : casBase d < 128 := by
  cases d with
  | none => decide
  | some d => exact Nat.lt_trans d.code_lt (by decide)

theorem roundtrip_atomLong (p : Pred) (op : AOp) (sz : SZ) (ord : AOrd) (d : Option LDst) (m : LXMem) (s : LSrc) (rest : List Word) (hcas : casSrc op sz s = true) (hw : decide (offCount m.off + lCount [s] ≤ 1) = true) :
    decode (encLMX p (casBase d) (b2n d.isNone) m (8 + op.code) sz.code ord.code ord.scopeCode 0 s.code (lLits [s]) ++ rest) =
      .ok (.atomLong p op sz ord d m s, (encLMX p (casBase d) (b2n d.isNone) m (8 + op.code) sz.code ord.code ord.scopeCode 0 s.code (lLits [s])).length) := by
  have hz := sz.code_lt
  have hz2 := decide_eq_true hz
  have ho := op.code_lt
  have hc := casSrc_ok op sz s hcas
  have hd1 : (b2n d.isNone == 1 || decide (casBase d < 120)) = true := by
    cases d with
    | none => rfl
    | some d => exact decide_eq_true d.code_lt
  have hd2 : (b2n d.isNone == 0 || casBase d == 0) = true := by cases d <;> rfl
  have hd3 : (if b2n d.isNone = 1 then none else some (ldstOf (casBase d))) = d := by cases d <;> simp [b2n, casBase, ldstOf_code]
  have hr : ord.code < 4 := by cases ord <;> simp [AOrd.code]
  have hsc : ord.scopeCode < 5 := by cases ord <;> simp [AOrd.scopeCode, Scope.code_lt]
  have hs1 : (ord.code == 0 || decide (ord.scopeCode < 5)) = true := by simp [hsc]
  have hs2 : (ord.code != 0 || ord.scopeCode == 0) = true := by cases ord <;> rfl
  have hs3 : aordOf ord.code ord.scopeCode = ord := by cases ord <;> simp [aordOf, AOrd.code, AOrd.scopeCode, scopeOf_code]
  obtain ⟨b0, b1, b2, b3, b4, b5, b6⟩ := bits_lmx (casBase d) (b2n d.isNone) m (casBase_lt d) (b2n_lt _)
  obtain ⟨e1, e2, e3, e4, e5, e6, e7, e8, e9⟩ := lmxExt_bits (8 + op.code) sz.code ord.code ord.scopeCode 0 s.code (b2n m.off.isSome) (by omega) (by omega) (by omega) (by omega) (by decide) s.code_lt (b2n_lt _)
  rw [decode_lmx _ _ _ _ _ _ _ _ _ _ _ _ (casBase_lt d) (b2n_lt _), decodeLMX_atom _ _ _ _ _ ho e1]
  simp only [b1, b2, b3, b4, b5, b6, e2, e3, e4, e5, e6, e7, e8, e9, m.base_code, m.baseCode_ne, szOf_code, aopOf_code, hz2, hc, hd1, hd2, hd3, hs1, hs2, hs3]
  exact (fin_off1 2 m.off s rest (fun o s => .atomLong p op sz ord d ⟨m.base, m.idx, o⟩ s) (of_decide_eq_true hw)).trans (ok_len (len_lmx ..))

theorem roundtrip_atoms (p : Pred) (op : AOp) (sz : SZ) (d : Option LDst) (m : LXMem) (s : LSrc) (rest : List Word) (hcas : casSrc op sz s = true) (hw : decide (offCount m.off + lCount [s] ≤ 1) = true) :
    decode (encLMX p (casBase d) (b2n d.isNone) m (16 + op.code) sz.code 0 0 0 s.code (lLits [s]) ++ rest) =
      .ok (.atoms p op sz d m s, (encLMX p (casBase d) (b2n d.isNone) m (16 + op.code) sz.code 0 0 0 s.code (lLits [s])).length) := by
  have hz := sz.code_lt
  have hz2 := decide_eq_true hz
  have ho := op.code_lt
  have hc := casSrc_ok op sz s hcas
  have hd1 : (b2n d.isNone == 1 || decide (casBase d < 120)) = true := by
    cases d with
    | none => rfl
    | some d => exact decide_eq_true d.code_lt
  have hd2 : (b2n d.isNone == 0 || casBase d == 0) = true := by cases d <;> rfl
  have hd3 : (if b2n d.isNone = 1 then none else some (ldstOf (casBase d))) = d := by cases d <;> simp [b2n, casBase, ldstOf_code]
  obtain ⟨b0, b1, b2, b3, b4, b5, b6⟩ := bits_lmx (casBase d) (b2n d.isNone) m (casBase_lt d) (b2n_lt _)
  obtain ⟨e1, e2, e3, e4, e5, e6, e7, e8, e9⟩ := lmxExt_bits (16 + op.code) sz.code 0 0 0 s.code (b2n m.off.isSome) (by omega) (by omega) (by decide) (by decide) (by decide) s.code_lt (b2n_lt _)
  rw [decode_lmx _ _ _ _ _ _ _ _ _ _ _ _ (casBase_lt d) (b2n_lt _), decodeLMX_atoms _ _ _ _ _ ho e1]
  simp only [b1, b2, b3, b4, b5, b6, e2, e3, e4, e5, e6, e7, e8, e9, m.base_code, m.baseCode_ne, szOf_code, aopOf_code, hz2, hc, hd1, hd2, hd3]
  exact (fin_off1 2 m.off s rest (fun o s => .atoms p op sz d ⟨m.base, m.idx, o⟩ s) (of_decide_eq_true hw)).trans (ok_len (len_lmx ..))

/-! ## Uniform words -/

theorem decodeUni_uz {mk} (maj : Nat) (p : Pred) (pc body : Nat) (lit : Option Word) (h : uzOf maj = some mk) :
    decodeUni maj p pc body lit = fin true (body == 0) 0 1 lit (fun _ => mk p) := by
  unfold decodeUni; simp only [h]

theorem roundtrip_uz {mk} (maj : Nat) (hm : maj < 64) (h : uzOf maj = some mk) (p : Pred) (rest : List Word) :
    decode (encUZ maj p ++ rest) = .ok (mk p, 1) := by
  rw [encUZ, List.singleton_append, decode_uni _ _ _ _ hm p.code_lt (by decide), predOf_code, decodeUni_uz _ _ _ _ _ h]
  exact fin_0 1 _ _ _ rfl

theorem ofNat_toNat_self {w : Nat} (x : BitVec w) : BitVec.ofNat w x.toNat = x := by simp

theorem roundtrip_runb (n : BitVec 5) (va : BitVec 7) (k : BitVec 4) (rest : List Word) (hw : (k != 0 || va == 0) = true) :
    decode ([wHead 1 0x01 0 (n.toNat * 2 ^ 16 + va.toNat * 2 ^ 9 + k.toNat * 2 ^ 5)] ++ rest) = .ok (.runb n va k, 1) := by
  have := n.isLt
  have := va.isLt
  have := k.isLt
  have hz : (k.toNat != 0 || va.toNat == 0) = true := by
    rcases Bool.or_eq_true_iff.1 hw with h | h
    · rw [bne_iff_ne] at h; rw [Bool.or_eq_true]; left; rw [bne_iff_ne]; intro e; exact h (BitVec.eq_of_toNat_eq e)
    · rw [Bool.or_eq_true]; right; rw [eq_of_beq h]; rfl
  have f0 : bits (n.toNat * 2 ^ 16 + va.toNat * 2 ^ 9 + k.toNat * 2 ^ 5) 16 5 = n.toNat := by simp only [bits]; omega
  have f1 : bits (n.toNat * 2 ^ 16 + va.toNat * 2 ^ 9 + k.toNat * 2 ^ 5) 9 7 = va.toNat := by simp only [bits]; omega
  have f2 : bits (n.toNat * 2 ^ 16 + va.toNat * 2 ^ 9 + k.toNat * 2 ^ 5) 5 4 = k.toNat := by simp only [bits]; omega
  have f3 : bits (n.toNat * 2 ^ 16 + va.toNat * 2 ^ 9 + k.toNat * 2 ^ 5) 0 5 = 0 := by simp only [bits]; omega
  rw [List.singleton_append, decode_uni _ _ _ _ (by decide) (by decide) (by omega)]
  simp only [decodeUni, uzOf, f0, f1, f2, f3, ofNat_toNat_self, hz]
  exact fin_0 1 _ _ _ rfl

theorem roundtrip_rune (va : BitVec 7) (k : BitVec 4) (rest : List Word) (hw : (k != 0 || va == 0) = true) :
    decode ([wHead 1 0x02 0 (va.toNat * 2 ^ 9 + k.toNat * 2 ^ 5)] ++ rest) = .ok (.rune va k, 1) := by
  have := va.isLt
  have := k.isLt
  have hz : (k.toNat != 0 || va.toNat == 0) = true := by
    rcases Bool.or_eq_true_iff.1 hw with h | h
    · rw [bne_iff_ne] at h; rw [Bool.or_eq_true]; left; rw [bne_iff_ne]; intro e; exact h (BitVec.eq_of_toNat_eq e)
    · rw [Bool.or_eq_true]; right; rw [eq_of_beq h]; rfl
  have f0 : bits (va.toNat * 2 ^ 9 + k.toNat * 2 ^ 5) 16 5 = 0 := by simp only [bits]; omega
  have f1 : bits (va.toNat * 2 ^ 9 + k.toNat * 2 ^ 5) 9 7 = va.toNat := by simp only [bits]; omega
  have f2 : bits (va.toNat * 2 ^ 9 + k.toNat * 2 ^ 5) 5 4 = k.toNat := by simp only [bits]; omega
  have f3 : bits (va.toNat * 2 ^ 9 + k.toNat * 2 ^ 5) 0 5 = 0 := by simp only [bits]; omega
  rw [List.singleton_append, decode_uni _ _ _ _ (by decide) (by decide) (by omega)]
  simp only [decodeUni, uzOf, f0, f1, f2, f3, ofNat_toNat_self, hz]
  exact fin_0 1 _ _ _ rfl

theorem roundtrip_waitc (p : Pred) (a b c d : BitVec 4) (rest : List Word) :
    decode ([wHead 1 0x03 p.code (a.toNat * 2 ^ 17 + b.toNat * 2 ^ 13 + c.toNat * 2 ^ 9 + d.toNat * 2 ^ 5)] ++ rest) = .ok (.waitc p a b c d, 1) := by
  have := a.isLt
  have := b.isLt
  have := c.isLt
  have := d.isLt
  have f0 : bits (a.toNat * 2 ^ 17 + b.toNat * 2 ^ 13 + c.toNat * 2 ^ 9 + d.toNat * 2 ^ 5) 17 4 = a.toNat := by simp only [bits]; omega
  have f1 : bits (a.toNat * 2 ^ 17 + b.toNat * 2 ^ 13 + c.toNat * 2 ^ 9 + d.toNat * 2 ^ 5) 13 4 = b.toNat := by simp only [bits]; omega
  have f2 : bits (a.toNat * 2 ^ 17 + b.toNat * 2 ^ 13 + c.toNat * 2 ^ 9 + d.toNat * 2 ^ 5) 9 4 = c.toNat := by simp only [bits]; omega
  have f3 : bits (a.toNat * 2 ^ 17 + b.toNat * 2 ^ 13 + c.toNat * 2 ^ 9 + d.toNat * 2 ^ 5) 5 4 = d.toNat := by simp only [bits]; omega
  have f4 : bits (a.toNat * 2 ^ 17 + b.toNat * 2 ^ 13 + c.toNat * 2 ^ 9 + d.toNat * 2 ^ 5) 0 5 = 0 := by simp only [bits]; omega
  rw [List.singleton_append, decode_uni _ _ _ _ (by decide) p.code_lt (by omega), predOf_code]
  simp only [decodeUni, uzOf, f0, f1, f2, f3, f4, ofNat_toNat_self]
  exact fin_0 1 _ _ _ rfl

theorem roundtrip_fence (p : Pred) (k : FKind) (s : Scope) (rest : List Word) :
    decode ([wHead 1 0x05 p.code (k.code * 2 ^ 19 + s.code * 2 ^ 16)] ++ rest) = .ok (.fence p k s, 1) := by
  have h_k := k.code_lt
  have h_s := s.code_lt
  have h1 := decide_eq_true h_k
  have h2 := decide_eq_true h_s
  have f0 : bits (k.code * 2 ^ 19 + s.code * 2 ^ 16) 19 2 = k.code := by simp only [bits]; omega
  have f1 : bits (k.code * 2 ^ 19 + s.code * 2 ^ 16) 16 3 = s.code := by simp only [bits]; omega
  have f2 : bits (k.code * 2 ^ 19 + s.code * 2 ^ 16) 0 16 = 0 := by simp only [bits]; omega
  rw [List.singleton_append, decode_uni _ _ _ _ (by decide) p.code_lt (by omega), predOf_code]
  simp only [decodeUni, uzOf, f0, f1, f2, h1, h2, fkindOf_code, scopeOf_code]
  exact fin_0 1 _ _ _ rfl

theorem roundtrip_bra (p : Pred) (o : BitVec 21) (rest : List Word) :
    decode ([wHead 1 0x08 p.code (o.toNat)] ++ rest) = .ok (.bra p o, 1) := by
  have := o.isLt
  rw [List.singleton_append, decode_uni _ _ _ _ (by decide) p.code_lt (by omega), predOf_code]
  simp only [decodeUni, uzOf, ofNat_toNat_self]
  exact fin_0 1 _ _ _ rfl

theorem roundtrip_braq (p : Pred) (pl : Fin 8) (all : Bool) (o : BitVec 17) (rest : List Word) :
    decode ([wHead 1 0x09 p.code (pl.val * 2 ^ 18 + b2n all * 2 ^ 17 + o.toNat)] ++ rest) = .ok (.braq p pl all o, 1) := by
  have := pl.isLt
  have := o.isLt
  have := b2n_lt all
  have f0 : bits (pl.val * 2 ^ 18 + b2n all * 2 ^ 17 + o.toNat) 18 3 = pl.val := by simp only [bits]; omega
  have f1 : bits (pl.val * 2 ^ 18 + b2n all * 2 ^ 17 + o.toNat) 17 1 = b2n all := by simp only [bits]; omega
  have f2 : bits (pl.val * 2 ^ 18 + b2n all * 2 ^ 17 + o.toNat) 0 17 = o.toNat := by simp only [bits]; omega
  rw [List.singleton_append, decode_uni _ _ _ _ (by decide) p.code_lt (by omega), predOf_code]
  simp only [decodeUni, uzOf, f0, f1, f2, ofNat_toNat_self, finOf_val, b2n_beq_one]
  exact fin_0 1 _ _ _ rfl

theorem roundtrip_call (p : Pred) (d : UDst) (o : BitVec 15) (rest : List Word) :
    decode ([wHead 1 0x0A p.code (d.code * 2 ^ 15 + o.toNat)] ++ rest) = .ok (.call p d o, 1) := by
  have := o.isLt
  have h_d := d.code_lt
  have hd : (d.code != 63) = true := bne_iff_ne.2 (by omega)
  have f0 : bits (d.code * 2 ^ 15 + o.toNat) 15 6 = d.code := by simp only [bits]; omega
  have f1 : bits (d.code * 2 ^ 15 + o.toNat) 0 15 = o.toNat := by simp only [bits]; omega
  rw [List.singleton_append, decode_uni _ _ _ _ (by decide) p.code_lt (by omega), predOf_code]
  simp only [decodeUni, uzOf, f0, f1, ofNat_toNat_self, udstOf_code, hd]
  exact fin_0 1 _ _ _ rfl

theorem roundtrip_trap (p : Pred) (r : Bool) (rest : List Word) :
    decode ([wHead 1 0x0D p.code (b2n r * 2 ^ 20)] ++ rest) = .ok (.trap p r, 1) := by
  have := b2n_lt r
  have f0 : bits (b2n r * 2 ^ 20) 20 1 = b2n r := by simp only [bits]; omega
  have f1 : bits (b2n r * 2 ^ 20) 0 20 = 0 := by simp only [bits]; omega
  rw [List.singleton_append, decode_uni _ _ _ _ (by decide) p.code_lt (by omega), predOf_code]
  simp only [decodeUni, uzOf, f0, f1, b2n_beq_one]
  exact fin_0 1 _ _ _ rfl

theorem roundtrip_bkpt (p : Pred) (t : BitVec 16) (rest : List Word) :
    decode ([wHead 1 0x0E p.code (t.toNat)] ++ rest) = .ok (.bkpt p t, 1) := by
  have := t.isLt
  have f0 : bits (t.toNat) 16 5 = 0 := by simp only [bits]; omega
  have f1 : bits (t.toNat) 0 16 = t.toNat := by simp only [bits]; omega
  rw [List.singleton_append, decode_uni _ _ _ _ (by decide) p.code_lt (by omega), predOf_code]
  simp only [decodeUni, uzOf, f0, f1, ofNat_toNat_self]
  exact fin_0 1 _ _ _ rfl

theorem roundtrip_fwcall (p : Pred) (svc : BitVec 12) (rest : List Word) :
    decode ([wHead 1 0x0F p.code (svc.toNat * 2 ^ 9)] ++ rest) = .ok (.fwcall p svc, 1) := by
  have := svc.isLt
  have f0 : bits (svc.toNat * 2 ^ 9) 9 12 = svc.toNat := by simp only [bits]; omega
  have f1 : bits (svc.toNat * 2 ^ 9) 0 9 = 0 := by simp only [bits]; omega
  rw [List.singleton_append, decode_uni _ _ _ _ (by decide) p.code_lt (by omega), predOf_code]
  simp only [decodeUni, uzOf, f0, f1, ofNat_toNat_self]
  exact fin_0 1 _ _ _ rfl

theorem decodeUni_17 {mk} (p : Pred) (pc body : Nat) (lit : Option Word) (h : uqlOf (bits body 8 2) = some mk) :
    decodeUni 0x17 p pc body lit = fin true (bits body 0 8 == 0) 0 1 lit
      (fun _ => mk p (Fin.ofNat 8 (bits body 18 3)) (Fin.ofNat 8 (bits body 15 3)) (bits body 14 1 == 1) (Fin.ofNat 8 (bits body 11 3))
        (bits body 10 1 == 1)) := by
  show (match uqlOf (bits body 8 2) with
    | none => _
    | some mk => fin true (bits body 0 8 == 0) 0 1 lit
      (fun _ => mk p (Fin.ofNat 8 (bits body 18 3)) (Fin.ofNat 8 (bits body 15 3)) (bits body 14 1 == 1) (Fin.ofNat 8 (bits body 11 3))
        (bits body 10 1 == 1))) = _
  rw [h]

theorem roundtrip_qand (p : Pred) (qd qa : Fin 8) (na : Bool) (qb : Fin 8) (nb : Bool) (rest : List Word) :
    decode ([wHead 1 0x17 p.code (qd.val * 2 ^ 18 + qa.val * 2 ^ 15 + b2n na * 2 ^ 14 + qb.val * 2 ^ 11 + b2n nb * 2 ^ 10)] ++ rest) = .ok (.qand p qd qa na qb nb, 1) := by
  have := qd.isLt
  have := qa.isLt
  have := qb.isLt
  have := b2n_lt na
  have := b2n_lt nb
  have f0 : bits (qd.val * 2 ^ 18 + qa.val * 2 ^ 15 + b2n na * 2 ^ 14 + qb.val * 2 ^ 11 + b2n nb * 2 ^ 10) 18 3 = qd.val := by simp only [bits]; omega
  have f1 : bits (qd.val * 2 ^ 18 + qa.val * 2 ^ 15 + b2n na * 2 ^ 14 + qb.val * 2 ^ 11 + b2n nb * 2 ^ 10) 15 3 = qa.val := by simp only [bits]; omega
  have f2 : bits (qd.val * 2 ^ 18 + qa.val * 2 ^ 15 + b2n na * 2 ^ 14 + qb.val * 2 ^ 11 + b2n nb * 2 ^ 10) 14 1 = b2n na := by simp only [bits]; omega
  have f3 : bits (qd.val * 2 ^ 18 + qa.val * 2 ^ 15 + b2n na * 2 ^ 14 + qb.val * 2 ^ 11 + b2n nb * 2 ^ 10) 11 3 = qb.val := by simp only [bits]; omega
  have f4 : bits (qd.val * 2 ^ 18 + qa.val * 2 ^ 15 + b2n na * 2 ^ 14 + qb.val * 2 ^ 11 + b2n nb * 2 ^ 10) 10 1 = b2n nb := by simp only [bits]; omega
  have f5 : bits (qd.val * 2 ^ 18 + qa.val * 2 ^ 15 + b2n na * 2 ^ 14 + qb.val * 2 ^ 11 + b2n nb * 2 ^ 10) 8 2 = 0 := by simp only [bits]; omega
  have f6 : bits (qd.val * 2 ^ 18 + qa.val * 2 ^ 15 + b2n na * 2 ^ 14 + qb.val * 2 ^ 11 + b2n nb * 2 ^ 10) 0 8 = 0 := by simp only [bits]; omega
  rw [List.singleton_append, decode_uni _ _ _ _ (by decide) p.code_lt (by omega), predOf_code, decodeUni_17 _ _ _ _ (by rw [f5]; rfl)]
  simp only [f0, f1, f2, f3, f4, f6, finOf_val, b2n_beq_one]
  exact fin_0 1 _ _ _ rfl

theorem roundtrip_qor (p : Pred) (qd qa : Fin 8) (na : Bool) (qb : Fin 8) (nb : Bool) (rest : List Word) :
    decode ([wHead 1 0x17 p.code (qd.val * 2 ^ 18 + qa.val * 2 ^ 15 + b2n na * 2 ^ 14 + qb.val * 2 ^ 11 + b2n nb * 2 ^ 10 + 2 ^ 8)] ++ rest) = .ok (.qor p qd qa na qb nb, 1) := by
  have := qd.isLt
  have := qa.isLt
  have := qb.isLt
  have := b2n_lt na
  have := b2n_lt nb
  have f0 : bits (qd.val * 2 ^ 18 + qa.val * 2 ^ 15 + b2n na * 2 ^ 14 + qb.val * 2 ^ 11 + b2n nb * 2 ^ 10 + 2 ^ 8) 18 3 = qd.val := by simp only [bits]; omega
  have f1 : bits (qd.val * 2 ^ 18 + qa.val * 2 ^ 15 + b2n na * 2 ^ 14 + qb.val * 2 ^ 11 + b2n nb * 2 ^ 10 + 2 ^ 8) 15 3 = qa.val := by simp only [bits]; omega
  have f2 : bits (qd.val * 2 ^ 18 + qa.val * 2 ^ 15 + b2n na * 2 ^ 14 + qb.val * 2 ^ 11 + b2n nb * 2 ^ 10 + 2 ^ 8) 14 1 = b2n na := by simp only [bits]; omega
  have f3 : bits (qd.val * 2 ^ 18 + qa.val * 2 ^ 15 + b2n na * 2 ^ 14 + qb.val * 2 ^ 11 + b2n nb * 2 ^ 10 + 2 ^ 8) 11 3 = qb.val := by simp only [bits]; omega
  have f4 : bits (qd.val * 2 ^ 18 + qa.val * 2 ^ 15 + b2n na * 2 ^ 14 + qb.val * 2 ^ 11 + b2n nb * 2 ^ 10 + 2 ^ 8) 10 1 = b2n nb := by simp only [bits]; omega
  have f5 : bits (qd.val * 2 ^ 18 + qa.val * 2 ^ 15 + b2n na * 2 ^ 14 + qb.val * 2 ^ 11 + b2n nb * 2 ^ 10 + 2 ^ 8) 8 2 = 1 := by simp only [bits]; omega
  have f6 : bits (qd.val * 2 ^ 18 + qa.val * 2 ^ 15 + b2n na * 2 ^ 14 + qb.val * 2 ^ 11 + b2n nb * 2 ^ 10 + 2 ^ 8) 0 8 = 0 := by simp only [bits]; omega
  rw [List.singleton_append, decode_uni _ _ _ _ (by decide) p.code_lt (by omega), predOf_code, decodeUni_17 _ _ _ _ (by rw [f5]; rfl)]
  simp only [f0, f1, f2, f3, f4, f6, finOf_val, b2n_beq_one]
  exact fin_0 1 _ _ _ rfl

theorem roundtrip_qxor (p : Pred) (qd qa : Fin 8) (na : Bool) (qb : Fin 8) (nb : Bool) (rest : List Word) :
    decode ([wHead 1 0x17 p.code (qd.val * 2 ^ 18 + qa.val * 2 ^ 15 + b2n na * 2 ^ 14 + qb.val * 2 ^ 11 + b2n nb * 2 ^ 10 + 2 * 2 ^ 8)] ++ rest) = .ok (.qxor p qd qa na qb nb, 1) := by
  have := qd.isLt
  have := qa.isLt
  have := qb.isLt
  have := b2n_lt na
  have := b2n_lt nb
  have f0 : bits (qd.val * 2 ^ 18 + qa.val * 2 ^ 15 + b2n na * 2 ^ 14 + qb.val * 2 ^ 11 + b2n nb * 2 ^ 10 + 2 * 2 ^ 8) 18 3 = qd.val := by simp only [bits]; omega
  have f1 : bits (qd.val * 2 ^ 18 + qa.val * 2 ^ 15 + b2n na * 2 ^ 14 + qb.val * 2 ^ 11 + b2n nb * 2 ^ 10 + 2 * 2 ^ 8) 15 3 = qa.val := by simp only [bits]; omega
  have f2 : bits (qd.val * 2 ^ 18 + qa.val * 2 ^ 15 + b2n na * 2 ^ 14 + qb.val * 2 ^ 11 + b2n nb * 2 ^ 10 + 2 * 2 ^ 8) 14 1 = b2n na := by simp only [bits]; omega
  have f3 : bits (qd.val * 2 ^ 18 + qa.val * 2 ^ 15 + b2n na * 2 ^ 14 + qb.val * 2 ^ 11 + b2n nb * 2 ^ 10 + 2 * 2 ^ 8) 11 3 = qb.val := by simp only [bits]; omega
  have f4 : bits (qd.val * 2 ^ 18 + qa.val * 2 ^ 15 + b2n na * 2 ^ 14 + qb.val * 2 ^ 11 + b2n nb * 2 ^ 10 + 2 * 2 ^ 8) 10 1 = b2n nb := by simp only [bits]; omega
  have f5 : bits (qd.val * 2 ^ 18 + qa.val * 2 ^ 15 + b2n na * 2 ^ 14 + qb.val * 2 ^ 11 + b2n nb * 2 ^ 10 + 2 * 2 ^ 8) 8 2 = 2 := by simp only [bits]; omega
  have f6 : bits (qd.val * 2 ^ 18 + qa.val * 2 ^ 15 + b2n na * 2 ^ 14 + qb.val * 2 ^ 11 + b2n nb * 2 ^ 10 + 2 * 2 ^ 8) 0 8 = 0 := by simp only [bits]; omega
  rw [List.singleton_append, decode_uni _ _ _ _ (by decide) p.code_lt (by omega), predOf_code, decodeUni_17 _ _ _ _ (by rw [f5]; rfl)]
  simp only [f0, f1, f2, f3, f4, f6, finOf_val, b2n_beq_one]
  exact fin_0 1 _ _ _ rfl

theorem roundtrip_sregUniform (p : Pred) (d : UDst) (sr : SReg) (rest : List Word) :
    decode ([wHead 1 0x18 p.code (d.code * 2 ^ 15 + sr.code * 2 ^ 9)] ++ rest) = .ok (.sregUniform p d sr, 1) := by
  have h_sr := sr.code_lt
  have hs := decide_eq_true h_sr
  have h_d := d.code_lt
  have hd : (d.code != 63) = true := bne_iff_ne.2 (by omega)
  have f0 : bits (d.code * 2 ^ 15 + sr.code * 2 ^ 9) 15 6 = d.code := by simp only [bits]; omega
  have f1 : bits (d.code * 2 ^ 15 + sr.code * 2 ^ 9) 9 6 = sr.code := by simp only [bits]; omega
  have f2 : bits (d.code * 2 ^ 15 + sr.code * 2 ^ 9) 0 9 = 0 := by simp only [bits]; omega
  rw [List.singleton_append, decode_uni _ _ _ _ (by decide) p.code_lt (by omega), predOf_code]
  simp only [decodeUni, uzOf, f0, f1, f2, udstOf_code, sregOf_code, hd, hs]
  exact fin_0 1 _ _ _ rfl

/-- The form code of VOTE. -/
def VoteM.code : VoteM → Nat
  | .mask => 0 | .some => 1 | .every => 2

theorem VoteM.code_lt (m : VoteM) : m.code < 3 := by cases m <;> decide
theorem voteOf_code (m : VoteM) : (if m.code = 0 then VoteM.mask else if m.code = 1 then .some else .every) = m := by cases m <;> rfl

theorem roundtrip_vote (p : Pred) (m : VoteM) (d : UDst) (pl : Fin 8) (rest : List Word) :
    decode ([wHead 1 0x1C p.code (d.code * 2 ^ 15 + pl.val * 2 ^ 12 + m.code * 2 ^ 10)] ++ rest) = .ok (.vote p m d pl, 1) := by
  have := pl.isLt
  have h_m := m.code_lt
  have hm := decide_eq_true h_m
  have h_d := d.code_lt
  have hd : (d.code != 63) = true := bne_iff_ne.2 (by omega)
  have f0 : bits (d.code * 2 ^ 15 + pl.val * 2 ^ 12 + m.code * 2 ^ 10) 15 6 = d.code := by simp only [bits]; omega
  have f1 : bits (d.code * 2 ^ 15 + pl.val * 2 ^ 12 + m.code * 2 ^ 10) 12 3 = pl.val := by simp only [bits]; omega
  have f2 : bits (d.code * 2 ^ 15 + pl.val * 2 ^ 12 + m.code * 2 ^ 10) 10 2 = m.code := by simp only [bits]; omega
  have f3 : bits (d.code * 2 ^ 15 + pl.val * 2 ^ 12 + m.code * 2 ^ 10) 0 10 = 0 := by simp only [bits]; omega
  rw [List.singleton_append, decode_uni _ _ _ _ (by decide) p.code_lt (by omega), predOf_code]
  simp only [decodeUni, uzOf, f0, f1, f2, f3, udstOf_code, finOf_val, voteOf_code, hd, hm]
  exact fin_0 1 _ _ _ rfl

theorem roundtrip_mzero (p : Pred) (t : Fin 16) (st : TileState) (rest : List Word) (hw : (match st with
      | .f64 | .i64 => t.val % 2 == 0
      | _ => true) = true) :
    decode ([wHead 1 0x2B p.code (t.val * 2 ^ 17 + st.code * 2 ^ 15)] ++ rest) = .ok (.mzero p t st, 1) := by
  have := t.isLt
  have h_st := st.code_lt
  have hz : (decide (st.code < 2) || t.val % 2 == 0) = true := by cases st <;> first | rfl | exact hw
  have f0 : bits (t.val * 2 ^ 17 + st.code * 2 ^ 15) 17 4 = t.val := by simp only [bits]; omega
  have f1 : bits (t.val * 2 ^ 17 + st.code * 2 ^ 15) 15 2 = st.code := by simp only [bits]; omega
  have f2 : bits (t.val * 2 ^ 17 + st.code * 2 ^ 15) 0 15 = 0 := by simp only [bits]; omega
  rw [List.singleton_append, decode_uni _ _ _ _ (by decide) p.code_lt (by omega), predOf_code]
  simp only [decodeUni, uzOf, f0, f1, f2, finOf_val, tileStateOf_code, hz]
  exact fin_0 1 _ _ _ rfl

theorem roundtrip_sregw (p : Pred) (sr : SReg) (a : USrc) (rest : List Word) :
    decode (wHead 1 0x19 p.code (sr.code * 2 ^ 15 + a.code * 2 ^ 9) :: uLits [a] ++ rest) =
      .ok (.sregw p sr a, (wHead 1 0x19 p.code (sr.code * 2 ^ 15 + a.code * 2 ^ 9) :: uLits [a]).length) := by
  have h_sr := sr.code_lt
  have h_a := a.code_lt
  have hs := decide_eq_true h_sr
  have f0 : bits (sr.code * 2 ^ 15 + a.code * 2 ^ 9) 15 6 = sr.code := by simp only [bits]; omega
  have f1 : bits (sr.code * 2 ^ 15 + a.code * 2 ^ 9) 9 6 = a.code := by simp only [bits]; omega
  have f2 : bits (sr.code * 2 ^ 15 + a.code * 2 ^ 9) 0 9 = 0 := by simp only [bits]; omega
  rw [List.cons_append, decode_uni _ _ _ _ (by decide) p.code_lt (by omega), predOf_code]
  simp only [decodeUni, uzOf, f0, f1, f2, sregOf_code, hs]
  exact (fin_u1 1 a rest (fun a => .sregw p sr a)).trans (ok_len (Nat.add_comm 1 _))

theorem roundtrip_gcmp (p : Pred) (cc : ICC) (lo : Bool) (qd : Fin 8) (a b : USrc) (rest : List Word) (hw : decide (uCount [a, b] ≤ 1) = true) :
    decode (wHead 1 0x15 p.code (qd.val * 2 ^ 18 + cc.code * 2 ^ 14 + a.code * 2 ^ 8 + b.code * 2 ^ 2 + b2n lo) :: uLits [a, b] ++ rest) =
      .ok (.gcmp p cc lo qd a b, (wHead 1 0x15 p.code (qd.val * 2 ^ 18 + cc.code * 2 ^ 14 + a.code * 2 ^ 8 + b.code * 2 ^ 2 + b2n lo) :: uLits [a, b]).length) := by
  have := qd.isLt
  have h_cc := cc.code_lt
  have h_a := a.code_lt
  have h_b := b.code_lt
  have hl := b2n_lt lo
  have h1 := decide_eq_true h_cc
  have h2 := decide_eq_true hl
  have f0 : bits (qd.val * 2 ^ 18 + cc.code * 2 ^ 14 + a.code * 2 ^ 8 + b.code * 2 ^ 2 + b2n lo) 18 3 = qd.val := by simp only [bits]; omega
  have f1 : bits (qd.val * 2 ^ 18 + cc.code * 2 ^ 14 + a.code * 2 ^ 8 + b.code * 2 ^ 2 + b2n lo) 14 4 = cc.code := by simp only [bits]; omega
  have f2 : bits (qd.val * 2 ^ 18 + cc.code * 2 ^ 14 + a.code * 2 ^ 8 + b.code * 2 ^ 2 + b2n lo) 8 6 = a.code := by simp only [bits]; omega
  have f3 : bits (qd.val * 2 ^ 18 + cc.code * 2 ^ 14 + a.code * 2 ^ 8 + b.code * 2 ^ 2 + b2n lo) 2 6 = b.code := by simp only [bits]; omega
  have f4 : bits (qd.val * 2 ^ 18 + cc.code * 2 ^ 14 + a.code * 2 ^ 8 + b.code * 2 ^ 2 + b2n lo) 0 2 = b2n lo := by simp only [bits]; omega
  rw [List.cons_append, decode_uni _ _ _ _ (by decide) p.code_lt (by omega), predOf_code]
  simp only [decodeUni, uzOf, f0, f1, f2, f3, f4, finOf_val, iccOf_code, b2n_beq_one, h1, h2]
  exact (fin_u2 1 a b rest (fun a b => .gcmp p cc lo qd a b) (of_decide_eq_true hw)).trans (ok_len (Nat.add_comm 1 _))

theorem roundtrip_qsend (p : Pred) (sp : Bool) (qd : Fin 8) (a b : USrc) (rest : List Word) (hw : decide (uCount [a, b] ≤ 1) = true) :
    decode (wHead 1 0x22 p.code (qd.val * 2 ^ 18 + 0 * 2 ^ 14 + a.code * 2 ^ 8 + b.code * 2 ^ 2 + b2n sp) :: uLits [a, b] ++ rest) =
      .ok (.qsend p sp qd a b, (wHead 1 0x22 p.code (qd.val * 2 ^ 18 + 0 * 2 ^ 14 + a.code * 2 ^ 8 + b.code * 2 ^ 2 + b2n sp) :: uLits [a, b]).length) := by
  have := qd.isLt
  have h_a := a.code_lt
  have h_b := b.code_lt
  have hl := b2n_lt sp
  have h2 := decide_eq_true hl
  have f0 : bits (qd.val * 2 ^ 18 + 0 * 2 ^ 14 + a.code * 2 ^ 8 + b.code * 2 ^ 2 + b2n sp) 18 3 = qd.val := by simp only [bits]; omega
  have f1 : bits (qd.val * 2 ^ 18 + 0 * 2 ^ 14 + a.code * 2 ^ 8 + b.code * 2 ^ 2 + b2n sp) 14 4 = 0 := by simp only [bits]; omega
  have f2 : bits (qd.val * 2 ^ 18 + 0 * 2 ^ 14 + a.code * 2 ^ 8 + b.code * 2 ^ 2 + b2n sp) 8 6 = a.code := by simp only [bits]; omega
  have f3 : bits (qd.val * 2 ^ 18 + 0 * 2 ^ 14 + a.code * 2 ^ 8 + b.code * 2 ^ 2 + b2n sp) 2 6 = b.code := by simp only [bits]; omega
  have f4 : bits (qd.val * 2 ^ 18 + 0 * 2 ^ 14 + a.code * 2 ^ 8 + b.code * 2 ^ 2 + b2n sp) 0 2 = b2n sp := by simp only [bits]; omega
  rw [List.cons_append, decode_uni _ _ _ _ (by decide) p.code_lt (by omega), predOf_code]
  simp only [decodeUni, uzOf, f0, f1, f2, f3, f4, finOf_val, b2n_beq_one, h2]
  exact (fin_u2 1 a b rest (fun a b => .qsend p sp qd a b) (of_decide_eq_true hw)).trans (ok_len (Nat.add_comm 1 _))

theorem roundtrip_tasksub (p : Pred) (sp : Bool) (qd : Fin 8) (a : USrc) (rest : List Word) :
    decode (wHead 1 0x30 p.code (qd.val * 2 ^ 18 + 0 * 2 ^ 14 + a.code * 2 ^ 8 + 0 * 2 ^ 2 + b2n sp) :: uLits [a] ++ rest) =
      .ok (.tasksub p sp qd a, (wHead 1 0x30 p.code (qd.val * 2 ^ 18 + 0 * 2 ^ 14 + a.code * 2 ^ 8 + 0 * 2 ^ 2 + b2n sp) :: uLits [a]).length) := by
  have := qd.isLt
  have h_a := a.code_lt
  have hl := b2n_lt sp
  have h2 := decide_eq_true hl
  have f0 : bits (qd.val * 2 ^ 18 + 0 * 2 ^ 14 + a.code * 2 ^ 8 + 0 * 2 ^ 2 + b2n sp) 18 3 = qd.val := by simp only [bits]; omega
  have f1 : bits (qd.val * 2 ^ 18 + 0 * 2 ^ 14 + a.code * 2 ^ 8 + 0 * 2 ^ 2 + b2n sp) 14 4 = 0 := by simp only [bits]; omega
  have f2 : bits (qd.val * 2 ^ 18 + 0 * 2 ^ 14 + a.code * 2 ^ 8 + 0 * 2 ^ 2 + b2n sp) 8 6 = a.code := by simp only [bits]; omega
  have f3 : bits (qd.val * 2 ^ 18 + 0 * 2 ^ 14 + a.code * 2 ^ 8 + 0 * 2 ^ 2 + b2n sp) 2 6 = 0 := by simp only [bits]; omega
  have f4 : bits (qd.val * 2 ^ 18 + 0 * 2 ^ 14 + a.code * 2 ^ 8 + 0 * 2 ^ 2 + b2n sp) 0 2 = b2n sp := by simp only [bits]; omega
  rw [List.cons_append, decode_uni _ _ _ _ (by decide) p.code_lt (by omega), predOf_code]
  simp only [decodeUni, uzOf, f0, f1, f2, f3, f4, finOf_val, b2n_beq_one, h2]
  exact (fin_u1 1 a rest (fun a => .tasksub p sp qd a)).trans (ok_len (Nat.add_comm 1 _))

theorem roundtrip_mres (p : Pred) (qd : Fin 8) (rest : List Word) :
    decode (wHead 1 0x28 p.code (qd.val * 2 ^ 18 + 0 * 2 ^ 14 + 0 * 2 ^ 8 + 0 * 2 ^ 2 + 0) :: [] ++ rest) =
      .ok (.mres p qd, (wHead 1 0x28 p.code (qd.val * 2 ^ 18 + 0 * 2 ^ 14 + 0 * 2 ^ 8 + 0 * 2 ^ 2 + 0) :: []).length) := by
  have := qd.isLt
  have f0 : bits (qd.val * 2 ^ 18 + 0 * 2 ^ 14 + 0 * 2 ^ 8 + 0 * 2 ^ 2 + 0) 18 3 = qd.val := by simp only [bits]; omega
  have f1 : bits (qd.val * 2 ^ 18 + 0 * 2 ^ 14 + 0 * 2 ^ 8 + 0 * 2 ^ 2 + 0) 0 18 = 0 := by simp only [bits]; omega
  rw [List.cons_append, decode_uni _ _ _ _ (by decide) p.code_lt (by omega), predOf_code]
  simp only [decodeUni, uzOf, f0, f1, finOf_val]
  exact fin_0 1 _ _ _ rfl

theorem decodeUni_35A (f : Nat) (mk : Pred → Fin 8 → USrc → Instr) (hk : (f = 0 ∧ mk = .topen) ∨ (f = 1 ∧ mk = .trival))
    (p : Pred) (pc body : Nat) (lit : Option Word) (h : bits body 14 4 = f) :
    decodeUni 0x35 p pc body lit = fin true (bits body 0 8 == 0) (isU (bits body 8 6)) 1 lit
      (fun w => mk p (Fin.ofNat 8 (bits body 18 3)) (usrcOf (bits body 8 6) w)) := by
  rcases hk with ⟨rfl, rfl⟩ | ⟨rfl, rfl⟩ <;> (unfold decodeUni; simp only [uzOf, h]; rfl)

theorem decodeUni_35B (p : Pred) (pc body : Nat) (lit : Option Word) (h : bits body 14 4 = 3) :
    decodeUni 0x35 p pc body lit = fin true (bits body 8 6 == 0 && bits body 0 2 == 0) (isU (bits body 2 6)) 1 lit
      (fun w => .tstat p (Fin.ofNat 8 (bits body 18 3)) (usrcOf (bits body 2 6) w)) := by
  unfold decodeUni; simp only [uzOf, h]; rfl

theorem bits_uq35 (q f a b : Nat) (hq : q < 8) (hf : f < 16) (ha : a < 64) (hb : b < 64) :
    let body := q * 2 ^ 18 + f * 2 ^ 14 + a * 2 ^ 8 + b * 2 ^ 2 + 0
    body < 2 ^ 21 ∧ bits body 18 3 = q ∧ bits body 14 4 = f ∧ bits body 8 6 = a ∧ bits body 2 6 = b ∧ bits body 0 2 = 0 ∧
    (b = 0 → bits body 0 8 = 0) := by
  simp only [bits]; omega

theorem roundtrip_uq35A (f : Nat) (mk : Pred → Fin 8 → USrc → Instr) (hk : (f = 0 ∧ mk = .topen) ∨ (f = 1 ∧ mk = .trival))
    (p : Pred) (qd : Fin 8) (a : USrc) (rest : List Word) :
    decode (encUQ 0x35 p qd f a.code 0 0 (uLits [a]) ++ rest) =
      .ok (mk p qd a, (encUQ 0x35 p qd f a.code 0 0 (uLits [a])).length) := by
  have hf : f < 16 := by rcases hk with ⟨rfl, _⟩ | ⟨rfl, _⟩ <;> decide
  obtain ⟨g0, g1, g2, g3, _, _, g6⟩ := bits_uq35 qd.val f a.code 0 qd.isLt hf a.code_lt (by decide)
  have g7 := g6 rfl
  rw [encUQ, List.cons_append, decode_uni _ _ _ _ (by decide) p.code_lt g0, predOf_code, decodeUni_35A f mk hk _ _ _ _ g2]
  simp only [g1, g3, g7, finOf_val]
  exact (fin_u1 1 a rest (fun a => mk p qd a)).trans (ok_len (Nat.add_comm 1 _))

theorem roundtrip_tstat (p : Pred) (qd : Fin 8) (b : USrc) (rest : List Word) :
    decode (encUQ 0x35 p qd 3 0 b.code 0 (uLits [b]) ++ rest) =
      .ok (.tstat p qd b, (encUQ 0x35 p qd 3 0 b.code 0 (uLits [b])).length) := by
  obtain ⟨g0, g1, g2, g3, g4, g5, _⟩ := bits_uq35 qd.val 3 0 b.code qd.isLt (by decide) (by decide) b.code_lt
  rw [encUQ, List.cons_append, decode_uni _ _ _ _ (by decide) p.code_lt g0, predOf_code, decodeUni_35B _ _ _ _ g2]
  simp only [g1, g3, g4, g5, finOf_val]
  exact (fin_u1 1 b rest (fun b => .tstat p qd b)).trans (ok_len (Nat.add_comm 1 _))

theorem decodeUni_35 {mk} (p : Pred) (pc body : Nat) (lit : Option Word) (h : uqOnly 0x35 (bits body 14 4) = some mk) :
    decodeUni 0x35 p pc body lit = fin true (bits body 0 14 == 0) 0 1 lit (fun _ => mk p (Fin.ofNat 8 (bits body 18 3))) := by
  show (match uqOnly 0x35 (bits body 14 4) with
    | some mk => fin true (bits body 0 14 == 0) 0 1 lit (fun _ => mk p (Fin.ofNat 8 (bits body 18 3)))
    | none => _) = _
  rw [h]

theorem decodeUni_36 {mk} (p : Pred) (pc body : Nat) (lit : Option Word) (h : uqOnly 0x36 (bits body 14 4) = some mk) :
    decodeUni 0x36 p pc body lit = fin true (bits body 0 14 == 0) 0 1 lit (fun _ => mk p (Fin.ofNat 8 (bits body 18 3))) := by
  show (match uqOnly 0x36 (bits body 14 4) with
    | some mk => fin true (bits body 0 14 == 0) 0 1 lit (fun _ => mk p (Fin.ofNat 8 (bits body 18 3)))
    | none => _) = _
  rw [h]

theorem bits_uq (q f : Nat) (hq : q < 8) (hf : f < 16) :
    let body := q * 2 ^ 18 + f * 2 ^ 14 + 0 * 2 ^ 8 + 0 * 2 ^ 2 + 0
    body < 2 ^ 21 ∧ bits body 18 3 = q ∧ bits body 14 4 = f ∧ bits body 0 14 = 0 := by
  simp only [bits]; omega

theorem roundtrip_uq35 {mk} (f : Nat) (hf : f < 16) (h : uqOnly 0x35 f = some mk) (p : Pred) (qd : Fin 8) (rest : List Word) :
    decode (encUQ 0x35 p qd f 0 0 0 [] ++ rest) = .ok (mk p qd, 1) := by
  obtain ⟨g0, g1, g2, g3⟩ := bits_uq qd.val f qd.isLt hf
  rw [encUQ, List.cons_append, decode_uni _ _ _ _ (by decide) p.code_lt g0, predOf_code, decodeUni_35 _ _ _ _ (by rw [g2]; exact h)]
  simp only [g1, g3, finOf_val]
  exact fin_0 1 _ _ _ rfl

theorem roundtrip_uq36 {mk} (f : Nat) (hf : f < 16) (h : uqOnly 0x36 f = some mk) (p : Pred) (qd : Fin 8) (rest : List Word) :
    decode (encUQ 0x36 p qd f 0 0 0 [] ++ rest) = .ok (mk p qd, 1) := by
  obtain ⟨g0, g1, g2, g3⟩ := bits_uq qd.val f qd.isLt hf
  rw [encUQ, List.cons_append, decode_uni _ _ _ _ (by decide) p.code_lt g0, predOf_code, decodeUni_36 _ _ _ _ (by rw [g2]; exact h)]
  simp only [g1, g3, finOf_val]
  exact fin_0 1 _ _ _ rfl

/-- The form code of VTOG. -/
def VtogM.code : VtogM → Nat
  | .zext => 0 | .sext => 1 | .pair => 2

theorem VtogM.code_lt (m : VtogM) : m.code < 3 := by cases m <;> decide
theorem vtogOf_code (m : VtogM) : (if m.code = 0 then VtogM.zext else if m.code = 1 then .sext else .pair) = m := by cases m <;> rfl

theorem roundtrip_vtog (p : Pred) (m : VtogM) (d : UDst) (v : Fin 112) (x : USrc) (rest : List Word) :
    decode (wHead 1 0x1A p.code (d.code * 2 ^ 15 + v.val * 2 ^ 8 + x.code * 2 ^ 2 + m.code) :: uLits [x] ++ rest) =
      .ok (.vtog p m d v x, (wHead 1 0x1A p.code (d.code * 2 ^ 15 + v.val * 2 ^ 8 + x.code * 2 ^ 2 + m.code) :: uLits [x]).length) := by
  have h_m := m.code_lt
  have h_x := x.code_lt
  have hv := v.isLt
  have hv2 := decide_eq_true hv
  have h_d := d.code_lt
  have hd : (d.code != 63) = true := bne_iff_ne.2 (by omega)
  have hm := decide_eq_true h_m
  have f0 : bits (d.code * 2 ^ 15 + v.val * 2 ^ 8 + x.code * 2 ^ 2 + m.code) 15 6 = d.code := by simp only [bits]; omega
  have f1 : bits (d.code * 2 ^ 15 + v.val * 2 ^ 8 + x.code * 2 ^ 2 + m.code) 8 7 = v.val := by simp only [bits]; omega
  have f2 : bits (d.code * 2 ^ 15 + v.val * 2 ^ 8 + x.code * 2 ^ 2 + m.code) 2 6 = x.code := by simp only [bits]; omega
  have f3 : bits (d.code * 2 ^ 15 + v.val * 2 ^ 8 + x.code * 2 ^ 2 + m.code) 0 2 = m.code := by simp only [bits]; omega
  rw [List.cons_append, decode_uni _ _ _ _ (by decide) p.code_lt (by omega), predOf_code]
  simp only [decodeUni, uzOf, f0, f1, f2, f3, udstOf_code, finOf_val, vtogOf_code, hd, hv2, hm]
  exact (fin_u1 1 x rest (fun x => .vtog p m d v x)).trans (ok_len (Nat.add_comm 1 _))

theorem roundtrip_gtov (p : Pred) (pr : Bool) (v : Fin 112) (g : USrc) (rest : List Word) :
    decode (wHead 1 0x1B p.code (g.code * 2 ^ 15 + v.val * 2 ^ 8 + 0 * 2 ^ 2 + b2n pr) :: uLits [g] ++ rest) =
      .ok (.gtov p pr v g, (wHead 1 0x1B p.code (g.code * 2 ^ 15 + v.val * 2 ^ 8 + 0 * 2 ^ 2 + b2n pr) :: uLits [g]).length) := by
  have h_g := g.code_lt
  have hv := v.isLt
  have hv2 := decide_eq_true hv
  have := b2n_lt pr
  have f0 : bits (g.code * 2 ^ 15 + v.val * 2 ^ 8 + 0 * 2 ^ 2 + b2n pr) 15 6 = g.code := by simp only [bits]; omega
  have f1 : bits (g.code * 2 ^ 15 + v.val * 2 ^ 8 + 0 * 2 ^ 2 + b2n pr) 8 7 = v.val := by simp only [bits]; omega
  have f2 : bits (g.code * 2 ^ 15 + v.val * 2 ^ 8 + 0 * 2 ^ 2 + b2n pr) 1 7 = 0 := by simp only [bits]; omega
  have f3 : bits (g.code * 2 ^ 15 + v.val * 2 ^ 8 + 0 * 2 ^ 2 + b2n pr) 0 1 = b2n pr := by simp only [bits]; omega
  rw [List.cons_append, decode_uni _ _ _ _ (by decide) p.code_lt (by omega), predOf_code]
  simp only [decodeUni, uzOf, f0, f1, f2, f3, finOf_val, b2n_beq_one, hv2]
  exact (fin_u1 1 g rest (fun g => .gtov p pr v g)).trans (ok_len (Nat.add_comm 1 _))

theorem roundtrip_fapp (p : Pred) (g : USrc) (v : Fin 112) (rest : List Word) :
    decode (wHead 1 0x32 p.code (g.code * 2 ^ 15 + v.val * 2 ^ 8 + 0 * 2 ^ 2 + 0) :: uLits [g] ++ rest) =
      .ok (.fapp p g v, (wHead 1 0x32 p.code (g.code * 2 ^ 15 + v.val * 2 ^ 8 + 0 * 2 ^ 2 + 0) :: uLits [g]).length) := by
  have h_g := g.code_lt
  have hv := v.isLt
  have hv2 := decide_eq_true hv
  have f0 : bits (g.code * 2 ^ 15 + v.val * 2 ^ 8 + 0 * 2 ^ 2 + 0) 15 6 = g.code := by simp only [bits]; omega
  have f1 : bits (g.code * 2 ^ 15 + v.val * 2 ^ 8 + 0 * 2 ^ 2 + 0) 8 7 = v.val := by simp only [bits]; omega
  have f2 : bits (g.code * 2 ^ 15 + v.val * 2 ^ 8 + 0 * 2 ^ 2 + 0) 0 8 = 0 := by simp only [bits]; omega
  rw [List.cons_append, decode_uni _ _ _ _ (by decide) p.code_lt (by omega), predOf_code]
  simp only [decodeUni, uzOf, f0, f1, f2, finOf_val, hv2]
  exact (fin_u1 1 g rest (fun g => .fapp p g v)).trans (ok_len (Nat.add_comm 1 _))

theorem roundtrip_ftake (p : Pred) (g : USrc) (v : Fin 112) (pd : Fin 8) (rest : List Word) :
    decode (wHead 1 0x33 p.code (g.code * 2 ^ 15 + v.val * 2 ^ 8 + pd.val * 2 ^ 2 + 0) :: uLits [g] ++ rest) =
      .ok (.ftake p g v pd, (wHead 1 0x33 p.code (g.code * 2 ^ 15 + v.val * 2 ^ 8 + pd.val * 2 ^ 2 + 0) :: uLits [g]).length) := by
  have h_g := g.code_lt
  have := pd.isLt
  have hv := v.isLt
  have hv2 := decide_eq_true hv
  have f0 : bits (g.code * 2 ^ 15 + v.val * 2 ^ 8 + pd.val * 2 ^ 2 + 0) 15 6 = g.code := by simp only [bits]; omega
  have f1 : bits (g.code * 2 ^ 15 + v.val * 2 ^ 8 + pd.val * 2 ^ 2 + 0) 8 7 = v.val := by simp only [bits]; omega
  have f2 : bits (g.code * 2 ^ 15 + v.val * 2 ^ 8 + pd.val * 2 ^ 2 + 0) 5 3 = 0 := by simp only [bits]; omega
  have f3 : bits (g.code * 2 ^ 15 + v.val * 2 ^ 8 + pd.val * 2 ^ 2 + 0) 2 3 = pd.val := by simp only [bits]; omega
  have f4 : bits (g.code * 2 ^ 15 + v.val * 2 ^ 8 + pd.val * 2 ^ 2 + 0) 0 2 = 0 := by simp only [bits]; omega
  rw [List.cons_append, decode_uni _ _ _ _ (by decide) p.code_lt (by omega), predOf_code]
  simp only [decodeUni, uzOf, f0, f1, f2, f3, f4, finOf_val, hv2]
  exact (fin_u1 1 g rest (fun g => .ftake p g v pd)).trans (ok_len (Nat.add_comm 1 _))

theorem roundtrip_flinit (p : Pred) (a : USrc) (n : Fin 16) (sl : BitVec 10) (rest : List Word) :
    decode (wHead 1 0x23 p.code (a.code * 2 ^ 15 + n.val * 2 ^ 11 + sl.toNat * 2) :: uLits [a] ++ rest) =
      .ok (.flinit p a n sl, (wHead 1 0x23 p.code (a.code * 2 ^ 15 + n.val * 2 ^ 11 + sl.toNat * 2) :: uLits [a]).length) := by
  have h_a := a.code_lt
  have := n.isLt
  have := sl.isLt
  have f0 : bits (a.code * 2 ^ 15 + n.val * 2 ^ 11 + sl.toNat * 2) 15 6 = a.code := by simp only [bits]; omega
  have f1 : bits (a.code * 2 ^ 15 + n.val * 2 ^ 11 + sl.toNat * 2) 11 4 = n.val := by simp only [bits]; omega
  have f2 : bits (a.code * 2 ^ 15 + n.val * 2 ^ 11 + sl.toNat * 2) 1 10 = sl.toNat := by simp only [bits]; omega
  have f3 : bits (a.code * 2 ^ 15 + n.val * 2 ^ 11 + sl.toNat * 2) 0 1 = 0 := by simp only [bits]; omega
  rw [List.cons_append, decode_uni _ _ _ _ (by decide) p.code_lt (by omega), predOf_code]
  simp only [decodeUni, uzOf, f0, f1, f2, f3, finOf_val, ofNat_toNat_self]
  exact (fin_u1 1 a rest (fun a => .flinit p a n sl)).trans (ok_len (Nat.add_comm 1 _))

theorem UOff.enc_lt (o : UOff) : o.enc < 64 := by
  cases o with
  | imm o => have := o.isLt; simp only [UOff.enc]; omega
  | lit w => show 2 ^ 5 < 64; decide

/-- Whether the offset is a literal. -/
def UOff.ol : UOff → Nat
  | .imm _ => 0
  | .lit _ => 1

theorem UOff.ol_lt (o : UOff) : o.ol < 2 := by cases o <;> simp [UOff.ol]

theorem UOff.enc_eq (o : UOff) : o.enc / 2 ^ 5 = o.ol ∧ (o.ol = 0 ∨ o.enc % 2 ^ 5 = 0) := by
  cases o with
  | imm o => have := o.isLt; simp only [UOff.enc, UOff.ol]; exact ⟨by omega, Or.inl trivial⟩
  | lit w => exact ⟨by simp [UOff.enc, UOff.ol], Or.inr (by simp [UOff.enc])⟩

theorem fin_uoff (n : Nat) (b : USrc) (o : UOff) (rest : List Word) (mk : USrc → UOff → Instr) (h : uCount [b] + o.count ≤ 1) :
    fin true true (isU b.code + o.ol) n (uLits [b] ++ o.lits ++ rest).head?
      (fun w => mk (usrcOf b.code w) (if o.ol = 1 then .lit w else .imm (BitVec.ofNat 5 (o.enc % 2 ^ 5)))) =
      .ok (mk b o, n + (uLits [b] ++ o.lits).length) := by
  have h5 : ∀ o : BitVec 5, BitVec.ofNat 5 (o.toNat % 32) = o := fun o => by
    rw [Nat.mod_eq_of_lt (show o.toNat < 32 from o.isLt), BitVec.ofNat_toNat, BitVec.setWidth_eq]
  cases b <;> cases o <;>
    simp [fin, uLits, uCount, UOff.count, UOff.ol, UOff.lits, UOff.enc, isU_g, isU_zero, isU_lit, usrcOf_g, usrcOf_zero, usrcOf_lit, h5] at h ⊢

theorem roundtrip_ldUniform (p : Pred) (sz : SZ) (d : UDst) (b : USrc) (o : UOff) (rest : List Word)
    (hw : decide (uCount [b] + o.count ≤ 1) = true) :
    decode (wHead 1 0x20 p.code (d.code * 2 ^ 15 + b.code * 2 ^ 9 + sz.code * 2 ^ 6 + o.enc) :: (uLits [b] ++ o.lits) ++ rest) =
      .ok (.ldUniform p sz d b o, (wHead 1 0x20 p.code (d.code * 2 ^ 15 + b.code * 2 ^ 9 + sz.code * 2 ^ 6 + o.enc) :: (uLits [b] ++ o.lits)).length) := by
  have hz := sz.code_lt
  have hz2 := decide_eq_true hz
  have h_d := d.code_lt
  have hd : (d.code != 63) = true := bne_iff_ne.2 (by omega)
  have h_b := b.code_lt
  have h_o := o.enc_lt
  obtain ⟨ho1, ho2⟩ := o.enc_eq
  have f0 : bits (d.code * 2 ^ 15 + b.code * 2 ^ 9 + sz.code * 2 ^ 6 + o.enc) 15 6 = d.code := by simp only [bits]; omega
  have f1 : bits (d.code * 2 ^ 15 + b.code * 2 ^ 9 + sz.code * 2 ^ 6 + o.enc) 9 6 = b.code := by simp only [bits]; omega
  have f2 : bits (d.code * 2 ^ 15 + b.code * 2 ^ 9 + sz.code * 2 ^ 6 + o.enc) 6 3 = sz.code := by simp only [bits]; omega
  have f3 : bits (d.code * 2 ^ 15 + b.code * 2 ^ 9 + sz.code * 2 ^ 6 + o.enc) 5 1 = o.ol := by have := o.ol_lt; simp only [bits]; omega
  have f4 : bits (d.code * 2 ^ 15 + b.code * 2 ^ 9 + sz.code * 2 ^ 6 + o.enc) 0 5 = o.enc % 2 ^ 5 := by simp only [bits]; omega
  have f5 : (o.ol == 0 || o.enc % 2 ^ 5 == 0) = true := by
    rcases ho2 with h | h
    · rw [h]; rfl
    · rw [h, Bool.or_eq_true]; exact Or.inr rfl
  rw [List.cons_append, decode_uni _ _ _ _ (by decide) p.code_lt (by omega), predOf_code]
  simp only [decodeUni, uzOf, f0, f1, f2, f3, f4, f5, udstOf_code, hd, hz2, szOf_code]
  exact (fin_uoff 1 b o rest (fun b o => .ldUniform p sz d b o) (of_decide_eq_true hw)).trans (ok_len (Nat.add_comm 1 _))

theorem roundtrip_stUniform (p : Pred) (sz : USZ) (d : UDst) (b : USrc) (o : UOff) (rest : List Word)
    (hw : decide (uCount [b] + o.count ≤ 1) = true) :
    decode (wHead 1 0x21 p.code (d.code * 2 ^ 15 + b.code * 2 ^ 9 + sz.code * 2 ^ 6 + o.enc) :: (uLits [b] ++ o.lits) ++ rest) =
      .ok (.stUniform p sz d b o, (wHead 1 0x21 p.code (d.code * 2 ^ 15 + b.code * 2 ^ 9 + sz.code * 2 ^ 6 + o.enc) :: (uLits [b] ++ o.lits)).length) := by
  have hz := sz.code_lt
  have hz2 := decide_eq_true hz
  have h_d := d.code_lt
  have hd : (d.code != 63) = true := bne_iff_ne.2 (by omega)
  have h_b := b.code_lt
  have h_o := o.enc_lt
  obtain ⟨ho1, ho2⟩ := o.enc_eq
  have f0 : bits (d.code * 2 ^ 15 + b.code * 2 ^ 9 + sz.code * 2 ^ 6 + o.enc) 15 6 = d.code := by simp only [bits]; omega
  have f1 : bits (d.code * 2 ^ 15 + b.code * 2 ^ 9 + sz.code * 2 ^ 6 + o.enc) 9 6 = b.code := by simp only [bits]; omega
  have f2 : bits (d.code * 2 ^ 15 + b.code * 2 ^ 9 + sz.code * 2 ^ 6 + o.enc) 6 3 = sz.code := by simp only [bits]; omega
  have f3 : bits (d.code * 2 ^ 15 + b.code * 2 ^ 9 + sz.code * 2 ^ 6 + o.enc) 5 1 = o.ol := by have := o.ol_lt; simp only [bits]; omega
  have f4 : bits (d.code * 2 ^ 15 + b.code * 2 ^ 9 + sz.code * 2 ^ 6 + o.enc) 0 5 = o.enc % 2 ^ 5 := by simp only [bits]; omega
  have f5 : (o.ol == 0 || o.enc % 2 ^ 5 == 0) = true := by
    rcases ho2 with h | h
    · rw [h]; rfl
    · rw [h, Bool.or_eq_true]; exact Or.inr rfl
  rw [List.cons_append, decode_uni _ _ _ _ (by decide) p.code_lt (by omega), predOf_code]
  simp only [decodeUni, uzOf, f0, f1, f2, f3, f4, f5, udstOf_code, hd, uszOf_code]
  exact (fin_uoff 1 b o rest (fun b o => .stUniform p sz d b o) (of_decide_eq_true hw)).trans (ok_len (Nat.add_comm 1 _))

/-- The fields of a UG word. -/
theorem bits_ug (d a b f : Nat) (hd : d < 64) (ha : a < 64) (hb : b < 64) (hf : f < 8) :
    let body := d * 2 ^ 15 + a * 2 ^ 9 + b * 2 ^ 3 + f
    body < 2 ^ 21 ∧ bits body 15 6 = d ∧ bits body 9 6 = a ∧ bits body 3 6 = b ∧ bits body 0 3 = f := by
  simp only [bits]; omega

theorem roundtrip_gsel (p : Pred) (f : Fin 8) (d : UDst) (a b : USrc) (rest : List Word) (hw : decide (uCount [a, b] ≤ 1) = true) :
    decode (encUG 0x16 p d.code a.code b.code f.val (uLits [a, b]) ++ rest) =
      .ok (.gsel p f d a b, (encUG 0x16 p d.code a.code b.code f.val (uLits [a, b])).length) := by
  have h_d := d.code_lt
  have hd : (d.code != 63) = true := bne_iff_ne.2 (by omega)
  obtain ⟨h0, h1, h2, h3, h4⟩ := bits_ug d.code a.code b.code f.val (by omega) a.code_lt b.code_lt f.isLt
  rw [encUG, List.cons_append, decode_uni _ _ _ _ (by decide) p.code_lt h0, predOf_code]
  simp only [decodeUni, uzOf, h1, h2, h3, h4, hd, udstOf_code, finOf_val]
  exact (fin_u2 1 a b rest (fun a b => .gsel p f d a b) (of_decide_eq_true hw)).trans (ok_len (Nat.add_comm 1 _))

/-- The majors whose words are all of format UG. -/
def isUG (maj : Nat) : Bool :=
  maj == 0x0B || maj == 0x0C || maj == 0x10 || maj == 0x11 || maj == 0x12 || maj == 0x13 || maj == 0x14 || maj == 0x24 || maj == 0x25 ||
  maj == 0x26 || maj == 0x27 || maj == 0x2A || maj == 0x2C || maj == 0x2D || maj == 0x2E || maj == 0x34

theorem isUG_lt (maj : Nat) (h : isUG maj = true) : maj < 64 := by
  simp only [isUG, Bool.or_eq_true, beq_iff_eq] at h; omega

theorem decodeUni_ug (maj : Nat) (h : isUG maj = true) (p : Pred) (pc body : Nat) (lit : Option Word) :
    decodeUni maj p pc body lit = decodeUG maj p body lit := by
  simp only [isUG, Bool.or_eq_true, beq_iff_eq] at h
  rcases h with ((((((((((((((h | h) | h) | h) | h) | h) | h) | h) | h) | h) | h) | h) | h) | h) | h) | h <;> subst h <;> rfl

theorem decodeUG_AB {mk} (maj : Nat) (p : Pred) (body : Nat) (lit : Option Word)
    (h : ugABOf maj (if ugNoF maj then 0 else bits body 0 3) = some mk) :
    decodeUG maj p body lit = fin (bits body 15 6 != 63) (!ugNoF maj || bits body 0 3 == 0) (isU (bits body 9 6) + isU (bits body 3 6)) 1 lit
      (fun w => mk p (udstOf (bits body 15 6)) (usrcOf (bits body 9 6) w) (usrcOf (bits body 3 6) w)) := by
  unfold decodeUG; simp only [h]

theorem decodeUG_A {mk} (maj : Nat) (p : Pred) (body : Nat) (lit : Option Word)
    (h0 : ugABOf maj (if ugNoF maj then 0 else bits body 0 3) = none)
    (h : ugAOf maj (if ugNoF maj then 0 else bits body 0 3) = some mk) :
    decodeUG maj p body lit = fin (bits body 15 6 != 63) ((!ugNoF maj || bits body 0 3 == 0) && bits body 3 6 == 0) (isU (bits body 9 6)) 1 lit
      (fun w => mk p (udstOf (bits body 15 6)) (usrcOf (bits body 9 6) w)) := by
  unfold decodeUG; simp only [h0, h]

theorem decodeUG_S {mk} (maj : Nat) (p : Pred) (body : Nat) (lit : Option Word)
    (h0 : ugABOf maj (if ugNoF maj then 0 else bits body 0 3) = none)
    (h1 : ugAOf maj (if ugNoF maj then 0 else bits body 0 3) = none)
    (h : ugSOf maj (if ugNoF maj then 0 else bits body 0 3) = some mk) :
    decodeUG maj p body lit = fin true ((!ugNoF maj || bits body 0 3 == 0) && bits body 3 6 == 0 && bits body 15 6 == 0) (isU (bits body 9 6)) 1 lit
      (fun w => mk p (usrcOf (bits body 9 6) w)) := by
  unfold decodeUG; simp only [h0, h1, h]

theorem decodeUG_SS {mk} (maj : Nat) (p : Pred) (body : Nat) (lit : Option Word)
    (h0 : ugABOf maj (if ugNoF maj then 0 else bits body 0 3) = none)
    (h1 : ugAOf maj (if ugNoF maj then 0 else bits body 0 3) = none)
    (h2 : ugSOf maj (if ugNoF maj then 0 else bits body 0 3) = none)
    (h : ugSSOf maj (if ugNoF maj then 0 else bits body 0 3) = some mk) :
    decodeUG maj p body lit = fin true ((!ugNoF maj || bits body 0 3 == 0) && bits body 15 6 == 0) (isU (bits body 9 6) + isU (bits body 3 6)) 1 lit
      (fun w => mk p (usrcOf (bits body 9 6) w) (usrcOf (bits body 3 6) w)) := by
  unfold decodeUG; simp only [h0, h1, h2, h]

theorem roundtrip_ugAB {mk} (maj f : Nat) (hm : isUG maj = true) (hf : f < 8) (hn : ugNoF maj = false) (h : ugABOf maj f = some mk)
    (p : Pred) (d : UDst) (a b : USrc) (rest : List Word) (hw : decide (uCount [a, b] ≤ 1) = true) :
    decode (encUG maj p d.code a.code b.code f (uLits [a, b]) ++ rest) =
      .ok (mk p d a b, (encUG maj p d.code a.code b.code f (uLits [a, b])).length) := by
  have h_d := d.code_lt
  have hd : (d.code != 63) = true := bne_iff_ne.2 (by omega)
  obtain ⟨h0, h1, h2, h3, h4⟩ := bits_ug d.code a.code b.code f (by omega) a.code_lt b.code_lt hf
  rw [encUG, List.cons_append, decode_uni _ _ _ _ (isUG_lt maj hm) p.code_lt h0, predOf_code, decodeUni_ug _ hm,
    decodeUG_AB _ _ _ _ (by rw [hn, h4]; exact h)]
  simp only [h1, h2, h3, h4, hd, hn, udstOf_code]
  exact (fin_u2 1 a b rest (fun a b => mk p d a b) (of_decide_eq_true hw)).trans (ok_len (Nat.add_comm 1 _))

theorem roundtrip_ugA {mk} (maj f : Nat) (hm : isUG maj = true) (hf : f < 8) (hn : (!ugNoF maj || f == 0) = true)
    (h0 : ugABOf maj f = none) (h : ugAOf maj f = some mk)
    (p : Pred) (d : UDst) (a : USrc) (rest : List Word) :
    decode (encUG maj p d.code a.code 0 f (uLits [a]) ++ rest) =
      .ok (mk p d a, (encUG maj p d.code a.code 0 f (uLits [a])).length) := by
  have h_d := d.code_lt
  have hd : (d.code != 63) = true := bne_iff_ne.2 (by omega)
  obtain ⟨g0, g1, g2, g3, g4⟩ := bits_ug d.code a.code 0 f (by omega) a.code_lt (by decide) hf
  have e : (if ugNoF maj then 0 else f) = f := by
    cases hq : ugNoF maj
    · rfl
    · rw [hq] at hn; exact (eq_of_beq hn).symm
  rw [encUG, List.cons_append, decode_uni _ _ _ _ (isUG_lt maj hm) p.code_lt g0, predOf_code, decodeUni_ug _ hm,
    decodeUG_A _ _ _ _ (by rw [g4, e]; exact h0) (by rw [g4, e]; exact h)]
  simp only [g1, g2, g3, g4, hd, hn, udstOf_code]
  exact (fin_u1 1 a rest (fun a => mk p d a)).trans (ok_len (Nat.add_comm 1 _))

theorem roundtrip_ugS {mk} (maj f : Nat) (hm : isUG maj = true) (hf : f < 8) (hn : (!ugNoF maj || f == 0) = true)
    (h0 : ugABOf maj f = none) (h1 : ugAOf maj f = none) (h : ugSOf maj f = some mk)
    (p : Pred) (a : USrc) (rest : List Word) :
    decode (encUG maj p 0 a.code 0 f (uLits [a]) ++ rest) =
      .ok (mk p a, (encUG maj p 0 a.code 0 f (uLits [a])).length) := by
  obtain ⟨g0, g1, g2, g3, g4⟩ := bits_ug 0 a.code 0 f (by decide) a.code_lt (by decide) hf
  have e : (if ugNoF maj then 0 else f) = f := by
    cases hq : ugNoF maj
    · rfl
    · rw [hq] at hn; exact (eq_of_beq hn).symm
  rw [encUG, List.cons_append, decode_uni _ _ _ _ (isUG_lt maj hm) p.code_lt g0, predOf_code, decodeUni_ug _ hm,
    decodeUG_S _ _ _ _ (by rw [g4, e]; exact h0) (by rw [g4, e]; exact h1) (by rw [g4, e]; exact h)]
  simp only [g1, g2, g3, g4, hn]
  exact (fin_u1 1 a rest (fun a => mk p a)).trans (ok_len (Nat.add_comm 1 _))

theorem roundtrip_ugSS {mk} (maj f : Nat) (hm : isUG maj = true) (hf : f < 8) (hn : (!ugNoF maj || f == 0) = true)
    (h0 : ugABOf maj f = none) (h1 : ugAOf maj f = none) (h2 : ugSOf maj f = none) (h : ugSSOf maj f = some mk)
    (p : Pred) (a b : USrc) (rest : List Word) (hw : decide (uCount [a, b] ≤ 1) = true) :
    decode (encUG maj p 0 a.code b.code f (uLits [a, b]) ++ rest) =
      .ok (mk p a b, (encUG maj p 0 a.code b.code f (uLits [a, b])).length) := by
  obtain ⟨g0, g1, g2, g3, g4⟩ := bits_ug 0 a.code b.code f (by decide) a.code_lt b.code_lt hf
  have e : (if ugNoF maj then 0 else f) = f := by
    cases hq : ugNoF maj
    · rfl
    · rw [hq] at hn; exact (eq_of_beq hn).symm
  rw [encUG, List.cons_append, decode_uni _ _ _ _ (isUG_lt maj hm) p.code_lt g0, predOf_code, decodeUni_ug _ hm,
    decodeUG_SS _ _ _ _ (by rw [g4, e]; exact h0) (by rw [g4, e]; exact h1) (by rw [g4, e]; exact h2) (by rw [g4, e]; exact h)]
  simp only [g1, g2, g3, g4, hn]
  exact (fin_u2 1 a b rest (fun a b => mk p a b) (of_decide_eq_true hw)).trans (ok_len (Nat.add_comm 1 _))

theorem decodeUG_mstat (p : Pred) (body : Nat) (lit : Option Word) :
    decodeUG 0x2C p body lit = fin (bits body 15 6 != 63) ((!ugNoF 0x2C || bits body 0 3 == 0) && bits body 9 6 == 0 && bits body 3 6 == 0) 0 1 lit
      (fun _ => .mstat p (udstOf (bits body 15 6))) := rfl

theorem roundtrip_mstat (p : Pred) (d : UDst) (rest : List Word) :
    decode (encUG 0x2C p d.code 0 0 0 [] ++ rest) = .ok (.mstat p d, 1) := by
  have h_d := d.code_lt
  have hd : (d.code != 63) = true := bne_iff_ne.2 (by omega)
  obtain ⟨g0, g1, g2, g3, g4⟩ := bits_ug d.code 0 0 0 (by omega) (by decide) (by decide) (by decide)
  rw [encUG, List.cons_append, decode_uni _ _ _ _ (by decide) p.code_lt g0, predOf_code, decodeUni_ug _ rfl, decodeUG_mstat]
  simp only [g1, g2, g3, g4, hd, udstOf_code]
  exact fin_0 1 _ _ _ rfl

theorem decodeUG_copyt (p : Pred) (body : Nat) (lit : Option Word) (h : bits body 0 3 = 0) :
    decodeUG 0x2E p body lit = fin true true (isU (bits body 15 6) + isU (bits body 9 6) + isU (bits body 3 6)) 1 lit
      (fun w => .copyt p (usrcOf (bits body 15 6) w) (usrcOf (bits body 9 6) w) (usrcOf (bits body 3 6) w)) := by
  unfold decodeUG; simp only [h]; rfl

theorem decodeUG_kick (p : Pred) (body : Nat) (lit : Option Word) (h : bits body 0 3 = 1) :
    decodeUG 0x2E p body lit = fin true (bits body 3 6 == 0) (isU (bits body 15 6) + isU (bits body 9 6)) 1 lit
      (fun w => .kick p (usrcOf (bits body 15 6) w) (usrcOf (bits body 9 6) w)) := by
  unfold decodeUG; simp only [h]; rfl

theorem roundtrip_copyt (p : Pred) (d a b : USrc) (rest : List Word) (hw : decide (uCount [d, a, b] ≤ 1) = true) :
    decode (encUG 0x2E p d.code a.code b.code 0 (uLits [d, a, b]) ++ rest) =
      .ok (.copyt p d a b, (encUG 0x2E p d.code a.code b.code 0 (uLits [d, a, b])).length) := by
  obtain ⟨g0, g1, g2, g3, g4⟩ := bits_ug d.code a.code b.code 0 d.code_lt a.code_lt b.code_lt (by decide)
  rw [encUG, List.cons_append, decode_uni _ _ _ _ (by decide) p.code_lt g0, predOf_code, decodeUni_ug _ rfl, decodeUG_copyt _ _ _ g4]
  simp only [g1, g2, g3, g4]
  exact (fin_u3 1 d a b rest (fun d a b => .copyt p d a b) (of_decide_eq_true hw)).trans (ok_len (Nat.add_comm 1 _))

theorem roundtrip_kick (p : Pred) (d a : USrc) (rest : List Word) (hw : decide (uCount [d, a] ≤ 1) = true) :
    decode (encUG 0x2E p d.code a.code 0 1 (uLits [d, a]) ++ rest) =
      .ok (.kick p d a, (encUG 0x2E p d.code a.code 0 1 (uLits [d, a])).length) := by
  obtain ⟨g0, g1, g2, g3, g4⟩ := bits_ug d.code a.code 0 1 d.code_lt a.code_lt (by decide) (by decide)
  rw [encUG, List.cons_append, decode_uni _ _ _ _ (by decide) p.code_lt g0, predOf_code, decodeUni_ug _ rfl, decodeUG_kick _ _ _ g4]
  simp only [g1, g2, g3, g4]
  exact (fin_u2 1 d a rest (fun d a => .kick p d a) (of_decide_eq_true hw)).trans (ok_len (Nat.add_comm 1 _))

end Sys2Proof
end

