-- ==== Sys2Proof/Laws/PerInstr.lean ====
section
/-! SUPPORT. Statements that hold for every instruction, one lemma for each constructor of `Instr`. The family `RoundTrip`: the
decoder reads back what the encoder writes, whatever words follow (R351 to R366). An event has no words. -/

namespace Sys2Proof.Laws.RoundTrip

/-- The words of a well-formed instruction, with any words behind them, decode to that instruction and its length. -/
def Statement (i : Instr) : Prop :=
  i.wf = true → encode i ≠ [] → ∀ rest : List Word, decode (encode i ++ rest) = .ok (i, (encode i).length)

theorem of_words {i : Instr} {ws : List Word} (h : ∀ rest, decode (ws ++ rest) = .ok (i, ws.length)) (e : encode i = ws) :
    ∀ rest : List Word, decode (encode i ++ rest) = .ok (i, (encode i).length) := by
  rw [e]; exact h

theorem and_left {a b : Bool} (h : (a && b) = true) : a = true := (Bool.and_eq_true_iff.1 h).1
theorem and_right {a b : Bool} (h : (a && b) = true) : b = true := (Bool.and_eq_true_iff.1 h).2

theorem nop (p : Pred) : Statement (.nop p) := fun _ _ =>
  of_words (fun rest => roundtrip_nop p rest) rfl
theorem sreg (p : Pred) (d : LDst) (sr : SReg) : Statement (.sreg p d sr) := fun _ _ =>
  of_words (fun rest => roundtrip_sreg p d sr rest) rfl
theorem lbr (p : Pred) (ofs : BitVec 21) : Statement (.lbr p ofs) := fun _ _ =>
  of_words (fun rest => roundtrip_lbr p ofs rest) rfl
theorem lexit (p : Pred) : Statement (.lexit p) := fun _ _ =>
  of_words (fun rest => roundtrip_lexit p rest) rfl
theorem lbrRg (p : Pred) (ofs : BitVec 21) (liveG : BitVec 8) (liveQ : BitVec 7) : Statement (.lbrRg p ofs liveG liveQ) := fun _ _ =>
  of_words (fun rest => roundtrip_lbrRg p ofs liveG liveQ rest) rfl
theorem iadd (p : Pred) (d : LDst) (a b : LSrc) : Statement (.iadd p d a b) := fun hw _ =>
  of_words (fun rest => roundtrip_l3 8 p d a b rest .iadd (by decide) rfl hw) rfl
theorem isub (p : Pred) (d : LDst) (a b : LSrc) : Statement (.isub p d a b) := fun hw _ =>
  of_words (fun rest => roundtrip_l3 9 p d a b rest .isub (by decide) rfl hw) rfl
theorem imul (p : Pred) (d : LDst) (a b : LSrc) : Statement (.imul p d a b) := fun hw _ =>
  of_words (fun rest => roundtrip_l3 10 p d a b rest .imul (by decide) rfl hw) rfl
theorem and (p : Pred) (d : LDst) (a b : LSrc) : Statement (.and p d a b) := fun hw _ =>
  of_words (fun rest => roundtrip_l3 11 p d a b rest .and (by decide) rfl hw) rfl
theorem or (p : Pred) (d : LDst) (a b : LSrc) : Statement (.or p d a b) := fun hw _ =>
  of_words (fun rest => roundtrip_l3 12 p d a b rest .or (by decide) rfl hw) rfl
theorem xor (p : Pred) (d : LDst) (a b : LSrc) : Statement (.xor p d a b) := fun hw _ =>
  of_words (fun rest => roundtrip_l3 13 p d a b rest .xor (by decide) rfl hw) rfl
theorem shl (p : Pred) (d : LDst) (a b : LSrc) : Statement (.shl p d a b) := fun hw _ =>
  of_words (fun rest => roundtrip_l3 14 p d a b rest .shl (by decide) rfl hw) rfl
theorem shrN32 (p : Pred) (d : LDst) (a b : LSrc) : Statement (.shrN32 p d a b) := fun hw _ =>
  of_words (fun rest => roundtrip_l3 15 p d a b rest .shrN32 (by decide) rfl hw) rfl
theorem shrI32 (p : Pred) (d : LDst) (a b : LSrc) : Statement (.shrI32 p d a b) := fun hw _ =>
  of_words (fun rest => roundtrip_l3 16 p d a b rest .shrI32 (by decide) rfl hw) rfl
theorem iminI32 (p : Pred) (d : LDst) (a b : LSrc) : Statement (.iminI32 p d a b) := fun hw _ =>
  of_words (fun rest => roundtrip_l3 17 p d a b rest .iminI32 (by decide) rfl hw) rfl
theorem imaxI32 (p : Pred) (d : LDst) (a b : LSrc) : Statement (.imaxI32 p d a b) := fun hw _ =>
  of_words (fun rest => roundtrip_l3 18 p d a b rest .imaxI32 (by decide) rfl hw) rfl
theorem iminN32 (p : Pred) (d : LDst) (a b : LSrc) : Statement (.iminN32 p d a b) := fun hw _ =>
  of_words (fun rest => roundtrip_l3 19 p d a b rest .iminN32 (by decide) rfl hw) rfl
theorem imaxN32 (p : Pred) (d : LDst) (a b : LSrc) : Statement (.imaxN32 p d a b) := fun hw _ =>
  of_words (fun rest => roundtrip_l3 20 p d a b rest .imaxN32 (by decide) rfl hw) rfl
theorem icmp (p : Pred) (cc : ICC) (pd : Fin 8) (a b : LSrc) : Statement (.icmp p cc pd a b) := fun hw _ =>
  of_words (fun rest => roundtrip_icmp p cc pd a b rest hw) rfl
theorem fcmpF32 (p : Pred) (cc : FCC) (pd : Fin 8) (a b : LSrc) : Statement (.fcmpF32 p cc pd a b) := fun hw _ =>
  of_words (fun rest => roundtrip_fcmp p cc pd a b rest hw) rfl
theorem faddF32 (p : Pred) (d : LDst) (a b : LSrc) : Statement (.faddF32 p d a b) := fun hw _ =>
  of_words (fun rest => roundtrip_l3 24 p d a b rest .faddF32 (by decide) rfl hw) rfl
theorem fsubF32 (p : Pred) (d : LDst) (a b : LSrc) : Statement (.fsubF32 p d a b) := fun hw _ =>
  of_words (fun rest => roundtrip_l3 25 p d a b rest .fsubF32 (by decide) rfl hw) rfl
theorem fmulF32 (p : Pred) (d : LDst) (a b : LSrc) : Statement (.fmulF32 p d a b) := fun hw _ =>
  of_words (fun rest => roundtrip_l3 26 p d a b rest .fmulF32 (by decide) rfl hw) rfl
theorem ffmaF32 (p : Pred) (d : LDst) (a b : LSrc) : Statement (.ffmaF32 p d a b) := fun hw _ =>
  of_words (fun rest => roundtrip_l3 27 p d a b rest .ffmaF32 (by decide) rfl hw) rfl
theorem fminF32 (p : Pred) (d : LDst) (a b : LSrc) : Statement (.fminF32 p d a b) := fun hw _ =>
  of_words (fun rest => roundtrip_l3 28 p d a b rest .fminF32 (by decide) rfl hw) rfl
theorem fmaxF32 (p : Pred) (d : LDst) (a b : LSrc) : Statement (.fmaxF32 p d a b) := fun hw _ =>
  of_words (fun rest => roundtrip_l3 29 p d a b rest .fmaxF32 (by decide) rfl hw) rfl
theorem fminnF32 (p : Pred) (d : LDst) (a b : LSrc) : Statement (.fminnF32 p d a b) := fun hw _ =>
  of_words (fun rest => roundtrip_l3 30 p d a b rest .fminnF32 (by decide) rfl hw) rfl
theorem fmaxnF32 (p : Pred) (d : LDst) (a b : LSrc) : Statement (.fmaxnF32 p d a b) := fun hw _ =>
  of_words (fun rest => roundtrip_l3 31 p d a b rest .fmaxnF32 (by decide) rfl hw) rfl
theorem faddF64 (p : Pred) (d : LDst) (a b : LSrc) : Statement (.faddF64 p d a b) := fun hw _ =>
  of_words (fun rest => roundtrip_l3 32 p d a b rest .faddF64 (by decide) rfl hw) rfl
theorem fmulF64 (p : Pred) (d : LDst) (a b : LSrc) : Statement (.fmulF64 p d a b) := fun hw _ =>
  of_words (fun rest => roundtrip_l3 33 p d a b rest .fmulF64 (by decide) rfl hw) rfl
theorem ffmaF64 (p : Pred) (d : LDst) (a b : LSrc) : Statement (.ffmaF64 p d a b) := fun hw _ =>
  of_words (fun rest => roundtrip_l3 34 p d a b rest .ffmaF64 (by decide) rfl hw) rfl
theorem faddBf16X2 (p : Pred) (d : LDst) (a b : LSrc) : Statement (.faddBf16X2 p d a b) := fun hw _ =>
  of_words (fun rest => roundtrip_l3 35 p d a b rest .faddBf16X2 (by decide) rfl hw) rfl
theorem fmulBf16X2 (p : Pred) (d : LDst) (a b : LSrc) : Statement (.fmulBf16X2 p d a b) := fun hw _ =>
  of_words (fun rest => roundtrip_l3 36 p d a b rest .fmulBf16X2 (by decide) rfl hw) rfl
theorem ffmaBf16X2 (p : Pred) (d : LDst) (a b : LSrc) : Statement (.ffmaBf16X2 p d a b) := fun hw _ =>
  of_words (fun rest => roundtrip_l3 37 p d a b rest .ffmaBf16X2 (by decide) rfl hw) rfl
theorem faddF16X2 (p : Pred) (d : LDst) (a b : LSrc) : Statement (.faddF16X2 p d a b) := fun hw _ =>
  of_words (fun rest => roundtrip_l3 38 p d a b rest .faddF16X2 (by decide) rfl hw) rfl
theorem fmulF16X2 (p : Pred) (d : LDst) (a b : LSrc) : Statement (.fmulF16X2 p d a b) := fun hw _ =>
  of_words (fun rest => roundtrip_l3 39 p d a b rest .fmulF16X2 (by decide) rfl hw) rfl
theorem redux (p : Pred) (op : ROp) (ty : RTy) (d : LDst) (a : LSrc) : Statement (.redux p op ty d a) := fun hw _ =>
  of_words (fun rest => roundtrip_redux p op ty d a rest hw) rfl
theorem shfl (p : Pred) (d : LDst) (a b : LSrc) : Statement (.shfl p d a b) := fun hw _ =>
  of_words (fun rest => roundtrip_l3 41 p d a b rest .shfl (by decide) rfl hw) rfl
theorem recipF32 (p : Pred) (d : LDst) (a : LSrc) : Statement (.recipF32 p d a) := fun _ _ =>
  of_words (fun rest => roundtrip_sfu 0 (by decide) rfl p d a rest) rfl
theorem rrootF32 (p : Pred) (d : LDst) (a : LSrc) : Statement (.rrootF32 p d a) := fun _ _ =>
  of_words (fun rest => roundtrip_sfu 1 (by decide) rfl p d a rest) rfl
theorem rootF32 (p : Pred) (d : LDst) (a : LSrc) : Statement (.rootF32 p d a) := fun _ _ =>
  of_words (fun rest => roundtrip_sfu 2 (by decide) rfl p d a rest) rfl
theorem pow2F32 (p : Pred) (d : LDst) (a : LSrc) : Statement (.pow2F32 p d a) := fun _ _ =>
  of_words (fun rest => roundtrip_sfu 3 (by decide) rfl p d a rest) rfl
theorem log2F32 (p : Pred) (d : LDst) (a : LSrc) : Statement (.log2F32 p d a) := fun _ _ =>
  of_words (fun rest => roundtrip_sfu 4 (by decide) rfl p d a rest) rfl
theorem sineF32 (p : Pred) (d : LDst) (a : LSrc) : Statement (.sineF32 p d a) := fun _ _ =>
  of_words (fun rest => roundtrip_sfu 5 (by decide) rfl p d a rest) rfl
theorem cosineF32 (p : Pred) (d : LDst) (a : LSrc) : Statement (.cosineF32 p d a) := fun _ _ =>
  of_words (fun rest => roundtrip_sfu 6 (by decide) rfl p d a rest) rfl
theorem htanF32 (p : Pred) (d : LDst) (a : LSrc) : Statement (.htanF32 p d a) := fun _ _ =>
  of_words (fun rest => roundtrip_sfu 7 (by decide) rfl p d a rest) rfl
theorem recipF64 (p : Pred) (d : LDst) (a : LSrc) : Statement (.recipF64 p d a) := fun _ _ =>
  of_words (fun rest => roundtrip_sfu 8 (by decide) rfl p d a rest) rfl
theorem rrootF64 (p : Pred) (d : LDst) (a : LSrc) : Statement (.rrootF64 p d a) := fun _ _ =>
  of_words (fun rest => roundtrip_sfu 9 (by decide) rfl p d a rest) rfl
theorem rootF64 (p : Pred) (d : LDst) (a : LSrc) : Statement (.rootF64 p d a) := fun _ _ =>
  of_words (fun rest => roundtrip_sfu 10 (by decide) rfl p d a rest) rfl
theorem mov (p : Pred) (d : LDst) (a : LSrc) : Statement (.mov p d a) := fun _ _ =>
  of_words (fun rest => roundtrip_mov p d a rest) rfl
theorem ld (p : Pred) (d : LDst) (m : LMem) : Statement (.ld p d m) := fun _ _ =>
  of_words (fun rest => roundtrip_ld p d m rest) rfl
theorem st (p : Pred) (s : LSrc) (m : LMem) : Statement (.st p s m) := fun _ _ =>
  of_words (fun rest => roundtrip_st p s m rest) rfl
theorem lds (p : Pred) (d : LDst) (m : LMem) : Statement (.lds p d m) := fun _ _ =>
  of_words (fun rest => roundtrip_lds p d m rest) rfl
theorem sts (p : Pred) (s : LSrc) (m : LMem) : Statement (.sts p s m) := fun _ _ =>
  of_words (fun rest => roundtrip_sts p s m rest) rfl
theorem atom (p : Pred) (op : SAOp) (d : LDst) (base : Option (Fin 15)) (s : LSrc) : Statement (.atom p op d base s) := fun _ _ =>
  of_words (fun rest => roundtrip_atom p op d base s rest) rfl
theorem atomNoret (p : Pred) (op : SAOp) (base : Option (Fin 15)) (s : LSrc) : Statement (.atomNoret p op base s) := fun _ _ =>
  of_words (fun rest => roundtrip_atomNoret p op base s rest) rfl
theorem iaddLong (p : Pred) (ty : ITy) (sat : Bool) (d : LDst) (a b : LSrc) : Statement (.iaddLong p ty sat d a b) := fun hw _ =>
  of_words (fun rest => roundtrip_lABsat 0 rfl (by decide) p ty sat d a b rest hw) rfl
theorem isubLong (p : Pred) (ty : ITy) (sat : Bool) (d : LDst) (a b : LSrc) : Statement (.isubLong p ty sat d a b) := fun hw _ =>
  of_words (fun rest => roundtrip_lABsat 1 rfl (by decide) p ty sat d a b rest hw) rfl
theorem imulLong (p : Pred) (ty : ITy) (sat : Bool) (d : LDst) (a b : LSrc) : Statement (.imulLong p ty sat d a b) := fun hw _ =>
  of_words (fun rest => roundtrip_lABsat 2 rfl (by decide) p ty sat d a b rest hw) rfl
theorem imulhi (p : Pred) (ty : ITy) (d : LDst) (a b : LSrc) : Statement (.imulhi p ty d a b) := fun hw _ =>
  of_words (fun rest => roundtrip_lAB 3 rfl rfl (by decide) p ty d a b rest hw) rfl
theorem imad (p : Pred) (ty : ITy) (sat : Bool) (d : LDst) (a b c : LSrc) : Statement (.imad p ty sat d a b c) := fun hw _ =>
  of_words (fun rest => roundtrip_imad p ty sat d a b c rest hw) rfl
theorem andLong (p : Pred) (ty : ITy) (d : LDst) (a b : LSrc) : Statement (.andLong p ty d a b) := fun hw _ =>
  of_words (fun rest => roundtrip_lAB 5 rfl rfl (by decide) p ty d a b rest hw) rfl
theorem orLong (p : Pred) (ty : ITy) (d : LDst) (a b : LSrc) : Statement (.orLong p ty d a b) := fun hw _ =>
  of_words (fun rest => roundtrip_lAB 6 rfl rfl (by decide) p ty d a b rest hw) rfl
theorem xorLong (p : Pred) (ty : ITy) (d : LDst) (a b : LSrc) : Statement (.xorLong p ty d a b) := fun hw _ =>
  of_words (fun rest => roundtrip_lAB 7 rfl rfl (by decide) p ty d a b rest hw) rfl
theorem andn (p : Pred) (ty : ITy) (d : LDst) (a b : LSrc) : Statement (.andn p ty d a b) := fun hw _ =>
  of_words (fun rest => roundtrip_lAB 8 rfl rfl (by decide) p ty d a b rest hw) rfl
theorem not (p : Pred) (ty : ITy) (d : LDst) (a : LSrc) : Statement (.not p ty d a) := fun _ _ =>
  of_words (fun rest => roundtrip_lA 9 rfl rfl rfl (by decide) p ty d a rest) rfl
theorem shlLong (p : Pred) (ty : ITy) (d : LDst) (a b : LSrc) : Statement (.shlLong p ty d a b) := fun hw _ =>
  of_words (fun rest => roundtrip_lAB 10 rfl rfl (by decide) p ty d a b rest hw) rfl
theorem shrLong (p : Pred) (ty : ITy) (d : LDst) (a b : LSrc) : Statement (.shrLong p ty d a b) := fun hw _ =>
  of_words (fun rest => roundtrip_lAB 11 rfl rfl (by decide) p ty d a b rest hw) rfl
theorem iminLong (p : Pred) (ty : ITy) (d : LDst) (a b : LSrc) : Statement (.iminLong p ty d a b) := fun hw _ =>
  of_words (fun rest => roundtrip_lAB 12 rfl rfl (by decide) p ty d a b rest hw) rfl
theorem imaxLong (p : Pred) (ty : ITy) (d : LDst) (a b : LSrc) : Statement (.imaxLong p ty d a b) := fun hw _ =>
  of_words (fun rest => roundtrip_lAB 13 rfl rfl (by decide) p ty d a b rest hw) rfl
theorem iabs (p : Pred) (ty : ITy) (sat : Bool) (d : LDst) (a : LSrc) : Statement (.iabs p ty sat d a) := fun _ _ =>
  of_words (fun rest => roundtrip_lAsat 14 rfl rfl rfl rfl (by decide) p ty sat d a rest) rfl
theorem ineg (p : Pred) (ty : ITy) (sat : Bool) (d : LDst) (a : LSrc) : Statement (.ineg p ty sat d a) := fun _ _ =>
  of_words (fun rest => roundtrip_lAsat 15 rfl rfl rfl rfl (by decide) p ty sat d a rest) rfl
theorem popc (p : Pred) (ty : ITy) (d : LDst) (a : LSrc) : Statement (.popc p ty d a) := fun _ _ =>
  of_words (fun rest => roundtrip_lA 16 rfl rfl rfl (by decide) p ty d a rest) rfl
theorem clz (p : Pred) (ty : ITy) (d : LDst) (a : LSrc) : Statement (.clz p ty d a) := fun _ _ =>
  of_words (fun rest => roundtrip_lA 17 rfl rfl rfl (by decide) p ty d a rest) rfl
theorem bitrev (p : Pred) (ty : ITy) (d : LDst) (a : LSrc) : Statement (.bitrev p ty d a) := fun _ _ =>
  of_words (fun rest => roundtrip_lA 18 rfl rfl rfl (by decide) p ty d a rest) rfl
theorem xfld (p : Pred) (ty : ITy) (d : LDst) (a b : LSrc) : Statement (.xfld p ty d a b) := fun hw _ =>
  of_words (fun rest => roundtrip_lAB 19 rfl rfl (by decide) p ty d a b rest hw) rfl
theorem ifld (p : Pred) (ty : ITy) (d : LDst) (a b c : LSrc) : Statement (.ifld p ty d a b c) := fun hw _ =>
  of_words (fun rest => roundtrip_ifld p ty d a b c rest hw) rfl
theorem icmpLong (p : Pred) (ty : ITy) (cc : ICC) (pd : Fin 8) (a b : LSrc) : Statement (.icmpLong p ty cc pd a b) := fun hw _ =>
  of_words (fun rest => roundtrip_icmpLong p ty cc pd a b rest hw) rfl
theorem sel (p : Pred) (ty : ITy) (ps : Fin 8) (pn : Bool) (d : LDst) (a b : LSrc) : Statement (.sel p ty ps pn d a b) := fun hw _ =>
  of_words (fun rest => roundtrip_sel p ty ps pn d a b rest hw) rfl
theorem movLong (p : Pred) (ty : ITy) (d : LDst) (a : LSrc) : Statement (.movLong p ty d a) := fun _ _ =>
  of_words (fun rest => roundtrip_lA 23 rfl rfl rfl (by decide) p ty d a rest) rfl
theorem faddLong (p : Pred) (ty : FTy) (rm : RMode) (ftz : Bool) (d : LDst) (a b : LSrc) : Statement (.faddLong p ty rm ftz d a b) := fun hw _ =>
  of_words (fun rest => roundtrip_lFrm 32 rfl rfl rfl rfl rfl (by decide) p ty rm ftz d a b rest hw) rfl
theorem fsubLong (p : Pred) (ty : FTy) (rm : RMode) (ftz : Bool) (d : LDst) (a b : LSrc) : Statement (.fsubLong p ty rm ftz d a b) := fun hw _ =>
  of_words (fun rest => roundtrip_lFrm 33 rfl rfl rfl rfl rfl (by decide) p ty rm ftz d a b rest hw) rfl
theorem fmulLong (p : Pred) (ty : FTy) (rm : RMode) (ftz : Bool) (d : LDst) (a b : LSrc) : Statement (.fmulLong p ty rm ftz d a b) := fun hw _ =>
  of_words (fun rest => roundtrip_lFrm 34 rfl rfl rfl rfl rfl (by decide) p ty rm ftz d a b rest hw) rfl
theorem ffmaLong (p : Pred) (ty : FTy) (rm : RMode) (ftz : Bool) (d : LDst) (a b c : LSrc) : Statement (.ffmaLong p ty rm ftz d a b c) := fun hw _ =>
  of_words (fun rest => roundtrip_ffmaLong p ty rm ftz d a b c rest hw) rfl
theorem fminLong (p : Pred) (ty : FTy) (ftz : Bool) (d : LDst) (a b : LSrc) : Statement (.fminLong p ty ftz d a b) := fun hw _ =>
  of_words (fun rest => roundtrip_lFmm 36 rfl rfl rfl rfl rfl rfl (by decide) p ty ftz d a b rest hw) rfl
theorem fmaxLong (p : Pred) (ty : FTy) (ftz : Bool) (d : LDst) (a b : LSrc) : Statement (.fmaxLong p ty ftz d a b) := fun hw _ =>
  of_words (fun rest => roundtrip_lFmm 37 rfl rfl rfl rfl rfl rfl (by decide) p ty ftz d a b rest hw) rfl
theorem fminnLong (p : Pred) (ty : FTy) (ftz : Bool) (d : LDst) (a b : LSrc) : Statement (.fminnLong p ty ftz d a b) := fun hw _ =>
  of_words (fun rest => roundtrip_lFmm 38 rfl rfl rfl rfl rfl rfl (by decide) p ty ftz d a b rest hw) rfl
theorem fmaxnLong (p : Pred) (ty : FTy) (ftz : Bool) (d : LDst) (a b : LSrc) : Statement (.fmaxnLong p ty ftz d a b) := fun hw _ =>
  of_words (fun rest => roundtrip_lFmm 39 rfl rfl rfl rfl rfl rfl (by decide) p ty ftz d a b rest hw) rfl
theorem fabs (p : Pred) (ty : FTy) (d : LDst) (a : LSrc) : Statement (.fabs p ty d a) := fun _ _ =>
  of_words (fun rest => roundtrip_fabs p ty d a rest) rfl
theorem fneg (p : Pred) (ty : FTy) (d : LDst) (a : LSrc) : Statement (.fneg p ty d a) := fun _ _ =>
  of_words (fun rest => roundtrip_fneg p ty d a rest) rfl
theorem fcmpLong (p : Pred) (f64 : Bool) (cc : FCC) (ftz : Bool) (pd : Fin 8) (a b : LSrc) : Statement (.fcmpLong p f64 cc ftz pd a b) := fun hw _ =>
  of_words (fun rest => roundtrip_fcmpLong p f64 cc ftz pd a b rest hw) rfl
theorem fclass (p : Pred) (ty : FTy) (ftz : Bool) (d : LDst) (a : LSrc) : Statement (.fclass p ty ftz d a) := fun _ _ =>
  of_words (fun rest => roundtrip_fclass p ty ftz d a rest) rfl
theorem cvt (p : Pred) (dty sty : Ty) (rm : RMode) (ftz sat : Bool) (d : LDst) (a : LSrc) (b : Option LSrc) : Statement (.cvt p dty sty rm ftz sat d a b) := fun hw _ =>
  of_words (fun rest => roundtrip_cvt p dty sty rm ftz sat d a b rest hw) rfl
theorem qblk (p : Pred) (ty : QTy) (rm : RMode) (d : LDst) (a : LSrc) (b : Option LSrc) : Statement (.qblk p ty rm d a b) := fun hw _ =>
  of_words (fun rest => roundtrip_qblk p ty rm d a b rest hw) rfl
theorem qblks (p : Pred) (ty : QTy) (rm : RMode) (sat : Bool) (d : LDst) (a b : LSrc) (c : Option LSrc) : Statement (.qblks p ty rm sat d a b c) := fun hw _ =>
  of_words (fun rest => roundtrip_qblks p ty rm sat d a b c rest hw) rfl
theorem dqblk (p : Pred) (ty : QTy) (rm : RMode) (ftz : Bool) (d : LDst) (a : LSrc) (b : Option LSrc) : Statement (.dqblk p ty rm ftz d a b) := fun hw _ =>
  of_words (fun rest => roundtrip_dqblk p ty rm ftz d a b rest hw) rfl
theorem shflLong (p : Pred) (bytlid : Bool) (ty : RTy) (d : LDst) (a b : LSrc) (pd : Option (Fin 8)) : Statement (.shflLong p bytlid ty d a b pd) := fun hw _ =>
  of_words (fun rest => roundtrip_shflLong p bytlid ty d a b pd rest hw) rfl
theorem ldLong (p : Pred) (sz : SZ) (acq : Option Scope) (nl1 : Bool) (d : LDst) (m : LXMem) : Statement (.ldLong p sz acq nl1 d m) := fun _ _ =>
  of_words (fun rest => roundtrip_ldLong p sz acq nl1 d m rest) rfl
theorem stLong (p : Pred) (sz : USZ) (rel : Option Scope) (s : LSrc) (m : LXMem) : Statement (.stLong p sz rel s m) := fun hw _ =>
  of_words (fun rest => roundtrip_stLong p sz rel s m rest hw) rfl
theorem ldsLong (p : Pred) (sz : SZ) (acq : Option Scope) (d : LDst) (m : LXMem) : Statement (.ldsLong p sz acq d m) := fun hw _ =>
  of_words (fun rest => roundtrip_ldsLong p sz acq d m rest hw) rfl
theorem stsLong (p : Pred) (sz : USZ) (rel : Option Scope) (s : LSrc) (m : LXMem) : Statement (.stsLong p sz rel s m) := fun hw _ =>
  of_words (fun rest => roundtrip_stsLong p sz rel s m rest (and_left hw) (and_right hw)) rfl
theorem atomLong (p : Pred) (op : AOp) (sz : SZ) (ord : AOrd) (d : Option LDst) (m : LXMem) (s : LSrc) : Statement (.atomLong p op sz ord d m s) := fun hw _ =>
  of_words (fun rest => roundtrip_atomLong p op sz ord d m s rest (and_left hw) (and_right hw)) rfl
theorem atoms (p : Pred) (op : AOp) (sz : SZ) (d : Option LDst) (m : LXMem) (s : LSrc) : Statement (.atoms p op sz d m s) := fun hw _ =>
  of_words (fun rest => roundtrip_atoms p op sz d m s rest (and_left hw) (and_right hw)) rfl
theorem pref (p : Pred) (slice : Bool) (m : LXMem) : Statement (.pref p slice m) := fun _ _ =>
  of_words (fun rest => roundtrip_pref p slice m rest) rfl
theorem dset (p : Pred) (s : LSrc) (m : LXMem) : Statement (.dset p s m) := fun hw _ =>
  of_words (fun rest => roundtrip_dset p s m rest hw) rfl
theorem dget (p : Pred) (d : LDst) (m : LXMem) : Statement (.dget p d m) := fun _ _ =>
  of_words (fun rest => roundtrip_dget p d m rest) rfl
theorem stmc (p : Pred) (sz : USZ) (rel : Option Scope) (s : LSrc) (m : LXMem) (gm : Fin 7) : Statement (.stmc p sz rel s m gm) := fun hw _ =>
  of_words (fun rest => roundtrip_stmc p sz rel s m gm rest hw) rfl
theorem stred (p : Pred) (op : StredOp) (sz : USZ) (rel : Option Scope) (s : LSrc) (m : LXMem) (gm : Fin 7) : Statement (.stred p op sz rel s m gm) := fun hw _ =>
  of_words (fun rest => roundtrip_stred p op sz rel s m gm rest hw) rfl
theorem runb (n : BitVec 5) (va : BitVec 7) (k : BitVec 4) : Statement (.runb n va k) := fun hw _ =>
  of_words (fun rest => roundtrip_runb n va k rest hw) rfl
theorem rune (va : BitVec 7) (k : BitVec 4) : Statement (.rune va k) := fun hw _ =>
  of_words (fun rest => roundtrip_rune va k rest hw) rfl
theorem waitc (p : Pred) (a b c d : BitVec 4) : Statement (.waitc p a b c d) := fun _ _ =>
  of_words (fun rest => roundtrip_waitc p a b c d rest) rfl
theorem bartm (p : Pred) : Statement (.bartm p) := fun _ _ =>
  of_words (fun rest => roundtrip_uz 4 (by decide) rfl p rest) rfl
theorem fence (p : Pred) (kind : FKind) (scope : Scope) : Statement (.fence p kind scope) := fun _ _ =>
  of_words (fun rest => roundtrip_fence p kind scope rest) rfl
theorem exit (p : Pred) : Statement (.exit p) := fun _ _ =>
  of_words (fun rest => roundtrip_uz 6 (by decide) rfl p rest) rfl
theorem bra (p : Pred) (ofs : BitVec 21) : Statement (.bra p ofs) := fun _ _ =>
  of_words (fun rest => roundtrip_bra p ofs rest) rfl
theorem braq (p : Pred) (pl : Fin 8) (all : Bool) (ofs : BitVec 17) : Statement (.braq p pl all ofs) := fun _ _ =>
  of_words (fun rest => roundtrip_braq p pl all ofs rest) rfl
theorem call (p : Pred) (d : UDst) (ofs : BitVec 15) : Statement (.call p d ofs) := fun _ _ =>
  of_words (fun rest => roundtrip_call p d ofs rest) rfl
theorem ret (p : Pred) (a : USrc) : Statement (.ret p a) := fun _ _ =>
  of_words (fun rest => roundtrip_ugS 11 0 rfl (by decide) rfl rfl rfl rfl p a rest) rfl
theorem jmpg (p : Pred) (a : USrc) : Statement (.jmpg p a) := fun _ _ =>
  of_words (fun rest => roundtrip_ugS 12 0 rfl (by decide) rfl rfl rfl rfl p a rest) rfl
theorem trap (p : Pred) (ret : Bool) : Statement (.trap p ret) := fun _ _ =>
  of_words (fun rest => roundtrip_trap p ret rest) rfl
theorem bkpt (p : Pred) (tag : BitVec 16) : Statement (.bkpt p tag) := fun _ _ =>
  of_words (fun rest => roundtrip_bkpt p tag rest) rfl
theorem fwcall (p : Pred) (svc : BitVec 12) : Statement (.fwcall p svc) := fun _ _ =>
  of_words (fun rest => roundtrip_fwcall p svc rest) rfl
theorem gadd (p : Pred) (d : UDst) (a b : USrc) : Statement (.gadd p d a b) := fun hw _ =>
  of_words (fun rest => roundtrip_ugAB 16 0 rfl (by decide) rfl rfl p d a b rest hw) rfl
theorem gsub (p : Pred) (d : UDst) (a b : USrc) : Statement (.gsub p d a b) := fun hw _ =>
  of_words (fun rest => roundtrip_ugAB 16 1 rfl (by decide) rfl rfl p d a b rest hw) rfl
theorem gmul (p : Pred) (d : UDst) (a b : USrc) : Statement (.gmul p d a b) := fun hw _ =>
  of_words (fun rest => roundtrip_ugAB 16 2 rfl (by decide) rfl rfl p d a b rest hw) rfl
theorem gmulhiN64 (p : Pred) (d : UDst) (a b : USrc) : Statement (.gmulhiN64 p d a b) := fun hw _ =>
  of_words (fun rest => roundtrip_ugAB 16 3 rfl (by decide) rfl rfl p d a b rest hw) rfl
theorem gmulhiI64 (p : Pred) (d : UDst) (a b : USrc) : Statement (.gmulhiI64 p d a b) := fun hw _ =>
  of_words (fun rest => roundtrip_ugAB 16 4 rfl (by decide) rfl rfl p d a b rest hw) rfl
theorem gand (p : Pred) (d : UDst) (a b : USrc) : Statement (.gand p d a b) := fun hw _ =>
  of_words (fun rest => roundtrip_ugAB 17 0 rfl (by decide) rfl rfl p d a b rest hw) rfl
theorem gor (p : Pred) (d : UDst) (a b : USrc) : Statement (.gor p d a b) := fun hw _ =>
  of_words (fun rest => roundtrip_ugAB 17 1 rfl (by decide) rfl rfl p d a b rest hw) rfl
theorem gxor (p : Pred) (d : UDst) (a b : USrc) : Statement (.gxor p d a b) := fun hw _ =>
  of_words (fun rest => roundtrip_ugAB 17 2 rfl (by decide) rfl rfl p d a b rest hw) rfl
theorem gandn (p : Pred) (d : UDst) (a b : USrc) : Statement (.gandn p d a b) := fun hw _ =>
  of_words (fun rest => roundtrip_ugAB 17 3 rfl (by decide) rfl rfl p d a b rest hw) rfl
theorem gnot (p : Pred) (d : UDst) (a : USrc) : Statement (.gnot p d a) := fun _ _ =>
  of_words (fun rest => roundtrip_ugA 17 4 rfl (by decide) rfl rfl rfl p d a rest) rfl
theorem gpopc (p : Pred) (d : UDst) (a : USrc) : Statement (.gpopc p d a) := fun _ _ =>
  of_words (fun rest => roundtrip_ugA 17 5 rfl (by decide) rfl rfl rfl p d a rest) rfl
theorem gclz (p : Pred) (d : UDst) (a : USrc) : Statement (.gclz p d a) := fun _ _ =>
  of_words (fun rest => roundtrip_ugA 17 6 rfl (by decide) rfl rfl rfl p d a rest) rfl
theorem gshl (p : Pred) (d : UDst) (a b : USrc) : Statement (.gshl p d a b) := fun hw _ =>
  of_words (fun rest => roundtrip_ugAB 18 0 rfl (by decide) rfl rfl p d a b rest hw) rfl
theorem gshr (p : Pred) (d : UDst) (a b : USrc) : Statement (.gshr p d a b) := fun hw _ =>
  of_words (fun rest => roundtrip_ugAB 18 1 rfl (by decide) rfl rfl p d a b rest hw) rfl
theorem gsar (p : Pred) (d : UDst) (a b : USrc) : Statement (.gsar p d a b) := fun hw _ =>
  of_words (fun rest => roundtrip_ugAB 18 2 rfl (by decide) rfl rfl p d a b rest hw) rfl
theorem grotl (p : Pred) (d : UDst) (a b : USrc) : Statement (.grotl p d a b) := fun hw _ =>
  of_words (fun rest => roundtrip_ugAB 18 3 rfl (by decide) rfl rfl p d a b rest hw) rfl
theorem gminI64 (p : Pred) (d : UDst) (a b : USrc) : Statement (.gminI64 p d a b) := fun hw _ =>
  of_words (fun rest => roundtrip_ugAB 19 0 rfl (by decide) rfl rfl p d a b rest hw) rfl
theorem gmaxI64 (p : Pred) (d : UDst) (a b : USrc) : Statement (.gmaxI64 p d a b) := fun hw _ =>
  of_words (fun rest => roundtrip_ugAB 19 1 rfl (by decide) rfl rfl p d a b rest hw) rfl
theorem gminN64 (p : Pred) (d : UDst) (a b : USrc) : Statement (.gminN64 p d a b) := fun hw _ =>
  of_words (fun rest => roundtrip_ugAB 19 2 rfl (by decide) rfl rfl p d a b rest hw) rfl
theorem gmaxN64 (p : Pred) (d : UDst) (a b : USrc) : Statement (.gmaxN64 p d a b) := fun hw _ =>
  of_words (fun rest => roundtrip_ugAB 19 3 rfl (by decide) rfl rfl p d a b rest hw) rfl
theorem gmov (p : Pred) (d : UDst) (a : USrc) : Statement (.gmov p d a) := fun _ _ =>
  of_words (fun rest => roundtrip_ugA 20 0 rfl (by decide) rfl rfl rfl p d a rest) rfl
theorem gmovN32 (p : Pred) (d : UDst) (a : USrc) : Statement (.gmovN32 p d a) := fun _ _ =>
  of_words (fun rest => roundtrip_ugA 20 1 rfl (by decide) rfl rfl rfl p d a rest) rfl
theorem gmovI32 (p : Pred) (d : UDst) (a : USrc) : Statement (.gmovI32 p d a) := fun _ _ =>
  of_words (fun rest => roundtrip_ugA 20 2 rfl (by decide) rfl rfl rfl p d a rest) rfl
theorem gcmp (p : Pred) (cc : ICC) (lo : Bool) (qd : Fin 8) (a b : USrc) : Statement (.gcmp p cc lo qd a b) := fun hw _ =>
  of_words (fun rest => roundtrip_gcmp p cc lo qd a b rest hw) rfl
theorem gsel (p : Pred) (f : Fin 8) (d : UDst) (a b : USrc) : Statement (.gsel p f d a b) := fun hw _ =>
  of_words (fun rest => roundtrip_gsel p f d a b rest hw) rfl
theorem qand (p : Pred) (qd qa : Fin 8) (na : Bool) (qb : Fin 8) (nb : Bool) : Statement (.qand p qd qa na qb nb) := fun _ _ =>
  of_words (fun rest => roundtrip_qand p qd qa na qb nb rest) rfl
theorem qor (p : Pred) (qd qa : Fin 8) (na : Bool) (qb : Fin 8) (nb : Bool) : Statement (.qor p qd qa na qb nb) := fun _ _ =>
  of_words (fun rest => roundtrip_qor p qd qa na qb nb rest) rfl
theorem qxor (p : Pred) (qd qa : Fin 8) (na : Bool) (qb : Fin 8) (nb : Bool) : Statement (.qxor p qd qa na qb nb) := fun _ _ =>
  of_words (fun rest => roundtrip_qxor p qd qa na qb nb rest) rfl
theorem sregUniform (p : Pred) (d : UDst) (sr : SReg) : Statement (.sregUniform p d sr) := fun _ _ =>
  of_words (fun rest => roundtrip_sregUniform p d sr rest) rfl
theorem sregw (p : Pred) (sr : SReg) (a : USrc) : Statement (.sregw p sr a) := fun _ _ =>
  of_words (fun rest => roundtrip_sregw p sr a rest) rfl
theorem vtog (p : Pred) (m : VtogM) (d : UDst) (v : Fin 112) (x : USrc) : Statement (.vtog p m d v x) := fun _ _ =>
  of_words (fun rest => roundtrip_vtog p m d v x rest) rfl
theorem gtov (p : Pred) (pair : Bool) (v : Fin 112) (g : USrc) : Statement (.gtov p pair v g) := fun _ _ =>
  of_words (fun rest => roundtrip_gtov p pair v g rest) rfl
theorem vote (p : Pred) (m : VoteM) (d : UDst) (pl : Fin 8) : Statement (.vote p m d pl) := fun _ _ =>
  of_words (fun rest => roundtrip_vote p m d pl rest) rfl
theorem pmark (p : Pred) : Statement (.pmark p) := fun _ _ =>
  of_words (fun rest => roundtrip_uz 29 (by decide) rfl p rest) rfl
theorem ldUniform (p : Pred) (sz : SZ) (d : UDst) (b : USrc) (off : UOff) : Statement (.ldUniform p sz d b off) := fun hw _ =>
  of_words (fun rest => roundtrip_ldUniform p sz d b off rest hw) rfl
theorem stUniform (p : Pred) (sz : USZ) (s : UDst) (b : USrc) (off : UOff) : Statement (.stUniform p sz s b off) := fun hw _ =>
  of_words (fun rest => roundtrip_stUniform p sz s b off rest hw) rfl
theorem qsend (p : Pred) (space : Bool) (qd : Fin 8) (a b : USrc) : Statement (.qsend p space qd a b) := fun hw _ =>
  of_words (fun rest => roundtrip_qsend p space qd a b rest hw) rfl
theorem flinit (p : Pred) (a : USrc) (nslot1 : Fin 16) (slotb1 : BitVec 10) : Statement (.flinit p a nslot1 slotb1) := fun _ _ =>
  of_words (fun rest => roundtrip_flinit p a nslot1 slotb1 rest) rfl
theorem flacq (p : Pred) (d : UDst) (a : USrc) : Statement (.flacq p d a) := fun _ _ =>
  of_words (fun rest => roundtrip_ugA 36 0 rfl (by decide) rfl rfl rfl p d a rest) rfl
theorem flrel (p : Pred) (a : USrc) : Statement (.flrel p a) := fun _ _ =>
  of_words (fun rest => roundtrip_ugS 37 0 rfl (by decide) rfl rfl rfl rfl p a rest) rfl
theorem boarm (p : Pred) (a b : USrc) : Statement (.boarm p a b) := fun hw _ =>
  of_words (fun rest => roundtrip_ugSS 38 0 rfl (by decide) rfl rfl rfl rfl rfl p a b rest hw) rfl
theorem bowait (p : Pred) (a : USrc) : Statement (.bowait p a) := fun _ _ =>
  of_words (fun rest => roundtrip_ugS 39 0 rfl (by decide) rfl rfl rfl rfl p a rest) rfl
theorem mres (p : Pred) (qd : Fin 8) : Statement (.mres p qd) := fun _ _ =>
  of_words (fun rest => roundtrip_mres p qd rest) rfl
theorem mrel (p : Pred) : Statement (.mrel p) := fun _ _ =>
  of_words (fun rest => roundtrip_uz 41 (by decide) rfl p rest) rfl
theorem mmaq (p : Pred) (a : USrc) : Statement (.mmaq p a) := fun _ _ =>
  of_words (fun rest => roundtrip_ugS 42 0 rfl (by decide) rfl rfl rfl rfl p a rest) rfl
theorem mdelta (p : Pred) (a : USrc) : Statement (.mdelta p a) := fun _ _ =>
  of_words (fun rest => roundtrip_ugS 42 1 rfl (by decide) rfl rfl rfl rfl p a rest) rfl
theorem mdrain (p : Pred) (a : USrc) : Statement (.mdrain p a) := fun _ _ =>
  of_words (fun rest => roundtrip_ugS 42 2 rfl (by decide) rfl rfl rfl rfl p a rest) rfl
theorem mzero (p : Pred) (tile : Fin 16) (st : TileState) : Statement (.mzero p tile st) := fun hw _ =>
  of_words (fun rest => roundtrip_mzero p tile st rest hw) rfl
theorem mstat (p : Pred) (d : UDst) : Statement (.mstat p d) := fun _ _ =>
  of_words (fun rest => roundtrip_mstat p d rest) rfl
theorem rsvinv (p : Pred) (a : USrc) : Statement (.rsvinv p a) := fun _ _ =>
  of_words (fun rest => roundtrip_ugS 45 0 rfl (by decide) rfl rfl rfl rfl p a rest) rfl
theorem rsvinvClear (p : Pred) (a : USrc) : Statement (.rsvinvClear p a) := fun _ _ =>
  of_words (fun rest => roundtrip_ugS 45 1 rfl (by decide) rfl rfl rfl rfl p a rest) rfl
theorem rsvq (p : Pred) (a b : USrc) : Statement (.rsvq p a b) := fun hw _ =>
  of_words (fun rest => roundtrip_ugSS 45 2 rfl (by decide) rfl rfl rfl rfl rfl p a b rest hw) rfl
theorem copyt (p : Pred) (d a b : USrc) : Statement (.copyt p d a b) := fun hw _ =>
  of_words (fun rest => roundtrip_copyt p d a b rest hw) rfl
theorem kick (p : Pred) (d a : USrc) : Statement (.kick p d a) := fun hw _ =>
  of_words (fun rest => roundtrip_kick p d a rest hw) rfl
theorem tdload (p : Pred) (d : UDst) (a : USrc) : Statement (.tdload p d a) := fun _ _ =>
  of_words (fun rest => roundtrip_ugA 46 2 rfl (by decide) rfl rfl rfl p d a rest) rfl
theorem tasksub (p : Pred) (space : Bool) (qd : Fin 8) (a : USrc) : Statement (.tasksub p space qd a) := fun _ _ =>
  of_words (fun rest => roundtrip_tasksub p space qd a rest) rfl
theorem taskdone (p : Pred) : Statement (.taskdone p) := fun _ _ =>
  of_words (fun rest => roundtrip_uz 49 (by decide) rfl p rest) rfl
theorem fapp (p : Pred) (g : USrc) (v : Fin 112) : Statement (.fapp p g v) := fun _ _ =>
  of_words (fun rest => roundtrip_fapp p g v rest) rfl
theorem ftake (p : Pred) (g : USrc) (v : Fin 112) (pd : Fin 8) : Statement (.ftake p g v pd) := fun _ _ =>
  of_words (fun rest => roundtrip_ftake p g v pd rest) rfl
theorem dryw (p : Pred) (a : USrc) : Statement (.dryw p a) := fun _ _ =>
  of_words (fun rest => roundtrip_ugS 52 0 rfl (by decide) rfl rfl rfl rfl p a rest) rfl
theorem topen (p : Pred) (qd : Fin 8) (a : USrc) : Statement (.topen p qd a) := fun _ _ =>
  of_words (fun rest => roundtrip_uq35A 0 .topen (Or.inl ⟨rfl, rfl⟩) p qd a rest) rfl
theorem trival (p : Pred) (qd : Fin 8) (a : USrc) : Statement (.trival p qd a) := fun _ _ =>
  of_words (fun rest => roundtrip_uq35A 1 .trival (Or.inr ⟨rfl, rfl⟩) p qd a rest) rfl
theorem tscore (p : Pred) (qd : Fin 8) : Statement (.tscore p qd) := fun _ _ =>
  of_words (fun rest => roundtrip_uq35 2 (by decide) rfl p qd rest) rfl
theorem tstat (p : Pred) (qd : Fin 8) (b : USrc) : Statement (.tstat p qd b) := fun _ _ =>
  of_words (fun rest => roundtrip_tstat p qd b rest) rfl
theorem tclose (p : Pred) (qd : Fin 8) : Statement (.tclose p qd) := fun _ _ =>
  of_words (fun rest => roundtrip_uq35 4 (by decide) rfl p qd rest) rfl
theorem tcloseAbort (p : Pred) (qd : Fin 8) : Statement (.tcloseAbort p qd) := fun _ _ =>
  of_words (fun rest => roundtrip_uq35 5 (by decide) rfl p qd rest) rfl
theorem spgrow (p : Pred) (qd : Fin 8) : Statement (.spgrow p qd) := fun _ _ =>
  of_words (fun rest => roundtrip_uq35 6 (by decide) rfl p qd rest) rfl
theorem rgive (p : Pred) (qd : Fin 8) : Statement (.rgive p qd) := fun _ _ =>
  of_words (fun rest => roundtrip_uq36 0 (by decide) rfl p qd rest) rfl
theorem rclaim (p : Pred) (qd : Fin 8) : Statement (.rclaim p qd) := fun _ _ =>
  of_words (fun rest => roundtrip_uq36 1 (by decide) rfl p qd rest) rfl
theorem portLinkUp (port : Fin 32) : Statement (.portLinkUp port) := fun _ h => absurd rfl h
theorem portLinkDown (port : Fin 32) : Statement (.portLinkDown port) := fun _ h => absurd rfl h
theorem connectionFailure (conn : Nat) : Statement (.connectionFailure conn) := fun _ h => absurd rfl h
theorem connectionAuth (conn : Nat) (port : Fin 32) (key : List Byte) : Statement (.connectionAuth conn port key) := fun _ h => absurd rfl h
theorem uudPacket (port : Fin 32) : Statement (.uudPacket port) := fun _ h => absurd rfl h
theorem flowControlFrame (port : Fin 32) : Statement (.flowControlFrame port) := fun _ h => absurd rfl h
theorem oversizePacket (port : Fin 32) : Statement (.oversizePacket port) := fun _ h => absurd rfl h
theorem rmaWrite (conn : Nat) (addr : DWord) (data : List Byte) : Statement (.rmaWrite conn addr data) := fun _ h => absurd rfl h
theorem rmaRead (conn : Nat) (addr : DWord) (len : Nat) : Statement (.rmaRead conn addr len) := fun _ h => absurd rfl h
theorem peerDown (ctx peer : Nat) : Statement (.peerDown ctx peer) := fun _ h => absurd rfl h
theorem meshLinkRetry (link : Fin 6) : Statement (.meshLinkRetry link) := fun _ h => absurd rfl h
theorem meshLinkFatal (link : Fin 6) : Statement (.meshLinkFatal link) := fun _ h => absurd rfl h
theorem syncMessage (offset : Int) : Statement (.syncMessage offset) := fun _ h => absurd rfl h
theorem powerStep (watts : Nat) : Statement (.powerStep watts) := fun _ h => absurd rfl h
theorem tempThrottle (die : Fin 4) : Statement (.tempThrottle die) := fun _ h => absurd rfl h
theorem monitorFatal (die : Fin 4) : Statement (.monitorFatal die) := fun _ h => absurd rfl h
theorem wakeMessage (conn qid : Nat) (widx : Word) : Statement (.wakeMessage conn qid widx) := fun _ h => absurd rfl h
theorem lightFault (ctx : Nat) (va : DWord) (write : Bool) : Statement (.lightFault ctx va write) := fun _ h => absurd rfl h
theorem strikeReport (die : Fin 4) (cluster : Option Nat) : Statement (.strikeReport die cluster) := fun _ h => absurd rfl h
theorem debugRegWrite (gang : Nat) (reg : BitVec 8) (lanes : Mask) (value : DWord) : Statement (.debugRegWrite gang reg lanes value) := fun _ h => absurd rfl h
theorem debugBreakpoint (gang : Nat) (addr : DWord) : Statement (.debugBreakpoint gang addr) := fun _ h => absurd rfl h
theorem unassignedEncoding (rsv : Bool) : Statement (.unassignedEncoding rsv) := fun _ h => absurd rfl h
theorem rmaAtomic (conn : Nat) (addr : DWord) (op : AOp) (sz : SZ) (data cmp : DWord) : Statement (.rmaAtomic conn addr op sz data cmp) := fun _ h => absurd rfl h
theorem moduleReset : Statement .moduleReset := fun _ h => absurd rfl h
theorem syncTimeout : Statement .syncTimeout := fun _ h => absurd rfl h
theorem entryRead : Statement .entryRead := fun _ h => absurd rfl h
theorem entryReread : Statement .entryReread := fun _ h => absurd rfl h
theorem mirrorWrite : Statement .mirrorWrite := fun _ h => absurd rfl h
theorem commandBounce : Statement .commandBounce := fun _ h => absurd rfl h
theorem commandRestart : Statement .commandRestart := fun _ h => absurd rfl h
theorem launch : Statement .launch := fun _ h => absurd rfl h
theorem launchComplete : Statement .launchComplete := fun _ h => absurd rfl h
theorem task : Statement .task := fun _ h => absurd rfl h
theorem copy : Statement .copy := fun _ h => absurd rfl h
theorem signalStore : Statement .signalStore := fun _ h => absurd rfl h
theorem signalAdd : Statement .signalAdd := fun _ h => absurd rfl h
theorem wait : Statement .wait := fun _ h => absurd rfl h
theorem waitTimeout : Statement .waitTimeout := fun _ h => absurd rfl h
theorem mapInstall : Statement .mapInstall := fun _ h => absurd rfl h
theorem mapRemove : Statement .mapRemove := fun _ h => absurd rfl h
theorem mapGiveToHost : Statement .mapGiveToHost := fun _ h => absurd rfl h
theorem mapTakeFromHost : Statement .mapTakeFromHost := fun _ h => absurd rfl h
theorem mgmtUnassigned : Statement .mgmtUnassigned := fun _ h => absurd rfl h
theorem status : Statement .status := fun _ h => absurd rfl h
theorem monitors : Statement .monitors := fun _ h => absurd rfl h
theorem qcreate : Statement .qcreate := fun _ h => absurd rfl h
theorem qdestroy : Statement .qdestroy := fun _ h => absurd rfl h
theorem ctxbind : Statement .ctxbind := fun _ h => absurd rfl h
theorem ctxreset : Statement .ctxreset := fun _ h => absurd rfl h
theorem flashwrite : Statement .flashwrite := fun _ h => absurd rfl h
theorem flashverify : Statement .flashverify := fun _ h => absurd rfl h
theorem attest : Statement .attest := fun _ h => absurd rfl h
theorem modreset : Statement .modreset := fun _ h => absurd rfl h
theorem migrationPullDone : Statement .migrationPullDone := fun _ h => absurd rfl h
theorem migrationPullFail : Statement .migrationPullFail := fun _ h => absurd rfl h
theorem walkComplete : Statement .walkComplete := fun _ h => absurd rfl h
theorem sluiceBounce : Statement .sluiceBounce := fun _ h => absurd rfl h
theorem cisternWake : Statement .cisternWake := fun _ h => absurd rfl h
theorem reissue : Statement .reissue := fun _ h => absurd rfl h
theorem requestAccept : Statement .requestAccept := fun _ h => absurd rfl h
theorem loadComplete : Statement .loadComplete := fun _ h => absurd rfl h
theorem storeAck : Statement .storeAck := fun _ h => absurd rfl h
theorem scratchpadPerform : Statement .scratchpadPerform := fun _ h => absurd rfl h
theorem leaseExpiry : Statement .leaseExpiry := fun _ h => absurd rfl h
theorem fenceResume : Statement .fenceResume := fun _ h => absurd rfl h
theorem sfuResult : Statement .sfuResult := fun _ h => absurd rfl h
theorem fetchWake : Statement .fetchWake := fun _ h => absurd rfl h
theorem teamPlace : Statement .teamPlace := fun _ h => absurd rfl h
theorem stealRequest : Statement .stealRequest := fun _ h => absurd rfl h
theorem stealAnswer : Statement .stealAnswer := fun _ h => absurd rfl h
theorem priorityAging : Statement .priorityAging := fun _ h => absurd rfl h
theorem preempt : Statement .preempt := fun _ h => absurd rfl h
theorem stopTimeout : Statement .stopTimeout := fun _ h => absurd rfl h
theorem estivate : Statement .estivate := fun _ h => absurd rfl h
theorem teamResume : Statement .teamResume := fun _ h => absurd rfl h
theorem taskDispatch : Statement .taskDispatch := fun _ h => absurd rfl h
theorem taskComplete : Statement .taskComplete := fun _ h => absurd rfl h
theorem compaction : Statement .compaction := fun _ h => absurd rfl h
theorem regroupWindowEnd : Statement .regroupWindowEnd := fun _ h => absurd rfl h
theorem droughtSweep : Statement .droughtSweep := fun _ h => absurd rfl h
theorem allowanceReached : Statement .allowanceReached := fun _ h => absurd rfl h
theorem roundEnd : Statement .roundEnd := fun _ h => absurd rfl h
theorem groupRelease : Statement .groupRelease := fun _ h => absurd rfl h
theorem retentionEntry : Statement .retentionEntry := fun _ h => absurd rfl h
theorem retentionExitDone : Statement .retentionExitDone := fun _ h => absurd rfl h
theorem replayStall : Statement .replayStall := fun _ h => absurd rfl h
theorem matrixOpComplete : Statement .matrixOpComplete := fun _ h => absurd rfl h
theorem copyComplete : Statement .copyComplete := fun _ h => absurd rfl h
theorem mapins : Statement .mapins := fun _ h => absurd rfl h
theorem maprem : Statement .maprem := fun _ h => absurd rfl h
theorem mapget : Statement .mapget := fun _ h => absurd rfl h
theorem grant : Statement .grant := fun _ h => absurd rfl h
theorem peerbind : Statement .peerbind := fun _ h => absurd rfl h
theorem partset : Statement .partset := fun _ h => absurd rfl h
theorem ctxpart : Statement .ctxpart := fun _ h => absurd rfl h
theorem sluiceset : Statement .sluiceset := fun _ h => absurd rfl h
theorem sluiceget : Statement .sluiceget := fun _ h => absurd rfl h
theorem censusStart : Statement .censusStart := fun _ h => absurd rfl h
theorem censusStop : Statement .censusStop := fun _ h => absurd rfl h
theorem sampleOn : Statement .sampleOn := fun _ h => absurd rfl h
theorem sampleOff : Statement .sampleOff := fun _ h => absurd rfl h
theorem recsessRecord : Statement .recsessRecord := fun _ h => absurd rfl h
theorem recsessReplay : Statement .recsessReplay := fun _ h => absurd rfl h
theorem recsessEnd : Statement .recsessEnd := fun _ h => absurd rfl h
theorem compactionDone : Statement .compactionDone := fun _ h => absurd rfl h
theorem saveComplete : Statement .saveComplete := fun _ h => absurd rfl h
theorem retentionEntryDone : Statement .retentionEntryDone := fun _ h => absurd rfl h

end Sys2Proof.Laws.RoundTrip
end

