-- ==== Sys2Proof/Safety.lean ====
section
/-! DEFINITION. What counts as a good state and as a safe run, and the terms in which statements say what an instruction does. -/

namespace Sys2Proof.Machine

/-- The keys of a table rise strictly from `lo` on. -/
def Map.wfFrom {α : Type} : Nat → Map α → Bool
  | _, [] => true
  | lo, (k, _) :: m => decide (lo ≤ k) && Map.wfFrom (k + 1) m

/-- A table's keys rise strictly, so that equal tables are equal data. -/
def Map.wf {α : Type} (m : Map α) : Bool := Map.wfFrom 0 m

/-- The agenda is ordered by the clk at which its events fall due. -/
def agendaSorted : List Item → Bool
  | [] => true
  | i :: l => l.all (fun j => decide (i.due ≤ j.due)) && agendaSorted l

/-- The state's data is canonical: memory and the tables of memory, the clk's phase is one of three, the agenda is in order. -/
def State.canonical (s : State) : Bool :=
  Memory.wf s.mem.bytes && Map.wf s.mem.desc && Map.wf s.mem.tags && Map.wf s.mem.vers && Map.wf s.mem.reqs &&
  Map.wf s.work.gangs && Map.wf s.work.teams && decide (s.clk.phase ≤ 2) && agendaSorted s.clk.agenda

/-- Nothing has gone wrong on the part: no fatal error (R36) and no error record in any context's log (R91, R193). -/
def State.clean (s : State) : Bool := s.adm.fatal.isNone && s.adm.errlog.all (fun e => e.2.isEmpty)

/-- A run of `n` steps from a state is safe: no step stops, and every state that it reaches is clean. -/
def SafeRun : Nat → State → Prop
  | 0, s => s.clean = true
  | n + 1, s => s.clean = true ∧ ∃ t, step s = .next t ∧ SafeRun n t

/-! ## An instruction that issues -/

/-- The gang's paths once the path of the instruction has gone on behind it, one position later in its run. -/
def Gang.behind (g : Gang) (x : Iss) : List Path :=
  g.paths.map (fun p => if p.lanes = x.path.lanes then
    { p with pc := p.pc + BitVec.ofNat 64 (4 * x.len), run := p.run.map (fun r => { r with pos := r.pos + 1 }) } else p)

/-- A result on its way, without the clk at which it lands. -/
def Pend.what (y : Pend) : Nat × Nat × Nat × Bool × Mask × DWord × Tag × Write :=
  (y.pos, y.run, y.own, y.fixed, y.lanes, y.addr, y.tag, y.w)

/-- The result of latency `lat` that an instruction sends on its way: within its run it is read from position POS + `lat` on. -/
def Iss.sends (x : Iss) (lat land : Nat) (tag : Tag) (w : Write) : Pend :=
  ⟨land, x.pos + lat, x.run, x.run, true, x.path.lanes, x.pc, tag, w⟩

/-- From `s` to `t` the instruction has sent exactly the writes `ws` on their way, with latency `lat`, its path has gone on, and nothing
else has changed: no register, no other path, no other gang, no byte of memory, nothing of the rest of the part. (Apart: the issue clk
that an expansion of a shape tag takes. The writes bring one shape tag, which carries no value.) Outside a run the writes land `lat`
issue clk from now; inside one, never earlier. -/
def Issued (s : State) (x : Iss) (lat : Nat) (ws : List Write) (t : State) : Prop :=
  ∃ (g h : Gang) (tag : Tag), s.gang? x.k = some g ∧
    t = { s with
      clk := { s.clk with slotBusy := t.clk.slotBusy }
      work := { s.work with gangs := mput x.k h s.work.gangs } } ∧
    h = { g with pend := h.pend, paths := g.behind x } ∧
    (h.pend.map Pend.what).Perm (g.pend.map Pend.what ++ ws.map (fun w => (x.sends lat 0 tag w).what)) ∧
    (x.run = 0 → h.pend.Perm (g.pend ++ ws.map (x.sends lat (s.issueClk g.die lat) tag))) ∧
    (∀ y ∈ h.pend, ∃ z ∈ g.pend ++ ws.map (x.sends lat (s.issueClk g.die lat) tag), z.what = y.what ∧ z.land ≤ y.land) ∧
    ∀ a, readByte t.mem.bytes a = readByte s.mem.bytes a

/-- `exec` answers a next state in which the instruction has sent the writes `ws` and recorded the arithmetic errors `errs`. -/
def Sends (i : Instr) (s : State) (x : Iss) (lat : Nat) (ws : List Write) (errs : List (Nat × Mask) := []) : Prop :=
  ∃ t, exec i s = .next t ∧ Issued (s.ariths x errs) x lat ws t

/-- The path of the instruction is changed by `f`; nothing else is. -/
def State.onPath (s : State) (x : Iss) (f : Path → Path) : State :=
  s.modGang x.k (fun g => { g with paths := g.paths.map (fun p => if p.lanes = x.path.lanes then f p else p) })

/-- `exec` answers a next state that differs in the issuing path alone. -/
def Moves (i : Instr) (s : State) (x : Iss) (f : Path → Path) : Prop := exec i s = .next (s.onPath x f)

/-- `exec` answers a next state in which the instruction has had no effect but that its path goes on. -/
def Passes (i : Instr) (s : State) (x : Iss) : Prop := Moves i s x (fun p => p.next x.len)

/-- `exec` answers a next state in which the path waits where it stands. -/
def Waits (i : Instr) (s : State) (x : Iss) (w : Wait) : Prop := Moves i s x (fun p => { p with wait := w, wlen := x.len })

/-! ## The writes of lane results -/

/-- A result of an integer type: the exact value of each lane modulo 2^w (R404, R409). -/
def intWrites (ty : ITy) (d : LDst) (act : Mask) (f : Nat → Int) : List Write :=
  match ty with
  | .n32 | .i32 => write32 d act (fun l => BitVec.ofInt 32 (f l))
  | .n64 | .i64 => write64 d act (fun l => BitVec.ofInt 64 (f l))

/-- A result of an integer type from its bits, given in 64 bits. -/
def bitWrites (ty : ITy) (d : LDst) (act : Mask) (f : Nat → DWord) : List Write :=
  match ty with
  | .n32 | .i32 => write32 d act (fun l => (f l).setWidth 32)
  | .n64 | .i64 => write64 d act f

/-- `.sat`: the value clamped to the range of the type, or the value (R406, R410). -/
def clampTo (ty : ITy) (sat : Bool) (v : Int) : Int :=
  if sat then
    match ty with
    | .n32 => max 0 (min 4294967295 v)
    | .i32 => max (-2147483648) (min 2147483647 v)
    | .n64 => max 0 (min 18446744073709551615 v)
    | .i64 => max (-9223372036854775808) (min 9223372036854775807 v)
  else v

/-- Element `i` of a float operand (R426). -/
def Iss.elem (x : Iss) (ty : FTy) (a : LSrc) (l i : Nat) : Nat :=
  match ty with
  | .f32 => (x.w32 a l).toNat
  | .f64 => (x.f64 a l).toNat
  | _ => (x.w32 a l).toNat / 2 ^ (16 * i) % 2 ^ 16

/-- Elements of a float type in one lane. -/
def ftyElems : FTy → Nat
  | .f32 | .f64 => 1
  | _ => 2

/-- A float result: the bits of each element of each active lane. -/
def floatWrites (ty : FTy) (d : LDst) (act : Mask) (r : Nat → Nat → FRes) : List Write :=
  let b := fun (l i : Nat) => if act.has l then (r l i).bits else 0
  match ty with
  | .f32 => write32 d act (fun l => BitVec.ofNat 32 (b l 0))
  | .f64 => write64 d act (fun l => BitVec.ofNat 64 (b l 0))
  | _ => write32 d act (fun l => BitVec.ofNat 32 (b l 0 + b l 1 * 2 ^ 16))

/-- The causes that the results of the active lanes record: INVALID, DIVZERO, OVERFLOW, each with its lanes (R193, R298). -/
def floatErrs (n : Nat) (act : Mask) (r : Nat → Nat → FRes) : List (Nat × Mask) :=
  let any := fun (f : FRes → Bool) => maskOf act (fun l => ((List.range n).map (r l)).any f)
  [(0x201, any FRes.inv), (0x202, any FRes.dz), (0x203, any FRes.ovf)].filter (fun c => c.2 ≠ 0)

/-- A float instruction of a type sends the results `r` of its active lanes' elements, and records their causes. -/
def SendsFloat (i : Instr) (s : State) (x : Iss) (p : Pred) (ty : FTy) (lat : Nat) (d : LDst) (r : Nat → Nat → FRes) : Prop :=
  Sends i s x lat (floatWrites ty d (x.act p) r) (floatErrs (ftyElems ty) (x.act p) r)

/-! ## Memory instructions -/

/-- `exec` answers a next state: where bits [59:57] of the pointer of an active lane are not 0, the instruction traps with ADDRFORM and has
no other effect (R78); else it issues the request `q` of its lanes at the addresses `a`, after `u` has come before it, and its path goes on. A
lane whose address must be a multiple of `len` and is not fails with MISALIGN and takes no part (R449). -/
def Asks (i : Instr) (s u : State) (x : Iss) (a : Nat → DWord) (len : Nat) (align : Bool) (q : Req) : Prop :=
  let form := maskOf q.lanes (fun l => !ptrOk (a l))
  let bad := if align then maskOf q.lanes (fun l => decide ((a l).toNat % len ≠ 0)) else 0
  let v := (if bad = 0 then u else u.logGang x.g 0x010C q.kind.code (a (Mask.low bad)) bad x.hdr).expandAt x (q.dest.marks q.lanes)
  let accs := (Mask.slots (q.lanes &&& ~~~bad)).flatMap (fun l => laneAccs l (a l) len 0)
  (form ≠ 0 → exec i s = .next (s.trapAccess x.k x.path.lanes x.pc 0x0108 q.kind.code (a (Mask.low form)) form)) ∧
  (form = 0 → exec i s = .next (((v.newReq { q with bad := bad, grp := v.grpOf x, parts := v.partsOf x.g accs }).overRun x).pass x))

/-- The same for an access to the scratchpad, where there is no translation: one part with all its accesses, which performs 20 clk later (R197, R228). -/
def AsksPad (i : Instr) (s u : State) (x : Iss) (a : Nat → DWord) (len : Nat) (align : Bool) (q : Req) : Prop :=
  let bad := if align then maskOf q.lanes (fun l => decide ((a l).toNat % len ≠ 0)) else 0
  let v := (if bad = 0 then u else u.logGang x.g 0x010C q.kind.code (a (Mask.low bad)) bad x.hdr).expandAt x (q.dest.marks q.lanes)
  let accs := (Mask.slots (q.lanes &&& ~~~bad)).map (fun l => (⟨l, a l, len, 0, 0⟩ : Acc))
  let r := v.clk.fresh
  exec i s = .next ((((((v.takeFresh).2.modGang x.k (fun g => { g with
    ops := g.ops ++ [⟨r, q.cls, false⟩]
    writes := if q.kind = .lds then g.writes else g.writes ++ [⟨r, r, false, 0, false⟩] })).setReq r
      { q with bad := bad, parts := [.pad accs x.now] }).sched
      (u.clk.now + 20) .scratchpadPerform r)).pass x)

/-! ## Units that answer -/

/-- The way to a unit of a die and back (R10). -/
def Iss.trip (x : Iss) (die : Nat) : Nat := if x.g.die = die then 140 else 260

/-- The path of the instruction goes on when the answer of a unit arrives at clk `t`. -/
def State.heldTill (s : State) (x : Iss) (t : Nat) : State := s.onPath x (fun p => { p.next x.len with hold := t })

/-- `exec` answers a next state: `u` in which the answer `v` of a unit of die `die` is on its way to a Q predicate, 4 issue clk behind the answer's
arrival, at which the path goes on. -/
def AnswersQ (i : Instr) (s u : State) (x : Iss) (die : Nat) (qd : Fin 8) (v : Bool) : Prop :=
  let land := u.clk.now + x.trip die
  ∃ g h, u.gang? x.k = some g ∧
    exec i s = .next { u with work := { u.work with gangs := mput x.k h u.work.gangs } } ∧
    h = { g with
      pend := h.pend
      paths := g.paths.map (fun p => if p.lanes = x.path.lanes then { p.next x.len with hold := land } else p) } ∧
    (h.pend.map Pend.what).Perm (g.pend.map Pend.what ++ [(x.sends 4 0 .general (.q qd.val v)).what]) ∧
    (x.run = 0 → h.pend.Perm (g.pend ++ [x.sends 4 (u.issueFrom g.die land 4) .general (.q qd.val v)]))

/-- `exec` answers a next state: `u` in which the answer of a unit, which arrives at clk `t`, is on its way to the registers of `ws`, `lat` issue clk behind its arrival; the
path goes on at `t`. No register changes yet. (`slots`: the issue clk that an expansion of a shape tag takes.) -/
def AnswersWith (i : Instr) (s u : State) (x : Iss) (t lat : Nat) (ws : List Write) : Prop :=
  ∃ (g h : Gang) (tag : Tag) (slots : Map Nat), u.gang? x.k = some g ∧
    exec i s = .next { u with
      clk := { u.clk with slotBusy := slots }
      work := { u.work with gangs := mput x.k h u.work.gangs } } ∧
    h = { g with
      pend := h.pend
      paths := g.paths.map (fun p => if p.lanes = x.path.lanes then { p.next x.len with hold := t } else p) } ∧
    (h.pend.map Pend.what).Perm (g.pend.map Pend.what ++ ws.map (fun w => (x.sends lat 0 tag w).what)) ∧
    (x.run = 0 → h.pend.Perm (g.pend ++ ws.map (x.sends lat (u.issueFrom g.die t lat) tag)))

end Sys2Proof.Machine
end

