-- ==== Sys2Proof/Certificates/Slice0/Obligations.lean ====
section
/-! DEFINITION. The statements about the model of the 9400, for the provers. In each, `s.iss = some x` says that an instruction issues:
`x` holds its path, its operands as it reads them at issue and its place in its run. `Sends`, `Moves`, `Passes` and `Waits` (Safety.lean) say
that `exec` ANSWERS A NEXT STATE, and what that state is, unchanged parts included. -/

open Sys2Proof Sys2Proof.Machine

/-! ## Fetch, decode, the step -/

/-- A STEP RUNS THE DECODED INSTRUCTION: where a path has the next issue turn and the words at its address decode to an instruction, the step is `exec` of that
instruction with its path named as the issuer (R165 to R168, R189), where the words of the run that a RUNB begins are there (R180) and no acquire of the gang that
issued in this clk orders a memory instruction behind it (R235); words that decode to nothing trap with ILLENC or RSVFIELD (R370, R371). A word is read
little-endian at the place its page maps to. -/
def Obligations.StepRunsDecoded : Prop :=
  ∀ (s : State) (t : Turn) (ts : List Turn) (g : Gang) (p : Path), s.clk.turns = t :: ts →
    let u : State := { s with clk := { s.clk with turns := ts } }
    u.gang? t.gang = some g → g.path? t.lanes = some p →
    let ws := (u.fetchWords g (u.ctxOf g) p.pc 3).1
    (∀ (i : Instr) (n : Nat) (f : Shape), decode ws = .ok (i, n) → i.shape = some f → (p.run = none → f.cause g.core.isSome g.rows = none) →
      u.runbAwaits g p i = none → (f.mem = true → g.ordered p = false) →
      step s = exec i ((u.beforeIssue t.gang g t.lanes).withCur t.gang t.lanes p.pc n (ws.headD 0))) ∧
    (decode ws = .error .illenc →
      step s = exec (.unassignedEncoding false) ((u.beforeIssue t.gang g t.lanes).withCur t.gang t.lanes p.pc 1 0)) ∧
    (decode ws = .error .rsvfield →
      step s = exec (.unassignedEncoding true) ((u.beforeIssue t.gang g t.lanes).withCur t.gang t.lanes p.pc 1 0)) ∧
    ∀ (a : DWord) (e : TlbEnt) (m : Nat), ptrOk a = true → (u.lookup g.place g.die (u.ctxOf g) (pageOf (ptrVa a))).1 = some e →
      leafCause .exec e.leaf = none → u.placeOf (u.ctxOf g) e.leaf e.size (ptrVa a) = some (4 * m) →
      (leafPeer e.leaf = 0 → paOk (leafAddr e.leaf e.size (ptrVa a)) = true) →
      u.fetchWord g (u.ctxOf g) a = .word (readByte u.mem.bytes (4 * m + 3) ++ readByte u.mem.bytes (4 * m + 2) ++
        readByte u.mem.bytes (4 * m + 1) ++ readByte u.mem.bytes (4 * m))

/-- Every step answers a next state: the 9400 never stops, and no instruction or event of a step is refused. -/
def Obligations.StepAnswers : Prop :=
 ∀ s : State, ∃ t : State, step s = .next t

/-- Every step keeps memory in its canonical form: bytes at rising places, none equal to what an unlisted place reads as. -/
def Obligations.StepKeepsMemoryWf : Prop :=
  ∀ s t : State, Memory.wf s.mem.bytes = true → step s = .next t → Memory.wf t.mem.bytes = true

/-- What reset leaves: the timebase at 0 (R43); queue 0 of context 0 with its ring of 64 entries at 0x1000 and no mirror and error address, and no other queue (R55);
partition 0 with every cluster and stack, every context in it (R97); sluices of 512 clk (R203). No work stands on the part. Memory after reset has its canonical
form, and every byte of it reads 0 (the model's choice, log 4: the manual states no content of memory after power-on, but for offsets 0x0000 to 0x0FFF of the
management window, which R55 says are zero). -/
def Obligations.ResetState : Prop :=
  (
    let r := State.reset
    r.clk.now = 0 ∧
    (∃ q, r.adm.queues = [(0, q)] ∧ q.ctx = 0 ∧ q.base = 0x1000 ∧ 2 ^ q.log2 = 64 ∧ q.mirror = 0 ∧ q.erraddr = 0 ∧ q.stopped = false) ∧
    (∀ c, c < 136 → c ∈ r.partClusters 0) ∧ (∀ c, c < 12 → c ∈ r.partStacks 0) ∧ (∀ ctx, r.partOf ctx = 0) ∧
    (∀ k, mgetD 512 k r.mem.sluice = 512) ∧
    r.work.gangs = [] ∧ r.work.teams = [] ∧ r.work.launches = [] ∧ r.work.tasks = [] ∧ r.mem.reqs = [] ∧ r.adm.fatal = none) ∧
  (
    Memory.wf State.reset.mem.bytes = true ∧ ∀ a, readByte State.reset.mem.bytes a = 0)

/-- DECODING IS RIGHT on words that the manual prints: one or more of each family (R383, R384, R386, R388, R389, R390, R398, R407, R410, R412, R416, R417, R418,
R421). -/
def Obligations.DecodeWords : Prop :=
  let yes : Pred := ⟨false, 0⟩
  decode [0x02000000] = .ok (.nop yes, 1) ∧
  decode [0x10014184] = .ok (.iadd yes (.v 5) (.v 3) (.v 4), 1) ∧
  decode [0x1C01807F, 0x2] = .ok (.shl yes (.v 6) (.v 0) (.lit 2), 2) ∧
  decode [0x2A04007F, 0x0] = .ok (.icmp yes .eq 1 (.v 0) (.lit 0), 2) ∧
  decode [0x56008480] = .ok (.mov yes (.v 2) (.v 9), 1) ∧
  decode [0x0E020103, 0x04081100] = .ok (.imad yes .i32 true (.v 8) (.v 2) (.v 3) (.v 4), 2) ∧
  decode [0x0E0240FF, 0x13001000, 0x408] = .ok (.xfld yes .i32 (.v 9) (.v 1) (.lit 0x408), 3) ∧
  decode [0x3601_0082] = .ok (.ffmaF32 yes (.v 4) (.v 1) (.v 2), 1) ∧
  decode [0x0E01_8100, 0x4009_0100] = .ok (.cvt yes .e4m3 .f32 .rne false true (.v 6) (.v 2) none, 2) ∧
  decode [0x0640000D] = .ok (.lbr ⟨false, 2⟩ 13, 1) ∧
  decode [0x0E014182, 0x50020088] = .ok (.shflLong yes true .n32 (.v 5) (.v 3) (.v 2) (some 4), 2) ∧
  decode [0x820600C0] = .ok (.runb 6 0 6, 1) ∧
  decode [0x84000C20] = .ok (.rune 6 1, 1) ∧
  decode [0x8601FFE0] = .ok (.waitc yes 0 15 15 15, 1) ∧
  decode [0xA0038FF8, 0x1] = .ok (.gadd yes (.g 7) (.g 7) (.lit 1), 2) ∧
  decode [0xAA048414] = .ok (.gcmp yes .lti false 1 (.g 4) (.g 5), 1) ∧
  decode [0xAE051C00] = .ok (.qand yes 1 2 false 3 true, 1) ∧
  decode [0xC0028941] = .ok (.ldUniform yes .n64 (.g 5) (.g 4) (.imm 1), 1) ∧
  decode [0xB2080A00] = .ok (.sregw yes .trapvec (.g 5), 1) ∧
  decode [0x9A100000] = .ok (.trap yes true, 1) ∧
  decode [0x9C000007] = .ok (.bkpt yes 7, 1) ∧
  decode [0x9E002000] = .ok (.fwcall yes 0x10, 1)

/-- DECODE AND ENCODE AGREE: of every well-formed instruction with an encoding, whatever its operands, the decoder reads the instruction back from its words, and
nothing of what follows them. -/
def Obligations.EncodeDecode : Prop :=
 ∀ i : Instr, Laws.RoundTrip.Statement i

/-- The decoder accepts nothing but encodings: what it reads is well-formed, and the words it read are that instruction's own. So two instructions never share words,
and a reserved field that is not zero never falls through to a neighbour. -/
def Obligations.DecodeSound : Prop :=
  ∀ (ws : List Word) (i : Instr) (n : Nat), decode ws = .ok (i, n) → i.wf = true ∧ encode i = ws.take n

/-! ## Results on their way, and what a reader sees -/

/-- What a reader sees of the registers: of the results that it sees, the last to take effect; where it sees none for a register (and a lane), the register's value.
So a result read before it lands is not read, and writes to P0 and Q0 are discarded (R172, R182, R377, R379, R414). -/
def Obligations.ReadersSeeLastLanded : Prop :=
  ∀ (g : Gang) (now run pos : Nat) (lanes : Mask),
    let seen := (g.pend.filter (fun y => y.seen now run pos lanes)).map Pend.w
    let v := g.view now run pos lanes
    (∀ n < g.g.length, v.g.getD n 0 = ((seen.filterMap (fun w => match w with
      | .g m val => if m = n then some val else none
      | _ => none)).getLast?).getD (g.g.getD n 0)) ∧
    (∀ n < g.q.length, n ≠ 0 → v.q.getD n false = ((seen.filterMap (fun w => match w with
      | .q m val => if m = n then some val else none
      | _ => none)).getLast?).getD (g.q.getD n false)) ∧
    (∀ n < g.v.length, ∀ l < 32, v.vlane n l = ((seen.filterMap (fun w => match w with
      | .v m ls row => if m = n ∧ ls.has l then some (row.getD l 0) else none
      | _ => none)).getLast?).getD (g.vlane n l)) ∧
    (∀ n < g.t.length, ∀ l < 32, v.tlane n l = ((seen.filterMap (fun w => match w with
      | .t m ls row => if m = n ∧ ls.has l then some (row.getD l 0) else none
      | _ => none)).getLast?).getD (g.tlane n l)) ∧
    (∀ n < g.p.length, n ≠ 0 → ∀ l < 32, (v.p.getD n 0).has l = ((seen.filterMap (fun w => match w with
      | .p m ls bits => if m = n ∧ ls.has l then some (bits.has l) else none
      | _ => none)).getLast?).getD ((g.p.getD n 0).has l)) ∧
    v.q.getD 0 false = g.q.getD 0 false ∧ v.p.getD 0 0 = g.p.getD 0 0

/-- Which results a reader sees: outside a run, and of results of no open run, those that have landed; within its own run, those from its position on, whatever the
clk; within a run, those of the gang's other path one clk after they land (R182, R377). Two writes to one register that land in the same clk take effect in the order
that R172, R182 and R183 give: a fixed latency after a variable one; of one run, the later position last; of two paths, the one with more lanes last; of as many lanes,
the one at the lower address last. -/
def Obligations.ResultOrder : Prop :=
  (
    ∀ (y : Pend) (now run pos : Nat) (lanes : Mask),
      (run = 0 → (y.seen now run pos lanes = true ↔ y.land ≤ now)) ∧
      (run ≠ 0 → y.run = run → (y.seen now run pos lanes = true ↔ y.pos ≤ pos)) ∧
      (run ≠ 0 → y.run ≠ run → y.lanes &&& lanes ≠ 0 → (y.seen now run pos lanes = true ↔ y.land ≤ now)) ∧
      (run ≠ 0 → y.run ≠ run → y.lanes &&& lanes = 0 → (y.seen now run pos lanes = true ↔ y.land + 1 ≤ now))) ∧
  (
    ∀ a b : Pend,
      (a.land < b.land → a.before b = true ∧ b.before a = false) ∧
      (a.land = b.land → a.fixed = false → b.fixed = true → a.before b = true ∧ b.before a = false) ∧
      (a.land = b.land → a.fixed = b.fixed → a.own = b.own → a.own ≠ 0 → a.pos < b.pos → a.before b = true ∧ b.before a = false) ∧
      (a.land = b.land → a.fixed = b.fixed → (a.own = b.own → a.own = 0) → a.lanes &&& b.lanes = 0 → Mask.count a.lanes < Mask.count b.lanes →
        a.before b = true ∧ b.before a = false) ∧
      (a.land = b.land → a.fixed = b.fixed → (a.own = b.own → a.own = 0) → a.lanes &&& b.lanes = 0 → Mask.count a.lanes = Mask.count b.lanes →
        b.addr.toNat < a.addr.toNat → a.before b = true ∧ b.before a = false))

/-- When results take their effect in the registers, no reader sees a difference: what is read at a clk is the same before and after the results that have landed
earlier are written, for every reader. -/
def Obligations.LandingKeepsReads : Prop :=
  ∀ (g : Gang) (clk now run pos : Nat) (lanes : Mask), clk ≤ now →
    { (g.settle clk).view now run pos lanes with pend := [] } = { g.view now run pos lanes with pend := [] }

/-- Constants among the operands: P0 is true in every slot and Q0 is true, G62 reads zero, a literal is sign-extended to 64 bits and a G register gives a 32-bit lane
operand its low half (R353 to R355, R379, R405, R414). A write to G62 is no write at all. What val() reads: one register or the pair, as unsigned or as signed (R405,
R406). What the ten conditions of R361 say of two values of one width. -/
def Obligations.OperandValues : Prop :=
  (
    ∀ (x : Iss) (l : Nat) (w : Word) (n : Fin 7),
      (l < 32 → (x.pmask 0).has l = true) ∧ x.q 0 = true ∧ x.u .zero = 0 ∧ x.ud .zero = 0 ∧
      x.u (.lit w) = w.signExtend 64 ∧ x.w32 (.lit w) l = w ∧ x.w64 (.lit w) l = w.signExtend 64 ∧
      x.w32 (.g n) l = (x.w64 (.g n) l).setWidth 32 ∧ x.w64 (.g n) l = x.u (.g ⟨n.val, by omega⟩) ∧
      (∀ v, writeG .zero v = []) ∧
      (∀ (k : Fin 112), k.val + 1 < 112 → ∀ j : Fin 112, j.val = k.val + 1 → x.w64 (.v k) l = x.w32 (.v j) l ++ x.w32 (.v k) l)) ∧
  (
    ∀ (x : Iss) (a : LSrc) (l : Nat),
      x.val .n32 a l = (x.w32 a l).toNat ∧ x.val .i32 a l = (x.w32 a l).toInt ∧
      x.val .n64 a l = (x.w64 a l).toNat ∧ x.val .i64 a l = (x.w64 a l).toInt ∧
      x.wty .n32 a l = (x.w32 a l).zeroExtend 64 ∧ x.wty .i32 a l = (x.w32 a l).zeroExtend 64 ∧
      x.wty .n64 a l = x.w64 a l ∧ x.wty .i64 a l = x.w64 a l) ∧
  (
    ∀ (w : Nat) (a b : BitVec w),
      (ICC.eq.holds a b = true ↔ a = b) ∧ (ICC.ne.holds a b = true ↔ a ≠ b) ∧
      (ICC.lti.holds a b = a.slt b) ∧ (ICC.lei.holds a b = a.sle b) ∧ (ICC.gti.holds a b = b.slt a) ∧ (ICC.gei.holds a b = b.sle a) ∧
      (ICC.ltn.holds a b = a.ult b) ∧ (ICC.len.holds a b = a.ule b) ∧ (ICC.gtn.holds a b = b.ult a) ∧ (ICC.gen.holds a b = b.ule a))

/-- A uniform instruction whose Q predicate is false issues and has no other effect: its destination keeps its value, no memory is accessed, no counter changes, it
never waits (R376). So for every uniform instruction that takes a prefix. -/
def Obligations.FalsePrefixHasNoEffect : Prop :=
  ∀ (s : State) (x : Iss) (i : Instr) (f : Shape), s.iss = some x → i.shape = some f → f.lane = false → x.qp f.p = false →
    (∀ n va k, i ≠ .runb n va k) → (∀ va k, i ≠ .rune va k) → Passes i s x

/-- A lane memory instruction whose path has no active lane makes no request, changes no counter and moves no data; a lane instruction that writes registers writes
none (R404, R448). -/
def Obligations.NoActiveLane : Prop :=
  ∀ (s : State) (x : Iss) (p : Pred), s.iss = some x → x.act p = 0 →
    (∀ d m, Passes (.ld p d m) s x) ∧ (∀ a m, Passes (.st p a m) s x) ∧
    (∀ sz acq nl d m, Passes (.ldLong p sz acq nl d m) s x) ∧ (∀ sz rel a m, Passes (.stLong p sz rel a m) s x) ∧
    (∀ d m, Passes (.lds p d m) s x) ∧ (∀ a m, Passes (.sts p a m) s x) ∧
    (∀ sz acq d m, Passes (.ldsLong p sz acq d m) s x) ∧ (∀ sz rel a m, Passes (.stsLong p sz rel a m) s x) ∧
    (∀ op d b a, Passes (.atom p op d b a) s x) ∧ (∀ op b a, Passes (.atomNoret p op b a) s x) ∧
    (∀ op sz o d m a, Passes (.atomLong p op sz o d m a) s x) ∧ (∀ op sz d m a, Passes (.atoms p op sz d m a) s x) ∧
    (∀ sl m, Passes (.pref p sl m) s x) ∧ (∀ a m, Passes (.dset p a m) s x) ∧ (∀ d m, Passes (.dget p d m) s x) ∧
    (∀ op ty d a, Passes (.redux p op ty d a) s x)

/-! ## Uniform instructions: results -/

/-- The uniform integer group computes the r of its row from g(A) and g(B) and sends it to D with latency 4; arithmetic is modulo 2^64 and a write to G62 is
discarded (R377, R379, R386). -/
def Obligations.UniformArithmetic : Prop :=
  ∀ (s : State) (x : Iss) (p : Pred) (d : UDst) (a b : USrc), s.iss = some x → x.qp p = true →
    let g := fun (i : Instr) (r : DWord) => Sends i s x 4 (writeG d r)
    g (.gadd p d a b) (x.u a + x.u b) ∧
    g (.gsub p d a b) (x.u a - x.u b) ∧
    g (.gmul p d a b) (x.u a * x.u b) ∧
    g (.gmulhiN64 p d a b) (((x.u a).zeroExtend 128 * (x.u b).zeroExtend 128).extractLsb' 64 64) ∧
    g (.gmulhiI64 p d a b) (((x.u a).signExtend 128 * (x.u b).signExtend 128).extractLsb' 64 64) ∧
    g (.gand p d a b) (x.u a &&& x.u b) ∧
    g (.gor p d a b) (x.u a ||| x.u b) ∧
    g (.gxor p d a b) (x.u a ^^^ x.u b) ∧
    g (.gandn p d a b) (x.u a &&& ~~~(x.u b)) ∧
    g (.gnot p d a) (~~~(x.u a)) ∧
    g (.gpopc p d a) (BitVec.ofNat 64 ((List.range 64).filter (fun i => (x.u a).getLsbD i)).length) ∧
    g (.gclz p d a) (if x.u a = 0 then 64 else BitVec.ofNat 64 (63 - Nat.log2 (x.u a).toNat)) ∧
    g (.gshl p d a b) (x.u a <<< ((x.u b).extractLsb' 0 6).toNat) ∧
    g (.gshr p d a b) (x.u a >>> ((x.u b).extractLsb' 0 6).toNat) ∧
    g (.gsar p d a b) ((x.u a).sshiftRight ((x.u b).extractLsb' 0 6).toNat) ∧
    g (.grotl p d a b) ((x.u a).rotateLeft ((x.u b).extractLsb' 0 6).toNat) ∧
    g (.gminI64 p d a b) (if (x.u a).toInt ≤ (x.u b).toInt then x.u a else x.u b) ∧
    g (.gmaxI64 p d a b) (if (x.u b).toInt ≤ (x.u a).toInt then x.u a else x.u b) ∧
    g (.gminN64 p d a b) (if (x.u a).toNat ≤ (x.u b).toNat then x.u a else x.u b) ∧
    g (.gmaxN64 p d a b) (if (x.u b).toNat ≤ (x.u a).toNat then x.u a else x.u b) ∧
    g (.gmov p d a) (x.u a) ∧
    g (.gmovN32 p d a) (((x.u a).extractLsb' 0 32).zeroExtend 64) ∧
    g (.gmovI32 p d a) (((x.u a).extractLsb' 0 32).signExtend 64) ∧
    ∀ f : Fin 8, g (.gsel p f d a b) (if x.q f.val then x.u a else x.u b)

/-- GCMP writes a Q predicate, comparing 64 bits or, with `.lo`, bits [31:0], as signed under the `.i` conditions and as unsigned under the `.n` ones (R388). A write
to Q0 is sent and discarded when it lands. -/
def Obligations.UniformPredicates : Prop :=
  ∀ (s : State) (x : Iss) (p : Pred) (qd : Fin 8) (lo : Bool) (a b : USrc), s.iss = some x → x.qp p = true →
    let q := fun (i : Instr) (r : Bool) => Sends i s x 4 [.q qd.val r]
    let w := fun (o : USrc) => if lo then ((x.u o).toNat % 2 ^ 32) else (x.u o).toNat
    let i := fun (o : USrc) => if lo then ((x.u o).extractLsb' 0 32).toInt else (x.u o).toInt
    q (.gcmp p .eq lo qd a b) (decide (w a = w b)) ∧ q (.gcmp p .ne lo qd a b) (decide (w a ≠ w b)) ∧
    q (.gcmp p .lti lo qd a b) (decide (i a < i b)) ∧ q (.gcmp p .lei lo qd a b) (decide (i a ≤ i b)) ∧
    q (.gcmp p .gti lo qd a b) (decide (i b < i a)) ∧ q (.gcmp p .gei lo qd a b) (decide (i b ≤ i a)) ∧
    q (.gcmp p .ltn lo qd a b) (decide (w a < w b)) ∧ q (.gcmp p .len lo qd a b) (decide (w a ≤ w b)) ∧
    q (.gcmp p .gtn lo qd a b) (decide (w b < w a)) ∧ q (.gcmp p .gen lo qd a b) (decide (w b ≤ w a))

/-- QAND, QOR and QXOR combine two Q predicates, each inverted where its field says so, and send the result to Qd (R389); their word is set 1, MAJ 0x17, and a word
with OP 11 is unassigned. QXOR with Q0 gives NOT, QOR of Q0 gives true. -/
def Obligations.PredicateLogic : Prop :=
  ∀ (s : State) (x : Iss) (p : Pred) (qd qa qb : Fin 8) (na nb : Bool), s.iss = some x →
    let word := fun (op : BitVec 2) => 1#1 ++ 0x17#6 ++ BitVec.ofBool p.neg ++ BitVec.ofNat 3 p.n.val ++ BitVec.ofNat 3 qd.val ++
      BitVec.ofNat 3 qa.val ++ BitVec.ofBool na ++ BitVec.ofNat 3 qb.val ++ BitVec.ofBool nb ++ op ++ 0#8
    encode (.qand p qd qa na qb nb) = [word 0] ∧ encode (.qor p qd qa na qb nb) = [word 1] ∧ encode (.qxor p qd qa na qb nb) = [word 2] ∧
    decode [word 0] = .ok (.qand p qd qa na qb nb, 1) ∧ decode [word 1] = .ok (.qor p qd qa na qb nb, 1) ∧
    decode [word 2] = .ok (.qxor p qd qa na qb nb, 1) ∧ decode [word 3] = .error .illenc ∧
    (x.qp p = true →
      let q := fun (i : Instr) (r : Bool) => Sends i s x 4 [.q qd.val r]
      q (.qand p qd qa na qb nb) ((x.q qa.val ^^ na) && (x.q qb.val ^^ nb)) ∧
      q (.qor p qd qa na qb nb) ((x.q qa.val ^^ na) || (x.q qb.val ^^ nb)) ∧
      q (.qxor p qd qa na qb nb) ((x.q qa.val ^^ na) ^^ (x.q qb.val ^^ nb)) ∧
      q (.qxor p qd qa false 0 false) (!x.q qa.val) ∧ q (.qor p qd 0 false 0 false) true) ∧
    (x.qp p = false → Passes (.qand p qd qa na qb nb) s x ∧ Passes (.qor p qd qa na qb nb) s x ∧ Passes (.qxor p qd qa na qb nb) s x) ∧
    decode [0xAE051C00] = .ok (.qand ⟨false, 0⟩ 1 2 false 3 true, 1)

/-- VTOG copies the value of the lane that g(X) names, where that lane is on the path, else of the lowest lane of the path; GTOV copies a G register to every lane of
its path; VOTE gathers a lane predicate across its path (R393 to R395). Latency 6, 4 and 6 (R377). -/
def Obligations.LaneUniformMoves : Prop :=
  ∀ (s : State) (x : Iss) (p : Pred) (d : UDst) (v : Fin 112) (u : USrc) (pl : Fin 8), s.iss = some x → x.qp p = true →
    let path := x.path.lanes
    let l := if u ≠ .zero ∧ (x.u u).toNat < 32 ∧ path.has (x.u u).toNat then (x.u u).toNat else Mask.low path
    let ballot := path &&& x.pmask pl.val
    Sends (.vtog p .zext d v u) s x 6 (writeG d ((x.g.vlane v.val l).zeroExtend 64)) ∧
    Sends (.vtog p .sext d v u) s x 6 (writeG d ((x.g.vlane v.val l).signExtend 64)) ∧
    Sends (.vtog p .pair d v u) s x 6 (writeG d (x.g.vlane (v.val + 1) l ++ x.g.vlane v.val l)) ∧
    Sends (.gtov p false v u) s x 4 (write32 (.v v) path (fun _ => (x.u u).setWidth 32)) ∧
    Sends (.gtov p true v u) s x 4 (write64 (.v v) path (fun _ => x.u u)) ∧
    Sends (.vote p .mask d pl) s x 6 (writeG d (ballot.zeroExtend 64)) ∧
    Sends (.vote p .some d pl) s x 6 (writeG d (if ballot = 0 then 0 else 1)) ∧
    Sends (.vote p .every d pl) s x 6 (writeG d (if ballot = path then 1 else 0))

/-- What SREG reads: the uniform form all 64 bits, for the lane in slot 0; the lane form bits [31:0], each lane its own TLID, SLOT and work identifier (R396, R415).
On a control core the lane and team registers read 0 and DIE its die. -/
def Obligations.SpecialRegisterReads : Prop :=
  ∀ (s : State) (x : Iss) (p : Pred) (d : UDst) (e : LDst) (sr : SReg), s.iss = some x →
    let lane := fun (l : Nat) => (x.g.lanes.getD l none).getD ⟨0, 0⟩
    let on := fun (v : DWord) => if x.g.core.isSome then 0 else v
    let val := fun (l : Nat) => match sr with
      | .tlid => on (BitVec.ofNat 64 (lane l).tlid)
      | .slot => on (BitVec.ofNat 64 l)
      | .gangid => on (BitVec.ofNat 64 x.g.gangid)
      | .teamid => on (BitVec.ofNat 64 (((s.team? x.g.team).map Team.teamid).getD 0))
      | .widlo => on (((lane l).wid.extractLsb' 0 32).zeroExtend 64)
      | .widhi => on (((lane l).wid.extractLsb' 32 32).zeroExtend 64)
      | .cluster => on (BitVec.ofNat 64 x.g.cluster)
      | .die => BitVec.ofNat 64 (match x.g.core with
        | none => x.g.cluster / 34
        | some c => c / 8)
      | .role => on (BitVec.ofNat 64 x.g.role)
      | .now => BitVec.ofNat 64 s.clk.now
      | .tenant => BitVec.ofNat 64 x.ctx
      | .rival => match s.rivalOf x.g with
        | none => 0
        | some v => BitVec.ofNat 64 (0x100 + v.2)
      | .ldc => BitVec.ofNat 64 (x.g.count 0)
      | .stc => BitVec.ofNat 64 (x.g.count 1)
      | .cpc => BitVec.ofNat 64 (x.g.count 2)
      | .tlc => BitVec.ofNat 64 (x.g.count 3)
      | .trapvec => x.g.trapvec
      | .trapcause => x.g.trapcause
      | .storehash => x.g.storehash
    (x.qp p = true → Sends (.sregUniform p d sr) s x 4 (writeG d (val 0))) ∧
    Sends (.sreg p e sr) s x 4 (write32 e (x.act p) (fun l => (val l).setWidth 32))

/-- SREGW writes TRAPVEC or STOREHASH with latency 4. A TRAPVEC value with a bit set in [63:57] or [1:0] takes a precise trap with cause RSVFIELD (0x0002) and writes
nothing; SREGW to any other special register traps with SREGRO (0x0009) (R189, R397). -/
def Obligations.SpecialRegisterWrites : Prop :=
  ∀ (s : State) (x : Iss) (p : Pred) (sr : SReg) (a : USrc), s.iss = some x → x.qp p = true →
    let ok := (x.u a).extractLsb' 57 7 = 0 ∧ (x.u a).extractLsb' 0 2 = 0
    (ok → Sends (.sregw p .trapvec a) s x 4 [.sr true (x.u a)]) ∧
    (¬ ok → exec (.sregw p .trapvec a) s = .next (s.trap x.k x.path.lanes x.pc 0x0002)) ∧
    Sends (.sregw p .storehash a) s x 4 [.sr false (x.u a)] ∧
    (sr ≠ .trapvec → sr ≠ .storehash → exec (.sregw p sr a) s = .next (s.trap x.k x.path.lanes x.pc 0x0009)) ∧
    ∀ (g : Gang) (tag : Tag) (v : DWord), g.land tag (.sr true v) = { g with trapvec := v } ∧ g.land tag (.sr false v) = { g with storehash := v }

/-! ## Lane instructions: integers -/

/-- The short integer forms compute the r of their row in each active lane and send it to D with latency 4; every other lane keeps its destination (R404, R407). ICMP
writes Pd in the active lanes (R412), MOV copies (R416), NOP only passes (R417). -/
def Obligations.ShortIntegers : Prop :=
  ∀ (s : State) (x : Iss) (p : Pred) (d : LDst) (a b : LSrc) (cc : ICC) (pd : Fin 8), s.iss = some x →
    let A := x.w32 a
    let B := x.w32 b
    let g := fun (i : Instr) (r : Nat → Word) => Sends i s x 4 (write32 d (x.act p) r)
    let sh := fun (l : Nat) => ((B l).extractLsb' 0 5).toNat
    g (.iadd p d a b) (fun l => A l + B l) ∧ g (.isub p d a b) (fun l => A l - B l) ∧
    g (.imul p d a b) (fun l => A l * B l) ∧ g (.and p d a b) (fun l => A l &&& B l) ∧
    g (.or p d a b) (fun l => A l ||| B l) ∧ g (.xor p d a b) (fun l => A l ^^^ B l) ∧
    g (.shl p d a b) (fun l => A l <<< sh l) ∧ g (.shrN32 p d a b) (fun l => A l >>> sh l) ∧
    g (.shrI32 p d a b) (fun l => (A l).sshiftRight (sh l)) ∧
    g (.iminI32 p d a b) (fun l => BitVec.ofInt 32 (min (A l).toInt (B l).toInt)) ∧
    g (.imaxI32 p d a b) (fun l => BitVec.ofInt 32 (max (A l).toInt (B l).toInt)) ∧
    g (.iminN32 p d a b) (fun l => BitVec.ofNat 32 (min (A l).toNat (B l).toNat)) ∧
    g (.imaxN32 p d a b) (fun l => BitVec.ofNat 32 (max (A l).toNat (B l).toNat)) ∧
    g (.mov p d a) A ∧
    Sends (.icmp p cc pd a b) s x 4 [.p pd.val (x.act p) (maskOf (x.act p) (fun l => cc.holds (A l) (B l)))] ∧
    Passes (.nop p) s x

/-- The long integer forms: in each active lane the exact r of R408 on val() of the operands, clamped once under `.sat` and else modulo 2^w, to D with latency 4
(R405, R406, R408 to R410). -/
def Obligations.LongIntegers : Prop :=
  ∀ (s : State) (x : Iss) (p : Pred) (ty : ITy) (sat : Bool) (d : LDst) (a b c : LSrc), s.iss = some x →
    let A := x.val ty a
    let B := x.val ty b
    let C := x.val ty c
    let g := fun (i : Instr) (r : Nat → Int) => Sends i s x 4 (intWrites ty d (x.act p) (fun l => clampTo ty sat (r l)))
    let n := fun (i : Instr) (r : Nat → Int) => Sends i s x 4 (intWrites ty d (x.act p) r)
    g (.iaddLong p ty sat d a b) (fun l => A l + B l) ∧
    g (.isubLong p ty sat d a b) (fun l => A l - B l) ∧
    g (.imulLong p ty sat d a b) (fun l => A l * B l) ∧
    g (.imad p ty sat d a b c) (fun l => A l * B l + C l) ∧
    g (.iabs p ty sat d a) (fun l => |A l|) ∧
    g (.ineg p ty sat d a) (fun l => -A l) ∧
    n (.imulhi p ty d a b) (fun l => (A l * B l) >>> ty.w) ∧
    n (.iminLong p ty d a b) (fun l => min (A l) (B l)) ∧
    n (.imaxLong p ty d a b) (fun l => max (A l) (B l)) ∧
    n (.shrLong p ty d a b) (fun l => A l >>> ((x.w32 b l).toNat % ty.w)) ∧
    n (.shlLong p ty d a b) (fun l => A l * 2 ^ ((x.w32 b l).toNat % ty.w)) ∧
    n (.movLong p ty d a) A

/-- The long logic, bit-count and select forms act on the w bits of their operands (R408, R409, R412, R413). -/
def Obligations.LongLogic : Prop :=
  ∀ (s : State) (x : Iss) (p : Pred) (ty : ITy) (d : LDst) (a b c : LSrc) (cc : ICC) (pd ps : Fin 8) (pn : Bool), s.iss = some x →
    let A := x.wty ty a
    let B := x.wty ty b
    let g := fun (i : Instr) (r : Nat → DWord) => Sends i s x 4 (bitWrites ty d (x.act p) r)
    let count := fun (v : DWord) => ((List.range ty.w).filter (fun i => v.getLsbD i)).length
    g (.andLong p ty d a b) (fun l => A l &&& B l) ∧ g (.orLong p ty d a b) (fun l => A l ||| B l) ∧
    g (.xorLong p ty d a b) (fun l => A l ^^^ B l) ∧ g (.andn p ty d a b) (fun l => A l &&& ~~~(B l)) ∧
    g (.not p ty d a) (fun l => ~~~(A l)) ∧
    g (.popc p ty d a) (fun l => BitVec.ofNat 64 (count (A l))) ∧
    g (.clz p ty d a) (fun l => BitVec.ofNat 64 (if A l = 0 then ty.w else ty.w - 1 - Nat.log2 (A l).toNat)) ∧
    g (.bitrev p ty d a) (fun l => BitVec.ofNat 64 (bitReverse ty.w (A l).toNat)) ∧
    g (.xfld p ty d a b) (fun l => extractField ty.signed ty.w (A l) (x.w32 b l)) ∧
    g (.ifld p ty d a b c) (fun l => insertField ty.w (A l) (x.w32 b l) (x.wty ty c l)) ∧
    g (.sel p ty ps pn d a b) (fun l => if ((x.pmask ps.val).has l ^^ pn) then A l else B l) ∧
    Sends (.icmpLong p ty cc pd a b) s x 4 [.p pd.val (x.act p) (maskOf (x.act p) (fun l =>
      if ty.wide then cc.holds (x.w64 a l) (x.w64 b l) else cc.holds (x.w32 a l) (x.w32 b l)))]

/-- BITREV moves bit i to bit w − 1 − i (R408). XFLD and IFLD in each active lane: XFLD gives the bits of A from pos on, n of them, sign-extended from bit n − 1 for
a signed type; IFLD puts the low n bits of A at pos into C; n is 0 where pos ≥ w, else the length cut at bit w − 1; bits [31:16] of B are ignored (R411). -/
def Obligations.BitFields : Prop :=
  (∀ (s : State) (x : Iss) (p : Pred) (ty : ITy) (d : LDst) (a b c : LSrc), s.iss = some x →
    Sends (.xfld p ty d a b) s x 4 (bitWrites ty d (x.act p) (fun l => extractField ty.signed ty.w (x.wty ty a l) (x.w32 b l))) ∧
    Sends (.ifld p ty d a b c) s x 4 (bitWrites ty d (x.act p) (fun l => insertField ty.w (x.wty ty a l) (x.w32 b l) (x.wty ty c l)))) ∧
  decode [0x0E0240FF, 0x13001000, 0x408] = .ok (.xfld ⟨false, 0⟩ .i32 (.v 9) (.v 1) (.lit 0x408), 3) ∧
  ∀ (w : Nat) (sg : Bool) (A C : DWord) (B : Word), (w = 32 ∨ w = 64) → A.toNat < 2 ^ w →
    let pos := (B.extractLsb' 0 8).toNat
    let len := (B.extractLsb' 8 8).toNat
    let n := if w ≤ pos then 0 else min len (w - pos)
    (∀ i < w, (BitVec.ofNat 64 (bitReverse w A.toNat)).getLsbD i = A.getLsbD (w - 1 - i)) ∧
    (∀ i < 64, (extractField sg w A B).getLsbD i =
      if i < n then A.getLsbD (pos + i) else sg && decide (0 < n) && A.getLsbD (pos + n - 1)) ∧
    (∀ i < 64, (insertField w A B C).getLsbD i = if pos ≤ i ∧ i < pos + n then A.getLsbD (i - pos) else C.getLsbD i)

/-! ## Lane instructions: floats -/

/-- The short float forms round once under RNE, keep subnormals and record the causes of their active lanes; every short FFMA reads D as its addend. Latency 4, and 8
with `.f64` (R425, R427, R429, R430, R432). -/
def Obligations.ShortFloats : Prop :=
  ∀ (s : State) (x : Iss) (p : Pred) (d : LDst) (a b : LSrc) (cc : FCC) (pd : Fin 8), s.iss = some x →
    let A := fun (ty : FTy) => x.elem ty a
    let B := fun (ty : FTy) => x.elem ty b
    let D := fun (ty : FTy) => x.elem ty d.src
    let g := fun (i : Instr) (ty : FTy) (r : Nat → Nat → FRes) => SendsFloat i s x p ty (if ty = .f64 then 8 else 4) d r
    g (.faddF32 p d a b) .f32 (fun l i => Fmt.f32.add .rne (A .f32 l i) (B .f32 l i)) ∧
    g (.fsubF32 p d a b) .f32 (fun l i => Fmt.f32.sub .rne (A .f32 l i) (B .f32 l i)) ∧
    g (.fmulF32 p d a b) .f32 (fun l i => Fmt.f32.mul .rne (A .f32 l i) (B .f32 l i)) ∧
    g (.ffmaF32 p d a b) .f32 (fun l i => Fmt.f32.fma .rne (A .f32 l i) (B .f32 l i) (D .f32 l i)) ∧
    g (.fminF32 p d a b) .f32 (fun l i => Fmt.f32.minmax false false false (A .f32 l i) (B .f32 l i)) ∧
    g (.fmaxF32 p d a b) .f32 (fun l i => Fmt.f32.minmax true false false (A .f32 l i) (B .f32 l i)) ∧
    g (.fminnF32 p d a b) .f32 (fun l i => Fmt.f32.minmax false true false (A .f32 l i) (B .f32 l i)) ∧
    g (.fmaxnF32 p d a b) .f32 (fun l i => Fmt.f32.minmax true true false (A .f32 l i) (B .f32 l i)) ∧
    g (.faddF64 p d a b) .f64 (fun l i => Fmt.f64.add .rne (A .f64 l i) (B .f64 l i)) ∧
    g (.fmulF64 p d a b) .f64 (fun l i => Fmt.f64.mul .rne (A .f64 l i) (B .f64 l i)) ∧
    g (.ffmaF64 p d a b) .f64 (fun l i => Fmt.f64.fma .rne (A .f64 l i) (B .f64 l i) (D .f64 l i)) ∧
    g (.faddBf16X2 p d a b) .bf16x2 (fun l i => Fmt.bf16.add .rne (A .bf16x2 l i) (B .bf16x2 l i)) ∧
    g (.fmulBf16X2 p d a b) .bf16x2 (fun l i => Fmt.bf16.mul .rne (A .bf16x2 l i) (B .bf16x2 l i)) ∧
    g (.ffmaBf16X2 p d a b) .bf16x2 (fun l i => Fmt.bf16.fma .rne (A .bf16x2 l i) (B .bf16x2 l i) (D .bf16x2 l i)) ∧
    g (.faddF16X2 p d a b) .f16x2 (fun l i => Fmt.f16.add .rne (A .f16x2 l i) (B .f16x2 l i)) ∧
    g (.fmulF16X2 p d a b) .f16x2 (fun l i => Fmt.f16.mul .rne (A .f16x2 l i) (B .f16x2 l i)) ∧
    let c := fun (l : Nat) => Fmt.f32.cmp cc (x.w32 a l).toNat (x.w32 b l).toNat
    let inv := maskOf (x.act p) (fun l => (c l).2)
    Sends (.fcmpF32 p cc pd a b) s x 4 [.p pd.val (x.act p) (maskOf (x.act p) (fun l => (c l).1))] (if inv = 0 then [] else [(0x201, inv)])

/-- The long float forms: under RM, with `.ftz` on sources and result, each element alone (R297, R425, R428 to R432). FABS clears and FNEG inverts the sign bit and
record nothing; FCLASS writes one 32-bit register. -/
def Obligations.LongFloats : Prop :=
  ∀ (s : State) (x : Iss) (p : Pred) (ty : FTy) (rm : RMode) (ftz w : Bool) (d : LDst) (a b c : LSrc) (cc : FCC) (pd : Fin 8),
    s.iss = some x →
    let f := ftyFmt ty
    let z := f.ftz ftz
    let A := x.elem ty a
    let B := x.elem ty b
    let C := x.elem ty c
    let lat := if ty = .f64 then 8 else 4
    let out := fun (r : FRes) => ({ r with bits := z r.bits } : FRes)
    let g := fun (i : Instr) (r : Nat → Nat → FRes) => SendsFloat i s x p ty lat d r
    g (.faddLong p ty rm ftz d a b) (fun l i => out (f.add rm (z (A l i)) (z (B l i)))) ∧
    g (.fsubLong p ty rm ftz d a b) (fun l i => out (f.sub rm (z (A l i)) (z (B l i)))) ∧
    g (.fmulLong p ty rm ftz d a b) (fun l i => out (f.mul rm (z (A l i)) (z (B l i)))) ∧
    g (.ffmaLong p ty rm ftz d a b c) (fun l i => out (f.fma rm (z (A l i)) (z (B l i)) (z (C l i)))) ∧
    g (.fminLong p ty ftz d a b) (fun l i => f.minmax false false ftz (A l i) (B l i)) ∧
    g (.fmaxLong p ty ftz d a b) (fun l i => f.minmax true false ftz (A l i) (B l i)) ∧
    g (.fminnLong p ty ftz d a b) (fun l i => f.minmax false true ftz (A l i) (B l i)) ∧
    g (.fmaxnLong p ty ftz d a b) (fun l i => f.minmax true true ftz (A l i) (B l i)) ∧
    g (.fabs p ty d a) (fun l i => { bits := A l i % 2 ^ (f.w - 1) }) ∧
    g (.fneg p ty d a) (fun l i => { bits := Nat.xor (A l i) (2 ^ (f.w - 1)) }) ∧
    Sends (.fclass p ty ftz d a) s x lat (write32 d (x.act p) (fun l => BitVec.ofNat 32
      (f.classOf (z (A l 0)) + (if ftyElems ty = 2 then f.classOf (z (A l 1)) * 2 ^ 16 else 0)))) ∧
    let t : FTy := if w then .f64 else .f32
    let r := fun (l : Nat) => (ftyFmt t).cmp cc ((ftyFmt t).ftz ftz (x.elem t a l 0)) ((ftyFmt t).ftz ftz (x.elem t b l 0))
    let inv := maskOf (x.act p) (fun l => (r l).2)
    Sends (.fcmpLong p w cc ftz pd a b) s x (if w then 8 else 4) [.p pd.val (x.act p) (maskOf (x.act p) (fun l => (r l).1))]
      (if inv = 0 then [] else [(0x201, inv)])

/-- Rounding is exact where it can be: every finite number of a wide format, rounded to its own format under any mode, is itself, and an infinity stays; a NaN gives
the canonical NaN, and INVALID where it signals (R294 to R296, R298). Float addition and multiplication do not depend on the order of their operands; ∞ − ∞ and 0 × ∞
are INVALID and give the canonical NaN (R295, R298). -/
def Obligations.FloatLaws : Prop :=
  (
    ∀ (f : Fmt) (rm : RMode) (b : Nat), f ∈ [Fmt.f32, Fmt.f64, Fmt.bf16, Fmt.f16] → b < 2 ^ f.w →
      let r := f.round rm (f.decode b)
      (f.mag b ≤ f.maxFin → r.bits = b ∧ r.inv = false ∧ r.ovf = false) ∧
      (f.mag b = f.maxFin + 1 → r.bits = b ∧ r.inv = false ∧ r.ovf = false) ∧
      (f.maxFin + 1 < f.mag b → r.bits = f.canon ∧ r.ovf = false ∧ (r.inv = true ↔ f.mag b / 2 ^ (f.mb - 1) % 2 = 0))) ∧
  (
    ∀ (f : Fmt) (rm : RMode) (a b : Nat), f ∈ [Fmt.f32, Fmt.f64, Fmt.bf16, Fmt.f16] →
      f.add rm a b = f.add rm b a ∧ f.mul rm a b = f.mul rm b a ∧
      (f.mag a = f.maxFin + 1 → f.mag b = f.maxFin + 1 → f.neg a ≠ f.neg b → (f.add rm a b).bits = f.canon ∧ (f.add rm a b).inv = true) ∧
      (f.mag a = f.maxFin + 1 → f.mag b = 0 → (f.mul rm a b).bits = f.canon ∧ (f.mul rm a b).inv = true))

/-! ## Conversions, blocks, cross-lane, SFU -/

/-- CVT converts each element of each active lane once, under RM, and writes a scalar of fewer than 32 bits as a whole register: sign-extended for `.i8` and `.i16`,
else zero-extended; the packing form takes element 0 from A and element 1 from B (R425, R426, R433, R434). -/
def Obligations.Conversions : Prop :=
  ∀ (s : State) (x : Iss) (p : Pred) (dty sty : Ty) (rm : RMode) (ftz sat : Bool) (d : LDst) (a : LSrc) (b : Option LSrc),
    s.iss = some x → (Instr.cvt p dty sty rm ftz sat d a b).wf = true →
    let src := fun (o : LSrc) (l : Nat) => match sty with
      | .f64 => (x.f64 o l).toNat
      | .n64 | .i64 => (x.w64 o l).toNat
      | _ => (x.w32 o l).toNat
    let one := cvtOne (cvtElem dty).1 (cvtElem sty).1 rm ftz sat
    let r := fun (l i : Nat) => one (match b with
      | some o => if i = 0 then src a l else src o l
      | none => if dty.isX2 then src a l / 2 ^ (16 * i) % 2 ^ 16 else src a l)
    let e := fun (l i : Nat) => if (x.act p).has l then (r l i).bits else 0
    Sends (.cvt p dty sty rm ftz sat d a b) s x (if dty = .f64 ∨ sty = .f64 then 8 else 4)
      (match dty with
        | .f64 | .n64 | .i64 => write64 d (x.act p) (fun l => BitVec.ofNat 64 (e l 0))
        | .bf16x2 | .f16x2 | .n16x2 | .i16x2 => write32 d (x.act p) (fun l => BitVec.ofNat 32 (e l 0 + e l 1 * 2 ^ 16))
        | .i8 => write32 d (x.act p) (fun l => (BitVec.ofNat 8 (e l 0)).signExtend 32)
        | .i16 => write32 d (x.act p) (fun l => (BitVec.ofNat 16 (e l 0)).signExtend 32)
        | _ => write32 d (x.act p) (fun l => BitVec.ofNat 32 (e l 0)))
      (floatErrs (if dty.isX2 then 2 else 1) (x.act p) r)

/-- An integer narrows to its low bits, or to the nearest number of the range under `.sat`, and records nothing; a float converts to the integer that its mode rounds
to, clamped to the range, INVALID for a NaN always and for what lies outside the range unless `.sat` (R302, R434). -/
def Obligations.IntegerConversions : Prop :=
  ∀ (w v : Nat) (sg sv ftz sat : Bool) (rm : RMode) (f : Fmt) (b : Nat), 0 < w → w ≤ 64 → 0 < v →
    let n := intOf v sv b
    let r := cvtOne (.int w sg) (.int v sv) rm ftz sat b
    let lo : Int := if sg then -2 ^ (w - 1) else 0
    let hi : Int := if sg then 2 ^ (w - 1) - 1 else 2 ^ w - 1
    (r.inv = false ∧ r.ovf = false ∧ r.dz = false) ∧
    (sat = false → (r.bits : Int) = n % 2 ^ w) ∧ (sat = true → (r.bits : Int) = (max lo (min hi n)) % 2 ^ w) ∧
    let q := cvtOne (.int w sg) (.flt f) rm ftz sat b
    match (Elem.flt f).src ftz b with
    | .nan _ => q.bits = 0 ∧ q.inv = true
    | .inf neg => (q.bits : Int) = (if neg then lo else hi) % 2 ^ w ∧ q.inv = !sat
    | .fin neg m e =>
      let k := roundInt rm neg m e
      (q.bits : Int) = (max lo (min hi k)) % 2 ^ w ∧ (q.inv = true ↔ sat = false ∧ (k < lo ∨ hi < k))

/-- QBLK quantises the block of all slots, inactive ones as +0, and gives each active lane its elements under the block's descriptor; QBLKS converts each lane's own
elements by the scale it is given; DQBLK decodes each lane's register by the code it carries (R306 to R309, R435 to R438). -/
def Obligations.Blocks : Prop :=
  ∀ (s : State) (x : Iss) (p : Pred) (ty : QTy) (rm : RMode) (ftz sat : Bool) (d : LDst) (a b : LSrc) (c : Option LSrc),
    s.iss = some x →
    let act := x.act p
    let code := qtyCode ty
    let f32 := fun (v : Nat) => Fmt.f32.decode v
    (c.isSome = (ty == .e2m1) →
      let n := if ty = .e2m1 then 4 else 2
      let own := fun (l : Nat) => if act.has l then (x.quads a c l).map f32 else List.replicate n (.fin false 0 0)
      let q := quantBlock code rm ((List.range 32).flatMap own)
      let bad := maskOf act (fun l => (x.quads a c l).any (fun v => !(f32 v).isFinite))
      Sends (.qblk p ty rm d a c) s x 6 (write32 d act (fun l =>
        BitVec.ofNat 32 (code * 2 ^ 28 + q.1 * 2 ^ 16 + packQ (ty == .e2m1) ((q.2.1.drop (n * l)).take n)))) (if bad = 0 then [] else [(0x201, bad)]) ∧
      let se := fun (l : Nat) => (x.w32 b l).toNat % 2 ^ 12
      let r := fun (l : Nat) => (x.quads a c l).map (fun v => quantGiven code (se l) rm sat (f32 v))
      let e := fun (l : Nat) => if act.has l then (r l).map FRes.bits else []
      let any := fun (g : FRes → Bool) => maskOf act (fun l => (r l).any g)
      Sends (.qblks p ty rm sat d a b c) s x 4 (write32 d act (fun l =>
        BitVec.ofNat 32 (code * 2 ^ 28 + se l * 2 ^ 16 + packQ (ty == .e2m1) (e l))))
        ([(0x201, any FRes.inv), (0x202, any FRes.dz), (0x203, any FRes.ovf)].filter (fun c => c.2 ≠ 0))) ∧
    (c.isSome = (ty == .e2m1) →
      let k := fun (l : Nat) => (x.w32 a l).toNat / 2 ^ 28
      let se := fun (l : Nat) => (x.w32 a l).toNat / 2 ^ 16 % 2 ^ 12
      let e := fun (l : Nat) => se l / 16
      let accepted := fun (l : Nat) => if ty = .e2m1 then k l ∈ [0, 3, 6] else k l ∈ [0, 1, 2, 4, 5]
      let poison := fun (l : Nat) => decide (e l = 255 ∨ ¬ accepted l)
      let el := fun (l i : Nat) => if ty = .e2m1 then (x.w32 a l).toNat / 2 ^ (8 * ((c.map (fun o => (x.w32 o l).toNat % 2)).getD 0) + 4 * i) % 16
        else (x.w32 a l).toNat / 2 ^ (8 * i) % 256
      let r := fun (l i : Nat) => if poison l then ({ bits := 0x7FC00000 } : FRes) else if k l ≠ 0 ∧ e l = 0 then { bits := 0 }
        else dqOne ((elemOf (if k l = 0 then code else k l)).getD (.flt .e4m3)) (decide (k l ≠ 0)) (se l) rm ftz (el l i)
      let v := fun (l i : Nat) => if act.has l then (r l i).bits else 0
      Sends (.dqblk p ty rm ftz d a c) s x 4 (write64 d act (fun l => BitVec.ofNat 64 (v l 0 + v l 1 * 2 ^ 32)))
        (floatErrs 2 act r ++ [(0x204, maskOf act poison), (0x205, maskOf act (fun l => poison l && decide (11 ≤ k l)))].filter (fun c => c.2 ≠ 0)))

/-- REDUX combines A over the active lanes in the tree of R314 and gives the result to each of them; latency 6, and 8 with `.f64` (R423). SHFL gives each active lane
A of the member lane that its selector names, else its own A; with a predicate it says which (R421, R422). Latency 6. The order of an integer REDUX does not matter:
with some lane active, add gives the sum modulo 2^32 or 2^64, min and max the least and the greatest of the active lanes' values as unsigned or as signed, and the
bitwise operations act on each bit (R314, R423). -/
def Obligations.CrossLane : Prop :=
  (
    ∀ (s : State) (x : Iss) (p : Pred) (op : ROp) (ty : RTy) (d : LDst) (a b : LSrc) (pd : Fin 8) (tlid : Bool), s.iss = some x →
      let act := x.act p
      let path := x.path.lanes
      let named := fun (i : Nat) => if tlid then (List.range 32).find? (fun l => (x.g.lanes.getD l none).map Lane.tlid == some i)
        else if i < 32 then some i else none
      let src := fun (l : Nat) => match named (x.w32 b l).toNat with
        | some k => if path.has k then some k else none
        | none => none
      let w := if ty.wide then write64 d act (fun l => x.w64 a ((src l).getD l)) else write32 d act (fun l => x.w32 a ((src l).getD l))
      Sends (.shflLong p tlid ty d a b none) s x 6 w ∧
      Sends (.shflLong p tlid ty d a b (some pd)) s x 6 (w ++ [.p pd.val act (maskOf act (fun l => (src l).isSome))]) ∧
      (tlid = false → Sends (.shfl p d a b) s x 6 (write32 d act (fun l => x.w32 a ((src l).getD l)))) ∧
      (act = 0 → Passes (.redux p op ty d a) s x) ∧
      let val := fun (l : Nat) => match ty with
        | .f64 => x.f64 a l
        | .n64 | .i64 => x.w64 a l
        | _ => (x.w32 a l).setWidth 64
      ∀ r, treeReduce (reduxOp op ty) ((List.range 32).map (fun l => if act.has l then some (val l, false, false) else none)) = some r →
        Sends (.redux p op ty d a) s x (match ty with
            | .f64 => 8
            | _ => 6) (if ty.wide then write64 d act (fun _ => r.1) else write32 d act (fun _ => r.1.setWidth 32))
          ([(0x201, if r.2.1 then act else 0), (0x203, if r.2.2 then act else 0)].filter (fun c => c.2 ≠ (0 : Mask)))) ∧
  (
    ∀ (act : Mask) (v : Nat → DWord), act ≠ 0 →
      let tree := fun (op : ROp) (ty : RTy) =>
        treeReduce (reduxOp op ty) ((List.range 32).map (fun l => if act.has l then some (v l, false, false) else none))
      let lanes := (List.range 32).filter act.has
      tree .add .n64 = some (BitVec.ofNat 64 (lanes.map (fun l => (v l).toNat)).sum, false, false) ∧
      ((∀ l, (v l).toNat < 2 ^ 32) →
        tree .add .n32 = some (BitVec.ofNat 64 ((lanes.map (fun l => (v l).toNat)).sum % 2 ^ 32), false, false) ∧ tree .add .i32 = tree .add .n32) ∧
      (∃ l ∈ lanes, tree .min .n64 = some (v l, false, false) ∧ ∀ k ∈ lanes, (v l).toNat ≤ (v k).toNat) ∧
      (∃ l ∈ lanes, tree .max .n64 = some (v l, false, false) ∧ ∀ k ∈ lanes, (v k).toNat ≤ (v l).toNat) ∧
      (∃ l ∈ lanes, tree .min .i64 = some (v l, false, false) ∧ ∀ k ∈ lanes, (v l).toInt ≤ (v k).toInt) ∧
      (∃ l ∈ lanes, tree .max .i64 = some (v l, false, false) ∧ ∀ k ∈ lanes, (v k).toInt ≤ (v l).toInt) ∧
      (∃ r, tree .and .n64 = some (r, false, false) ∧ ∀ i < 64, r.getLsbD i = lanes.all (fun l => (v l).getLsbD i)) ∧
      (∃ r, tree .or .n64 = some (r, false, false) ∧ ∀ i < 64, r.getLsbD i = lanes.any (fun l => (v l).getLsbD i)) ∧
      (∃ r, tree .xor .n64 = some (r, false, false) ∧ ∀ i < 64, r.getLsbD i = decide ((lanes.filter (fun l => (v l).getLsbD i)).length % 2 = 1)))

/-- An SFU function enters the queue of its cluster with its source and active lanes as they are at issue: an F32 function holds the unit for 4 issue clk and lands 24
issue clk after it leaves the head, an F64 function 16 and 48, and no result of a gang lands before the results of its functions that issued earlier; it counts in no
counter, and its path goes on (R184, R440, R441). -/
def Obligations.SfuIssue : Prop :=
  ∀ (s : State) (x : Iss) (p : Pred) (fn : SfuFn) (d : LDst) (a : LSrc), s.iss = some x →
    let i : Instr := match fn with
      | .recip32 => .recipF32 p d a
      | .rroot32 => .rrootF32 p d a
      | .root32 => .rootF32 p d a
      | .pow2 => .pow2F32 p d a
      | .log2 => .log2F32 p d a
      | .sine => .sineF32 p d a
      | .cosine => .cosineF32 p d a
      | .htan => .htanF32 p d a
      | .recip64 => .recipF64 p d a
      | .rroot64 => .rrootF64 p d a
      | .root64 => .rootF64 p d a
    let wide := fn ∈ [.recip64, .rroot64, .root64]
    let q := (mget x.g.cluster s.work.sfu).getD []
    let hold := fun (o : SfuOp) => if o.fn ∈ [.recip64, .rroot64, .root64] then 16 else 4
    let head := q.foldl (fun t o => max t (s.issueFrom (x.g.cluster / 34) o.head (hold o))) s.clk.now
    let due := (q.filter (fun o => o.gang == x.k)).foldl (fun t o => max t o.due) (s.issueFrom (x.g.cluster / 34) head (if wide then 48 else 24))
    ∃ t g h, exec i s = .next t ∧ s.gang? x.k = some g ∧ t.gang? x.k = some h ∧
      mget x.g.cluster t.work.sfu = some (q ++ [⟨x.k, head, due, fn, d, x.act p,
        (List.range 32).map (fun l => if wide then x.f64 a l else (x.w32 a l).setWidth 64), x.run, x.pc, x.runPc, (0, 0), x.tagU [a]⟩]) ∧
      h = { g with sfu := g.sfu + 1, paths := g.behind x } ∧
      t.mem = s.mem ∧ t.adm = s.adm ∧ (∀ k, k ≠ x.k → t.gang? k = s.gang? k)

/-- SFU_RESULT: the first operation of a cluster's queue that is due leaves it, whatever stands before it, its function's results land in its lanes without those that a debugger has
cancelled, its gang has one operation fewer, and a trap that has waited for it is taken (R183, R184, R190, R195, R441). Where none is due, all stay. The special sources of
the SFU functions give the results and causes of R443: zeros, infinities, negative sources, NaNs. -/
def Obligations.SfuResult : Prop :=
  (
    ∀ (s : State) (pre : List SfuOp) (o : SfuOp) (rest : List SfuOp), mget s.clk.subj.a s.work.sfu = some (pre ++ o :: rest) →
      (∀ y ∈ pre, s.clk.now < y.due) →
      let r := fun (l i : Nat) => if i = 0 then sfuEval o.fn (o.src.getD l 0).toNat else { bits := 0 }
      let v := fun (l : Nat) => if o.lanes.has l then (r l 0).bits else 0
      let ws := if o.fn ∈ [.recip64, .rroot64, .root64] then write64 o.d o.lanes (fun l => BitVec.ofNat 64 (v l))
        else write32 o.d o.lanes (fun l => BitVec.ofNat 32 (v l))
      let u := { s with work := { s.work with sfu := mput s.clk.subj.a (pre ++ rest) s.work.sfu } }
      let e := (floatErrs 1 o.lanes r).foldl (fun (w : State) c => ((w.gang? o.gang).map (fun g => w.arith o.gang g o.run o.hdr c.1 c.2)).getD w) u
      (o.due ≤ s.clk.now → exec .sfuResult s = .next ((e.landVar o.gang o.run o.lanes o.pc o.tag (cancelWrites o.cancel ws)).modGang o.gang
        (fun g => ({ g with sfu := g.sfu - 1 } : Gang).tryTrap s.clk.now))) ∧
      (s.clk.now < o.due → (∀ y ∈ rest, s.clk.now < y.due) → exec .sfuResult s = .next s)) ∧
  (
    let inf := 0x7F800000
    let ninf := 0xFF800000
    let nan : FRes := { bits := 0x7FC00000, inv := true }
    let b := fun (n : Nat) => ({ bits := n } : FRes)
    sfuEval .recip32 ninf = b 0x80000000 ∧ sfuEval .recip32 inf = b 0 ∧
    sfuEval .recip32 0 = { bits := inf, dz := true } ∧ sfuEval .recip32 0x80000000 = { bits := ninf, dz := true } ∧
    sfuEval .rroot32 ninf = nan ∧ sfuEval .rroot32 inf = b 0 ∧
    sfuEval .rroot32 0 = { bits := inf, dz := true } ∧ sfuEval .rroot32 0x80000000 = { bits := ninf, dz := true } ∧
    sfuEval .root32 ninf = nan ∧ sfuEval .root32 inf = b inf ∧ sfuEval .root32 0 = b 0 ∧ sfuEval .root32 0x80000000 = b 0x80000000 ∧
    sfuEval .pow2 ninf = b 0 ∧ sfuEval .pow2 inf = b inf ∧ sfuEval .pow2 0 = b 0x3F800000 ∧ sfuEval .pow2 0x80000000 = b 0x3F800000 ∧
    sfuEval .pow2 0x43000000 = { bits := inf, ovf := true } ∧
    sfuEval .log2 ninf = nan ∧ sfuEval .log2 inf = b inf ∧ sfuEval .log2 0x3F800000 = b 0 ∧
    sfuEval .log2 0 = { bits := ninf, dz := true } ∧ sfuEval .log2 0x80000000 = { bits := ninf, dz := true } ∧
    sfuEval .sine ninf = nan ∧ sfuEval .sine inf = nan ∧ sfuEval .sine 0 = b 0 ∧ sfuEval .sine 0x80000000 = b 0x80000000 ∧
    sfuEval .cosine ninf = nan ∧ sfuEval .cosine inf = nan ∧ sfuEval .cosine 0 = b 0x3F800000 ∧ sfuEval .cosine 0x80000000 = b 0x3F800000 ∧
    sfuEval .htan ninf = b 0xBF800000 ∧ sfuEval .htan inf = b 0x3F800000 ∧ sfuEval .htan 0 = b 0 ∧ sfuEval .htan 0x80000000 = b 0x80000000 ∧
    (∀ fn, fn ∈ [SfuFn.recip32, .rroot32, .root32, .pow2, .log2, .sine, .cosine, .htan] →
      sfuEval fn 0x7FC00001 = b 0x7FC00000 ∧ sfuEval fn 0x7F800001 = nan) ∧
    (∀ n, 0x80800000 ≤ n → n < ninf → sfuEval .rroot32 n = nan ∧ sfuEval .root32 n = nan ∧ sfuEval .log2 n = nan))

/-! ## Control flow, runs, waits -/

/-- BRA, BRAQ, CALL, RET and JMPG move every lane of the issuing path and no other: to the branch's own address plus 4 times the offset, or to g(A) with bits [1:0]
cleared; BRAQ where some or every lane of the path has Pp true, else it passes; CALL sends its link to D (R368, R380). A gang's return stack of 8 entries only
predicts. -/
def Obligations.Branches : Prop :=
  ∀ (s : State) (x : Iss) (p : Pred) (pl : Fin 8) (o21 : BitVec 21) (o17 : BitVec 17) (o15 : BitVec 15) (d : UDst) (a : USrc),
    s.iss = some x → x.qp p = true →
    let goes := fun (t : DWord) (q : Path) => ({ q with pc := t } : Path)
    let b := x.path.lanes &&& x.pmask pl.val
    Moves (.bra p o21) s x (goes (x.pc + 4 * o21.signExtend 64)) ∧
    (b ≠ 0 → Moves (.braq p pl false o17) s x (goes (x.pc + 4 * o17.signExtend 64))) ∧
    (b = 0 → Passes (.braq p pl false o17) s x) ∧
    (b = x.path.lanes → Moves (.braq p pl true o17) s x (goes (x.pc + 4 * o17.signExtend 64))) ∧
    (b ≠ x.path.lanes → Passes (.braq p pl true o17) s x) ∧
    Moves (.jmpg p a) s x (goes ((x.u a).extractLsb' 2 62 ++ 0#2)) ∧
    exec (.ret p a) s = .next ((s.onPath x (goes ((x.u a).extractLsb' 2 62 ++ 0#2))).modGang x.k (fun g => { g with rets := g.rets.drop 1 })) ∧
    ∃ t u, exec (.call p d o15) s = .next t ∧ Issued s x 4 (writeG d (x.pc + 4)) u ∧
      t = (u.modGang x.k (fun g => { g with rets := ((x.pc + 4) :: g.rets).take 8 })).onPath x (goes (x.pc + 4 * o15.signExtend 64))

/-- EXIT ends the lanes of the issuing path; where no live lane is left, the gang ends: it stands nowhere and issues no more, its operations go on (R382). -/
def Obligations.ExitEndsLanes : Prop :=
  ∀ (s : State) (x : Iss) (p : Pred) (g : Gang), s.iss = some x → x.qp p = true → s.gang? x.k = some g →
    let left := g.paths.filter (fun q => q.lanes ≠ x.path.lanes)
    exec (.exit p) s = .next (s.setGang x.k (if left = [] then { g with paths := [], stop := .ending, exitPc := x.pc, trapPend := none }
      else { g with paths := left }))

/-- The lane branches note the lanes active at the branch, and act when the path passes RUNE: LBR and LBR.rg send them to `here` + 4 × OFS, LEXIT ends them, the
others go on behind RUNE (R418, R419). Nothing else changes at the branch. -/
def Obligations.LaneBranches : Prop :=
  ∀ (s : State) (x : Iss) (p : Pred) (ofs : BitVec 21) (lg : BitVec 8) (lq : BitVec 7) (r : Run), s.iss = some x → x.path.run = some r →
    let on := fun (f : Run → Run) (q : Path) => ({ q with pc := q.pc + BitVec.ofNat 64 (4 * x.len), run := q.run.map (fun y => { f y with pos := (f y).pos + 1 }) } : Path)
    let target := x.pc + 4 * ofs.signExtend 64
    Moves (.lbr p ofs) s x (on (fun y => { y with branch := y.branch ++ [(x.act p, target)], regroup := none })) ∧
    Moves (.lbrRg p ofs lg lq) s x (on (fun y => { y with branch := y.branch ++ [(x.act p, target)], regroup := some (lg, lq) })) ∧
    Moves (.lexit p) s x (on (fun y => { y with exits := y.exits ||| x.act p })) ∧
    ∀ (y : Run) (q : Path) (next : DWord) (m : Mask) (t : DWord),
      (y.branch = [(m, t)] → y.exits = 0 → m &&& ~~~q.lanes = 0 →
        (leaveRun y q next).map (fun z => (z.lanes, z.pc, z.run)) =
          ([(m, t, none), (q.lanes &&& ~~~m, next, none)] : List (Mask × DWord × Option Run)).filter (fun z => z.1 ≠ 0)) ∧
      (y.branch = [] → (leaveRun y q next).map (fun z => (z.lanes, z.pc, z.run)) =
        ([(q.lanes &&& ~~~y.exits, next, none)] : List (Mask × DWord × Option Run)).filter (fun z => z.1 ≠ 0))

/-- RUNE ends the run of its path: the run's results belong to no open run any more, the path's lanes leave to their places (R180, R418), the V registers of the
published range with a pending write are noted (R185), and a gang with no lane left ends (R420). Outside a run, or with a range that R18 and R374 do not allow, it
traps with RUNFORM (R374, R383). -/
def Obligations.RunEnd : Prop :=
  ∀ (s : State) (x : Iss) (va : BitVec 7) (k : BitVec 4) (g : Gang), s.iss = some x → s.gang? x.k = some g →
    let good := k.toNat ≤ 8 ∧ va.toNat + k.toNat ≤ 112
    (x.path.run = none ∨ ¬ good → exec (.rune va k) s = .next (s.trap x.k x.path.lanes x.pc 0x0005)) ∧
    ∀ r, x.path.run = some r → good → r.closes = false → (r.regroup = none ∨ s.mayRegroup x.k g x.path.lanes = false) →
      let ps := g.paths.flatMap (fun q => if q.lanes = x.path.lanes then leaveRun r q (x.pc + BitVec.ofNat 64 (4 * x.len)) else [q])
      ∃ t h, exec (.rune va k) s = .next t ∧ t.gang? x.k = some h ∧ h.paths = ps ∧
        h.pend = g.pend.map (fun y => if y.run = r.uid then { y with run := 0 } else y) ∧
        (∀ n, n ∈ h.pub ↔ n ∈ g.pub ∨ (va.toNat ≤ n ∧ n < va.toNat + k.toNat ∧ n ∈ s.vWaits x.k (g.closeRun r.uid))) ∧
        h.stop = (if ps = [] then .ending else g.stop) ∧
        h.v = g.v ∧ h.t = g.t ∧ h.p = g.p ∧ h.g = g.g ∧ h.q = g.q ∧ h.ops = g.ops ∧ t.mem = s.mem ∧ t.adm = s.adm ∧
        ∀ j, j ≠ x.k → t.gang? j = s.gang? j

/-- RUNB, where its run's words hold no decode error, opens the run on its path: positions from 0, the temporaries of its lanes 0, staging for as many issue clk as
the working set fills entries of the operand buffer (R178, R181, R182). A header of a wrong form, or one inside a run, traps with RUNFORM, and an error in a word of
the run traps there with its cause (R180, R374). -/
def Obligations.RunBegin : Prop :=
  ∀ (s : State) (x : Iss) (n : BitVec 5) (va : BitVec 7) (k : BitVec 4) (g : Gang), s.iss = some x → s.gang? x.k = some g →
    let good := x.run = 0 ∧ 1 ≤ n.toNat ∧ n.toNat ≤ 24 ∧ k.toNat ≤ 8 ∧ va.toNat + k.toNat ≤ 112
    let scan := s.scanRun x.g x.ctx n.toNat va.toNat k.toNat (n.toNat + 1) 0 (x.pc + 4)
    (¬ good → exec (.runb n va k) s = .next (s.trap x.k x.path.lanes x.pc 0x0005)) ∧
    (good → ∀ c pc, scan = .bad c pc → exec (.runb n va k) s = .next ((s.openRun x n.toNat va.toNat k.toNat).trap x.k x.path.lanes pc c)) ∧
    (good → scan = .ok → s.prot? x.g.team = none →
      ∃ t h, exec (.runb n va k) s = .next t ∧ t.gang? x.k = some h ∧
        let till := s.issueClk g.die ((g.halves va.toNat k.toNat + 7) / 8)
        h.paths = g.paths.map (fun q => if q.lanes = x.path.lanes then
          { q with pc := x.pc + 4, hold := till,
                   run := some ⟨s.clk.fresh, x.pc, n.toNat, va.toNat, k.toNat, 0, till, [], 0, none, false, 0⟩ } else q) ∧
        (∀ i < g.t.length, ∀ l < 32, x.path.lanes.has l = true → h.tlane i l = 0) ∧
        h.g = g.g ∧ h.q = g.q ∧ h.ops = g.ops ∧ t.mem = s.mem ∧ t.adm = s.adm ∧ ∀ j, j ≠ x.k → t.gang? j = s.gang? j)

/-- WAITC passes where the four counters are at or below its thresholds, else its path waits for that (R384, R188); BARTM and an acquisition of a flume, BOWAIT and
TASKDONE wait for what they name (R385, R467, R470, R488). FENCE passes where what it waits for has happened, else its path waits: under rel and sc for every earlier
write of the gang to be complete at the scope, under acq and sc for every earlier load and value-returning atomic to be complete (R235, R458); FENCE_RESUME lets the
paths go on whose fence is done. -/
def Obligations.PathsWait : Prop :=
  (
    ∀ (s : State) (x : Iss) (p : Pred) (a b c d : BitVec 4) (u : USrc) (e : UDst), s.iss = some x → x.qp p = true →
      let ok := x.g.count 0 ≤ a.toNat ∧ x.g.count 1 ≤ b.toNat ∧ x.g.count 2 ≤ c.toNat ∧ x.g.count 3 ≤ d.toNat
      (ok → Passes (.waitc p a b c d) s x) ∧
      (¬ ok → Waits (.waitc p a b c d) s x (.ctr a.toNat b.toNat c.toNat d.toNat)) ∧
      Waits (.bartm p) s x .bar ∧
      Waits (.flacq p e u) s x (.flacq (x.u u) e (s.clk.now + 20)) ∧
      Waits (.bowait p u) s x (.bo (x.u u) (s.clk.now + 20)) ∧
      (s.tasksDone x.k x.g = true → Passes (.taskdone p) s x) ∧
      (s.tasksDone x.k x.g = false → Waits (.taskdone p) s x (.task x.pc))) ∧
  (
    ∀ (s : State) (x : Iss) (p : Pred) (kind : FKind) (sc : Scope), s.iss = some x → x.qp p = true →
      let upto := s.upto x.path
      let rel := x.g.writes.all (fun w => decide (upto ≤ w.req) || (match sc with
        | .gang => true
        | .team => w.acked
        | _ => w.acked && decide (w.gwct + (if w.far then 120 else 0) ≤ s.clk.now)))
      let acq := x.g.ops.all (fun o => decide (upto ≤ o.id) || o.cls != 0 || o.done)
      let done := (kind = .acq ∨ rel = true) ∧ (kind = .rel ∨ acq = true)
      (s.prot? x.g.team = none → (done → Passes (.fence p kind sc) s x) ∧ (¬ done → Waits (.fence p kind sc) s x (.fence kind sc upto))) ∧
      ∀ (u : State) (g : Gang), u.gang? u.clk.subj.a = some g →
        exec .fenceResume u = .next (u.setGang u.clk.subj.a { g with paths := g.paths.map (fun q => match q.wait with
          | .fence kd scp up => if g.fenceDone u.clk.now up kd scp then { q.next q.wlen with wait := .none } else q
          | _ => q) }))

/-! ## Traps -/

/-- TRAP raises TRAPINS, and inside a handler TRAP.ret returns from it; BKPT traps with BKPT; an unassigned encoding with ILLENC, a reserved field that is not zero
with RSVFIELD: each at its own address (R189, R399, R400). -/
def Obligations.TrapInstructions : Prop :=
  ∀ (s : State) (x : Iss) (p : Pred) (tag : BitVec 16), s.iss = some x →
    let raise := fun (c : Nat) => s.trap x.k x.path.lanes x.pc c
    (x.qp p = true →
      exec (.trap p false) s = .next (raise 0x0007) ∧ exec (.bkpt p tag) s = .next (raise 0x0008) ∧
      (x.g.inHandler = false → exec (.trap p true) s = .next (raise 0x0007)) ∧
      (x.g.inHandler = true → exec (.trap p true) s = .next (s.modGang x.k (fun g => g.trapReturn s.clk.now (x.g.g.getD 60 0))))) ∧
    exec (.unassignedEncoding false) s = .next (raise 0x0001) ∧ exec (.unassignedEncoding true) s = .next (raise 0x0002)

/-- TAKING A TRAP (R190, R192): G60 and G61 go to the shadow; G60 becomes the resume address and G61 the trapping instruction's; TRAPCAUSE holds the slots of the
trapping path, whether it lay inside a run, and the cause; every other path's address is saved, and all live lanes start as one path at TRAPVEC, in the handler.
Every other register, the counters and the operations stand as they stood, once what has landed is written. -/
def Obligations.TrapEntry : Prop :=
  ∀ (g : Gang) (now : Nat) (t : TrapPend),
    let u := g.settle (now + 1)
    let h := g.enterTrap now t
    h = { u with
      shadow := (u.g.getD 60 0, u.g.getD 61 0), g := lset (lset u.g 60 t.resume) 61 t.pc, trapcause := h.trapcause
      saved := (u.paths.filter (fun p => p.lanes ≠ t.lanes)).map (fun p => (p.lanes, p.pc)), trapLanes := t.lanes
      inHandler := true, trapPend := none, paths := [⟨u.trapvec, u.live, none, 0, 0, .none, 0⟩] } ∧
    (t.cause < 2 ^ 16 → h.trapcause.extractLsb' 32 32 = t.lanes ∧ h.trapcause.extractLsb' 17 15 = 0 ∧
      h.trapcause.getLsbD 16 = t.inRun ∧ h.trapcause.extractLsb' 0 16 = BitVec.ofNat 16 t.cause) ∧
    (62 ≤ u.g.length → h.g.getD 60 0 = t.resume ∧ h.g.getD 61 0 = t.pc)

/-- When a trap is delivered (R190): where TRAPVEC, as the path reads it, is not 0, the gang is in no handler and belongs to no rival. Then it is entered at once if
no path is inside a run and no SFU result is outstanding, else it waits with its path stopped at the address resumed at: the RUNB inside a run, else the trapping
instruction. The rest of the part is unchanged. When no trap is delivered (R150, R190): an error record with the cause is written, DOUBLE (0x000A) inside a handler,
and the gang ends as at EXIT. (Stated for a gang of no rival and a cause that writes no record of its own.) -/
def Obligations.TrapTaken : Prop :=
  (
    ∀ (s : State) (k : Nat) (lanes : Mask) (pc : DWord) (cause : Nat) (g : Gang), s.gang? k = some g →
      (g.view s.clk.now 0 0 lanes).trapvec ≠ 0 → g.inHandler = false → s.rivalOf g = none →
      let run := ((g.view s.clk.now 0 0 lanes).path? lanes).bind Path.run
      let resume := (run.map Run.hdr).getD pc
      let t : TrapPend := ⟨cause, lanes, run.isSome, resume, pc⟩
      ∃ h u, s.trap k lanes pc cause = s.setGang k h ∧
        u.trapPend = some t ∧ u.trapvec = (g.view s.clk.now 0 0 lanes).trapvec ∧
        u.paths = g.paths.map (fun p => if p.lanes = lanes then { p with pc := resume, run := none, wait := .none } else p) ∧
        u.g = g.g ∧ u.v = g.v ∧ u.t = g.t ∧ u.p = g.p ∧ u.q = g.q ∧ u.ops = g.ops ∧ u.sfu = g.sfu ∧
        h = (if u.sfu = 0 ∧ (∀ p ∈ u.paths, p.run = none) then u.enterTrap s.clk.now t else u)) ∧
  (
    ∀ (s : State) (k : Nat) (lanes : Mask) (pc : DWord) (cause : Nat) (g : Gang), s.gang? k = some g → s.rivalOf g = none → cause < 256 →
      ((g.view s.clk.now 0 0 lanes).trapvec = 0 ∨ g.inHandler = true) →
      ∃ t h e, s.trap k lanes pc cause = t ∧ t.gang? k = some h ∧ h.paths = [] ∧ h.stop = .ending ∧ h.trapPend = none ∧
        h.ops = g.ops ∧ h.g = g.g ∧ h.v = g.v ∧ t.mem = s.mem ∧
        e.cause = (if g.inHandler then 0x000A else cause) ∧ e.access = 3 ∧ e.tenant = s.ctxOf g ∧ e.addr = pc ∧ e.lanes = lanes ∧ e.time = s.clk.now ∧
        t.adm = { s.adm with errlog := mput (s.ctxOf g) ((mget (s.ctxOf g) s.adm.errlog).getD [] ++ [e]) s.adm.errlog })

/-- RETURNING FROM A TRAP (R191, R399): the trapping path's live lanes go on at the address in G60, every other live lane at its saved address, G60 and G61 are
restored from the shadow, and the gang has left its handler. No path resumes inside a run, so a RUNB that is resumed at stages and issues its run again. -/
def Obligations.TrapReturn : Prop :=
  ∀ (g : Gang) (now : Nat) (g60 : DWord),
    let u := g.settle (now + 1)
    let h := g.trapReturn now g60
    h = { u with paths := h.paths, g := lset (lset u.g 60 u.shadow.1) 61 u.shadow.2, inHandler := false, saved := [], trapLanes := 0 } ∧
    ∀ l < 32, u.live.has l = true →
      (u.trapLanes.has l = true → (∀ y ∈ u.saved, y.1.has l = false) → ∃ p ∈ h.paths, p.lanes.has l = true ∧ p.pc = g60 ∧ p.run = none) ∧
      (∀ y ∈ u.saved, y.1.has l = true → ∃ p ∈ h.paths, p.lanes.has l = true ∧ p.pc = y.2 ∧ p.run = none)

/-! ## Memory instructions -/

/-- The addresses of lane and uniform memory operands (R358, R446, R390): the base plus the index of the lane, read as signed, times 2^SC, plus the offset, modulo
2^64; in the short form OC stands for (OC mod 4) · 4^(OC/4 + 1), and without an index the offset is 4 times a signed field. Lane and uniform memory instructions
issue their requests (R390 to R392, R446 to R457, R464, R465): what each asks, of which lanes, with which data and destination, in which counter (0 LDC, 1 STC, 4
none). Stores enter their gang's store hash first (R280); a release form orders what comes before it; an acquire form is marked to hold what follows. (Stated for a
context whose loads are not being sampled.) -/
def Obligations.MemoryRequests : Prop :=
  (
    ∀ (x : Iss) (l : Nat) (b : Option (Fin 15)) (c : Option (Fin 62)) (w : Fin 8) (sc : Fin 4) (lit : Word) (u : USrc) (len : Nat),
      let b15 : DWord := (b.map (fun n => x.u (.g ⟨n.val, by omega⟩))).getD 0
      let b62 : DWord := (c.map (fun n => x.u (.g n))).getD 0
      let index := (x.g.vlane ((x.path.run.map Run.va).getD 0 + w.val) l).signExtend 64 * BitVec.ofNat 64 (2 ^ sc.val)
      (∀ oc, LMem.at_ ⟨b, .indexed w sc oc⟩ x l = b15 + (index + BitVec.ofNat 64 (oc.val % 4 * 4 ^ (oc.val / 4 + 1)))) ∧
      (∀ ofs, LMem.at_ ⟨b, .direct ofs⟩ x l = b15 + ofs.signExtend 64 * 4) ∧
      LXMem.at_ ⟨c, some (w, sc), some lit⟩ x l = b62 + (index + lit.signExtend 64) ∧
      LXMem.at_ ⟨c, some (w, sc), none⟩ x l = b62 + index ∧
      LXMem.at_ ⟨c, none, some lit⟩ x l = b62 + lit.signExtend 64 ∧ LXMem.at_ ⟨c, none, none⟩ x l = b62 ∧
      (∀ o : BitVec 5, x.uaddr u (.imm o) len = x.u u + o.signExtend 64 * BitVec.ofNat 64 len) ∧
      x.uaddr u (.lit lit) len = x.u u + lit.signExtend 64) ∧
  (
    ∀ (s : State) (x : Iss) (p : Pred), s.iss = some x → mget x.ctx s.adm.samples = none →
      let act := x.act p
      (act ≠ 0 →
        (∀ d m, Asks (.ld p d m) s s x (m.at_ x) 4 false
          { x.req .ld (m.baseOf x) (x.indexRow m.ws) act 4 0 with dest := destOf d false }) ∧
        (∀ sz acq nl d m, Asks (.ldLong p sz acq nl d m) s s x (m.at_ x) sz.bytes false
          { x.req .ld (m.baseOf x) (x.indexRow m.ws) act sz.bytes 0 with
            dest := destOf d sz.wide, signed := sz.sgn, fill := !nl, home := (acq.map wideScope).getD false, acq := acq.isSome }) ∧
        (∀ a m, let data := cutData 4 (x.dataOf false a)
          Asks (.st p a m) s (s.hash x act (m.at_ x) data) x (m.at_ x) 4 false
            { x.req .st (m.baseOf x) (x.indexRow m.ws) act 4 1 with data := data }) ∧
        (∀ sz rel a m, let data := cutData sz.bytes (x.dataOf sz.wide a)
          Asks (.stLong p sz rel a m) s ((s.ordering x rel).hash x act (m.at_ x) data) x (m.at_ x) sz.bytes false
            { x.req .st (m.baseOf x) (x.indexRow m.ws) act sz.bytes 1 with data := data }) ∧
        (∀ op d b a, Asks (.atom p op d b a) s s x (fun _ => baseOnly b x) 4 true
          { x.req .atom (baseOnly b x) [] act 4 0 with
            dest := destOf d false, op := op.op, signed := true, data := x.dataOf false a, cmp := x.dataOf false a }) ∧
        (∀ op b a, Asks (.atomNoret p op b a) s s x (fun _ => baseOnly b x) 4 true
          { x.req .atom (baseOnly b x) [] act 4 1 with
            op := op.op, signed := true, data := x.dataOf false a, cmp := x.dataOf false a }) ∧
        (∀ op sz ord d m a, let wide := sz.bytes == 8
          let rel : Option Scope := match ord with
            | .rel sc => some sc
            | .ar sc => some sc
            | _ => none
          let isAcq := match ord with
            | .acq _ | .ar _ => true
            | _ => false
          Asks (.atomLong p op sz ord d m a) s (s.ordering x rel) x (m.at_ x) sz.bytes true
            { x.req .atom (m.baseOf x) (x.indexRow m.ws) act sz.bytes (if d.isSome then 0 else 1) with
              dest := (d.map (fun r => destOf r wide)).getD .none
              op := op, signed := sz.cmpSigned, acq := isAcq
              data := if op = .cas then x.casOf wide a else x.dataOf wide a
              cmp := x.dataOf wide a }) ∧
        (∀ sl m, Asks (.pref p sl m) s s x (m.at_ x) 1 false { x.req .pref (m.baseOf x) (x.indexRow m.ws) act 1 4 with fill := !sl }) ∧
        (∀ a m, Asks (.dset p a m) s s x (fun l => m.at_ x l &&& ~~~63) 2 false
          { x.req .dset (m.baseOf x) (x.indexRow m.ws) act 2 1 with data := cutData 2 (x.dataOf false a) }) ∧
        (∀ d m, Asks (.dget p d m) s s x (fun l => m.at_ x l &&& ~~~63) 4 false
          { x.req .dget (m.baseOf x) (x.indexRow m.ws) act 4 0 with dest := destOf d false })) ∧
      (x.qp p = true →
        (∀ sz (d : Fin 62) b off, let a := x.uaddr b off sz.bytes
          Asks (.ldUniform p sz (.g d) b off) s s x (fun _ => a) sz.bytes false
            { x.req .uld a [] 1 sz.bytes 0 with dest := .g d.val, signed := sz.sgn }) ∧
        (∀ sz b off, let a := x.uaddr b off sz.bytes
          Asks (.ldUniform p sz .zero b off) s s x (fun _ => a) sz.bytes false
            { x.req .uld a [] 1 sz.bytes 0 with dest := .g 62, signed := sz.sgn }) ∧
        ∀ sz v b off, let a := x.uaddr b off sz.bytes
          let data := cutData sz.bytes [x.ud v]
          let u := if x.run = 0 && s.overflows x.g (blocksOf a sz.bytes) then s.closeBy x none else s
          Asks (.stUniform p sz v b off) s (u.hash x 1 (fun _ => a) data) x (fun _ => a) sz.bytes false
            { x.req .ust a [] 1 sz.bytes 1 with data := data }))

/-- A request that issues changes no register of any gang and no byte of memory: it counts, it is sent or held, and what it brings comes later (R187, R253). The
request takes the next unused number; where a protected team holds it, that is all that becomes of it now. -/
def Obligations.RequestsChangeNothingElse : Prop :=
  ∀ (s : State) (q : Req), q.sample = none →
    let t := s.newReq q
    (∀ a, readByte t.mem.bytes a = readByte s.mem.bytes a) ∧
    (∀ k g, s.gang? k = some g → ∃ h, t.gang? k = some h ∧
      h = { g with reqs := h.reqs, ops := h.ops, writes := h.writes, acq := h.acq, pend := h.pend, stop := h.stop, errs := h.errs }) ∧
    ∀ g hg, s.gang? q.gang = some g → q.parts ≠ [] → q.kind.writes = true → q.grp = some hg → s.chainBehind q.gang (q.parts.map Part.blk) = none →
      t.req? s.clk.fresh = some { q with parts := q.parts.map (fun p => { p with st := .held hg.1 hg.2 }) } ∧ t.clk.fresh = s.clk.fresh + 1 ∧
      t.gang? q.gang = some { g with
        reqs := g.reqs + 1, writes := g.writes ++ [⟨s.clk.fresh, s.clk.fresh, false, 0, false⟩]
        ops := if q.cls < 4 then g.ops ++ [⟨s.clk.fresh, q.cls, false⟩] else g.ops
        acq := if q.acq then g.acq ++ [s.clk.fresh] else g.acq }

/-- A home accepts a request that reaches its queue free and awake, by a free link between the dies, behind no earlier request of its gang (R35, R199, R205, R225). A plain store writes its bytes there,
the last access that covers a byte staying, and not one byte else (R227, R233); a load is answered with the bytes that stand there; an atomic answers the old value
and writes the new one (R455). (Stated for a page that checks no tags, no rival, a block without stored errors, poison, or held stores.) -/
def Obligations.HomeAccepts : Prop :=
  ∀ (s : State) (r b : Nat) (q : Req) (p : Part) (g : Gang) (h : Home),
    s.req? r = some q → q.parts[b]? = some p → s.gang? q.gang = some g → p.home = some h →
    let u := match h with
      | .slice d => s.arrUse (bankArr d p.loc)
      | .window c => s.arrUse (spArr c)
      | _ => (s.clk.now, s)
    (s.clk.subj.a = r → s.clk.subj.b = b → p.st = .flying → (∀ d, h ≠ .out d) → u.2.portDown h = false →
      (s.homeDie h = g.die ∨ mgetD 0 (meshQueue g.die (s.homeDie h)) s.mem.busy ≤ s.clk.now) →
      max u.1 (mgetD 0 h.queue s.mem.busy) ≤ s.clk.now → (q.kind ≠ .atom ∨ s.sessOf g = none) → u.2.earlier r q p (leafTso p.leaf) = none →
      exec .requestAccept s = .next ((u.2.modPart r b (fun p => { p with till := none })).perform r b q p g h)) ∧
    (leafTagck p.leaf = false → p.spec = false → s.rivalOf g = none →
      let t := s.perform r b q p g h
      let base := p.loc * 64
      let block := readBytes s.mem.bytes base 64
      let here := fun (d : List (List Byte)) => ∃ q' p', t.req? r = some q' ∧ q'.parts[b]? = some p' ∧ p'.st = .accepted ∧ p'.data = d
      ((q.kind = .st ∨ q.kind = .ust) → Memory.wf s.mem.bytes = true → windowZero base = false →
        ∀ a, readByte t.mem.bytes a =
          match (p.accs.filter (fun y => decide (a / 64 = p.loc ∧ y.addr.toNat % 64 ≤ a % 64 ∧ a % 64 < y.addr.toNat % 64 + y.len))).getLast? with
          | some y => (q.accBytes y).getD (a % 64 - y.addr.toNat % 64) 0
          | none => readByte s.mem.bytes a) ∧
      (s.flipsOf p.loc = [] → poisoned (s.descOf p.loc) = false →
        (q.kind = .ld → here (p.slice (s.reqView r q p.blk (block, s.descOf p.loc)).1) ∧ ∀ a, readByte t.mem.bytes a = readByte s.mem.bytes a) ∧
        (∀ y v, q.kind = .atom → p.accs = [y] → y.addr.toNat % 64 + y.len ≤ 64 → Memory.wf s.mem.bytes = true → windowZero base = false →
          let old := (block.drop (y.addr.toNat % 64)).take y.len
          atomNew q.op q.signed (8 * y.len) (ofBytes old) (q.data.getD y.lane 0).toNat (q.cmp.getD y.lane 0).toNat = some v →
          here [old] ∧ ∀ a, readByte t.mem.bytes a =
            if base + y.addr.toNat % 64 ≤ a ∧ a < base + y.addr.toNat % 64 + y.len then (toBytes y.len v).getD (a - (base + y.addr.toNat % 64)) 0
            else readByte s.mem.bytes a)))

/-- The values of atomics (R454, R455), for old value `o` and operand `v` of w bits: cas writes its new value where the old one is the compare value, and nothing
otherwise; min and max compare as signed or as unsigned. -/
def Obligations.AtomicValues : Prop :=
  ∀ (w : Nat) (sg : Bool) (o v c : BitVec w), 0 < w →
    let r := fun (op : AOp) => atomNew op sg w o.toNat v.toNat c.toNat
    let less := fun (a b : BitVec w) => if sg then a.toInt < b.toInt else a.toNat < b.toNat
    r .add = some (o + v).toNat ∧ r .xchg = some v.toNat ∧ r .and = some (o &&& v).toNat ∧ r .or = some (o ||| v).toNat ∧ r .xor = some (o ^^^ v).toNat ∧
    (less v o → r .min = some v.toNat) ∧ (¬ less v o → r .min = some o.toNat) ∧
    (less o v → r .max = some v.toNat) ∧ (¬ less o v → r .max = some o.toNat) ∧
    (o = c → r .cas = some v.toNat) ∧ (o ≠ c → r .cas = none)

/-- Answers (R105, R106, R188, R233): when the one part of a load that is left answers, its values are sent to its registers and the request and its place in the
counter are done; a store that is acknowledged is complete and known with its GWCT. No byte of memory changes. A value is its bytes, extended as the access size says
(R447), and all ones where a byte failed. -/
def Obligations.Answers : Prop :=
  (∀ (s : State) (r : Nat) (q : Req) (p : Part) (g : Gang), s.req? r = some q → s.gang? q.gang = some g → q.parts = [p] → p.st = .accepted →
    (∀ d, p.home ≠ some (.out d)) → q.sample = none → p.line = none → s.prot? g.team = none → Map.wf s.mem.reqs = true → s.clk.subj.a = r → s.clk.subj.b = 0 →
    s.clk.subj.c = 0 →
    let done := if q.cls < 4 then dropDone q.cls (g.ops.map (fun o => if o.id = r ∧ o.cls = q.cls then { o with done := true } else o)) else g.ops
    let gone := fun (t : State) => t.req? r = none ∧ ∀ a, readByte t.mem.bytes a = readByte s.mem.bytes a
    ((q.kind = .ld ∨ q.kind = .uld ∨ q.kind = .dget) → q.lanes ≠ 0 → (∀ l < 32, q.lanes.has l = true → ∃ y ∈ p.accs, y.lane = l) →
      ∃ t h, exec .loadComplete s = .next t ∧ gone t ∧ t.gang? q.gang = some h ∧
        h = { g with ops := done, acq := g.acq.filter (· ≠ r), pend := h.pend } ∧
        (∀ w ∈ q.lands q.lanes, ∃ y ∈ h.pend, y.w = w ∧ y.land = s.clk.now ∧ y.fixed = false) ∧
        ∀ y ∈ h.pend, y ∈ g.pend ∨ y.w ∈ q.lands q.lanes) ∧
    ((q.kind = .st ∨ q.kind = .ust ∨ q.kind = .dset) → ∃ t, exec .storeAck s = .next t ∧ gone t ∧ t.gang? q.gang = some { g with
        ops := done, acq := g.acq.filter (· ≠ r)
        writes := g.writes.map (fun w => if w.req = r then { w with
          acked := true, gwct := max w.gwct p.gwct
          far := w.far || (match p.home with
            | some (.peer _ false) => s.adm.locked
            | _ => false) } else w) })) ∧
  ∀ (n : Nat) (v : BitVec (8 * n)) (bs : List (Option Byte)) (sg : Bool), 0 < n → n ≤ 4 →
    extendBytes sg ((toBytes n v.toNat).map some) = (if sg then v.signExtend 32 else v.setWidth 32) ∧ (none ∈ bs → extendBytes sg bs = 0xFFFFFFFF)

/-! ## Scratchpad, flumes and barrier objects -/

/-- Scratchpad instructions issue their accesses, which perform 20 clk later (R197, R228, R450, R455, R466, R469): loads and stores in LDC and STC, FLINIT, FLREL and
BOARM in no counter. -/
def Obligations.ScratchpadRequests : Prop :=
  ∀ (s : State) (x : Iss) (p : Pred), s.iss = some x →
    let act := x.act p
    (act ≠ 0 →
      (∀ d m, AsksPad (.lds p d m) s s x (m.at_ x) 4 false { x.req .lds (m.baseOf x) (x.indexRow m.ws) act 4 0 with dest := destOf d false }) ∧
      (∀ sz acq d m, AsksPad (.ldsLong p sz acq d m) s s x (m.at_ x) sz.bytes false
        { x.req .lds (m.baseOf x) (x.indexRow m.ws) act sz.bytes 0 with dest := destOf d sz.wide, signed := sz.sgn }) ∧
      (∀ a m, let data := cutData 4 (x.dataOf false a)
        AsksPad (.sts p a m) s (s.hash x act (m.at_ x) data) x (m.at_ x) 4 false
          { x.req .sts (m.baseOf x) (x.indexRow m.ws) act 4 1 with data := data }) ∧
      (∀ sz rel a m, let data := cutData sz.bytes (x.dataOf sz.wide a)
        AsksPad (.stsLong p sz rel a m) s ((s.ordering x rel).hash x act (m.at_ x) data) x (m.at_ x) sz.bytes false
          { x.req .sts (m.baseOf x) (x.indexRow m.ws) act sz.bytes 1 with data := data }) ∧
      (∀ op sz d m a, AsksPad (.atoms p op sz d m a) s s x (m.at_ x) sz.bytes true
        { x.req .atoms (m.baseOf x) (x.indexRow m.ws) act sz.bytes (if d.isSome then 0 else 1) with
          dest := (d.map (fun r => destOf r sz.wide)).getD .none
          op := op, signed := sz.cmpSigned
          data := if op = .cas then x.casOf sz.wide a else x.dataOf sz.wide a
          cmp := x.dataOf sz.wide a })) ∧
    (x.qp p = true →
      let sends := fun (i : Instr) (kind : RKind) (a : DWord) (data : List DWord) =>
        exec i s = .next (((s.takeFresh.2.setReq s.clk.fresh { x.req kind a [] 0 0 4 with data := data }).sched (s.clk.now + 20) .scratchpadPerform
          s.clk.fresh).pass x)
      ∀ (a b : USrc) (n : Fin 16) (sb : BitVec 10),
        sends (.flinit p a n sb) .flinit (x.u a) [BitVec.ofNat 64 (n.val + 1), BitVec.ofNat 64 (64 * (sb.toNat + 1))] ∧
        sends (.flrel p a) .flrel (x.u a) [] ∧ sends (.boarm p a b) .boarm (x.u a) [x.u b])

/-- A scratchpad access performs when its array is awake, behind those that issued before it and the blocks that a snapshot or rollback of its team has still to take (R228,
R260, R266, R273): a store writes its bytes, an atomic the new value at its place, a load nothing, in lanes whose
bytes lie below SP; a lane that does not lie below SP fails with SPADRANGE (R197). FLINIT writes a fresh control block (R213), FLREL frees the first slot from WSLOT
on that its gang holds (R216), BOARM arms its object (R469). No byte of memory changes. A waiting acquisition is served in order (R215, R467): it takes slot RSLOT,
which its gang then holds, RSLOT goes on modulo NSLOT, and it returns the address of the slot's data. A path at BOWAIT goes on when its object is not armed, or when
its count is 0, which disarms it (R470). -/
def Obligations.ScratchpadPerforms : Prop :=
  (
    ∀ (s : State) (r : Nat) (q : Req) (g : Gang) (t : Team), s.clk.subj.a = r → s.req? r = some q → s.gang? q.gang = some g → s.team? g.team = some t →
      Memory.wf t.sp = true → (s.arrUse (spArr g.cluster)).1 ≤ s.clk.now → s.padDue g.cluster = [r] → s.spWaits g.team q.padBlks.1 q.padBlks.2 = false →
      let off := q.base.toNat
      let accs := (q.parts.head?.map Part.accs).getD []
      let becomes := fun (f : Nat → Byte) => ∃ u tm, exec .scratchpadPerform s = .next u ∧ u.team? g.team = some tm ∧ (∀ a, readByte tm.sp a = f a) ∧
        ∀ a, readByte u.mem.bytes a = readByte s.mem.bytes a
      let put := fun (at_ : Nat) (bs : List Byte) (a : Nat) => if at_ ≤ a ∧ a < at_ + bs.length then bs.getD (a - at_) 0 else readByte t.sp a
      let inside := fun (y : Acc) => decide (y.addr.toNat + y.len ≤ t.spSize)
      (q.kind = .sts → becomes (fun a =>
        match ((accs.filter inside).filter (fun y => decide (y.addr.toNat ≤ a ∧ a < y.addr.toNat + y.len))).getLast? with
        | some y => (q.accBytes y).getD (a - y.addr.toNat) 0
        | none => readByte t.sp a)) ∧
      (q.kind = .lds → becomes (readByte t.sp)) ∧
      (∀ y v, q.kind = .atoms → accs = [y] → 0 < y.len → inside y = true → t.spDesc = [] →
        atomNew q.op q.signed (8 * y.len) (ofBytes (readBytes t.sp y.addr.toNat y.len)) (q.data.getD y.lane 0).toNat (q.cmp.getD y.lane 0).toNat = some v →
        becomes (put y.addr.toNat (toBytes y.len v))) ∧
      (q.kind = .flinit →
        let n := (q.data.getD 0 0).toNat
        let b := (q.data.getD 1 0).toNat
        (off % 64 = 0 ∧ off + 64 + n * b ≤ t.spSize →
          becomes (put off (toBytes 1 n ++ toBytes 3 0 ++ toBytes 4 b ++ toBytes 8 0 ++ List.replicate 16 0xFF ++ List.replicate 32 0))) ∧
        (¬ (off % 64 = 0 ∧ off + 64 + n * b ≤ t.spSize) → becomes (readByte t.sp))) ∧
      (q.kind = .flrel → ∀ n b k, t.flume q.base = .ok (n, b) → t.heldSlot off n g.gangid = some k → becomes (put (off + 0x10 + k) [0xFF])) ∧
      (q.kind = .boarm →
        (off % 8 = 0 ∧ off + 8 ≤ t.spSize → becomes (put off (toBytes 8 (2 ^ 63 + (q.data.getD 0 0).toNat % 2 ^ 40)))) ∧
        (¬ (off % 8 = 0 ∧ off + 8 ≤ t.spSize) → becomes (readByte t.sp)))) ∧
  (
    ∀ (s : State) (tk k : Nat) (t : Team) (g : Gang) (lanes : Mask) (p : Path), s.team? tk = some t → s.gang? k = some g → g.team = tk → g.path? lanes = some p →
      (∀ a d since n b r, s.acquirer t = some (k, lanes) → p.wait = .flacq a d since → t.flume a = .ok (n, b) → t.filledSlot a.toNat n = some r →
        s.flacqServe tk t = (((s.modTeam tk (fun t => { t with
          sp := writeBytes (writeBytes t.sp (a.toNat + 0x10 + r) (toBytes 1 g.gangid)) (a.toNat + 9) (toBytes 1 ((r + 1) % n)) })).landVar k 0 lanes p.pc .general
            (writeG d (a + 64 + BitVec.ofNat 64 (r * b)))).resume k lanes)) ∧
      (∀ a, a.toNat % 8 = 0 → a.toNat + 8 ≤ t.spSize →
        let v := ofBytes (readBytes t.sp a.toNat 8)
        (v < 2 ^ 63 → s.bowaitTry k g lanes a = s.resume k lanes) ∧
        (2 ^ 63 ≤ v → v % 2 ^ 40 = 0 → s.bowaitTry k g lanes a =
          (s.modTeam tk (fun t => { t with sp := writeBytes t.sp a.toNat (toBytes 8 (v - 2 ^ 63)) })).resume k lanes) ∧
        (2 ^ 63 ≤ v → v % 2 ^ 40 ≠ 0 → s.bowaitTry k g lanes a = s)))

/-! ## Checkpoints, firmware calls, wakes -/

/-- PMARK makes a checkpoint of its gang where a session records it (id, SEQ and STOREHASH, R286), and else only passes (R403). FWCALL waits with its arguments for
the service of its number, one trip to the unit that serves it away, and an unknown service answers STATUS 1 in G1 (R401, R402, R474). QSEND proposes a write index:
it is accepted and becomes WIDX, finds the queue full (and then waits in the cistern with `.space`), or is refused and counted; Q says which (R57, R471, R472).
WAKE_MESSAGE is the same for a connection that is up. -/
def Obligations.CallsAndWakes : Prop :=
  (∀ (s : State) (x : Iss) (p : Pred), s.iss = some x → x.qp p = true →
    (s.sessOf x.g = none → Passes (.pmark p) s x) ∧
    (∀ ctx n y id, s.sessOf x.g = some (ctx, n, y) → y.full = false → y.diverged = false → y.replay = false → mget x.k y.ids = some id → y.hcnt < y.hmax →
      let sq := mgetD 0 x.k y.seqs
      exec (.pmark p) s = .next (((((s.modSess ctx (fun z => { z with seqs := mput x.k (sq + 1) z.seqs })).modSess ctx (fun z => { z with hcnt := z.hcnt + 1 })).sessPut
        ctx x.g.die (y.buf + BitVec.ofNat 64 (y.hoff + 16 * y.hcnt)) (toBytes 4 id ++ toBytes 4 sq ++ toBytes 8 x.g.storehash.toNat)).sessPut
        ctx x.g.die (y.buf + 0x10) (toBytes 4 (y.hcnt + 1))).onPath x (fun q => q.next x.len))) ∧
    (∀ svc : BitVec 12,
      let n := svc.toNat
      let arg := fun (i : Nat) => x.g.g.getD i 0
      let die := if 0x010 ≤ n ∧ n ≤ 0x016 then ((mget x.ctx s.mem.roots).map (fun a => paStack a / 3)).getD x.g.die else x.g.die
      let land := s.clk.now + x.trip die
      (∀ e, fwService n (arg 1).toNat (arg 4).toNat = some e → exec (.fwcall p svc) s =
        .next ((s.onPath x (fun q => { q with wait := .fwcall n [arg 1, arg 2, arg 3, arg 4], wlen := x.len })).sched land e x.k)) ∧
      (fwService n (arg 1).toNat (arg 4).toNat = none → ∃ g h, s.gang? x.k = some g ∧
        exec (.fwcall p svc) s = .next { s with work := { s.work with gangs := mput x.k h s.work.gangs } } ∧
        h = { g with
          pend := h.pend
          paths := g.paths.map (fun q => if q.lanes = x.path.lanes then { q.next x.len with hold := land } else q) } ∧
        h.pend.Perm (g.pend ++ [⟨land, x.pos, 0, x.run, false, x.path.lanes, x.pc, .general, .g 1 1⟩]))) ∧
    ∀ (qd : Fin 8) (space : Bool) (a b : USrc), s.rivalOf x.g = none →
      let i : Instr := .qsend p space qd a b
      let qid := (x.u a).toNat % 2 ^ 10
      let peer := (x.u a).toNat / 2 ^ 16 % 2 ^ 12
      let v : Word := (x.u b).setWidth 32
      let form := (x.u a).toNat = qid + peer * 2 ^ 16 ∧ (x.u b).toNat < 2 ^ 32
      (¬ form → AnswersQ i s (s.modQueue qid (fun q => { q with errs := q.errs + 1 })) x x.g.die qd false) ∧
      (form → peer = 0 → ∀ q, s.queue? qid = some q →
        let ahead := (v - q.widx).toNat
        let proper := q.ctx = x.ctx ∧ q.stopped = false ∧ q.dying = false ∧ ahead ≠ 0 ∧ ahead ≤ q.size
        (proper → (v - q.ridx).toNat ≤ q.size → AnswersQ i s (s.modQueue qid (fun q => { q with widx := v })) x (s.queueDie q) qd true) ∧
        (proper → q.size < (v - q.ridx).toNat → space = false → AnswersQ i s s x (s.queueDie q) qd false) ∧
        (proper → q.size < (v - q.ridx).toNat → space = true → AnswersQ i s
          ({ s with
            clk := { s.clk with fresh := s.clk.fresh + 1 }
            work := { s.work with uncs := mput s.clk.fresh ⟨x.k, .qsend qid v, 0x0304, q.base, { x.opEnt with btime := s.clk.now }⟩ s.work.uncs } }.modGang x.k (fun g => { g with uncounted := some s.clk.fresh }))
          x (s.queueDie q) qd true) ∧
        (¬ proper → AnswersQ i s (s.modQueue qid (fun q => { q with errs := q.errs + 1 })) x (s.queueDie q) qd false))) ∧
  (∀ a b, fwService 0x010 a b = some .mapins ∧ fwService 0x011 a b = some .maprem ∧ fwService 0x012 a b = some .mapget ∧ fwService 0x013 a b = some .grant ∧
    fwService 0x014 a b = some .peerbind ∧ fwService 0x015 a b = some .partset ∧ fwService 0x016 a b = some .ctxpart ∧ fwService 0x017 a b = some .sluiceset ∧
    fwService 0x018 a b = some .sluiceget ∧ fwService 0x020 a 1 = some .censusStart ∧ fwService 0x020 a 0 = some .censusStop ∧ fwService 0x021 0 b = some .sampleOff ∧
    (4 ≤ a → a ≤ 20 → fwService 0x021 a b = some .sampleOn) ∧ fwService 0x022 0 b = some .recsessEnd ∧ fwService 0x022 1 b = some .recsessRecord ∧
    fwService 0x022 2 b = some .recsessReplay) ∧
  ∀ (s : State) (conn qid : Nat) (v : Word) (c : Conn) (q : Queue), mget conn s.adm.conns = some c → s.queue? qid = some q →
    let ahead := (v - q.widx).toNat
    let proper := q.ctx = c.ctx ∧ q.stopped = false ∧ q.dying = false ∧ ahead ≠ 0 ∧ ahead ≤ q.size
    (c.up = false → exec (.wakeMessage conn qid v) s = .next s) ∧
    (c.up = true → proper → (v - q.ridx).toNat ≤ q.size → exec (.wakeMessage conn qid v) s = .next (s.modQueue qid (fun q => { q with widx := v }))) ∧
    (c.up = true → ¬ (proper ∧ (v - q.ridx).toNat ≤ q.size) →
      exec (.wakeMessage conn qid v) s = .next (s.modQueue qid (fun q => { q with errs := q.errs + 1 })))

/-! ## Multicasts, tensor records and copies -/

/-- STMC and STRED read their table of 16 pointers as one request that counts in STC (R461, R462); no lane, or no destination selected, gives Gm the result 0 at
once; a pointer whose bits [59:57] are not 0 traps with ADDRFORM (R78); a rival is stopped with RIVALOP (R149). TDLOAD reads the 256 bytes of its record in blocks
and counts in LDC (R486). COPYT and KICK enter their cluster's copy queue and count in CPC (R482, R485). COPY_COMPLETE is a pass of a gang's copy that has moved,
an acknowledgement of a copy's writes that has arrived, or the end of a Casux COPY whose writes can be seen, with the status that it comes with (R63, R66). -/
def Obligations.MulticastsAndCopies : Prop :=
  (∀ (s : State) (x : Iss), s.iss = some x →
    (∀ (p : Pred) (sz : USZ) (rel : Option Scope) (op : StredOp) (a : LSrc) (m : LXMem) (gm : Fin 7),
      let lanes := x.act p
      let base := m.baseOf x
      let sel := (x.g.g.getD gm.val 0).toNat % 65536
      let data := cutData sz.bytes (x.dataOf sz.wide a)
      let zero := fun (u : State) => (u.landVar x.k x.run x.path.lanes x.pc .general [.g gm.val 0]).onPath x (fun p => p.next x.len)
      let casts := fun (i : Instr) (u : State) (mc : Bool) (o : AOp) =>
        (lanes = 0 → exec i s = .next (zero s)) ∧
        (∀ v, lanes ≠ 0 → s.rivalOf x.g = some v →
          exec i s = .next (((s.logGang x.g 0x0111 7 base lanes x.hdr).faultRival v.1 v.2).onPath x (fun p => p.next x.len))) ∧
        (lanes ≠ 0 → s.rivalOf x.g = none →
          (ptrOk base = false → exec i s = .next (s.trapAccess x.k x.path.lanes x.pc 0x0108 7 base lanes)) ∧
          (ptrOk base = true → sel = 0 → exec i s = .next (zero u)) ∧
          (ptrOk base = true → sel ≠ 0 → exec i s = .next ((u.newReq { x.req .tbl base (x.indexRow m.ws) lanes sz.bytes 1 with
            dest := .g gm.val, signed := mc, op := o, data := data, cmp := (List.range 32).map (m.add x), sel := sel, grp := u.grpOf x
            parts := u.partsOf x.g ((List.range 16).flatMap (fun i =>
              (laneAccs 0 (base + BitVec.ofNat 64 (8 * i)) 8 0).map (fun y => { y with off := 8 * i + y.off }))) }).onPath x
                (fun p => p.next x.len))))
      let hashed := match s.vread x.ctx base 8 with
        | .ok bs => (s.ordering x rel).hash x lanes (fun l => BitVec.ofNat 64 (ofBytes bs) + m.add x l) data
        | .error _ => s.ordering x rel
      casts (.stmc p sz rel a m gm) hashed true .add ∧ casts (.stred p op sz rel a m gm) (s.ordering x rel) false op.op) ∧
    ∀ (p : Pred), x.qp p = true →
      (∀ (d : UDst) (a : USrc), let ptr := x.u a
        let r := ptr.toNat % 64
        let accs : List Acc := if r = 0 then (List.range 4).map (fun i => ⟨0, ptr + BitVec.ofNat 64 (64 * i), 64, 64 * i, 0⟩)
          else [(⟨0, ptr, 64 - r, 0, 0⟩ : Acc)] ++ (List.range 3).map (fun i => (⟨0, ptr + BitVec.ofNat 64 (64 * (i + 1) - r), 64, 64 * (i + 1) - r, 0⟩ : Acc)) ++
            [(⟨0, ptr + BitVec.ofNat 64 (256 - r), r, 256 - r, 0⟩ : Acc)]
        (ptrOk ptr = false → exec (.tdload p d a) s = .next (s.trapAccess x.k x.path.lanes x.pc 0x0108 5 ptr 1)) ∧
        (ptrOk ptr = true → exec (.tdload p d a) s = .next ((s.newReq { x.req .unitRead ptr [] 1 256 0 with
          dest := (match d with
            | .g n => .g n.val
            | .zero => .g 62)
          home := true
          parts := accs.map (fun y => Part.new (blkOf y.addr) [y] (s.speculative x.g y.addr)) }).onPath x
            (fun p => p.next x.len)))) ∧
      ∀ (d a b : USrc),
        let id := s.clk.fresh
        let enters := fun (i : Instr) (kick : Bool) (vb : DWord) => exec i s = .next (((((({ s with clk := { s.clk with fresh := id + 1 } } : State)).modGang x.k
          (fun g => { g with reqs := g.reqs + 1, ops := g.ops ++ [⟨id, 2, false⟩], writes := g.writes ++ [⟨id, id, false, 0, false⟩] })).setCopies x.g.cluster
            (s.copyQueue x.g.cluster ++ [⟨x.k, id, kick, x.u d, x.u a, vb, x.runPc, 0, none, none, (s.clk.now, s.sluiceOf x.ctx 3), [], x.opEnt⟩])).sched
              (s.clk.now + s.sluiceOf x.ctx 3) .sluiceBounce id 0 1).onPath x (fun p => p.next x.len))
        enters (.copyt p d a b) false (x.u b) ∧ enters (.kick p d a) true 0) ∧
  ∀ (s : State),
    (∀ o, s.clk.subj.b = 0 → (s.copyQueue s.clk.subj.a).find? (fun o => o.id == s.clk.subj.c) = some o → o.start = some s.clk.subj.d →
      exec .copyComplete s = .next (if o.kick then s.kickRun s.clk.subj.a o else s.copytRun s.clk.subj.a o)) ∧
    (s.clk.subj.b = 1 → exec .copyComplete s = .next (s.eackDue s.clk.subj.c)) ∧
    (∀ q e, s.clk.subj.b = 4 → s.entry? s.clk.subj.a s.clk.subj.c = some (q, e) → e.done = false → e.started.isSome = true →
      exec .copyComplete s = .next (s.entryEnd s.clk.subj.a s.clk.subj.c (s.clk.subj.d % 16)
        (if s.clk.subj.d % 16 = 4 then some (s.clk.subj.d / 16) else none)))

/-! ## Tasks and furrows -/

/-- TASKSUB reads its record as a load that counts in no counter and waits for the table's answer; a record that is not aligned to 64 bytes is refused (R487). FAPP
appends the items of its path's lanes in ascending TLID: they take the next indices of the ring in order, or wait in the cistern for room (R489). FTAKE gives lanes
in ascending TLID the next items, as many as are left, and a predicate of the lanes served (R490). Both wait where the queue of their unit is busy (R202, R474). DRYW
passes at a drought report and else waits (R491). A pointer whose bits [59:57] are not 0 traps (R78). TASK_COMPLETE lowers the SUCC word at its home, under the tag of
its pointer, and, when that is acknowledged, takes the task out of the table (R79, R126). DROUGHT_SWEEP comes every 1,024 clk (R133). -/
def Obligations.TasksAndFurrows : Prop :=
  (∀ (s : State) (x : Iss) (p : Pred) (a : USrc), s.iss = some x → x.qp p = true →
    let ptr := x.u a
    let traps := fun (i : Instr) (u : State) (acc : Nat) => ptrOk ptr = false → exec i s = .next (u.trapAccess x.k x.path.lanes x.pc 0x0108 acc ptr 1)
    let queues := fun (i : Instr) (u : State) (die : Nat) => ∀ id, u.clk.now < mgetD 0 (workQueue 0 die) u.mem.busy → x.g.uncounted = some id →
      exec i s = .next (u.onPath x (fun q => { q with wait := .work id, wlen := x.len }))
    (∀ (space : Bool) (qd : Fin 8), let i : Instr := .tasksub p space qd a
      traps i s 0 ∧
      (ptrOk ptr = true → ptr.toNat % 64 ≠ 0 → AnswersQ i s (s.logGang x.g 0x010F 0 ptr 1 x.hdr) x x.g.die qd false) ∧
      (ptrOk ptr = true → ptr.toNat % 64 = 0 → exec i s = .next (((s.newReq { x.req .unitRead ptr [] 1 64 4 with
        parts := s.partsOf x.g [⟨0, ptr, 64, 0, 0⟩] }).modGang x.k (fun g => { g with uncounted := some s.clk.fresh })).onPath x
          (fun q => { q with wait := .sub s.clk.fresh qd.val space, wlen := x.len })))) ∧
    (∀ (v : Fin 112), let i : Instr := .fapp p a v
      let items := (x.g.byTlid x.path.lanes).map (fun l => join (x.g.vlane v.val l) (x.g.vlane (v.val + 1) l))
      traps i s 1 ∧
      ∀ f, ptrOk ptr = true → s.furrowRead x.ctx x.g.die ptr = .ok f →
        let u := s.setFurrow f
        let done := fun (v : State) => (v.heldTill x (s.clk.now + x.trip f.die)).modGang x.k (fun g => { g with reqs := g.reqs + 1 })
        queues i s f.die ∧
        (mgetD 0 (workQueue 0 f.die) s.mem.busy ≤ s.clk.now →
          (items.length ≤ f.room → u.ringCause f .write f.appended items.length = none → exec i s = .next (done (u.append f items))) ∧
          (f.room < items.length → exec i s = .next (done (({ u with
            clk := { u.clk with fresh := s.clk.fresh + 1 }
            work := { u.work with uncs := mput s.clk.fresh ⟨x.k, .fapp ptr items, 0x0304, ptr, { x.opEnt with btime := s.clk.now }⟩ u.work.uncs } }).modGang x.k
              (fun g => { g with uncounted := some s.clk.fresh })))))) ∧
    (∀ (v : Fin 112) (pd : Fin 8), let i : Instr := .ftake p a v pd
      let s0 := s.drainTaken x.k
      traps i s0 0 ∧
      ∀ f, ptrOk ptr = true → s0.furrowRead x.ctx x.g.die ptr = .ok f →
        let u := s0.setFurrow f
        let ls := (x.g.byTlid x.path.lanes).take f.left
        let item := fun (l : Nat) => match u.vread f.ctx (f.item (f.taken + ls.idxOf l)) 8 with
          | .ok bs => ofBytes bs
          | .error _ => 0
        queues i s0 f.die ∧ (mgetD 0 (workQueue 0 f.die) s.mem.busy ≤ s.clk.now → u.ringCause f .read f.taken ls.length = none →
        let u0 := (List.range ls.length).foldl (fun (v : State) n => v.readRecs f.ctx (f.item (f.taken + n)) 8) u
        let u1 := u0.setFurrow { f with taken := f.taken + ls.length }
        let key := drKey f.ctx f.group
        let u2 := (u1.setDrought key (u1.droughtOf key)).modGang x.k
          (fun g => { g with taken := g.taken ++ (if ls = [] then [] else [(ptrVa ptr, ls.length)]) })
        let given := ls.foldl (fun m l => m ||| Mask.one l) 0
        AnswersWith i s u2 x (s.clk.now + x.trip f.die) 6
          [.v v.val given (rowOf fun l => if l ∈ ls then BitVec.ofNat 32 (item l) else 0),
           .v (v.val + 1) given (rowOf fun l => if l ∈ ls then BitVec.ofNat 32 (item l / 2 ^ 32) else 0),
           .p pd.val x.path.lanes given])) ∧
    let s0 := s.drainTaken x.k
    let key := fun (f : Furrow) => drKey x.ctx f.group
    traps (.dryw p a) s0 0 ∧
    ∀ f, ptrOk ptr = true → s0.furrowRead x.ctx x.g.die ptr = .ok f →
      ((s0.droughtOf (key f)).report = true → exec (.dryw p a) s = .next (s0.onPath x (fun q => q.next x.len))) ∧
      ((s0.droughtOf (key f)).report = false → exec (.dryw p a) s = .next (s0.onPath x (fun q => { q with wait := .dry (key f), wlen := x.len })))) ∧
  (∀ (s : State) (k : Task), mget s.clk.subj.a s.work.tasks = some k →
    let tid := s.clk.subj.a
    (s.clk.subj.d = 1 ∨ k.succ = 0 → ∃ t, exec .taskComplete s = .next t ∧ (Map.wf s.work.tasks = true → mget tid t.work.tasks = none) ∧
      ∀ b, readByte t.mem.bytes b = readByte s.mem.bytes b) ∧
    (∀ leaf size b h mem fd u, s.clk.subj.d ≠ 1 → k.succ ≠ 0 → k.succ.toNat % 8 = 0 → k.rival = none → s.access k.ctx .atomic k.succ = .ok (leaf, size, b) →
      s.homeOf k.ctx k.die leaf size (ptrVa k.succ) = some h → (∀ a, h ≠ .peer a true) → s.portDown h = false → mgetD 0 h.queue s.mem.busy ≤ s.clk.now →
      (leafTagck leaf = true → ptrTag k.succ = s.tagOf (b / 64)) →
      s.readHome (b / 64) k.ctx (if leafTagck leaf then some (ptrTag k.succ) else none) = (mem, false, fd, u) →
      let old := ofBytes ((mem.drop (ptrVa k.succ % 64)).take 8)
      let v := ((u.writeAt b ((toBytes 8 ((old + 2 ^ 64 - 1) % 2 ^ 64)).map some)).setTag (b / 64) (if leafTagck leaf then ptrTag k.succ else 0)).sliceTouch (b / 64) k.ctx
      exec .taskComplete s = .next (({ v with work := { v.work with tasks := mmod tid (fun k => { k with st := .ending false }) v.work.tasks } }).sched
        (s.clk.now + h.trip k.die none) .taskComplete tid 0 0 1))) ∧
  ∀ (s : State), exec .droughtSweep s = .next (((s.work.drought.map Prod.fst).foldl State.sweepGroup s).sched (s.clk.now + 1024) .droughtSweep 0)

/-! ## The matrix engine and the reservoir -/

/-- MRES reserves the free engine of its cluster, with all 16 tile slots NONE, or finds it its team's own; it gives false where another team holds it or a release is
under way (R316, R475); a successful one clears LERR (R479). MREL makes it RELEASING, and free once no operation is left (R317, R476). MMAQ, MDELTA, MDRAIN and MZERO
count in TLC; with a reservation they queue in order, without one they report NORSV and write nothing (R318, R477, R478); a block outside the scratchpad reports
BADPARAM (R477). MSTAT writes the word of R334 (R479). MATRIX_OP_COMPLETE writes STATUS, gives a tile its MZERO. RSVINV bumps VERSION at the answer, `.clear` also
clears VALID and removes the watch, or waits for an MDELTA; RSVQ sends 64 bytes (R480, R481). A protected team reserves with an area for its tiles and fails without
one (R260); that it is an area of 4 MiB is the model's choice (log 20). -/
def Obligations.MatrixEngine : Prop :=
  (∀ (s : State) (x : Iss) (p : Pred), s.iss = some x → x.qp p = true →
    let cl := x.g.cluster
    let t := x.g.team
    let e := s.engine cl
    let mine := e.holder = some t ∧ e.releasing = false
    let sp := ((s.team? t).map Team.spSize).getD 0
    let lerr := fun (u : State) (n : Nat) => u.modTeam t (fun tm => { tm with lerr := n })
    let id := s.clk.fresh
    let u : State := { s with clk := { s.clk with fresh := id + 1 } }
    let counts := fun (v : State) (w d : Bool) => v.modGang x.k (fun g => { g with
      reqs := g.reqs + 1
      ops := dropDone 3 (g.ops ++ [⟨id, 3, d⟩])
      writes := if w then g.writes ++ [⟨id, id, false, 0, false⟩] else g.writes })
    let passes := fun (i : Instr) (v : State) => exec i s = .next (v.onPath x (fun q => q.next x.len))
    let q4 := fun (i : Instr) (v : State) (qd : Fin 8) (b : Bool) => ∃ r, exec i s = .next r ∧ Issued v x 4 [.q qd.val b] r
    (∀ qd,
      (mine → q4 (.mres p qd) (lerr s 0) qd true) ∧
      (let takes := fun (v : State) => lerr (v.setEngine cl ⟨some t, false, List.replicate 16 ⟨.none, []⟩, [], 0⟩) 0;
        e.holder = none →
        (s.prot? t = none → q4 (.mres p qd) (takes s) qd true) ∧
        (∀ pr, s.prot? t = some pr →
          (s.areaTake x.ctx (dieOf cl) (4 * 2 ^ 20) = none → q4 (.mres p qd) s qd false) ∧
          (∀ a v, s.areaTake x.ctx (dieOf cl) (4 * 2 ^ 20) = some (a, v) →
            q4 (.mres p qd) (takes (v.modTeam t (fun tm => { tm with prot := some { pr with tarea := a } }))) qd true))) ∧
      (e.holder ≠ none → ¬ mine → q4 (.mres p qd) s qd false)) ∧
    ((mine → e.ops ≠ [] → passes (.mrel p) (s.setEngine cl { e with releasing := true })) ∧
      (mine → e.ops = [] → s.prot? t = none → ∃ v, passes (.mrel p) v ∧ v.mem = s.mem ∧ v.adm = s.adm ∧ v.work.gangs = s.work.gangs ∧
        v.engine cl = ⟨none, false, List.replicate 16 ⟨.none, []⟩, [], e.kdone⟩) ∧
      (∀ pr, mine → e.ops = [] → s.prot? t = some pr → passes (.mrel p) (((s.setEngine cl ⟨none, false, List.replicate 16 ⟨.none, []⟩, [], e.kdone⟩).areaFree
        pr.tarea).modTeam t (fun tm => { tm with prot := some { pr with tarea := (0, 0) } }))) ∧
      (¬ mine → passes (.mrel p) s)) ∧
    (∀ (a : USrc), let o := (x.u a).toNat
      let tile := fun (i : Instr) (kind : Nat) (w : Bool) =>
        (o % 64 ≠ 0 ∨ sp < o + 64 → passes i (counts (lerr (u.logGang x.g 0x010B 0 (x.u a) 0 x.hdr) 1) false true)) ∧
        (o % 64 = 0 → o + 64 ≤ sp → mine → passes i (((counts u w false).setEngine cl { e with
          ops := e.ops ++ [⟨x.k, id, x.runPc, kind, o, [], 0, 0, 0, 0, 0, none, none, x.opEnt, s.clk.now⟩] }).sched (s.clk.now + 20) .matrixOpComplete cl id 2)) ∧
        (o % 64 = 0 → o + 64 ≤ sp → ¬ mine → passes i ((counts u false false).sched (s.clk.now + 20) .matrixOpComplete cl id 3 o))
      tile (.mmaq p a) 1 false ∧ tile (.mdelta p a) 2 true ∧ tile (.mdrain p a) 3 true) ∧
    (∀ (m : Fin 16) (st : TileState),
      (mine → passes (.mzero p m st) (counts (u.setEngine cl { e with
        ops := e.ops ++ [⟨x.k, id, x.runPc, 4, 0, [BitVec.ofNat 8 m.val, BitVec.ofNat 8 (tileCode st)], 1, 0, 0, 0, 0, none, none, x.opEnt, s.clk.now⟩] }) false false)) ∧
      (¬ mine → passes (.mzero p m st) (counts (lerr u 3) false true))) ∧
    (∀ (d : UDst) tm, s.team? t = some tm → tm.lerr < 16 → ∃ v : DWord, Sends (.mstat p d) s x 4 (writeG d v) ∧
      let n := v.toNat
      let y := s.engineView cl
      (n % 2 = 1 ↔ y.holder ≠ none ∧ y.holder ≠ some t) ∧
      (n / 2 % 2 = 1 ↔ y.holder = some t ∧ y.releasing = false) ∧
      (n / 4 % 2 = 1 ↔ (∃ k ∈ s.work.gangs, k.2.team = t ∧ 0 < k.2.count 3) ∨ (y.holder = some t ∧ y.releasing = true)) ∧
      n / 8 % 2 = 0 ∧ n / 16 % 16 = tm.lerr ∧
      n / 256 % 2 ^ 24 = (if y.holder = some t then y.kdone % 2 ^ 24 else 0) ∧
      ∀ m, m < 16 → n / 2 ^ (32 + 2 * m) % 4 = if y.holder = some t then tileCode (tileState y.tiles m) else 0) ∧
    (∀ (a : USrc), let i := (x.u a).toNat
      let r := s.recFor t x.ctx i
      let good := i < 4096 ∧ recValid r = true ∧ numAt r 8 4 = s.ownerWord x.ctx
      let land := s.clk.now + x.trip (s.resDie x.ctx x.g.die)
      (¬ good → exec (.rsvinv p a) s = .next (s.heldTill x land) ∧ exec (.rsvinvClear p a) s = .next (s.heldTill x land)) ∧
      (good → exec (.rsvinv p a) s = .next ((s.bumpVersion x.ctx i).heldTill x land)) ∧
      (good → mget (resKey x.ctx i) s.work.resBusy = none →
        exec (.rsvinvClear p a) s = .next (((s.bumpVersion x.ctx i).recClear x.ctx i).heldTill x land)) ∧
      (good → mget (resKey x.ctx i) s.work.resBusy ≠ none → exec (.rsvinvClear p a) s = .next ((s.bumpVersion x.ctx i).onPath x
        (fun q => { q with wait := .rsv (resKey x.ctx i), wlen := x.len, hold := land })))) ∧
    ∀ (a b : USrc), let i := (x.u a).toNat
      let o := (x.u b).toNat
      let land := s.clk.now + x.trip (s.resDie x.ctx x.g.die)
      let r := s.recFor t x.ctx i
      let bytes := if i < 4096 ∧ numAt r 8 4 = s.ownerWord x.ctx then r else List.replicate 64 0
      (o % 64 ≠ 0 ∨ sp < o + 64 → exec (.rsvq p a b) s = .next ((s.logGang x.g 0x010B 1 (x.u b) 0 x.hdr).heldTill x land)) ∧
      (o % 64 = 0 → o + 64 ≤ sp → exec (.rsvq p a b) s = .next (((u.setReq id { x.req .sts (x.u b) [] 0xFF 8 4 with
        issued := land
        data := (List.range 8).map (fun l => BitVec.ofNat 64 (numAt bytes (8 * l) 8))
        parts := [.pad ((List.range 8).map (fun l => ⟨l, BitVec.ofNat 64 (o + 8 * l), 8, 0, 0⟩)) s.clk.now] }).sched
          (land + 20) .scratchpadPerform id).heldTill x land))) ∧
  ∀ (s : State) (k : Nat) (g : Gang),
    let y := s.clk.subj
    let e := s.engine y.a
    (∀ op, y.c = 0 → e.ops.find? (fun o => o.id == y.b) = some op → op.start = some y.d → op.kind = 4 →
      let st : TileState := match numAt op.blk 1 1 with
        | 0 => .none
        | 1 => .f32
        | 2 => .f64
        | _ => .i64
      exec .matrixOpComplete s = .next ((((s.setEngine y.a { e with
        tiles := tileSet e.tiles (numAt op.blk 0 1) st [], ops := e.ops.filter (fun o => o.id ≠ op.id) }).opEnds op.gang op.id 3).engineRelease y.a))) ∧
    (∀ off status u, s.opOwner y.b = some (k, g) → (y.c = 3 ∧ off = y.d ∧ status = 3 ∨ y.c = 1 ∧ off = y.d / 2 ^ 64 ∧ status = y.d % 2 ^ 64) →
      (s.padWait g.cluster g.team [off / 64] true = (none, u) →
        exec .matrixOpComplete s = .next ((u.modTeam g.team (fun t => { (t.spPut (off + 0x38) (toBytes 8 status)) with
          lerr := if status % 16 = 0 then t.lerr else status % 16 })).opEnds k y.b 3)) ∧
      ∀ t, s.padWait g.cluster g.team [off / 64] true = (some t, u) →
        exec .matrixOpComplete s = .next (u.sched t .matrixOpComplete y.a y.b 1 (status + 2 ^ 64 * off))) ∧
    (4 ≤ y.c → exec .matrixOpComplete s = .next (s.eackDue y.b))

/-! ## Tournaments and the size of a gang's block -/

/-- What the tournament instructions answer and change (R142 to R144, R155, R159 to R161, R492 to R494): each waits where the queue of its scope unit is busy (R202,
R474), and else answers in its Q predicate after the trip to the unit, false without any other effect where its conditions do not hold. ALLOWANCE_REACHED asks the rival's teams to stop (R152). ROUND_END kills the worst half, and
decides the scope or begins the next round with the survivors' counts cleared (R156). RGIVE halves the gang's block and keeps the registers that are left, RCLAIM
doubles it in place or by a move of S/4 clk and gives registers that are zero (R119, R495). -/
def Obligations.Tournaments : Prop :=
  (∀ (s : State) (x : Iss) (p : Pred) (qd : Fin 8) (tm : Team), s.iss = some x → x.qp p = true → s.team? x.g.team = some tm →
    let die := x.g.die
    let opener := tm.rival = none
    let queue := workQueue 2 (s.scopeDie x.g)
    (s.clk.now < mgetD 0 queue s.mem.busy → ∀ i, (i ∈ [Instr.tscore p qd, .tclose p qd, .tcloseAbort p qd, .spgrow p qd] ∨
        (∃ a, i = .topen p qd a) ∨ (∃ a, i = .trival p qd a) ∨ ∃ b, i = .tstat p qd b) →
      (∀ id, x.g.uncounted = some id → Waits i s x (.work id)) ∧
      (x.g.uncounted = none → exec i s = .next (((({ s with clk := { s.clk with fresh := s.clk.fresh + 1 } } : State).workEnter s.clk.fresh x.k queue x.opEnt)).onPath x
        (fun q => { q with wait := .work s.clk.fresh, wlen := x.len })))) ∧
    (mgetD 0 queue s.mem.busy ≤ s.clk.now →
    (∀ (a : USrc), let off := (x.u a).toNat
      let b := tm.spBytes off 16
      let good := off % 16 = 0 ∧ off + 16 ≤ tm.spSize ∧ 2 ≤ numAt b 0 1 ∧ numAt b 0 1 ≤ 64 ∧ numAt b 1 1 ≤ 61 ∧ numAt b 2 1 < 8 ∧ numAt b 2 1 % 4 ≠ 3 ∧
        zeroAt b 3 5 = true ∧ 1 ≤ numAt b 8 8 ∧ numAt b 8 8 ≤ 2 ^ 32
      let room := (s.work.scopes.filter (fun y => y.2.st != ScState.closed && s.teamDie y.2.opener == die)).length < 16 ∧
        (s.setsOn die + numAt b 0 1) * 640 ≤ 48 * 1024
      (good → opener → s.scopeOf x.g.team = none → room → AnswersQ (.topen p qd a) s (({ s with clk := { s.clk with fresh := s.clk.fresh + 1 } } : State).setScope
        s.clk.fresh ⟨x.g.team, numAt b 8 8, numAt b 1 1, numAt b 2 1, .opened, 0, none, false, List.replicate (numAt b 0 1) ⟨.running, 0, none, [], 0, 0⟩, none⟩) x
          die qd true) ∧
      (¬ (good ∧ opener ∧ s.scopeOf x.g.team = none ∧ room) → AnswersQ (.topen p qd a) s s x (s.scopeDie x.g) qd false)) ∧
    (∀ (a : USrc) n sc, opener → s.scopeOf x.g.team = some (n, sc) →
      (∀ ptr c, sc.st = .opened → (x.u a).toNat % 32 = 0 → ptrOk (x.u a) = true → s.rivalEntries x.ctx die n (x.u a) sc.rivals.length 0 = .wait ptr c →
        exec (.trival p qd a) s = .next (((if c = 0x0102 then s.logGang x.g c 0 ptr 1 x.hdr else s).serveCause x.ctx (ptrVa ptr) c false).onPath x
          (fun q => { q with wait := .unit ptr false, wlen := x.len }))) ∧
      (∀ l, sc.st = .opened → (x.u a).toNat % 32 = 0 → ptrOk (x.u a) = true → s.rivalEntries x.ctx die n (x.u a) sc.rivals.length 0 = .ok l →
        let needs := (l.map (fun e => recEntries e.2.2)).sum
        (s.tableUsed die + needs ≤ 2048 → AnswersQ (.trival p qd a) s ((List.range l.length).foldl
          (fun (u : State) i => u.enterTask x.ctx die (l.getD i (0, 0, [])).2.2 (some (n, i)) none (gangSource x.k))
          (s.setScope n { sc with st := .racing, round := 0, rivals := l.map (fun e => ⟨.running, 0, none, [], e.1, e.2.1⟩) })) x die qd true) ∧
        (2048 < s.tableUsed die + needs → AnswersQ (.trival p qd a) s s x die qd false)) ∧
      (sc.st ≠ .opened ∨ (x.u a).toNat % 32 ≠ 0 ∨ ptrOk (x.u a) = false ∨ s.rivalEntries x.ctx die n (x.u a) sc.rivals.length 0 = .bad →
        AnswersQ (.trival p qd a) s s x die qd false)) ∧
    (s.scopeOf x.g.team = none → ∀ a, AnswersQ (.trival p qd a) s s x (s.scopeDie x.g) qd false) ∧
    (∀ v sc, tm.rival = some v → mget v.1 s.work.scopes = some sc →
      let unit := s.teamDie sc.opener
      (sc.st = .racing ∨ sc.st = .decided → AnswersQ (.tscore p qd) s (s.modRival v (fun r => { r with score := some (x.g.g.getD sc.screg 0) })) x unit qd true) ∧
      (sc.st = .opened ∨ sc.st = .closed → AnswersQ (.tscore p qd) s s x unit qd false)) ∧
    (opener → AnswersQ (.tscore p qd) s s x die qd false) ∧
    (s.scopeFor x.g = none → ∀ b, AnswersQ (.tstat p qd b) s s x (s.scopeDie x.g) qd false) ∧
    (∀ (b : USrc) n sc, s.scopeFor x.g = some (n, sc) → let off := (x.u b).toNat
      let n := 16 + 16 * sc.rivals.length
      sc.record.length = n ∧
      (off % 16 = 0 → off + n ≤ tm.spSize → opener ∨ sc.st ≠ .closed →
        AnswersQ (.tstat p qd b) s (s.unitWrite x (s.clk.now + x.trip (s.scopeDie x.g)) off sc.record) x (s.scopeDie x.g) qd true) ∧
      (off % 16 ≠ 0 ∨ tm.spSize < off + n ∨ (¬ opener ∧ sc.st = .closed) → AnswersQ (.tstat p qd b) s s x (s.scopeDie x.g) qd false)) ∧
    (∀ n sc, opener → s.scopeOf x.g.team = some (n, sc) →
      let u0 := if x.run = 0 ∧ s.overflows x.g (s.commitBlocks x.g.team) = true then s.closeBy x none else s
      let id := u0.clk.fresh
      let closed : Scp := { sc with st := .closed, commit := some (x.k, id, 0, false) }
      let u := ((({ u0 with clk := { u0.clk with fresh := id + 1 } } : State).modGang x.k (fun g => { g with
        ops := g.ops ++ [⟨id, 1, false⟩], writes := g.writes ++ [⟨id, id, false, 0, false⟩] })).setScope n closed).commitStep n closed (x.k, id, 0, false)
      (∀ g, sc.st = .decided → sc.noWin = false → s.winnerDone n sc = true → u.gang? x.k = some g → AnswersQ (.tclose p qd) s u x (u.scopeDie x.g) qd true) ∧
      (∀ g, (s.abortScope n).gang? x.k = some g →
        (∀ y, mget n (s.abortScope n).work.scopes = some y → y.st = .closed) ∧
        (sc.st = .decided → sc.noWin = true → AnswersQ (.tclose p qd) s (s.abortScope n) x ((s.abortScope n).scopeDie x.g) qd true) ∧
        AnswersQ (.tcloseAbort p qd) s (s.abortScope n) x ((s.abortScope n).scopeDie x.g) qd true) ∧
      (sc.st ≠ .decided ∨ (sc.noWin = false ∧ s.winnerDone n sc = false) → AnswersQ (.tclose p qd) s s x die qd false)) ∧
    (¬ opener ∨ s.scopeOf x.g.team = none → AnswersQ (.tclose p qd) s s x (s.scopeDie x.g) qd false ∧ AnswersQ (.tcloseAbort p qd) s s x (s.scopeDie x.g) qd false) ∧
    (let free := tm.spBase + tm.quota ≤ s.spTop tm.cluster ∧ ∀ y ∈ s.work.teams, y.1 ≠ x.g.team → y.2.cluster = tm.cluster → (y.2.here = true ∨ y.2.saveTill ≠ 0) →
        y.2.spFull = 0 ∨ y.2.spBase + y.2.spFull ≤ tm.spBase + tm.spSize ∨ tm.spBase + tm.quota ≤ y.2.spBase
      let land := s.clk.now + x.trip (s.scopeDie x.g) + 4
      (tm.rival ≠ none → x.g.core = none → free →
        AnswersQ (.spgrow p qd) s (s.modTeam x.g.team (fun t => { t with grow := some (land, max t.spSize t.quota) })) x (s.scopeDie x.g) qd true) ∧
      (¬ (tm.rival ≠ none ∧ x.g.core = none ∧ free) → AnswersQ (.spgrow p qd) s s x (s.scopeDie x.g) qd false)))) ∧
  (∀ (s : State) (x : Iss) (p : Pred) (qd : Fin 8) (g : Gang), s.iss = some x → x.qp p = true → s.gang? x.k = some g →
    let n := x.g.rows
    let resize := fun (m : Nat) (g : Gang) => { g with rows := m, v := (List.range 112).map (fun i => if i < min n m - 16 then g.v.getD i VReg.zero else VReg.zero) }
    (n ≤ 16 ∨ x.run ≠ 0 → Sends (.rgive p qd) s x 4 [.q qd.val false]) ∧
    (16 < n → x.run = 0 → ∃ h, exec (.rgive p qd) s = .next { s with work := { s.work with gangs := mput x.k h s.work.gangs } } ∧
      h = { resize (n / 2) g with
        pend := h.pend
        paths := g.paths.map (fun q => if q.lanes = x.path.lanes then { q.next x.len with hold := max q.hold (s.issueClk x.g.die 4) } else q) } ∧
      h.pend.Perm (g.pend ++ [x.sends 4 (s.issueClk g.die 4) .general (.q qd.val true)])) ∧
    (128 ≤ n ∨ x.run ≠ 0 → Sends (.rclaim p qd) s x 4 [.q qd.val false]) ∧
    (n < 128 → x.run = 0 → s.claimPlace x.k g = none → ∃ t u, Issued s x 4 [.q qd.val false] t ∧ exec (.rclaim p qd) s = .next u ∧
      (u = t ∨ u = t.sched (s.issueClk g.die 4) .compaction g.cluster)) ∧
    (∀ base moves, n < 128 → x.run = 0 → s.claimPlace x.k g = some (base, moves) →
      let t := s.issueClk g.die 4 + if moves then n / 4 else 0
      ∃ h, exec (.rclaim p qd) s = .next { s with work := { s.work with gangs := mput x.k h s.work.gangs } } ∧
      h = { resize (2 * n) g with
        base := base, pend := h.pend
        busyUntil := if moves then max g.busyUntil t else g.busyUntil
        paths := g.paths.map (fun q => if q.lanes = x.path.lanes then { q.next x.len with hold := max q.hold t } else q) } ∧
      h.pend.Perm (g.pend ++ [x.sends 4 t .general (.q qd.val true)]))) ∧
  ∀ (s : State),
    (exec .allowanceReached s = .next (s.stopRival (s.clk.subj.a, s.clk.subj.b))) ∧
    (∀ sc, mget s.clk.subj.a s.work.scopes = some sc → s.roundOver s.clk.subj.a sc = false → exec .roundEnd s = .next s) ∧
    ∀ sc, mget s.clk.subj.a s.work.scopes = some sc → s.roundOver s.clk.subj.a sc = true →
      let n := s.clk.subj.a
      let order := sc.ranked
      let left := order.take (order.length - order.length / 2)
      let kills := fun (u : State) (l : List Nat) => l.foldl (fun (u : State) i => u.killRival (n, i)) u
      let u := kills s (order.drop left.length)
      let v := { u with work := { u.work with teams := u.work.teams.map (fun (t : Nat × Team) =>
        if left.any (fun i => t.2.rival == some (n, i)) then (t.1, { t.2 with quota := min 786432 (2 * t.2.quota) }) else t) } }
      let ended := left.length = 1 ∨ sc.round = 15 ∨ ∀ i ∈ left, (sc.rivals[i]?).map Rival.st = some .finished
      (left = [] → exec .roundEnd s = .next v) ∧
      (∀ w l, left = w :: l → ended → exec .roundEnd s = .next ((v.settleScope n left).wakeRival (n, w))) ∧
      (left ≠ [] → ¬ ended → exec .roundEnd s = .next (left.foldl (fun (u : State) i => (u.modRival (n, i) (fun r => { r with
        count := 0, st := if r.st = .barrier then .running else r.st })).wakeRival (n, i)) (v.modScope n (fun y => { y with round := y.round + 1 }))))

/-! ## Events from outside the module -/

/-- What comes from outside (R34 to R46, R51 to R54, R75, R103, R194, R195, R205, R233, R234, R244, R267, R269): ports, connections and their keys; packets that are
only counted; arriving RMA, which is performed where the check lets it, waits where its home's queue is busy, and is answered with a NACK where the check does not
let it; links and monitors, whose fatal errors stop every context (R36); the timebase, which steps forward before its first lock and is locked within 60 clk; the
power loop, which moves one die's clock by 50 MHz; throttling; module reset, which leaves reset's state and chooses images again; strikes; and the debugger. (The
delivery mode of a connection is a free value, log 94.) -/
def Obligations.OutsideEvents : Prop :=
  ∀ (s : State),
    let adm := fun (f : Adm → Adm) => { s with adm := f s.adm }
    let gone := fun (u : State) (conn : Nat) => (s.adm.peers.filter (fun p => p.2.conn == conn && p.2.up)).foldl
      (fun (v : State) p => v.peerGone (p.1 / 4096) (p.1 % 4096)) u
    (∀ (port : Fin 32), let n := port.val
      (s.adm.recovery = true → n ≠ 0 → exec (.portLinkUp port) s = .next s) ∧
      (s.adm.recovery = false ∨ n = 0 → exec (.portLinkUp port) s = .next ((adm (fun a => { a with ports := lset a.ports n true })).portBack n)) ∧
      exec (.portLinkDown port) s = .next (adm (fun a => { a with ports := lset a.ports n false })) ∧
      exec (.uudPacket port) s = .next (adm (fun a => { a with uud := lmod a.uud n (· + 1), outbox := a.outbox ++ [(2 ^ 32 + n, [1])] })) ∧
      exec (.flowControlFrame port) s = .next (adm (fun a => { a with flow := lmod a.flow n (· + 1) })) ∧
      exec (.oversizePacket port) s = .next (adm (fun a => { a with oversize := lmod a.oversize n (· + 1) })) ∧
      ∀ (conn : Nat) (key : List Byte),
        let u := gone s conn
        (∀ ctx, s.keyCtx key = some ctx → ∃ mode, exec (.connectionAuth conn port key) s = .next { u with
          clk := { u.clk with freeCnt := u.clk.freeCnt + 1 }
          adm := { u.adm with conns := mput conn ⟨n, ctx, ((mget conn s.adm.conns).map (fun c => c.epoch + 1)).getD 0, true, mode, s.adm.sealedOk⟩ u.adm.conns } }) ∧
        (s.keyCtx key = none → exec (.connectionAuth conn port key) s = .next { u with
          adm := { u.adm with conns := mdel conn u.adm.conns, mgmtEvents := u.adm.mgmtEvents ++ [(u.clk.now, 3)] } })) ∧
    (∀ (conn : Nat), exec (.connectionFailure conn) s = .next (gone (adm (fun a => { a with conns := mmod conn (fun c => { c with up := false }) a.conns })) conn)) ∧
    (∀ (ctx peer : Nat) p, mget (ctx * 4096 + peer) s.adm.peers = some p →
      let far := fun (loc : Nat) => loc * 64 / 2 ^ 64 = p.conn + 1
      exec (.peerDown ctx peer) s = .next (({ s with
        adm := { s.adm with peers := mput (ctx * 4096 + peer) { p with up := false } s.adm.peers }
        mem := { s.mem with
          l1 := s.mem.l1.filter (fun l => decide (¬ (far l.loc ∧ l.tenant = ctx)))
          slices := s.mem.slices.filter (fun l => decide (¬ (far l.loc ∧ l.tenant = ctx))) } } : State).failPeer ctx p.conn)) ∧
    (∀ (conn : Nat) (c : Conn) (addr : DWord), mget conn s.adm.conns = some c → c.up = true →
      let most := if s.adm.payload8k then 8192 else 4096
      let tooBig := adm (fun a => { a with oversize := lmod a.oversize c.port (· + 1) })
      -- an access that has just arrived, behind no other of its connection
      let first := s.clk.subj.a ≠ 1 ∧ ∀ y ∈ s.clk.agenda, rmaConn y.ev = some conn → y.subj.a ≠ 1
      let open_ := s.adm.fatal = none ∨ isWindow c.ctx (pageOf (ptrVa addr)) = true
      let answers := fun (i : Instr) (k : AccKind) (n : Nat) =>
        (open_ → first → ∀ u,
          (s.rmaCheck c k addr n = (.denied, u) → exec i s = .next (u.reply conn 2 [])) ∧
          (s.rmaCheck c k addr n = (.again, u) → exec i s = .next (u.reply conn 3 [])) ∧
          (∀ t, s.rmaCheck c k addr n = (.later t, u) → exec i s = .next (u.takeFresh.2.sched t i 1 0 u.clk.fresh)) ∧
          (s.rmaCheck c k addr n = (.ok, u) → u.clk.now < u.rmaBusy c addr n → let till := u.clk.now + u.sluiceOf c.ctx 0
            exec i s = .next (u.takeFresh.2.sched (min (u.rmaBusy c addr n) till) i 1 till u.clk.fresh))) ∧
        (¬ open_ → exec i s = .next (s.reply conn 2 []))
      let served := fun (k : AccKind) (n : Nat) (u : State) => open_ ∧ first ∧ s.rmaCheck c k addr n = (.ok, u) ∧ u.rmaBusy c addr n ≤ u.clk.now
      (∀ (bs : List Byte),
        (9216 < bs.length → exec (.rmaWrite conn addr bs) s = .next s) ∧
        (most < bs.length → bs.length ≤ 9216 → exec (.rmaWrite conn addr bs) s = .next tooBig) ∧
        (bs.length ≤ most → answers (.rmaWrite conn addr bs) .write bs.length) ∧
        ∀ u leaf size a, 0 < bs.length → addr.toNat % 64 + bs.length ≤ 64 → served .write bs.length u → u.access c.ctx .write addr = .ok (leaf, size, a) →
          bs.length = 64 ∨ u.tagBad leaf addr a = false →
          exec (.rmaWrite conn addr bs) s = .next ((((u.writeAt a (bs.map some)).setTag (a / 64) (if leafTagck leaf then ptrTag addr else 0)).sliceTouch (a / 64)
            c.ctx).reply conn 0 (toBytes 8 (max u.clk.now (u.cmdGwct leaf a))))) ∧
      (∀ len, answers (.rmaRead conn addr len) .read len ∧
        ∀ u, 0 < len → addr.toNat % 64 + len ≤ 64 → served .read len u →
          exec (.rmaRead conn addr len) s = .next ((u.rmaBlock conn c.ctx addr len).2.reply conn 0 (u.rmaBlock conn c.ctx addr len).1)) ∧
      ∀ (op : AOp) (sz : SZ) (v w : DWord),
        (addr.toNat % sz.bytes ≠ 0 → exec (.rmaAtomic conn addr op sz v w) s = .next (s.reply conn 2 [])) ∧
        (addr.toNat % sz.bytes = 0 → answers (.rmaAtomic conn addr op sz v w) .atomic sz.bytes) ∧
        ∀ u leaf size a block t, addr.toNat % sz.bytes = 0 → served .atomic sz.bytes u → u.access c.ctx .atomic addr = .ok (leaf, size, a) →
          leafTagck leaf = false → u.readHome (a / 64) c.ctx none = (block, false, none, t) →
          let old := (block.drop (a % 64)).take sz.bytes
          (atomNew op sz.cmpSigned (8 * sz.bytes) (ofBytes old) v.toNat w.toNat = none →
            exec (.rmaAtomic conn addr op sz v w) s = .next (t.reply conn 0 (old ++ toBytes 8 u.clk.now))) ∧
          ∀ n, atomNew op sz.cmpSigned (8 * sz.bytes) (ofBytes old) v.toNat w.toNat = some n →
            exec (.rmaAtomic conn addr op sz v w) s = .next ((((t.writeAt a ((toBytes sz.bytes n).map some)).setTag (a / 64) 0).sliceTouch (a / 64) c.ctx).reply
              conn 0 (old ++ toBytes 8 (u.cmdGwct leaf a)))) ∧
    (∀ (link : Fin 6) (die : Fin 4),
      let fatal := fun (what : Nat) => ({ s with
        adm := { s.adm with fatal := some what, mgmtEvents := s.adm.mgmtEvents ++ [(s.clk.now, 4)] }
        work := { s.work with
          gangs := s.work.gangs.map (fun (g : Nat × Gang) => (g.1, g.2.stopNow))
          teams := s.work.teams.map (fun (t : Nat × Team) => if t.2.st = .placed then (t.1, { t.2 with st := .stopping }) else t) } } : State)
      exec (.meshLinkRetry link) s = .next (adm (fun a => { a with retries := lmod a.retries link.val (· + 1) })) ∧
      let m := s.adm.monitors.getD die.val ⟨0, 0, 0⟩
      let slow := s.setMhz die.val (max 600 (s.adm.mhz.getD die.val 1200 - 50))
      exec (.meshLinkFatal link) s = .next (fatal link.val) ∧
      (105 ≤ m.temp ∨ 50 < m.volt.natAbs → exec (.monitorFatal die) s = .next (fatal (16 + die.val))) ∧
      (m.temp < 105 → m.volt.natAbs ≤ 50 → exec (.monitorFatal die) s = .next s) ∧
      (m.temp < 95 → exec (.tempThrottle die) s = .next s) ∧
      (95 ≤ m.temp → slow.adm = { s.adm with mhz := lset s.adm.mhz die.val (max 600 (s.adm.mhz.getD die.val 1200 - 50)) } ∧
        (slow.has (.tempThrottle die) 0 = true → exec (.tempThrottle die) s = .next slow) ∧
        (slow.has (.tempThrottle die) 0 = false → exec (.tempThrottle die) s = .next (slow.sched (s.clk.now + 1200000) (.tempThrottle die) 0)))) ∧
    (∀ (offset : Int),
      (s.adm.ptpport = 0xFF → exec (.syncMessage offset) s = .next s) ∧
      (s.adm.ptpport ≠ 0xFF → ∃ t, exec (.syncMessage offset) s = .next t ∧ t.adm.locked = decide (offset.natAbs ≤ 60) ∧ t.adm.lastSync = t.clk.now ∧
        t.clk.now = (if s.adm.everLocked = false ∧ 60 < offset then s.clk.now + offset.toNat else s.clk.now) ∧
        t.work = s.work ∧ t.mem.bytes = s.mem.bytes ∧ ⟨t.clk.now + 60000000, .syncTimeout, ⟨0, 0, 0, 0⟩⟩ ∈ t.clk.agenda)) ∧
    ((s.clk.now < s.adm.lastSync + 60000000 → exec .syncTimeout s = .next s) ∧
      (s.adm.lastSync + 60000000 ≤ s.clk.now → s.adm.locked = true → exec .syncTimeout s = .next { s with
        adm := { s.adm with locked := false, mgmtEvents := s.adm.mgmtEvents ++ [(s.clk.now, 2)] }
        mem := { s.mem with l1 := s.mem.l1.filter (fun l => decide (l.loc * 64 < 2 ^ 64)) } })) ∧
    (∀ (w : Nat),
      let u := adm (fun a => { a with avgPower := w })
      let can := fun (lower : Bool) (d : Nat) => d < 4 ∧ if lower then 650 ≤ s.adm.mhz.getD d 1200 else
        s.adm.mhz.getD d 1200 ≤ 1150 ∧ (s.adm.monitors.getD d ⟨0, 0, 0⟩).temp < 95
      let moves := fun (lower : Bool) => ((∃ d, can lower d) → ∃ d, can lower d ∧ exec (.powerStep w) s = .next (({ u with
          clk := { s.clk with freeCnt := s.clk.freeCnt + 1 } } : State).setMhz d (if lower then s.adm.mhz.getD d 1200 - 50 else s.adm.mhz.getD d 1200 + 50))) ∧
        ((∀ d, ¬ can lower d) → exec (.powerStep w) s = .next u)
      (s.adm.pwrlim < w → moves true) ∧
      (w * 100 < s.adm.pwrlim * 95 → moves false) ∧
      (w ≤ s.adm.pwrlim → s.adm.pwrlim * 95 ≤ w * 100 → exec (.powerStep w) s = .next u)) ∧
    (∃ t, exec .moduleReset s = .next t ∧ t.mem = State.reset.mem ∧ t.work = State.reset.work ∧ t.clk = { State.reset.clk with freeCnt := s.clk.freeCnt } ∧
      t.adm.flash = s.adm.flash ∧
      let stops := fun (n : Nat) => t.adm.recovery = true ∧ t.adm.step = n ∧ t.adm.enmask = List.replicate 4 0
      (s.cold.pickSlot 2 3 = none → stops 1) ∧
      ∀ c, s.cold.pickSlot 2 3 = some c →
        ((s.cold.useCfg c).pickSlot 0 1 = none → stops 2) ∧
        ∀ f, (s.cold.useCfg c).pickSlot 0 1 = some f →
          let u := (s.cold.useCfg c).useFw f
          let known := s.adm.sealedOk = true ∧ edPublic Config.identitySeed = u.adm.idpub
          (s.adm.trained = false → stops 3) ∧ (s.adm.trained = true → ¬ known → stops 4) ∧ (s.adm.trained = true → known → t = u)) ∧
    (∀ (die : Fin 4) (cluster : Option Nat),
      let here := s.work.teams.filter (fun t => inRegion die.val cluster t.2.cluster)
      (∀ t ∈ here, t.2.prot = none ∨ t.2.st = .ended) → ∃ l, exec (.strikeReport die cluster) s = .next (adm (fun a => { a with
          strikes := lmod a.strikes die.val (· + 1), errlog := l })) ∧
        ∀ c, (mget c l).getD [] = (mget c s.adm.errlog).getD [] ++
          if here.any (fun t => t.2.here && t.2.ctx == c) then [⟨0x0401, 9, c, cluster.getD 0xFFFF, 0xFFFF, 0, s.clk.now, 0, 0⟩] else []) ∧
    ∀ (k : Nat) (g : Gang), s.gang? k = some g →
      (∀ (reg : BitVec 8) (lanes : Mask) (v : DWord),
        (g.stopped = false → exec (.debugRegWrite k reg lanes v) s = .next s) ∧
        (g.stopped = true → ∃ t, exec (.debugRegWrite k reg lanes v) s = .next t ∧ t.gang? k = some ((g.settle (s.clk.now + 1000)).debugSet reg.toNat lanes v) ∧
          t.mem.bytes = s.mem.bytes ∧ (∀ j, j ≠ k → t.gang? j = s.gang? j) ∧
          ((∀ r ∈ s.mem.reqs, r.2.gang ≠ k) → (∀ q ∈ s.work.sfu, ∀ o ∈ q.2, o.gang ≠ k) →
            t.mem = s.mem ∧ t.work.sfu = s.work.sfu ∧ t.adm = { s.adm with dbgStatus := some false }))) ∧
      ∀ (a : DWord), exec (.debugBreakpoint k a) s = .next (s.setGang k { g with stop := (match g.stop with
        | .run => .asked 0
        | .asking _ => .asked 0
        | .asked _ => .asked 0
        | y => y) })

/-! ## Command queues -/

/-- Queues and commands (R58 to R68): ENTRY_READ and ENTRY_REREAD copy the slot at RIDX and advance it, read it again 256 clk later, or stop the queue after 16
rereads, with a STALE signal; the mirror is written; an entry that is over leaves, after its 16-byte completion signal where it asks for one (R64), which is tried
again when its page is there and dropped when it cannot be written (that it is dropped is the model's choice, log 58); a command that waited bounces and
starts again (R68). LAUNCH, TASK, COPY, SIGNAL and WAIT do what R62 says of each where their fields keep their ranges and their buffers can be accessed, and end with
BADFIELD where the fields do not. -/
def Obligations.Commands : Prop :=
  (∀ (s : State) (qid : Nat) (q : Queue), s.clk.subj.a = qid → s.queue? qid = some q →
    (s.clk.subj.b = 1 → exec .entryReread s = .next (s.staleSignal qid)) ∧
    (q.stopped = false → q.dying = false → q.ridx ≠ q.widx → ∀ (again : Bool), again = false ∨ s.clk.subj.b ≠ 1 →
      let i : Instr := if again then .entryReread else .entryRead
      let n := q.rereads + again.toNat
      (∀ t u, s.readSlot q = (.later t, u) → exec i s = .next (u.sched t i qid)) ∧
      (∀ bs u, s.readSlot q = (.entry bs, u) → exec i s = .next ((u.modQueue qid (fun q => { q with
        ridx := q.ridx + 1, rereads := 0, entries := q.entries ++ [⟨q.ridx.toNat, bs, none, false, false, s.clk.now, 0⟩] })).mirrorLater qid q)) ∧
      (∀ u, s.readSlot q = (.unwritten, u) → n < 16 → exec i s = .next ((u.modQueue qid (fun q => { q with rereads := n })).sched (s.clk.now + 256) .entryReread qid)) ∧
      (∀ u, s.readSlot q = (.unwritten, u) → 16 ≤ n → exec i s =
        .next ((u.modQueue qid (fun q => { q with rereads := n, stopped := true })).staleSignal qid))) ∧
    (q.mirror = 0 → exec .mirrorWrite s = .next s) ∧
    (q.mirror ≠ 0 → ∀ u, let written := fun (v : State) => v.modQueue qid (fun q => { q with lastMirror := some s.clk.now })
      (s.gateOne q .write q.mirror 4 = (.ok, u) → exec .mirrorWrite s = .next (written (u.vwrite q.ctx q.mirror (toBytes 4 q.ridx.toNat)).1)) ∧
      (∀ c a, s.gateOne q .write q.mirror 4 = (.fail c a, u) → exec .mirrorWrite s = .next (written u)) ∧
      ∀ t, s.gateOne q .write q.mirror 4 = (.later t, u) → exec .mirrorWrite s = .next (u.sched t .mirrorWrite qid))) ∧
  (∀ (s : State) (qid i st : Nat) (q : Queue) (e : Entry) (d : Option Nat), s.entry? qid i = some (q, e) →
    let gone := fun (u : State) => u.modQueue qid (fun x => { x with entries := x.entries.filter (fun e => e.idx != i) })
    (e.signals = false ∨ e.num 8 8 % 16 ≠ 0 → s.entryEnd qid i st d = gone s) ∧
    (e.signals = true → e.num 8 8 % 16 = 0 → ∀ u,
      (s.gateOne q .write (e.addr 8) 16 = (.ok, u) → s.entryEnd qid i st d =
        gone ((u.vwrite q.ctx (e.addr 8) (toBytes 4 (e.num 4 4) ++ toBytes 2 st ++ toBytes 2 qid ++ toBytes 8 (d.getD s.clk.now))).1)) ∧
      (∀ c a, s.gateOne q .write (e.addr 8) 16 = (.fail c a, u) → s.entryEnd qid i st d = gone u) ∧
      ∀ t, s.gateOne q .write (e.addr 8) 16 = (.later t, u) → s.entryEnd qid i st d =
        (u.modEntry qid i (fun e => { e with done := true })).sched t .commandRestart qid i (1 + st) (match d with
          | none => 0
          | some n => n + 1))) ∧
  (∀ (s : State), exec .commandBounce s = .next (s.modEntry s.clk.subj.a s.clk.subj.b (fun e => { e with bounced := e.bounced || e.started.isNone }))) ∧
  (∀ (s : State) l, mget s.clk.subj.a s.work.launches = some l → exec .launchComplete s = .next
    (({ s with work := { s.work with launches := mdel s.clk.subj.a s.work.launches } } : State).entryEnd l.qid l.entry 0)) ∧
  ∀ (s : State) (qid i : Nat) (q : Queue) (e : Entry), s.clk.subj.a = qid → s.clk.subj.b = i → s.entry? qid i = some (q, e) →
    let c := s.clk.subj.c
    (c ≠ 0 → exec .commandRestart s = .next (s.entryEnd qid i (c - 1) (if s.clk.subj.d = 0 then none else some (s.clk.subj.d - 1)))) ∧
    (c = 0 → e.started = none → exec .commandRestart s = .next (s.startEntry qid i)) ∧
    (c = 0 → e.started ≠ none → exec .commandRestart s = .next ((s.modEntry qid i (fun e => { e with bounced := false })).sched s.clk.now .task qid i)) ∧
    (e.done = false → e.started ≠ none →
      let at_ := e.addr 0x10
      let ends := fun (ev : Instr) (u : State) (st : Nat) => exec ev s = .next (u.entryEnd qid i st)
      ends .waitTimeout s 5 ∧
      (let n := e.num 0x28 4
       let fields := zeroAt e.bytes 0x2D 19 = true ∧ n ≤ 4096 ∧ (e.num 0x2C 1 ≤ 3 ∨ e.num 0x2C 1 = 0xFF) ∧ (e.addr 0x18).toNat % 8 = 0
       (¬ fields → ends .launch s 2) ∧
       ∀ o u v ext wid params t, fields → s.adm.objs.find? (fun o => o.ctx == q.ctx &&
            decide (o.krecs.toNat ≤ at_.toNat ∧ at_.toNat + 128 ≤ o.krecs.toNat + o.krecSize) && (at_.toNat - o.krecs.toNat) % 128 == 0) = some o →
         s.gateAll q ([(.read, at_, 128)] ++ (if e.addr 0x18 = 0 then [] else [(.read, e.addr 0x18, 64)]) ++ [(.read, e.addr 0x20, 8 * n)]) = (.ok, u) →
         let k := u.bytesAt q.ctx at_ 128
         let pc := numAt k 0x3A 2
         let ptab := o.params + BitVec.ofNat 64 (16 * numAt k 0x38 2)
         let h := if e.addr 0x18 = 0 then k.drop 0x40 else u.bytesAt q.ctx (e.addr 0x18) 64
         numAt k 0x2C 2 ∈ [16, 32, 64, 128] → pc ≤ 16 → zeroAt k 0x2E 2 = true → zeroAt k 0x3C 4 = true → headerOf h = some (ext, wid) →
         u.gateAll q [(.read, ptab, 16 * pc)] = (.ok, v) →
         bindParams o (v.bytesAt q.ctx (e.addr 0x20) (8 * n)) n ((List.range pc).map (fun j => v.bytesAt q.ctx (ptab + BitVec.ofNat 64 (16 * j)) 16)) = .ok params →
         v.startLaunch qid i q e o k h params ext wid = .ok t → exec .launch s = .next t ∧ ∃ l, mget v.clk.fresh t.work.launches = some l ∧
           l.ctx = q.ctx ∧ l.qid = qid ∧ l.entry = i ∧ l.extents = ext ∧ l.widths = wid ∧ l.params = params ∧ l.lanes = (ext.take (numAt h 1 1)).prod ∧
           l.teams = (ext.drop (numAt h 1 1)).prod ∧ l.rows = numAt k 0x2C 2 ∧ l.prio = (if e.num 0x2C 1 = 0xFF then q.prio else e.num 0x2C 1) ∧
           l.start = o.code + BitVec.ofNat 64 (numAt k 0x20 8) ∧ l.placed = 0 ∧ l.ended = 0) ∧
      (let n := e.num 0x18 4
       let fields := zeroAt e.bytes 0x1C 36 = true ∧ n ≠ 0 ∧ n ≤ 256 ∧ at_.toNat % 64 = 0
       (¬ fields → ends .task s 2) ∧
       ∀ u, fields → e.prog = 0 → s.gateAll q [(.read, at_, 64 * n)] = (.ok, u) →
         let die := u.queueDie q
         let rs := (List.range n).map (fun j => u.bytesAt q.ctx (at_ + BitVec.ofNat 64 (64 * j)) 64)
         let sound := ∀ r ∈ rs, recOk r false = true ∧ recRivv r = false
         (¬ sound → ends .task u 2) ∧
         (sound → (∃ r ∈ rs, u.recFits q.ctx die r none = false) → ends .task u 6) ∧
         (sound → (∀ r ∈ rs, u.recFits q.ctx die r none = true) → exec .task s = .next (u.taskRecords qid i q die e n 0))) ∧
      (let fields := zeroAt e.bytes 0x18 40 = true ∧ e.num 0x10 8 % 64 = 0
       (¬ fields → ends .copy s 2) ∧ (fields → exec .copy s = .next (s.sched (s.clk.now + 520) .copyComplete qid 3 i))) ∧
      (c = 1 → ends .signalStore s 0 ∧ ends .signalAdd s 0) ∧
      (c ≠ 1 → let fields := zeroAt e.bytes 0x21 31 = true ∧ e.num 0x20 1 ≤ 1 ∧ at_.toNat % 8 = 0
       (¬ fields → ends .signalStore s 2 ∧ ends .signalAdd s 2) ∧
       (∀ u, fields → s.gateAll q [(.write, at_, 8)] = (.ok, u) → exec .signalStore s =
         .next ((u.vwrite q.ctx at_ (toBytes 8 (e.num 0x18 8 % 2 ^ 64))).1.sched (u.writeTime q.ctx at_ 8) .signalStore qid i 1)) ∧
       ∀ u leaf size b, fields → s.gateAll q [(.atomic, at_, 8)] = (.ok, u) → u.access q.ctx .atomic at_ = .ok (leaf, size, b) →
         (poisoned (u.descOf (b / 64)) = true → exec .signalAdd s = .next (u.sched (u.writeTime q.ctx at_ 8) .signalAdd qid i 1)) ∧
         (poisoned (u.descOf (b / 64)) = false → exec .signalAdd s =
           .next ((u.vwrite q.ctx at_ (toBytes 8 ((ofBytes (u.bytesAt q.ctx at_ 8) + e.num 0x18 8) % 2 ^ 64))).1.sched (u.writeTime q.ctx at_ 8) .signalAdd qid i 1))) ∧
      let fields := zeroAt e.bytes 0x21 3 = true ∧ zeroAt e.bytes 0x28 24 = true ∧ e.num 0x20 1 ≤ 2 ∧ at_.toNat % 8 = 0
      (¬ fields → ends .wait s 2) ∧
      let stays := s.modEntry qid i (fun e => { e with prog := 1 })
      let armed := if e.num 0x24 4 = 0 ∨ e.prog = 1 then stays else stays.sched (e.started.getD s.clk.now + e.num 0x24 4) .waitTimeout qid i
      ∀ u bs, fields → armed.gateAll q [(.read, at_, 8)] = (.ok, u) → u.vread q.ctx at_ 8 = .ok bs →
        let v := ofBytes bs
        let w := e.num 0x18 8
        let holds := e.num 0x20 1 = 0 ∧ v = w ∨ e.num 0x20 1 = 1 ∧ v ≠ w ∨ e.num 0x20 1 = 2 ∧ w ≤ v
        (holds → ends .wait u 0) ∧ (¬ holds → exec .wait s = .next u))

/-! ## Maps and management commands -/

/-- The MAP and MGMT commands (R69 to R73, R76, R93 to R95, R104): MAP installs or removes translations, gives pages to the host once requests and leases have ended,
or pulls them; a pull ends in one of two ways. STATUS, MONITORS, ATTEST and FLASHVERIFY write a result record; queues are created and destroyed; keys are bound; a
context is reset when none of its teams is left; flash is written; MODRESET resets behind its signal, however long that takes. A command that only context 0 may
give ends with status 7 for others (R69), a SUBOP that is not assigned with status 1. (The statuses of a service and of QCREATE and QDESTROY that the manual does not
give are the model's choice, logs 92 and 93.) -/
def Obligations.MapsAndManagement : Prop :=
  (∀ (s : State) (qid i : Nat) (q : Queue) (e : Entry), s.clk.subj.a = qid → s.clk.subj.b = i → s.entry? qid i = some (q, e) → e.done = false → e.started ≠ none →
    let c := s.clk.subj.c
    let runs := fun (ev : Instr) (u : State) => exec ev s = .next u
    let ends := fun (ev : Instr) (u : State) (st : Nat) => runs ev (u.entryEnd qid i st)
    let ctx := q.ctx
    let size := e.num 0x2C 1
    let count := e.num 0x28 4
    let bytes := pageBytes size
    let fieldsOk := zeroAt e.bytes 0x2E 18 = true ∧ e.num 0x2D 1 ≤ 3
    ends .mgmtUnassigned s 1 ∧
    (let code := fun (st : Nat) => if st = 0 then 0 else if st = 1 then 2 else if st = 7 then 7 else 4
     let maps := fun (ev : Instr) (x : MapRes × State) =>
       let waits := x.1.wait ≠ 0 ∧ x.2.inFlight ctx x.1.page x.1.wait = true
       (waits → runs ev (x.2.sched (x.2.clk.now + 1) ev qid i (1 + x.1.status) (x.1.page + 2 ^ 48 * x.1.wait))) ∧ (¬ waits → ends ev x.2 (code x.1.status))
     let pa := e.num 0x18 8
     (c ≠ 0 → let r : MapRes := ⟨c - 1, 0, s.clk.subj.d % 2 ^ 48, s.clk.subj.d / 2 ^ 48⟩
       maps .mapInstall (r, s) ∧ maps .mapRemove (r, s)) ∧
     (c = 0 → (¬ (fieldsOk ∧ pa % 65536 = 0 ∧ pa < 2 ^ 40) → ends .mapInstall s 2) ∧ (¬ fieldsOk → ends .mapRemove s 2) ∧
       (fieldsOk → pa % 65536 = 0 → pa < 2 ^ 40 → let r := s.doMapins ctx (e.num 0x10 8) ((e.addr 0x20 &&& ~~~0xFFFFFF0000) ||| BitVec.ofNat 64 pa) count size
         (r.1.status = 1 → ends .mapInstall s 2) ∧ (r.1.status ≠ 1 → maps .mapInstall r)) ∧
       (fieldsOk → maps .mapRemove (s.doMaprem ctx (e.num 0x10 8) count size)))) ∧
    (let va := e.num 0x10 8 + c / 3 * bytes
     let n := bytes / 65536
     let leaf := BitVec.ofNat 64 s.clk.subj.d
     let lost := c = 0 ∧ s.anyLost ctx (e.num 0x10 8) size count = true
     (e.shareOk = false → ends .mapGiveToHost s 2 ∧ ends .mapTakeFromHost s 2) ∧
     (e.shareOk = true → lost → ends .mapGiveToHost s 8 ∧ ends .mapTakeFromHost s 8) ∧
     (e.shareOk = true → ¬ lost → count ≤ c / 3 → ends .mapGiveToHost s 0) ∧
     (∀ st, e.shareOk = true → ¬ lost → c / 3 < count → c % 3 = 0 → s.sharedLeaf ctx va size = .error st → ends .mapGiveToHost s st) ∧
     (∀ at_ l, e.shareOk = true → ¬ lost → c / 3 < count → c % 3 = 0 → s.sharedLeaf ctx va size = .ok (at_, l) →
       (leafHown l = true → runs .mapGiveToHost (s.sched s.clk.now .mapGiveToHost qid i (c + 3))) ∧
       (leafHown l = false → runs .mapGiveToHost ((((s.tableWrite at_ 0).invalidate ctx (pageOf va) n).watchPage ctx va bytes).sched s.clk.now .mapGiveToHost qid i
         (c + 1) l.toNat))) ∧
     (e.shareOk = true → c / 3 < count → c % 3 = 1 →
       (s.inFlight ctx (pageOf va) n = true → runs .mapGiveToHost (s.sched (s.clk.now + 1) .mapGiveToHost qid i c leaf.toNat)) ∧
       let quiet := s.quietTime (leafPfn leaf * 65536) bytes
       (s.inFlight ctx (pageOf va) n = false → s.clk.now < quiet → runs .mapGiveToHost (s.sched quiet .mapGiveToHost qid i c leaf.toNat)) ∧
       (s.inFlight ctx (pageOf va) n = false → quiet ≤ s.clk.now → runs .mapGiveToHost ((s.reply (2 ^ 33 + ctx) 5 (toBytes 8 va ++
         s.stored (leafPfn leaf * 65536) bytes)).sched (s.clk.now + 3000) .mapGiveToHost qid i (c + 1) leaf.toNat))) ∧
     ∀ at_, e.shareOk = true → c / 3 < count → c % 3 = 2 → s.pteAddr ctx va = some at_ →
       let a := leafPfn leaf * 65536
       let u := s.tableWrite at_ (leaf ||| 0x200)
       runs .mapGiveToHost ((({ u with mem := { u.mem with slices := u.mem.slices.filter (fun y => decide (¬ (y.tenant = ctx ∧ a ≤ y.loc * 64 ∧ y.loc * 64 < a + bytes))) } }
         : State).wakePages ctx (pageOf va) n 0x0102).sched s.clk.now .mapGiveToHost qid i (c + 1))) ∧
    (let va := e.num 0x10 8 + c * bytes
     let lost := c = 0 ∧ s.anyLost ctx (e.num 0x10 8) size count = true
     (e.shareOk = true → ¬ lost → count ≤ c → ends .mapTakeFromHost s 0) ∧
     (∀ st, e.shareOk = true → ¬ lost → c < count → s.sharedLeaf ctx va size = .error st → ends .mapTakeFromHost s st) ∧
     ∀ at_ l, e.shareOk = true → ¬ lost → c < count → s.sharedLeaf ctx va size = .ok (at_, l) →
       (leafHown l = true → runs .mapTakeFromHost ((s.startPull ctx (pageOf va)).sched (s.clk.now + 3000) .mapTakeFromHost qid i c)) ∧
       (leafHown l = false → runs .mapTakeFromHost (s.sched s.clk.now .mapTakeFromHost qid i (c + 1)))) ∧
    (zeroAt e.bytes 0x12 6 = true →
      (∀ u, let at_ := e.addr 0x18
        let writes := fun (ev : Instr) (rec : List Byte) => (c = 1 → ends ev s 0) ∧
          (c ≠ 1 → s.gateAll q [(.write, at_, rec.length)] = (.ok, u) → runs ev ((u.vwrite ctx at_ rec).1.sched (u.writeTime ctx at_ rec.length) ev qid i 1))
        let body := (e.bytes.drop 0x20).take 32 ++ s.adm.fwHash ++ s.adm.cfgHash ++ toBytes 8 s.clk.now ++ toBytes 1 ctx ++ List.replicate 23 0
        writes .status (openRecord 0 s.statusNums) ∧ writes .monitors (openRecord 1 s.monitorNums) ∧
        writes .attest (body ++ edSign Config.identitySeed body) ∧
        (ctx = 0 → size ≤ 3 → writes .flashverify (toBytes 8 (s.slotValid size).toNat))) ∧
      (ctx ≠ 0 → (∀ ev ∈ [Instr.ctxbind, .ctxreset, .flashwrite, .flashverify], ends ev s 7) ∧ (c ≠ 1 → ends .modreset s 7)) ∧
      (let n := e.num 0x38 2
       let log := e.num 0x3A 1
       let prio := e.num 0x3B 1
       let own := e.num 0x3C 1
       let base := e.addr 0x20
       let good := n ≤ 1023 ∧ s.queue? n = none ∧ 4 ≤ log ∧ log ≤ 12 ∧ prio ≤ 3 ∧ own ≤ 63 ∧ e.num 0x20 8 % (64 * 2 ^ log) = 0 ∧ e.num 0x28 8 % 4 = 0 ∧
         e.num 0x30 8 % 16 = 0 ∧ (s.adm.queues.filter (fun y => y.2.ctx == own)).length < 64
       (ctx ≠ 0 → own ≠ ctx → zeroAt e.bytes 0x3D 3 = true → ends .qcreate s 7) ∧
       (zeroAt e.bytes 0x3D 3 = false → ends .qcreate s 2) ∧
       (zeroAt e.bytes 0x3D 3 = true → ctx = 0 ∨ own = ctx → ¬ good → ends .qcreate s 2) ∧
       (zeroAt e.bytes 0x3D 3 = true → ctx = 0 ∨ own = ctx → good → (∀ lf sz, s.leafOf own (ptrVa base) ≠ .leaf lf sz) → ends .qcreate s 4) ∧
       ∀ lf sz, zeroAt e.bytes 0x3D 3 = true → ctx = 0 ∨ own = ctx → good → s.leafOf own (ptrVa base) = .leaf lf sz →
         ends .qcreate ({ s with adm := { s.adm with
           queues := mput n ⟨own, base, log, 0, 0, prio, e.addr 0x28, e.addr 0x30, false, 0, 0, none, false, []⟩ s.adm.queues } }) 0) ∧
      (c ≠ 2 → s.queue? (e.num 0x38 2) = none → ends .qdestroy s (if c = 1 then 0 else 2)) ∧
      (∀ y, let t := e.num 0x38 2
        c ≠ 2 → s.queue? t = some y →
        (ctx ≠ 0 → y.ctx ≠ ctx → ends .qdestroy s 7) ∧ (ctx = 0 ∨ y.ctx = ctx →
        let u := s.modQueue t (fun y => { y with dying := true, entries := y.entries.filter (fun e => e.started.isSome) })
        let left := (y.entries.filter (fun e => e.started.isSome)).filter (fun e => !(t == qid && e.idx == i))
        (left = [] → runs .qdestroy ((u.entryEnd qid i 0).queueGone t qid i)) ∧
        (left ≠ [] → runs .qdestroy (u.sched (s.clk.now + 1) .qdestroy qid i 1)))) ∧
      (ctx = 0 →
        (let n := e.num 0x18 1
         (n = 0 ∨ 63 < n ∨ zeroAt e.bytes 0x19 7 = false → ends .ctxbind s 2) ∧
         (n ≠ 0 → n ≤ 63 → zeroAt e.bytes 0x19 7 = true →
           ends .ctxbind ({ s with adm := { s.adm with keys := mput n ((e.bytes.drop 0x20).take 32) s.adm.keys } }) 0)) ∧
        (let n := e.num 0x3C 1
         let u := if c = 1 then s else s.ctxStop n qid
         (63 < n → ends .ctxreset s 2) ∧
         (n ≤ 63 → (∃ t ∈ u.work.teams, t.2.ctx = n) → runs .ctxreset (u.sched (s.clk.now + 1) .ctxreset qid i 1)) ∧
         (n ≤ 63 → (∀ t ∈ u.work.teams, t.2.ctx ≠ n) → ends .ctxreset ((u.dropLaunches n qid).ctxClear n) 0)) ∧
        (let len := e.num 0x28 4
         let first := flagAt e.bytes 0x2D 0
         let last := flagAt e.bytes 0x2D 1
         let y := s.adm.flash.getD size ⟨false, [], false⟩
         let good := len ≠ 0 ∧ len ≤ 57344 ∧ size ≤ 3 ∧ e.num 0x2D 1 ≤ 3 ∧ zeroAt e.bytes 0x2E 2 = true ∧ zeroAt e.bytes 0x38 8 = true ∧
           e.num 0x30 8 + len ≤ slotCap size ∧ (e.addr 0x20).toNat + len ≤ 0x10000 ∧ (first = true ∨ y.first = true)
         let piece := putFlash (if first then [] else y.bytes) (e.num 0x30 8) (s.bytesAt ctx (e.addr 0x20) len)
         let u : State := { s with adm := { s.adm with flash := lset s.adm.flash size ⟨y.erased || first, piece, !last⟩ } }
         (¬ good → ends .flashwrite s 2) ∧
         (good → last = true → u.slotValid size = false → ends .flashwrite u 2) ∧
         (good → last = false ∨ u.slotValid size = true → ends .flashwrite u 0)) ∧
        (3 < size → ends .flashverify s 2) ∧
        (c ≠ 1 → runs .modreset ((s.entryEnd qid i 0).sched (s.clk.now + 1) .modreset qid i 1)))) ∧
    (c = 1 → runs .modreset (s.sched (s.clk.now + 1) .modreset qid i 1)) ∧
    (c = 2 → runs .qdestroy (s.queueGone s.clk.subj.d qid i))) ∧
  (∀ (s : State) (t q i : Nat) (y : Queue), s.queue? t = some y →
    (y.entries = [] → s.queueGone t q i = { s with adm := { s.adm with queues := mdel t s.adm.queues } }) ∧
    (y.entries ≠ [] → s.queueGone t q i = s.sched (s.clk.now + 1) .qdestroy q i 2 t)) ∧
  (∀ (s : State), s.clk.subj.c = 1 → s.entry? s.clk.subj.a s.clk.subj.b = none → exec .modreset s = .next (s.sched s.clk.now .moduleReset 0)) ∧
  ∀ (s : State) x, mget s.clk.subj.a s.adm.pulls = some x →
    let u : State := { s with adm := { s.adm with pulls := mdel s.clk.subj.a s.adm.pulls } }
    exec .migrationPullDone s = .next (u.pulled x.1 x.2) ∧ exec .migrationPullFail s = .next (u.pullLost x.1 x.2)

/-! ## Firmware services -/

/-- The services of FWCALL (R93 to R98, R102, R204, R275 to R278, R283 to R288, R401): each ends with its STATUS in G1 and its results in their registers, and the
path that waited goes on. Only context 0 may grant, partition, and set sluice intervals (status 7); arguments out of range give 1, what is in use 6; a buffer that
cannot be accessed gives 1, and the service waits for the walk or the light fault of one (R86, R89, R93). -/
def Obligations.Services : Prop :=
  (∀ (s : State) (k st : Nat) (g : Gang) (p : Path) (res : List (Nat × DWord)), s.gang? k = some g →
    g.paths.find? (fun q => match q.wait with
      | .fwcall _ _ => true
      | _ => false) = some p →
    s.fwEnd k st res = (s.landVar k 0 p.lanes p.pc .general (.g 1 (BitVec.ofNat 64 st) :: res.map (fun r => .g r.1 r.2))).modGang k (fun h => { h with
      paths := h.paths.map (fun q => if q.lanes = p.lanes then { q.next q.wlen with wait := .none } else q) })) ∧
  ∀ (s : State) (k ctx : Nat) (g : Gang) (l : List Nat), s.clk.subj.a = k → s.fwArgs k = some (g, l) → s.ctxOf g = ctx →
    let a1 := l.getD 0 0
    let a2 := l.getD 1 0
    let a3 := l.getD 2 0
    let a4 := l.getD 3 0
    let b := s.clk.subj.b
    let ends := fun (ev : Instr) (u : State) (st : Nat) (res : List (Nat × DWord)) => exec ev s = .next (u.fwEnd k st res)
    let own := fun (ev : Instr) => ctx ≠ 0 → ends ev s 7 []
    let ready := fun (v : State) (kind : AccKind) (a n : Nat) => v.ready ctx (((v.gang? k).map Gang.die).getD 0) kind (BitVec.ofNat 64 a) n false
    -- the service's buffer has been found good for reading, for writing
    let reads := fun (v : State) (a n : Nat) (u : State) => ∃ w, ready v .read a n = (.ok, w) ∧ u = w.readRecs ctx (BitVec.ofNat 64 a) n
    let may := fun (v : State) (a n : Nat) (u : State) => ready v .write a n = (.ok, u)
    let gates := fun (ev : Instr) (kind : AccKind) (a n : Nat) =>
      (∀ c x u, ready s kind a n = (.fail c x, u) → ends ev u 1 []) ∧
      (∀ t u, ready s kind a n = (.later t, u) → exec ev s = .next (u.sched t ev k b s.clk.subj.c s.clk.subj.d))
    (let maps := fun (ev : Instr) (x : MapRes × State) =>
       let waits := x.1.wait ≠ 0 ∧ x.2.inFlight ctx x.1.page x.1.wait = true
       (waits → exec ev s = .next (x.2.sched (x.2.clk.now + 1) ev k 1 (x.1.status + 16 * x.1.done) (x.1.page + 2 ^ 48 * x.1.wait))) ∧
       (¬ waits → ends ev x.2 x.1.status [(3, BitVec.ofNat 64 x.1.done)])
     (b ≠ 1 → maps .mapins (s.doMapins ctx a1 (BitVec.ofNat 64 a2) a3 a4) ∧ maps .maprem (s.doMaprem ctx a1 a3 a4)) ∧
     (b = 1 → let r : MapRes := ⟨s.clk.subj.c % 16, s.clk.subj.c / 16, s.clk.subj.d % 2 ^ 48, s.clk.subj.d / 2 ^ 48⟩
       maps .mapins (r, s) ∧ maps .maprem (r, s))) ∧
    (2 ^ 57 ≤ a1 → ends .mapget s 1 []) ∧
    (a1 < 2 ^ 57 → mget ctx s.mem.roots = none → ends .mapget s 0 [(2, 0), (4, 4)]) ∧
    (∀ root level at_, a1 < 2 ^ 57 → mget ctx s.mem.roots = some root → (s.slotAt ctx a1 0 false 4 root).1 = some (level, at_) →
      ends .mapget s 0 [(2, s.tableRead at_), (4, BitVec.ofNat 64 level)]) ∧
    own .grant ∧ own .partset ∧ own .ctxpart ∧ own .sluiceset ∧
    (ctx = 0 →
      (let stack := a1 / 2 ^ 36 % 2 ^ 4
       let first := a1 % 2 ^ 20
       let good := a1 = stack * 2 ^ 36 + first ∧ stack < 12 ∧ a3 ≠ 0 ∧ first + a3 ≤ lastGranule + 1 ∧ a4 < 64
       let part := s.partOf a4
       let gs := (List.range a3).map (fun i => stack * 2 ^ 20 + first + i)
       let free := stack ∈ s.partStacks part ∧ ∀ n ∈ gs, ownAlloc (s.ownerOf n) = false ∧ ownFw (s.ownerOf n) = false
       (¬ good → ends .grant s 1 []) ∧ (good → ¬ free → ends .grant s 2 []) ∧
       (good → free → ends .grant ((gs.foldl (fun (u : State) n => u.setOwner n (ownEntry true false part a4)) s).clearRange ((stack * 2 ^ 20 + first) * 65536) (a3 * 65536)) 0 [])) ∧
      (¬ (a1 < 8 ∧ a2 % 8 = 0 ∧ a3 < 2 ^ 12) → ends .partset s 1 []) ∧
      (a1 < 8 → a2 % 8 = 0 → a3 < 2 ^ 12 → gates .partset .read a2 24) ∧
      (∀ u bs, a1 < 8 → a2 % 8 = 0 → a3 < 2 ^ 12 → reads s a2 24 u → u.vread ctx (BitVec.ofNat 64 a2) 24 = .ok bs →
        let cl := ofBytes bs
        let busy := u.partBusy (a1 :: (u.adm.parts.filter (fun p => p.1 != a1 && (Nat.land p.2.1 cl != 0 || Nat.land p.2.2 a3 != 0))).map Prod.fst)
        (2 ^ 136 ≤ cl → ends .partset u 1 []) ∧ (cl < 2 ^ 136 → busy = true → ends .partset u 6 []) ∧
        let rest := u.adm.parts.map (fun p => (p.1, (Nat.xor p.2.1 (Nat.land p.2.1 cl), Nat.xor p.2.2 (Nat.land p.2.2 a3))))
        (cl < 2 ^ 136 → busy = false → ends .partset ({ u with adm := { u.adm with parts := mput a1 (cl, a3) rest } }) 0 [])) ∧
      (let good := a1 ≠ 0 ∧ a1 < 64 ∧ (mget a2 s.adm.parts).isSome = true
       (¬ good → ends .ctxpart s 1 []) ∧ (good → s.partBusy [a2, s.partOf a1] = true → ends .ctxpart s 6 []) ∧
       (good → s.partBusy [a2, s.partOf a1] = false → ends .ctxpart ({ s with adm := { s.adm with ctxPart := mset 0 a1 a2 s.adm.ctxPart } }) 0 [])) ∧
      (let good := a1 < 8 ∧ a2 < 8 ∧ 32 ≤ a3 ∧ a3 ≤ 65536
       (¬ good → ends .sluiceset s 1 []) ∧
       (good → ends .sluiceset ({ s with mem := { s.mem with sluice := mset 512 (a1 * 8 + a2) a3 s.mem.sluice } }) 0 []))) ∧
    (8 ≤ a1 ∨ 8 ≤ a2 → ends .sluiceget s 1 []) ∧
    (a1 < 8 → a2 < 8 → ctx ≠ 0 → a1 ≠ s.partOf ctx → ends .sluiceget s 7 []) ∧
    (a1 < 8 → a2 < 8 → ctx = 0 ∨ a1 = s.partOf ctx → ends .sluiceget s 0 [(3, BitVec.ofNat 64 (mgetD 512 (a1 * 8 + a2) s.mem.sluice))]) ∧
    (let good := fun (c : Conn) => a1 ≠ 0 ∧ a1 < 4096 ∧ a4 < 2 ∧ c.ctx = ctx ∧ c.up = true
     (∀ c, mget a3 s.adm.conns = some c → (good c →
         ends .peerbind ({ s with adm := { s.adm with peers := mput (ctx * 4096 + a1) ⟨a3, BitVec.ofNat 64 a2, a4 == 1, c.epoch, true⟩ s.adm.peers } }) 0 []) ∧
       (¬ good c → ends .peerbind s 1 [])) ∧
     (mget a3 s.adm.conns = none → ends .peerbind s 1 [])) ∧
    (mget ctx s.adm.census = none → gates .censusStart .read a1 256) ∧
    (∀ u bs, mget ctx s.adm.census = none → reads s a1 256 u → u.vread ctx (BitVec.ofNat 64 a1) 256 = .ok bs →
      let word := fun (i : Nat) => BitVec.ofNat 64 (ofBytes ((bs.drop (8 * i)).take 8))
      ends .censusStart ({ u with adm := { u.adm with
        census := mput ctx ⟨(List.range 16).map (fun i => (word (2 * i), word (2 * i + 1))), s.clk.now, []⟩ u.adm.census } }) 0 []) ∧
    ((mget ctx s.adm.census).isSome = true → ends .censusStart s 6 []) ∧
    (mget ctx s.adm.census = none → ends .censusStop s 6 []) ∧
    ((mget ctx s.adm.census).isSome = true → gates .censusStop .write a2 (136 * 1024)) ∧
    (∀ c u, mget ctx s.adm.census = some c → may s a2 (136 * 1024) u →
      let mine := u.partClusters (u.partOf ctx)
      let v := (u.vwrite ctx (BitVec.ofNat 64 a2) ((List.range 136).flatMap (fun n =>
        if mine.contains n then censusBytes c n s.clk.now else List.replicate 1024 0))).1
      ends .censusStop ({ v with adm := { v.adm with census := mdel ctx v.adm.census } }) 0 []) ∧
    (a2 % 64 ≠ 0 ∨ a3 < 6 ∨ 16 < a3 → ends .sampleOn s 1 []) ∧
    (a2 % 64 = 0 → 6 ≤ a3 → a3 ≤ 16 → gates .sampleOn .write a2 (64 * 2 ^ a3)) ∧
    (∀ u v, a2 % 64 = 0 → 6 ≤ a3 → a3 ≤ 16 → may s a2 (64 * 2 ^ a3) u → may u a4 8 v →
      ends .sampleOn ({ v with adm := { v.adm with samples := mput ctx ⟨a1, BitVec.ofNat 64 a2, a3, BitVec.ofNat 64 a4, [], 0, []⟩ v.adm.samples } }) 0 []) ∧
    ends .sampleOff ({ s with adm := { s.adm with samples := mdel ctx s.adm.samples } }) 0 [] ∧
    ((mget ctx s.adm.sess).isSome = true → ends .recsessRecord s 6 [] ∧ ends .recsessReplay s 6 []) ∧
    (mget ctx s.adm.sess = none → a4 / 2 ≠ 0 ∨ a3 < 0x8080 → ends .recsessRecord s 1 [] ∧ ends .recsessReplay s 1 []) ∧
    (mget ctx s.adm.sess = none → a4 / 2 = 0 → 0x8080 ≤ a3 → gates .recsessRecord .read a2 a3 ∧ gates .recsessReplay .read a2 a3) ∧
    (∀ u v h (replay : Bool), mget ctx s.adm.sess = none → a4 / 2 = 0 → 0x8080 ≤ a3 → reads s a2 a3 u → may u a2 a3 v →
      v.vread ctx (BitVec.ofNat 64 a2) 128 = .ok h → headerOk h a3 = true →
      ∃ w y, ends (if replay then .recsessReplay else .recsessRecord) w 0 [] ∧ mget ctx w.adm.sess = some y ∧ y.replay = replay ∧ y.buf = BitVec.ofNat 64 a2 ∧ y.size = a3 ∧
        (y.stopdiv = true ↔ a4 % 2 = 1) ∧ y.nlaunch = 0 ∧ y.ngang = 0 ∧ y.hcnt = 0 ∧ y.full = false ∧ y.diverged = false ∧ y.ids = [] ∧ y.seqs = []) ∧
    (mget ctx s.adm.sess = none → b = 0 → ends .recsessEnd s 6 []) ∧
    (∀ x, mget ctx s.adm.sess = some x →
      (b = 1 → x.serial = s.clk.subj.c → ends .recsessEnd ({ s with adm := { s.adm with sess := mdel ctx s.adm.sess } }) 0 []) ∧
      (b = 2 → exec .recsessEnd s = .next (s.sched (s.writeTime ctx x.buf x.size) .recsessEnd k 1 s.clk.subj.c)) ∧
      (b = 0 → a4 / 2 ≠ 0 → ends .recsessEnd s 1 []) ∧
      (b = 0 → a4 / 2 = 0 →
        let u := ((if x.full || x.diverged then s else s.sessPut ctx (((s.gang? k).map Gang.die).getD 0) (x.buf + 1) [1]).modSess ctx (fun x => { x with full := true, diverged := false })).wakeWhere
          (fun _ q p => q.ctx == ctx && (match p.st with
            | .cistern 0x0305 _ _ => true
            | _ => false))
        exec .recsessEnd s = .next (u.sched ((((mget ctx u.adm.sess).map (fun y => y.late.map (fun w => w.1))).getD []).foldl max s.clk.now + 1) .recsessEnd k 2 x.serial)))

/-! ## Events of the memory system -/

/-- What the memory system's own events do (R87 to R90, R96, R103, R202, R206, R209 to R211, R232, R253, R263, R273, R287): a walk ends, or begins again where its
generation is over; a request that has waited for its class's interval leaves its queue; timers and chains wake; one woken entry is reissued per port, be it of a
request, of an engine's operation or of a unit; leases end; a light fault is served with ACC, and with DIRTY for a write; a closed group's stores are sent in parts,
its records go to their table; an array that is idle for 1,200,000 clk is re-encoded; a replay gate that has admitted nothing for as long is a divergence. -/
def Obligations.MemorySystemEvents : Prop :=
  ∀ (s : State),
    let a := s.clk.subj.a
    let b := s.clk.subj.b
    (∀ k, mget a s.mem.walks = some k →
      (k.gen ≠ s.gen k.die k.ctx → exec .walkComplete s = .next (({ s with mem := { s.mem with
        wcache := s.mem.wcache.filter (fun w => decide (¬ (w.die = k.die ∧ w.ctx = k.ctx))) } } : State).walkBegin a)) ∧
      (k.gen = s.gen k.die k.ctx →
        let w := s.walkNow k.die k.ctx (k.page * 65536)
        let u := s.walkFill k.die k.ctx k.page k.gen w
        let v := k.waiters.foldl (fun (v : State) y => match y with
          | .part r b => v.walkPart r b w.1
          | .fetch who => v.walkFetch who k.ctx k.page w.1
          | .op id => v.walkOp id k.page (match w.1 with
            | .leaf _ _ => true
            | _ => false)) { u with mem := { u.mem with walks := mdel a u.mem.walks } }
        exec .walkComplete s = .next (match v.mem.walks.find? (fun y => y.2.die == k.die && !y.2.started) with
          | none => v
          | some y => v.walkBegin y.1))) ∧
    (s.clk.subj.c = 1 → exec .sluiceBounce s = .next (s.opSluiced a)) ∧ (s.clk.subj.c = 2 → exec .sluiceBounce s = .next (s.uncSluiced a)) ∧
    (∀ q p cls till, s.clk.subj.c = 0 → s.req? a = some q → q.parts[b]? = some p → p.till = some (cls, till) → p.st = .walking ∨ p.st = .flying →
      let again := s.clk.now + s.sluiceOf q.ctx cls
      (s.clk.now < till → exec .sluiceBounce s = .next s) ∧
      (till ≤ s.clk.now → q.kind.silent = true → exec .sluiceBounce s = .next (s.failPart a b 0)) ∧
      (till ≤ s.clk.now → q.kind.silent = false → p.st = .walking → exec .sluiceBounce s = .next (s.park a b 0x0301 0 2)) ∧
      (till ≤ s.clk.now → q.kind.silent = false → p.st = .flying →
        exec .sluiceBounce s = .next ((s.park a b 0x0301 again cls).sched again .cisternWake a))) ∧
    (∃ t, exec .cisternWake s = .next t ∧ t.mem.bytes = s.mem.bytes ∧ t.work.gangs = s.work.gangs ∧ t.mem.reqs = s.mem.reqs.map (fun r => (r.1, { r.2 with
      parts := r.2.parts.map (fun p =>
        let due : Bool := match p.st with
          | .cistern cause key _ =>
            if s.clk.subj.c = 1 then decide (r.1 = a ∧ cause = 0x0305)
            else decide ((cause = 0x0301 ∧ r.1 = a ∧ key ≠ 0 ∧ key ≤ s.clk.now) ∨ (cause = 0x0302 ∧ key = a ∧ s.req? a = none))
          | _ => false
        if due then { p with st := .woken s.clk.now } else p) }))) ∧
    ((s.reissueNext a = none → exec .reissue s = .next s) ∧
      let port := { s with mem := { s.mem with reissued := mput a s.clk.now s.mem.reissued } }
      let goes := fun (u : State) => exec .reissue s = .next (if (u.reissueNext a).isSome then u.kickReissue a else u)
      (∀ r q, s.reissueNext a = some (.req r) → s.req? r = some q →
        goes ((List.range q.parts.length).foldl (fun (u : State) b => if ((q.parts[b]?).bind Part.wokenAt).isSome then u.sendPart r b else u) port)) ∧
      (∀ id, s.reissueNext a = some (.op id) → goes (port.reissueOp id)) ∧ ∀ id, s.reissueNext a = some (.unc id) → goes (port.reissueUnc id)) ∧
    exec .leaseExpiry s = .next { s with mem := { s.mem with
      l1 := s.mem.l1.filter (fun l => decide (¬ (l.cluster = a ∧ l.loc = b ∧ l.expiry ≤ s.clk.now))) } } ∧
    exec .fetchWake s = .next { s with mem := { s.mem with
      fetches := s.mem.fetches.filter (fun y => decide (¬ (y.ctx = a ∧ y.page = b ∧ bounces y.cause = true))) } } ∧
    (∀ (ctx : Nat) (va : DWord) (w : Bool),
      let page := pageOf (ptrVa va)
      (∀ at_ e size, s.pteAddr ctx (ptrVa va) = some at_ → (s.walkNow 0 ctx (ptrVa va)).1 = .leaf e size →
        let n := pageBytes size / 65536
        let u := (s.tableWrite at_ (e ||| 0x40 ||| (if w then 0x20 else 0))).dropTlb ctx (page / n * n) n
        s.lightServe ctx (ptrVa va) w = u) ∧
      (∀ e size, (s.lightServe ctx (ptrVa va) w).leafOf ctx (ptrVa va) = .leaf e size →
        let n := pageBytes size / 65536
        exec (.lightFault ctx va w) s = .next ((s.lightServe ctx (ptrVa va) w).wakePages ctx (page / n * n) n 0x0101)) ∧
      ((∀ e size, (s.lightServe ctx (ptrVa va) w).leafOf ctx (ptrVa va) ≠ .leaf e size) →
        exec (.lightFault ctx va w) s = .next ((s.lightServe ctx (ptrVa va) w).wakePages ctx page 1 0x0101))) ∧
    (∀ tm p, s.team? a = some tm → tm.prot = some p →
      (s.clk.subj.c = 2 → exec .groupRelease s = .next (s.arriveHeld a b)) ∧
      (∀ c rest, s.clk.subj.c = 0 → p.closed = c :: rest →
        (s.clk.now < c.2 → exec .groupRelease s = .next s) ∧
        (c.2 ≤ s.clk.now →
          let later := p.snaps.filter (fun y => decide (c.1 < y.group))
          let snaps := if later = [] then p.snaps.drop (p.snaps.length - 1) else later
          let u := s.setTeam a { tm with prot := some { p with
            closed := rest, snaps := snaps.map (fun y => { y with rolls := 0 }), recs := p.recs.filter (fun h => h.1 ≠ c.1) } }
          exec .groupRelease s = .next (((p.recs.filter (fun h => h.1 = c.1)).foldl State.releaseRec u).sendGroup a c.1))) ∧
      (s.clk.subj.c = 1 →
        let before := ((s.heldOf a b).map Prod.fst).foldl min s.clk.fresh
        let sc := scopeOfSub (((s.heldOf a b).map (fun y => y.2.2)).foldl min 65536)
        let ready := ∀ k ∈ tm.gangs, ∀ g, s.gang? k = some g → g.relDone s.clk.now before sc = true
        (ready → exec .groupRelease s = .next (s.sendGroup a b)) ∧
        (¬ ready → exec .groupRelease s = .next (s.sched (s.clk.now + 1) .groupRelease a b 1)))) ∧
    (let r := s.arrNow a
     (r.st = .active → r.last + 1200000 ≤ s.clk.now → exec .retentionEntry s =
       .next ((s.setArr a { r with st := .entering s.clk.now }).sched (s.clk.now + 4 * arrKib a) .retentionEntryDone a s.clk.now)) ∧
     (r.st = .active → s.clk.now < r.last + 1200000 → exec .retentionEntry s = .next (s.sched (r.last + 1200000) .retentionEntry a)) ∧
     (r.st ≠ .active → exec .retentionEntry s = .next s) ∧
     (r.st = .entering b → exec .retentionEntryDone s = .next (s.setArr a { r with st := .retained })) ∧
     (∀ n, r.st = .entering n → n ≠ b → exec .retentionEntryDone s = .next s) ∧
     (∀ till, r.st = .leaving till → till ≤ s.clk.now → exec .retentionExitDone s =
       .next ((s.setArr a { r with st := .active }).sched (r.last + 1200000) .retentionEntry a)) ∧
     (∀ till, r.st = .leaving till → s.clk.now < till → exec .retentionExitDone s = .next s)) ∧
    ∀ y, mget a s.adm.sess = some y →
      let waits := ∃ r ∈ s.mem.reqs, r.2.ctx = a ∧ ∃ p ∈ r.2.parts, ∃ key, p.st = .cistern 0x0305 b key
      let due := y.moved.getD b 0 + 1200000
      (¬ waits ∨ y.diverged = true → exec .replayStall s = .next s) ∧
      (waits → y.diverged = false → s.clk.now < due → exec .replayStall s = .next (s.sched due .replayStall a b)) ∧
      (waits → y.diverged = false → due ≤ s.clk.now → exec .replayStall s =
        .next (s.diverge a 5 b none 0 ((s.gateWord a b y).getD 0) 0xFFFF (y.word.getD b 0) 0))

/-! ## Schedulers -/

/-- What the schedulers' events do (R112 to R115, R118, R127 to R130, R135, R137, R139, R140, R173 to R175): of a die's candidates, in the order of their levels, the
first that can be placed is; a chunk of a launch moves to a die that has asked for it, its highest first, behind what the die itself begins; a candidate rises by one level every 65,536 clk, three
times at most; a team is pre-empted, estivated when its wait has reached its threshold, saved and resumed; a gang that has reached no weir within 65,536 clk stops in
full; a cluster's blocks are packed; a regroup window ends. -/
def Obligations.Scheduling : Prop :=
  (∀ (s : State) (die : Nat) (cs : List DCand), (s.ordered die cs).Perm cs ∧ (s.ordered die cs).Pairwise (fun c d => d.level ≤ c.level)) ∧
  (∀ (s : State) (die : Nat) (c : DCand) (u : State), s.pick die = some (c, u) → c ∈ s.ordered die (s.dcands die) ∧
    ∃ v, s.place die c = some v ∧ u = { v with work := { v.work with lastSource := mput (4 * die + c.level) c.source v.work.lastSource } }) ∧
  ∀ (s : State),
    let a := s.clk.subj.a
    let b := s.clk.subj.b
    let now := s.clk.now
    (∀ c u, s.pick a = some (c, u) →
      ((∃ n, c.kind = .launch n) → exec .teamPlace s = .next (u.dispatch a)) ∧ ((∀ n, c.kind ≠ .launch n) → exec .teamPlace s = .next s) ∧
      ((∃ n, c.kind = .task n) → exec .taskDispatch s = .next (u.dispatch a)) ∧ ((∀ n, c.kind ≠ .task n) → exec .taskDispatch s = .next s)) ∧
    (s.pick a = none → exec .teamPlace s = .next s ∧ exec .taskDispatch s = .next s) ∧
    (∀ tm, s.team? a = some tm →
      (∀ c u, tm.st = .candidate → s.pick (s.teamDie a) = some (c, u) → c.kind = .team a → exec .teamResume s = .next (u.dispatch (s.teamDie a))) ∧
      (tm.st = .candidate → (∀ c u, s.pick (s.teamDie a) = some (c, u) → c.kind ≠ .team a) → exec .teamResume s = .next s) ∧
      (tm.st = .placed ∨ tm.st = .stopping ∨ tm.st = .ended → exec .teamResume s = .next s) ∧
      (tm.st = .stopped ∨ tm.st = .estivated →
        (tm.saveTill = 0 → tm.kill = false → s.rivalMayRun tm.rival = true → exec .teamResume s =
          .next ((((s.setTeam a { tm with st := .candidate, since := now, age := 0, bound := s.sluiceOf tm.ctx 5 }).sched (now + 65536) .priorityAging 2 a
            now)).dispatch (s.teamDie a))) ∧
        (tm.saveTill ≠ 0 ∨ tm.kill = true ∨ s.rivalMayRun tm.rival = false → exec .teamResume s = .next s)) ∧
      (tm.saveTill ≤ now → exec .saveComplete s = .next ((s.setTeam a { tm with saveTill := 0 }).dispatch (s.teamDie a))) ∧
      (now < tm.saveTill → exec .saveComplete s = .next s) ∧
      (∀ c, tm.waitFrom = some c → tm.st = .placed → s.teamWaits tm = true → c + tm.estiv ≤ now → exec .estivate s = .next (s.vacate a .estivated)) ∧
      (tm.waitFrom = none ∨ tm.st ≠ .placed ∨ s.teamWaits tm = false → exec .estivate s = .next s) ∧
      (∀ c, tm.waitFrom = some c → now < c + tm.estiv → exec .estivate s = .next s)) ∧
    (∀ l, a = 0 → mget b s.work.launches = some l → l.since = s.clk.subj.c → l.age < 3 →
      let u : State := { s with work := { s.work with launches := mput b { l with age := l.age + 1 } s.work.launches } }
      exec .priorityAging s = .next (if l.age < 2 then u.sched (now + 65536) .priorityAging 0 b l.since else u)) ∧
    (∀ t, a = 1 → mget b s.work.tasks = some t → t.since = s.clk.subj.c → t.st = .ready → t.age < 3 →
      let u : State := { s with work := { s.work with tasks := mput b { t with age := t.age + 1 } s.work.tasks } }
      exec .priorityAging s = .next (if t.age < 2 then u.sched (now + 65536) .priorityAging 1 b t.since else u)) ∧
    (∀ t, a = 2 → s.team? b = some t → t.since = s.clk.subj.c → t.st = .candidate → t.age < 3 →
      let u := s.setTeam b { t with age := t.age + 1 }
      exec .priorityAging s = .next (if t.age < 2 then u.sched (now + 65536) .priorityAging 2 b t.since else u)) ∧
    (∀ l, mget a s.work.launches = some l →
      let victim := s.clk.subj.c
      let put := fun (m : Launch) => ({ s with work := { s.work with launches := mput a m s.work.launches } } : State)
      -- what the die itself begins in this clk comes first
      let own := s.dispatch victim
      (own.placing victim = true → exec .stealRequest s = .next (own.sched now .stealRequest a b victim)) ∧
      (own.placing victim = false → mgetD [] victim l.shares = [] → exec .stealRequest s = .next (s.sched (now + 260) .stealAnswer a b victim 0)) ∧
      (∀ cs c, own.placing victim = false → mgetD [] victim l.shares = cs ++ [c] → exec .stealRequest s =
        .next ((put { l with shares := mput victim cs l.shares }).sched (now + 260) .stealAnswer a b victim (c + 1))) ∧
      (s.clk.subj.d = 0 → exec .stealAnswer s = .next (put { l with dry := l.dry ++ [4 * b + victim] })) ∧
      (∀ c, s.clk.subj.d = c + 1 → exec .stealAnswer s = .next (put { l with
        shares := mput b (mgetD [] b l.shares ++ [c]) l.shares, dry := l.dry.filter (fun d => d / 4 != b) }))) ∧
    (s.victim a = none → exec .preempt s = .next s) ∧
    (∀ t tm, s.victim a = some t → s.team? t = some tm → tm.st = .placed → exec .preempt s =
      .next ((tm.gangs.foldl (fun (u : State) k => u.modGang k (fun g => { g with stop := if g.stop = .run then .asking (max 1 now) else g.stop })) s).modTeam t
        (fun y => { y with st := .stopping }))) ∧
    (∀ g, s.gang? a = some g → exec .stopTimeout s = .next (s.setGang a { g with stop := (match g.stop with
      | .asked c => if c + 65536 ≤ now then .asked 0 else .asked c
      | y => y) })) ∧
    ((mget a s.work.compact).isSome = true → exec .compaction s = .next s) ∧
    (mget a s.work.compact = none →
      let x := s.evict a (s.keptBlocks a).length
      exec .compaction s = .next (({ x.2 with work := { x.2.work with compact := mput a ⟨now + x.1, false⟩ x.2.work.compact } } : State).compactTick a)) ∧
    (s.keptBlocks a ≠ [] → let x := s.evict a (s.keptBlocks a).length
      exec .compactionDone s = .next (x.2.sched (now + x.1) .compactionDone a)) ∧
    (s.keptBlocks a = [] → let u := (packBlocks (s.liveGangs a)).foldl (fun (u : State) b => u.modGang b.1 (fun g => { g with base := b.2.1 })) s
     exec .compactionDone s = .next (({ u with work := { u.work with compact := mdel a u.work.compact } } : State).dispatch (dieOf a))) ∧
    (let ended := fun (w : Window) => decide (w.cluster = a ∧ w.due ≤ now)
     let u : State := { s with work := { s.work with windows := s.work.windows.filter (fun w => !ended w) } }
     (∃ gs, exec .regroupWindowEnd s = .next { u with work := { u.work with gangs := gs } }) ∧
     (s.work.windows.filter ended = [] → exec .regroupWindowEnd s = .next u) ∧
     ∀ w k g, s.work.windows.filter ended = [w] → w.gangs = [k] → s.gang? k = some g →
       let h := g.settled now
       (h.paths ≠ [] → (∀ p ∈ h.paths, p.wait = .regroup w.addr) → exec .regroupWindowEnd s = .next (u.regroupClass [(k, h)])) ∧
       (h.paths = [] ∨ (∃ p ∈ h.paths, p.wait ≠ .regroup w.addr) → exec .regroupWindowEnd s = .next u))
end

