-- ==== Sys2Proof/Laws/Memory.lean ====
section
/-! SUPPORT. Tables and memory bytes: a read after a write, the places that a write leaves alone, and the canonical form, which every
operation over memory keeps. -/

namespace Sys2Proof.Machine

/-! ## Tables -/

@[simp] theorem mget_nil {α : Type} (k : Nat) : mget k ([] : Map α) = none := rfl

theorem mget_mput {α : Type} (k j : Nat) (a : α) (m : Map α) : mget j (mput k a m) = if j = k then some a else mget j m := by
  induction m with
  | nil => simp only [mput, mget, eq_comm]
  | cons x m ih =>
    obtain ⟨i, b⟩ := x
    unfold mput
    split
    · simp only [mget, eq_comm]
    · split
      · subst_vars; simp only [mget]; split <;> simp_all [eq_comm]
      · simp only [mget, ih]; split <;> split <;> simp_all

@[simp] theorem mget_mput_same {α : Type} (k : Nat) (a : α) (m : Map α) : mget k (mput k a m) = some a := by simp [mget_mput]

theorem mget_mput_ne {α : Type} {k j : Nat} (h : j ≠ k) (a : α) (m : Map α) : mget j (mput k a m) = mget j m := by simp [mget_mput, h]

theorem mput_self {α : Type} (k : Nat) (a b : α) (m : Map α) : mput k b (mput k a m) = mput k b m := by
  induction m with
  | nil => simp [mput]
  | cons x m ih =>
    obtain ⟨i, c⟩ := x
    rcases lt_trichotomy k i with h | h | h
    · simp [mput, h]
    · subst h; simp [mput]
    · simp [mput, ih, h.not_gt, h.ne']

@[simp] theorem mmod_none {α : Type} {k : Nat} {m : Map α} (h : mget k m = none) (f : α → α) : mmod k f m = m := by simp [mmod, h]

@[simp] theorem mmod_some {α : Type} {k : Nat} {m : Map α} {a : α} (h : mget k m = some a) (f : α → α) :
    mmod k f m = mput k (f a) m := by simp [mmod, h]

theorem mget_mmod {α : Type} (k j : Nat) (f : α → α) (m : Map α) :
    mget j (mmod k f m) = if j = k then (mget j m).map f else mget j m := by
  unfold mmod
  split
  · split <;> simp_all
  · rw [mget_mput]; split <;> simp_all

theorem mget_mdel_ne {α : Type} {k j : Nat} (h : j ≠ k) (m : Map α) : mget j (mdel k m) = mget j m := by
  induction m with
  | nil => rfl
  | cons x m ih =>
    obtain ⟨i, b⟩ := x
    unfold mdel
    split
    · subst_vars; simp [mget, Ne.symm h]
    · simp [mget, ih]

/-! ## Canonical form of tables -/

theorem Map.wfFrom_mono {α : Type} {lo lo' : Nat} (h : lo' ≤ lo) {m : Map α} (w : Map.wfFrom lo m = true) : Map.wfFrom lo' m = true := by
  cases m with
  | nil => rfl
  | cons x m => obtain ⟨i, b⟩ := x; simp only [Map.wfFrom, Bool.and_eq_true, decide_eq_true_eq] at w ⊢; exact ⟨by omega, w.2⟩

theorem mget_below {α : Type} {lo k : Nat} (h : k < lo) {m : Map α} (w : Map.wfFrom lo m = true) : mget k m = none := by
  induction m generalizing lo with
  | nil => rfl
  | cons x m ih =>
    obtain ⟨i, b⟩ := x
    simp only [Map.wfFrom, Bool.and_eq_true, decide_eq_true_eq] at w
    rw [mget, if_neg (by omega), ih (by omega) w.2]

theorem Map.wfFrom_mput {α : Type} {lo k : Nat} (a : α) (hk : lo ≤ k) {m : Map α} (w : Map.wfFrom lo m = true) :
    Map.wfFrom lo (mput k a m) = true := by
  induction m generalizing lo with
  | nil => simp [mput, Map.wfFrom, hk]
  | cons x m ih =>
    obtain ⟨i, b⟩ := x
    simp only [Map.wfFrom, Bool.and_eq_true, decide_eq_true_eq] at w
    unfold mput
    split
    · simp only [Map.wfFrom, Bool.and_eq_true, decide_eq_true_eq]; exact ⟨hk, by omega, w.2⟩
    · split
      · subst_vars; simp only [Map.wfFrom, Bool.and_eq_true, decide_eq_true_eq]; exact ⟨hk, w.2⟩
      · simp only [Map.wfFrom, Bool.and_eq_true, decide_eq_true_eq]; exact ⟨w.1, ih (by omega) w.2⟩

theorem Map.wfFrom_mdel {α : Type} {lo : Nat} (k : Nat) {m : Map α} (w : Map.wfFrom lo m = true) : Map.wfFrom lo (mdel k m) = true := by
  induction m generalizing lo with
  | nil => rfl
  | cons x m ih =>
    obtain ⟨i, b⟩ := x
    simp only [Map.wfFrom, Bool.and_eq_true, decide_eq_true_eq] at w
    unfold mdel
    split
    · exact Map.wfFrom_mono (by omega) w.2
    · simp only [Map.wfFrom, Bool.and_eq_true, decide_eq_true_eq]; exact ⟨w.1, ih w.2⟩

theorem mget_mdel {α : Type} (k j : Nat) {m : Map α} (w : Map.wf m = true) : mget j (mdel k m) = if j = k then none else mget j m := by
  split
  · subst_vars
    have : ∀ lo, Map.wfFrom lo m = true → mget j (mdel j m) = none := by
      clear w
      induction m with
      | nil => intros; rfl
      | cons x m ih =>
        obtain ⟨i, b⟩ := x
        intro lo w
        simp only [Map.wfFrom, Bool.and_eq_true, decide_eq_true_eq] at w
        unfold mdel
        split
        · subst_vars; exact mget_below (Nat.lt_succ_self _) w.2
        · rename_i h; rw [mget, if_neg h]; exact ih _ w.2
    exact this 0 w
  · exact mget_mdel_ne ‹_› m

/-! ## Memory -/

/-- The canonical form: keys rise, and no entry equals what an unlisted address reads as. -/
theorem Memory.wfFrom_iff (lo : Nat) (m : List Host.Cell) :
    Memory.wfFrom lo m = true ↔ Map.wfFrom lo m = true ∧ ∀ x ∈ m, x.2 ≠ unlistedByte := by
  induction m generalizing lo with
  | nil => simp [Memory.wfFrom, Map.wfFrom]
  | cons x m ih =>
    obtain ⟨i, b⟩ := x
    simp only [Memory.wfFrom, Map.wfFrom, Bool.and_eq_true, decide_eq_true_eq, ih, List.mem_cons, forall_eq_or_imp]
    tauto

theorem mem_mput {α : Type} {k : Nat} {a : α} {m : Map α} {x : Nat × α} (h : x ∈ mput k a m) : x = (k, a) ∨ x ∈ m := by
  induction m with
  | nil => simpa [mput] using h
  | cons y m ih =>
    obtain ⟨i, b⟩ := y
    unfold mput at h
    split at h
    · simpa using h
    · split at h
      · simp only [List.mem_cons] at h ⊢; tauto
      · simp only [List.mem_cons] at h ⊢
        rcases h with h | h
        · tauto
        · rcases ih h with h | h <;> tauto

theorem mem_mdel {α : Type} {k : Nat} {m : Map α} {x : Nat × α} (h : x ∈ mdel k m) : x ∈ m := by
  induction m with
  | nil => exact h
  | cons y m ih =>
    obtain ⟨i, b⟩ := y
    unfold mdel at h
    split at h
    · exact List.mem_cons_of_mem _ h
    · simp only [List.mem_cons] at h ⊢
      exact h.imp_right ih

theorem writeByte_wf {m : List Host.Cell} (w : Memory.wf m = true) (a : Nat) (b : Byte) : Memory.wf (writeByte m a b) = true := by
  rw [Memory.wf, Memory.wfFrom_iff] at w ⊢
  unfold writeByte mset
  split
  · exact ⟨Map.wfFrom_mdel a w.1, fun x hx => w.2 x (mem_mdel hx)⟩
  · refine ⟨Map.wfFrom_mput b (Nat.zero_le a) w.1, fun x hx => ?_⟩
    rcases mem_mput hx with rfl | h
    · assumption
    · exact w.2 x h

theorem writeBytes_wf (bs : List Byte) {m : List Host.Cell} (w : Memory.wf m = true) (a : Nat) : Memory.wf (writeBytes m a bs) = true := by
  induction bs generalizing m a with
  | nil => exact w
  | cons b bs ih => exact ih (writeByte_wf w a b) (a + 1)

theorem writeMasked_wf (bs : List (Option Byte)) {m : List Host.Cell} (w : Memory.wf m = true) (a : Nat) :
    Memory.wf (writeMasked m a bs) = true := by
  induction bs generalizing m a with
  | nil => exact w
  | cons b bs ih =>
    cases b with
    | none => exact ih w (a + 1)
    | some b => exact ih (writeByte_wf w a b) (a + 1)

theorem reset_memory_wf : Memory.wf State.reset.mem.bytes = true := rfl

/-- A read after a write, in canonical memory. -/
theorem readByte_writeByte {m : List Host.Cell} (w : Memory.wf m = true) (a j : Nat) (b : Byte) :
    readByte (writeByte m a b) j = if j = a then b else readByte m j := by
  have hm : Map.wf m = true := ((Memory.wfFrom_iff 0 m).1 w).1
  unfold readByte writeByte mset mgetD
  split
  · rw [mget_mdel a j hm]; split <;> simp_all
  · rw [mget_mput]; split <;> simp

/-- A write leaves every other address alone. -/
theorem readByte_writeByte_ne {m : List Host.Cell} {a j : Nat} (h : j ≠ a) (b : Byte) : readByte (writeByte m a b) j = readByte m j := by
  unfold readByte writeByte mset mgetD
  split
  · rw [mget_mdel_ne h]
  · rw [mget_mput_ne h]

theorem readByte_writeBytes_out (bs : List Byte) (m : List Host.Cell) (a j : Nat) (h : j < a ∨ a + bs.length ≤ j) :
    readByte (writeBytes m a bs) j = readByte m j := by
  induction bs generalizing m a with
  | nil => rfl
  | cons b bs ih =>
    simp only [List.length_cons] at h
    rw [writeBytes, ih _ _ (by omega), readByte_writeByte_ne (by omega)]

theorem readByte_writeBytes_in (bs : List Byte) {m : List Host.Cell} (w : Memory.wf m = true) (a i : Nat) (h : i < bs.length) :
    readByte (writeBytes m a bs) (a + i) = bs.getD i 0 := by
  induction bs generalizing m a i with
  | nil => simp at h
  | cons b bs ih =>
    cases i with
    | zero => rw [writeBytes, Nat.add_zero, readByte_writeBytes_out _ _ _ _ (by omega), readByte_writeByte w]; simp
    | succ i =>
      have := ih (writeByte_wf w a b) (a + 1) i (by simpa using h)
      rw [writeBytes, show a + (i + 1) = a + 1 + i by omega, this]; simp

theorem readByte_writeMasked (bs : List (Option Byte)) {m : List Host.Cell} (w : Memory.wf m = true) (a j : Nat) :
    readByte (writeMasked m a bs) j = (if a ≤ j then (bs[j - a]?).join else none).getD (readByte m j) := by
  induction bs generalizing m a with
  | nil => simp [writeMasked]
  | cons b bs ih =>
    cases b with
    | none =>
      rw [writeMasked, ih w]
      rcases lt_trichotomy a j with h | h | h
      · rw [if_pos (by omega), if_pos (by omega), show j - a = (j - (a + 1)) + 1 by omega]; simp
      · subst h; simp
      · rw [if_neg (by omega), if_neg (by omega)]
    | some b =>
      rw [writeMasked, ih (writeByte_wf w a b), readByte_writeByte w]
      rcases lt_trichotomy a j with h | h | h
      · obtain ⟨n, rfl⟩ : ∃ n, j = a + 1 + n := ⟨j - (a + 1), by omega⟩
        simp [show a + 1 + n ≠ a by omega, show a ≤ a + 1 + n by omega, show a + 1 + n - a = n + 1 by omega]
      · subst h; simp
      · simp [show ¬ a + 1 ≤ j by omega, show ¬ a ≤ j by omega, show j ≠ a by omega]

theorem readBytes_length (m : List Host.Cell) (a n : Nat) : (readBytes m a n).length = n := by
  induction n generalizing a with
  | zero => rfl
  | succ n ih => simp [readBytes, ih]

theorem readBytes_getD (m : List Host.Cell) (a n i : Nat) (h : i < n) : (readBytes m a n).getD i 0 = readByte m (a + i) := by
  induction n generalizing a i with
  | zero => omega
  | succ n ih =>
    cases i with
    | zero => simp [readBytes]
    | succ i =>
      have := ih (a + 1) i (by omega)
      rw [readBytes, List.getD_cons_succ, this, show a + 1 + i = a + (i + 1) by omega]

/-- What is written is what is read, for a whole run of bytes. -/
theorem readBytes_writeBytes {m : List Host.Cell} (w : Memory.wf m = true) (a : Nat) (bs : List Byte) :
    readBytes (writeBytes m a bs) a bs.length = bs := by
  apply List.ext_getElem
  · exact readBytes_length _ _ _
  · intro i h1 h2
    have := readBytes_getD (writeBytes m a bs) a bs.length i h2
    rw [readByte_writeBytes_in bs w a i h2] at this
    simpa [List.getD_eq_getElem?_getD, h1, h2] using this

end Sys2Proof.Machine
end

