-- ==== Sys2Proof/Laws/State.lean ====
section
/-! SUPPORT. What each named update of the state does to each field: one lemma per field, true by `rfl`, so that no proof unfolds a
record update. -/

namespace Sys2Proof.Machine
namespace State

/-! ## `setGang` -/

@[simp] theorem setGang_clk (s : State) (k : Nat) (g : Gang) : (s.setGang k g).clk = s.clk := rfl
@[simp] theorem setGang_mem (s : State) (k : Nat) (g : Gang) : (s.setGang k g).mem = s.mem := rfl
@[simp] theorem setGang_adm (s : State) (k : Nat) (g : Gang) : (s.setGang k g).adm = s.adm := rfl
@[simp] theorem setGang_gangs (s : State) (k : Nat) (g : Gang) : (s.setGang k g).work.gangs = mput k g s.work.gangs := rfl
@[simp] theorem setGang_teams (s : State) (k : Nat) (g : Gang) : (s.setGang k g).work.teams = s.work.teams := rfl
@[simp] theorem setGang_launches (s : State) (k : Nat) (g : Gang) : (s.setGang k g).work.launches = s.work.launches := rfl
@[simp] theorem setGang_tasks (s : State) (k : Nat) (g : Gang) : (s.setGang k g).work.tasks = s.work.tasks := rfl
@[simp] theorem setGang_uncs (s : State) (k : Nat) (g : Gang) : (s.setGang k g).work.uncs = s.work.uncs := rfl
@[simp] theorem setGang_watches (s : State) (k : Nat) (g : Gang) : (s.setGang k g).work.watches = s.work.watches := rfl
@[simp] theorem setGang_furrows (s : State) (k : Nat) (g : Gang) : (s.setGang k g).work.furrows = s.work.furrows := rfl
@[simp] theorem setGang_drought (s : State) (k : Nat) (g : Gang) : (s.setGang k g).work.drought = s.work.drought := rfl
@[simp] theorem setGang_scopes (s : State) (k : Nat) (g : Gang) : (s.setGang k g).work.scopes = s.work.scopes := rfl
@[simp] theorem setGang_engines (s : State) (k : Nat) (g : Gang) : (s.setGang k g).work.engines = s.work.engines := rfl
@[simp] theorem setGang_copies (s : State) (k : Nat) (g : Gang) : (s.setGang k g).work.copies = s.work.copies := rfl
@[simp] theorem setGang_eacks (s : State) (k : Nat) (g : Gang) : (s.setGang k g).work.eacks = s.work.eacks := rfl
@[simp] theorem setGang_eended (s : State) (k : Nat) (g : Gang) : (s.setGang k g).work.eended = s.work.eended := rfl
@[simp] theorem setGang_owalk (s : State) (k : Nat) (g : Gang) : (s.setGang k g).work.owalk = s.work.owalk := rfl
@[simp] theorem setGang_sfu (s : State) (k : Nat) (g : Gang) : (s.setGang k g).work.sfu = s.work.sfu := rfl
@[simp] theorem setGang_windows (s : State) (k : Nat) (g : Gang) : (s.setGang k g).work.windows = s.work.windows := rfl
@[simp] theorem setGang_compact (s : State) (k : Nat) (g : Gang) : (s.setGang k g).work.compact = s.work.compact := rfl
@[simp] theorem setGang_spwin (s : State) (k : Nat) (g : Gang) : (s.setGang k g).work.spwin = s.work.spwin := rfl
@[simp] theorem setGang_res (s : State) (k : Nat) (g : Gang) : (s.setGang k g).work.res = s.work.res := rfl
@[simp] theorem setGang_resRoot (s : State) (k : Nat) (g : Gang) : (s.setGang k g).work.resRoot = s.work.resRoot := rfl
@[simp] theorem setGang_inbox (s : State) (k : Nat) (g : Gang) : (s.setGang k g).work.inbox = s.work.inbox := rfl
@[simp] theorem setGang_resBusy (s : State) (k : Nat) (g : Gang) : (s.setGang k g).work.resBusy = s.work.resBusy := rfl
@[simp] theorem setGang_retained (s : State) (k : Nat) (g : Gang) : (s.setGang k g).work.retained = s.work.retained := rfl
@[simp] theorem setGang_lastSource (s : State) (k : Nat) (g : Gang) : (s.setGang k g).work.lastSource = s.work.lastSource := rfl
@[simp] theorem setGang_lone (s : State) (k : Nat) (g : Gang) : (s.setGang k g).work.lone = s.work.lone := rfl

/-! ## `modGang` -/

@[simp] theorem modGang_clk (s : State) (k : Nat) (f : Gang → Gang) : (s.modGang k f).clk = s.clk := rfl
@[simp] theorem modGang_mem (s : State) (k : Nat) (f : Gang → Gang) : (s.modGang k f).mem = s.mem := rfl
@[simp] theorem modGang_adm (s : State) (k : Nat) (f : Gang → Gang) : (s.modGang k f).adm = s.adm := rfl
@[simp] theorem modGang_gangs (s : State) (k : Nat) (f : Gang → Gang) : (s.modGang k f).work.gangs = mmod k f s.work.gangs := rfl
@[simp] theorem modGang_teams (s : State) (k : Nat) (f : Gang → Gang) : (s.modGang k f).work.teams = s.work.teams := rfl
@[simp] theorem modGang_launches (s : State) (k : Nat) (f : Gang → Gang) : (s.modGang k f).work.launches = s.work.launches := rfl
@[simp] theorem modGang_tasks (s : State) (k : Nat) (f : Gang → Gang) : (s.modGang k f).work.tasks = s.work.tasks := rfl
@[simp] theorem modGang_uncs (s : State) (k : Nat) (f : Gang → Gang) : (s.modGang k f).work.uncs = s.work.uncs := rfl
@[simp] theorem modGang_watches (s : State) (k : Nat) (f : Gang → Gang) : (s.modGang k f).work.watches = s.work.watches := rfl
@[simp] theorem modGang_furrows (s : State) (k : Nat) (f : Gang → Gang) : (s.modGang k f).work.furrows = s.work.furrows := rfl
@[simp] theorem modGang_drought (s : State) (k : Nat) (f : Gang → Gang) : (s.modGang k f).work.drought = s.work.drought := rfl
@[simp] theorem modGang_scopes (s : State) (k : Nat) (f : Gang → Gang) : (s.modGang k f).work.scopes = s.work.scopes := rfl
@[simp] theorem modGang_engines (s : State) (k : Nat) (f : Gang → Gang) : (s.modGang k f).work.engines = s.work.engines := rfl
@[simp] theorem modGang_copies (s : State) (k : Nat) (f : Gang → Gang) : (s.modGang k f).work.copies = s.work.copies := rfl
@[simp] theorem modGang_eacks (s : State) (k : Nat) (f : Gang → Gang) : (s.modGang k f).work.eacks = s.work.eacks := rfl
@[simp] theorem modGang_eended (s : State) (k : Nat) (f : Gang → Gang) : (s.modGang k f).work.eended = s.work.eended := rfl
@[simp] theorem modGang_owalk (s : State) (k : Nat) (f : Gang → Gang) : (s.modGang k f).work.owalk = s.work.owalk := rfl
@[simp] theorem modGang_sfu (s : State) (k : Nat) (f : Gang → Gang) : (s.modGang k f).work.sfu = s.work.sfu := rfl
@[simp] theorem modGang_windows (s : State) (k : Nat) (f : Gang → Gang) : (s.modGang k f).work.windows = s.work.windows := rfl
@[simp] theorem modGang_compact (s : State) (k : Nat) (f : Gang → Gang) : (s.modGang k f).work.compact = s.work.compact := rfl
@[simp] theorem modGang_spwin (s : State) (k : Nat) (f : Gang → Gang) : (s.modGang k f).work.spwin = s.work.spwin := rfl
@[simp] theorem modGang_res (s : State) (k : Nat) (f : Gang → Gang) : (s.modGang k f).work.res = s.work.res := rfl
@[simp] theorem modGang_resRoot (s : State) (k : Nat) (f : Gang → Gang) : (s.modGang k f).work.resRoot = s.work.resRoot := rfl
@[simp] theorem modGang_inbox (s : State) (k : Nat) (f : Gang → Gang) : (s.modGang k f).work.inbox = s.work.inbox := rfl
@[simp] theorem modGang_resBusy (s : State) (k : Nat) (f : Gang → Gang) : (s.modGang k f).work.resBusy = s.work.resBusy := rfl
@[simp] theorem modGang_retained (s : State) (k : Nat) (f : Gang → Gang) : (s.modGang k f).work.retained = s.work.retained := rfl
@[simp] theorem modGang_lastSource (s : State) (k : Nat) (f : Gang → Gang) : (s.modGang k f).work.lastSource = s.work.lastSource := rfl
@[simp] theorem modGang_lone (s : State) (k : Nat) (f : Gang → Gang) : (s.modGang k f).work.lone = s.work.lone := rfl

/-! ## `setTeam` -/

@[simp] theorem setTeam_clk (s : State) (k : Nat) (x : Team) : (s.setTeam k x).clk = s.clk := rfl
@[simp] theorem setTeam_mem (s : State) (k : Nat) (x : Team) : (s.setTeam k x).mem = s.mem := rfl
@[simp] theorem setTeam_adm (s : State) (k : Nat) (x : Team) : (s.setTeam k x).adm = s.adm := rfl
@[simp] theorem setTeam_gangs (s : State) (k : Nat) (x : Team) : (s.setTeam k x).work.gangs = s.work.gangs := rfl
@[simp] theorem setTeam_teams (s : State) (k : Nat) (x : Team) : (s.setTeam k x).work.teams = mput k x s.work.teams := rfl
@[simp] theorem setTeam_launches (s : State) (k : Nat) (x : Team) : (s.setTeam k x).work.launches = s.work.launches := rfl
@[simp] theorem setTeam_tasks (s : State) (k : Nat) (x : Team) : (s.setTeam k x).work.tasks = s.work.tasks := rfl
@[simp] theorem setTeam_uncs (s : State) (k : Nat) (x : Team) : (s.setTeam k x).work.uncs = s.work.uncs := rfl
@[simp] theorem setTeam_watches (s : State) (k : Nat) (x : Team) : (s.setTeam k x).work.watches = s.work.watches := rfl
@[simp] theorem setTeam_furrows (s : State) (k : Nat) (x : Team) : (s.setTeam k x).work.furrows = s.work.furrows := rfl
@[simp] theorem setTeam_drought (s : State) (k : Nat) (x : Team) : (s.setTeam k x).work.drought = s.work.drought := rfl
@[simp] theorem setTeam_scopes (s : State) (k : Nat) (x : Team) : (s.setTeam k x).work.scopes = s.work.scopes := rfl
@[simp] theorem setTeam_engines (s : State) (k : Nat) (x : Team) : (s.setTeam k x).work.engines = s.work.engines := rfl
@[simp] theorem setTeam_copies (s : State) (k : Nat) (x : Team) : (s.setTeam k x).work.copies = s.work.copies := rfl
@[simp] theorem setTeam_eacks (s : State) (k : Nat) (x : Team) : (s.setTeam k x).work.eacks = s.work.eacks := rfl
@[simp] theorem setTeam_eended (s : State) (k : Nat) (x : Team) : (s.setTeam k x).work.eended = s.work.eended := rfl
@[simp] theorem setTeam_owalk (s : State) (k : Nat) (x : Team) : (s.setTeam k x).work.owalk = s.work.owalk := rfl
@[simp] theorem setTeam_sfu (s : State) (k : Nat) (x : Team) : (s.setTeam k x).work.sfu = s.work.sfu := rfl
@[simp] theorem setTeam_windows (s : State) (k : Nat) (x : Team) : (s.setTeam k x).work.windows = s.work.windows := rfl
@[simp] theorem setTeam_compact (s : State) (k : Nat) (x : Team) : (s.setTeam k x).work.compact = s.work.compact := rfl
@[simp] theorem setTeam_spwin (s : State) (k : Nat) (x : Team) : (s.setTeam k x).work.spwin = s.work.spwin := rfl
@[simp] theorem setTeam_res (s : State) (k : Nat) (x : Team) : (s.setTeam k x).work.res = s.work.res := rfl
@[simp] theorem setTeam_resRoot (s : State) (k : Nat) (x : Team) : (s.setTeam k x).work.resRoot = s.work.resRoot := rfl
@[simp] theorem setTeam_inbox (s : State) (k : Nat) (x : Team) : (s.setTeam k x).work.inbox = s.work.inbox := rfl
@[simp] theorem setTeam_resBusy (s : State) (k : Nat) (x : Team) : (s.setTeam k x).work.resBusy = s.work.resBusy := rfl
@[simp] theorem setTeam_retained (s : State) (k : Nat) (x : Team) : (s.setTeam k x).work.retained = s.work.retained := rfl
@[simp] theorem setTeam_lastSource (s : State) (k : Nat) (x : Team) : (s.setTeam k x).work.lastSource = s.work.lastSource := rfl
@[simp] theorem setTeam_lone (s : State) (k : Nat) (x : Team) : (s.setTeam k x).work.lone = s.work.lone := rfl

/-! ## `modTeam` -/

@[simp] theorem modTeam_clk (s : State) (k : Nat) (f : Team → Team) : (s.modTeam k f).clk = s.clk := rfl
@[simp] theorem modTeam_mem (s : State) (k : Nat) (f : Team → Team) : (s.modTeam k f).mem = s.mem := rfl
@[simp] theorem modTeam_adm (s : State) (k : Nat) (f : Team → Team) : (s.modTeam k f).adm = s.adm := rfl
@[simp] theorem modTeam_gangs (s : State) (k : Nat) (f : Team → Team) : (s.modTeam k f).work.gangs = s.work.gangs := rfl
@[simp] theorem modTeam_teams (s : State) (k : Nat) (f : Team → Team) : (s.modTeam k f).work.teams = mmod k f s.work.teams := rfl
@[simp] theorem modTeam_launches (s : State) (k : Nat) (f : Team → Team) : (s.modTeam k f).work.launches = s.work.launches := rfl
@[simp] theorem modTeam_tasks (s : State) (k : Nat) (f : Team → Team) : (s.modTeam k f).work.tasks = s.work.tasks := rfl
@[simp] theorem modTeam_uncs (s : State) (k : Nat) (f : Team → Team) : (s.modTeam k f).work.uncs = s.work.uncs := rfl
@[simp] theorem modTeam_watches (s : State) (k : Nat) (f : Team → Team) : (s.modTeam k f).work.watches = s.work.watches := rfl
@[simp] theorem modTeam_furrows (s : State) (k : Nat) (f : Team → Team) : (s.modTeam k f).work.furrows = s.work.furrows := rfl
@[simp] theorem modTeam_drought (s : State) (k : Nat) (f : Team → Team) : (s.modTeam k f).work.drought = s.work.drought := rfl
@[simp] theorem modTeam_scopes (s : State) (k : Nat) (f : Team → Team) : (s.modTeam k f).work.scopes = s.work.scopes := rfl
@[simp] theorem modTeam_engines (s : State) (k : Nat) (f : Team → Team) : (s.modTeam k f).work.engines = s.work.engines := rfl
@[simp] theorem modTeam_copies (s : State) (k : Nat) (f : Team → Team) : (s.modTeam k f).work.copies = s.work.copies := rfl
@[simp] theorem modTeam_eacks (s : State) (k : Nat) (f : Team → Team) : (s.modTeam k f).work.eacks = s.work.eacks := rfl
@[simp] theorem modTeam_eended (s : State) (k : Nat) (f : Team → Team) : (s.modTeam k f).work.eended = s.work.eended := rfl
@[simp] theorem modTeam_owalk (s : State) (k : Nat) (f : Team → Team) : (s.modTeam k f).work.owalk = s.work.owalk := rfl
@[simp] theorem modTeam_sfu (s : State) (k : Nat) (f : Team → Team) : (s.modTeam k f).work.sfu = s.work.sfu := rfl
@[simp] theorem modTeam_windows (s : State) (k : Nat) (f : Team → Team) : (s.modTeam k f).work.windows = s.work.windows := rfl
@[simp] theorem modTeam_compact (s : State) (k : Nat) (f : Team → Team) : (s.modTeam k f).work.compact = s.work.compact := rfl
@[simp] theorem modTeam_spwin (s : State) (k : Nat) (f : Team → Team) : (s.modTeam k f).work.spwin = s.work.spwin := rfl
@[simp] theorem modTeam_res (s : State) (k : Nat) (f : Team → Team) : (s.modTeam k f).work.res = s.work.res := rfl
@[simp] theorem modTeam_resRoot (s : State) (k : Nat) (f : Team → Team) : (s.modTeam k f).work.resRoot = s.work.resRoot := rfl
@[simp] theorem modTeam_inbox (s : State) (k : Nat) (f : Team → Team) : (s.modTeam k f).work.inbox = s.work.inbox := rfl
@[simp] theorem modTeam_resBusy (s : State) (k : Nat) (f : Team → Team) : (s.modTeam k f).work.resBusy = s.work.resBusy := rfl
@[simp] theorem modTeam_retained (s : State) (k : Nat) (f : Team → Team) : (s.modTeam k f).work.retained = s.work.retained := rfl
@[simp] theorem modTeam_lastSource (s : State) (k : Nat) (f : Team → Team) : (s.modTeam k f).work.lastSource = s.work.lastSource := rfl
@[simp] theorem modTeam_lone (s : State) (k : Nat) (f : Team → Team) : (s.modTeam k f).work.lone = s.work.lone := rfl

/-! ## `setReq` -/

@[simp] theorem setReq_clk (s : State) (k : Nat) (r : Req) : (s.setReq k r).clk = s.clk := rfl
@[simp] theorem setReq_adm (s : State) (k : Nat) (r : Req) : (s.setReq k r).adm = s.adm := rfl
@[simp] theorem setReq_work (s : State) (k : Nat) (r : Req) : (s.setReq k r).work = s.work := rfl
@[simp] theorem setReq_bytes (s : State) (k : Nat) (r : Req) : (s.setReq k r).mem.bytes = s.mem.bytes := rfl
@[simp] theorem setReq_desc (s : State) (k : Nat) (r : Req) : (s.setReq k r).mem.desc = s.mem.desc := rfl
@[simp] theorem setReq_tags (s : State) (k : Nat) (r : Req) : (s.setReq k r).mem.tags = s.mem.tags := rfl
@[simp] theorem setReq_flips (s : State) (k : Nat) (r : Req) : (s.setReq k r).mem.flips = s.mem.flips := rfl
@[simp] theorem setReq_leases (s : State) (k : Nat) (r : Req) : (s.setReq k r).mem.leases = s.mem.leases := rfl
@[simp] theorem setReq_slices (s : State) (k : Nat) (r : Req) : (s.setReq k r).mem.slices = s.mem.slices := rfl
@[simp] theorem setReq_l1 (s : State) (k : Nat) (r : Req) : (s.setReq k r).mem.l1 = s.mem.l1 := rfl
@[simp] theorem setReq_noFill (s : State) (k : Nat) (r : Req) : (s.setReq k r).mem.noFill = s.mem.noFill := rfl
@[simp] theorem setReq_vers (s : State) (k : Nat) (r : Req) : (s.setReq k r).mem.vers = s.mem.vers := rfl
@[simp] theorem setReq_tlb (s : State) (k : Nat) (r : Req) : (s.setReq k r).mem.tlb = s.mem.tlb := rfl
@[simp] theorem setReq_wcache (s : State) (k : Nat) (r : Req) : (s.setReq k r).mem.wcache = s.mem.wcache := rfl
@[simp] theorem setReq_gens (s : State) (k : Nat) (r : Req) : (s.setReq k r).mem.gens = s.mem.gens := rfl
@[simp] theorem setReq_walks (s : State) (k : Nat) (r : Req) : (s.setReq k r).mem.walks = s.mem.walks := rfl
@[simp] theorem setReq_fetches (s : State) (k : Nat) (r : Req) : (s.setReq k r).mem.fetches = s.mem.fetches := rfl
@[simp] theorem setReq_owner (s : State) (k : Nat) (r : Req) : (s.setReq k r).mem.owner = s.mem.owner := rfl
@[simp] theorem setReq_roots (s : State) (k : Nat) (r : Req) : (s.setReq k r).mem.roots = s.mem.roots := rfl
@[simp] theorem setReq_reissued (s : State) (k : Nat) (r : Req) : (s.setReq k r).mem.reissued = s.mem.reissued := rfl
@[simp] theorem setReq_busy (s : State) (k : Nat) (r : Req) : (s.setReq k r).mem.busy = s.mem.busy := rfl
@[simp] theorem setReq_sluice (s : State) (k : Nat) (r : Req) : (s.setReq k r).mem.sluice = s.mem.sluice := rfl
@[simp] theorem setReq_ret (s : State) (k : Nat) (r : Req) : (s.setReq k r).mem.ret = s.mem.ret := rfl
@[simp] theorem setReq_pins (s : State) (k : Nat) (r : Req) : (s.setReq k r).mem.pins = s.mem.pins := rfl
@[simp] theorem setReq_reqs (s : State) (k : Nat) (r : Req) : (s.setReq k r).mem.reqs = mput k r s.mem.reqs := rfl

/-! ## `modReq` -/

@[simp] theorem modReq_clk (s : State) (k : Nat) (f : Req → Req) : (s.modReq k f).clk = s.clk := rfl
@[simp] theorem modReq_adm (s : State) (k : Nat) (f : Req → Req) : (s.modReq k f).adm = s.adm := rfl
@[simp] theorem modReq_work (s : State) (k : Nat) (f : Req → Req) : (s.modReq k f).work = s.work := rfl
@[simp] theorem modReq_bytes (s : State) (k : Nat) (f : Req → Req) : (s.modReq k f).mem.bytes = s.mem.bytes := rfl
@[simp] theorem modReq_desc (s : State) (k : Nat) (f : Req → Req) : (s.modReq k f).mem.desc = s.mem.desc := rfl
@[simp] theorem modReq_tags (s : State) (k : Nat) (f : Req → Req) : (s.modReq k f).mem.tags = s.mem.tags := rfl
@[simp] theorem modReq_flips (s : State) (k : Nat) (f : Req → Req) : (s.modReq k f).mem.flips = s.mem.flips := rfl
@[simp] theorem modReq_leases (s : State) (k : Nat) (f : Req → Req) : (s.modReq k f).mem.leases = s.mem.leases := rfl
@[simp] theorem modReq_slices (s : State) (k : Nat) (f : Req → Req) : (s.modReq k f).mem.slices = s.mem.slices := rfl
@[simp] theorem modReq_l1 (s : State) (k : Nat) (f : Req → Req) : (s.modReq k f).mem.l1 = s.mem.l1 := rfl
@[simp] theorem modReq_noFill (s : State) (k : Nat) (f : Req → Req) : (s.modReq k f).mem.noFill = s.mem.noFill := rfl
@[simp] theorem modReq_vers (s : State) (k : Nat) (f : Req → Req) : (s.modReq k f).mem.vers = s.mem.vers := rfl
@[simp] theorem modReq_tlb (s : State) (k : Nat) (f : Req → Req) : (s.modReq k f).mem.tlb = s.mem.tlb := rfl
@[simp] theorem modReq_wcache (s : State) (k : Nat) (f : Req → Req) : (s.modReq k f).mem.wcache = s.mem.wcache := rfl
@[simp] theorem modReq_gens (s : State) (k : Nat) (f : Req → Req) : (s.modReq k f).mem.gens = s.mem.gens := rfl
@[simp] theorem modReq_walks (s : State) (k : Nat) (f : Req → Req) : (s.modReq k f).mem.walks = s.mem.walks := rfl
@[simp] theorem modReq_fetches (s : State) (k : Nat) (f : Req → Req) : (s.modReq k f).mem.fetches = s.mem.fetches := rfl
@[simp] theorem modReq_owner (s : State) (k : Nat) (f : Req → Req) : (s.modReq k f).mem.owner = s.mem.owner := rfl
@[simp] theorem modReq_roots (s : State) (k : Nat) (f : Req → Req) : (s.modReq k f).mem.roots = s.mem.roots := rfl
@[simp] theorem modReq_reissued (s : State) (k : Nat) (f : Req → Req) : (s.modReq k f).mem.reissued = s.mem.reissued := rfl
@[simp] theorem modReq_busy (s : State) (k : Nat) (f : Req → Req) : (s.modReq k f).mem.busy = s.mem.busy := rfl
@[simp] theorem modReq_sluice (s : State) (k : Nat) (f : Req → Req) : (s.modReq k f).mem.sluice = s.mem.sluice := rfl
@[simp] theorem modReq_ret (s : State) (k : Nat) (f : Req → Req) : (s.modReq k f).mem.ret = s.mem.ret := rfl
@[simp] theorem modReq_pins (s : State) (k : Nat) (f : Req → Req) : (s.modReq k f).mem.pins = s.mem.pins := rfl
@[simp] theorem modReq_reqs (s : State) (k : Nat) (f : Req → Req) : (s.modReq k f).mem.reqs = mmod k f s.mem.reqs := rfl

/-! ## `modPart` -/

@[simp] theorem modPart_clk (s : State) (k b : Nat) (f : Part → Part) : (s.modPart k b f).clk = s.clk := rfl
@[simp] theorem modPart_adm (s : State) (k b : Nat) (f : Part → Part) : (s.modPart k b f).adm = s.adm := rfl
@[simp] theorem modPart_work (s : State) (k b : Nat) (f : Part → Part) : (s.modPart k b f).work = s.work := rfl
@[simp] theorem modPart_bytes (s : State) (k b : Nat) (f : Part → Part) : (s.modPart k b f).mem.bytes = s.mem.bytes := rfl
@[simp] theorem modPart_desc (s : State) (k b : Nat) (f : Part → Part) : (s.modPart k b f).mem.desc = s.mem.desc := rfl
@[simp] theorem modPart_tags (s : State) (k b : Nat) (f : Part → Part) : (s.modPart k b f).mem.tags = s.mem.tags := rfl
@[simp] theorem modPart_flips (s : State) (k b : Nat) (f : Part → Part) : (s.modPart k b f).mem.flips = s.mem.flips := rfl
@[simp] theorem modPart_leases (s : State) (k b : Nat) (f : Part → Part) : (s.modPart k b f).mem.leases = s.mem.leases := rfl
@[simp] theorem modPart_slices (s : State) (k b : Nat) (f : Part → Part) : (s.modPart k b f).mem.slices = s.mem.slices := rfl
@[simp] theorem modPart_l1 (s : State) (k b : Nat) (f : Part → Part) : (s.modPart k b f).mem.l1 = s.mem.l1 := rfl
@[simp] theorem modPart_noFill (s : State) (k b : Nat) (f : Part → Part) : (s.modPart k b f).mem.noFill = s.mem.noFill := rfl
@[simp] theorem modPart_vers (s : State) (k b : Nat) (f : Part → Part) : (s.modPart k b f).mem.vers = s.mem.vers := rfl
@[simp] theorem modPart_tlb (s : State) (k b : Nat) (f : Part → Part) : (s.modPart k b f).mem.tlb = s.mem.tlb := rfl
@[simp] theorem modPart_wcache (s : State) (k b : Nat) (f : Part → Part) : (s.modPart k b f).mem.wcache = s.mem.wcache := rfl
@[simp] theorem modPart_gens (s : State) (k b : Nat) (f : Part → Part) : (s.modPart k b f).mem.gens = s.mem.gens := rfl
@[simp] theorem modPart_walks (s : State) (k b : Nat) (f : Part → Part) : (s.modPart k b f).mem.walks = s.mem.walks := rfl
@[simp] theorem modPart_fetches (s : State) (k b : Nat) (f : Part → Part) : (s.modPart k b f).mem.fetches = s.mem.fetches := rfl
@[simp] theorem modPart_owner (s : State) (k b : Nat) (f : Part → Part) : (s.modPart k b f).mem.owner = s.mem.owner := rfl
@[simp] theorem modPart_roots (s : State) (k b : Nat) (f : Part → Part) : (s.modPart k b f).mem.roots = s.mem.roots := rfl
@[simp] theorem modPart_reissued (s : State) (k b : Nat) (f : Part → Part) : (s.modPart k b f).mem.reissued = s.mem.reissued := rfl
@[simp] theorem modPart_busy (s : State) (k b : Nat) (f : Part → Part) : (s.modPart k b f).mem.busy = s.mem.busy := rfl
@[simp] theorem modPart_sluice (s : State) (k b : Nat) (f : Part → Part) : (s.modPart k b f).mem.sluice = s.mem.sluice := rfl
@[simp] theorem modPart_ret (s : State) (k b : Nat) (f : Part → Part) : (s.modPart k b f).mem.ret = s.mem.ret := rfl
@[simp] theorem modPart_pins (s : State) (k b : Nat) (f : Part → Part) : (s.modPart k b f).mem.pins = s.mem.pins := rfl
@[simp] theorem modPart_reqs (s : State) (k b : Nat) (f : Part → Part) : (s.modPart k b f).mem.reqs = mmod k (fun q => { q with parts := lmod q.parts b f }) s.mem.reqs := rfl

/-! ## `sched` -/

@[simp] theorem sched_mem (s : State) (due : Nat) (ev : Instr) (a b c d : Nat) : (s.sched due ev a b c d).mem = s.mem := rfl
@[simp] theorem sched_adm (s : State) (due : Nat) (ev : Instr) (a b c d : Nat) : (s.sched due ev a b c d).adm = s.adm := rfl
@[simp] theorem sched_work (s : State) (due : Nat) (ev : Instr) (a b c d : Nat) : (s.sched due ev a b c d).work = s.work := rfl
@[simp] theorem sched_now (s : State) (due : Nat) (ev : Instr) (a b c d : Nat) : (s.sched due ev a b c d).clk.now = s.clk.now := rfl
@[simp] theorem sched_agenda (s : State) (due : Nat) (ev : Instr) (a b c d : Nat) : (s.sched due ev a b c d).clk.agenda = agendaAdd ⟨due, ev, ⟨a, b, c, d⟩⟩ s.clk.agenda := rfl
@[simp] theorem sched_turns (s : State) (due : Nat) (ev : Instr) (a b c d : Nat) : (s.sched due ev a b c d).clk.turns = s.clk.turns := rfl
@[simp] theorem sched_cur (s : State) (due : Nat) (ev : Instr) (a b c d : Nat) : (s.sched due ev a b c d).clk.cur = s.clk.cur := rfl
@[simp] theorem sched_subj (s : State) (due : Nat) (ev : Instr) (a b c d : Nat) : (s.sched due ev a b c d).clk.subj = s.clk.subj := rfl
@[simp] theorem sched_phase (s : State) (due : Nat) (ev : Instr) (a b c d : Nat) : (s.sched due ev a b c d).clk.phase = s.clk.phase := rfl
@[simp] theorem sched_fresh (s : State) (due : Nat) (ev : Instr) (a b c d : Nat) : (s.sched due ev a b c d).clk.fresh = s.clk.fresh := rfl
@[simp] theorem sched_freeCnt (s : State) (due : Nat) (ev : Instr) (a b c d : Nat) : (s.sched due ev a b c d).clk.freeCnt = s.clk.freeCnt := rfl
@[simp] theorem sched_rr (s : State) (due : Nat) (ev : Instr) (a b c d : Nat) : (s.sched due ev a b c d).clk.rr = s.clk.rr := rfl
@[simp] theorem sched_slotBusy (s : State) (due : Nat) (ev : Instr) (a b c d : Nat) : (s.sched due ev a b c d).clk.slotBusy = s.clk.slotBusy := rfl

/-! ## `takeFresh` -/

@[simp] theorem takeFresh_mem (s : State) : s.takeFresh.2.mem = s.mem := rfl
@[simp] theorem takeFresh_adm (s : State) : s.takeFresh.2.adm = s.adm := rfl
@[simp] theorem takeFresh_work (s : State) : s.takeFresh.2.work = s.work := rfl
@[simp] theorem takeFresh_now (s : State) : s.takeFresh.2.clk.now = s.clk.now := rfl
@[simp] theorem takeFresh_agenda (s : State) : s.takeFresh.2.clk.agenda = s.clk.agenda := rfl
@[simp] theorem takeFresh_turns (s : State) : s.takeFresh.2.clk.turns = s.clk.turns := rfl
@[simp] theorem takeFresh_cur (s : State) : s.takeFresh.2.clk.cur = s.clk.cur := rfl
@[simp] theorem takeFresh_subj (s : State) : s.takeFresh.2.clk.subj = s.clk.subj := rfl
@[simp] theorem takeFresh_phase (s : State) : s.takeFresh.2.clk.phase = s.clk.phase := rfl
@[simp] theorem takeFresh_fresh (s : State) : s.takeFresh.2.clk.fresh = s.clk.fresh + 1 := rfl
@[simp] theorem takeFresh_freeCnt (s : State) : s.takeFresh.2.clk.freeCnt = s.clk.freeCnt := rfl
@[simp] theorem takeFresh_rr (s : State) : s.takeFresh.2.clk.rr = s.clk.rr := rfl
@[simp] theorem takeFresh_slotBusy (s : State) : s.takeFresh.2.clk.slotBusy = s.clk.slotBusy := rfl

/-! ## `drawFree` -/

@[simp] theorem drawFree_mem (s : State) : s.drawFree.2.mem = s.mem := rfl
@[simp] theorem drawFree_adm (s : State) : s.drawFree.2.adm = s.adm := rfl
@[simp] theorem drawFree_work (s : State) : s.drawFree.2.work = s.work := rfl
@[simp] theorem drawFree_now (s : State) : s.drawFree.2.clk.now = s.clk.now := rfl
@[simp] theorem drawFree_agenda (s : State) : s.drawFree.2.clk.agenda = s.clk.agenda := rfl
@[simp] theorem drawFree_turns (s : State) : s.drawFree.2.clk.turns = s.clk.turns := rfl
@[simp] theorem drawFree_cur (s : State) : s.drawFree.2.clk.cur = s.clk.cur := rfl
@[simp] theorem drawFree_subj (s : State) : s.drawFree.2.clk.subj = s.clk.subj := rfl
@[simp] theorem drawFree_phase (s : State) : s.drawFree.2.clk.phase = s.clk.phase := rfl
@[simp] theorem drawFree_fresh (s : State) : s.drawFree.2.clk.fresh = s.clk.fresh := rfl
@[simp] theorem drawFree_freeCnt (s : State) : s.drawFree.2.clk.freeCnt = s.clk.freeCnt + 1 := rfl
@[simp] theorem drawFree_rr (s : State) : s.drawFree.2.clk.rr = s.clk.rr := rfl
@[simp] theorem drawFree_slotBusy (s : State) : s.drawFree.2.clk.slotBusy = s.clk.slotBusy := rfl

/-! ## `log` -/

@[simp] theorem log_clk (s : State) (e : ErrRec) : (s.log e).clk = s.clk := rfl
@[simp] theorem log_mem (s : State) (e : ErrRec) : (s.log e).mem = s.mem := rfl
@[simp] theorem log_work (s : State) (e : ErrRec) : (s.log e).work = s.work := rfl
@[simp] theorem log_step (s : State) (e : ErrRec) : (s.log e).adm.step = s.adm.step := rfl
@[simp] theorem log_recovery (s : State) (e : ErrRec) : (s.log e).adm.recovery = s.adm.recovery := rfl
@[simp] theorem log_fatal (s : State) (e : ErrRec) : (s.log e).adm.fatal = s.adm.fatal := rfl
@[simp] theorem log_trained (s : State) (e : ErrRec) : (s.log e).adm.trained = s.adm.trained := rfl
@[simp] theorem log_sealedOk (s : State) (e : ErrRec) : (s.log e).adm.sealedOk = s.adm.sealedOk := rfl
@[simp] theorem log_flash (s : State) (e : ErrRec) : (s.log e).adm.flash = s.adm.flash := rfl
@[simp] theorem log_cfgSlot (s : State) (e : ErrRec) : (s.log e).adm.cfgSlot = s.adm.cfgSlot := rfl
@[simp] theorem log_fwSlot (s : State) (e : ErrRec) : (s.log e).adm.fwSlot = s.adm.fwSlot := rfl
@[simp] theorem log_cfgSeq (s : State) (e : ErrRec) : (s.log e).adm.cfgSeq = s.adm.cfgSeq := rfl
@[simp] theorem log_enmask (s : State) (e : ErrRec) : (s.log e).adm.enmask = s.adm.enmask := rfl
@[simp] theorem log_pwrlim (s : State) (e : ErrRec) : (s.log e).adm.pwrlim = s.adm.pwrlim := rfl
@[simp] theorem log_ptpport (s : State) (e : ErrRec) : (s.log e).adm.ptpport = s.adm.ptpport := rfl
@[simp] theorem log_payload8k (s : State) (e : ErrRec) : (s.log e).adm.payload8k = s.adm.payload8k := rfl
@[simp] theorem log_macbase (s : State) (e : ErrRec) : (s.log e).adm.macbase = s.adm.macbase := rfl
@[simp] theorem log_idpub (s : State) (e : ErrRec) : (s.log e).adm.idpub = s.adm.idpub := rfl
@[simp] theorem log_reckey (s : State) (e : ErrRec) : (s.log e).adm.reckey = s.adm.reckey := rfl
@[simp] theorem log_opkey (s : State) (e : ErrRec) : (s.log e).adm.opkey = s.adm.opkey := rfl
@[simp] theorem log_fwHash (s : State) (e : ErrRec) : (s.log e).adm.fwHash = s.adm.fwHash := rfl
@[simp] theorem log_cfgHash (s : State) (e : ErrRec) : (s.log e).adm.cfgHash = s.adm.cfgHash := rfl
@[simp] theorem log_ports (s : State) (e : ErrRec) : (s.log e).adm.ports = s.adm.ports := rfl
@[simp] theorem log_uud (s : State) (e : ErrRec) : (s.log e).adm.uud = s.adm.uud := rfl
@[simp] theorem log_flow (s : State) (e : ErrRec) : (s.log e).adm.flow = s.adm.flow := rfl
@[simp] theorem log_oversize (s : State) (e : ErrRec) : (s.log e).adm.oversize = s.adm.oversize := rfl
@[simp] theorem log_locked (s : State) (e : ErrRec) : (s.log e).adm.locked = s.adm.locked := rfl
@[simp] theorem log_everLocked (s : State) (e : ErrRec) : (s.log e).adm.everLocked = s.adm.everLocked := rfl
@[simp] theorem log_lastSync (s : State) (e : ErrRec) : (s.log e).adm.lastSync = s.adm.lastSync := rfl
@[simp] theorem log_mgmtEvents (s : State) (e : ErrRec) : (s.log e).adm.mgmtEvents = s.adm.mgmtEvents := rfl
@[simp] theorem log_mhz (s : State) (e : ErrRec) : (s.log e).adm.mhz = s.adm.mhz := rfl
@[simp] theorem log_avgPower (s : State) (e : ErrRec) : (s.log e).adm.avgPower = s.adm.avgPower := rfl
@[simp] theorem log_monitors (s : State) (e : ErrRec) : (s.log e).adm.monitors = s.adm.monitors := rfl
@[simp] theorem log_retries (s : State) (e : ErrRec) : (s.log e).adm.retries = s.adm.retries := rfl
@[simp] theorem log_strikes (s : State) (e : ErrRec) : (s.log e).adm.strikes = s.adm.strikes := rfl
@[simp] theorem log_corrected (s : State) (e : ErrRec) : (s.log e).adm.corrected = s.adm.corrected := rfl
@[simp] theorem log_conns (s : State) (e : ErrRec) : (s.log e).adm.conns = s.adm.conns := rfl
@[simp] theorem log_outbox (s : State) (e : ErrRec) : (s.log e).adm.outbox = s.adm.outbox := rfl
@[simp] theorem log_keys (s : State) (e : ErrRec) : (s.log e).adm.keys = s.adm.keys := rfl
@[simp] theorem log_parts (s : State) (e : ErrRec) : (s.log e).adm.parts = s.adm.parts := rfl
@[simp] theorem log_ctxPart (s : State) (e : ErrRec) : (s.log e).adm.ctxPart = s.adm.ctxPart := rfl
@[simp] theorem log_peers (s : State) (e : ErrRec) : (s.log e).adm.peers = s.adm.peers := rfl
@[simp] theorem log_epochs (s : State) (e : ErrRec) : (s.log e).adm.epochs = s.adm.epochs := rfl
@[simp] theorem log_errlog (s : State) (e : ErrRec) : (s.log e).adm.errlog = mput e.tenant ((mget e.tenant s.adm.errlog).getD [] ++ [e]) s.adm.errlog := rfl
@[simp] theorem log_queues (s : State) (e : ErrRec) : (s.log e).adm.queues = s.adm.queues := rfl
@[simp] theorem log_objs (s : State) (e : ErrRec) : (s.log e).adm.objs = s.adm.objs := rfl
@[simp] theorem log_pulls (s : State) (e : ErrRec) : (s.log e).adm.pulls = s.adm.pulls := rfl
@[simp] theorem log_census (s : State) (e : ErrRec) : (s.log e).adm.census = s.adm.census := rfl
@[simp] theorem log_samples (s : State) (e : ErrRec) : (s.log e).adm.samples = s.adm.samples := rfl
@[simp] theorem log_sess (s : State) (e : ErrRec) : (s.log e).adm.sess = s.adm.sess := rfl
@[simp] theorem log_breaks (s : State) (e : ErrRec) : (s.log e).adm.breaks = s.adm.breaks := rfl
@[simp] theorem log_dbgStatus (s : State) (e : ErrRec) : (s.log e).adm.dbgStatus = s.adm.dbgStatus := rfl

/-! ## `expand` -/

@[simp] theorem expand_mem (s : State) (g : Gang) : (s.expand g).mem = s.mem := rfl
@[simp] theorem expand_adm (s : State) (g : Gang) : (s.expand g).adm = s.adm := rfl
@[simp] theorem expand_work (s : State) (g : Gang) : (s.expand g).work = s.work := rfl
@[simp] theorem expand_now (s : State) (g : Gang) : (s.expand g).clk.now = s.clk.now := rfl
@[simp] theorem expand_agenda (s : State) (g : Gang) : (s.expand g).clk.agenda = s.clk.agenda := rfl
@[simp] theorem expand_turns (s : State) (g : Gang) : (s.expand g).clk.turns = s.clk.turns := rfl
@[simp] theorem expand_cur (s : State) (g : Gang) : (s.expand g).clk.cur = s.clk.cur := rfl
@[simp] theorem expand_subj (s : State) (g : Gang) : (s.expand g).clk.subj = s.clk.subj := rfl
@[simp] theorem expand_phase (s : State) (g : Gang) : (s.expand g).clk.phase = s.clk.phase := rfl
@[simp] theorem expand_fresh (s : State) (g : Gang) : (s.expand g).clk.fresh = s.clk.fresh := rfl
@[simp] theorem expand_freeCnt (s : State) (g : Gang) : (s.expand g).clk.freeCnt = s.clk.freeCnt := rfl
@[simp] theorem expand_rr (s : State) (g : Gang) : (s.expand g).clk.rr = s.clk.rr := rfl
@[simp] theorem expand_slotBusy (s : State) (g : Gang) : (s.expand g).clk.slotBusy = mput (4 * g.cluster + g.slot) (s.issueClk g.die 2) s.clk.slotBusy := rfl

/-! ## `expandFor` -/

theorem expandFor_eq (s : State) (g : Gang) (ws : List Write) :
    s.expandFor g ws = { s with clk := { s.clk with slotBusy := (s.expandFor g ws).clk.slotBusy } } := by
  unfold expandFor; split <;> rfl

@[simp] theorem expandFor_mem (s : State) (g : Gang) (ws : List Write) : (s.expandFor g ws).mem = s.mem := by rw [expandFor_eq]
@[simp] theorem expandFor_adm (s : State) (g : Gang) (ws : List Write) : (s.expandFor g ws).adm = s.adm := by rw [expandFor_eq]
@[simp] theorem expandFor_work (s : State) (g : Gang) (ws : List Write) : (s.expandFor g ws).work = s.work := by rw [expandFor_eq]
@[simp] theorem expandFor_now (s : State) (g : Gang) (ws : List Write) : (s.expandFor g ws).clk.now = s.clk.now := by rw [expandFor_eq]

@[simp] theorem takeFresh_num (s : State) : s.takeFresh.1 = s.clk.fresh := rfl
@[simp] theorem drawFree_val (s : State) : s.drawFree.1 = Config.freeValue s.clk.freeCnt := rfl

end State
end Sys2Proof.Machine
end

