-- ==== Sys2Proof/Laws/Ops.lean ====
section
/-! SUPPORT. What the shared operations of an issuing instruction can do, once each: results on their way, arithmetic errors, a path
that goes on, waits, jumps. -/

namespace Sys2Proof.Machine

/-! ## Lists of results -/

theorem pendInsert_perm (x : Pend) (l : List Pend) : (pendInsert x l).Perm (x :: l) := by
  induction l with
  | nil => exact .refl _
  | cons y l ih =>
    unfold pendInsert
    split
    · exact .refl _
    · exact (ih.cons y).trans (.swap x y l)

theorem pendSort_perm (l : List Pend) : (pendSort l).Perm l := by
  have : ∀ acc : List Pend, (l.foldl (fun acc x => pendInsert x acc) acc).Perm (acc ++ l) := by
    induction l with
    | nil => intro acc; simp
    | cons x l ih =>
      intro acc
      refine (ih _).trans ?_
      exact ((pendInsert_perm x acc).append_right l).trans ((List.perm_middle (l₁ := acc) (l₂ := l)).symm)
  have h := this []
  rwa [List.nil_append] at h

/-- A new result changes nothing else of its gang. -/
theorem Gang.push_frame (g : Gang) (x : Pend) : g.push x = { g with pend := (g.push x).pend } := by
  unfold Gang.push; split <;> rfl

theorem Gang.push_what (g : Gang) (x : Pend) : ((g.push x).pend.map Pend.what).Perm (g.pend.map Pend.what ++ [x.what]) := by
  unfold Gang.push
  split
  · refine ((pendInsert_perm _ _).map _).trans ?_
    refine (List.Perm.cons _ ((pendSort_perm _).map _)).trans ?_
    have : (g.pend.map (fun y => if y.run = x.run ∧ y.fixed ∧ x.pos < y.pos then { y with land := max y.land (g.pend.foldl (fun m y => if y.run = x.run ∧ y.fixed ∧ y.pos ≤ x.pos then max m y.land else m) x.land) } else y)).map Pend.what = g.pend.map Pend.what := by
      rw [List.map_map]
      apply List.map_congr_left
      intro y _
      simp only [Function.comp]
      split <;> rfl
    rw [this]
    exact (List.perm_append_comm (l₁ := [x.what]))
  · refine ((pendInsert_perm _ _).map _).trans ?_
    exact (List.perm_append_comm (l₁ := [x.what]))

theorem Gang.push_out {g : Gang} {x : Pend} (h : x.run = 0) : (g.push x).pend.Perm (g.pend ++ [x]) := by
  unfold Gang.push
  rw [if_neg (by simp [h])]
  exact (pendInsert_perm x g.pend).trans (List.perm_append_comm (l₁ := [x]))

theorem foldl_max_le (p : Pend → Bool) (l : List Pend) (m : Nat) : m ≤ l.foldl (fun m y => if p y then max m y.land else m) m := by
  induction l generalizing m with
  | nil => exact le_refl m
  | cons y l ih =>
    refine le_trans ?_ (ih _)
    dsimp only
    split
    · exact le_max_left _ _
    · exact le_refl _

/-- A new result makes none land earlier. -/
theorem Gang.push_land (g : Gang) (x : Pend) : ∀ y ∈ (g.push x).pend, ∃ z ∈ g.pend ++ [x], z.what = y.what ∧ z.land ≤ y.land := by
  intro y hy
  unfold Gang.push at hy
  split at hy
  · have hy := (pendInsert_perm _ _).mem_iff.1 hy
    rw [List.mem_cons] at hy
    rcases hy with rfl | hy
    · refine ⟨x, by simp, rfl, ?_⟩
      simpa using foldl_max_le (fun y => decide (y.run = x.run ∧ y.fixed ∧ y.pos ≤ x.pos)) g.pend x.land
    · have hy := (pendSort_perm _).mem_iff.1 hy
      obtain ⟨z, hz, rfl⟩ := List.mem_map.1 hy
      refine ⟨z, by simp [hz], ?_⟩
      split <;> simp [Pend.what]
  · have hy := (pendInsert_perm _ _).mem_iff.1 hy
    exact ⟨y, by simpa [or_comm] using hy, rfl, le_refl _⟩

/-! ## Results of one instruction -/

theorem Gang.frame_of {g h : Gang} (e : ∃ p, h = { g with pend := p }) : h = { g with pend := h.pend } := by
  obtain ⟨p, rfl⟩ := e; rfl

theorem Gang.results_cons (g : Gang) (x : Iss) (land lat : Nat) (tag : Tag) (w : Write) (ws : List Write) :
    g.results x land lat tag (w :: ws) = (g.push (x.sends lat land tag w)).results x land lat tag ws := rfl

theorem Gang.results_frame (g : Gang) (x : Iss) (land lat : Nat) (tag : Tag) (ws : List Write) :
    ∃ p, g.results x land lat tag ws = { g with pend := p } := by
  induction ws generalizing g with
  | nil => exact ⟨g.pend, rfl⟩
  | cons w ws ih =>
    obtain ⟨p, e⟩ := ih (g.push (x.sends lat land tag w))
    refine ⟨p, ?_⟩
    rw [Gang.results_cons, e, Gang.push_frame]

/-- What `Gang.results` can do: results on their way, nothing else. -/
theorem Gang.results_spec (g : Gang) (x : Iss) (land lat : Nat) (tag : Tag) (ws : List Write) :
    let h := g.results x land lat tag ws
    h = { g with pend := h.pend } ∧
    (h.pend.map Pend.what).Perm (g.pend.map Pend.what ++ ws.map (fun w => (x.sends lat 0 tag w).what)) ∧
    (x.run = 0 → h.pend.Perm (g.pend ++ ws.map (x.sends lat land tag))) ∧
    ∀ y ∈ h.pend, ∃ z ∈ g.pend ++ ws.map (x.sends lat land tag), z.what = y.what ∧ z.land ≤ y.land := by
  induction ws generalizing g with
  | nil =>
    refine ⟨Gang.frame_of (g.results_frame ..), by simp [Gang.results], fun _ => by simp [Gang.results], fun y hy => ⟨y, by simpa [Gang.results] using hy, rfl, le_refl _⟩⟩
  | cons w ws ih =>
    obtain ⟨_, i3, i4, i5⟩ := ih (g.push (x.sends lat land tag w))
    simp only [Gang.results_cons]
    refine ⟨Gang.frame_of (g.results_frame x land lat tag (w :: ws)), ?_, ?_, ?_⟩
    · refine i3.trans ?_
      refine ((Gang.push_what g (x.sends lat land tag w)).append_right _).trans ?_
      simp only [List.append_assoc, List.map_cons, List.singleton_append]
      exact .refl _
    · intro h0
      refine (i4 h0).trans ?_
      refine ((Gang.push_out (g := g) (x := x.sends lat land tag w) h0).append_right _).trans ?_
      simp
    · intro y hy
      obtain ⟨z, hz, hw, hl⟩ := i5 y hy
      rw [List.mem_append] at hz
      rcases hz with hz | hz
      · obtain ⟨u, hu, hw', hl'⟩ := Gang.push_land _ _ z hz
        refine ⟨u, ?_, hw'.trans hw, hl'.trans hl⟩
        simp only [List.mem_append, List.map_cons, List.mem_cons, List.not_mem_nil, or_false] at hu ⊢
        tauto
      · exact ⟨z, by simp only [List.mem_append, List.map_cons, List.mem_cons]; tauto, hw, hl⟩

/-! ## Arithmetic errors -/

/-- Recording an error keeps every gang, and changes a gang's list of recorded causes alone. -/
theorem State.arith_gang {s : State} {k j : Nat} {g : Gang} (e : Gang) (run : Nat) (hdr : DWord) (c : Nat) (m : Mask) (h : s.gang? k = some g) :
    ∃ l, (s.arith j e run hdr c m).gang? k = some { g with errs := l } := by
  unfold State.arith
  split
  · exact ⟨g.errs, h⟩
  · split
    · exact ⟨g.errs, h⟩
    · simp only [State.gang?, State.modGang_gangs, mget_mmod]
      split
      · exact ⟨_, by simp only [State.logGang, State.log_work]; rw [State.gang?] at h; rw [h]; rfl⟩
      · exact ⟨g.errs, h⟩

theorem State.ariths_gang {s : State} {x : Iss} {g : Gang} (errs : List (Nat × Mask)) (h : s.gang? x.k = some g) :
    ∃ l, (s.ariths x errs).gang? x.k = some { g with errs := l } := by
  unfold State.ariths
  induction errs generalizing s g with
  | nil => exact ⟨g.errs, h⟩
  | cons e es ih =>
    obtain ⟨l, hl⟩ := State.arith_gang (j := x.k) g x.run x.runPc e.1 e.2 h
    simp only [List.foldl_cons, h]
    obtain ⟨l', h'⟩ := ih (g := { g with errs := l }) hl
    exact ⟨l', h'⟩

@[simp] theorem State.ariths_nil (s : State) (x : Iss) : s.ariths x [] = s := rfl

/-! ## The operations of an issuing instruction -/

theorem Gang.goOn_eq (g : Gang) (x : Iss) : g.goOn x = { g with paths := g.behind x } := rfl

/-- What `State.regs` can do. -/
theorem State.regs_issued {s : State} {x : Iss} {g : Gang} (lat : Nat) (tag : Tag) (ws : List Write) (errs : List (Nat × Mask))
    (h : s.gang? x.k = some g) : Issued (s.ariths x errs) x lat ws (s.regs x lat tag ws errs) := by
  obtain ⟨l, hl⟩ := State.ariths_gang errs h
  unfold State.regs
  simp only [hl]
  generalize s.ariths x errs = u at hl ⊢
  generalize ({ g with errs := l } : Gang) = g at hl ⊢
  have r := g.results_spec x (u.issueClk g.die lat) lat tag ws
  simp only at r
  refine ⟨g, (g.results x (u.issueClk g.die lat) lat tag ws).goOn x, tag, hl, ?_, ?_, r.2.1, r.2.2.1, r.2.2.2, ?_⟩
  · rw [State.expandFor_eq]; rfl
  · conv_lhs => rw [r.1]
    rfl
  · intro a; rw [State.expandFor_mem]; rfl

theorem State.iss_gang {s : State} {x : Iss} (h : s.iss = some x) : ∃ g, s.gang? x.k = some g := by
  unfold State.iss at h
  split at h
  · cases h
  · split at h
    · cases h
    · split at h
      · cases h
      · cases h; exact ⟨_, by assumption⟩

/-- An instruction that only writes registers completes, and that is all it does. -/
theorem sends_of_regs {i : Instr} {s : State} {x : Iss} (lat : Nat) (tag : Tag) (ws : List Write) (errs : List (Nat × Mask))
    (hx : s.iss = some x) (h : exec i s = .next (s.regs x lat tag ws errs)) : Sends i s x lat ws errs := by
  obtain ⟨g, hg⟩ := State.iss_gang hx
  exact ⟨_, h, State.regs_issued lat tag ws errs hg⟩

theorem State.issue_some {s : State} {x : Iss} (h : s.iss = some x) (f : Iss → State) : s.issue f = .next (f x) := by simp only [State.issue, h]

theorem State.issue_none {s : State} (h : s.iss = none) (f : Iss → State) : s.issue f = .refused .noIssuer := by simp only [State.issue, h]

theorem State.uni_true {s : State} {x : Iss} {p : Pred} (h : s.iss = some x) (hp : x.qp p = true) (f : Iss → State) : s.uni p f = .next (f x) := by
  simp only [State.uni, State.issue, h, hp, if_true]

theorem State.uni_false {s : State} {x : Iss} {p : Pred} (h : s.iss = some x) (hp : x.qp p = false) (f : Iss → State) :
    s.uni p f = .next (s.pass x) := by
  simp only [State.uni, State.issue, h, hp, if_false, Bool.false_eq_true]

theorem State.pass_onPath (s : State) (x : Iss) : s.pass x = s.onPath x (fun p => p.next x.len) := rfl
theorem State.jump_onPath (s : State) (x : Iss) (t : DWord) : s.jump x t = s.onPath x (fun p => { p with pc := t }) := rfl
theorem State.await_onPath (s : State) (x : Iss) (w : Wait) : s.await x w = s.onPath x (fun p => { p with wait := w, wlen := x.len }) := rfl

@[simp] theorem State.onPath_mem (s : State) (x : Iss) (f : Path → Path) : (s.onPath x f).mem = s.mem := rfl
@[simp] theorem State.onPath_adm (s : State) (x : Iss) (f : Path → Path) : (s.onPath x f).adm = s.adm := rfl
@[simp] theorem State.onPath_clk (s : State) (x : Iss) (f : Path → Path) : (s.onPath x f).clk = s.clk := rfl

theorem State.onPath_gang {s : State} {x : Iss} {g : Gang} (f : Path → Path) (h : s.gang? x.k = some g) :
    (s.onPath x f).gang? x.k = some { g with paths := g.paths.map (fun p => if p.lanes = x.path.lanes then f p else p) } := by
  rw [State.gang?] at h
  simp [State.onPath, State.gang?, h]

/-! ## Reading: what a reader sees, and when results take their effect (R172, R377) -/

theorem Gang.land_pend (g : Gang) (t : Tag) (w : Write) : (g.land t w).pend = g.pend := by
  unfold Gang.land; split <;> (try split) <;> rfl

/-! ## Memory requests -/

/-- What a memory instruction's request is (R78, R448, R449): the form in which the statements say it. -/
theorem asks_of_memReq {i : Instr} {s w u : State} {x : Iss} {a : Nat → DWord} {len : Nat} {q : Req}
    (he : exec i s = .next (w.memReq x a len q)) (hq : q.lanes ≠ 0) (hp : maskOf q.lanes (fun l => !ptrOk (a l)) ≠ 0 → w = s)
    (ho : maskOf q.lanes (fun l => !ptrOk (a l)) = 0 → w = u) (hs : q.kind.loads = true → mget x.ctx u.adm.samples = none)
    (hn : q.sample = none) : Asks i s u x a len q.kind.aligned q := by
  constructor
  · intro hf; rw [he, hp hf, State.memReq, if_neg hq, if_pos hf]
  · intro hf
    rw [he, ho hf, State.memReq, if_neg hq, if_neg (not_not.2 hf)]
    have hl : ∀ c l b d e, mget x.ctx (u.logGang x.g c l b d e).adm.samples = mget x.ctx u.adm.samples := fun _ _ _ _ _ => rfl
    by_cases hk : q.kind.loads = true
    · have hs := hs hk
      by_cases hb : (if q.kind.aligned then maskOf q.lanes (fun l => decide ((a l).toNat % len ≠ 0)) else 0) = 0
      · simp only [hb, if_true, State.takeSample, hs, hn, ite_self]
      · simp only [hb, if_false, State.takeSample, hl, hs, hn, ite_self]
    · simp only [hk, hn, Bool.false_and]; rfl

/-! ## Units that answer -/

theorem Gang.goOn_modPath (g : Gang) (x : Iss) (f : Path → Path) :
    (g.goOn x).modPath x.path.lanes f = { g with paths := g.paths.map (fun p => if p.lanes = x.path.lanes then f (p.next x.len) else p) } := by
  simp only [Gang.goOn, Gang.modPath, List.map_map]
  congr 1
  apply List.map_congr_left
  intro p _
  simp only [Function.comp]
  by_cases h : p.lanes = x.path.lanes
  · have : (p.next x.len).lanes = x.path.lanes := h
    simp [h, this]
  · simp [h]

/-- The path that waits for the answer of a unit. -/
theorem answered_eq (s : State) (x : Iss) (t : Nat) : s.answered x t = s.heldTill x t := by
  unfold State.answered State.heldTill State.onPath
  congr 1
  funext g
  rw [Gang.goOn_modPath]

/-- What an answer to a Q predicate is. -/
theorem answersQ_of {i : Instr} {s u : State} {x : Iss} {die : Nat} {qd : Fin 8} {v : Bool} {g : Gang}
    (he : exec i s = .next (u.answerQ x die qd v)) (hg : u.gang? x.k = some g) : AnswersQ i s u x die qd v := by
  let y := x.sends 4 (u.issueFrom g.die (u.clk.now + x.trip die) 4) .general (.q qd.val v)
  have hr : g.results x (u.issueFrom g.die (u.clk.now + x.trip die) 4) 4 .general [.q qd.val v] = g.push y := rfl
  have hp := Gang.push_frame g y
  refine ⟨g, { g with
      pend := (g.push y).pend
      paths := g.paths.map (fun p => if p.lanes = x.path.lanes then { p.next x.len with hold := u.clk.now + x.trip die } else p) }, hg, ?_, rfl, ?_, ?_⟩
  · rw [he]
    congr 1
    unfold State.answerQ
    simp only [hg]
    rw [answered_eq, show unitTime x.g.die die = x.trip die from rfl, hr]
    unfold State.heldTill State.onPath State.modGang State.setGang mmod
    simp only [mget_mput_same, mput_self]
    congr 3
    rw [hp]
  · exact Gang.push_what g y
  · exact fun h => Gang.push_out h

end Sys2Proof.Machine
end

