-- ==== Sys2Proof/Tests/Slice0.lean ====
section
/-! SUPPORT. Tests: ill-formed instructions that `Instr.wf` refuses, words that the manual prints, one step of single instructions with the
results that the manual's worked tables give, and for each statement with hypotheses a state that meets them. -/

namespace Sys2Proof.Tests

open Sys2Proof Sys2Proof.Machine

def yes : Pred := ⟨false, 0⟩
def no : Pred := ⟨true, 0⟩

/-! ## Well-formedness: one ill-formed term for each check -/

/-- Two literals among the sources (R355). -/
theorem test_wf_two_literals :
    Instr.wf (.iadd yes (.v 0) (.lit 1) (.lit 2)) = false ∧ Instr.wf (.imad yes .n32 false (.v 0) (.lit 1) (.v 2) (.lit 3)) = false ∧
    Instr.wf (.gadd yes (.g 0) (.lit 1) (.lit 2)) = false ∧ Instr.wf (.ldUniform yes .n32 (.g 0) (.lit 1) (.lit 2)) = false ∧
    Instr.wf (.stUniform yes .n32 (.g 0) (.lit 1) (.lit 2)) = false ∧ Instr.wf (.copyt yes (.lit 0) (.g 1) (.lit 2)) = false ∧
    Instr.wf (.kick yes (.lit 0) (.lit 1)) = false ∧ Instr.wf (.stLong yes .n32 none (.lit 1) ⟨none, none, some 4⟩) = false ∧
    Instr.wf (.dset yes (.lit 1) ⟨none, none, some 4⟩) = false ∧ Instr.wf (.stmc yes .n32 none (.lit 1) ⟨none, none, some 4⟩ 0) = false ∧
    Instr.wf (.stred yes .add .n32 none (.lit 1) ⟨none, none, some 4⟩ 0) = false ∧ Instr.wf (.qsend yes false 0 (.lit 1) (.lit 2)) = false := by decide

/-- REDUX's bitwise operations take no float (R423); CVT's types, `.ftz`, `.sat` and B (R433). -/
theorem test_wf_redux_cvt :
    Instr.wf (.redux yes .xor .f32 (.v 0) (.v 1)) = false ∧ Instr.wf (.cvt yes .f32 .f32 .rne false false (.v 0) (.v 1) none) = false ∧
    Instr.wf (.cvt yes .i8 .n32 .rne true false (.v 0) (.v 1) none) = false ∧ Instr.wf (.cvt yes .f32 .n32 .rne false true (.v 0) (.v 1) none) = false ∧
    Instr.wf (.cvt yes .bf16x2 .f32 .rne false false (.v 0) (.v 1) none) = false ∧
    Instr.wf (.cvt yes .f32 .i32 .rne false false (.v 0) (.v 1) (some (.v 2))) = false ∧
    Instr.wf (.cvt yes .f32 .bf16x2 .rne false false (.v 0) (.v 1) none) = false ∧
    Instr.wf (.cvt yes .bf16x2 .f32 .rne false false (.v 0) (.lit 1) (some (.lit 2))) = false := by decide

/-- Block conversions: no literal pair, a second pair with `.e2m1` alone (R436 to R439). -/
theorem test_wf_blocks :
    Instr.wf (.qblk yes .i8 .rne (.v 0) (.lit 1) none) = false ∧ Instr.wf (.qblk yes .e2m1 .rne (.v 0) (.v 2) none) = false ∧
    Instr.wf (.qblks yes .i8 .rne false (.v 0) (.v 2) (.v 4) (some (.v 6))) = false ∧
    Instr.wf (.qblks yes .e2m1 .rne false (.v 0) (.v 2) (.v 4) (some (.lit 6))) = false ∧
    Instr.wf (.dqblk yes .i8 .rne false (.v 0) (.v 2) (some (.v 4))) = false ∧
    Instr.wf (.dqblk yes .e2m1 .rne false (.v 0) (.lit 2) (some (.lit 4))) = false := by decide

/-- Scratchpad scopes beyond TEAM (R451); cas with a G or literal operand, T7, or T6 for a pair (R456); VA without K (R374); an odd tile of a
64-bit state (R370). -/
theorem test_wf_scope_cas_run_tile :
    Instr.wf (.ldsLong yes .n32 (some .dev) (.v 0) ⟨none, none, none⟩) = false ∧ Instr.wf (.stsLong yes .n32 (some .die) (.v 0) ⟨none, none, none⟩) = false ∧
    Instr.wf (.atomLong yes .cas .n32 .plain none ⟨none, none, none⟩ (.g 1)) = false ∧
    Instr.wf (.atomLong yes .cas .n32 .plain none ⟨none, none, none⟩ (.t 7)) = false ∧
    Instr.wf (.atoms yes .cas .n64 none ⟨none, none, none⟩ (.t 6)) = false ∧ Instr.wf (.runb 1 4 0) = false ∧ Instr.wf (.rune 4 0) = false ∧
    Instr.wf (.mzero yes 3 .f64) = false ∧ Instr.wf (.mzero yes 5 .i64) = false := by decide

/-! ## Words that the manual prints -/

/-- The worked encodings of chapter 18 (before R376). -/
theorem test_decode_formats :
    decode [0xC6040802] = .ok (.flinit yes (.g 8) 1 1, 1) ∧
    decode [0x6400A620] = .ok (.lds yes (.v 2) ⟨some 9, .indexed 0 2 0⟩, 1) ∧
    decode [0x301C0103] = .ok (.faddF32 yes (.t 0) (.v 2) (.v 3), 1) ∧
    decode [0x3001B871] = .ok (.faddF32 yes (.v 6) (.t 0) (.t 1), 1) ∧
    decode [0x341C037B] = .ok (.fmulF32 yes (.t 0) (.v 6) (.g 3), 1) ∧
    decode [0x5001F804] = .ok (.redux yes .add .f32 (.v 7) (.t 0), 1) ∧
    decode [0x6221CA20] = .ok (.st ⟨false, 1⟩ (.v 7) ⟨some 2, .indexed 0 2 0⟩, 1) ∧
    decode [0x60010A2F] = .ok (.ld yes (.v 4) ⟨some 2, .indexed 0 2 15⟩, 1) ∧
    decode [0x68210111] = .ok (.atom ⟨false, 1⟩ .xchg (.v 4) (some 2) (.v 2), 1) ∧
    decode [0x913FFFFF] = .ok (.bra ⟨true, 1⟩ 0x1FFFFF, 1) ∧
    decode [0x621FCC80, 0x02000000] = .ok (.st yes (.lit 0x02000000) ⟨some 3, .direct 0x80⟩, 2) := by decide

/-- The fates of words that are not instructions (chapter 18). -/
theorem test_decode_refused :
    decode [0x00000000] = .error .illenc ∧ decode [0x70000000] = .error .illenc ∧ decode [0x301EC103] = .error .illenc ∧
    decode [0x02000001] = .error .rsvfield ∧ decode [0x2A06807F] = .error .illenc := by decide

/-- Chapters 19 and 20. -/
theorem test_decode_uniform_integer :
    decode [0xA802FE00, 0x50] = .ok (.gmov yes (.g 5) (.lit 0x50), 2) ∧
    decode [0xA4028BF8, 0x20] = .ok (.gshl yes (.g 5) (.g 5) (.lit 32), 2) ∧
    decode [0xA2028BF9, 0x4000] = .ok (.gor yes (.g 5) (.g 5) (.lit 0x4000), 2) ∧
    decode [0xA8037E01, 0x80000000] = .ok (.gmovN32 yes (.g 6) (.lit 0x80000000), 2) ∧
    decode [0xA8047C00] = .ok (.gmov yes (.g 8) .zero, 1) ∧
    decode [0xC2038520, 0x400] = .ok (.stUniform yes .n32 (.g 7) (.g 2) (.lit 0x400), 2) ∧
    decode [0xB804A000] = .ok (.vote yes .mask (.g 9) 2, 1) ∧
    decode [0xB0030600] = .ok (.sregUniform yes (.g 6) .teamid, 1) ∧
    decode [0x88000000] = .ok (.bartm yes, 1) ∧ decode [0x9A000000] = .ok (.trap yes false, 1) ∧ decode [0xBA000000] = .ok (.pmark yes, 1) ∧
    decode [0x08000000] = .ok (.lexit yes, 1) ∧
    decode [0x5201C1FF, 0] = .ok (.shfl yes (.v 7) (.v 3) (.lit 0), 2) := by decide

/-- Chapter 21. -/
theorem test_decode_float :
    decode [0x48014307] = .ok (.fmulBf16X2 yes (.v 5) (.v 6) (.v 7), 1) ∧
    decode [0x0E00C082, 0x20004600] = .ok (.faddLong yes .f32 .rz true (.v 3) (.v 1) (.v 2), 2) ∧
    decode [0x0E020103, 0x23127000] = .ok (.ffmaLong yes .f16x2 .rne false (.v 8) (.v 2) (.v 3) (.v 9), 2) ∧
    decode [0x2C088082] = .ok (.fcmpF32 yes .lt 2 (.v 1) (.v 2), 1) ∧
    decode [0x0E000206, 0x2A0A5260] = .ok (.fcmpLong yes true .ge true 3 (.v 4) (.v 6), 2) ∧
    decode [0x0E020082, 0x40086000] = .ok (.cvt yes .bf16x2 .f32 .rne false false (.v 8) (.v 1) (some (.v 2)), 2) ∧
    decode [0x0E028100, 0x4100B000] = .ok (.qblk yes .i8 .rne (.v 10) (.v 2) none, 2) ∧
    decode [0x0E030500, 0x4300B000] = .ok (.dqblk yes .i8 .rne false (.v 12) (.v 10) none, 2) := by decide

/-- Chapter 22. -/
theorem test_decode_memory :
    decode [0x6C014400, 0x022C0000] = .ok (.ldLong yes .n32 (some .dev) false (.v 5) ⟨some 4, none, none⟩, 2) ∧
    decode [0x6C00C500, 0x064C0000] = .ok (.stLong yes .n32 (some .dev) (.v 3) ⟨some 5, none, none⟩, 2) ∧
    decode [0x6C008400, 0x00800002, 0x41] = .ok (.ldLong yes .i8 none false (.v 2) ⟨some 4, none, some 0x41⟩, 3) ∧
    decode [0x6A000120] = .ok (.atomNoret yes .add (some 4) (.v 2), 1) ∧
    decode [0x6C018400, 0x2A001400] = .ok (.atomLong yes .cas .n32 .plain (some (.v 6)) ⟨some 4, none, none⟩ (.v 10), 2) ∧
    decode [0x6C003E01, 0x5D800402, 0x10] = .ok (.atoms yes .max .i16 none ⟨none, none, some 0x10⟩ (.v 2), 3) ∧
    decode [0x6C00C888, 0x1E00F400] = .ok (.stmc yes .n32 none (.v 3) ⟨some 8, some (0, 2), none⟩ 2, 2) ∧
    decode [0x6C008300, 0x14000002, 0x40] = .ok (.dset yes (.v 2) ⟨some 3, none, some 0x40⟩, 3) ∧
    decode [0x6C000400, 0x10010002, 0x1000] = .ok (.pref yes true ⟨some 4, none, some 0x1000⟩, 3) := by decide

/-- Chapter 23. -/
theorem test_decode_engine :
    decode [0xD0040000] = .ok (.mres yes 1, 1) ∧ decode [0xD2000000] = .ok (.mrel yes, 1) ∧ decode [0xD4001001] = .ok (.mdelta yes (.g 8), 1) ∧
    decode [0xD6088000] = .ok (.mzero yes 4 .f32, 1) ∧ decode [0xD8038000] = .ok (.mstat yes (.g 7), 1) ∧
    decode [0xDA000A00] = .ok (.rsvinv yes (.g 5), 1) ∧ decode [0xDA000A32] = .ok (.rsvq yes (.g 5) (.g 6), 1) ∧
    decode [0xDC040830] = .ok (.copyt yes (.g 8) (.g 4) (.g 6), 1) ∧ decode [0xDC051801] = .ok (.kick yes (.g 10) (.g 12), 1) ∧
    decode [0xDC058802] = .ok (.tdload yes (.g 11) (.g 4), 1) ∧ decode [0xE0080500] = .ok (.tasksub yes false 2 (.g 5), 1) ∧
    decode [0xE2000000] = .ok (.taskdone yes, 1) ∧ decode [0xE4020A00] = .ok (.fapp yes (.g 4) 10, 1) ∧
    decode [0xE6020C0C] = .ok (.ftake yes (.g 4) 12 3, 1) ∧ decode [0xE8000800] = .ok (.dryw yes (.g 4), 1) := by decide

theorem test_decode_tournament :
    decode [0xEA040600] = .ok (.topen yes 1 (.g 6), 1) ∧ decode [0xEA044700] = .ok (.trival yes 1 (.g 7), 1) ∧
    decode [0xEA088000] = .ok (.tscore yes 2, 1) ∧ decode [0xEA08C024] = .ok (.tstat yes 2 (.g 9), 1) ∧ decode [0xEA0D0000] = .ok (.tclose yes 3, 1) ∧
    decode [0xEA118000] = .ok (.spgrow yes 4, 1) ∧ decode [0xEC144000] = .ok (.rclaim yes 5, 1) := by decide

/-! ## One instruction, one step -/

/-- A gang of 32 lanes, changed by `f`, whose one path issues an instruction of one word at `codeVa`; inside a run where `run` says so. -/
def issuing (run : Bool) (f : Gang → Gang) : State :=
  let s := State.reset.placeWord []
  let t := s.clk.fresh - 3
  (s.setGang (t + 1) (f (codeGang t run))).withCur (t + 1) 0xFFFFFFFF codeVa 1 0

/-- Its gang as it is read once every result has landed. -/
def after (i : Instr) (s : State) : Option Gang :=
  match exec i s, s.clk.cur with
  | .next t, some c => (t.gang? c.gang).map (fun g => g.view (s.clk.now + 1000) 0 0 0xFFFFFFFF)
  | _, _ => none

/-- The gang's G, V (the same value in every lane) and P registers from number 0 on. -/
def regs (gs : List DWord) (vs : List Word) (ps : List Mask) (g : Gang) : Gang :=
  { g with
    g := gs ++ g.g.drop gs.length
    v := vs.map (fun w => ⟨.general, List.replicate 32 w⟩) ++ g.v.drop vs.length
    p := ps ++ g.p.drop ps.length }

/-- What slot `l` of a V register holds after a lane instruction, with V0, V1, … at these values. -/
def lane (i : Instr) (vs : List Word) (d : Nat := 5) (l : Nat := 3) : Option Word :=
  (after i (issuing true (regs [] vs []))).map (fun g => g.vlane d l)

/-- What a G register holds after a uniform instruction. -/
def uni (i : Instr) (gs : List DWord) (d : Nat := 5) : Option DWord := (after i (issuing false (regs gs [] []))).map (fun g => g.g.getD d 0)

/-- The table of results behind R410. -/
theorem test_integer_results :
    lane (.iaddLong yes .i32 false (.v 5) (.v 0) (.v 1)) [0x7FFFFFF0, 0x20] = some 0x80000010 ∧
    lane (.iaddLong yes .i32 true (.v 5) (.v 0) (.v 1)) [0x7FFFFFF0, 0x20] = some 0x7FFFFFFF ∧
    lane (.iaddLong yes .n32 true (.v 5) (.v 0) (.v 1)) [0xFFFFFFF0, 0x20] = some 0xFFFFFFFF ∧
    lane (.isubLong yes .n32 true (.v 5) (.v 0) (.v 1)) [5, 7] = some 0 ∧
    lane (.iabs yes .i32 false (.v 5) (.v 0)) [0x80000000] = some 0x80000000 ∧
    lane (.iabs yes .i32 true (.v 5) (.v 0)) [0x80000000] = some 0x7FFFFFFF ∧
    lane (.imulhi yes .i32 (.v 5) (.v 0) (.v 1)) [0xFFFFFFFF, 2] = some 0xFFFFFFFF ∧
    lane (.imulhi yes .n32 (.v 5) (.v 0) (.v 1)) [0xFFFFFFFF, 2] = some 1 ∧
    lane (.iminI32 yes (.v 5) (.v 0) (.v 1)) [0xFFFFFFFF, 1] = some 0xFFFFFFFF ∧
    lane (.iminN32 yes (.v 5) (.v 0) (.v 1)) [0xFFFFFFFF, 1] = some 1 ∧
    lane (.shrI32 yes (.v 5) (.v 0) (.v 1)) [0x80000000, 33] = some 0xC0000000 ∧
    lane (.clz yes .n32 (.v 5) (.v 0)) [0xF00] = some 20 ∧ lane (.popc yes .n32 (.v 5) (.v 0)) [0xF00] = some 4 ∧
    lane (.bitrev yes .n32 (.v 5) (.v 0)) [1] = some 0x80000000 := by decide

/-- The table behind R411. -/
theorem test_bit_field_results :
    lane (.xfld yes .i32 (.v 5) (.v 0) (.lit 0x408)) [0xA50] = some 0xFFFFFFFA ∧ lane (.xfld yes .n32 (.v 5) (.v 0) (.lit 0x408)) [0xA50] = some 0xA ∧
    lane (.xfld yes .n32 (.v 5) (.v 0) (.lit 0x804)) [0xA50] = some 0xA5 ∧
    lane (.ifld yes .n32 (.v 5) (.v 0) (.lit 0x408) (.v 1)) [0x3, 0xFFFFFFFF] = some 0xFFFFF3FF := by decide

/-- Conversions behind R434, with their records' causes in the error log. -/
theorem test_conversion_results :
    lane (.cvt yes .e4m3 .f32 .rne false true (.v 5) (.v 0) none) [0x43EB0000] = some 0x7E ∧
    lane (.cvt yes .e4m3 .f32 .rne false false (.v 5) (.v 0) none) [0x43EB0000] = some 0x7F ∧
    lane (.cvt yes .f32 .i32 .rne false false (.v 5) (.v 0) none) [0x01000001] = some 0x4B800000 ∧
    lane (.cvt yes .i32 .f32 .rz false false (.v 5) (.v 0) none) [0xC0300000] = some 0xFFFFFFFE ∧
    lane (.cvt yes .i8 .f32 .rne false false (.v 5) (.v 0) none) [0x43960000] = some 0x7F ∧
    lane (.cvt yes .bf16x2 .f32 .rne false false (.v 5) (.v 0) (some (.v 1))) [0x3F800000, 0xC0000000] = some 0xC0003F80 := by decide

/-- Scalar results of chapter 19: sign-extended literals, shifts, the `.n32` move. -/
theorem test_uniform_results :
    uni (.gshl yes (.g 5) (.g 0) (.lit 32)) [0x50] = some 0x5000000000 ∧ uni (.gor yes (.g 5) (.g 0) (.lit 0x4000)) [0x5000000000] = some 0x5000004000 ∧
    uni (.gmov yes (.g 5) (.lit 0x80000000)) [] = some 0xFFFFFFFF80000000 ∧ uni (.gmovN32 yes (.g 5) (.lit 0x80000000)) [] = some 0x80000000 ∧
    uni (.gadd no (.g 5) (.g 0) (.lit 1)) [1, 0, 0, 0, 0, 9] = some 9 := by decide

/-- VOTE gathers P2 over the path (chapter 19): the even slots. -/
theorem test_vote : (after (.vote yes .mask (.g 9) 2) (issuing false (regs [] [] [0, 0, 0x55555555]))).map (fun g => g.g.getD 9 0) = some 0x55555555 := by
  decide

/-- Only active lanes write; the others keep their destination (R404). -/
theorem test_inactive_lanes_keep :
    (after (.iadd ⟨false, 1⟩ (.v 2) (.v 0) (.v 1)) (issuing true (regs [] [3, 4, 9] [0, 1]))).map (fun g => (g.vlane 2 0, g.vlane 2 1)) = some (7, 9) := by
  decide

/-- The block of chapter 21: QBLK of 0.125 i. Slots 0 and 31. -/
theorem test_qblk :
    (after (.qblk yes .i8 .rne (.v 10) (.v 2) none) (issuing true (fun g => { g with v := (List.range 112).map (fun n => ⟨.general,
      (List.range 32).map (fun s => BitVec.ofNat 32 (Fmt.f32.round .rne (.fin false (2 * s + n % 2) (-3))).bits)⟩) }))).map
        (fun g => (g.vlane 10 0, g.vlane 10 15, g.vlane 10 31)) = some (0x47B00200, 0x47B03E3C, 0x47B07E7C) := by decide +kernel

/-- A uniform store updates the store hash once (R280): 7 to 0x1000, then 9 to 0x1004. -/
theorem test_store_hash :
    (after (.stUniform yes .n32 (.g 0) (.lit 0x1000) (.imm 0)) (issuing false (regs [7] [] []))).map Gang.storehash = some 0x0000100000000007 ∧
    (after (.stUniform yes .n32 (.g 0) (.lit 0x1004) (.imm 0)) (issuing false (fun g => { regs [9] [] [] g with storehash := 0x0000100000000007 }))).map
      Gang.storehash = some 0x00021004000000E9 := by decide

/-- A branch with OFS −1 goes one word back (R368). -/
theorem test_branch : (after (.bra yes 0x1FFFFF) (issuing false id)).map (fun g => g.paths.map Path.pc) = some [codeVa - 4] := by decide

/-- A trap goes to TRAPVEC, with the trapping address in G61 and TRAPINS and all lanes in TRAPCAUSE (R189, R190). -/
theorem test_trap :
    (after (.trap yes false) (issuing false (fun g => { g with trapvec := 0x2000 }))).map (fun g => (g.paths.map Path.pc, g.g.getD 61 0, g.trapcause, g.inHandler)) =
      some ([0x2000], codeVa, 0xFFFFFFFF00000007, true) := by decide

/-- A step from reset with GMOV G5, 0x50 placed (chapter 19) runs it: G5 is on its way, the path two words on. -/
theorem test_step_runs :
    (match step (State.reset.withFetchWord 64 0x50A802FE00) with
      | .next t => t.work.gangs.map (fun g => (g.2.pend.map Pend.w, g.2.paths.map Path.pc))
      | _ => []) = [([.g 5 0x50], [codeVa + 8])] := by decide

/-! ## States that meet the hypotheses of the statements -/

theorem has {α : Type} {o : Option α} {P : α → Prop} [DecidablePred P] (h : o.any (fun x => decide (P x)) = true) : ∃ x, o = some x ∧ P x := by
  cases o with
  | none => cases h
  | some x => exact ⟨x, rfl, of_decide_eq_true h⟩

/-- The gang, its path and its run at the instruction of `issuing`. -/
def plain : State := issuing false id
def within : State := issuing true id

/-- A uniform instruction with a true prefix, and one with a false one: `UniformArithmetic`, `UniformPredicates`, `PredicateLogic`, `LaneUniformMoves`,
`SpecialRegisterReads`, `FalsePrefixHasNoEffect`, and with them every statement about `s.iss = some x` and `x.qp p = true`. -/
theorem test_witness_uniform : ∃ x, plain.iss = some x ∧ x.qp yes = true ∧ x.qp no = false ∧ (Instr.gadd no (.g 0) (.g 1) (.g 2)).shape.any (fun f => !f.lane) = true :=
  has (by decide)

/-- A lane instruction with all its lanes active, and with none: the statements about lanes (`ShortIntegers` to `CrossLane`), `NoActiveLane`, `SfuIssue`. -/
theorem test_witness_lanes : ∃ x, within.iss = some x ∧ x.act yes ≠ 0 ∧ x.act ⟨false, 1⟩ = 0 ∧ x.path.run.isSome = true := has (by decide)

/-- `StepRunsDecoded`: a turn, its gang and path, a word that decodes, one that is unassigned, one with a reserved field; and the page of the word. -/
theorem test_witness_StepRunsDecoded :
    (let at_ := fun (w : Nat) =>
      let s := State.reset.withFetchWord 32 w
      s.clk.turns.head?.bind (fun t => (s.gang? t.gang).bind (fun g => (g.path? t.lanes).map (fun p => (s, g, p))))
    ((at_ 0xA8047C00).any (fun x => decide (decode (x.1.fetchWords x.2.1 (x.1.ctxOf x.2.1) x.2.2.pc 3).1 = .ok (.gmov yes (.g 8) .zero, 1)) &&
      (Instr.gmov yes (.g 8) .zero).shape.any (fun f => f.cause x.2.1.core.isSome x.2.1.rows == none && !f.mem) &&
      x.1.runbAwaits x.2.1 x.2.2 (.gmov yes (.g 8) .zero) == none && ptrOk codeVa &&
      (x.1.lookup x.2.1.place x.2.1.die 0 (pageOf (ptrVa codeVa))).1.any (fun e => leafCause .exec e.leaf == none && leafPeer e.leaf == 0 &&
        x.1.placeOf 0 e.leaf e.size (ptrVa codeVa) == some (4 * 0x4000) && paOk (leafAddr e.leaf e.size (ptrVa codeVa)))) &&
    (at_ 0).any (fun x => decide (decode (x.1.fetchWords x.2.1 (x.1.ctxOf x.2.1) x.2.2.pc 3).1 = .error .illenc)) &&
    (at_ 0x02000001).any (fun x => decide (decode (x.1.fetchWords x.2.1 (x.1.ctxOf x.2.1) x.2.2.pc 3).1 = .error .rsvfield)))) = true := by decide

/-- Reset is a canonical state (`ResetState`). -/
theorem test_reset_canonical : State.reset.canonical = true := by decide

/-- `StepKeepsMemoryWf`, `DecodeSound`, `EncodeDecode`. -/
theorem test_witness_memory_decode : Memory.wf State.reset.mem.bytes = true ∧ (∃ t, step State.reset = .next t) ∧ decode [0x02000000, 7] = .ok (.nop yes, 1) ∧
    (Instr.nop yes).wf = true := ⟨by decide, ⟨_, rfl⟩, by decide, by decide⟩

/-- A result of position `pos` of run `run`, due at `land`, of these lanes, at this address. -/
def result (land pos run : Nat) (fixed : Bool) (lanes : Mask) (addr : DWord) : Pend := ⟨land, pos, run, run, fixed, lanes, addr, .general, .g 1 1⟩

/-- `ResultOrder`: results for each clause, with the clks, positions and lane counts where clauses meet. -/
theorem test_witness_ResultOrder :
    (result 5 0 0 true 1 0).seen 5 0 0 1 = true ∧ (result 6 0 0 true 1 0).seen 5 0 0 1 = false ∧ (result 9 4 2 true 1 0).seen 5 2 4 1 = true ∧
    (result 5 4 3 true 1 0).seen 5 2 0 1 = true ∧ (result 5 4 3 true 1 0).seen 5 2 0 2 = false ∧ (result 4 4 3 true 1 0).seen 5 2 0 2 = true ∧
    (result 4 0 0 true 1 0).before (result 5 0 0 false 1 0) = true ∧ (result 5 0 0 false 1 0).before (result 5 0 0 true 1 0) = true ∧
    (result 5 1 2 true 1 0).before (result 5 2 2 true 1 0) = true ∧ (result 5 0 0 true 1 0).before (result 5 0 0 true 6 0) = true ∧
    (result 5 0 0 true 1 8).before (result 5 0 0 true 2 4) = true := by decide

/-- `LandingKeepsReads`, `ReadersSeeLastLanded`: a gang with a result on its way. -/
theorem test_witness_reads : (2 : Nat) ≤ 3 ∧ 1 < (codeGang 0 false).g.length ∧
    ({ codeGang 0 false with pend := [result 2 0 0 true 1 0] }.view 3 0 0 1).g.getD 1 0 = 1 := by decide

/-- `SpecialRegisterWrites`: a value that TRAPVEC takes, at the greatest multiple of 4 below 2^57, and two that it does not. -/
theorem test_witness_SpecialRegisterWrites : ∃ x, (issuing false (regs [0x01FFFFFFFFFFFFFC, 0x0200000000000000, 2] [] [])).iss = some x ∧ x.qp yes = true ∧
    ((x.u (.g 0)).extractLsb' 57 7 = 0 ∧ (x.u (.g 0)).extractLsb' 0 2 = 0) ∧ (x.u (.g 1)).extractLsb' 57 7 ≠ 0 ∧ (x.u (.g 2)).extractLsb' 0 2 ≠ 0 :=
  has (by decide)

/-- `BitFields`: both widths, the field at the end of the word and the empty one. -/
theorem test_witness_BitFields : (32 = 32 ∨ 32 = 64) ∧ (0xFFFFFFFF : DWord).toNat < 2 ^ 32 ∧ ((0x011F : Word).extractLsb' 0 8).toNat = 31 ∧
    ((0x0120 : Word).extractLsb' 0 8).toNat = 32 ∧ (32 : Nat) ≤ 32 := by decide

/-- `FloatLaws`: the greatest finite number, infinities of both signs, a quiet and a signalling NaN, a zero. -/
theorem test_witness_FloatLaws : Fmt.f32 ∈ [Fmt.f32, Fmt.f64, Fmt.bf16, Fmt.f16] ∧ 0xFFFFFFFF < 2 ^ Fmt.f32.w ∧ Fmt.f32.mag 0x7F7FFFFF = Fmt.f32.maxFin ∧
    Fmt.f32.mag 0x7F800000 = Fmt.f32.maxFin + 1 ∧ Fmt.f32.maxFin + 1 < Fmt.f32.mag 0x7F800001 ∧ Fmt.f32.mag 0xFF800000 = Fmt.f32.maxFin + 1 ∧
    Fmt.f32.neg 0x7F800000 ≠ Fmt.f32.neg 0xFF800000 ∧ Fmt.f32.mag 0x80000000 = 0 :=
  ⟨.head _, by decide⟩

/-- `Conversions`, `Blocks`: well-formed forms with and without a second source. -/
theorem test_witness_Conversions : (∃ x, within.iss = some x ∧ x.act yes ≠ 0) ∧ (Instr.cvt yes .i8 .f32 .rne false true (.v 5) (.v 0) none).wf = true ∧
    (Instr.cvt yes .bf16x2 .f32 .rne false false (.v 5) (.v 0) (some (.v 1))).wf = true ∧
    (none : Option LSrc).isSome = (QTy.i8 == .e2m1) ∧ (some (LSrc.v 4)).isSome = (QTy.e2m1 == .e2m1) := ⟨has (by decide), by decide⟩

/-- `CrossLane`: some lane is active, so the tree has a value. -/
theorem test_witness_CrossLane : (0xFFFFFFFF : Mask) ≠ 0 ∧
    (treeReduce (reduxOp .add .n32) ((List.range 32).map (fun l => if (5 : Mask).has l then some (7, false, false) else none))) = some (14, false, false) := by
  decide

/-- `SfuResult`: a queue whose second operation is due and whose first is not, and one of which none is. -/
theorem test_witness_SfuResult :
    let o := fun (due : Nat) => (⟨1, 0, due, .recip32, .v 5, 1, [0x3F800000], 0, codeVa, 0, (0, 0), .general⟩ : SfuOp)
    let s := fun (now : Nat) => { plain with clk := { plain.clk with now := now }, work := { plain.work with sfu := [(0, [o 9, o 8])] } }
    mget (s 8).clk.subj.a (s 8).work.sfu = some ([o 9] ++ o 8 :: []) ∧ (∀ y ∈ [o 9], (s 8).clk.now < y.due) ∧ (o 8).due ≤ (s 8).clk.now ∧
    mget (s 7).clk.subj.a (s 7).work.sfu = some ([o 9] ++ o 8 :: []) ∧ (s 7).clk.now < (o 8).due := by decide

/-- `Branches`: P1 true in no lane of the path, P2 in some, P3 in all. `ExitEndsLanes`, `TrapInstructions`: the gang, in and out of a handler. -/
theorem test_witness_Branches : ∃ x, (issuing false (regs [] [] [0, 0, 2, 0xFFFFFFFF])).iss = some x ∧ x.qp yes = true ∧ x.path.lanes &&& x.pmask 1 = 0 ∧
    (x.path.lanes &&& x.pmask 2 ≠ 0 ∧ x.path.lanes &&& x.pmask 2 ≠ x.path.lanes) ∧ x.path.lanes &&& x.pmask 3 = x.path.lanes := has (by decide)

theorem test_witness_TrapInstructions : (∃ x, plain.iss = some x ∧ x.qp yes = true ∧ x.g.inHandler = false ∧ (plain.gang? x.k).isSome = true) ∧
    ∃ x, (issuing false (fun g => { g with inHandler := true })).iss = some x ∧ x.qp yes = true ∧ x.g.inHandler = true := ⟨has (by decide), has (by decide)⟩

/-- `LaneBranches`: inside a run; a branch of some lanes, of all, of none. -/
theorem test_witness_LaneBranches : (∃ x, within.iss = some x ∧ x.path.run.isSome = true) ∧
    let y : Run := ⟨3, 0, 24, 0, 8, 0, 0, [(5, codeVa)], 0, none, false, 0⟩
    y.branch = [(5, codeVa)] ∧ y.exits = 0 ∧ (5 : Mask) &&& ~~~(7 : Mask) = 0 ∧ { y with branch := [] }.branch = [] := ⟨has (by decide), by decide⟩

/-- `RunEnd`: inside a run and outside, a range of 8 that ends at V111 and one that ends behind it. -/
theorem test_witness_RunEnd :
    (∃ x, within.iss = some x ∧ x.path.run.any (fun r => !r.closes && r.regroup == none) = true ∧ (within.gang? x.k).isSome = true) ∧
    (∃ x, plain.iss = some x ∧ x.path.run = none) ∧ ((8 : BitVec 4).toNat ≤ 8 ∧ (104 : BitVec 7).toNat + (8 : BitVec 4).toNat ≤ 112) ∧
    ¬ ((105 : BitVec 7).toNat + (8 : BitVec 4).toNat ≤ 112) := ⟨has (by decide), has (by decide), by decide⟩

/-- `RunBegin`: a run of NOP and RUNE behind the header, one whose word decodes to nothing, headers of 0 and 25 instructions. -/
theorem test_witness_RunBegin :
    let at_ := fun (w : List Byte) => ((State.reset.placeWord ([0, 0, 0x21, 0x80] ++ w))).withCur 2 0xFFFFFFFF codeVa 1 0
    let scan := fun (w : List Byte) => (at_ w).iss.map (fun x => match (at_ w).scanRun x.g x.ctx 1 0 0 2 0 (x.pc + 4) with
      | .ok => 0
      | .bad c _ => c
      | .fetch _ _ _ => 0xFFFF)
    scan [0, 0, 0, 2, 0, 0, 0, 0x84] = some 0 ∧ scan [0, 0, 0, 0] = some 1 ∧ (at_ []).prot? 1 = none ∧ (0 < 1 ∧ 1 ≤ 24 ∧ ¬ 25 ≤ 24) := by decide

/-- `PathsWait`: counters at their thresholds and one above, a fence that is done and one that is not, no task of the gang and one. -/
theorem test_witness_PathsWait :
    let busy := issuing false (fun g => { g with ops := [⟨9, 0, false⟩], writes := [⟨8, 8, false, 0, false⟩] })
    (∃ x, busy.iss = some x ∧ x.qp yes = true ∧ x.g.count 0 = 1 ∧ x.g.count 0 ≤ (1 : BitVec 4).toNat ∧ ¬ x.g.count 0 ≤ (0 : BitVec 4).toNat ∧
      x.g.writes.all (fun w => w.acked) = false ∧ busy.prot? x.g.team = none) ∧ ∃ x, plain.iss = some x ∧ plain.tasksDone x.k x.g = true ∧ x.g.writes = [] :=
  ⟨has (by decide), has (by decide)⟩

/-- `TrapTaken`: a trap that is delivered, one that is not for want of TRAPVEC, one inside a handler. -/
theorem test_witness_TrapTaken :
    let s := fun (h : Bool) => issuing false (fun g => { g with trapvec := 0x2000, inHandler := h })
    let vec := fun (s : State) (g : Gang) => (g.view s.clk.now 0 0 0xFFFFFFFF).trapvec
    (∃ g, (s false).gang? 2 = some g ∧ vec (s false) g ≠ 0 ∧ g.inHandler = false ∧ (s false).rivalOf g = none) ∧
    (∃ g, plain.gang? 2 = some g ∧ plain.rivalOf g = none ∧ vec plain g = 0 ∧ 7 < 256) ∧
    ∃ g, (s true).gang? 2 = some g ∧ (s true).rivalOf g = none ∧ g.inHandler = true := ⟨has (by decide), has (by decide), has (by decide)⟩

/-- `TrapEntry`, `TrapReturn`: lane 0 has trapped, lanes 1 and 2 stood elsewhere. -/
theorem test_witness_TrapReturn :
    ∃ u, ((issuing false (fun g => { g with trapLanes := 1, saved := [(6, 0x40)], inHandler := true })).gang? 2).map (fun g => g.settle 1) = some u ∧
      7 < 2 ^ 16 ∧ 62 ≤ u.g.length ∧ u.live.has 0 = true ∧ u.live.has 2 = true ∧ u.trapLanes.has 0 = true ∧ u.saved.all (fun y => !y.1.has 0) = true ∧
      u.saved.any (fun y => y.1.has 2) = true := has (by decide)

/-- `MemoryRequests`, `ScratchpadRequests`, `MulticastsAndCopies` (its first part): active lanes, a pointer with bits [59:57] 0 and one without, no sample, a selection. -/
theorem test_witness_MemoryRequests :
    ∃ x, (issuing true (regs [0x01FFFFFFFFFFFFFF, 0x0200000000000000, 5] [] [])).iss = some x ∧ x.act yes ≠ 0 ∧ x.act ⟨false, 1⟩ = 0 ∧ x.qp yes = true ∧
      mget x.ctx plain.adm.samples = none ∧ ptrOk (x.u (.g 0)) = true ∧ ptrOk (x.u (.g 1)) = false ∧ (x.g.g.getD 2 0).toNat % 65536 ≠ 0 ∧
      (x.g.g.getD 3 0).toNat % 65536 = 0 ∧ plain.rivalOf x.g = none := has (by decide)

/-- A request of the gang with one part, in a state, of a kind, with the subject of its event. -/
def asking (k : RKind) (st : PState) (lanes : Mask) (accs : List Acc) (spad : Bool) : State :=
  let part : Part := { Part.new 0x10000 accs false with st := st, home := some (.slice 0), loc := 0x10000 / 64, leaf := codeLeaf }
  let q := fun (x : Iss) => { x.req k 0x10000 [] lanes 4 (if k == .ld || k == .lds then 0 else 1) with
    dest := .v 5 false, data := List.replicate 32 7, parts := [if spad then .pad accs 0 else part] }
  ((plain.iss.map (fun x => plain.setReq 9 (q x))).getD plain).modGang 2 (fun g => { g with ops := [⟨9, 0, false⟩] })

def at9 (s : State) (now : Nat) : State := { s with clk := { s.clk with subj := ⟨9, 0, 0, 0⟩, now := now } }

/-- `HomeAccepts`: a store, a load and an atomic that have reached their home, and that the home performs. -/
theorem test_witness_HomeAccepts :
    let acc : Acc := ⟨0, 0x10004, 4, 0, 0⟩
    let good := fun (k : RKind) => let s := at9 (asking k .flying 1 [acc] false) 50
      ((s.req? 9).bind (fun q => (q.parts[0]?).bind (fun p => (s.gang? q.gang).map (fun g => (q, p, g))))).any (fun x =>
        let u := s.arrUse (bankArr 0 x.2.1.loc)
        x.1.kind == k && x.2.1.home == some (.slice 0) && x.2.1.st == .flying && !u.2.portDown (.slice 0) && u.1 == 50 && decide (mgetD 0 (Home.slice 0).queue s.mem.busy ≤ 50) &&
        s.homeDie (.slice 0) == x.2.2.die && s.sessOf x.2.2 == none && u.2.earlier 9 x.1 x.2.1 (leafTso x.2.1.leaf) == none && !leafTagck x.2.1.leaf && !x.2.1.spec &&
        s.rivalOf x.2.2 == none && s.flipsOf x.2.1.loc == [] && !poisoned (s.descOf x.2.1.loc) && Memory.wf s.mem.bytes && !windowZero (x.2.1.loc * 64) && x.2.1.accs == [acc] &&
        (atomNew .add false 32 0 7 0).isSome)
    good .st = true ∧ good .ld = true ∧ good .atom = true := by decide

/-- `Answers`: a load and a store of one lane whose one part has been accepted, with its event's subject. -/
theorem test_witness_Answers :
    let acc : Acc := ⟨0, 0x10004, 4, 0, 0⟩
    let good := fun (k : RKind) => let s := at9 (asking k .accepted 1 [acc] false) 50
      (s.req? 9).any (fun q => (s.gang? q.gang).isSome && q.kind == k && q.parts.map (fun p => (p.st, p.home, p.line)) == [(.accepted, some (.slice 0), none)] && q.sample == none &&
        (s.gang? q.gang).any (fun g => s.prot? g.team == none) && Map.wf s.mem.reqs && decide (s.clk.subj = ⟨9, 0, 0, 0⟩) && q.lanes == 1)
    good .ld = true ∧ good .st = true := by decide

/-- `RequestsChangeNothingElse`: a store that a protected team holds. -/
theorem test_witness_RequestsChangeNothingElse :
    let s := asking .st .idle 1 [⟨0, 0x10004, 4, 0, 0⟩] false
    ∃ q, (s.req? 9).map (fun q => { q with grp := some (1, 0) }) = some q ∧ q.sample = none ∧ (s.gang? q.gang).isSome = true ∧ q.parts ≠ [] ∧ q.kind.writes = true ∧
      q.grp = some (1, 0) ∧ s.chainBehind q.gang (q.parts.map Part.blk) = none := has (by decide)

/-- `ScratchpadPerforms`: a store of one lane below SP that is due; a flume of two slots of 64 bytes whose first is filled, with a path that waits to acquire it; a barrier object. -/
theorem test_witness_ScratchpadPerforms :
    let due := fun (k : RKind) => let s := at9 (asking k .idle 1 [⟨0, 0x100, 4, 0, 0⟩] true) 50
      (s.req? 9).any (fun q => (s.gang? q.gang).any (fun g => (s.team? g.team).any (fun t => q.kind == k && Memory.wf t.sp && decide ((s.arrUse (spArr g.cluster)).1 ≤ 50) &&
        s.padDue g.cluster == [9] && !s.spWaits g.team q.padBlks.1 q.padBlks.2 && decide (0x100 + 4 ≤ t.spSize) && t.spDesc == [])))
    let block : List Byte := [2, 0, 0, 0, 64, 0, 0, 0, 0, 0, 0, 0, 0, 0, 0, 0, 0xFE, 0xFF]
    let s := (issuing false (fun g => { g with paths := g.paths.map (fun p => { p with wait := .flacq 0x40 (.g 5) 0 }) })).modTeam 1 (fun t => { t with sp := writeBytes [] 0x40 block })
    (due .sts = true ∧ due .lds = true ∧ due .atoms = true) ∧ (∃ t, s.team? 1 = some t ∧ s.acquirer t = some (2, 0xFFFFFFFF) ∧ (t.flume 0x40).toOption = some (2, 64) ∧
      t.filledSlot 0x40 2 = some 0) ∧ (0x80 % 8 = 0 ∧ 0x80 + 8 ≤ 65536 ∧ 2 ^ 63 - 1 < 2 ^ 63 ∧ 2 ^ 63 ≤ 2 ^ 63 ∧ 2 ^ 63 % 2 ^ 40 = 0 ∧ (2 ^ 63 + 1) % 2 ^ 40 ≠ 0) :=
  ⟨by decide, has (by decide), by decide⟩

/-- `IntegerConversions`, `AtomicValues`: widths 1 and 64. -/
theorem test_witness_widths : (0 < 1 ∧ 1 ≤ 64) ∧ 0 < 64 ∧ 64 ≤ 64 ∧ ((0x80 : BitVec 8).toInt < (0 : BitVec 8).toInt ∧ ¬ (0x80 : BitVec 8).toNat < (0 : BitVec 8).toNat) := by decide

/-- `CallsAndWakes`: queue 0 of 64 entries, which takes the indices 1 to 64 ahead and not 65; with all 64 unread, one that is full; a connection of context 0 that is
up; a service that exists and one that does not. -/
theorem test_witness_CallsAndWakes :
    let full := plain.modQueue 0 (fun q => { q with widx := 64 })
    let proper := fun (q : Queue) (v : Word) => q.ctx = 0 ∧ q.stopped = false ∧ q.dying = false ∧ (v - q.widx).toNat ≠ 0 ∧ (v - q.widx).toNat ≤ q.size
    (∃ x, plain.iss = some x ∧ x.qp yes = true ∧ plain.sessOf x.g = none ∧ plain.rivalOf x.g = none ∧ x.ctx = 0) ∧
    (∃ q, plain.queue? 0 = some q ∧ proper q 1 ∧ (1 - q.ridx).toNat ≤ q.size ∧ proper q 64 ∧ (64 - q.ridx).toNat ≤ q.size ∧ ¬ proper q 65 ∧ ¬ proper q 0) ∧
    (∃ q, full.queue? 0 = some q ∧ proper q 65 ∧ q.size < (65 - q.ridx).toNat) ∧ fwService 0x010 0 0 = some .mapins ∧ fwService 0x023 0 0 = none ∧
    (let c : Conn := ⟨0, 0, 0, true, .rod, true⟩; mget 3 [(3, c)] = some c ∧ c.up = true) :=
  ⟨has (by decide), has (by decide), has (by decide), by decide⟩

/-- `MulticastsAndCopies`: a copy of a gang that starts now; an entry that has started and is not done. -/
theorem test_witness_MulticastsAndCopies :
    let o : CopyOp := ⟨2, 9, false, 0x10040, 0x10000, 64, codeVa, 0, some 50, none, (0, 0), [], ⟨codeVa, 0, 0, 0, 0, 0, 0, none, none⟩⟩
    let s := (plain.setCopies 0 [o])
    (s.copyQueue 0).find? (fun o => o.id == 9) = some o ∧ o.start = some 50 := by decide

/-- A queue entry with these bytes that has started, as the command that its subject names. -/
def command (bs : List Byte) (c d : Nat) : State :=
  let s := State.reset.modQueue 0 (fun q => { q with entries := [⟨0, bs ++ List.replicate (64 - bs.length) 0, some 0, false, false, 0, 0⟩] })
  { s with clk := { s.clk with subj := ⟨0, 0, c, d⟩ } }

/-- `Commands`: a COPY of control block 0x2000 whose fields keep their ranges and one with a misaligned address; an empty slot to read; a signal address in the management window. -/
theorem test_witness_Commands :
    let s := command [2, 2, 0, 0, 0, 0, 0, 0, 0, 0x30, 0, 0, 0, 0, 0, 0, 0, 0x20] 0 0
    (∃ y, s.entry? 0 0 = some y ∧ y.2.done = false ∧ y.2.started ≠ none ∧ zeroAt y.2.bytes 0x18 40 = true ∧ y.2.num 0x10 8 % 64 = 0 ∧ y.2.signals = true ∧ y.2.num 8 8 % 16 = 0 ∧
      (s.gateOne y.1 .write (y.2.addr 8) 16).1 = .ok) ∧
    (∃ y, (command [2, 0, 0, 0, 0, 0, 0, 0, 0, 0, 0, 0, 0, 0, 0, 0, 1] 0 0).entry? 0 0 = some y ∧ y.2.num 0x10 8 % 64 ≠ 0 ∧ y.2.signals = false) ∧
    ∃ q, (State.reset.modQueue 0 (fun q => { q with ridx := 64, widx := 65 })).queue? 0 = some q ∧ q.stopped = false ∧ q.dying = false ∧ q.ridx ≠ q.widx ∧ q.mirror = 0 ∧
      (State.reset.readSlot q).1 = .unwritten := ⟨has (by decide), has (by decide), has (by decide)⟩

/-- `MapsAndManagement`: an entry of context 0 with zero fields, whose record goes to the management window; one that the outside's SUBOP misses. -/
theorem test_witness_MapsAndManagement :
    let s := command ([9, 0] ++ List.replicate 23 0 ++ [0x20]) 0 0
    ∃ y, s.entry? 0 0 = some y ∧ y.2.done = false ∧ y.2.started ≠ none ∧ y.1.ctx = 0 ∧ zeroAt y.2.bytes 0x12 6 = true ∧ zeroAt y.2.bytes 0x2E 18 = true ∧
      (s.gateAll y.1 [(.write, y.2.addr 0x18, 64)]).1 = .ok ∧ y.2.num 0x3C 1 ≤ 63 ∧ (∀ t ∈ s.work.teams, t.2.ctx ≠ 0) := has (by decide)

/-- `Services`: a path that waits for a service with its arguments; arguments at the ends of their ranges. -/
theorem test_witness_Services :
    let s := (issuing false (fun g => { g with paths := g.paths.map (fun p => { p with wait := .fwcall 0x18 [7, 7, 65536, 1] }) }))
    let t := { s with clk := { s.clk with subj := ⟨2, 0, 0, 0⟩ } }
    ∃ y, t.fwArgs 2 = some y ∧ y.2 = [7, 7, 65536, 1] ∧ t.ctxOf y.1 = 0 ∧ 65536 ≤ 65536 ∧ ¬ (8 : Nat) < 8 ∧ mget 0 t.adm.sess = none ∧ mget 0 t.adm.census = none :=
  has (by decide)

/-- `TasksAndFurrows`: a furrow of 16 items with 15 appended, which has room for one and items to take; a task whose SUCC stands in the management window. -/
theorem test_witness_TasksAndFurrows :
    let f : Furrow := ⟨0, 0, 0x2000, 0x3000, 4, 0, 15, 0, 0⟩
    let s := plain.setFurrow f
    (∃ x, s.iss = some x ∧ x.qp yes = true ∧ ptrOk 0x2000 = true ∧ mgetD 0 (workQueue 0 f.die) s.mem.busy ≤ s.clk.now ∧ (match s.furrowRead x.ctx x.g.die 0x2000 with
      | .ok y => decide (y = f)
      | _ => false) = true ∧ f.room = 1 ∧ f.left = 15 ∧ ((s.drainTaken x.k).droughtOf (drKey x.ctx f.group)).report = false) ∧
    ptrOk 0x0200000000002000 = false ∧ (0x2010 : DWord).toNat % 64 ≠ 0 := ⟨has (by decide), by decide⟩

/-- `MatrixEngine`: an engine that is free, one that the team holds, one that another holds; a block that ends at SP and one that does not fit. -/
theorem test_witness_MatrixEngine :
    let held := fun (t : Nat) => plain.setEngine 0 ⟨some t, false, List.replicate 16 ⟨.none, []⟩, [], 0⟩
    ∃ x, plain.iss = some x ∧ x.qp yes = true ∧ (plain.engine x.g.cluster).holder = none ∧ ((held 1).engine x.g.cluster).holder = some x.g.team ∧
      ((held 7).engine x.g.cluster).holder ≠ some x.g.team ∧ plain.prot? x.g.team = none ∧ ((plain.team? x.g.team).map Team.spSize).getD 0 = 65536 ∧ 65472 + 64 ≤ 65536 ∧
      65536 < 65536 + 64 ∧ ((plain.team? x.g.team).map Team.lerr).getD 99 < 16 := has (by decide)

/-- `Tournaments`: an opener without a scope, one with a scope that is open, racing or decided, a rival's team; rows of 16, 32 and 128. -/
theorem test_witness_Tournaments :
    let sc := fun (st : ScState) => (⟨1, 4096, 0, 0, st, 0, none, false, [⟨.barrier, 0, none, [], 0, 0⟩, ⟨.finished, 0, none, [], 0, 0⟩], none⟩ : Scp)
    let open_ := plain.setScope 5 (sc .opened)
    let rival := open_.modTeam 1 (fun t => { t with rival := some (5, 0) })
    (∃ x, plain.iss = some x ∧ x.qp yes = true ∧ (plain.team? x.g.team).any (fun t => t.rival == none && t.spBytes 0 16 == List.replicate 16 0) = true ∧
      plain.scopeOf x.g.team = none ∧ mgetD 0 (workQueue 2 (plain.scopeDie x.g)) plain.mem.busy ≤ plain.clk.now ∧ open_.scopeOf x.g.team = some (5, sc .opened) ∧
      (rival.team? x.g.team).map Team.rival = some (some (5, 0)) ∧ rival.scopeFor x.g = some (5, sc .opened) ∧ open_.roundOver 5 (sc .racing) = true ∧
      ¬ x.g.rows < 128) ∧
    (∃ x, (issuing false (fun g => { g with rows := 16 })).iss = some x ∧ x.g.rows ≤ 16 ∧ x.run = 0) ∧
    (∃ x, (issuing false (fun g => { g with rows := 32 })).iss = some x ∧ 16 < x.g.rows ∧ x.g.rows < 128 ∧
      ((issuing false (fun g => { g with rows := 32 })).claimPlace x.k x.g).isSome = true) := ⟨has (by decide), has (by decide), has (by decide)⟩

/-- `OutsideEvents`: a connection of context 0 that is up and an access to the management window, which the check lets in; a key that binds and one that does not; monitors
at 95 and 105 °C; a gang that is stopped. -/
theorem test_witness_OutsideEvents :
    let s := State.reset
    let c : Conn := ⟨0, 0, 0, true, .rod, true⟩
    ((s.rmaCheck c .write 0x2000 64).1 = .ok ∧ (s.rmaCheck c .write 0x20000 64).1 ≠ .ok ∧ isWindow c.ctx (pageOf (ptrVa 0x2000)) = true ∧ (0x2000 : DWord).toNat % 64 + 64 ≤ 64 ∧
      s.rmaBusy c 0x2000 64 ≤ s.clk.now ∧ s.clk.subj.a ≠ 1 ∧ s.clk.agenda.all (fun y => rmaConn y.ev == none) = true) ∧
    s.keyCtx (List.replicate 32 0) = some 0 ∧ s.keyCtx (List.replicate 32 1) = none ∧ (105 ≤ 105 ∧ 95 ≤ 95 ∧ ¬ 105 ≤ 104) ∧
    (s.clk.now < s.adm.lastSync + 60000000) ∧ ({ s with adm := { s.adm with flash := List.replicate 4 ⟨true, [], true⟩ } } : State).cold.pickSlot 2 3 = none ∧ (codeGang 0 false).stopped = false ∧ ({ codeGang 0 false with stop := .full }).stopped = true := by decide +kernel

/-- `MemorySystemEvents`: a walk of the present generation; a part whose wait has reached its interval and one whose has not; an array that is idle for just as long as it needs; a chained part. -/
theorem test_witness_MemorySystemEvents :
    let w : Walk := ⟨0, 0, 3, true, 0, []⟩
    let s := asking .ld (.cistern 0x0302 7 2) 1 [⟨0, 0x10004, 4, 0, 0⟩] false
    w.gen = s.gen w.die w.ctx ∧ ({ w with gen := 1 }).gen ≠ s.gen w.die w.ctx ∧ (s.req? 9).any (fun q => q.parts.any (fun p => p.st == .cistern 0x0302 7 2)) = true ∧ s.req? 7 = none ∧
    ((State.reset.arrNow 0).st = .active ∧ (State.reset.arrNow 0).last + 1200000 ≤ 1200000 ∧ ¬ (State.reset.arrNow 0).last + 1200000 ≤ 1199999) := by decide

/-- `Scheduling`: a die without candidates; a team that is stopped and may resume; a launch and a chunk to steal. -/
theorem test_witness_Scheduling :
    let stopped := plain.modTeam 1 (fun t => { t with st := .stopped })
    (State.reset.pick 0).isNone = true ∧ State.reset.victim 0 = none ∧ (∃ t, stopped.team? 1 = some t ∧ (t.st = .stopped ∨ t.st = .estivated) ∧ t.saveTill = 0 ∧ t.kill = false ∧
      stopped.rivalMayRun t.rival = true ∧ t.saveTill ≤ stopped.clk.now) ∧ State.reset.keptBlocks 0 = [] ∧ mget 0 State.reset.work.compact = none :=
  ⟨by decide, by decide, has (by decide), by decide, by decide⟩

end Sys2Proof.Tests
end

section
/-! SUPPORT. Reset and the events from outside the module (ports, connections, arriving RMA, links, clocks, module reset, strikes, the debugger): one equation per
event, and the two statements that they settle. -/

namespace Sys2Proof.Machine

/-! ## Reset (R43, R55, R97, R203) -/

/-- A bitmap of `n` ones names every number below `n`. -/
theorem mem_filter_testBit_ones {c n : Nat} (h : c < n) : c ∈ (List.range n).filter (fun i => Nat.testBit (2 ^ n - 1) i) := by
  simp [h]

theorem reset_partClusters {c : Nat} (h : c < 136) : c ∈ State.reset.partClusters 0 := mem_filter_testBit_ones h

theorem reset_partStacks {c : Nat} (h : c < 12) : c ∈ State.reset.partStacks 0 := mem_filter_testBit_ones h

theorem reset_readByte (a : Nat) : readByte State.reset.mem.bytes a = 0 := rfl

/-- Settles O4: each table of the state after reset is read off; the bitmaps of partition 0 are all ones. -/
theorem resetState : Obligations.ResetState := by
  unfold Obligations.ResetState
  refine ⟨⟨rfl, ⟨_, rfl, rfl, rfl, rfl, rfl, rfl, rfl⟩, fun c => reset_partClusters, fun c => reset_partStacks, fun _ => rfl, fun _ => rfl, ?_⟩,
    reset_memory_wf, reset_readByte⟩
  exact ⟨rfl, rfl, rfl, rfl, rfl, rfl⟩

/-! ## Lists and tables -/

/-- A fold keeps what every one of its steps keeps. -/
theorem foldl_keeps {σ α β : Type} (p : σ → β) {f : σ → α → σ} (hf : ∀ s x, p (f s x) = p s) (l : List α) (s : σ) : p (l.foldl f s) = p s := by
  induction l generalizing s with
  | nil => rfl
  | cons x l ih => rw [List.foldl_cons, ih, hf]

theorem foldl_fixed_of_mem {σ α : Type} {f : σ → α → σ} {l : List α} {s : σ} (h : ∀ x ∈ l, f s x = s) : l.foldl f s = s := by
  induction l with
  | nil => rfl
  | cons x l ih =>
    rw [List.foldl_cons, h x List.mem_cons_self]
    exact ih fun y hy => h y (List.mem_cons_of_mem x hy)

theorem map_eq_self_of_mem {α : Type} {f : α → α} {l : List α} (h : ∀ x ∈ l, f x = x) : l.map f = l :=
  (List.map_congr_left h).trans (List.map_id l)

theorem mem_agendaAdd (i : Item) (l : List Item) : i ∈ agendaAdd i l := by
  induction l with
  | nil => exact List.mem_singleton.2 rfl
  | cons j l ih =>
    unfold agendaAdd
    split
    · exact List.mem_cons_self
    · exact List.mem_cons_of_mem _ ih

/-! ## Arriving RMA (R36, R40, R54, R74, R205, R233, R234, R244) -/

theorem spansOf_one_block {a n : Nat} (h0 : 0 < n) (h : a % 64 + n ≤ 64) : spansOf a n = [(a, n)] := by
  have hm : min n (64 - a % 64) = n := by omega
  simp [spansOf, spans, Nat.ne_of_gt h0, hm]

/-- The ports serve an access: there has been no module fatal error, or it goes to the management window. -/
def State.rmaOpen (s : State) (c : Conn) (addr : DWord) : Prop := s.adm.fatal = none ∨ isWindow c.ctx (pageOf (ptrVa addr)) = true

/-- An access that has just arrived, behind no other of its connection. -/
def State.rmaFirst (s : State) (conn : Nat) : Prop :=
  s.clk.subj.a ≠ 1 ∧ ∀ y ∈ s.clk.agenda, rmaConn y.ev = some conn → y.subj.a ≠ 1

/-- Such an access is performed now, in the state that its check leaves. -/
def State.rmaServes (s : State) (conn : Nat) (c : Conn) (addr : DWord) (k : AccKind) (n : Nat) (u : State) : Prop :=
  s.rmaOpen c addr ∧ s.rmaFirst conn ∧ s.rmaCheck c k addr n = (.ok, u) ∧ u.rmaBusy c addr n ≤ u.clk.now

theorem State.rmaOpen_iff (s : State) (c : Conn) (addr : DWord) :
    s.rmaOpen c addr ↔ ¬ (s.adm.fatal.isSome ∧ !isWindow c.ctx (pageOf (ptrVa addr))) := by
  unfold State.rmaOpen
  cases s.adm.fatal <;> simp

theorem State.rmaFirst.no_queue {s : State} {conn : Nat} (h : s.rmaFirst conn) :
    s.clk.agenda.any (fun i => rmaConn i.ev == some conn && i.subj.a == 1 && (s.clk.subj.a != 1 || decide (i.subj.c < s.clk.subj.c))) = false := by
  rw [List.any_eq_false]
  intro y hy hc
  simp only [Bool.and_eq_true, beq_iff_eq] at hc
  exact h.2 y hy hc.1.1 hc.1.2

theorem State.payloadMax_le (s : State) : s.payloadMax ≤ frameMax := by
  unfold State.payloadMax frameMax
  split <;> omega

section
variable {s : State} {conn : Nat} {c : Conn} {k : AccKind} {addr : DWord} {n : Nat} {ev : Instr} {f : Conn → State → State}

theorem State.rma_overFrame (hc : mget conn s.adm.conns = some c) (up : c.up = true) (h : frameMax < n) :
    s.rma conn .write addr n ev f = .next s := by
  simp [State.rma, hc, up, h]

theorem State.rma_overPayload (hc : mget conn s.adm.conns = some c) (up : c.up = true) (h : s.payloadMax < n) (hn : n ≤ frameMax) :
    s.rma conn .write addr n ev f = .next { s with adm := { s.adm with oversize := lmod s.adm.oversize c.port (· + 1) } } := by
  simp [State.rma, hc, up, h, Nat.not_lt.2 hn]

/-- After a module fatal error an access to another page than the management window is denied. -/
theorem State.rma_closed (hc : mget conn s.adm.conns = some c) (up : c.up = true) (fits : k = .write → n ≤ s.payloadMax)
    (hs : ¬ s.rmaOpen c addr) : s.rma conn k addr n ev f = .next (s.reply conn 2 []) := by
  rw [State.rmaOpen_iff, not_not] at hs
  have hp : ¬ (k = .write ∧ s.payloadMax < n) := fun h => absurd (fits h.1) (Nat.not_le.2 h.2)
  have hf : ¬ (k = .write ∧ frameMax < n) := fun h => absurd ((fits h.1).trans s.payloadMax_le) (Nat.not_le.2 h.2)
  simp only [State.rma, hc, up, Bool.not_true, Bool.false_eq_true, if_false, if_neg hf, if_neg hp, if_pos hs]

/-- What an access that has just arrived, behind no other of its connection, comes to: its check and the queues of its homes say. -/
theorem State.rma_first (hc : mget conn s.adm.conns = some c) (up : c.up = true) (fits : k = .write → n ≤ s.payloadMax)
    (ho : s.rmaOpen c addr) (h1 : s.rmaFirst conn) (u : State) :
    (s.rmaCheck c k addr n = (.denied, u) → s.rma conn k addr n ev f = .next (u.reply conn 2 [])) ∧
    (s.rmaCheck c k addr n = (.again, u) → s.rma conn k addr n ev f = .next (u.reply conn 3 [])) ∧
    (∀ t, s.rmaCheck c k addr n = (.later t, u) → s.rma conn k addr n ev f = .next (u.takeFresh.2.sched t ev 1 0 u.clk.fresh)) ∧
    (s.rmaCheck c k addr n = (.ok, u) → u.clk.now < u.rmaBusy c addr n → s.rma conn k addr n ev f =
      .next (u.takeFresh.2.sched (min (u.rmaBusy c addr n) (u.clk.now + u.sluiceOf c.ctx 0)) ev 1 (u.clk.now + u.sluiceOf c.ctx 0) u.clk.fresh)) ∧
    (s.rmaCheck c k addr n = (.ok, u) → u.rmaBusy c addr n ≤ u.clk.now → s.rma conn k addr n ev f = .next (f c u)) := by
  rw [State.rmaOpen_iff] at ho
  have hp : ¬ (k = .write ∧ s.payloadMax < n) := fun h => absurd (fits h.1) (Nat.not_le.2 h.2)
  have hf : ¬ (k = .write ∧ frameMax < n) := fun h => absurd ((fits h.1).trans s.payloadMax_le) (Nat.not_le.2 h.2)
  have hq := h1.no_queue
  have ha := h1.1
  simp only [State.rma, hc, up, Bool.not_true, Bool.false_eq_true, if_false, if_neg hf, if_neg hp, if_neg ho, hq, if_neg ha, ne_eq,
    not_true_eq_false, false_and]
  refine ⟨fun e => ?_, fun e => ?_, fun t e => ?_, fun e hb => ?_, fun e hb => ?_⟩ <;> rw [e]
  · rfl
  · simp only [if_pos hb]; rfl
  · simp only [if_neg (Nat.not_lt.2 hb)]

theorem State.rma_serves (hc : mget conn s.adm.conns = some c) (up : c.up = true) (fits : k = .write → n ≤ s.payloadMax) {u : State}
    (h : s.rmaServes conn c addr k n u) : s.rma conn k addr n ev f = .next (f c u) :=
  (State.rma_first hc up fits h.1 h.2.1 u).2.2.2.2 h.2.2.1 h.2.2.2

/-- What every kind of arriving access has in common, in the form in which `OutsideEvents` says it. -/
theorem State.rma_answers (hc : mget conn s.adm.conns = some c) (up : c.up = true) (fits : k = .write → n ≤ s.payloadMax)
    (he : exec ev s = s.rma conn k addr n ev f) :
    (s.rmaOpen c addr → s.rmaFirst conn → ∀ u,
      (s.rmaCheck c k addr n = (.denied, u) → exec ev s = .next (u.reply conn 2 [])) ∧
      (s.rmaCheck c k addr n = (.again, u) → exec ev s = .next (u.reply conn 3 [])) ∧
      (∀ t, s.rmaCheck c k addr n = (.later t, u) → exec ev s = .next (u.takeFresh.2.sched t ev 1 0 u.clk.fresh)) ∧
      (s.rmaCheck c k addr n = (.ok, u) → u.clk.now < u.rmaBusy c addr n → exec ev s =
        .next (u.takeFresh.2.sched (min (u.rmaBusy c addr n) (u.clk.now + u.sluiceOf c.ctx 0)) ev 1 (u.clk.now + u.sluiceOf c.ctx 0) u.clk.fresh))) ∧
    (¬ s.rmaOpen c addr → exec ev s = .next (s.reply conn 2 [])) := by
  rw [he]
  refine ⟨fun ho h1 u => ?_, State.rma_closed hc up fits⟩
  obtain ⟨denied, again, later, waits, _⟩ := State.rma_first (ev := ev) (f := f) hc up fits ho h1 u
  exact ⟨denied, again, later, waits⟩

end

section
variable {s u : State} {conn size a : Nat} {c : Conn} {addr leaf : DWord}

/-- A write within one block, which the check lets in: its answer brings the GWCT of the block (R233). -/
theorem exec_rmaWrite_one_block {bs : List Byte} (hc : mget conn s.adm.conns = some c) (up : c.up = true) (h0 : 0 < bs.length)
    (hl : addr.toNat % 64 + bs.length ≤ 64) (hs : s.rmaServes conn c addr .write bs.length u) (ha : u.access c.ctx .write addr = .ok (leaf, size, a))
    (ht : bs.length = 64 ∨ u.tagBad leaf addr a = false) :
    exec (.rmaWrite conn addr bs) s = .next ((((u.writeAt a (bs.map some)).setTag (a / 64) (if leafTagck leaf then ptrTag addr else 0)).sliceTouch (a / 64)
      c.ctx).reply conn 0 (toBytes 8 (max u.clk.now (u.cmdGwct leaf a)))) := by
  have fits : bs.length ≤ s.payloadMax := by unfold State.payloadMax; split <;> omega
  have hput : u.rmaPut c.ctx addr bs =
      (u.cmdGwct leaf a, ((u.writeAt a (bs.map some)).setTag (a / 64) (if leafTagck leaf then ptrTag addr else 0)).sliceTouch (a / 64) c.ctx) := by
    have : ¬ (bs.length ≠ 64 ∧ u.tagBad leaf addr a = true) := by rintro ⟨h, h'⟩; simp [h, h'] at ht
    simp only [State.rmaPut, ha, if_neg this]
  refine (State.rma_serves hc up (fun _ => fits) hs).trans ?_
  simp only [spansOf_one_block h0 hl, List.foldl_cons, List.foldl_nil, BitVec.ofNat_toNat, BitVec.setWidth_eq, List.take_length, hput]

theorem exec_rmaRead_one_block {len : Nat} (hc : mget conn s.adm.conns = some c) (up : c.up = true) (h0 : 0 < len)
    (hl : addr.toNat % 64 + len ≤ 64) (hs : s.rmaServes conn c addr .read len u) :
    exec (.rmaRead conn addr len) s = .next ((u.rmaBlock conn c.ctx addr len).2.reply conn 0 (u.rmaBlock conn c.ctx addr len).1) := by
  refine (State.rma_serves (k := .read) hc up nofun hs).trans ?_
  simp only [spansOf_one_block h0 hl, List.foldl_cons, List.foldl_nil, BitVec.ofNat_toNat, BitVec.setWidth_eq, List.nil_append]

variable {op : AOp} {sz : SZ} {v w : DWord}

theorem exec_rmaAtomic_misaligned (hc : mget conn s.adm.conns = some c) (up : c.up = true) (h : addr.toNat % sz.bytes ≠ 0) :
    exec (.rmaAtomic conn addr op sz v w) s = .next (s.reply conn 2 []) := by
  change execRmaAtomic conn addr op sz v w s = _
  simp only [execRmaAtomic, if_pos h, hc, up, if_true]

/-- An atomic that is aligned is an arriving access like the others. -/
theorem exec_rmaAtomic_aligned (h : addr.toNat % sz.bytes = 0) :
    ∃ f, exec (.rmaAtomic conn addr op sz v w) s = s.rma conn .atomic addr sz.bytes (.rmaAtomic conn addr op sz v w) f :=
  ⟨_, if_neg (not_not.2 h)⟩

/-- An aligned atomic on a clean block of a page without tags, which the check lets in: the answer brings the old value. -/
theorem exec_rmaAtomic_clean {block : List Byte} {t : State} (hc : mget conn s.adm.conns = some c) (up : c.up = true)
    (h : addr.toNat % sz.bytes = 0) (hs : s.rmaServes conn c addr .atomic sz.bytes u) (ha : u.access c.ctx .atomic addr = .ok (leaf, size, a))
    (ht : leafTagck leaf = false) (hr : u.readHome (a / 64) c.ctx none = (block, false, none, t)) :
    (atomNew op sz.cmpSigned (8 * sz.bytes) (ofBytes ((block.drop (a % 64)).take sz.bytes)) v.toNat w.toNat = none →
      exec (.rmaAtomic conn addr op sz v w) s = .next (t.reply conn 0 ((block.drop (a % 64)).take sz.bytes ++ toBytes 8 u.clk.now))) ∧
    ∀ n, atomNew op sz.cmpSigned (8 * sz.bytes) (ofBytes ((block.drop (a % 64)).take sz.bytes)) v.toNat w.toNat = some n →
      exec (.rmaAtomic conn addr op sz v w) s = .next ((((t.writeAt a ((toBytes sz.bytes n).map some)).setTag (a / 64) 0).sliceTouch (a / 64) c.ctx).reply
        conn 0 ((block.drop (a % 64)).take sz.bytes ++ toBytes 8 (u.cmdGwct leaf a))) := by
  have he : exec (.rmaAtomic conn addr op sz v w) s = _ := (if_neg (not_not.2 h)).trans (State.rma_serves (k := .atomic) hc up nofun hs)
  have hb : u.tagBad leaf addr a = false := by simp [State.tagBad, ht]
  constructor
  · intro hn
    rw [he]
    simp only [ha, hb, ht, hr, hn, Bool.false_eq_true, if_false]
  · intro n hn
    rw [he]
    simp only [ha, hb, ht, hr, hn, Bool.false_eq_true, if_false]

end

/-! ## Connections, links and monitors (R36, R42, R50 to R53, R103) -/

theorem exec_connectionAuth_bound {s : State} {key : List Byte} {ctx : Nat} (conn : Nat) (port : Fin 32) (h : s.keyCtx key = some ctx) :
    ∃ mode, exec (.connectionAuth conn port key) s = .next { s.peersGone conn with
      clk := { (s.peersGone conn).clk with freeCnt := (s.peersGone conn).clk.freeCnt + 1 }
      adm := { (s.peersGone conn).adm with
        conns := mput conn ⟨port.val, ctx, ((mget conn s.adm.conns).map (fun c => c.epoch + 1)).getD 0, true, mode, s.adm.sealedOk⟩ (s.peersGone conn).adm.conns } } := by
  refine ⟨deliveryOf (s.peersGone conn).drawFree.1, ?_⟩
  change execConnectionAuth conn port key s = _
  simp only [execConnectionAuth, h]
  rfl

theorem exec_connectionAuth_unknown {s : State} {key : List Byte} (conn : Nat) (port : Fin 32) (h : s.keyCtx key = none) :
    exec (.connectionAuth conn port key) s = .next { s.peersGone conn with
      adm := { (s.peersGone conn).adm with
        conns := mdel conn (s.peersGone conn).adm.conns
        mgmtEvents := (s.peersGone conn).adm.mgmtEvents ++ [((s.peersGone conn).clk.now, 3)] } } := by
  change execConnectionAuth conn port key s = _
  simp only [execConnectionAuth, h]
  rfl

/-- A peer entry that goes DOWN: its lines leave the L1 caches and the die slices, the requests that wait for it fail. -/
theorem exec_peerDown {s : State} {ctx peer : Nat} {p : Peer} (h : mget (ctx * 4096 + peer) s.adm.peers = some p) :
    exec (.peerDown ctx peer) s = .next (({ s with
      adm := { s.adm with peers := mput (ctx * 4096 + peer) { p with up := false } s.adm.peers }
      mem := { s.mem with
        l1 := s.mem.l1.filter (fun l => decide (¬ (l.loc * 64 / 2 ^ 64 = p.conn + 1 ∧ l.tenant = ctx)))
        slices := s.mem.slices.filter (fun l => decide (¬ (l.loc * 64 / 2 ^ 64 = p.conn + 1 ∧ l.tenant = ctx))) } } : State).failPeer ctx p.conn) := by
  have e : ∀ a b c d : Nat, (!(a == b && c == d)) = decide (¬ (a = b ∧ c = d)) := fun a b c d => by
    simp only [decide_not, Bool.decide_and, beq_eq_decide]
  change Host.Outcome.next (s.peerGone ctx peer) = _
  simp only [State.peerGone, h, e]

theorem Monitor.bad_iff (m : Monitor) : m.bad = true ↔ 105 ≤ m.temp ∨ 50 < m.volt.natAbs := by
  simp only [Monitor.bad, Bool.or_eq_true, decide_eq_true_eq]

theorem exec_monitorFatal_bad {s : State} {die : Fin 4} (h : (s.monitor die.val).bad = true) :
    exec (.monitorFatal die) s = .next (s.fatalError (16 + die.val)) := congrArg _ (if_pos h)

theorem exec_monitorFatal_fine {s : State} {die : Fin 4} (h : ¬ (s.monitor die.val).bad = true) : exec (.monitorFatal die) s = .next s :=
  congrArg _ (if_neg h)

/-! ## Clocks of the dies (R51, R52) -/

@[simp] theorem State.setMhz_adm (s : State) (die n : Nat) : (s.setMhz die n).adm = { s.adm with mhz := lset s.adm.mhz die n } := by
  refine foldl_keeps State.adm (fun s q => ?_) _ _
  split
  · exact foldl_keeps State.adm (f := fun s (o : SfuOp) => s.sched o.due .sfuResult q.1) (fun _ _ => rfl) q.2 s
  · rfl

theorem exec_tempThrottle_cool {s : State} {die : Fin 4} (h : (s.monitor die.val).temp < 95) : exec (.tempThrottle die) s = .next s := by
  change execTempThrottle die s = _
  simp only [execTempThrottle, Monitor.hot, decide_eq_false (not_le.2 h), Bool.not_false, if_true]

theorem exec_tempThrottle_hot {s : State} {die : Fin 4} (h : 95 ≤ (s.monitor die.val).temp) :
    exec (.tempThrottle die) s = .next (
      let slow := s.setMhz die.val (max 600 (s.adm.mhz.getD die.val 1200 - 50))
      if slow.has (.tempThrottle die) 0 then slow else slow.sched (s.clk.now + 1200000) (.tempThrottle die) 0) := by
  change execTempThrottle die s = _
  simp only [execTempThrottle, Monitor.hot, decide_eq_true h, Bool.not_true, Bool.false_eq_true, if_false]

/-- The power loop can move this die's clock, down or up (R51, R52). -/
def State.mhzCan (s : State) (lower : Bool) (d : Nat) : Prop :=
  d < 4 ∧ if lower then 650 ≤ s.adm.mhz.getD d 1200 else s.adm.mhz.getD d 1200 ≤ 1150 ∧ (s.adm.monitors.getD d ⟨0, 0, 0⟩).temp < 95

/-- The dies among which POWER_STEP chooses. -/
def State.mhzAble (s : State) (lower : Bool) : List Nat :=
  (List.range 4).filter (fun d => if lower then decide (650 ≤ s.adm.mhz.getD d 1200) else decide (s.adm.mhz.getD d 1200 ≤ 1150) && !(s.monitor d).hot)

theorem State.mem_mhzAble {s : State} {lower : Bool} {d : Nat} : d ∈ s.mhzAble lower ↔ s.mhzCan lower d := by
  cases lower <;> simp [State.mhzAble, State.mhzCan, Monitor.hot, State.monitor]

theorem getD_mod_length_mem {l : List Nat} (h : l ≠ []) (i : Nat) : l.getD (i % l.length) 0 ∈ l := by
  have hi : i % l.length < l.length := Nat.mod_lt _ (List.length_pos_iff.2 h)
  rw [List.getD_eq_getElem _ _ hi]
  exact List.getElem_mem hi

section
variable {s : State} {w : Nat}

theorem exec_powerStep_still (h1 : w ≤ s.adm.pwrlim) (h2 : s.adm.pwrlim * 95 ≤ w * 100) :
    exec (.powerStep w) s = .next { s with adm := { s.adm with avgPower := w } } := by
  change execPowerStep w s = _
  simp only [execPowerStep, decide_eq_false (not_lt.2 h1), decide_eq_false (not_lt.2 h2), Bool.or_false, Bool.not_false, true_or, if_true]

variable {lower : Bool} (hl : decide (s.adm.pwrlim < w) = lower) (hm : (lower || decide (w * 100 < s.adm.pwrlim * 95)) = true)
include hl hm

theorem exec_powerStep_none (h : ∀ d, ¬ s.mhzCan lower d) : exec (.powerStep w) s = .next { s with adm := { s.adm with avgPower := w } } := by
  have hn : s.mhzAble lower = [] := List.eq_nil_iff_forall_not_mem.2 fun d hd => h d (State.mem_mhzAble.1 hd)
  change execPowerStep w s = _
  subst hl
  exact if_pos (.inr hn)

/-- One of the dies that can change, which a free value names, is moved by 50 MHz. -/
theorem exec_powerStep_one (h : ∃ d, s.mhzCan lower d) : ∃ d, s.mhzCan lower d ∧ exec (.powerStep w) s = .next (({ s with
      adm := { s.adm with avgPower := w }
      clk := { s.clk with freeCnt := s.clk.freeCnt + 1 } } : State).setMhz d
        (if lower then s.adm.mhz.getD d 1200 - 50 else s.adm.mhz.getD d 1200 + 50)) := by
  obtain ⟨d, hd⟩ := h
  have hn : s.mhzAble lower ≠ [] := List.ne_nil_of_mem (State.mem_mhzAble.2 hd)
  refine ⟨_, State.mem_mhzAble.1 (getD_mod_length_mem hn (Config.freeValue s.clk.freeCnt).toNat), ?_⟩
  change execPowerStep w s = _
  subst hl
  refine (if_neg ?_).trans rfl
  rintro (h | h)
  · rw [hm] at h; cases h
  · exact hn h

end

/-! ## The timebase (R43, R45) -/

@[simp] theorem State.setLock_locked (s : State) (on : Bool) : (s.setLock on).adm.locked = on := by
  unfold State.setLock
  split
  · exact Eq.symm ‹_›
  · cases on <;> rfl

theorem State.setLock_frame (s : State) (on : Bool) : (s.setLock on).adm.lastSync = s.adm.lastSync ∧ (s.setLock on).clk = s.clk ∧
    (s.setLock on).work = s.work ∧ (s.setLock on).mem.bytes = s.mem.bytes := by
  unfold State.setLock
  split
  · exact ⟨rfl, rfl, rfl, rfl⟩
  · cases on <;> exact ⟨rfl, rfl, rfl, rfl⟩

theorem State.syncStep_eq (s : State) (offset : Int) : s.syncStep offset = { s with
    clk := { s.clk with now := if s.adm.everLocked = false ∧ 60 < offset then s.clk.now + offset.toNat else s.clk.now } } := by
  unfold State.syncStep
  by_cases h : s.adm.everLocked = false ∧ 60 < offset
  · rw [if_pos h, if_neg (by simp [h.1, h.2])]
  · rw [if_neg h, if_pos (by simpa [imp_iff_or_not, or_comm] using h)]

theorem exec_syncMessage_noPort {s : State} {offset : Int} (h : s.adm.ptpport = 0xFF) : exec (.syncMessage offset) s = .next s := if_pos h

theorem exec_syncMessage {s : State} {offset : Int} (h : s.adm.ptpport ≠ 0xFF) :
    ∃ t, exec (.syncMessage offset) s = .next t ∧ t.adm.locked = decide (offset.natAbs ≤ 60) ∧ t.adm.lastSync = t.clk.now ∧
      t.clk.now = (if s.adm.everLocked = false ∧ 60 < offset then s.clk.now + offset.toNat else s.clk.now) ∧
      t.work = s.work ∧ t.mem.bytes = s.mem.bytes ∧ ⟨t.clk.now + 60000000, .syncTimeout, ⟨0, 0, 0, 0⟩⟩ ∈ t.clk.agenda := by
  refine ⟨_, if_neg h, ?_⟩
  simp only [State.sched_adm, State.sched_now, State.sched_work, State.sched_mem, State.sched_agenda, State.setLock_locked, State.setLock_frame,
    State.syncStep_eq, mem_agendaAdd, and_self]

theorem exec_syncTimeout_early {s : State} (h : s.clk.now < s.adm.lastSync + 60000000) : exec .syncTimeout s = .next s :=
  congrArg _ (if_neg (not_le.2 h))

theorem exec_syncTimeout_late {s : State} (h : s.adm.lastSync + 60000000 ≤ s.clk.now) (hl : s.adm.locked = true) :
    exec .syncTimeout s = .next { s with
      adm := { s.adm with locked := false, mgmtEvents := s.adm.mgmtEvents ++ [(s.clk.now, 2)] }
      mem := { s.mem with l1 := s.mem.l1.filter (fun l => decide (l.loc * 64 < 2 ^ 64)) } } := by
  refine (congrArg _ (if_pos h)).trans ?_
  simp [State.setLock, hl, State.event]

/-! ## Module reset (R75) -/

/-- All but the administrative state is as after reset; free values go on, flash keeps its content. -/
def State.ResetFrom (s t : State) : Prop :=
  t.mem = State.reset.mem ∧ t.work = State.reset.work ∧ t.clk = { State.reset.clk with freeCnt := s.clk.freeCnt } ∧ t.adm.flash = s.adm.flash

/-- Bring-up has stopped at step `n`, in the recovery state. -/
def State.StopsAt (t : State) (n : Nat) : Prop := t.adm.recovery = true ∧ t.adm.step = n ∧ t.adm.enmask = List.replicate 4 0

theorem State.recover_stopsAt (s : State) (n : Nat) : (s.recover n).StopsAt n := ⟨rfl, rfl, rfl⟩

theorem State.identityOk_iff (s : State) : s.identityOk = true ↔ s.adm.sealedOk = true ∧ edPublic Config.identitySeed = s.adm.idpub := by
  simp only [State.identityOk, Bool.and_eq_true, beq_iff_eq]

section
variable {s : State} {c f : Nat}

theorem exec_moduleReset_noConfig (h : s.cold.pickSlot 2 3 = none) : exec .moduleReset s = .next
    (({ s.cold with adm := { s.cold.adm with reckey := (List.range 32).map (fun j => Config.serviceKey.getD j 0) } } : State).recover 1) := by
  change execModuleReset s = _
  simp only [execModuleReset, h]

theorem exec_moduleReset_noFirmware (hc : s.cold.pickSlot 2 3 = some c) (hf : (s.cold.useCfg c).pickSlot 0 1 = none) :
    exec .moduleReset s = .next ((s.cold.useCfg c).recover 2) := by
  change execModuleReset s = _
  simp only [execModuleReset, hc, hf]

theorem exec_moduleReset_images (hc : s.cold.pickSlot 2 3 = some c) (hf : (s.cold.useCfg c).pickSlot 0 1 = some f) :
    exec .moduleReset s = .next (
      let u := (s.cold.useCfg c).useFw f
      if s.adm.trained = false then u.recover 3 else if ¬ u.identityOk = true then u.recover 4 else u) := by
  change execModuleReset s = _
  simp only [execModuleReset, hc, hf, Bool.not_eq_true', Bool.not_eq_true]
  rfl

end

/-- Where bring-up ends after MODULE_RESET, by the images that it finds, the training of the links and the identity key. -/
theorem exec_moduleReset (s : State) : ∃ t, exec .moduleReset s = .next t ∧ s.ResetFrom t ∧
    (s.cold.pickSlot 2 3 = none → t.StopsAt 1) ∧
    ∀ c, s.cold.pickSlot 2 3 = some c →
      ((s.cold.useCfg c).pickSlot 0 1 = none → t.StopsAt 2) ∧
      ∀ f, (s.cold.useCfg c).pickSlot 0 1 = some f →
        (s.adm.trained = false → t.StopsAt 3) ∧
        (s.adm.trained = true → ¬ ((s.cold.useCfg c).useFw f).identityOk = true → t.StopsAt 4) ∧
        (s.adm.trained = true → ((s.cold.useCfg c).useFw f).identityOk = true → t = (s.cold.useCfg c).useFw f) := by
  cases hc : s.cold.pickSlot 2 3 with
  | none => exact ⟨_, exec_moduleReset_noConfig hc, ⟨rfl, rfl, rfl, rfl⟩, fun _ => State.recover_stopsAt _ 1, nofun⟩
  | some c =>
    cases hf : (s.cold.useCfg c).pickSlot 0 1 with
    | none =>
      refine ⟨_, exec_moduleReset_noFirmware hc hf, ⟨rfl, rfl, rfl, rfl⟩, nofun, ?_⟩
      rintro _ ⟨⟩
      exact ⟨fun _ => State.recover_stopsAt _ 2, fun f h => absurd (hf.symm.trans h) nofun⟩
    | some f =>
      refine ⟨_, exec_moduleReset_images hc hf, ?_, nofun, ?_⟩
      · dsimp only
        split
        · exact ⟨rfl, rfl, rfl, rfl⟩
        · split <;> exact ⟨rfl, rfl, rfl, rfl⟩
      · rintro _ ⟨⟩
        refine ⟨fun h => absurd (hf.symm.trans h) nofun, fun f' h => ?_⟩
        obtain rfl : f = f' := Option.some.inj (hf.symm.trans h)
        refine ⟨fun ht => ?_, fun ht hk => ?_, fun ht hk => ?_⟩
        · simp only [ht, if_true]; exact State.recover_stopsAt _ 3
        · simp only [ht, Bool.true_eq_false, if_false, if_pos hk]; exact State.recover_stopsAt _ 4
        · simp only [ht, Bool.true_eq_false, if_false, if_neg (not_not.2 hk)]

/-! ## Strikes (R257, R264, R267) -/

theorem Map.nodup_of_wfFrom {α : Type} {lo : Nat} {m : Map α} (w : Map.wfFrom lo m = true) :
    (m.map Prod.fst).Nodup ∧ ∀ k ∈ m.map Prod.fst, lo ≤ k := by
  induction m generalizing lo with
  | nil => exact ⟨List.nodup_nil, nofun⟩
  | cons x m ih =>
    obtain ⟨i, a⟩ := x
    simp only [Map.wfFrom, Bool.and_eq_true, decide_eq_true_eq] at w
    obtain ⟨hn, hb⟩ := ih w.2
    refine ⟨List.nodup_cons.2 ⟨fun h => absurd (hb i h) (by omega), hn⟩, fun k hk => ?_⟩
    rcases List.mem_cons.1 hk with rfl | hk
    · exact w.1
    · have := hb k hk; omega

theorem mem_keys_mput {α : Type} (k j : Nat) (a : α) (m : Map α) : j ∈ (mput k a m).map Prod.fst ↔ j = k ∨ j ∈ m.map Prod.fst := by
  induction m with
  | nil => simp [mput]
  | cons x m ih =>
    obtain ⟨i, b⟩ := x
    unfold mput
    split
    · simp only [List.map_cons, List.mem_cons]
    · split
      · subst_vars; simp only [List.map_cons, List.mem_cons]; tauto
      · simp only [List.map_cons, List.mem_cons, ih]; tauto

/-- The contexts of the teams that stand on the part, each once. -/
def ctxsHere (ts : List (Nat × Team)) : Map Unit := ts.foldl (fun (m : Map Unit) t => if t.2.here then mput t.2.ctx () m else m) []

theorem ctxsHere_spec (ts : List (Nat × Team)) :
    Map.wf (ctxsHere ts) = true ∧ ∀ c, c ∈ (ctxsHere ts).map Prod.fst ↔ ts.any (fun t => t.2.here && t.2.ctx == c) = true := by
  unfold ctxsHere
  induction ts using List.reverseRecOn with
  | nil => simp [Map.wf, Map.wfFrom]
  | append_singleton ts t ih =>
    obtain ⟨w, hk⟩ := ih
    rw [List.foldl_append, List.foldl_cons, List.foldl_nil]
    by_cases h : t.2.here = true
    · rw [if_pos h]
      refine ⟨Map.wfFrom_mput () (Nat.zero_le _) w, fun c => ?_⟩
      rw [mem_keys_mput, hk, List.any_append, Bool.or_eq_true, or_comm]
      simp only [List.any_cons, List.any_nil, Bool.or_false, h, Bool.true_and, beq_iff_eq, eq_comm (a := c)]
    · rw [if_neg h]
      exact ⟨w, fun c => by rw [hk, List.any_append]; simp [h]⟩

/-- One record for each of several contexts: nothing but the error logs changes, and each of these contexts has one record more. -/
theorem foldl_log {r : State → Nat → ErrRec} (hr : ∀ s c, (r s c).tenant = c) (hc : ∀ s t c, s.clk = t.clk → r s c = r t c) {cs : List Nat}
    (hn : cs.Nodup) (s : State) : ∃ l, cs.foldl (fun s c => s.log (r s c)) s = { s with adm := { s.adm with errlog := l } } ∧
      ∀ c, (mget c l).getD [] = (mget c s.adm.errlog).getD [] ++ if c ∈ cs then [r s c] else [] := by
  induction cs generalizing s with
  | nil => exact ⟨_, rfl, fun c => by simp⟩
  | cons d cs ih =>
    obtain ⟨hd, hn⟩ := List.nodup_cons.1 hn
    obtain ⟨l, he, hl⟩ := ih hn (s.log (r s d))
    refine ⟨l, he, fun c => ?_⟩
    rw [hl, State.log_errlog, hr, mget_mput, hc (s.log (r s d)) s c rfl]
    by_cases h : c = d
    · subst h; simp [hd]
    · simp [h]

theorem exec_strikeReport {s : State} {die : Fin 4} {cluster : Option Nat} {here : List (Nat × Team)}
    (hh : s.work.teams.filter (fun t => inRegion die.val cluster t.2.cluster) = here) (h : ∀ t ∈ here, t.2.prot = none ∨ t.2.st = .ended) :
    ∃ l, exec (.strikeReport die cluster) s = .next { s with adm := { s.adm with strikes := lmod s.adm.strikes die.val (· + 1), errlog := l } } ∧
      ∀ c, (mget c l).getD [] = (mget c s.adm.errlog).getD [] ++
        if here.any (fun t => t.2.here && t.2.ctx == c) then [⟨0x0401, 9, c, cluster.getD 0xFFFF, 0xFFFF, 0, s.clk.now, 0, 0⟩] else [] := by
  subst hh
  obtain ⟨w, hk⟩ := ctxsHere_spec (s.work.teams.filter (fun t => inRegion die.val cluster t.2.cluster))
  obtain ⟨l, he, hl⟩ := foldl_log (r := fun s c => ⟨0x0401, 9, c, cluster.getD 0xFFFF, 0xFFFF, 0, s.clk.now, 0, 0⟩) (fun _ _ => rfl)
    (fun _ _ _ e => by rw [e]) (Map.nodup_of_wfFrom w).1 { s with adm := { s.adm with strikes := lmod s.adm.strikes die.val (· + 1) } }
  refine ⟨l, ?_, fun c => by rw [hl]; simp only [hk]⟩
  refine congrArg _ ((foldl_fixed_of_mem fun t ht => if_neg ?_).trans he)
  rintro ⟨hp, hs⟩
  rcases h t ht with h | h
  · rw [h] at hp; cases hp
  · exact hs h

/-! ## The debugger (R194, R195) -/

theorem Req.cancels_other {q : Req} {k : Nat} (h : q.gang ≠ k) : q.cancels k = false := by simp [Req.cancels, h]

section
variable {s : State} {k : Nat} {g : Gang} {reg : BitVec 8} {lanes : Mask} {v : DWord}

theorem exec_debugRegWrite_running (hg : s.gang? k = some g) (h : g.stopped = false) : exec (.debugRegWrite k reg lanes v) s = .next s := by
  change execDebugRegWrite k reg lanes v s = _
  simp only [execDebugRegWrite, hg, h, Bool.not_false, if_true]

/-- A debugger's write to a register of a stopped gang: no byte of memory and no other gang changes, and where the gang has no request and no SFU
operation on its way nothing is cancelled. -/
theorem exec_debugRegWrite_stopped (hg : s.gang? k = some g) (h : g.stopped = true) :
    ∃ t, exec (.debugRegWrite k reg lanes v) s = .next t ∧ t.gang? k = some ((g.settle (s.clk.now + 1000)).debugSet reg.toNat lanes v) ∧
      t.mem.bytes = s.mem.bytes ∧ (∀ j, j ≠ k → t.gang? j = s.gang? j) ∧
      ((∀ r ∈ s.mem.reqs, r.2.gang ≠ k) → (∀ q ∈ s.work.sfu, ∀ o ∈ q.2, o.gang ≠ k) →
        t.mem = s.mem ∧ t.work.sfu = s.work.sfu ∧ t.adm = { s.adm with dbgStatus := some false }) := by
  change ∃ t, execDebugRegWrite k reg lanes v s = .next t ∧ _
  simp only [execDebugRegWrite, hg, h, Bool.not_true, Bool.false_eq_true, if_false]
  refine ⟨_, rfl, mget_mput_same _ _ _, rfl, fun j hj => mget_mput_ne hj _ _, fun hr hs => ?_⟩
  have reqs : ∀ r ∈ s.mem.reqs, r.2.cancels k = false := fun r h => Req.cancels_other (hr r h)
  refine ⟨?_, ?_, ?_⟩
  · simp only [State.setGang_mem]
    rw [map_eq_self_of_mem fun r h => if_neg (by simp [reqs r h])]
  · refine map_eq_self_of_mem fun q hq => Prod.ext rfl (map_eq_self_of_mem fun o ho => if_neg (hs q hq o ho))
  · have hreq : ∀ p : Nat × Req → Bool, s.mem.reqs.any (fun r => r.2.cancels k && p r) = false := fun p =>
      List.any_eq_false.2 fun r h => by simp [reqs r h]
    have hsfu : ∀ p : SfuOp → Bool, s.work.sfu.any (fun q => q.2.any (fun o => o.gang == k && p o)) = false := fun p =>
      List.any_eq_false.2 fun q hq => by simpa [List.any_eq_true] using fun i hi h => absurd h (hs q hq i hi)
    simp only [State.setGang_adm, hreq, hsfu, Bool.or_false]

/-- What DEBUG_BREAKPOINT makes of a gang's stop request: a running gang, or one that is asked to stop, is asked at once. -/
def GStop.atBreakpoint : GStop → GStop
  | .run => .asked 0
  | .asking _ => .asked 0
  | .asked _ => .asked 0
  | y => y

theorem exec_debugBreakpoint (hg : s.gang? k = some g) (a : DWord) :
    exec (.debugBreakpoint k a) s = .next (s.setGang k { g with stop := g.stop.atBreakpoint }) := by
  change Host.Outcome.next (s.modGang k _) = _
  simp only [State.modGang, mmod_some hg]
  unfold State.setGang
  cases h : g.stop <;> simp only [GStop.atBreakpoint] <;> rw [← h]

end
/-! ## The statement -/

/-- Settles O55: each clause is the equation of its event, proved above; what is left is true by `rfl`. -/
theorem outsideEvents : Obligations.OutsideEvents := by
  unfold Obligations.OutsideEvents
  intro s adm gone
  refine ⟨fun port => ?ports, fun _ => rfl, fun _ _ _ h => exec_peerDown h, fun conn c addr hc up => ?rma, fun link die => ?links,
    fun offset => ⟨exec_syncMessage_noPort, exec_syncMessage⟩, ⟨exec_syncTimeout_early, exec_syncTimeout_late⟩, fun w => ?power, ?reset,
    fun die cluster => exec_strikeReport rfl, fun k g hg => ?debug⟩
  case ports =>
    refine ⟨fun hr hn => if_pos ⟨hr, hn⟩, fun h => if_neg ?_, rfl, rfl, rfl, rfl, fun conn key => ?_⟩
    · rintro ⟨hr, hn⟩
      rcases h with h | h
      · rw [h] at hr; cases hr
      · exact hn h
    · exact ⟨fun _ => exec_connectionAuth_bound conn port, exec_connectionAuth_unknown conn port⟩
  case rma =>
    refine ⟨fun bs => ⟨State.rma_overFrame hc up, State.rma_overPayload hc up, fun hn => State.rma_answers hc up (fun _ => hn) rfl,
        fun u leaf size a h0 hl hs ha ht => exec_rmaWrite_one_block hc up h0 hl hs ha ht⟩,
      fun len => ⟨State.rma_answers (k := .read) hc up nofun rfl, fun u h0 hl hs => exec_rmaRead_one_block hc up h0 hl hs⟩,
      fun op sz v w => ⟨exec_rmaAtomic_misaligned hc up, fun h => ?_, fun u leaf size a block t h hs ha ht hr => exec_rmaAtomic_clean hc up h hs ha ht hr⟩⟩
    obtain ⟨f, he⟩ := exec_rmaAtomic_aligned h
    exact State.rma_answers (k := .atomic) hc up nofun he
  case links =>
    refine ⟨rfl, rfl, fun h => exec_monitorFatal_bad ((Monitor.bad_iff _).2 h), fun ht hv => exec_monitorFatal_fine fun h => ?_,
      exec_tempThrottle_cool, fun h => ⟨State.setMhz_adm .., fun hb => ?_, fun hb => ?_⟩⟩
    · rcases (Monitor.bad_iff _).1 h with h | h
      · exact absurd ht (not_lt.2 h)
      · exact absurd hv (not_le.2 h)
    · exact (exec_tempThrottle_hot h).trans (congrArg _ (if_pos hb))
    · exact (exec_tempThrottle_hot h).trans (congrArg _ (if_neg (by rw [hb]; exact Bool.false_ne_true)))
  case power =>
    refine ⟨fun h => ?_, fun h => ?_, exec_powerStep_still⟩
    · have hl : decide (s.adm.pwrlim < w) = true := decide_eq_true h
      exact ⟨exec_powerStep_one hl rfl, exec_powerStep_none hl rfl⟩
    · have hl : decide (s.adm.pwrlim < w) = false := decide_eq_false (by omega)
      have hm : (false || decide (w * 100 < s.adm.pwrlim * 95)) = true := decide_eq_true h
      exact ⟨exec_powerStep_one hl hm, exec_powerStep_none hl hm⟩
  case reset =>
    obtain ⟨t, he, ⟨hmem, hwork, hclk, hflash⟩, noConfig, config⟩ := exec_moduleReset s
    refine ⟨t, he, hmem, hwork, hclk, hflash, noConfig, fun c hc => ⟨(config c hc).1, fun f hf => ?_⟩⟩
    obtain ⟨untrained, unknown, up⟩ := (config c hc).2 f hf
    rw [State.identityOk_iff] at unknown up
    exact ⟨untrained, unknown, up⟩
  case debug =>
    refine ⟨fun reg lanes v => ⟨exec_debugRegWrite_running hg, exec_debugRegWrite_stopped hg⟩, fun a => (exec_debugBreakpoint hg a).trans ?_⟩
    cases g.stop <;> rfl

end Sys2Proof.Machine
end

section
/-! SUPPORT. Checkpoints, firmware calls and wakes: one equation per case of each, and the statement that they settle. -/

namespace Sys2Proof.Machine

/-! ## PMARK (R286, R403) -/

section
variable {s : State} {x : Iss} {p : Pred} (hx : s.iss = some x) (hp : x.qp p = true)
include hx hp

theorem exec_pmark : exec (.pmark p) s = .next ((s.checkpoint x.k x.g x.pc).onPath x (fun q => q.next x.len)) := State.uni_true hx hp _

theorem exec_pmark_uncovered (h : s.sessOf x.g = none) : Passes (.pmark p) s x := by
  have e : s.checkpoint x.k x.g x.pc = s := by simp only [State.checkpoint, h]
  exact (exec_pmark hx hp).trans (by rw [e])

end

/-- A checkpoint of a gang that a recording covers, while the area of checkpoints has room: SEQ rises, and the record and the count go on their way. -/
theorem State.checkpoint_records {s : State} {k ctx n id : Nat} {g : Gang} {y : Sess} (pc : DWord) (hs : s.sessOf g = some (ctx, n, y))
    (hf : y.full = false) (hd : y.diverged = false) (hr : y.replay = false) (hi : mget k y.ids = some id) (hc : y.hcnt < y.hmax) :
    s.checkpoint k g pc =
      ((((s.modSess ctx (fun z => { z with seqs := mput k (mgetD 0 k y.seqs + 1) z.seqs })).modSess ctx (fun z => { z with hcnt := z.hcnt + 1 })).sessPut
        ctx g.die (y.buf + BitVec.ofNat 64 (y.hoff + 16 * y.hcnt)) (toBytes 4 id ++ toBytes 4 (mgetD 0 k y.seqs) ++ toBytes 8 g.storehash.toNat)).sessPut
        ctx g.die (y.buf + 0x10) (toBytes 4 (y.hcnt + 1))) := by
  simp only [State.checkpoint, hs, hf, hd, hr, hi, Bool.or_self, Bool.false_eq_true, if_false, if_neg (Nat.not_le.2 hc)]

/-! ## FWCALL (R401, R402, R474) -/

theorem State.rootDie_eq (s : State) (ctx die : Nat) : s.rootDie ctx die = ((mget ctx s.mem.roots).map (fun a => paStack a / 3)).getD die := by
  unfold State.rootDie
  cases mget ctx s.mem.roots <;> rfl

/-- The die of the unit that serves a service: translation services go to the home of the root table. -/
def State.serviceDie (s : State) (x : Iss) (n : Nat) : Nat :=
  if 0x010 ≤ n ∧ n ≤ 0x016 then ((mget x.ctx s.mem.roots).map (fun a => paStack a / 3)).getD x.g.die else x.g.die

/-- A result that belongs to no run goes on its way to a gang, and the path waits for the answer of a unit. -/
theorem State.answered_push (s : State) (x : Iss) (g : Gang) (y : Pend) (t : Nat) (hy : y.run = 0) :
    ∃ h, (s.setGang x.k (g.push y)).answered x t = { s with work := { s.work with gangs := mput x.k h s.work.gangs } } ∧
      h = { g with
        pend := h.pend
        paths := g.paths.map (fun q => if q.lanes = x.path.lanes then { q.next x.len with hold := t } else q) } ∧
      h.pend.Perm (g.pend ++ [y]) := by
  refine ⟨{ g with
      pend := (g.push y).pend
      paths := g.paths.map (fun q => if q.lanes = x.path.lanes then { q.next x.len with hold := t } else q) }, ?_, rfl, Gang.push_out hy⟩
  rw [answered_eq, Gang.push_frame]
  simp only [State.heldTill, State.onPath, State.modGang, State.setGang, mmod_some (mget_mput_same _ _ _), mput_self]

section
variable {s : State} {x : Iss} {p : Pred} (hx : s.iss = some x) (hp : x.qp p = true)
include hx hp

theorem exec_fwcall_known {svc : BitVec 12} {e : Instr} (h : fwService svc.toNat (x.g.g.getD 1 0).toNat (x.g.g.getD 4 0).toNat = some e) :
    exec (.fwcall p svc) s = .next ((s.onPath x (fun q => { q with
      wait := .fwcall svc.toNat [x.g.g.getD 1 0, x.g.g.getD 2 0, x.g.g.getD 3 0, x.g.g.getD 4 0], wlen := x.len })).sched
        (s.clk.now + x.trip (s.serviceDie x svc.toNat)) e x.k) := by
  refine (State.uni_true hx hp _).trans ?_
  simp only [h, State.rootDie_eq]
  rfl

theorem exec_fwcall_unknown {svc : BitVec 12} (h : fwService svc.toNat (x.g.g.getD 1 0).toNat (x.g.g.getD 4 0).toNat = none) :
    ∃ g h, s.gang? x.k = some g ∧
      exec (.fwcall p svc) s = .next { s with work := { s.work with gangs := mput x.k h s.work.gangs } } ∧
      h = { g with
        pend := h.pend
        paths := g.paths.map (fun q => if q.lanes = x.path.lanes then
          { q.next x.len with hold := s.clk.now + x.trip (s.serviceDie x svc.toNat) } else q) } ∧
      h.pend.Perm (g.pend ++ [⟨s.clk.now + x.trip (s.serviceDie x svc.toNat), x.pos, 0, x.run, false, x.path.lanes, x.pc, .general, .g 1 1⟩]) := by
  obtain ⟨g, hg⟩ := State.iss_gang hx
  obtain ⟨h', he, hf, hq⟩ := State.answered_push s x g
    ⟨s.clk.now + x.trip (s.serviceDie x svc.toNat), x.pos, 0, x.run, false, x.path.lanes, x.pc, .general, .g 1 1⟩
    (s.clk.now + x.trip (s.serviceDie x svc.toNat)) rfl
  refine ⟨g, h', hg, (State.uni_true hx hp _).trans ?_, hf, hq⟩
  simp only [h, hg, State.rootDie_eq]
  exact congrArg _ he

end

/-! ## Wakes (R57, R471, R472) -/

/-- A queue takes a proposed write index of a context: it is that of the queue's own context, ahead, and within the ring (R57). -/
def Queue.takes (q : Queue) (ctx : Nat) (v : Word) : Prop :=
  q.ctx = ctx ∧ q.stopped = false ∧ q.dying = false ∧ (v - q.widx).toNat ≠ 0 ∧ (v - q.widx).toNat ≤ q.size

section
variable {s : State} {qid ctx : Nat} {q : Queue} {v : Word} (hq : s.queue? qid = some q)
include hq

theorem State.wakeAnswer_of_takes (h : q.takes ctx v) :
    s.wakeAnswer ctx qid v = if q.size < (v - q.ridx).toNat then .full else .accepted := by
  obtain ⟨hc, hs, hd, h0, hn⟩ := h
  simp only [State.wakeAnswer, hq]
  exact if_neg (by simp [hc, hs, hd, h0, Nat.not_lt.2 hn, -BitVec.toNat_sub])

theorem State.wakeAnswer_of_not_takes (h : ¬ q.takes ctx v) : s.wakeAnswer ctx qid v = .refused := by
  simp only [State.wakeAnswer, hq]
  refine if_pos (Classical.by_contradiction fun hn => h ?_)
  simpa [Queue.takes, not_or] using hn

theorem State.wakeQueue_accepted (h : q.takes ctx v) (hr : (v - q.ridx).toNat ≤ q.size) :
    s.wakeQueue ctx qid v = s.modQueue qid (fun q => { q with widx := v }) := by
  simp only [State.wakeQueue, State.wakeAnswer_of_takes hq h, if_neg (Nat.not_lt.2 hr)]

theorem State.wakeQueue_ignored (h : ¬ (q.takes ctx v ∧ (v - q.ridx).toNat ≤ q.size)) :
    s.wakeQueue ctx qid v = s.modQueue qid (fun q => { q with errs := q.errs + 1 }) := by
  by_cases ht : q.takes ctx v
  · have hr : q.size < (v - q.ridx).toNat := Nat.not_le.1 fun hr => h ⟨ht, hr⟩
    simp only [State.wakeQueue, State.wakeAnswer_of_takes hq ht, if_pos hr]
  · simp only [State.wakeQueue, State.wakeAnswer_of_not_takes hq ht]

end

/-- The fields of QSEND's operands keep their ranges: a QID of 10 bits, a PEER of 12, a write index of 32. -/
def qsendForm (a b : DWord) : Prop := a.toNat = a.toNat % 2 ^ 10 + a.toNat / 2 ^ 16 % 2 ^ 12 * 2 ^ 16 ∧ b.toNat < 2 ^ 32

theorem not_qsendForm_iff (a b : DWord) :
    ¬ qsendForm a b ↔ a.toNat ≠ bits a.toNat 0 10 + bits a.toNat 16 12 * 2 ^ 16 ∨ 2 ^ 32 ≤ b.toNat := by
  unfold qsendForm bits
  rw [not_and_or, not_lt, pow_zero, Nat.div_one]

/-- A wake that has found its queue full enters the cistern of its gang with `.space` (R472). -/
def State.wakeWaits (s : State) (x : Iss) (qid : Nat) (v : Word) (base : DWord) : State :=
  ({ s with
    clk := { s.clk with fresh := s.clk.fresh + 1 }
    work := { s.work with uncs := mput s.clk.fresh ⟨x.k, .qsend qid v, 0x0304, base, { x.opEnt with btime := s.clk.now }⟩ s.work.uncs } }.modGang x.k
      (fun g => { g with uncounted := some s.clk.fresh }))

theorem State.modQueue_gang? (s : State) (qid : Nat) (f : Queue → Queue) (k : Nat) : (s.modQueue qid f).gang? k = s.gang? k := rfl

theorem State.wakeWaits_gang? {s : State} {x : Iss} {g : Gang} (hg : s.gang? x.k = some g) (qid : Nat) (v : Word) (base : DWord) :
    (s.wakeWaits x qid v base).gang? x.k = some { g with uncounted := some s.clk.fresh } := by
  have e : (s.wakeWaits x qid v base).gang? x.k = mget x.k (mmod x.k (fun g => { g with uncounted := some s.clk.fresh }) s.work.gangs) := rfl
  rw [e, mget_mmod, if_pos rfl, ← State.gang?, hg]
  rfl

section
variable {s : State} {x : Iss} {p : Pred} {space : Bool} {qd : Fin 8} {a b : USrc}
variable (hx : s.iss = some x) (hp : x.qp p = true) (hr : s.rivalOf x.g = none)
include hx hp hr

theorem exec_qsend_badForm (h : ¬ qsendForm (x.u a) (x.u b)) : exec (.qsend p space qd a b) s =
    .next ((s.modQueue ((x.u a).toNat % 2 ^ 10) (fun q => { q with errs := q.errs + 1 })).answerQ x x.g.die qd false) := by
  refine (State.uni_true hx hp _).trans (congrArg _ ?_)
  simp only [hr, Option.isSome_none, Bool.false_eq_true, if_false]
  rw [if_pos ((not_qsendForm_iff _ _).1 h)]
  simp only [bits, pow_zero, Nat.div_one]

/-- A wake of a queue of this 9400: what its answer makes of the state. -/
theorem exec_qsend_own {q : Queue} (h : qsendForm (x.u a) (x.u b)) (h0 : (x.u a).toNat / 2 ^ 16 % 2 ^ 12 = 0)
    (hq : s.queue? ((x.u a).toNat % 2 ^ 10) = some q) :
    ∃ f : WakeAns → State, exec (.qsend p space qd a b) s = .next (f (s.wakeAnswer x.ctx ((x.u a).toNat % 2 ^ 10) ((x.u b).setWidth 32))) ∧
      f .accepted = (s.wakeQueue x.ctx ((x.u a).toNat % 2 ^ 10) ((x.u b).setWidth 32)).answerQ x (s.queueDie q) qd true ∧
      f .refused = (s.wakeQueue x.ctx ((x.u a).toNat % 2 ^ 10) ((x.u b).setWidth 32)).answerQ x (s.queueDie q) qd false ∧
      f .full = if space then (s.wakeWaits x ((x.u a).toNat % 2 ^ 10) ((x.u b).setWidth 32) q.base).answerQ x (s.queueDie q) qd true
        else s.answerQ x (s.queueDie q) qd false := by
  let qid := (x.u a).toNat % 2 ^ 10
  let v : Word := (x.u b).setWidth 32
  refine ⟨fun w => match w with
    | .accepted => (s.wakeQueue x.ctx qid v).answerQ x (s.queueDie q) qd true
    | .refused => (s.wakeQueue x.ctx qid v).answerQ x (s.queueDie q) qd false
    | .full => if space then (s.wakeWaits x qid v q.base).answerQ x (s.queueDie q) qd true else s.answerQ x (s.queueDie q) qd false, ?_, rfl, rfl, rfl⟩
  have hf := mt (not_qsendForm_iff _ _).2 (not_not.2 h)
  have hi : bits (x.u a).toNat 0 10 = qid := by simp only [bits, pow_zero, Nat.div_one, qid]
  have hb : bits (x.u a).toNat 16 12 = 0 := h0
  refine (State.uni_true hx hp _).trans (congrArg _ ?_)
  simp only [hr, Option.isSome_none, Bool.false_eq_true, if_false]
  rw [if_neg hf]
  simp only [hb, ne_eq, not_true_eq_false, if_false, hi, show s.queue? qid = some q from hq]
  rfl

theorem answersQ_qsend_badForm (h : ¬ qsendForm (x.u a) (x.u b)) : AnswersQ (.qsend p space qd a b) s
    (s.modQueue ((x.u a).toNat % 2 ^ 10) (fun q => { q with errs := q.errs + 1 })) x x.g.die qd false := by
  obtain ⟨g, hg⟩ := State.iss_gang hx
  exact answersQ_of (exec_qsend_badForm hx hp hr h) hg

variable {q : Queue} (h : qsendForm (x.u a) (x.u b)) (h0 : (x.u a).toNat / 2 ^ 16 % 2 ^ 12 = 0)
variable (hq : s.queue? ((x.u a).toNat % 2 ^ 10) = some q)
include h h0 hq

theorem answersQ_qsend_accepted (ht : q.takes x.ctx ((x.u b).setWidth 32)) (hl : ((x.u b).setWidth 32 - q.ridx).toNat ≤ q.size) :
    AnswersQ (.qsend p space qd a b) s (s.modQueue ((x.u a).toNat % 2 ^ 10) (fun q => { q with widx := (x.u b).setWidth 32 })) x (s.queueDie q) qd true := by
  obtain ⟨g, hg⟩ := State.iss_gang hx
  obtain ⟨f, he, ha, -, -⟩ := exec_qsend_own (space := space) (qd := qd) hx hp hr h h0 hq
  rw [State.wakeAnswer_of_takes hq ht, if_neg (Nat.not_lt.2 hl), ha, State.wakeQueue_accepted hq ht hl] at he
  exact answersQ_of he hg

theorem answersQ_qsend_refused (ht : ¬ q.takes x.ctx ((x.u b).setWidth 32)) : AnswersQ (.qsend p space qd a b) s
    (s.modQueue ((x.u a).toNat % 2 ^ 10) (fun q => { q with errs := q.errs + 1 })) x (s.queueDie q) qd false := by
  obtain ⟨g, hg⟩ := State.iss_gang hx
  obtain ⟨f, he, -, hn, -⟩ := exec_qsend_own (space := space) (qd := qd) hx hp hr h h0 hq
  rw [State.wakeAnswer_of_not_takes hq ht, hn, State.wakeQueue_ignored hq fun hc => ht hc.1] at he
  exact answersQ_of he hg

variable (ht : q.takes x.ctx ((x.u b).setWidth 32)) (hl : q.size < ((x.u b).setWidth 32 - q.ridx).toNat)
include ht hl

theorem answersQ_qsend_full : AnswersQ (.qsend p false qd a b) s s x (s.queueDie q) qd false := by
  obtain ⟨g, hg⟩ := State.iss_gang hx
  obtain ⟨f, he, -, -, hw⟩ := exec_qsend_own (space := false) (qd := qd) hx hp hr h h0 hq
  rw [State.wakeAnswer_of_takes hq ht, if_pos hl, hw, if_neg Bool.false_ne_true] at he
  exact answersQ_of he hg

theorem answersQ_qsend_waits : AnswersQ (.qsend p true qd a b) s
    (s.wakeWaits x ((x.u a).toNat % 2 ^ 10) ((x.u b).setWidth 32) q.base) x (s.queueDie q) qd true := by
  obtain ⟨g, hg⟩ := State.iss_gang hx
  obtain ⟨f, he, -, -, hw⟩ := exec_qsend_own (space := true) (qd := qd) hx hp hr h h0 hq
  rw [State.wakeAnswer_of_takes hq ht, if_pos hl, hw, if_pos rfl] at he
  exact answersQ_of he (State.wakeWaits_gang? hg ..)

end

theorem exec_wakeMessage {s : State} {conn : Nat} {c : Conn} (hc : mget conn s.adm.conns = some c) (qid : Nat) (v : Word) :
    exec (.wakeMessage conn qid v) s = .next (if c.up then s.wakeQueue c.ctx qid v else s) := by
  change execWakeMessage conn qid v s = _
  simp only [execWakeMessage, hc]

/-! ## The statement -/

theorem fwService_sampleOn {a : Nat} (h4 : 4 ≤ a) (h20 : a ≤ 20) (b : Nat) : fwService 0x021 a b = some .sampleOn := by
  change (if a = 0 then some Instr.sampleOff else if 4 ≤ a ∧ a ≤ 20 then some .sampleOn else none) = _
  rw [if_neg (by omega), if_pos ⟨h4, h20⟩]

/-- Settles O50: PMARK by what the gang's session does, FWCALL by its service, QSEND and WAKE_MESSAGE by what the queue answers. -/
theorem callsAndWakes : Obligations.CallsAndWakes := by
  unfold Obligations.CallsAndWakes
  refine ⟨fun s x p hx hp => ⟨exec_pmark_uncovered hx hp, ?pmark, fun svc => ⟨fun e => exec_fwcall_known hx hp, exec_fwcall_unknown hx hp⟩, ?qsend⟩,
    fun a b => ⟨rfl, rfl, rfl, rfl, rfl, rfl, rfl, rfl, rfl, rfl, rfl, rfl, fun h4 h20 => fwService_sampleOn h4 h20 b, rfl, rfl, rfl⟩, ?wake⟩
  case pmark =>
    intro ctx n y id hs hf hd hr hi hc
    exact (exec_pmark hx hp).trans (by rw [State.checkpoint_records x.pc hs hf hd hr hi hc])
  case qsend =>
    intro qd space a b hr
    refine ⟨answersQ_qsend_badForm hx hp hr, fun hf h0 q hq => ⟨answersQ_qsend_accepted hx hp hr hf h0 hq, ?_, ?_, answersQ_qsend_refused hx hp hr hf h0 hq⟩⟩
    · rintro ht hl rfl
      exact answersQ_qsend_full hx hp hr hf h0 hq ht hl
    · rintro ht hl rfl
      exact answersQ_qsend_waits hx hp hr hf h0 hq ht hl
  case wake =>
    intro s conn qid v c q hc hq
    have he := exec_wakeMessage hc qid v
    refine ⟨fun hu => ?_, fun hu ht hl => ?_, fun hu hn => ?_⟩
    · rw [he, hu, if_neg Bool.false_ne_true]
    · rw [he, hu, if_pos rfl, State.wakeQueue_accepted hq ht hl]
    · rw [he, hu, if_pos rfl, State.wakeQueue_ignored hq hn]

end Sys2Proof.Machine
end

section
/-! SUPPORT. Multicasts, tensor records and copies: one equation per case of each instruction and of COPY_COMPLETE, and the statement that they settle. -/

namespace Sys2Proof.Machine

/-! ## STMC and STRED (R461 to R463) -/

/-- Nothing is sent: Gm receives 0 and the path goes on. -/
def State.castsNone (s : State) (x : Iss) (gm : Fin 7) : State :=
  (s.landVar x.k x.run x.path.lanes x.pc .general [.g gm.val 0]).onPath x (fun p => p.next x.len)

/-- The state in which a multicast asks for its table: a release is ordered, and the stores through the first pointer enter the hash. -/
def State.castFrom (s : State) (x : Iss) (mc : Bool) (rel : Option Scope) (lanes : Mask) (base : DWord) (add : Nat → DWord) (data : List DWord) : State :=
  if mc then
    match s.vread x.ctx base 8 with
    | .ok bs => (s.ordering x rel).hash x lanes (fun l => BitVec.ofNat 64 (ofBytes bs) + add l) data
    | .error _ => s.ordering x rel
  else s.ordering x rel

section
variable {s : State} {x : Iss} {p : Pred} {mc : Bool} {op : AOp} {sz : USZ} {rel : Option Scope} {a : LSrc} {m : LXMem} {gm : Fin 7}
variable (hx : s.iss = some x)
include hx

theorem cast_noLane (h : x.act p = 0) : s.cast p mc op sz rel a m gm = .next (s.castsNone x gm) := by
  refine (State.issue_some hx _).trans (congrArg _ ?_)
  exact if_pos h

variable (h : x.act p ≠ 0)
include h

theorem cast_rival {v : Nat × Nat} (hr : s.rivalOf x.g = some v) : s.cast p mc op sz rel a m gm =
    .next (((s.logGang x.g 0x0111 7 (m.baseOf x) (x.act p) x.hdr).faultRival v.1 v.2).onPath x (fun p => p.next x.len)) := by
  refine (State.issue_some hx _).trans (congrArg _ ?_)
  simp only [if_neg h, hr, Option.isSome_some, if_true, State.rivalOp]
  rfl

variable (hr : s.rivalOf x.g = none)
include hr

theorem cast_badPointer (hb : ptrOk (m.baseOf x) = false) : s.cast p mc op sz rel a m gm =
    .next (s.trapAccess x.k x.path.lanes x.pc 0x0108 7 (m.baseOf x) (x.act p)) := by
  refine (State.issue_some hx _).trans (congrArg _ ?_)
  simp only [if_neg h, hr, Option.isSome_none, Bool.false_eq_true, if_false, hb, Bool.not_false, if_true]

variable (hb : ptrOk (m.baseOf x) = true) {u : State}
variable (hu : s.castFrom x mc rel (x.act p) (m.baseOf x) (m.add x) (cutData sz.bytes (x.dataOf sz.wide a)) = u)
include hb hu

theorem cast_noTarget (h0 : (x.g.g.getD gm.val 0).toNat % 65536 = 0) : s.cast p mc op sz rel a m gm =
    .next (u.castsNone x gm) := by
  subst hu
  refine (State.issue_some hx _).trans (congrArg _ ?_)
  simp only [if_neg h, hr, Option.isSome_none, Bool.false_eq_true, if_false, hb, Bool.not_true, h0, if_true]
  cases mc <;> cases hv : s.vread x.ctx (m.baseOf x) 8 <;> simp only [State.castFrom, hv] <;> rfl

theorem cast_asks (h0 : (x.g.g.getD gm.val 0).toNat % 65536 ≠ 0) :
    s.cast p mc op sz rel a m gm = .next ((u.newReq { x.req .tbl (m.baseOf x) (x.indexRow m.ws) (x.act p) sz.bytes 1 with
      dest := .g gm.val, signed := mc, op := op, data := cutData sz.bytes (x.dataOf sz.wide a), cmp := (List.range 32).map (m.add x)
      sel := (x.g.g.getD gm.val 0).toNat % 65536, grp := u.grpOf x
      parts := u.partsOf x.g ((List.range 16).flatMap (fun i =>
        (laneAccs 0 (m.baseOf x + BitVec.ofNat 64 (8 * i)) 8 0).map (fun y => { y with off := 8 * i + y.off }))) }).onPath x
          (fun p => p.next x.len)) := by
  subst hu
  refine (State.issue_some hx _).trans (congrArg _ ?_)
  simp only [if_neg h, hr, Option.isSome_none, Bool.false_eq_true, if_false, hb, Bool.not_true, if_neg h0]
  cases mc <;> cases hv : s.vread x.ctx (m.baseOf x) 8 <;> simp only [State.castFrom, hv] <;> rfl

end

/-! ## TDLOAD (R486) -/

/-- The accesses of TDLOAD to the 256 bytes of a record, block by block. -/
def recordAccs (ptr : DWord) : List Acc :=
  let r := ptr.toNat % 64
  if r = 0 then (List.range 4).map (fun i => ⟨0, ptr + BitVec.ofNat 64 (64 * i), 64, 64 * i, 0⟩)
  else [(⟨0, ptr, 64 - r, 0, 0⟩ : Acc)] ++ (List.range 3).map (fun i => (⟨0, ptr + BitVec.ofNat 64 (64 * (i + 1) - r), 64, 64 * (i + 1) - r, 0⟩ : Acc)) ++
    [(⟨0, ptr + BitVec.ofNat 64 (256 - r), r, 256 - r, 0⟩ : Acc)]

/-- The access of TDLOAD to the `i`-th block that its record lies on. -/
def recordAcc (ptr : DWord) (i : Nat) : Option Acc :=
  let at_ := if i = 0 then ptr else BitVec.ofNat 64 (ptr.toNat / 64 * 64 + 64 * i)
  let off := at_.toNat - ptr.toNat
  let n := min (64 - at_.toNat % 64) (256 - off)
  if n = 0 then none else some (⟨0, at_, n, off, 0⟩ : Acc)

/-- A pointer whose bits [59:57] are 0 lies well below the end of the address range. -/
theorem toNat_lt_of_ptrOk {ptr : DWord} (h : ptrOk ptr = true) : ptr.toNat + 2 ^ 57 ≤ 2 ^ 64 := by
  have h' : ptr.toNat / 2 ^ 57 % 2 ^ 3 = 0 := by simpa [ptrOk, field, bits] using h
  have hl := ptr.isLt
  omega

theorem recordAcc_first (ptr : DWord) : recordAcc ptr 0 = some ⟨0, ptr, 64 - ptr.toNat % 64, 0, 0⟩ := by
  have h : min (64 - ptr.toNat % 64) 256 = 64 - ptr.toNat % 64 := by omega
  have h0 : 64 - ptr.toNat % 64 ≠ 0 := by omega
  simp only [recordAcc, if_true, Nat.sub_self, Nat.sub_zero, h, if_neg h0]

theorem recordAcc_behind {ptr : DWord} (h : ptrOk ptr = true) {i : Nat} (h1 : 1 ≤ i) (h4 : i ≤ 4) (hn : 64 * i < 256 + ptr.toNat % 64) :
    recordAcc ptr i = some ⟨0, ptr + BitVec.ofNat 64 (64 * i - ptr.toNat % 64), min 64 (256 - (64 * i - ptr.toNat % 64)), 64 * i - ptr.toNat % 64, 0⟩ := by
  have hp := toNat_lt_of_ptrOk h
  have hat : ptr.toNat / 64 * 64 + 64 * i = ptr.toNat + (64 * i - ptr.toNat % 64) := by omega
  have ha : (BitVec.ofNat 64 (ptr.toNat / 64 * 64 + 64 * i)).toNat = ptr.toNat / 64 * 64 + 64 * i := by
    rw [BitVec.toNat_ofNat]; omega
  have hoff : ptr.toNat / 64 * 64 + 64 * i - ptr.toNat = 64 * i - ptr.toNat % 64 := by omega
  have hblk : 64 - (ptr.toNat / 64 * 64 + 64 * i) % 64 = 64 := by omega
  have h0 : min 64 (256 - (64 * i - ptr.toNat % 64)) ≠ 0 := by omega
  have hadd : BitVec.ofNat 64 (ptr.toNat / 64 * 64 + 64 * i) = ptr + BitVec.ofNat 64 (64 * i - ptr.toNat % 64) := by
    rw [hat, BitVec.ofNat_add, BitVec.ofNat_toNat, BitVec.setWidth_eq]
  simp only [recordAcc, if_neg (Nat.ne_of_gt h1), ha, hoff, hblk, if_neg h0]
  rw [hadd]

theorem recordAccs_eq {ptr : DWord} (h : ptrOk ptr = true) :
    (List.range (if ptr.toNat % 64 = 0 then 4 else 5)).filterMap (recordAcc ptr) = recordAccs ptr := by
  have behind : ∀ i, 1 ≤ i → i ≤ 3 → recordAcc ptr i = some ⟨0, ptr + BitVec.ofNat 64 (64 * i - ptr.toNat % 64), 64, 64 * i - ptr.toNat % 64, 0⟩ := by
    intro i h1 h3
    rw [recordAcc_behind h h1 (by omega) (by omega), show min 64 (256 - (64 * i - ptr.toNat % 64)) = 64 by omega]
  by_cases hr : ptr.toNat % 64 = 0
  · simp only [recordAccs, hr, if_true, show List.range 4 = [0, 1, 2, 3] from rfl, List.filterMap_cons, List.filterMap_nil, List.map_cons, List.map_nil,
      recordAcc_first, behind 1 (by omega) (by omega), behind 2 (by omega) (by omega), behind 3 (by omega) (by omega)]
    simp
  · have last : recordAcc ptr 4 = some ⟨0, ptr + BitVec.ofNat 64 (256 - ptr.toNat % 64), ptr.toNat % 64, 256 - ptr.toNat % 64, 0⟩ := by
      rw [recordAcc_behind h (by omega) (by omega) (by omega), show min 64 (256 - (64 * 4 - ptr.toNat % 64)) = ptr.toNat % 64 by omega]
    simp only [recordAccs, if_neg hr, show List.range 5 = [0, 1, 2, 3, 4] from rfl, show List.range 3 = [0, 1, 2] from rfl, List.filterMap_cons,
      List.filterMap_nil, List.map_cons, List.map_nil, recordAcc_first, behind 1 (by omega) (by omega), behind 2 (by omega) (by omega),
      behind 3 (by omega) (by omega), last, List.cons_append, List.nil_append]

section
variable {s : State} {x : Iss} {p : Pred} (hx : s.iss = some x) (hp : x.qp p = true)
include hx hp

theorem exec_tdload_badPointer {a : USrc} (d : UDst) (h : ptrOk (x.u a) = false) :
    exec (.tdload p d a) s = .next (s.trapAccess x.k x.path.lanes x.pc 0x0108 5 (x.u a) 1) := by
  refine (State.uni_true hx hp _).trans (congrArg _ ?_)
  simp only [h, Bool.not_false, if_true]

theorem exec_tdload {a : USrc} (d : UDst) (h : ptrOk (x.u a) = true) :
    exec (.tdload p d a) s = .next ((s.newReq { x.req .unitRead (x.u a) [] 1 256 0 with
      dest := (match d with
        | .g n => .g n.val
        | .zero => .g 62)
      home := true
      parts := (recordAccs (x.u a)).map (fun y => Part.new (blkOf y.addr) [y] (s.speculative x.g y.addr)) }).onPath x (fun p => p.next x.len)) := by
  refine (State.uni_true hx hp _).trans (congrArg _ ?_)
  rw [← recordAccs_eq h]
  simp only [h, Bool.not_true, Bool.false_eq_true, if_false]
  rfl

end

/-! ## COPY_COMPLETE (R63, R188, R484) -/

section
variable {s : State}

/-- A pass of a gang's copy has moved, and the copy has not started again since. -/
theorem exec_copyComplete_pass {o : CopyOp} (hb : s.clk.subj.b = 0) (ho : (s.copyQueue s.clk.subj.a).find? (fun o => o.id == s.clk.subj.c) = some o)
    (hs : o.start = some s.clk.subj.d) :
    exec .copyComplete s = .next (if o.kick then s.kickRun s.clk.subj.a o else s.copytRun s.clk.subj.a o) := by
  change execCopyComplete s = _
  simp only [execCopyComplete, State.copyEvent, hb, ho, hs, if_true, if_neg (show ¬ 3 ≤ 0 by decide)]

theorem exec_copyComplete_ack (hb : s.clk.subj.b = 1) : exec .copyComplete s = .next (s.eackDue s.clk.subj.c) := by
  change execCopyComplete s = _
  simp only [execCopyComplete, State.copyEvent, hb, if_neg (show ¬ 3 ≤ 1 by decide), if_neg (show ¬ 1 = 0 by decide)]

/-- The writes of a Casux COPY can be seen: its entry ends with the status that its last pass has left, and for a FAULT the progress. -/
theorem exec_copyComplete_entry {q : Queue} {e : Entry} (hb : s.clk.subj.b = 4) (he : s.entry? s.clk.subj.a s.clk.subj.c = some (q, e))
    (hd : e.done = false) (hs : e.started.isSome = true) : exec .copyComplete s = .next (s.entryEnd s.clk.subj.a s.clk.subj.c (s.clk.subj.d % 16)
      (if s.clk.subj.d % 16 = 4 then some (s.clk.subj.d / 16) else none)) := by
  have hn : e.started.isNone = false := by rw [Option.isNone_eq_false_iff]; exact hs
  change execCopyComplete s = _
  simp only [execCopyComplete, State.cmdCopy, hb, if_pos (show 3 ≤ 4 by decide), he, hd, hn, Bool.or_self, Bool.false_eq_true, if_false, if_true]

end

/-! ## The statement -/

/-- Settles O51: a multicast by its first pointer and its selection, TDLOAD by its pointer; COPYT and KICK enter their queue as the model defines it. -/
theorem multicastsAndCopies : Obligations.MulticastsAndCopies := by
  unfold Obligations.MulticastsAndCopies
  refine ⟨fun s x hx => ⟨fun p sz rel op a m gm => ?casts, fun p hp => ⟨fun d a => ?tdload, fun d a b => ?copies⟩⟩, fun s => ?complete⟩
  case casts =>
    intro lanes base sel data zero casts hashed
    have stmc : s.castFrom x true rel lanes base (m.add x) data = hashed := rfl
    have stred : s.castFrom x false rel lanes base (m.add x) data = s.ordering x rel := rfl
    exact ⟨⟨cast_noLane hx, fun v h => cast_rival hx h, fun h hr => ⟨cast_badPointer hx h hr, fun hb => cast_noTarget hx h hr hb stmc,
        fun hb => cast_asks hx h hr hb stmc⟩⟩,
      ⟨cast_noLane hx, fun v h => cast_rival hx h, fun h hr => ⟨cast_badPointer hx h hr, fun hb => cast_noTarget hx h hr hb stred,
        fun hb => cast_asks hx h hr hb stred⟩⟩⟩
  case tdload => exact ⟨exec_tdload_badPointer hx hp d, exec_tdload hx hp d⟩
  case copies => exact ⟨State.uni_true hx hp _, State.uni_true hx hp _⟩
  case complete =>
    exact ⟨fun o => exec_copyComplete_pass, exec_copyComplete_ack, fun q e => exec_copyComplete_entry⟩

end Sys2Proof.Machine
end

section
/-! SUPPORT. What an access of a command processor leaves alone, and the forms of a command of a queue: one equation for each way that a command, its buffers or
its entry can go. -/

namespace Sys2Proof.Machine

/-! ## Translation and reads keep the queues (R85, R271) -/

theorem State.walkRecs_queues (s : State) (ctx page : Nat) (pas : List Nat) : (s.walkRecs ctx page pas).adm.queues = s.adm.queues := by
  unfold State.walkRecs
  split <;> rfl

theorem State.lookup_adm (s : State) (first : Place) (die ctx page : Nat) : (s.lookup first die ctx page).2.adm = s.adm := by
  unfold State.lookup
  split
  · rfl
  · split
    · rfl
    · split <;> rfl

theorem State.sliceFill_adm (s : State) (loc ctx : Nat) (pinned : Bool) (filled : Nat) : (s.sliceFill loc ctx pinned filled).adm = s.adm := by
  unfold State.sliceFill
  split <;> rfl

theorem State.wcFill_adm (s : State) (die ctx va level : Nat) (ent : DWord) : (s.wcFill die ctx va level ent).adm = s.adm := by
  unfold State.wcFill
  split <;> rfl

theorem State.wcTouch_adm (s : State) (die ctx va : Nat) : (s.wcTouch die ctx va).adm = s.adm := by
  unfold State.wcTouch
  split <;> rfl

theorem State.walkFill_queues (s : State) (die ctx page gen : Nat) (w : Found × List Nat × List (Nat × DWord)) :
    (s.walkFill die ctx page gen w).adm.queues = s.adm.queues := by
  have slices : ∀ (l : List Nat) (u : State), (l.foldl (fun s pa => s.sliceFill (pa / 64) ctx false s.clk.now) u).adm = u.adm :=
    foldl_keeps State.adm fun u pa => u.sliceFill_adm _ _ _ _
  have walks : ∀ (l : List (Nat × DWord)) (u : State), (l.foldl (fun s e => s.wcFill die ctx (page * 65536) e.1 e.2) u).adm = u.adm :=
    foldl_keeps State.adm fun u e => u.wcFill_adm _ _ _ _ _
  have filled : ∀ u : State, u.adm.queues = s.adm.queues → ∀ f : Found, (match f with
      | .leaf e size => u.tlbFill (.die die) ctx page size gen e
      | _ => u).adm.queues = s.adm.queues := by
    intro u hu f
    cases f <;> exact hu
  exact filled _ ((congrArg Adm.queues (walks _ _)).trans ((congrArg Adm.queues (slices _ _)).trans (s.walkRecs_queues ctx page w.2.1))) w.1

theorem State.dieWalks_queues (s : State) (die ctx : Nat) (pages : List Nat) : (s.dieWalks die ctx pages).2.adm.queues = s.adm.queues := by
  refine foldl_keeps (fun r : Nat × State => r.2.adm.queues) (fun r page => ?_) pages (0, s)
  have hl : (r.2.lookup (.die die) die ctx page).2.adm.queues = r.2.adm.queues := congrArg Adm.queues (r.2.lookup_adm _ _ _ _)
  dsimp only
  split
  · rename_i s1 e
    rw [e] at hl
    exact hl
  · rename_i s1 e
    rw [e] at hl
    split
    · exact (State.walkFill_queues ..).trans ((congrArg Adm.queues (s1.wcTouch_adm ..)).trans hl)
    · exact (State.walkRecs_queues ..).trans hl

/-- A buffer that can be accessed at once: nothing has happened but the walks of its pages. -/
theorem State.ready_ok {s u : State} {ctx die n : Nat} {k : AccKind} {ptr : DWord} {pull : Bool} (h : s.ready ctx die k ptr n pull = (.ok, u)) :
    u = (s.dieWalks die ctx (if ptrOk ptr then pagesOf (ptrVa ptr) n else [])).2 := by
  unfold State.ready at h
  generalize s.dieWalks die ctx (if ptrOk ptr then pagesOf (ptrVa ptr) n else []) = w at h ⊢
  dsimp only at h
  split at h
  · cases h
  · split at h
    · cases h
    · split at h <;> cases h
    · exact (congrArg Prod.snd h).symm

theorem State.gateOne_ok_queues {s u : State} {q : Queue} {k : AccKind} {ptr : DWord} {n : Nat} (h : s.gateOne q k ptr n = (.ok, u)) :
    u.adm.queues = s.adm.queues := by
  unfold State.gateOne at h
  split at h
  · cases h
  · rw [State.ready_ok h, State.dieWalks_queues]

theorem State.eccRead_queues (s : State) (loc ctx : Nat) (tag : Option Nat) : (s.eccRead loc ctx tag).2.adm.queues = s.adm.queues := by
  have poison : (s.eccPoison loc).adm = s.adm := by
    unfold State.eccPoison State.setDesc
    dsimp only
    split <;> rfl
  unfold State.eccRead
  dsimp only
  split
  · rfl
  · exact congrArg Adm.queues poison
  · exact congrArg Adm.queues poison
  · rfl

theorem State.readHome_queues (s : State) (loc ctx : Nat) (tag : Option Nat) : (s.readHome loc ctx tag).2.2.2.adm.queues = s.adm.queues := by
  have h := s.eccRead_queues loc ctx tag
  unfold State.readHome
  dsimp only
  split <;> (rename_i e; rw [e] at h; exact h)

theorem State.readRecs_queues (s : State) (ctx : Nat) (ptr : DWord) (n : Nat) : (s.readRecs ctx ptr n).adm.queues = s.adm.queues := by
  refine foldl_keeps (fun u : State => u.adm.queues) (fun u x => ?_) _ s
  dsimp only
  split
  · rfl
  · split
    · rfl
    · rename_i p _ _
      have h := u.readHome_queues (p.2.2 / 64) ctx (if leafTagck p.1 then some (ptrTag ptr) else none)
      split <;> (rename_i e; rw [e] at h; exact h)

/-- Reading the slot at RIDX changes no queue where it finds an entry. -/
theorem State.readSlot_entry_queues {s u : State} {q : Queue} {bs : List Byte} (h : s.readSlot q = (.entry bs, u)) : u.adm.queues = s.adm.queues := by
  unfold State.readSlot at h
  dsimp only at h
  split at h
  · cases h
  · cases h
  · rename_i s1 hg
    split at h
    · obtain rfl : _ = u := congrArg Prod.snd h
      exact (State.readRecs_queues ..).trans (State.gateOne_ok_queues hg)
    · cases h

/-! ## A command of an entry (R61, R65, R66) -/

/-- The event that is due concerns an entry that has started and is not over. -/
structure State.Runs (s : State) (qid i : Nat) (q : Queue) (e : Entry) : Prop where
  queue : s.clk.subj.a = qid
  idx : s.clk.subj.b = i
  entry : s.entry? qid i = some (q, e)
  notOver : e.done = false
  started : e.started ≠ none

section
variable {s u : State} {qid i : Nat} {q : Queue} {e : Entry}

theorem State.command_of_runs (h : s.Runs qid i q e) (f : Nat → Nat → Queue → Entry → State) : s.command f = .next (f qid i q e) := by
  obtain ⟨rfl, rfl, he, hd, hs⟩ := h
  have hn : e.started.isNone = false := by rwa [Option.isNone_eq_false_iff, Option.isSome_iff_ne_none]
  simp only [State.command, he, hd, hn, Bool.or_self, Bool.false_eq_true, if_false]

theorem State.withBuffers_ok {ev : Instr} {l : List (AccKind × DWord × Nat)} {f : State → State} (h : s.gateAll q l = (.ok, u)) :
    s.withBuffers qid i q ev l f = f u := by
  simp only [State.withBuffers, h]

/-! ## The end of an entry (R64, R66) -/

/-- How COMMAND_RESTART's subject keeps the DETAIL of a signal that is tried again: 0 where there is none. -/
def restartDetail : Option Nat → Nat
  | none => 0
  | some n => n + 1

section
variable (he : s.entry? qid i = some (q, e)) (st : Nat) (d : Option Nat)
include he

theorem State.entryEnd_unsigned (h : e.signals = false ∨ e.num 8 8 % 16 ≠ 0) : s.entryEnd qid i st d = s.entryGone qid i := by
  have hc : (!e.signals || e.num 8 8 % 16 != 0) = true := by simpa using h
  simp only [State.entryEnd, he, hc, if_true]

variable (hs : e.signals = true) (ha : e.num 8 8 % 16 = 0)
include hs ha

theorem State.entryEnd_of_sent (h : s.sendSignal q (e.addr 8) (e.num 4 4) st qid (d.getD s.clk.now) = (none, u)) :
    s.entryEnd qid i st d = u.entryGone qid i := by
  simp only [State.entryEnd, he, hs, ha, Bool.not_true, bne_self_eq_false, Bool.or_self, Bool.false_eq_true, if_false, h]

theorem State.entryEnd_of_retried {t : Nat} (h : s.sendSignal q (e.addr 8) (e.num 4 4) st qid (d.getD s.clk.now) = (some t, u)) :
    s.entryEnd qid i st d =
      (u.modEntry qid i (fun e => { e with done := true })).sched t .commandRestart qid i (1 + st) (restartDetail d) := by
  simp only [State.entryEnd, he, hs, ha, Bool.not_true, bne_self_eq_false, Bool.or_self, Bool.false_eq_true, if_false, h]
  cases d <;> rfl

theorem State.entryEnd_written (h : s.gateOne q .write (e.addr 8) 16 = (.ok, u)) : s.entryEnd qid i st d =
    ((u.vwrite q.ctx (e.addr 8) (toBytes 4 (e.num 4 4) ++ toBytes 2 st ++ toBytes 2 qid ++ toBytes 8 (d.getD s.clk.now))).1).entryGone qid i :=
  State.entryEnd_of_sent he st d hs ha (by simp only [State.sendSignal, h])

theorem State.entryEnd_dropped {c : Nat} {a : DWord} (h : s.gateOne q .write (e.addr 8) 16 = (.fail c a, u)) :
    s.entryEnd qid i st d = u.entryGone qid i :=
  State.entryEnd_of_sent he st d hs ha (by simp only [State.sendSignal, h])

theorem State.entryEnd_later {t : Nat} (h : s.gateOne q .write (e.addr 8) 16 = (.later t, u)) : s.entryEnd qid i st d =
    (u.modEntry qid i (fun e => { e with done := true })).sched t .commandRestart qid i (1 + st) (restartDetail d) :=
  State.entryEnd_of_retried he st d hs ha (by simp only [State.sendSignal, h])

end

end

end Sys2Proof.Machine
end

section
/-! SUPPORT. Command queues and the commands LAUNCH, TASK, COPY, SIGNAL and WAIT: one equation per case of each, and the statement that they settle. -/

namespace Sys2Proof.Machine

/-! ## Reading entries (R58, R59) -/

section
variable {s u : State} {qid : Nat} {q : Queue}

/-- The event that reads the slot at RIDX, and the rereads of the slot with it. -/
def readEvent (again : Bool) : Instr := if again then .entryReread else .entryRead

theorem exec_readEvent {again : Bool} (ha : s.clk.subj.a = qid) (hb : again = false ∨ s.clk.subj.b ≠ 1) :
    exec (readEvent again) s = .next (s.readEntry qid again) := by
  subst ha
  cases again with
  | false => rfl
  | true => exact congrArg _ (if_neg (hb.resolve_left nofun))

theorem exec_entryReread_stale (ha : s.clk.subj.a = qid) (hb : s.clk.subj.b = 1) : exec .entryReread s = .next (s.staleSignal qid) := by
  subst ha
  exact congrArg _ (if_pos hb)

theorem State.modQueue_congr {f g : Queue → Queue} (hq : s.queue? qid = some q) (h : f q = g q) : s.modQueue qid f = s.modQueue qid g := by
  have hm : mget qid s.adm.queues = some q := hq
  simp only [State.modQueue, mmod_some hm, h]

section
variable (again : Bool) (hq : s.queue? qid = some q) (hs : q.stopped = false) (hd : q.dying = false) (hw : q.ridx ≠ q.widx)
include hq hs hd hw

theorem State.readEntry_later {t : Nat} (h : s.readSlot q = (.later t, u)) : s.readEntry qid again = u.sched t (readEvent again) qid := by
  simp only [State.readEntry, hq, hs, hd, beq_eq_false_iff_ne.2 hw, Bool.or_self, Bool.false_eq_true, if_false, h]
  rfl

theorem State.readEntry_copied {bs : List Byte} (h : s.readSlot q = (.entry bs, u)) : s.readEntry qid again = (u.modQueue qid (fun q => { q with
    ridx := q.ridx + 1, rereads := 0, entries := q.entries ++ [⟨q.ridx.toNat, bs, none, false, false, s.clk.now, 0⟩] })).mirrorLater qid q := by
  have hu : u.queue? qid = some q := by rw [State.queue?, State.readSlot_entry_queues h, ← State.queue?, hq]
  simp only [State.readEntry, hq, hs, hd, beq_eq_false_iff_ne.2 hw, Bool.or_self, Bool.false_eq_true, if_false, h]
  exact congrArg (fun v : State => v.mirrorLater qid q) (State.modQueue_congr hu rfl)

theorem State.readEntry_reread (h : s.readSlot q = (.unwritten, u)) (hn : q.rereads + again.toNat < 16) : s.readEntry qid again =
    (u.modQueue qid (fun x => { x with rereads := q.rereads + again.toNat })).sched (s.clk.now + 256) .entryReread qid := by
  have e : (if again = true then q.rereads + 1 else q.rereads) = q.rereads + again.toNat := by cases again <;> rfl
  simp only [State.readEntry, hq, hs, hd, beq_eq_false_iff_ne.2 hw, Bool.or_self, Bool.false_eq_true, if_false, h, e, if_pos hn]

theorem State.readEntry_stops (h : s.readSlot q = (.unwritten, u)) (hn : 16 ≤ q.rereads + again.toNat) : s.readEntry qid again =
    (u.modQueue qid (fun x => { x with rereads := q.rereads + again.toNat, stopped := true })).staleSignal qid := by
  have e : (if again = true then q.rereads + 1 else q.rereads) = q.rereads + again.toNat := by cases again <;> rfl
  simp only [State.readEntry, hq, hs, hd, beq_eq_false_iff_ne.2 hw, Bool.or_self, Bool.false_eq_true, if_false, h, e, if_neg (Nat.not_lt.2 hn)]

end

/-! ## The mirror (R59) -/

section
variable (ha : s.clk.subj.a = qid) (hq : s.queue? qid = some q)
include ha hq

theorem exec_mirrorWrite_none (h : q.mirror = 0) : exec .mirrorWrite s = .next s := by
  subst ha
  change execMirrorWrite s = _
  simp only [execMirrorWrite, hq, h, if_true]

variable (hm : q.mirror ≠ 0)
include hm

theorem exec_mirrorWrite_written (h : s.gateOne q .write q.mirror 4 = (.ok, u)) : exec .mirrorWrite s =
    .next ((u.vwrite q.ctx q.mirror (toBytes 4 q.ridx.toNat)).1.modQueue qid (fun q => { q with lastMirror := some s.clk.now })) := by
  subst ha
  change execMirrorWrite s = _
  simp only [execMirrorWrite, hq, if_neg hm, h]

theorem exec_mirrorWrite_failed {c : Nat} {a : DWord} (h : s.gateOne q .write q.mirror 4 = (.fail c a, u)) :
    exec .mirrorWrite s = .next (u.modQueue qid (fun q => { q with lastMirror := some s.clk.now })) := by
  subst ha
  change execMirrorWrite s = _
  simp only [execMirrorWrite, hq, if_neg hm, h]

theorem exec_mirrorWrite_later {t : Nat} (h : s.gateOne q .write q.mirror 4 = (.later t, u)) :
    exec .mirrorWrite s = .next (u.sched t .mirrorWrite qid) := by
  subst ha
  change execMirrorWrite s = _
  simp only [execMirrorWrite, hq, if_neg hm, h]

end

end

/-! ## Bounces and restarts (R68) -/

theorem exec_commandBounce (s : State) : exec .commandBounce s =
    .next (s.modEntry s.clk.subj.a s.clk.subj.b (fun e => { e with bounced := e.bounced || e.started.isNone })) := by
  have h : (fun e : Entry => if e.started.isNone then { e with bounced := true } else e) = fun e => { e with bounced := e.bounced || e.started.isNone } := by
    funext e
    cases e.started.isNone <;> simp
  exact congrArg (fun f => Host.Outcome.next (s.modEntry s.clk.subj.a s.clk.subj.b f)) h

theorem exec_launchComplete {s : State} {l : Launch} (h : mget s.clk.subj.a s.work.launches = some l) : exec .launchComplete s =
    .next (({ s with work := { s.work with launches := mdel s.clk.subj.a s.work.launches } } : State).entryEnd l.qid l.entry 0) := by
  change execLaunchComplete s = _
  simp only [execLaunchComplete, h]

section
variable {s : State} {qid i : Nat} {q : Queue} {e : Entry} (ha : s.clk.subj.a = qid) (hb : s.clk.subj.b = i) (he : s.entry? qid i = some (q, e))
include ha hb he

theorem exec_commandRestart_signal (hc : s.clk.subj.c ≠ 0) : exec .commandRestart s =
    .next (s.entryEnd qid i (s.clk.subj.c - 1) (if s.clk.subj.d = 0 then none else some (s.clk.subj.d - 1))) := by
  subst ha hb
  change execCommandRestart s = _
  simp only [execCommandRestart, he, if_pos hc]

variable (hc : s.clk.subj.c = 0)
include hc

theorem exec_commandRestart_start (hs : e.started = none) : exec .commandRestart s = .next (s.startEntry qid i) := by
  subst ha hb
  change execCommandRestart s = _
  simp only [execCommandRestart, he, hc, ne_eq, not_true_eq_false, if_false, hs, Option.isNone_none, if_true]

theorem exec_commandRestart_task (hs : e.started ≠ none) : exec .commandRestart s =
    .next ((s.modEntry qid i (fun e => { e with bounced := false })).sched s.clk.now .task qid i) := by
  subst ha hb
  have hn : e.started.isNone = false := by rwa [Option.isNone_eq_false_iff, Option.isSome_iff_ne_none]
  change execCommandRestart s = _
  simp only [execCommandRestart, he, hc, ne_eq, not_true_eq_false, if_false, hn, Bool.false_eq_true]

end

/-! ## LAUNCH (R62, R108) -/

/-- The fields of a LAUNCH keep their ranges (R62). -/
def Entry.LaunchFields (e : Entry) : Prop :=
  zeroAt e.bytes 0x2D 19 = true ∧ e.num 0x28 4 ≤ 4096 ∧ (e.num 0x2C 1 ≤ 3 ∨ e.num 0x2C 1 = 0xFF) ∧ (e.addr 0x18).toNat % 8 = 0

theorem Entry.not_launchFields_iff (e : Entry) : ¬ e.LaunchFields ↔
    (!zeroAt e.bytes 0x2D 19 || decide (4096 < e.num 0x28 4) || (decide (3 < e.num 0x2C 1) && e.num 0x2C 1 != 0xFF) || (e.addr 0x18).toNat % 8 != 0) = true := by
  simp only [Entry.LaunchFields, not_and_or, not_or, not_le, Bool.or_eq_true, Bool.and_eq_true, Bool.not_eq_true', Bool.not_eq_true, decide_eq_true_eq, bne_iff_ne,
    ne_eq, or_assoc]

theorem foldl_mul_one (l : List Nat) : l.foldl (· * ·) 1 = l.prod := List.prod_eq_foldl.symm

/-- A launch that starts: its entry in the table of launches, under the next unused number. -/
theorem State.startLaunch_ok {v t : State} {qid i : Nat} {q : Queue} {e : Entry} {o : Obj} {k h : List Byte} {params : List (Nat × DWord)} {ext wid : List Nat}
    (hl : v.startLaunch qid i q e o k h params ext wid = .ok t) : ∃ l, mget v.clk.fresh t.work.launches = some l ∧
      l.ctx = q.ctx ∧ l.qid = qid ∧ l.entry = i ∧ l.extents = ext ∧ l.widths = wid ∧ l.params = params ∧ l.lanes = (ext.take (numAt h 1 1)).prod ∧
      l.teams = (ext.drop (numAt h 1 1)).prod ∧ l.rows = numAt k 0x2C 2 ∧ l.prio = (if e.num 0x2C 1 = 0xFF then q.prio else e.num 0x2C 1) ∧
      l.start = o.code + BitVec.ofNat 64 (numAt k 0x20 8) ∧ l.placed = 0 ∧ l.ended = 0 := by
  unfold State.startLaunch at hl
  dsimp only at hl
  split at hl
  · cases hl
  · obtain rfl := Except.ok.inj hl
    exact ⟨_, mget_mput_same _ _ _, rfl, rfl, rfl, rfl, rfl, rfl, foldl_mul_one _, foldl_mul_one _, rfl, rfl, rfl, rfl, rfl⟩

/-- What a LAUNCH reads, where every buffer of it can be accessed and what stands there keeps its ranges (R62, R108): the object of its kernel record, the record
`k`, the header `h` with its extents and widths, and the parameters; `u` and `v` are the states that the two accesses leave. -/
structure State.LaunchReads (s u v : State) (q : Queue) (e : Entry) (o : Obj) (k h : List Byte) (ext wid : List Nat) (params : List (Nat × DWord)) : Prop where
  object : s.adm.objs.find? (fun o => o.ctx == q.ctx && decide (o.krecs.toNat ≤ (e.addr 0x10).toNat ∧ (e.addr 0x10).toNat + 128 ≤ o.krecs.toNat + o.krecSize) &&
    ((e.addr 0x10).toNat - o.krecs.toNat) % 128 == 0) = some o
  buffers : s.gateAll q ([(.read, e.addr 0x10, 128)] ++ (if e.addr 0x18 = 0 then [] else [(.read, e.addr 0x18, 64)]) ++
    [(.read, e.addr 0x20, 8 * e.num 0x28 4)]) = (.ok, u)
  record : u.bytesAt q.ctx (e.addr 0x10) 128 = k
  header : (if e.addr 0x18 = 0 then k.drop 0x40 else u.bytesAt q.ctx (e.addr 0x18) 64) = h
  rows : numAt k 0x2C 2 ∈ [16, 32, 64, 128]
  count : numAt k 0x3A 2 ≤ 16
  zeros : zeroAt k 0x2E 2 = true ∧ zeroAt k 0x3C 4 = true
  fields : headerOf h = some (ext, wid)
  table : u.gateAll q [(.read, o.params + BitVec.ofNat 64 (16 * numAt k 0x38 2), 16 * numAt k 0x3A 2)] = (.ok, v)
  values : bindParams o (v.bytesAt q.ctx (e.addr 0x20) (8 * e.num 0x28 4)) (e.num 0x28 4) ((List.range (numAt k 0x3A 2)).map (fun j =>
    v.bytesAt q.ctx (o.params + BitVec.ofNat 64 (16 * numAt k 0x38 2) + BitVec.ofNat 64 (16 * j)) 16)) = .ok params

section
variable {s : State} {qid i : Nat} {q : Queue} {e : Entry} (hr : s.Runs qid i q e)
include hr

theorem exec_launch_badFields (h : ¬ e.LaunchFields) : exec .launch s = .next (s.entryEnd qid i 2) := by
  change execLaunch s = _
  refine (State.command_of_runs hr _).trans (congrArg _ ?_)
  exact if_pos (e.not_launchFields_iff.1 h)

theorem exec_launch {o : Obj} {u v t : State} {ext wid : List Nat} {params : List (Nat × DWord)} {k h : List Byte} (hf : e.LaunchFields)
    (hs : s.LaunchReads u v q e o k h ext wid params) (hl : v.startLaunch qid i q e o k h params ext wid = .ok t) : exec .launch s = .next t := by
  obtain ⟨ho, hu, rfl, rfl, rows, pc, ⟨z1, z2⟩, hd, hv, hp⟩ := hs
  generalize hk : u.bytesAt q.ctx (e.addr 0x10) 128 = k at *
  have record : ¬ ((!(numAt k 0x2C 2 = 16 ∨ numAt k 0x2C 2 = 32 ∨ numAt k 0x2C 2 = 64 ∨ numAt k 0x2C 2 = 128 : Bool)) = true ∨
      16 < numAt k 0x3A 2 ∨ (!zeroAt k 0x2E 2) = true ∨ (!zeroAt k 0x3C 4) = true) := by
    simp only [List.mem_cons, List.not_mem_nil, or_false] at rows
    simp only [z1, z2, Nat.not_lt.2 pc, rows, decide_true, Bool.not_true, Bool.false_eq_true, or_false, not_false_eq_true]
  change execLaunch s = _
  refine (State.command_of_runs hr _).trans (congrArg _ ?_)
  refine (if_neg (mt e.not_launchFields_iff.2 (not_not.2 hf))).trans ?_
  rw [State.withBuffers_ok hu, ho]
  dsimp only
  rw [hk, if_neg record, hd]
  dsimp only
  rw [State.withBuffers_ok hv]
  simp only [hp, hl]

/-! ## TASK (R62, R121) -/

end

/-- The fields of a TASK keep their ranges (R62). -/
def Entry.TaskFields (e : Entry) : Prop :=
  zeroAt e.bytes 0x1C 36 = true ∧ e.num 0x18 4 ≠ 0 ∧ e.num 0x18 4 ≤ 256 ∧ (e.addr 0x10).toNat % 64 = 0

theorem Entry.not_taskFields_iff (e : Entry) : ¬ e.TaskFields ↔
    (!zeroAt e.bytes 0x1C 36 || decide (e.num 0x18 4 = 0) || decide (256 < e.num 0x18 4) || (e.addr 0x10).toNat % 64 != 0) = true := by
  simp only [Entry.TaskFields, not_and_or, not_le, not_not, Bool.or_eq_true, Bool.not_eq_true', Bool.not_eq_true, decide_eq_true_eq, bne_iff_ne, ne_eq, or_assoc]

/-- The records of a TASK as they stand in memory. -/
def State.taskRecs (u : State) (q : Queue) (e : Entry) : List (List Byte) :=
  (List.range (e.num 0x18 4)).map (fun j => u.bytesAt q.ctx (e.addr 0x10 + BitVec.ofNat 64 (64 * j)) 64)

section
variable {s u : State} {qid i : Nat} {q : Queue} {e : Entry} (hr : s.Runs qid i q e)
include hr

theorem exec_task_badFields (h : ¬ e.TaskFields) : exec .task s = .next (s.entryEnd qid i 2) := by
  change execTask s = _
  refine (State.command_of_runs hr _).trans (congrArg _ ?_)
  exact if_pos (e.not_taskFields_iff.1 h)

variable (hf : e.TaskFields) (h0 : e.prog = 0) (hu : s.gateAll q [(.read, e.addr 0x10, 64 * e.num 0x18 4)] = (.ok, u))
include hf h0 hu

/-- A TASK that begins, once its records can be read: they are checked, first each by itself, then against the tables. -/
theorem exec_task : exec .task s = .next (
    if ¬ (u.taskRecs q e).all (fun r => recOk r false && !recRivv r) then u.entryEnd qid i 2
    else if ¬ (u.taskRecs q e).all (fun r => u.recFits q.ctx (u.queueDie q) r none) then u.entryEnd qid i 6
    else u.taskRecords qid i q (u.queueDie q) e (e.num 0x18 4) 0) := by
  change execTask s = _
  refine (State.command_of_runs hr _).trans (congrArg _ ?_)
  refine (if_neg (mt e.not_taskFields_iff.2 (not_not.2 hf))).trans ?_
  rw [State.withBuffers_ok hu]
  simp only [h0, true_and, Nat.sub_zero, Bool.not_eq_true', Bool.not_eq_true]
  rfl

theorem exec_task_unsound (h : ¬ ∀ r ∈ u.taskRecs q e, recOk r false = true ∧ recRivv r = false) : exec .task s = .next (u.entryEnd qid i 2) := by
  refine (exec_task hr hf h0 hu).trans (congrArg _ (if_pos ?_))
  simpa only [List.all_eq_true, Bool.and_eq_true, Bool.not_eq_true'] using h

variable (hs : ∀ r ∈ u.taskRecs q e, recOk r false = true ∧ recRivv r = false)
include hs

theorem exec_task_noRoom (h : ∃ r ∈ u.taskRecs q e, u.recFits q.ctx (u.queueDie q) r none = false) : exec .task s = .next (u.entryEnd qid i 6) := by
  refine (exec_task hr hf h0 hu).trans (congrArg _ ((if_neg ?_).trans (if_pos ?_)))
  · simpa only [List.all_eq_true, Bool.and_eq_true, Bool.not_eq_true', not_not] using hs
  · obtain ⟨r, hm, hn⟩ := h
    exact fun ha => absurd (List.all_eq_true.1 ha r hm) (by rw [hn]; exact Bool.false_ne_true)

theorem exec_task_accepted (h : ∀ r ∈ u.taskRecs q e, u.recFits q.ctx (u.queueDie q) r none = true) :
    exec .task s = .next (u.taskRecords qid i q (u.queueDie q) e (e.num 0x18 4) 0) := by
  refine (exec_task hr hf h0 hu).trans (congrArg _ ((if_neg ?_).trans (if_neg ?_)))
  · simpa only [List.all_eq_true, Bool.and_eq_true, Bool.not_eq_true', not_not] using hs
  · exact not_not.2 (List.all_eq_true.2 h)

end

/-! ## COPY, SIGNAL and WAIT (R62, R63) -/

/-- The fields of a COPY keep their ranges (R62). -/
def Entry.CopyFields (e : Entry) : Prop := zeroAt e.bytes 0x18 40 = true ∧ e.num 0x10 8 % 64 = 0

theorem Entry.not_copyFields_iff (e : Entry) : ¬ e.CopyFields ↔ (!zeroAt e.bytes 0x18 40 || e.num 0x10 8 % 64 != 0) = true := by
  simp only [Entry.CopyFields, not_and_or, Bool.or_eq_true, Bool.not_eq_true', Bool.not_eq_true, bne_iff_ne, ne_eq]

/-- The fields of a SIGNAL keep their ranges (R62). -/
def Entry.SignalFields (e : Entry) : Prop := zeroAt e.bytes 0x21 31 = true ∧ e.num 0x20 1 ≤ 1 ∧ (e.addr 0x10).toNat % 8 = 0

theorem Entry.not_signalFields_iff (e : Entry) : ¬ e.SignalFields ↔
    (!zeroAt e.bytes 0x21 31 || decide (1 < e.num 0x20 1) || (e.addr 0x10).toNat % 8 != 0) = true := by
  simp only [Entry.SignalFields, not_and_or, not_le, Bool.or_eq_true, Bool.not_eq_true', Bool.not_eq_true, decide_eq_true_eq, bne_iff_ne, ne_eq, or_assoc]

/-- The fields of a WAIT keep their ranges (R62). -/
def Entry.WaitFields (e : Entry) : Prop :=
  zeroAt e.bytes 0x21 3 = true ∧ zeroAt e.bytes 0x28 24 = true ∧ e.num 0x20 1 ≤ 2 ∧ (e.addr 0x10).toNat % 8 = 0

theorem Entry.not_waitFields_iff (e : Entry) : ¬ e.WaitFields ↔
    (!zeroAt e.bytes 0x21 3 || !zeroAt e.bytes 0x28 24 || decide (2 < e.num 0x20 1) || (e.addr 0x10).toNat % 8 != 0) = true := by
  simp only [Entry.WaitFields, not_and_or, not_le, Bool.or_eq_true, Bool.not_eq_true', Bool.not_eq_true, decide_eq_true_eq, bne_iff_ne, ne_eq, or_assoc]

section
variable {s u : State} {qid i : Nat} {q : Queue} {e : Entry} (hr : s.Runs qid i q e)
include hr

theorem exec_copy_badFields (h : ¬ e.CopyFields) : exec .copy s = .next (s.entryEnd qid i 2) := by
  change execCopy s = _
  refine (State.command_of_runs hr _).trans (congrArg _ ?_)
  exact if_pos (e.not_copyFields_iff.1 h)

theorem exec_copy (h : e.CopyFields) : exec .copy s = .next (s.sched (s.clk.now + 520) .copyComplete qid 3 i) := by
  change execCopy s = _
  refine (State.command_of_runs hr _).trans (congrArg _ ?_)
  exact if_neg (mt e.not_copyFields_iff.2 (not_not.2 h))

theorem exec_waitTimeout : exec .waitTimeout s = .next (s.entryEnd qid i 5) := by
  change execWaitTimeout s = _
  exact State.command_of_runs hr _

end

/-! A SIGNAL, whichever value it writes. -/

section
variable (s : State) (qid i : Nat) (q : Queue) (e : Entry) (ev : Instr) (f : Nat → Nat)

theorem State.doSignal_seen (h : s.clk.subj.c = 1) : s.doSignal qid i q e ev f = s.entryEnd qid i 0 := if_pos h

theorem State.doSignal_badFields (h : s.clk.subj.c ≠ 1) (hf : ¬ e.SignalFields) : s.doSignal qid i q e ev f = s.entryEnd qid i 2 :=
  (if_neg h).trans (if_pos (e.not_signalFields_iff.1 hf))

end

section
variable {s u : State} {qid i : Nat} {q : Queue} {e : Entry}

theorem State.doSignal_store (f : Nat → Nat) (h : s.clk.subj.c ≠ 1) (hf : e.SignalFields) (hu : s.gateAll q [(.write, e.addr 0x10, 8)] = (.ok, u)) :
    s.doSignal qid i q e .signalStore f =
      ((u.vwrite q.ctx (e.addr 0x10) (toBytes 8 (f (ofBytes (u.bytesAt q.ctx (e.addr 0x10) 8)) % 2 ^ 64))).1.sched
        (u.writeTime q.ctx (e.addr 0x10) 8) .signalStore qid i 1) := by
  refine (if_neg h).trans ((if_neg (mt e.not_signalFields_iff.2 (not_not.2 hf))).trans ?_)
  rw [if_neg (by decide), State.withBuffers_ok hu]
  rfl

/-- An addition applies where the block of its word is not poisoned (R272). -/
theorem State.doSignal_add (f : Nat → Nat) (h : s.clk.subj.c ≠ 1) (hf : e.SignalFields) (hu : s.gateAll q [(.atomic, e.addr 0x10, 8)] = (.ok, u))
    {leaf : DWord} {size b : Nat} (ha : u.access q.ctx .atomic (e.addr 0x10) = .ok (leaf, size, b)) :
    s.doSignal qid i q e .signalAdd f = (if poisoned (u.descOf (b / 64)) then u
      else (u.vwrite q.ctx (e.addr 0x10) (toBytes 8 (f (ofBytes (u.bytesAt q.ctx (e.addr 0x10) 8)) % 2 ^ 64))).1).sched
        (u.writeTime q.ctx (e.addr 0x10) 8) .signalAdd qid i 1 := by
  refine (if_neg h).trans ((if_neg (mt e.not_signalFields_iff.2 (not_not.2 hf))).trans ?_)
  rw [if_pos rfl, State.withBuffers_ok hu]
  simp only [ha, beq_self_eq_true, Bool.true_and]

end

section
variable {s u : State} {qid i : Nat} {q : Queue} {e : Entry} (hr : s.Runs qid i q e)
include hr

theorem exec_signalStore : exec .signalStore s = .next (s.doSignal qid i q e .signalStore (fun _ => e.num 0x18 8)) := by
  change execSignalStore s = _
  exact State.command_of_runs hr _

theorem exec_signalAdd : exec .signalAdd s = .next (s.doSignal qid i q e .signalAdd (fun old => old + e.num 0x18 8)) := by
  change execSignalAdd s = _
  exact State.command_of_runs hr _

theorem exec_wait_badFields (h : ¬ e.WaitFields) : exec .wait s = .next (s.entryEnd qid i 2) := by
  change execWait s = _
  refine (State.command_of_runs hr _).trans (congrArg _ ?_)
  exact if_pos (e.not_waitFields_iff.1 h)

end

/-- A WAIT that has been looked at, with its timeout armed where it has one and this is the first look. -/
def State.waitArmed (s : State) (qid i : Nat) (e : Entry) : State :=
  let stays := s.modEntry qid i (fun e => { e with prog := 1 })
  if e.num 0x24 4 = 0 ∨ e.prog = 1 then stays else stays.sched (e.started.getD s.clk.now + e.num 0x24 4) .waitTimeout qid i

/-- The condition of a WAIT on the value of its word (R62). -/
def Entry.Holds (e : Entry) (v : Nat) : Prop :=
  e.num 0x20 1 = 0 ∧ v = e.num 0x18 8 ∨ e.num 0x20 1 = 1 ∧ v ≠ e.num 0x18 8 ∨ e.num 0x20 1 = 2 ∧ e.num 0x18 8 ≤ v

theorem State.waitHolds_iff {u : State} {q : Queue} {e : Entry} {bs : List Byte} (hf : e.WaitFields) (hv : u.vread q.ctx (e.addr 0x10) 8 = .ok bs) :
    u.waitHolds q e = some true ↔ e.Holds (ofBytes bs) := by
  obtain ⟨-, -, hn, -⟩ := hf
  have hc : e.num 0x20 1 = 0 ∨ e.num 0x20 1 = 1 ∨ e.num 0x20 1 = 2 := by omega
  rcases hc with h | h | h <;> simp [State.waitHolds, Entry.Holds, hv, h]

section
variable {s u : State} {qid i : Nat} {q : Queue} {e : Entry} {bs : List Byte} (hr : s.Runs qid i q e) (hf : e.WaitFields)
variable (hu : (s.waitArmed qid i e).gateAll q [(.read, e.addr 0x10, 8)] = (.ok, u))
include hr hf hu

theorem exec_wait : exec .wait s = .next (if u.waitHolds q e = some true then u.entryEnd qid i 0 else u) := by
  change execWait s = _
  refine (State.command_of_runs hr _).trans (congrArg _ ?_)
  refine (if_neg (mt e.not_waitFields_iff.2 (not_not.2 hf))).trans ?_
  exact State.withBuffers_ok hu

variable (hv : u.vread q.ctx (e.addr 0x10) 8 = .ok bs)
include hv

theorem exec_wait_holds (h : e.Holds (ofBytes bs)) : exec .wait s = .next (u.entryEnd qid i 0) :=
  (exec_wait hr hf hu).trans (congrArg _ (if_pos ((State.waitHolds_iff hf hv).2 h)))

theorem exec_wait_stays (h : ¬ e.Holds (ofBytes bs)) : exec .wait s = .next u :=
  (exec_wait hr hf hu).trans (congrArg _ (if_neg (mt (State.waitHolds_iff hf hv).1 h)))

end

/-! ## The statement -/

/-- Settles O56: reading by what the slot holds, the end of an entry by its signal, each command by its fields and what it reads. -/
theorem commands : Obligations.Commands := by
  unfold Obligations.Commands
  refine ⟨fun s qid q ha hq => ⟨exec_entryReread_stale ha, ?read, exec_mirrorWrite_none ha hq, fun hm u => ?mirror⟩, ?ends, exec_commandBounce,
    fun s l => exec_launchComplete, fun s qid i q e ha hb he => ?command⟩
  case read =>
    intro hs hd hw again hb ev n
    have hx : exec ev s = .next (s.readEntry qid again) := exec_readEvent ha hb
    rw [hx]
    refine ⟨fun t u h => congrArg _ (State.readEntry_later again hq hs hd hw h), fun bs u h => congrArg _ (State.readEntry_copied again hq hs hd hw h),
      fun u h hn => congrArg _ (State.readEntry_reread again hq hs hd hw h hn), fun u h hn => congrArg _ (State.readEntry_stops again hq hs hd hw h hn)⟩
  case mirror =>
    exact ⟨exec_mirrorWrite_written ha hq hm, fun c a => exec_mirrorWrite_failed ha hq hm, fun t => exec_mirrorWrite_later ha hq hm⟩
  case ends =>
    intro s qid i st q e d he gone
    refine ⟨State.entryEnd_unsigned he st d, fun hs ha u => ⟨State.entryEnd_written he st d hs ha, fun c a => State.entryEnd_dropped he st d hs ha,
      fun t h => (State.entryEnd_later he st d hs ha h).trans ?_⟩⟩
    cases d <;> rfl
  case command =>
    refine ⟨exec_commandRestart_signal ha hb he, exec_commandRestart_start ha hb he, exec_commandRestart_task ha hb he, fun hd hs => ?_⟩
    have hr : s.Runs qid i q e := ⟨ha, hb, he, hd, hs⟩
    refine ⟨exec_waitTimeout hr, ⟨exec_launch_badFields hr, ?launch⟩, ⟨exec_task_badFields hr, ?task⟩, ⟨exec_copy_badFields hr, exec_copy hr⟩, ?seen, ?signal,
      exec_wait_badFields hr, fun u bs hf hu hv => ⟨exec_wait_holds hr hf hu hv, exec_wait_stays hr hf hu hv⟩⟩
    case launch =>
      intro o u v ext wid params t hf ho hu k pc ptab h rows hpc z1 z2 hh hv hp hl
      exact ⟨exec_launch hr hf ⟨ho, hu, rfl, rfl, rows, hpc, ⟨z1, z2⟩, hh, hv, hp⟩ hl, State.startLaunch_ok hl⟩
    case task =>
      intro u hf h0 hu die rs sound
      exact ⟨exec_task_unsound hr hf h0 hu, exec_task_noRoom hr hf h0 hu, exec_task_accepted hr hf h0 hu⟩
    case seen =>
      intro h
      exact ⟨(exec_signalStore hr).trans (congrArg _ (State.doSignal_seen _ _ _ _ _ _ _ h)),
        (exec_signalAdd hr).trans (congrArg _ (State.doSignal_seen _ _ _ _ _ _ _ h))⟩
    case signal =>
      intro h fields
      refine ⟨fun hf => ⟨(exec_signalStore hr).trans (congrArg _ (State.doSignal_badFields _ _ _ _ _ _ _ h hf)),
          (exec_signalAdd hr).trans (congrArg _ (State.doSignal_badFields _ _ _ _ _ _ _ h hf))⟩,
        fun u hf hu => (exec_signalStore hr).trans (congrArg _ (State.doSignal_store _ h hf hu)), fun u leaf size b hf hu ha => ?_⟩
      have hx := (exec_signalAdd hr).trans (congrArg _ (State.doSignal_add (fun old => old + e.num 0x18 8) h hf hu ha))
      exact ⟨fun hp => hx.trans (by rw [if_pos hp]), fun hp => hx.trans (by rw [hp, if_neg Bool.false_ne_true])⟩

end Sys2Proof.Machine
end

section
/-! SUPPORT. The MAP and MGMT commands of a queue: one equation per case of each, and the statement that they settle. -/

namespace Sys2Proof.Machine

/-! ## MAP of kinds 0 and 1: translations are installed and removed (R72, R93, R95) -/

/-- The fields that every MAP has keep their ranges. -/
def Entry.MapFields (e : Entry) : Prop := zeroAt e.bytes 0x2E 18 = true ∧ e.num 0x2D 1 ≤ 3

theorem Entry.mapOk_iff (e : Entry) : e.mapOk = true ↔ e.MapFields := by
  simp only [Entry.mapOk, Entry.MapFields, Bool.and_eq_true, decide_eq_true_eq]

theorem mapStatus_eq_two (st : Nat) : mapStatus st = 2 ↔ st = 1 := by
  unfold mapStatus
  split
  · omega
  · split
    · simpa
    · split <;> omega

/-- What a MAP of kind 0 or 1 waits for when it comes again. -/
def State.mapAgain (s : State) : MapRes := ⟨s.clk.subj.c - 1, 0, s.clk.subj.d % 2 ^ 48, s.clk.subj.d / 2 ^ 48⟩

section
variable {s : State} {qid i : Nat} {q : Queue} {e : Entry}

theorem State.cmdMapEnd_waits {ctx : Nat} {ev : Instr} {r : MapRes} (h : r.wait ≠ 0 ∧ s.inFlight ctx r.page r.wait = true) :
    s.cmdMapEnd qid i ctx ev r = s.sched (s.clk.now + 1) ev qid i (1 + r.status) (r.page + 2 ^ 48 * r.wait) := if_pos h

theorem State.cmdMapEnd_ends {ctx : Nat} {ev : Instr} {r : MapRes} (h : ¬ (r.wait ≠ 0 ∧ s.inFlight ctx r.page r.wait = true)) :
    s.cmdMapEnd qid i ctx ev r = s.entryEnd qid i (mapStatus r.status) := if_neg h

variable (hr : s.Runs qid i q e)
include hr

theorem exec_mapInstall_again (hc : s.clk.subj.c ≠ 0) : exec .mapInstall s = .next (s.cmdMapEnd qid i q.ctx .mapInstall s.mapAgain) := by
  change execMapInstall s = _
  refine (State.command_of_runs hr _).trans (congrArg _ ?_)
  exact if_pos hc

theorem exec_mapRemove_again (hc : s.clk.subj.c ≠ 0) : exec .mapRemove s = .next (s.cmdMapEnd qid i q.ctx .mapRemove s.mapAgain) := by
  change execMapRemove s = _
  refine (State.command_of_runs hr _).trans (congrArg _ ?_)
  exact if_pos hc

variable (hc : s.clk.subj.c = 0)
include hc

theorem exec_mapInstall_badFields (h : ¬ (e.MapFields ∧ e.num 0x18 8 % 65536 = 0 ∧ e.num 0x18 8 < 2 ^ 40)) :
    exec .mapInstall s = .next (s.entryEnd qid i 2) := by
  have bad : (!e.mapOk || e.num 0x18 8 % 65536 != 0 || decide (2 ^ 40 ≤ e.num 0x18 8)) = true := by
    simpa only [Bool.or_eq_true, Bool.not_eq_true', bne_iff_ne, decide_eq_true_eq, not_and_or, ← e.mapOk_iff, Bool.not_eq_true, not_lt, or_assoc] using h
  change execMapInstall s = _
  refine (State.command_of_runs hr _).trans (congrArg _ ?_)
  exact (if_neg (not_not.2 hc)).trans (if_pos bad)

/-- The template of a MAP of kind 0: ATTR with the PFN of PA. -/
def Entry.template (e : Entry) : DWord := (e.addr 0x20 &&& ~~~0xFFFFFF0000) ||| BitVec.ofNat 64 (e.num 0x18 8)

/-- A MAP of kind 0 whose fields keep their ranges ends as its MAPINS says; one that ends with BADFIELD has had no effect (R65). -/
theorem exec_mapInstall (hf : e.MapFields) (h1 : e.num 0x18 8 % 65536 = 0) (h2 : e.num 0x18 8 < 2 ^ 40) {r : MapRes × State}
    (h : s.doMapins q.ctx (e.num 0x10 8) e.template (e.num 0x28 4) (e.num 0x2C 1) = r) :
    exec .mapInstall s = .next (if r.1.status = 1 then s.entryEnd qid i 2 else r.2.cmdMapEnd qid i q.ctx .mapInstall r.1) := by
  have good : ¬ (!e.mapOk || e.num 0x18 8 % 65536 != 0 || decide (2 ^ 40 ≤ e.num 0x18 8)) = true := by
    simp only [e.mapOk_iff.2 hf, h1, decide_eq_false (Nat.not_le.2 h2), Bool.not_true, bne_self_eq_false, Bool.or_self, Bool.false_eq_true, not_false_eq_true]
  change execMapInstall s = _
  refine (State.command_of_runs hr _).trans (congrArg _ ((if_neg (not_not.2 hc)).trans ((if_neg good).trans ?_)))
  simp only [mapStatus_eq_two]
  exact congrArg (fun r : MapRes × State => if r.1.status = 1 then s.entryEnd qid i 2 else r.2.cmdMapEnd qid i q.ctx .mapInstall r.1) h

theorem exec_mapRemove_badFields (h : ¬ e.MapFields) : exec .mapRemove s = .next (s.entryEnd qid i 2) := by
  have bad : (!e.mapOk) = true := by rwa [Bool.not_eq_true', ← Bool.not_eq_true, e.mapOk_iff]
  change execMapRemove s = _
  refine (State.command_of_runs hr _).trans (congrArg _ ?_)
  exact (if_neg (not_not.2 hc)).trans (if_pos bad)

theorem exec_mapRemove (h : e.MapFields) {r : MapRes × State} (hm : s.doMaprem q.ctx (e.num 0x10 8) (e.num 0x28 4) (e.num 0x2C 1) = r) :
    exec .mapRemove s = .next (r.2.cmdMapEnd qid i q.ctx .mapRemove r.1) := by
  have good : ¬ (!e.mapOk) = true := by rw [e.mapOk_iff.2 h]; exact Bool.false_ne_true
  change execMapRemove s = _
  refine (State.command_of_runs hr _).trans (congrArg _ ((if_neg (not_not.2 hc)).trans ((if_neg good).trans ?_)))
  exact congrArg (fun r : MapRes × State => r.2.cmdMapEnd qid i q.ctx .mapRemove r.1) hm

end

/-! ## MAP of kinds 2 and 3: pages change hands (R72, R73, R104) -/

/-- The size of the pages of a MAP in bytes. -/
def Entry.pageLen (e : Entry) : Nat := pageBytes (e.num 0x2C 1)

/-- The address of the `j`-th page of a MAP. -/
def Entry.pageVa (e : Entry) (j : Nat) : Nat := e.num 0x10 8 + j * e.pageLen

/-- The leaf that a MAP of kind 2 keeps in its subject. -/
def State.givenLeaf (s : State) : DWord := BitVec.ofNat 64 s.clk.subj.d

/-- A MAP of kind 2 or 3 begins, and a page of its range is lost (R65). -/
def State.MapLost (s : State) (q : Queue) (e : Entry) : Prop :=
  s.clk.subj.c = 0 ∧ s.anyLost q.ctx (e.num 0x10 8) (e.num 0x2C 1) (e.num 0x28 4) = true

theorem State.mapLost_iff {s : State} (q : Queue) (e : Entry) {j : Nat} (hj : s.clk.subj.c = 0 → j = 0) :
    (s.clk.subj.c = 0 ∧ s.anyLost q.ctx (e.num 0x10 8 + j * pageBytes (e.num 0x2C 1)) (e.num 0x2C 1) (e.num 0x28 4) = true) ↔ s.MapLost q e := by
  refine and_congr_right fun hc => ?_
  rw [hj hc, Nat.zero_mul, Nat.add_zero]

theorem State.giveLost_iff {s : State} (q : Queue) (e : Entry) :
    (s.clk.subj.c = 0 ∧ s.anyLost q.ctx (e.num 0x10 8 + s.clk.subj.c / 3 * pageBytes (e.num 0x2C 1)) (e.num 0x2C 1) (e.num 0x28 4) = true) ↔ s.MapLost q e :=
  State.mapLost_iff q e fun h => by omega

theorem State.takeLost_iff {s : State} (q : Queue) (e : Entry) :
    (s.clk.subj.c = 0 ∧ s.anyLost q.ctx (e.num 0x10 8 + s.clk.subj.c * pageBytes (e.num 0x2C 1)) (e.num 0x2C 1) (e.num 0x28 4) = true) ↔ s.MapLost q e :=
  State.mapLost_iff q e id

theorem State.not_mapLost {s : State} {q : Queue} {e : Entry} (h : s.clk.subj.c ≠ 0) : ¬ s.MapLost q e := fun hl => h hl.1

section
variable {s : State} {qid i : Nat} {q : Queue} {e : Entry} (hr : s.Runs qid i q e)
include hr

theorem exec_mapGive_badFields (h : e.shareOk = false) : exec .mapGiveToHost s = .next (s.entryEnd qid i 2) := by
  change execMapGiveToHost s = _
  refine (State.command_of_runs hr _).trans (congrArg _ ?_)
  exact if_pos (by rw [h]; rfl)

theorem exec_mapTake_badFields (h : e.shareOk = false) : exec .mapTakeFromHost s = .next (s.entryEnd qid i 2) := by
  change execMapTakeFromHost s = _
  refine (State.command_of_runs hr _).trans (congrArg _ ?_)
  exact if_pos (by rw [h]; rfl)

variable (ho : e.shareOk = true)
include ho

theorem exec_mapGive_lost (h : s.MapLost q e) : exec .mapGiveToHost s = .next (s.entryEnd qid i 8) := by
  have hl := (State.giveLost_iff q e).2 h
  change execMapGiveToHost s = _
  refine (State.command_of_runs hr _).trans (congrArg _ ?_)
  simp only [ho, Bool.not_true, Bool.false_eq_true, if_false, if_pos hl]

theorem exec_mapTake_lost (h : s.MapLost q e) : exec .mapTakeFromHost s = .next (s.entryEnd qid i 8) := by
  have hl := (State.takeLost_iff q e).2 h
  change execMapTakeFromHost s = _
  refine (State.command_of_runs hr _).trans (congrArg _ ?_)
  simp only [ho, Bool.not_true, Bool.false_eq_true, if_false, if_pos hl]

section
variable (hn : ¬ s.MapLost q e)
include hn

theorem exec_mapGive_over (h : e.num 0x28 4 ≤ s.clk.subj.c / 3) : exec .mapGiveToHost s = .next (s.entryEnd qid i 0) := by
  have hl := mt (State.giveLost_iff q e).1 hn
  change execMapGiveToHost s = _
  refine (State.command_of_runs hr _).trans (congrArg _ ?_)
  simp only [ho, Bool.not_true, Bool.false_eq_true, if_false, if_neg hl, if_pos h]

theorem exec_mapTake_over (h : e.num 0x28 4 ≤ s.clk.subj.c) : exec .mapTakeFromHost s = .next (s.entryEnd qid i 0) := by
  have hl := mt (State.takeLost_iff q e).1 hn
  change execMapTakeFromHost s = _
  refine (State.command_of_runs hr _).trans (congrArg _ ?_)
  simp only [ho, Bool.not_true, Bool.false_eq_true, if_false, if_neg hl, if_pos h]

end

/-! A page is pulled. -/

section
variable (hn : ¬ s.MapLost q e) (hc : s.clk.subj.c < e.num 0x28 4)
include hn hc

theorem exec_mapTake_noLeaf {st : Nat} (h : s.sharedLeaf q.ctx (e.pageVa s.clk.subj.c) (e.num 0x2C 1) = .error st) :
    exec .mapTakeFromHost s = .next (s.entryEnd qid i st) := by
  have hl := mt (State.takeLost_iff q e).1 hn
  unfold Entry.pageVa Entry.pageLen at h
  change execMapTakeFromHost s = _
  refine (State.command_of_runs hr _).trans (congrArg _ ?_)
  simp only [ho, Bool.not_true, Bool.false_eq_true, if_false, if_neg hl, if_neg (Nat.not_le.2 hc), h]

variable {a : Nat} {l : DWord} (h : s.sharedLeaf q.ctx (e.pageVa s.clk.subj.c) (e.num 0x2C 1) = .ok (a, l))
include h

/-- A page that the host owns is pulled, and looked at again; any other is passed over. -/
theorem exec_mapTake_page : exec .mapTakeFromHost s = .next (
    if leafHown l then (s.startPull q.ctx (pageOf (e.pageVa s.clk.subj.c))).sched (s.clk.now + 3000) .mapTakeFromHost qid i s.clk.subj.c
    else s.sched s.clk.now .mapTakeFromHost qid i (s.clk.subj.c + 1)) := by
  have hl := mt (State.takeLost_iff q e).1 hn
  unfold Entry.pageVa Entry.pageLen at h ⊢
  change execMapTakeFromHost s = _
  refine (State.command_of_runs hr _).trans (congrArg _ ?_)
  simp only [ho, Bool.not_true, Bool.false_eq_true, if_false, if_neg hl, if_neg (Nat.not_le.2 hc), h]

end

/-! A page is given to the host, in three steps. -/

section
variable (hc : s.clk.subj.c / 3 < e.num 0x28 4)
include hc

section
variable (hn : ¬ s.MapLost q e) (h0 : s.clk.subj.c % 3 = 0)
include hn h0

theorem exec_mapGive_noLeaf {st : Nat} (h : s.sharedLeaf q.ctx (e.pageVa (s.clk.subj.c / 3)) (e.num 0x2C 1) = .error st) :
    exec .mapGiveToHost s = .next (s.entryEnd qid i st) := by
  have hl := mt (State.giveLost_iff q e).1 hn
  unfold Entry.pageVa Entry.pageLen at h
  change execMapGiveToHost s = _
  refine (State.command_of_runs hr _).trans (congrArg _ ?_)
  simp only [ho, Bool.not_true, Bool.false_eq_true, if_false, if_neg hl, if_neg (Nat.not_le.2 hc), if_pos h0, h]

/-- The translation of a page is removed; a page that the host owns already is passed over. -/
theorem exec_mapGive_remove {a : Nat} {l : DWord} (h : s.sharedLeaf q.ctx (e.pageVa (s.clk.subj.c / 3)) (e.num 0x2C 1) = .ok (a, l)) :
    exec .mapGiveToHost s = .next (
      if leafHown l then s.sched s.clk.now .mapGiveToHost qid i (s.clk.subj.c + 3)
      else (((s.tableWrite a 0).invalidate q.ctx (pageOf (e.pageVa (s.clk.subj.c / 3))) (e.pageLen / 65536)).watchPage q.ctx
        (e.pageVa (s.clk.subj.c / 3)) e.pageLen).sched s.clk.now .mapGiveToHost qid i (s.clk.subj.c + 1) l.toNat) := by
  have hl := mt (State.giveLost_iff q e).1 hn
  unfold Entry.pageVa Entry.pageLen at h ⊢
  change execMapGiveToHost s = _
  refine (State.command_of_runs hr _).trans (congrArg _ ?_)
  simp only [ho, Bool.not_true, Bool.false_eq_true, if_false, if_neg hl, if_neg (Nat.not_le.2 hc), if_pos h0, h]

end

/-- Requests under way and leases end, and then the page is pushed to the host. -/
theorem exec_mapGive_push (h1 : s.clk.subj.c % 3 = 1) :
    let quiet := s.quietTime (leafPfn s.givenLeaf * 65536) e.pageLen
    exec .mapGiveToHost s = .next (
      if s.inFlight q.ctx (pageOf (e.pageVa (s.clk.subj.c / 3))) (e.pageLen / 65536) then
        s.sched (s.clk.now + 1) .mapGiveToHost qid i s.clk.subj.c s.givenLeaf.toNat
      else if s.clk.now < quiet then s.sched quiet .mapGiveToHost qid i s.clk.subj.c s.givenLeaf.toNat
      else (s.reply (2 ^ 33 + q.ctx) 5 (toBytes 8 (e.pageVa (s.clk.subj.c / 3)) ++ s.stored (leafPfn s.givenLeaf * 65536) e.pageLen)).sched
        (s.clk.now + 3000) .mapGiveToHost qid i (s.clk.subj.c + 1) s.givenLeaf.toNat) := by
  have hl := mt (State.giveLost_iff (s := s) q e).1 (State.not_mapLost (by omega))
  change execMapGiveToHost s = _
  refine (State.command_of_runs hr _).trans (congrArg _ ?_)
  simp only [ho, Bool.not_true, Bool.false_eq_true, if_false, if_neg hl, if_neg (Nat.not_le.2 hc), if_neg (show ¬ s.clk.subj.c % 3 = 0 by omega), if_pos h1]
  rfl

/-- The page has arrived at the host and belongs to it. -/
theorem exec_mapGive_arrived {a : Nat} (h2 : s.clk.subj.c % 3 = 2) (ha : s.pteAddr q.ctx (e.pageVa (s.clk.subj.c / 3)) = some a) :
    let from_ := leafPfn s.givenLeaf * 65536
    let u := s.tableWrite a (s.givenLeaf ||| 0x200)
    exec .mapGiveToHost s = .next (((({ u with mem := { u.mem with slices := u.mem.slices.filter (fun y =>
      decide (¬ (y.tenant = q.ctx ∧ from_ ≤ y.loc * 64 ∧ y.loc * 64 < from_ + e.pageLen))) } } : State).wakePages q.ctx
        (pageOf (e.pageVa (s.clk.subj.c / 3))) (e.pageLen / 65536) 0x0102).sched s.clk.now .mapGiveToHost qid i (s.clk.subj.c + 1))) := by
  have hl := mt (State.giveLost_iff (s := s) q e).1 (State.not_mapLost (by omega))
  unfold Entry.pageVa Entry.pageLen at ha ⊢
  change execMapGiveToHost s = _
  refine (State.command_of_runs hr _).trans (congrArg _ ?_)
  simp only [ho, Bool.not_true, Bool.false_eq_true, if_false, if_neg hl, if_neg (Nat.not_le.2 hc), if_neg (show ¬ s.clk.subj.c % 3 = 0 by omega),
    if_neg (show ¬ s.clk.subj.c % 3 = 1 by omega), ha, decide_not, Bool.decide_and, beq_eq_decide]
  rfl

end

end

/-! ## Management commands (R69) -/

section
variable {s u : State} {qid i : Nat} {q : Queue} {e : Entry} (hr : s.Runs qid i q e)

theorem State.writeResult_seen (hc : s.clk.subj.c = 1) (ev : Instr) (at_ : DWord) (bs : List Byte) :
    s.writeResult qid i q ev at_ bs = s.entryEnd qid i 0 := if_pos hc

theorem State.writeResult_written (hc : s.clk.subj.c ≠ 1) {ev : Instr} {at_ : DWord} {bs : List Byte}
    (hu : s.gateAll q [(.write, at_, bs.length)] = (.ok, u)) :
    s.writeResult qid i q ev at_ bs = (u.vwrite q.ctx at_ bs).1.sched (u.writeTime q.ctx at_ bs.length) ev qid i 1 :=
  (if_neg hc).trans (State.withBuffers_ok hu)

include hr

theorem exec_mgmtUnassigned : exec .mgmtUnassigned s = .next (s.entryEnd qid i 1) := by
  change execMgmtUnassigned s = _
  exact State.command_of_runs hr _

variable (hz : zeroAt e.bytes 0x12 6 = true)
include hz

theorem State.manage_any (f : Nat → Nat → Queue → Entry → State) : s.manage false f = .next (f qid i q e) := by
  refine (State.command_of_runs hr _).trans (congrArg _ ?_)
  exact (if_neg (by rw [hz]; exact Bool.false_ne_true)).trans (if_neg fun h => Bool.false_ne_true h.1)

/-- A management command that only context 0 may give. -/
theorem State.manage_context0 (hc : q.ctx = 0) (f : Nat → Nat → Queue → Entry → State) : s.manage true f = .next (f qid i q e) := by
  refine (State.command_of_runs hr _).trans (congrArg _ ?_)
  exact (if_neg (by rw [hz]; exact Bool.false_ne_true)).trans (if_neg fun h => h.2 hc)

theorem State.manage_denied (hc : q.ctx ≠ 0) (f : Nat → Nat → Queue → Entry → State) : s.manage true f = .next (s.entryEnd qid i 7) := by
  refine (State.command_of_runs hr _).trans (congrArg _ ?_)
  exact (if_neg (by rw [hz]; exact Bool.false_ne_true)).trans (if_pos ⟨rfl, hc⟩)

/-- What ATTEST signs (R76). -/
def State.attested (s : State) (q : Queue) (e : Entry) : List Byte :=
  (e.bytes.drop 0x20).take 32 ++ s.adm.fwHash ++ s.adm.cfgHash ++ toBytes 8 s.clk.now ++ toBytes 1 q.ctx ++ List.replicate 23 0

theorem exec_status : exec .status s = .next (s.writeResult qid i q .status (e.addr 0x18) (openRecord 0 s.statusNums)) := by
  change execStatus s = _
  exact State.manage_any hr hz _

theorem exec_monitors : exec .monitors s = .next (s.writeResult qid i q .monitors (e.addr 0x18) (openRecord 1 s.monitorNums)) := by
  change execMonitors s = _
  exact State.manage_any hr hz _

theorem exec_attest : exec .attest s =
    .next (s.writeResult qid i q .attest (e.addr 0x18) (s.attested q e ++ edSign Config.identitySeed (s.attested q e))) := by
  change execAttest s = _
  exact State.manage_any hr hz _

/-! What only context 0 may give. -/

theorem exec_context0_denied (hc : q.ctx ≠ 0) : ∀ ev ∈ [Instr.ctxbind, .ctxreset, .flashwrite, .flashverify], exec ev s = .next (s.entryEnd qid i 7) := by
  intro ev h
  simp only [List.mem_cons, List.not_mem_nil, or_false] at h
  rcases h with rfl | rfl | rfl | rfl
  · change execCtxbind s = _
    exact State.manage_denied hr hz hc _
  · change execCtxreset s = _
    exact State.manage_denied hr hz hc _
  · change execFlashwrite s = _
    exact State.manage_denied hr hz hc _
  · change execFlashverify s = _
    exact State.manage_denied hr hz hc _

theorem exec_modreset_denied (h1 : s.clk.subj.c ≠ 1) (hc : q.ctx ≠ 0) : exec .modreset s = .next (s.entryEnd qid i 7) := by
  change execModreset s = _
  exact (if_neg h1).trans (State.manage_denied hr hz hc _)

theorem exec_modreset_signals (h1 : s.clk.subj.c ≠ 1) (hc : q.ctx = 0) :
    exec .modreset s = .next ((s.entryEnd qid i 0).sched (s.clk.now + 1) .modreset qid i 1) := by
  change execModreset s = _
  exact (if_neg h1).trans (State.manage_context0 hr hz hc _)

end

/-! ## MODRESET behind its signal (R75) -/

section
variable {s : State} (h1 : s.clk.subj.c = 1)
include h1

theorem exec_modreset_waits {qid i : Nat} {q : Queue} {e : Entry} (hr : s.Runs qid i q e) :
    exec .modreset s = .next (s.sched (s.clk.now + 1) .modreset qid i 1) := by
  obtain ⟨rfl, rfl, he, -, -⟩ := hr
  change execModreset s = _
  simp only [execModreset, h1, if_true, he, Option.isSome_some]

theorem exec_modreset_resets (he : s.entry? s.clk.subj.a s.clk.subj.b = none) : exec .modreset s = .next (s.sched s.clk.now .moduleReset 0) := by
  change execModreset s = _
  simp only [execModreset, h1, if_true, he, Option.isSome_none, Bool.false_eq_true, if_false]

end

/-! ## QCREATE (R56, R69) -/

/-- The queue that a QCREATE names can be made: its number is free, its fields keep their ranges, its context has fewer than 64. -/
def State.QueueOk (s : State) (e : Entry) : Prop :=
  e.num 0x38 2 ≤ 1023 ∧ s.queue? (e.num 0x38 2) = none ∧ 4 ≤ e.num 0x3A 1 ∧ e.num 0x3A 1 ≤ 12 ∧ e.num 0x3B 1 ≤ 3 ∧ e.num 0x3C 1 ≤ 63 ∧
    e.num 0x20 8 % (64 * 2 ^ e.num 0x3A 1) = 0 ∧ e.num 0x28 8 % 4 = 0 ∧ e.num 0x30 8 % 16 = 0 ∧
    (s.adm.queues.filter (fun y => y.2.ctx == e.num 0x3C 1)).length < 64

theorem State.not_queueOk_iff (s : State) (e : Entry) : ¬ s.QueueOk e ↔
    1023 < e.num 0x38 2 ∨ (s.queue? (e.num 0x38 2)).isSome = true ∨ e.num 0x3A 1 < 4 ∨ 12 < e.num 0x3A 1 ∨ 3 < e.num 0x3B 1 ∨ 63 < e.num 0x3C 1 ∨
      e.num 0x20 8 % (64 * 2 ^ e.num 0x3A 1) ≠ 0 ∨ e.num 0x28 8 % 4 ≠ 0 ∨ e.num 0x30 8 % 16 ≠ 0 ∨
      64 ≤ (s.adm.queues.filter (fun y => y.2.ctx == e.num 0x3C 1)).length := by
  simp only [State.QueueOk, not_and_or, not_le, not_lt, ne_eq, ← Option.isSome_iff_ne_none]

/-- The queue that a QCREATE makes. -/
def Entry.newQueue (e : Entry) : Queue := ⟨e.num 0x3C 1, e.addr 0x20, e.num 0x3A 1, 0, 0, e.num 0x3B 1, e.addr 0x28, e.addr 0x30, false, 0, 0, none, false, []⟩

section
variable {s : State} {qid i : Nat} {q : Queue} {e : Entry} (hr : s.Runs qid i q e) (hz : zeroAt e.bytes 0x12 6 = true)
include hr hz

theorem exec_qcreate_badZeros (h : zeroAt e.bytes 0x3D 3 = false) : exec .qcreate s = .next (s.entryEnd qid i 2) := by
  change execQcreate s = _
  refine (State.manage_any hr hz _).trans (congrArg _ ?_)
  exact if_pos (by rw [h]; rfl)

variable (h3 : zeroAt e.bytes 0x3D 3 = true)
include h3

theorem exec_qcreate_denied (h0 : q.ctx ≠ 0) (h : e.num 0x3C 1 ≠ q.ctx) : exec .qcreate s = .next (s.entryEnd qid i 7) := by
  change execQcreate s = _
  refine (State.manage_any hr hz _).trans (congrArg _ ?_)
  exact (if_neg (by rw [h3]; exact Bool.false_ne_true)).trans (if_pos ⟨h0, h⟩)

variable (hc : q.ctx = 0 ∨ e.num 0x3C 1 = q.ctx)
include hc

theorem exec_qcreate_badField (h : ¬ s.QueueOk e) : exec .qcreate s = .next (s.entryEnd qid i 2) := by
  change execQcreate s = _
  refine (State.manage_any hr hz _).trans (congrArg _ ?_)
  exact (if_neg (by rw [h3]; exact Bool.false_ne_true)).trans ((if_neg fun h => hc.elim h.1 h.2).trans (if_pos ((s.not_queueOk_iff e).1 h)))

variable (hk : s.QueueOk e)
include hk

theorem exec_qcreate_noPage (h : ∀ lf sz, s.leafOf (e.num 0x3C 1) (ptrVa (e.addr 0x20)) ≠ .leaf lf sz) : exec .qcreate s = .next (s.entryEnd qid i 4) := by
  change execQcreate s = _
  refine (State.manage_any hr hz _).trans (congrArg _ ?_)
  refine (if_neg (by rw [h3]; exact Bool.false_ne_true)).trans ((if_neg fun h => hc.elim h.1 h.2).trans ((if_neg (mt (s.not_queueOk_iff e).2 (not_not.2 hk))).trans ?_))
  split
  · exact absurd ‹_› (h _ _)
  · rfl

theorem exec_qcreate {lf : DWord} {sz : Nat} (h : s.leafOf (e.num 0x3C 1) (ptrVa (e.addr 0x20)) = .leaf lf sz) : exec .qcreate s =
    .next (({ s with adm := { s.adm with queues := mput (e.num 0x38 2) e.newQueue s.adm.queues } } : State).entryEnd qid i 0) := by
  change execQcreate s = _
  refine (State.manage_any hr hz _).trans (congrArg _ ?_)
  refine (if_neg (by rw [h3]; exact Bool.false_ne_true)).trans ((if_neg fun h => hc.elim h.1 h.2).trans ((if_neg (mt (s.not_queueOk_iff e).2 (not_not.2 hk))).trans ?_))
  simp only [h]
  rfl

end

/-! ## QDESTROY (R69) -/

/-- What a QDESTROY makes of its queue at once: of its entries, those that have started stay. -/
def Queue.destroyed (y : Queue) : Queue := { y with dying := true, entries := y.entries.filter (fun e => e.started.isSome) }

theorem State.modQueue_queue? {s : State} {t : Nat} {y : Queue} (h : s.queue? t = some y) (f : Queue → Queue) : (s.modQueue t f).queue? t = some (f y) := by
  have e : (s.modQueue t f).queue? t = mget t (mmod t f s.adm.queues) := rfl
  rw [e, mget_mmod, if_pos rfl, ← State.queue?, h]
  rfl

section
variable {s : State} {t qid i : Nat} {y : Queue} (hy : s.queue? t = some y)
include hy

theorem State.queueGone_empty (h : y.entries = []) : s.queueGone t qid i = { s with adm := { s.adm with queues := mdel t s.adm.queues } } := by
  simp only [State.queueGone, hy, if_pos h]

theorem State.queueGone_waits (h : y.entries ≠ []) : s.queueGone t qid i = s.sched (s.clk.now + 1) .qdestroy qid i 2 t := by
  simp only [State.queueGone, hy, if_neg h]

end

section
variable {s : State} {qid i : Nat} {q : Queue} {e : Entry} (hr : s.Runs qid i q e)
include hr

theorem exec_qdestroy_gone (h2 : s.clk.subj.c = 2) : exec .qdestroy s = .next (s.queueGone s.clk.subj.d qid i) := by
  obtain ⟨rfl, rfl, -, -, -⟩ := hr
  change execQdestroy s = _
  exact if_pos h2

variable (hz : zeroAt e.bytes 0x12 6 = true) (h2 : s.clk.subj.c ≠ 2)
include hz h2

theorem exec_qdestroy_none (h : s.queue? (e.num 0x38 2) = none) : exec .qdestroy s = .next (s.entryEnd qid i (if s.clk.subj.c = 1 then 0 else 2)) := by
  change execQdestroy s = _
  refine (if_neg h2).trans ((State.manage_any hr hz _).trans (congrArg _ ?_))
  simp only [h]

variable {y : Queue} (hy : s.queue? (e.num 0x38 2) = some y)
include hy

theorem exec_qdestroy_denied (h0 : q.ctx ≠ 0) (h : y.ctx ≠ q.ctx) : exec .qdestroy s = .next (s.entryEnd qid i 7) := by
  change execQdestroy s = _
  refine (if_neg h2).trans ((State.manage_any hr hz _).trans (congrArg _ ?_))
  simp only [hy, if_pos (And.intro h0 h)]

/-- A QDESTROY that its context may give: it ends once no other entry of the queue is left that has started. -/
theorem exec_qdestroy (hc : q.ctx = 0 ∨ y.ctx = q.ctx) :
    let u := s.modQueue (e.num 0x38 2) Queue.destroyed
    exec .qdestroy s = .next (
      if (y.entries.filter (fun e => e.started.isSome)).filter (fun x => !(e.num 0x38 2 == qid && x.idx == i)) = [] then
        (u.entryEnd qid i 0).queueGone (e.num 0x38 2) qid i
      else u.sched (s.clk.now + 1) .qdestroy qid i 1) := by
  change execQdestroy s = _
  refine (if_neg h2).trans ((State.manage_any hr hz _).trans (congrArg _ ?_))
  simp only [hy, if_neg (show ¬ (q.ctx ≠ 0 ∧ y.ctx ≠ q.ctx) from fun h => hc.elim h.1 h.2), State.modQueue_queue? hy, Option.map_some, Option.getD_some]
  rfl

end

/-! ## What context 0 gives: CTXBIND, CTXRESET, FLASHWRITE, FLASHVERIFY (R69, R70) -/

/-- CTXRESET: the context is stopped by its first event (R90, R139). -/
def State.ctxStopped (s : State) (e : Entry) (qid : Nat) : State := if s.clk.subj.c = 1 then s else s.ctxStop (e.num 0x3C 1) qid

/-- What a slot holds before a piece of an image is written to it. -/
def State.flashSlot (s : State) (e : Entry) : Slot := s.adm.flash.getD (e.num 0x2C 1) ⟨false, [], false⟩

/-- The fields of a FLASHWRITE keep their ranges, and its piece is the first of an image or follows it (R70). -/
def State.FlashOk (s : State) (e : Entry) : Prop :=
  e.num 0x28 4 ≠ 0 ∧ e.num 0x28 4 ≤ 57344 ∧ e.num 0x2C 1 ≤ 3 ∧ e.num 0x2D 1 ≤ 3 ∧ zeroAt e.bytes 0x2E 2 = true ∧ zeroAt e.bytes 0x38 8 = true ∧
    e.num 0x30 8 + e.num 0x28 4 ≤ slotCap (e.num 0x2C 1) ∧ (e.addr 0x20).toNat + e.num 0x28 4 ≤ 0x10000 ∧
    (flagAt e.bytes 0x2D 0 = true ∨ (s.flashSlot e).first = true)

theorem State.not_flashOk_iff (s : State) (e : Entry) : ¬ s.FlashOk e ↔
    e.num 0x28 4 = 0 ∨ 57344 < e.num 0x28 4 ∨ 3 < e.num 0x2C 1 ∨ 3 < e.num 0x2D 1 ∨ (!zeroAt e.bytes 0x2E 2) = true ∨ (!zeroAt e.bytes 0x38 8) = true ∨
      slotCap (e.num 0x2C 1) < e.num 0x30 8 + e.num 0x28 4 ∨ 0x10000 < (e.addr 0x20).toNat + e.num 0x28 4 ∨
      ((!flagAt e.bytes 0x2D 0) = true ∧ (!(s.flashSlot e).first) = true) := by
  simp only [State.FlashOk, not_and_or, not_or, not_le, not_not, ne_eq, Bool.not_eq_true, Bool.not_eq_true']

/-- The flash once the piece is written. -/
def State.flashed (s : State) (q : Queue) (e : Entry) : State :=
  let first := flagAt e.bytes 0x2D 0
  let piece := putFlash (if first then [] else (s.flashSlot e).bytes) (e.num 0x30 8) (s.bytesAt q.ctx (e.addr 0x20) (e.num 0x28 4))
  { s with adm := { s.adm with flash := lset s.adm.flash (e.num 0x2C 1) ⟨(s.flashSlot e).erased || first, piece, !flagAt e.bytes 0x2D 1⟩ } }

section
variable {s : State} {qid i : Nat} {q : Queue} {e : Entry} (hr : s.Runs qid i q e) (hz : zeroAt e.bytes 0x12 6 = true) (hc : q.ctx = 0)
include hr hz hc

theorem exec_ctxbind_badFields (h : e.num 0x18 1 = 0 ∨ 63 < e.num 0x18 1 ∨ zeroAt e.bytes 0x19 7 = false) :
    exec .ctxbind s = .next (s.entryEnd qid i 2) := by
  change execCtxbind s = _
  refine (State.manage_context0 hr hz hc _).trans (congrArg _ ?_)
  exact if_pos (h.imp_right fun h => h.imp_right fun h => by rw [h]; rfl)

theorem exec_ctxbind (h0 : e.num 0x18 1 ≠ 0) (h1 : e.num 0x18 1 ≤ 63) (h2 : zeroAt e.bytes 0x19 7 = true) : exec .ctxbind s =
    .next (({ s with adm := { s.adm with keys := mput (e.num 0x18 1) ((e.bytes.drop 0x20).take 32) s.adm.keys } } : State).entryEnd qid i 0) := by
  change execCtxbind s = _
  refine (State.manage_context0 hr hz hc _).trans (congrArg _ ?_)
  exact if_neg (by simp [h0, Nat.not_lt.2 h1, h2])

theorem exec_ctxreset_badField (h : 63 < e.num 0x3C 1) : exec .ctxreset s = .next (s.entryEnd qid i 2) := by
  change execCtxreset s = _
  refine (State.manage_context0 hr hz hc _).trans (congrArg _ ?_)
  exact if_pos h

section
variable (h : e.num 0x3C 1 ≤ 63)
include h

theorem exec_ctxreset_waits (ht : ∃ t ∈ (s.ctxStopped e qid).work.teams, t.2.ctx = e.num 0x3C 1) :
    exec .ctxreset s = .next ((s.ctxStopped e qid).sched (s.clk.now + 1) .ctxreset qid i 1) := by
  change execCtxreset s = _
  refine (State.manage_context0 hr hz hc _).trans (congrArg _ ?_)
  refine (if_neg (Nat.not_lt.2 h)).trans (if_pos ?_)
  obtain ⟨t, hm, he⟩ := ht
  exact List.any_eq_true.2 ⟨t, hm, beq_iff_eq.2 he⟩

theorem exec_ctxreset_ends (ht : ∀ t ∈ (s.ctxStopped e qid).work.teams, t.2.ctx ≠ e.num 0x3C 1) :
    exec .ctxreset s = .next ((((s.ctxStopped e qid).dropLaunches (e.num 0x3C 1) qid).ctxClear (e.num 0x3C 1)).entryEnd qid i 0) := by
  change execCtxreset s = _
  refine (State.manage_context0 hr hz hc _).trans (congrArg _ ?_)
  refine (if_neg (Nat.not_lt.2 h)).trans (if_neg fun ha => ?_)
  obtain ⟨t, hm, he⟩ := List.any_eq_true.1 ha
  exact ht t hm (beq_iff_eq.1 he)

end

theorem exec_flashwrite_badFields (h : ¬ s.FlashOk e) : exec .flashwrite s = .next (s.entryEnd qid i 2) := by
  change execFlashwrite s = _
  refine (State.manage_context0 hr hz hc _).trans (congrArg _ ?_)
  exact if_pos ((s.not_flashOk_iff e).1 h)

/-- A piece of an image is written; behind the last one the slot is checked. -/
theorem exec_flashwrite (h : s.FlashOk e) : exec .flashwrite s = .next ((s.flashed q e).entryEnd qid i
    (if flagAt e.bytes 0x2D 1 && !(s.flashed q e).slotValid (e.num 0x2C 1) then 2 else 0)) := by
  change execFlashwrite s = _
  refine (State.manage_context0 hr hz hc _).trans (congrArg _ ?_)
  exact if_neg (mt (s.not_flashOk_iff e).2 (not_not.2 h))

theorem exec_flashwrite_invalid (h : s.FlashOk e) (hl : flagAt e.bytes 0x2D 1 = true) (hv : (s.flashed q e).slotValid (e.num 0x2C 1) = false) :
    exec .flashwrite s = .next ((s.flashed q e).entryEnd qid i 2) := by
  rw [exec_flashwrite hr hz hc h, hl, hv]
  rfl

theorem exec_flashwrite_taken (h : s.FlashOk e) (hl : flagAt e.bytes 0x2D 1 = false ∨ (s.flashed q e).slotValid (e.num 0x2C 1) = true) :
    exec .flashwrite s = .next ((s.flashed q e).entryEnd qid i 0) := by
  have hn : (flagAt e.bytes 0x2D 1 && !(s.flashed q e).slotValid (e.num 0x2C 1)) = false := by
    rcases hl with hl | hl
    · rw [hl, Bool.false_and]
    · rw [hl, Bool.not_true, Bool.and_false]
  rw [exec_flashwrite hr hz hc h, hn]
  rfl

theorem exec_flashverify_badField (h : 3 < e.num 0x2C 1) : exec .flashverify s = .next (s.entryEnd qid i 2) := by
  change execFlashverify s = _
  refine (State.manage_context0 hr hz hc _).trans (congrArg _ ?_)
  exact if_pos h

theorem exec_flashverify (h : e.num 0x2C 1 ≤ 3) :
    exec .flashverify s = .next (s.writeResult qid i q .flashverify (e.addr 0x18) (toBytes 8 (s.slotValid (e.num 0x2C 1)).toNat)) := by
  change execFlashverify s = _
  refine (State.manage_context0 hr hz hc _).trans (congrArg _ ?_)
  exact if_neg (Nat.not_lt.2 h)

end

/-! ## Pulls end (R72, R104) -/

theorem exec_migrationPullDone {s : State} {x : Nat × Nat} (h : mget s.clk.subj.a s.adm.pulls = some x) : exec .migrationPullDone s =
    .next (({ s with adm := { s.adm with pulls := mdel s.clk.subj.a s.adm.pulls } } : State).pulled x.1 x.2) := by
  change execMigrationPullDone s = _
  simp only [execMigrationPullDone, h]

theorem exec_migrationPullFail {s : State} {x : Nat × Nat} (h : mget s.clk.subj.a s.adm.pulls = some x) : exec .migrationPullFail s =
    .next (({ s with adm := { s.adm with pulls := mdel s.clk.subj.a s.adm.pulls } } : State).pullLost x.1 x.2) := by
  change execMigrationPullFail s = _
  simp only [execMigrationPullFail, h]

/-! ## The statement -/

/-- Settles O57: each command by its fields and by what it finds; what a map waits for and how a result record ends are said once for the commands that share them. -/
theorem mapsAndManagement : Obligations.MapsAndManagement := by
  unfold Obligations.MapsAndManagement
  refine ⟨?commands, fun s t q i y hy => ⟨State.queueGone_empty hy, State.queueGone_waits hy⟩, fun s => exec_modreset_resets,
    fun s x h => ⟨exec_migrationPullDone h, exec_migrationPullFail h⟩⟩
  case commands =>
    intro s qid i q e ha hb he hd hs c runs ends ctx size count bytes fieldsOk
    have hr : s.Runs qid i q e := ⟨ha, hb, he, hd, hs⟩
    refine ⟨exec_mgmtUnassigned hr, ?map, ?give, ?take, fun hz => ?manage, fun h1 => exec_modreset_waits h1 hr, exec_qdestroy_gone hr⟩
    case map =>
      intro code maps pa
      have maps_of : ∀ {ev : Instr} {r : MapRes × State}, exec ev s = .next (r.2.cmdMapEnd qid i ctx ev r.1) → maps ev r := fun h =>
        ⟨fun hw => h.trans (congrArg _ (State.cmdMapEnd_waits hw)), fun hw => h.trans (congrArg _ (State.cmdMapEnd_ends hw))⟩
      refine ⟨fun hc => ⟨maps_of (exec_mapInstall_again hr hc), maps_of (exec_mapRemove_again hr hc)⟩,
        fun hc => ⟨exec_mapInstall_badFields hr hc, exec_mapRemove_badFields hr hc, fun hf h1 h2 => ?_, fun hf => maps_of (exec_mapRemove hr hc hf rfl)⟩⟩
      have hx := exec_mapInstall hr hc hf h1 h2 rfl
      exact ⟨fun h => hx.trans (congrArg _ (if_pos h)), fun h => maps_of (hx.trans (congrArg _ (if_neg h)))⟩
    case give =>
      intro va n leaf lost
      refine ⟨fun ho => ⟨exec_mapGive_badFields hr ho, exec_mapTake_badFields hr ho⟩, fun ho hl => ⟨exec_mapGive_lost hr ho hl, exec_mapTake_lost hr ho hl⟩,
        fun ho hn => exec_mapGive_over hr ho hn, fun st ho hn hc h0 => exec_mapGive_noLeaf hr ho hc hn h0, fun a l ho hn hc h0 h => ?_, fun ho hc h1 => ?_,
        fun a ho hc h2 => exec_mapGive_arrived hr ho hc h2⟩
      · have hx := exec_mapGive_remove hr ho hc hn h0 h
        exact ⟨fun hh => hx.trans (congrArg _ (if_pos hh)), fun hh => hx.trans (congrArg _ (if_neg (ne_true_of_eq_false hh)))⟩
      · have hx := exec_mapGive_push hr ho hc h1
        refine ⟨fun hi => hx.trans (congrArg _ (if_pos hi)), fun hi hq => ?_, fun hi hq => ?_⟩
        · exact hx.trans (congrArg _ ((if_neg (ne_true_of_eq_false hi)).trans (if_pos hq)))
        · exact hx.trans (congrArg _ ((if_neg (ne_true_of_eq_false hi)).trans (if_neg (Nat.not_lt.2 hq))))
    case take =>
      intro va lost
      refine ⟨fun ho hn => exec_mapTake_over hr ho hn, fun st ho hn hc => exec_mapTake_noLeaf hr ho hn hc, fun a l ho hn hc h => ?_⟩
      have hx := exec_mapTake_page hr ho hn hc h
      exact ⟨fun hh => hx.trans (congrArg _ (if_pos hh)), fun hh => hx.trans (congrArg _ (if_neg (ne_true_of_eq_false hh)))⟩
    case manage =>
      refine ⟨fun u => ?records, fun h0 => ⟨exec_context0_denied hr hz h0, fun h1 => exec_modreset_denied hr hz h1 h0⟩, ?qcreate, exec_qdestroy_none hr hz,
        fun y => ?qdestroy, fun h0 => ?context0⟩
      case records =>
        intro at_ writes body
        have writes_of : ∀ {ev : Instr} {bs : List Byte}, exec ev s = .next (s.writeResult qid i q ev at_ bs) → writes ev bs := fun h =>
          ⟨fun hc => h.trans (congrArg _ (State.writeResult_seen hc _ _ _)), fun hc hu => h.trans (congrArg _ (State.writeResult_written hc hu))⟩
        exact ⟨writes_of (exec_status hr hz), writes_of (exec_monitors hr hz), writes_of (exec_attest hr hz),
          fun h0 h3 => writes_of (exec_flashverify hr hz h0 h3)⟩
      case qcreate =>
        intro n log prio own base good
        exact ⟨fun h0 h hz3 => exec_qcreate_denied hr hz hz3 h0 h, exec_qcreate_badZeros hr hz, fun hz3 hc => exec_qcreate_badField hr hz hz3 hc,
          fun hz3 hc => exec_qcreate_noPage hr hz hz3 hc, fun lf sz hz3 hc hk => exec_qcreate hr hz hz3 hc hk⟩
      case qdestroy =>
        intro t h2 hy
        refine ⟨exec_qdestroy_denied hr hz h2 hy, fun hc => ?_⟩
        have hx := exec_qdestroy hr hz h2 hy hc
        exact ⟨fun h => hx.trans (congrArg _ (if_pos h)), fun h => hx.trans (congrArg _ (if_neg h))⟩
      case context0 =>
        refine ⟨⟨exec_ctxbind_badFields hr hz h0, exec_ctxbind hr hz h0⟩,
          ⟨exec_ctxreset_badField hr hz h0, exec_ctxreset_waits hr hz h0, exec_ctxreset_ends hr hz h0⟩, ?flash, exec_flashverify_badField hr hz h0,
          fun h1 => exec_modreset_signals hr hz h1 h0⟩
        intro len first last y good piece u
        exact ⟨exec_flashwrite_badFields hr hz h0, exec_flashwrite_invalid hr hz h0, exec_flashwrite_taken hr hz h0⟩

end Sys2Proof.Machine
end

section
/-! SUPPORT. Lane and uniform memory instructions: the addresses of their operands, the request that each issues, and the statement that they settle. -/

namespace Sys2Proof.Machine

/-! ## Addresses of memory operands (R358, R390, R446) -/

section
variable (x : Iss) (l : Nat) (b : Option (Fin 15)) (c : Option (Fin 62)) (w : Fin 8) (sc : Fin 4) (lit : Word)

/-- The scale is a shift in the model, a factor in the rules. -/
theorem Iss.index_eq_mul (ws n : Nat) : x.index ws n l =
    (x.g.vlane ((x.path.run.map Run.va).getD 0 + ws) l).signExtend 64 * BitVec.ofNat 64 (2 ^ n) := by
  rw [Iss.index, BitVec.shiftLeft_eq_mul_twoPow, show BitVec.twoPow 64 n = BitVec.ofNat 64 (2 ^ n) from BitVec.eq_of_toNat_eq (by simp)]

theorem LMem.baseOf_eq (a : LMAddr) : LMem.baseOf ⟨b, a⟩ x = (b.map (fun n => x.u (.g ⟨n.val, by omega⟩))).getD 0 := by
  cases b <;> rfl

theorem LXMem.baseOf_eq (i : Option (Fin 8 × Fin 4)) (o : Option Word) : LXMem.baseOf ⟨c, i, o⟩ x = (c.map (fun n => x.u (.g n))).getD 0 := by
  cases c <;> rfl

end

/-! ## Requests of memory instructions (R390, R446 to R457, R464, R465) -/

/-- The scope that an atomic's release orders before it (R455). -/
def releasesOf : AOrd → Option Scope
  | .rel sc | .ar sc => some sc
  | _ => none

/-- Whether an atomic holds what follows it, as an acquire does (R455). -/
def acquiresOf : AOrd → Bool
  | .acq _ | .ar _ => true
  | _ => false

/-- The one lane of a uniform access. -/
theorem one_lane : (1 : Mask) ≠ 0 := by decide

theorem saop_ne_cas (op : SAOp) : op.op ≠ .cas := by cases op <;> decide

section
variable {s : State} {x : Iss} {p : Pred} {i : Instr}

theorem exec_ld (d : LDst) (m : LMem) : exec (.ld p d m) s = s.load p d .n32 none false m.baseOf m.ws m.at_ := rfl
theorem exec_ldLong (sz : SZ) (acq : Option Scope) (nl : Bool) (d : LDst) (m : LXMem) :
    exec (.ldLong p sz acq nl d m) s = s.load p d sz acq nl m.baseOf m.ws m.at_ := rfl
theorem exec_st (a : LSrc) (m : LMem) : exec (.st p a m) s = s.store p a .n32 none m.baseOf m.ws m.at_ := rfl
theorem exec_stLong (sz : USZ) (rel : Option Scope) (a : LSrc) (m : LXMem) :
    exec (.stLong p sz rel a m) s = s.store p a sz rel m.baseOf m.ws m.at_ := rfl
theorem exec_atom (op : SAOp) (d : LDst) (b : Option (Fin 15)) (a : LSrc) :
    exec (.atom p op d b a) s = s.atomic p op.op 4 true .plain (some d) a (baseOnly b) none (fun x _ => baseOnly b x) := rfl
theorem exec_atomNoret (op : SAOp) (b : Option (Fin 15)) (a : LSrc) :
    exec (.atomNoret p op b a) s = s.atomic p op.op 4 true .plain none a (baseOnly b) none (fun x _ => baseOnly b x) := rfl
theorem exec_atomLong (op : AOp) (sz : SZ) (ord : AOrd) (d : Option LDst) (m : LXMem) (a : LSrc) :
    exec (.atomLong p op sz ord d m a) s = s.atomic p op sz.bytes sz.cmpSigned ord d a m.baseOf m.ws m.at_ := rfl

variable (hx : s.iss = some x)
include hx

section
variable (ha : x.act p ≠ 0)
include ha

theorem asks_load (hm : mget x.ctx s.adm.samples = none) {d : LDst} {sz : SZ} {acq : Option Scope} {nl : Bool} {base : Iss → DWord} {ws : Option Nat}
    {addr : Iss → Nat → DWord} (he : exec i s = s.load p d sz acq nl base ws addr) :
    Asks i s s x (addr x) sz.bytes false { x.req .ld (base x) (x.indexRow ws) (x.act p) sz.bytes 0 with
      dest := destOf d sz.wide, signed := sz.sgn, fill := !nl, home := (acq.map wideScope).getD false, acq := acq.isSome } :=
  asks_of_memReq (he.trans (State.issue_some hx _)) ha (fun _ => rfl) (fun _ => rfl) (fun _ => hm) rfl

theorem asks_store {a : LSrc} {sz : USZ} {rel : Option Scope} {base : Iss → DWord} {ws : Option Nat} {addr : Iss → Nat → DWord}
    (he : exec i s = s.store p a sz rel base ws addr) :
    let data := cutData sz.bytes (x.dataOf sz.wide a)
    Asks i s ((s.ordering x rel).hash x (x.act p) (addr x) data) x (addr x) sz.bytes false
      { x.req .st (base x) (x.indexRow ws) (x.act p) sz.bytes 1 with data := data } := by
  refine asks_of_memReq (he.trans (State.issue_some hx _)) ha (fun hf => if_neg hf) (fun hf => ?_) (fun h => nomatch h) rfl
  exact (if_pos hf).trans (by rw [if_neg ha])

theorem asks_atomic {op : AOp} {len : Nat} {signed : Bool} {ord : AOrd} {d : Option LDst} {a : LSrc} {base : Iss → DWord} {ws : Option Nat}
    {addr : Iss → Nat → DWord} (he : exec i s = s.atomic p op len signed ord d a base ws addr) :
    Asks i s (s.ordering x (releasesOf ord)) x (addr x) len true
      { x.req .atom (base x) (x.indexRow ws) (x.act p) len (if d.isSome then 0 else 1) with
        dest := (d.map (fun r => destOf r (len == 8))).getD .none
        op := op, signed := signed, acq := acquiresOf ord
        data := if op = .cas then x.casOf (len == 8) a else x.dataOf (len == 8) a
        cmp := x.dataOf (len == 8) a } := by
  refine asks_of_memReq (w := if maskOf (x.act p) (fun l => !ptrOk (addr x l)) = 0 then s.ordering x (if x.act p = 0 then none else releasesOf ord) else s)
    (he.trans ((State.issue_some hx _).trans ?_)) ha (fun hf => if_neg hf) (fun hf => (if_pos hf).trans (by rw [if_neg ha])) (fun h => nomatch h) rfl
  clear he
  cases op <;> cases ord <;> cases d <;> rfl

end

theorem asks_uniformLoad (hq : x.qp p = true) (hm : mget x.ctx s.adm.samples = none) (sz : SZ) (d : UDst) (b : USrc) (off : UOff) :
    Asks (.ldUniform p sz d b off) s s x (fun _ => x.uaddr b off sz.bytes) sz.bytes false { x.req .uld (x.uaddr b off sz.bytes) [] 1 sz.bytes 0 with
      dest := match d with
        | .g n => .g n.val
        | .zero => .g 62
      signed := sz.sgn } :=
  asks_of_memReq (State.uni_true hx hq _) one_lane (fun _ => rfl) (fun _ => rfl) (fun _ => hm) rfl

end

theorem maskOf_one (f : Nat → Bool) : maskOf 1 f = if f 0 then 1 else 0 := by
  have h : ∀ l ∈ List.range' 1 31, (1 : Mask).has l = false := by decide
  rw [maskOf, show List.range 32 = 0 :: List.range' 1 31 from rfl, List.foldl_cons, foldl_fixed_of_mem]
  · cases f 0 <;> rfl
  · intro l hl
    simp only [h l hl, Bool.false_and, Bool.false_eq_true, if_false]

/-- A uniform store whose block would take its cluster past 1,024 held blocks closes the interval first (R253). -/
theorem asks_uniformStore {s : State} {x : Iss} {p : Pred} (hx : s.iss = some x) (hq : x.qp p = true) (sz : USZ) (v : UDst) (b : USrc) (off : UOff) :
    let a := x.uaddr b off sz.bytes
    let data := cutData sz.bytes [x.ud v]
    let u := if x.run = 0 && s.overflows x.g (blocksOf a sz.bytes) then s.closeBy x none else s
    Asks (.stUniform p sz v b off) s (u.hash x 1 (fun _ => a) data) x (fun _ => a) sz.bytes false
      { x.req .ust a [] 1 sz.bytes 1 with data := data } := by
  intro a data u
  have hf : (maskOf 1 (fun _ => !ptrOk a) = 0) ↔ ptrOk a = true := by
    rw [maskOf_one]; cases ptrOk a <;> decide
  refine asks_of_memReq (State.uni_true hx hq _) one_lane (fun h => ?_) (fun h => ?_) (fun h => nomatch h) rfl
  · have hp := mt hf.2 h
    simp only [show ptrOk (x.uaddr b off sz.bytes) = false from Bool.eq_false_iff.2 hp, Bool.and_false, Bool.false_and, Bool.false_eq_true, if_false]
  · have hp := hf.1 h
    simp only [show ptrOk (x.uaddr b off sz.bytes) = true from hp, Bool.and_true, if_true]
    rfl

/-- Settles O43: the addresses are those of the operands' definitions; each instruction is one call of the operation that issues requests. -/
theorem memoryRequests : Obligations.MemoryRequests := by
  unfold Obligations.MemoryRequests
  refine ⟨fun x l b c w sc lit u len => ?_, fun s x p hx hm => ?_⟩
  · refine ⟨fun oc => ?_, fun ofs => ?_, ?_, ?_, ?_, ?_, fun o => rfl, rfl⟩
    · simp only [LMem.at_, LMem.baseOf_eq, LMem.add, Iss.index_eq_mul]
    · simp only [LMem.at_, LMem.baseOf_eq, LMem.add]
    · simp only [LXMem.at_, LXMem.baseOf_eq, LXMem.add, Iss.index_eq_mul]
    · simp only [LXMem.at_, LXMem.baseOf_eq, LXMem.add, Iss.index_eq_mul]
      exact congrArg _ (BitVec.add_zero _)
    · simp only [LXMem.at_, LXMem.baseOf_eq, LXMem.add]
      exact congrArg _ (BitVec.zero_add _)
    · simp only [LXMem.at_, LXMem.baseOf_eq, LXMem.add]
      exact BitVec.add_zero _
  · refine ⟨fun ha => ⟨fun d m => ?_, fun sz acq nl d m => ?_, fun a m => ?_, fun sz rel a m => ?_, fun op d b a => ?_, fun op b a => ?_,
      fun op sz ord d m a => ?_, fun sl m => ?_, fun a m => ?_, fun d m => ?_⟩, fun hq => ⟨fun sz d b off => ?_, fun sz b off => ?_, fun sz v b off => ?_⟩⟩
    · exact (asks_load hx ha hm (exec_ld d m) :)
    · exact (asks_load hx ha hm (exec_ldLong sz acq nl d m) :)
    · exact (asks_store hx ha (exec_st a m) :)
    · exact (asks_store hx ha (exec_stLong sz rel a m) :)
    · have h := asks_atomic hx ha (exec_atom op d b a)
      rwa [if_neg (saop_ne_cas op)] at h
    · have h := asks_atomic hx ha (exec_atomNoret op b a)
      rwa [if_neg (saop_ne_cas op)] at h
    · have h := asks_atomic hx ha (exec_atomLong op sz ord d m a)
      cases ord <;> exact h
    · exact asks_of_memReq (State.issue_some hx _) ha (fun _ => rfl) (fun _ => rfl) (fun h => nomatch h) rfl
    · exact asks_of_memReq (State.issue_some hx _) ha (fun _ => rfl) (fun _ => rfl) (fun h => nomatch h) rfl
    · exact asks_of_memReq (State.issue_some hx _) ha (fun _ => rfl) (fun _ => rfl) (fun _ => hm) rfl
    · exact asks_uniformLoad hx hq hm sz (.g d) b off
    · exact asks_uniformLoad hx hq hm sz .zero b off
    · exact asks_uniformStore hx hq sz v b off

end Sys2Proof.Machine
end

section
/-! SUPPORT. Task submission, the furrow instructions, a task's end and the drought sweep, and the statement that they settle. -/

namespace Sys2Proof.Machine

/-! ## Reads and writes of agents keep the clock, and reads the work (R79, R271) -/

theorem State.eccRead_frame (s : State) (loc ctx : Nat) (tag : Option Nat) :
    (s.eccRead loc ctx tag).2.clk = s.clk ∧ (s.eccRead loc ctx tag).2.work = s.work := by
  have poison : (s.eccPoison loc).clk = s.clk ∧ (s.eccPoison loc).work = s.work := by
    unfold State.eccPoison State.setDesc
    dsimp only
    split <;> exact ⟨rfl, rfl⟩
  unfold State.eccRead
  dsimp only
  split
  · exact ⟨rfl, rfl⟩
  · exact poison
  · exact poison
  · exact ⟨rfl, rfl⟩

theorem State.readHome_frame (s : State) (loc ctx : Nat) (tag : Option Nat) :
    (s.readHome loc ctx tag).2.2.2.clk = s.clk ∧ (s.readHome loc ctx tag).2.2.2.work = s.work := by
  have h := s.eccRead_frame loc ctx tag
  unfold State.readHome
  dsimp only
  split <;> (rename_i e; rw [e] at h; exact h)

theorem State.readRecs_frame (s : State) (ctx : Nat) (ptr : DWord) (n : Nat) :
    (s.readRecs ctx ptr n).clk = s.clk ∧ (s.readRecs ctx ptr n).work = s.work := by
  suffices h : ((s.readRecs ctx ptr n).clk, (s.readRecs ctx ptr n).work) = (s.clk, s.work) from Prod.mk.inj h
  refine foldl_keeps (fun u : State => (u.clk, u.work)) (fun u x => ?_) _ s
  dsimp only
  split
  · rfl
  · split
    · rfl
    · rename_i p _ _
      have h := u.readHome_frame (p.2.2 / 64) ctx (if leafTagck p.1 then some (ptrTag ptr) else none)
      split <;> (rename_i e; rw [e] at h; exact Prod.ext h.1 h.2)

theorem State.watchBump_clk (s : State) (loc : Nat) : (s.watchBump loc).clk = s.clk := by
  refine foldl_keeps State.clk (fun u w => ?_) _ s
  rfl

theorem State.writeAt_clk (s : State) (a : Nat) (data : List (Option Byte)) : (s.writeAt a data).clk = s.clk :=
  State.watchBump_clk _ _

theorem State.vwrite_clk (s : State) (ctx : Nat) (ptr : DWord) (data : List Byte) : (s.vwrite ctx ptr data).1.clk = s.clk := by
  refine foldl_keeps (fun r : State × Option Nat × List Byte => r.1.clk) (fun r x => ?_) _ (s, none, data)
  dsimp only
  split
  · rfl
  · split
    · rfl
    · split
      · rfl
      · exact State.writeAt_clk _ _ _

/-! ## Answers with registers -/

/-- A unit's answer goes to registers, `lat` issue clk behind its arrival at clk `t`, at which the path goes on. -/
def State.answerRegs (s : State) (x : Iss) (t lat : Nat) (ws : List Write) : State :=
  match s.gang? x.k with
  | none => s
  | some g => ((s.setGang x.k (g.results x (s.issueFrom g.die t lat) lat .general ws)).expandFor g ws).answered x t

/-- What an answer that goes to registers is. -/
theorem answersWith_of {i : Instr} {s u : State} {x : Iss} {t lat : Nat} {ws : List Write} {g : Gang} (hg : u.gang? x.k = some g)
    (he : exec i s = .next (u.answerRegs x t lat ws)) : AnswersWith i s u x t lat ws := by
  obtain ⟨hf, what, out, _⟩ := g.results_spec x (u.issueFrom g.die t lat) lat .general ws
  refine ⟨g, { g with
      pend := (g.results x (u.issueFrom g.die t lat) lat .general ws).pend
      paths := g.paths.map (fun p => if p.lanes = x.path.lanes then { p.next x.len with hold := t } else p) }, .general,
    ((u.setGang x.k (g.results x (u.issueFrom g.die t lat) lat .general ws)).expandFor g ws).clk.slotBusy, hg, he.trans ?_, rfl, what, out⟩
  simp only [State.answerRegs, hg]
  rw [answered_eq, State.expandFor_eq, State.heldTill, State.onPath]
  simp only [State.modGang, State.setGang, mmod_some (mget_mput_same _ _ _), mput_self]
  rw [hf]

/-! ## Instructions of the compaction units (R131, R474, R489 to R491) -/

section
variable {s : State} {x : Iss} {a : DWord} {acc : Nat} {f : State → Furrow → State} {bad : State → State} {y : Furrow}

theorem State.withFurrow_badPointer (ha : ptrOk a = false) : s.withFurrow x a acc f bad = s.trapAccess x.k x.path.lanes x.pc 0x0108 acc a 1 := by
  rw [State.withFurrow, if_pos (by rw [ha]; rfl)]

theorem State.withFurrow_busy (ha : ptrOk a = true) (hy : s.furrowRead x.ctx x.g.die a = .ok y) {id : Nat} (hu : x.g.uncounted = some id)
    (hb : s.clk.now < mgetD 0 (workQueue 0 y.die) s.mem.busy) : s.withFurrow x a acc f bad = s.await x (.work id) := by
  simp only [State.withFurrow, ha, hy, State.workGate, State.workBusy, hb, hu, Bool.not_true, Bool.false_eq_true, if_false, decide_true, if_true]

theorem State.withFurrow_free (ha : ptrOk a = true) (hy : s.furrowRead x.ctx x.g.die a = .ok y)
    (hb : mgetD 0 (workQueue 0 y.die) s.mem.busy ≤ s.clk.now) : s.withFurrow x a acc f bad = f (s.setFurrow y) y := by
  simp only [State.withFurrow, ha, hy, State.workGate, State.workBusy, Nat.not_lt.2 hb, Bool.not_true, Bool.false_eq_true, if_false, decide_false]

end

theorem State.append_clk (s : State) (f : Furrow) (items : List DWord) : (s.append f items).clk = s.clk :=
  foldl_keeps (fun r : State × Nat => r.1.clk) (fun _ _ => State.vwrite_clk ..) items (s, f.appended)

/-- Items that the gang of a context has taken from a furrow count as drained. -/
def State.drains (ctx : Nat) (s : State) (t : Nat × Nat) : State :=
  { s with work := { s.work with furrows := s.work.furrows.map (fun f =>
    if f.ctx = ctx ∧ ptrVa f.addr = t.1 then { f with drained := f.drained + t.2 } else f) } }

theorem State.drains_frame (ctx : Nat) (l : List (Nat × Nat)) (s : State) : (l.foldl (State.drains ctx) s).clk = s.clk ∧
    (l.foldl (State.drains ctx) s).mem = s.mem ∧ (l.foldl (State.drains ctx) s).work.gangs = s.work.gangs :=
  ⟨foldl_keeps State.clk (f := State.drains ctx) (fun _ _ => rfl) l s, foldl_keeps State.mem (f := State.drains ctx) (fun _ _ => rfl) l s,
    foldl_keeps (fun u : State => u.work.gangs) (f := State.drains ctx) (fun _ _ => rfl) l s⟩

theorem State.drainTaken_eq {s : State} {k : Nat} {g : Gang} (hg : s.gang? k = some g) :
    s.drainTaken k = (g.taken.foldl (State.drains (s.ctxOf g)) s).modGang k (fun g => { g with taken := [] }) := by
  simp only [State.drainTaken, hg]
  rfl

theorem State.drainTaken_frame {s : State} {k : Nat} {g : Gang} (hg : s.gang? k = some g) : (s.drainTaken k).clk = s.clk ∧
    (s.drainTaken k).mem = s.mem ∧ (s.drainTaken k).gang? k = some { g with taken := [] } := by
  obtain ⟨hc, hm, hw⟩ := State.drains_frame (s.ctxOf g) g.taken s
  rw [State.drainTaken_eq hg]
  refine ⟨hc, hm, ?_⟩
  rw [State.gang?, State.modGang_gangs, mget_mmod, if_pos rfl, hw]
  exact congrArg (Option.map _) hg

/-- Which of the values paired with the elements of a list an element finds: the first. -/
theorem find_paired {β : Type} (ls : List Nat) (w : Nat → β) (l : Nat) :
    ((List.range ls.length).map (fun i => (ls.getD i 32, w i))).find? (fun y => y.1 == l) = if l ∈ ls then some (l, w (ls.idxOf l)) else none := by
  induction ls generalizing w with
  | nil => rfl
  | cons b ls ih =>
    have h := ih (fun i => w (i + 1))
    rw [List.length_cons, List.range_succ_eq_map, List.map_cons, List.map_map, List.find?_cons]
    by_cases hb : b = l
    · subst hb
      simp
    · have hl : (b == l) = false := beq_false_of_ne hb
      simp only [List.getD_cons_zero, hl, Function.comp_def, List.getD_cons_succ, h, List.mem_cons, Ne.symm hb, false_or, List.idxOf_cons, cond_false]

/-! ## What FTAKE gives (R132, R490) -/

/-- The lanes that an FTAKE serves. -/
def Iss.takers (x : Iss) (f : Furrow) : List Nat := (x.g.byTlid x.path.lanes).take f.left

/-- The item of a furrow at an index. -/
def State.itemAt (s : State) (f : Furrow) (i : Nat) : Nat :=
  match s.vread f.ctx (f.item i) 8 with
  | .ok bs => ofBytes bs
  | .error _ => 0

/-- The next items of a furrow are given to lanes of a gang, which holds them until its next instruction of a compaction unit. -/
def State.takes (s : State) (x : Iss) (f : Furrow) (ptr : DWord) (ls : List Nat) : State :=
  let u1 := ((List.range ls.length).foldl (fun (v : State) n => v.readRecs f.ctx (f.item (f.taken + n)) 8) s).setFurrow { f with taken := f.taken + ls.length }
  (u1.setDrought (drKey f.ctx f.group) (u1.droughtOf (drKey f.ctx f.group))).modGang x.k
    (fun g => { g with taken := g.taken ++ (if ls = [] then [] else [(ptrVa ptr, ls.length)]) })

/-- What an FTAKE writes: the words of the items, and which lanes have one. -/
def State.takenWrites (s : State) (x : Iss) (f : Furrow) (v : Fin 112) (pd : Fin 8) (ls : List Nat) : List Write :=
  let item := fun l => s.itemAt f (f.taken + ls.idxOf l)
  let given := ls.foldl (fun m l => m ||| Mask.one l) 0
  [.v v.val given (rowOf fun l => if l ∈ ls then BitVec.ofNat 32 (item l) else 0),
   .v (v.val + 1) given (rowOf fun l => if l ∈ ls then BitVec.ofNat 32 (item l / 2 ^ 32) else 0),
   .p pd.val x.path.lanes given]

theorem State.takes_clk (s : State) (x : Iss) (f : Furrow) (ptr : DWord) (ls : List Nat) : (s.takes x f ptr ls).clk = s.clk := by
  refine foldl_keeps State.clk (fun u n => ?_) _ s
  exact (u.readRecs_frame _ _ _).1

theorem State.takes_gang {s : State} {x : Iss} {g : Gang} (hg : s.gang? x.k = some g) (f : Furrow) (ptr : DWord) (ls : List Nat) :
    ∃ h, (s.takes x f ptr ls).gang? x.k = some h := by
  have hw : ((List.range ls.length).foldl (fun (v : State) n => v.readRecs f.ctx (f.item (f.taken + n)) 8) s).work.gangs = s.work.gangs := by
    refine foldl_keeps (fun u : State => u.work.gangs) (fun u n => ?_) _ s
    exact congrArg Work.gangs (u.readRecs_frame _ _ _).2
  refine ⟨{ g with taken := g.taken ++ (if ls = [] then [] else [(ptrVa ptr, ls.length)]) }, ?_⟩
  rw [State.gang?] at hg
  simp only [State.takes, State.gang?, State.modGang_gangs, State.setDrought, State.setFurrow, mget_mmod, if_true, hw, hg, Option.map_some]

theorem ofNat_setWidth_low (n : Nat) : (BitVec.ofNat 64 n).setWidth 32 = BitVec.ofNat 32 n := by
  apply BitVec.eq_of_toNat_eq
  simp

theorem ofNat_setWidth_high (n : Nat) : (BitVec.ofNat 64 n >>> 32).setWidth 32 = BitVec.ofNat 32 (n / 2 ^ 32) := by
  apply BitVec.eq_of_toNat_eq
  simp [Nat.shiftRight_eq_div_pow]
  omega

section
variable {s : State} {x : Iss} {p : Pred} {a : USrc} (hx : s.iss = some x) (hq : x.qp p = true)
include hx hq

/-! ## TASKSUB (R487) -/

theorem exec_tasksub_badPointer (space : Bool) (qd : Fin 8) (ha : ptrOk (x.u a) = false) :
    exec (.tasksub p space qd a) s = .next (s.trapAccess x.k x.path.lanes x.pc 0x0108 0 (x.u a) 1) := by
  refine (State.uni_true hx hq _).trans ?_
  simp only [ha, Bool.not_false, if_true]

theorem exec_tasksub_misaligned (space : Bool) (qd : Fin 8) (ha : ptrOk (x.u a) = true) (h : (x.u a).toNat % 64 ≠ 0) :
    exec (.tasksub p space qd a) s = .next ((s.logGang x.g 0x010F 0 (x.u a) 1 x.hdr).answerQ x x.g.die qd false) := by
  refine (State.uni_true hx hq _).trans ?_
  simp only [ha, Bool.not_true, Bool.false_eq_true, if_false, h, not_false_eq_true, ne_eq, if_true]

theorem exec_tasksub_reads (space : Bool) (qd : Fin 8) (ha : ptrOk (x.u a) = true) (h : (x.u a).toNat % 64 = 0) :
    exec (.tasksub p space qd a) s = .next (((s.newReq { x.req .unitRead (x.u a) [] 1 64 4 with
      parts := s.partsOf x.g [⟨0, x.u a, 64, 0, 0⟩] }).modGang x.k (fun g => { g with uncounted := some s.clk.fresh })).onPath x
        (fun q => { q with wait := .sub s.clk.fresh qd.val space, wlen := x.len })) := by
  refine (State.uni_true hx hq _).trans ?_
  simp only [ha, h, Bool.not_true, Bool.false_eq_true, if_false, ne_eq, not_true_eq_false]
  rfl

/-! ## FAPP (R489) -/

/-- An append is answered: its path goes on at the answer, and the gang has made one more request. -/
def State.fappEnds (s : State) (x : Iss) (t : Nat) : State := (s.heldTill x t).modGang x.k (fun g => { g with reqs := g.reqs + 1 })

/-- The items of a path's lanes, in ascending TLID. -/
def Iss.items (x : Iss) (v : Fin 112) : List DWord :=
  (x.g.byTlid x.path.lanes).map (fun l => join (x.g.vlane v.val l) (x.g.vlane (v.val + 1) l))

variable (v : Fin 112) (pd : Fin 8)

theorem exec_fapp_badPointer (ha : ptrOk (x.u a) = false) :
    exec (.fapp p a v) s = .next (s.trapAccess x.k x.path.lanes x.pc 0x0108 1 (x.u a) 1) :=
  (State.uni_true hx hq _).trans (congrArg _ (State.withFurrow_badPointer ha))

section
variable {f : Furrow} (ha : ptrOk (x.u a) = true) (hf : s.furrowRead x.ctx x.g.die (x.u a) = .ok f)
include ha hf

theorem exec_fapp_busy {id : Nat} (hb : s.clk.now < mgetD 0 (workQueue 0 f.die) s.mem.busy) (hu : x.g.uncounted = some id) :
    exec (.fapp p a v) s = .next (s.onPath x (fun q => { q with wait := .work id, wlen := x.len })) :=
  (State.uni_true hx hq _).trans (congrArg _ (State.withFurrow_busy ha hf hu hb))

variable (hb : mgetD 0 (workQueue 0 f.die) s.mem.busy ≤ s.clk.now)
include hb

theorem exec_fapp_accepted (hr : (x.items v).length ≤ f.room) (hc : (s.setFurrow f).ringCause f .write f.appended (x.items v).length = none) :
    exec (.fapp p a v) s = .next (((s.setFurrow f).append f (x.items v)).fappEnds x (s.clk.now + x.trip f.die)) := by
  refine (State.uni_true hx hq _).trans (congrArg _ ((State.withFurrow_free ha hf hb).trans ?_))
  unfold Iss.items at hr hc ⊢
  simp only [Nat.not_lt.2 hr, if_false, hc, answered_eq, State.append_clk]
  rfl

theorem exec_fapp_full (hr : f.room < (x.items v).length) :
    let u := s.setFurrow f
    exec (.fapp p a v) s = .next (State.fappEnds (({ u with
      clk := { u.clk with fresh := s.clk.fresh + 1 }
      work := { u.work with uncs := mput s.clk.fresh ⟨x.k, .fapp (x.u a) (x.items v), 0x0304, x.u a, { x.opEnt with btime := s.clk.now }⟩ u.work.uncs } } : State).modGang
        x.k (fun g => { g with uncounted := some s.clk.fresh })) x (s.clk.now + x.trip f.die)) := by
  refine (State.uni_true hx hq _).trans (congrArg _ ((State.withFurrow_free ha hf hb).trans ?_))
  unfold Iss.items at hr ⊢
  simp only [hr, if_true, answered_eq]
  rfl

end

/-! ## FTAKE and DRYW (R490, R491) -/

omit hx hq in
theorem State.takenWrites_eq (s : State) (x : Iss) (f : Furrow) (v : Fin 112) (pd : Fin 8) (ls : List Nat) :
    let vals := (List.range ls.length).map (fun i => (ls.getD i 32, BitVec.ofNat 64 (s.itemAt f (f.taken + i))))
    let val := fun l => ((vals.find? (fun y => y.1 == l)).map Prod.snd).getD 0
    let given := ls.foldl (fun m l => m ||| Mask.one l) 0
    ([.v v.val given (rowOf fun l => (val l).setWidth 32), .v (v.val + 1) given (rowOf fun l => (val l >>> 32).setWidth 32),
      .p pd.val x.path.lanes given] : List Write) = s.takenWrites x f v pd ls := by
  intro vals val given
  have hv : ∀ l, val l = if l ∈ ls then BitVec.ofNat 64 (s.itemAt f (f.taken + ls.idxOf l)) else 0 := by
    intro l
    simp only [val, vals, find_paired ls (fun i => BitVec.ofNat 64 (s.itemAt f (f.taken + i)))]
    split <;> rfl
  have low : ∀ l, (val l).setWidth 32 = if l ∈ ls then BitVec.ofNat 32 (s.itemAt f (f.taken + ls.idxOf l)) else 0 := by
    intro l
    rw [hv]
    split
    · exact ofNat_setWidth_low _
    · rfl
  have high : ∀ l, (val l >>> 32).setWidth 32 = if l ∈ ls then BitVec.ofNat 32 (s.itemAt f (f.taken + ls.idxOf l) / 2 ^ 32) else 0 := by
    intro l
    rw [hv]
    split
    · exact ofNat_setWidth_high _
    · rfl
  simp only [State.takenWrites, low, high]
  rfl

theorem exec_ftake_badPointer (ha : ptrOk (x.u a) = false) :
    exec (.ftake p a v pd) s = .next ((s.drainTaken x.k).trapAccess x.k x.path.lanes x.pc 0x0108 0 (x.u a) 1) :=
  (State.uni_true hx hq _).trans (congrArg _ (State.withFurrow_badPointer ha))

theorem exec_dryw_badPointer (ha : ptrOk (x.u a) = false) :
    exec (.dryw p a) s = .next ((s.drainTaken x.k).trapAccess x.k x.path.lanes x.pc 0x0108 0 (x.u a) 1) := by
  refine (State.uni_true hx hq _).trans ?_
  simp only [ha, Bool.not_false, if_true]

section
variable {f : Furrow} (ha : ptrOk (x.u a) = true) (hf : (s.drainTaken x.k).furrowRead x.ctx x.g.die (x.u a) = .ok f)
include ha hf

theorem exec_dryw_report (h : ((s.drainTaken x.k).droughtOf (drKey x.ctx f.group)).report = true) :
    exec (.dryw p a) s = .next ((s.drainTaken x.k).onPath x (fun q => q.next x.len)) := by
  refine (State.uni_true hx hq _).trans ?_
  simp only [ha, Bool.not_true, Bool.false_eq_true, if_false, hf, h, if_true]
  rfl

theorem exec_dryw_waits (h : ((s.drainTaken x.k).droughtOf (drKey x.ctx f.group)).report = false) :
    exec (.dryw p a) s = .next ((s.drainTaken x.k).onPath x (fun q => { q with wait := .dry (drKey x.ctx f.group), wlen := x.len })) := by
  refine (State.uni_true hx hq _).trans ?_
  simp only [ha, Bool.not_true, Bool.false_eq_true, if_false, hf, h]
  rfl

theorem exec_ftake_busy {id : Nat} (hb : (s.drainTaken x.k).clk.now < mgetD 0 (workQueue 0 f.die) (s.drainTaken x.k).mem.busy)
    (hu : x.g.uncounted = some id) :
    exec (.ftake p a v pd) s = .next ((s.drainTaken x.k).onPath x (fun q => { q with wait := .work id, wlen := x.len })) :=
  (State.uni_true hx hq _).trans (congrArg _ (State.withFurrow_busy ha hf hu hb))

theorem answersWith_ftake (hb : mgetD 0 (workQueue 0 f.die) s.mem.busy ≤ s.clk.now)
    (hc : ((s.drainTaken x.k).setFurrow f).ringCause f .read f.taken (x.takers f).length = none) :
    let u := (s.drainTaken x.k).setFurrow f
    AnswersWith (.ftake p a v pd) s (u.takes x f (x.u a) (x.takers f)) x (s.clk.now + x.trip f.die) 6 (u.takenWrites x f v pd (x.takers f)) := by
  intro u
  obtain ⟨g, hg⟩ := State.iss_gang hx
  obtain ⟨dc, dm, dg⟩ := State.drainTaken_frame hg
  obtain ⟨h, hh⟩ := State.takes_gang (s := u) dg f (x.u a) (x.takers f)
  have hn : (u.takes x f (x.u a) (x.takers f)).clk.now = s.clk.now := congrArg Clk.now ((State.takes_clk ..).trans dc)
  refine answersWith_of hh ((State.uni_true hx hq _).trans (congrArg _ ((State.withFurrow_free ha hf (by rwa [dc, dm])).trans ?_)))
  rw [← State.takenWrites_eq, ← hn]
  simp only [show ((s.drainTaken x.k).setFurrow f).ringCause f .read f.taken ((x.g.byTlid x.path.lanes).take f.left).length = none from hc]
  rfl

end

end

/-! ## A task's end (R79, R126) -/

theorem State.areaFree_frame (s : State) (a : Nat × Nat) : (s.areaFree a).work = s.work ∧ (s.areaFree a).mem.bytes = s.mem.bytes := by
  constructor
  · refine foldl_keeps State.work (fun u i => ?_) _ s
    rfl
  · refine foldl_keeps (fun u : State => u.mem.bytes) (fun u i => ?_) _ s
    rfl

theorem mget_map_snd {α β : Type} (f : α → β) (k : Nat) (m : Map α) : mget k (m.map (fun t => (t.1, f t.2))) = (mget k m).map f := by
  induction m with
  | nil => rfl
  | cons y m ih =>
    obtain ⟨i, b⟩ := y
    simp only [List.map_cons, mget, ih]
    split <;> rfl

theorem State.taskReady_frame (s : State) (k : Nat) : (s.taskReady k).mem = s.mem ∧
    ∀ j, mget j s.work.tasks = none → mget j (s.taskReady k).work.tasks = none := by
  refine ⟨rfl, fun j h => ?_⟩
  simp only [State.taskReady, State.ageFrom, State.sched_work, mget_mmod, h]
  split <;> rfl

/-- A task that has ended is out of the table; memory is as it was. -/
theorem State.taskEnd_frame (s : State) (tid : Nat) : (s.taskEnd tid).mem.bytes = s.mem.bytes ∧
    (Map.wf s.work.tasks = true → mget tid (s.taskEnd tid).work.tasks = none) := by
  obtain ⟨hw, hb⟩ := s.areaFree_frame (((mget tid s.work.tasks).map Task.area).getD (0, 0))
  unfold State.taskEnd
  dsimp only
  have ready : ∀ (l : List (Nat × Task)) (u : State), mget tid u.work.tasks = none →
      mget tid (l.foldl (fun (s : State) t => s.taskReady t.1) u).work.tasks = none := by
    intro l
    induction l with
    | nil => exact fun _ h => h
    | cons t l ih => exact fun u h => ih _ ((u.taskReady_frame t.1).2 tid h)
  refine ⟨?_, fun wf => ready _ _ ?_⟩
  · refine Eq.trans (foldl_keeps (fun u : State => u.mem.bytes) (fun u t => ?_) _ _) hb
    exact congrArg Mem.bytes (u.taskReady_frame t.1).1
  · refine (mget_map_snd (fun k : Task => { k with deps := k.deps.filter (fun d => d != tid) }) tid _).trans ?_
    rw [hw, mget_mdel _ _ wf, if_pos rfl]
    rfl

/-- A task whose SUCC word stands at a home of this part that can take an atomic now: what the decrement does. -/
theorem State.decSucc_performs {s u : State} {k : Task} {leaf : DWord} {size b : Nat} {h : Home} {mem : List Byte} {fd : Option Nat}
    (ha : k.succ.toNat % 8 = 0) (hr : k.rival = none) (hx : s.access k.ctx .atomic k.succ = .ok (leaf, size, b))
    (hh : s.homeOf k.ctx k.die leaf size (ptrVa k.succ) = some h) (host : ∀ c, h ≠ .peer c true) (up : s.portDown h = false)
    (free : mgetD 0 h.queue s.mem.busy ≤ s.clk.now) (tag : leafTagck leaf = true → ptrTag k.succ = s.tagOf (b / 64))
    (hm : s.readHome (b / 64) k.ctx (if leafTagck leaf then some (ptrTag k.succ) else none) = (mem, false, fd, u)) :
    s.decSucc k = (((u.writeAt b ((toBytes 8 ((ofBytes ((mem.drop (ptrVa k.succ % 64)).take 8) + 2 ^ 64 - 1) % 2 ^ 64)).map some)).setTag (b / 64)
      (if leafTagck leaf then ptrTag k.succ else 0)).sliceTouch (b / 64) k.ctx, .ok (h.trip k.die none)) := by
  have ht : (leafTagck leaf && ptrTag k.succ != s.tagOf (b / 64)) = false := by
    cases hl : leafTagck leaf
    · rfl
    · simp [tag hl]
  unfold State.decSucc
  simp only [ha, ne_eq, not_true_eq_false, if_false, hx, hr, hh]
  simp only [up, Nat.not_lt.2 free, decide_false, Bool.or_self, Bool.false_eq_true, if_false, ht, hm]

section
variable {s : State} {k : Task} (hk : mget s.clk.subj.a s.work.tasks = some k)
include hk

theorem exec_taskComplete_ends (h : s.clk.subj.d = 1 ∨ k.succ = 0) : exec .taskComplete s = .next (s.taskEnd s.clk.subj.a) := by
  change execTaskComplete s = _
  simp only [execTaskComplete, hk, h, if_true]

theorem exec_taskComplete_decremented (hd : s.clk.subj.d ≠ 1) (h0 : k.succ ≠ 0) {v : State} {trip : Nat} (h : s.decSucc k = (v, .ok trip)) :
    exec .taskComplete s = .next (({ v with work := { v.work with
      tasks := mmod s.clk.subj.a (fun k => { k with st := .ending false }) v.work.tasks } } : State).sched (s.clk.now + trip) .taskComplete s.clk.subj.a 0 0 1) := by
  change execTaskComplete s = _
  simp only [execTaskComplete, hk, hd, h0, or_self, if_false, h]

end

/-- Settles O52: each instruction of a compaction unit goes by its pointer, its unit's queue and its ring; a task's end by its SUCC word. -/
theorem tasksAndFurrows : Obligations.TasksAndFurrows := by
  unfold Obligations.TasksAndFurrows
  refine ⟨fun s x p a hx hq => ?_, fun s k hk => ?_, fun s => rfl⟩
  · refine ⟨fun space qd => ⟨exec_tasksub_badPointer hx hq space qd, fun ha h => ?_, exec_tasksub_reads hx hq space qd⟩,
      fun v => ⟨exec_fapp_badPointer hx hq v, fun f ha hf => ⟨fun id hb hu => exec_fapp_busy hx hq v ha hf hb hu,
        fun hb => ⟨exec_fapp_accepted hx hq v ha hf hb, exec_fapp_full hx hq v ha hf hb⟩⟩⟩,
      fun v pd => ⟨exec_ftake_badPointer hx hq v pd, fun f ha hf => ⟨fun id hb hu => exec_ftake_busy hx hq v pd ha hf hb hu,
        answersWith_ftake hx hq v pd ha hf⟩⟩,
      exec_dryw_badPointer hx hq, fun f ha hf => ⟨exec_dryw_report hx hq ha hf, exec_dryw_waits hx hq ha hf⟩⟩
    obtain ⟨g, hg⟩ := State.iss_gang hx
    exact answersQ_of (exec_tasksub_misaligned hx hq space qd ha h) hg
  · refine ⟨fun h => ?_, fun leaf size b h mem fd u hd h0 ha hr hacc hh host up free tag hm => ?_⟩
    · obtain ⟨hb, ht⟩ := s.taskEnd_frame s.clk.subj.a
      exact ⟨_, exec_taskComplete_ends hk h, ht, fun b => congrArg (readByte · b) hb⟩
    · exact exec_taskComplete_decremented hk hd h0 (State.decSucc_performs ha hr hacc hh host up free tag hm)

end Sys2Proof.Machine
end

section
/-! SUPPORT. The firmware services: what each does with the arguments of the call that waits for it, and the statement that they settle. -/

namespace Sys2Proof.Machine

/-! ## A service and its call (R93, R401) -/

/-- The gang that the event concerns waits for a service, in a context and with the arguments G1 to G4 of its call. -/
def State.Calls (s : State) (k ctx : Nat) (a : Nat → Nat) : Prop :=
  s.clk.subj.a = k ∧ ∃ g l, s.fwArgs k = some (g, l) ∧ s.ctxOf g = ctx ∧ a = fun i => l.getD (i - 1) 0

theorem State.Calls.service {s : State} {k ctx : Nat} {a : Nat → Nat} (h : s.Calls k ctx a) {f : Nat → Gang → Nat → (Nat → Nat) → State} {t : State}
    (ht : ∀ g, f k g ctx a = t) : s.service f = .next t := by
  obtain ⟨rfl, g, l, ha, rfl, rfl⟩ := h
  simp only [State.service, ha, ht]

theorem State.fwEnd_eq {s : State} {k : Nat} {g : Gang} {p : Path} (hg : s.gang? k = some g)
    (hp : g.paths.find? (fun q => match q.wait with
      | .fwcall _ _ => true
      | _ => false) = some p) (st : Nat) (res : List (Nat × DWord)) :
    s.fwEnd k st res = (s.landVar k 0 p.lanes p.pc .general (.g 1 (BitVec.ofNat 64 st) :: res.map (fun r => .g r.1 r.2))).modGang k (fun h => { h with
      paths := h.paths.map (fun q => if q.lanes = p.lanes then { q.next q.wlen with wait := .none } else q) }) := by
  simp only [State.fwEnd, hg]
  split
  · rename_i hn
    cases hn.symm.trans hp
  · rename_i p' hp'
    obtain rfl : p' = p := Option.some.inj (hp'.symm.trans hp)
    rfl

/-! ## Buffers (R85, R86, R89) -/

/-- What a service of a gang meets on a buffer. -/
def State.fwReady (s : State) (k ctx : Nat) (kind : AccKind) (a n : Nat) : Gate × State :=
  s.ready ctx (((s.gang? k).map Gang.die).getD 0) kind (BitVec.ofNat 64 a) n false

section
variable {s u : State} {k ctx a n : Nat} {ev : Instr} {f : State → State}

theorem State.fwBuffer_reads (h : s.fwReady k ctx .read a n = (.ok, u)) :
    s.fwBuffer k ctx ev false a n f = f (u.readRecs ctx (BitVec.ofNat 64 a) n) := by
  unfold State.fwReady at h
  simp only [State.fwBuffer, Bool.false_eq_true, if_false, h]

theorem State.fwBuffer_writes (h : s.fwReady k ctx .write a n = (.ok, u)) : s.fwBuffer k ctx ev true a n f = f u := by
  unfold State.fwReady at h
  simp only [State.fwBuffer, if_true, h]

/-- The ways in which a service does not come to its work: its buffer fails, or is looked at again. -/
def State.Gated (s : State) (k ctx : Nat) (ev : Instr) (kind : AccKind) (a n : Nat) : Prop :=
  (∀ c x u, s.fwReady k ctx kind a n = (.fail c x, u) → exec ev s = .next (u.fwEnd k 1 [])) ∧
  (∀ t u, s.fwReady k ctx kind a n = (.later t, u) → exec ev s = .next (u.sched t ev k s.clk.subj.b s.clk.subj.c s.clk.subj.d))

theorem State.gated_read (he : exec ev s = .next (s.fwBuffer k ctx ev false a n f)) : s.Gated k ctx ev .read a n := by
  refine ⟨fun c x u h => he.trans (congrArg _ ?_), fun t u h => he.trans (congrArg _ ?_)⟩ <;> unfold State.fwReady at h
  · simp only [State.fwBuffer, Bool.false_eq_true, if_false, h]
  · simp only [State.fwBuffer, Bool.false_eq_true, if_false, h]

theorem State.gated_write (he : exec ev s = .next (s.fwBuffer k ctx ev true a n f)) : s.Gated k ctx ev .write a n := by
  refine ⟨fun c x u h => he.trans (congrArg _ ?_), fun t u h => he.trans (congrArg _ ?_)⟩ <;> unfold State.fwReady at h
  · simp only [State.fwBuffer, if_true, h]
  · simp only [State.fwBuffer, if_true, h]

end

section
variable {s : State} {k ctx : Nat} {a : Nat → Nat} (hs : s.Calls k ctx a)

/-! ## MAPINS, MAPREM, MAPGET (R93 to R95) -/

/-- A map service ends as soon as nothing that it has displaced is under way. -/
theorem State.mapEnd_answers {ev : Instr} {v : State} {r : MapRes} (he : exec ev v = .next (s.mapEnd k ctx ev r)) :
    (r.wait ≠ 0 ∧ s.inFlight ctx r.page r.wait = true → exec ev v =
      .next (s.sched (s.clk.now + 1) ev k 1 (r.status + 16 * r.done) (r.page + 2 ^ 48 * r.wait))) ∧
    (¬ (r.wait ≠ 0 ∧ s.inFlight ctx r.page r.wait = true) → exec ev v = .next (s.fwEnd k r.status [(3, BitVec.ofNat 64 r.done)])) :=
  ⟨fun h => he.trans (congrArg _ (if_pos h)), fun h => he.trans (congrArg _ (if_neg h))⟩

include hs

theorem exec_mapins (hb : s.clk.subj.b ≠ 1) : exec .mapins s =
    .next ((s.doMapins ctx (a 1) (BitVec.ofNat 64 (a 2)) (a 3) (a 4)).2.mapEnd k ctx .mapins (s.doMapins ctx (a 1) (BitVec.ofNat 64 (a 2)) (a 3) (a 4)).1) := by
  change execMapins s = _
  exact hs.service fun _ => if_neg hb

theorem exec_maprem (hb : s.clk.subj.b ≠ 1) : exec .maprem s =
    .next ((s.doMaprem ctx (a 1) (a 3) (a 4)).2.mapEnd k ctx .maprem (s.doMaprem ctx (a 1) (a 3) (a 4)).1) := by
  change execMaprem s = _
  exact hs.service fun _ => if_neg hb

theorem exec_mapins_again (hb : s.clk.subj.b = 1) : exec .mapins s = .next (s.mapEnd k ctx .mapins (mapKept s.clk.subj.c s.clk.subj.d)) := by
  change execMapins s = _
  exact hs.service fun _ => if_pos hb

theorem exec_maprem_again (hb : s.clk.subj.b = 1) : exec .maprem s = .next (s.mapEnd k ctx .maprem (mapKept s.clk.subj.c s.clk.subj.d)) := by
  change execMaprem s = _
  exact hs.service fun _ => if_pos hb

theorem exec_mapget_badField (h : 2 ^ 57 ≤ a 1) : exec .mapget s = .next (s.fwEnd k 1 []) := by
  change execMapget s = _
  exact hs.service fun _ => if_pos h

theorem exec_mapget_noRoot (h : a 1 < 2 ^ 57) (hr : mget ctx s.mem.roots = none) : exec .mapget s = .next (s.fwEnd k 0 [(2, 0), (4, 4)]) := by
  change execMapget s = _
  refine hs.service fun _ => (if_neg (Nat.not_le.2 h)).trans ?_
  simp only [hr]

theorem exec_mapget {root level at_ : Nat} (h : a 1 < 2 ^ 57) (hr : mget ctx s.mem.roots = some root)
    (hl : (s.slotAt ctx (a 1) 0 false 4 root).1 = some (level, at_)) :
    exec .mapget s = .next (s.fwEnd k 0 [(2, s.tableRead at_), (4, BitVec.ofNat 64 level)]) := by
  change execMapget s = _
  refine hs.service fun _ => (if_neg (Nat.not_le.2 h)).trans ?_
  simp only [hr, hl]

/-! ## Services of context 0 (R93, R97, R204) -/

theorem exec_context0_only (h : ctx ≠ 0) : ∀ ev ∈ [Instr.grant, .partset, .ctxpart, .sluiceset], exec ev s = .next (s.fwEnd k 7 []) := by
  intro ev hev
  simp only [List.mem_cons, List.not_mem_nil, or_false] at hev
  obtain rfl | rfl | rfl | rfl := hev
  · change execGrant s = _
    exact hs.service fun _ => if_pos h
  · change execPartset s = _
    exact hs.service fun _ => if_pos h
  · change execCtxpart s = _
    exact hs.service fun _ => if_pos h
  · change execSluiceset s = _
    exact hs.service fun _ => if_pos h

end

/-- The range that a GRANT names is one of granules of a data region, and its context exists. -/
def GrantFields (a : Nat → Nat) : Prop :=
  let stack := a 1 / 2 ^ 36 % 2 ^ 4
  let first := a 1 % 2 ^ 20
  a 1 = stack * 2 ^ 36 + first ∧ stack < 12 ∧ a 3 ≠ 0 ∧ first + a 3 ≤ lastGranule + 1 ∧ a 4 < 64

/-- The granules of a GRANT. -/
def grantRange (a : Nat → Nat) : List Nat := (List.range (a 3)).map (fun i => a 1 / 2 ^ 36 % 2 ^ 4 * 2 ^ 20 + a 1 % 2 ^ 20 + i)

/-- The granules of a GRANT are free and lie on a stack of the partition. -/
def State.GrantFree (s : State) (a : Nat → Nat) : Prop :=
  a 1 / 2 ^ 36 % 2 ^ 4 ∈ s.partStacks (s.partOf (a 4)) ∧ ∀ n ∈ grantRange a, ownAlloc (s.ownerOf n) = false ∧ ownFw (s.ownerOf n) = false

theorem not_grantFields_iff (a : Nat → Nat) : ¬ GrantFields a ↔ (a 1 ≠ a 1 / 2 ^ 36 % 2 ^ 4 * 2 ^ 36 + a 1 % 2 ^ 20 ∨ 12 ≤ a 1 / 2 ^ 36 % 2 ^ 4 ∨
    a 3 = 0 ∨ lastGranule + 1 < a 1 % 2 ^ 20 + a 3 ∨ 64 ≤ a 4) := by
  simp only [GrantFields, not_and_or, not_lt, not_le, ne_eq, not_not]

theorem State.not_grantFree_iff (s : State) (a : Nat → Nat) : ¬ s.GrantFree a ↔ (!(s.partStacks (s.partOf (a 4))).contains (a 1 / 2 ^ 36 % 2 ^ 4) ||
    !(grantRange a).all (fun g => !ownAlloc (s.ownerOf g) && !ownFw (s.ownerOf g))) = true := by
  rw [State.GrantFree, ← Bool.not_and, Bool.not_eq_true', Bool.eq_false_iff, not_iff_not, Bool.and_eq_true, List.contains_iff_mem, List.all_eq_true]
  simp only [Bool.and_eq_true, Bool.not_eq_true']

/-- A granule's owner changes no context's partition. -/
theorem State.setOwners_part (l : List Nat) (s : State) (c : Nat) : l.foldl (fun (u : State) n => u.setOwner n (ownEntry true false (u.partOf c) c)) s =
    l.foldl (fun (u : State) n => u.setOwner n (ownEntry true false (s.partOf c) c)) s := by
  induction l generalizing s with
  | nil => simp only [List.foldl_nil]
  | cons n l ih =>
    have part : ∀ e, (s.setOwner n e).partOf c = s.partOf c := fun _ => rfl
    rw [List.foldl_cons, List.foldl_cons, ih, part]

theorem bits_low (v n : Nat) : bits v 0 n = v % 2 ^ n := by rw [bits, pow_zero, Nat.div_one]

section
variable {s : State} {k : Nat} {a : Nat → Nat} (hs : s.Calls k 0 a)
include hs

theorem exec_grant_badFields (h : ¬ GrantFields a) : exec .grant s = .next (s.fwEnd k 1 []) := by
  change execGrant s = _
  refine hs.service fun _ => (if_neg (by simp)).trans ?_
  rw [bits_low]
  exact if_pos ((not_grantFields_iff a).1 h)

theorem exec_grant_taken (h : GrantFields a) (hf : ¬ s.GrantFree a) : exec .grant s = .next (s.fwEnd k 2 []) := by
  change execGrant s = _
  refine hs.service fun _ => (if_neg (by simp)).trans ?_
  rw [bits_low]
  exact (if_neg (mt (not_grantFields_iff a).2 (not_not.2 h))).trans (if_pos ((s.not_grantFree_iff a).1 hf))

theorem exec_grant (h : GrantFields a) (hf : s.GrantFree a) : exec .grant s = .next (State.fwEnd
    (((grantRange a).foldl (fun (u : State) n => u.setOwner n (ownEntry true false (s.partOf (a 4)) (a 4))) s).clearRange
      ((a 1 / 2 ^ 36 % 2 ^ 4 * 2 ^ 20 + a 1 % 2 ^ 20) * 65536) (a 3 * 65536)) k 0 []) := by
  change execGrant s = _
  refine hs.service fun _ => (if_neg (by simp)).trans ?_
  rw [bits_low]
  refine (if_neg (mt (not_grantFields_iff a).2 (not_not.2 h))).trans ((if_neg (mt (s.not_grantFree_iff a).2 (not_not.2 hf))).trans ?_)
  unfold bits grantRange
  rw [← State.setOwners_part]

/-! PARTSET moves clusters and stacks into a partition (R97). -/

theorem exec_partset_badFields (h : ¬ (a 1 < 8 ∧ a 2 % 8 = 0 ∧ a 3 < 2 ^ 12)) : exec .partset s = .next (s.fwEnd k 1 []) := by
  change execPartset s = _
  exact hs.service fun _ => (if_neg (by simp)).trans (if_pos (by omega))

section
variable (h1 : a 1 < 8) (h2 : a 2 % 8 = 0) (h3 : a 3 < 2 ^ 12)
include h1 h2 h3

theorem exec_partset_gated : s.Gated k 0 .partset .read (a 2) 24 := by
  apply State.gated_read
  change execPartset s = _
  exact hs.service fun _ => (if_neg (by simp)).trans (if_neg (by omega))

variable {w : State} {bs : List Byte} (hw : s.fwReady k 0 .read (a 2) 24 = (.ok, w))
  (hr : (w.readRecs 0 (BitVec.ofNat 64 (a 2)) 24).vread 0 (BitVec.ofNat 64 (a 2)) 24 = .ok bs)
include hw hr

/-- What PARTSET does with the bitmap of clusters that it has read. -/
theorem exec_partset_read : let u := w.readRecs 0 (BitVec.ofNat 64 (a 2)) 24
    let cl := ofBytes bs
    let hit := u.adm.parts.filter (fun p => p.1 != a 1 && (Nat.land p.2.1 cl != 0 || Nat.land p.2.2 (a 3) != 0))
    exec .partset s = .next (if 2 ^ 136 ≤ cl then u.fwEnd k 1 [] else if u.partBusy (a 1 :: hit.map Prod.fst) = true then u.fwEnd k 6 [] else
      ({ u with adm := { u.adm with parts := mput (a 1) (cl, a 3) (u.adm.parts.map (fun p =>
        (p.1, (Nat.xor p.2.1 (Nat.land p.2.1 cl), Nat.xor p.2.2 (Nat.land p.2.2 (a 3)))))) } } : State).fwEnd k 0 []) := by
  change execPartset s = _
  refine hs.service fun _ => (if_neg (by simp)).trans ((if_neg (by omega)).trans ((State.fwBuffer_reads hw).trans ?_))
  simp only [hr]

end

/-! CTXPART gives a context to a partition (R97). -/

theorem exec_ctxpart_badFields (h : ¬ (a 1 ≠ 0 ∧ a 1 < 64 ∧ (mget (a 2) s.adm.parts).isSome = true)) : exec .ctxpart s = .next (s.fwEnd k 1 []) := by
  change execCtxpart s = _
  refine hs.service fun _ => (if_neg (by simp)).trans (if_pos ?_)
  simp only [not_and_or, ne_eq, not_not, not_lt, Bool.not_eq_true] at h
  rwa [← Option.not_isSome, Bool.not_eq_true']

section
variable (h1 : a 1 ≠ 0) (h2 : a 1 < 64) (h3 : (mget (a 2) s.adm.parts).isSome = true)
include h1 h2 h3

theorem exec_ctxpart_fields : exec .ctxpart s = .next (if s.partBusy [a 2, s.partOf (a 1)] = true then s.fwEnd k 6 [] else
    ({ s with adm := { s.adm with ctxPart := mset 0 (a 1) (a 2) s.adm.ctxPart } } : State).fwEnd k 0 []) := by
  change execCtxpart s = _
  refine hs.service fun _ => (if_neg (by simp)).trans (if_neg ?_)
  rw [← Option.not_isSome, h3]
  simp only [Bool.not_true, Bool.false_eq_true, or_false]
  omega

end

/-! SLUICESET (R204). -/

theorem exec_sluiceset_badFields (h : ¬ (a 1 < 8 ∧ a 2 < 8 ∧ 32 ≤ a 3 ∧ a 3 ≤ 65536)) : exec .sluiceset s = .next (s.fwEnd k 1 []) := by
  change execSluiceset s = _
  exact hs.service fun _ => (if_neg (by simp)).trans (if_pos (by omega))

theorem exec_sluiceset (h : a 1 < 8 ∧ a 2 < 8 ∧ 32 ≤ a 3 ∧ a 3 ≤ 65536) : exec .sluiceset s =
    .next (({ s with mem := { s.mem with sluice := mset 512 (a 1 * 8 + a 2) (a 3) s.mem.sluice } } : State).fwEnd k 0 []) := by
  change execSluiceset s = _
  exact hs.service fun _ => (if_neg (by simp)).trans (if_neg (by omega))

end

section
variable {s : State} {k ctx : Nat} {a : Nat → Nat} (hs : s.Calls k ctx a)
include hs

/-! ## SLUICEGET and PEERBIND (R102, R204) -/

theorem exec_sluiceget_badFields (h : 8 ≤ a 1 ∨ 8 ≤ a 2) : exec .sluiceget s = .next (s.fwEnd k 1 []) := by
  change execSluiceget s = _
  exact hs.service fun _ => if_pos h

theorem exec_sluiceget_denied (h1 : a 1 < 8) (h2 : a 2 < 8) (h : ctx ≠ 0) (hp : a 1 ≠ s.partOf ctx) : exec .sluiceget s = .next (s.fwEnd k 7 []) := by
  change execSluiceget s = _
  exact hs.service fun _ => (if_neg (by omega)).trans (if_pos ⟨h, hp⟩)

theorem exec_sluiceget (h1 : a 1 < 8) (h2 : a 2 < 8) (h : ctx = 0 ∨ a 1 = s.partOf ctx) :
    exec .sluiceget s = .next (s.fwEnd k 0 [(3, BitVec.ofNat 64 (mgetD 512 (a 1 * 8 + a 2) s.mem.sluice))]) := by
  change execSluiceget s = _
  exact hs.service fun _ => (if_neg (by omega)).trans (if_neg (by omega))

/-- A PEERBIND may bind a connection. -/
def PeerFields (a : Nat → Nat) (ctx : Nat) (c : Conn) : Prop := a 1 ≠ 0 ∧ a 1 < 4096 ∧ a 4 < 2 ∧ c.ctx = ctx ∧ c.up = true

theorem exec_peerbind_none (hc : mget (a 3) s.adm.conns = none) : exec .peerbind s = .next (s.fwEnd k 1 []) := by
  change execPeerbind s = _
  refine hs.service fun _ => ?_
  simp only [hc]

theorem exec_peerbind {c : Conn} (hc : mget (a 3) s.adm.conns = some c) (h : PeerFields a ctx c) : exec .peerbind s = .next (({ s with adm := { s.adm with
    peers := mput (ctx * 4096 + a 1) ⟨a 3, BitVec.ofNat 64 (a 2), a 4 == 1, c.epoch, true⟩ s.adm.peers } } : State).fwEnd k 0 []) := by
  obtain ⟨h0, h1, h4, hx, up⟩ := h
  change execPeerbind s = _
  refine hs.service fun _ => ?_
  simp only [hc]
  exact if_neg (by simp [up, hx, h0, h1, h4])

theorem exec_peerbind_badFields {c : Conn} (hc : mget (a 3) s.adm.conns = some c) (h : ¬ PeerFields a ctx c) : exec .peerbind s = .next (s.fwEnd k 1 []) := by
  change execPeerbind s = _
  refine hs.service fun _ => ?_
  simp only [hc]
  refine if_pos ?_
  simp only [PeerFields, not_and_or, Bool.not_eq_true, not_lt, ne_eq, not_not] at h
  simpa using h

/-! ## The census (R275, R276) -/

theorem exec_censusStart_running (h : (mget ctx s.adm.census).isSome = true) : exec .censusStart s = .next (s.fwEnd k 6 []) := by
  change execCensusStart s = _
  exact hs.service fun _ => if_pos h

theorem exec_censusStart_gated (h : mget ctx s.adm.census = none) : s.Gated k ctx .censusStart .read (a 1) 256 := by
  apply State.gated_read
  change execCensusStart s = _
  exact hs.service fun _ => if_neg (by simp [h])

theorem exec_censusStart {w : State} {bs : List Byte} (h : mget ctx s.adm.census = none) (hw : s.fwReady k ctx .read (a 1) 256 = (.ok, w))
    (hr : (w.readRecs ctx (BitVec.ofNat 64 (a 1)) 256).vread ctx (BitVec.ofNat 64 (a 1)) 256 = .ok bs) :
    let u := w.readRecs ctx (BitVec.ofNat 64 (a 1)) 256
    let word := fun (i : Nat) => BitVec.ofNat 64 (ofBytes ((bs.drop (8 * i)).take 8))
    exec .censusStart s = .next (({ u with adm := { u.adm with
      census := mput ctx ⟨(List.range 16).map (fun i => (word (2 * i), word (2 * i + 1))), s.clk.now, []⟩ u.adm.census } } : State).fwEnd k 0 []) := by
  change execCensusStart s = _
  refine hs.service fun _ => (if_neg (by simp [h])).trans ((State.fwBuffer_reads hw).trans ?_)
  simp only [hr]

theorem exec_censusStop_none (h : mget ctx s.adm.census = none) : exec .censusStop s = .next (s.fwEnd k 6 []) := by
  change execCensusStop s = _
  refine hs.service fun _ => ?_
  simp only [h]

theorem exec_censusStop_buffer {c : Census} (h : mget ctx s.adm.census = some c) : exec .censusStop s =
    .next (s.fwBuffer k ctx .censusStop true (a 2) (136 * 1024) (fun u =>
      let v := (u.vwrite ctx (BitVec.ofNat 64 (a 2)) ((List.range 136).flatMap (fun n =>
        if (u.partClusters (u.partOf ctx)).contains n then censusBytes c n s.clk.now else List.replicate 1024 0))).1
      ({ v with adm := { v.adm with census := mdel ctx v.adm.census } } : State).fwEnd k 0 [])) := by
  change execCensusStop s = _
  refine hs.service fun _ => ?_
  simp only [h]

/-! ## Sampled loads (R277, R278) -/

/-- The buffer of a sampling is a ring of records of 64 bytes. -/
def SampleFields (a : Nat → Nat) : Prop := a 2 % 64 = 0 ∧ 6 ≤ a 3 ∧ a 3 ≤ 16

theorem exec_sampleOn_badFields (h : a 2 % 64 ≠ 0 ∨ a 3 < 6 ∨ 16 < a 3) : exec .sampleOn s = .next (s.fwEnd k 1 []) := by
  change execSampleOn s = _
  exact hs.service fun _ => if_pos h

theorem exec_sampleOn_buffer (h : SampleFields a) : exec .sampleOn s =
    .next (s.fwBuffer k ctx .sampleOn true (a 2) (64 * 2 ^ a 3) (fun u => u.fwBuffer k ctx .sampleOn true (a 4) 8 (fun v =>
      ({ v with adm := { v.adm with samples := mput ctx ⟨a 1, BitVec.ofNat 64 (a 2), a 3, BitVec.ofNat 64 (a 4), [], 0, []⟩ v.adm.samples } } : State).fwEnd k 0 []))) := by
  obtain ⟨h2, h3, h3'⟩ := h
  change execSampleOn s = _
  exact hs.service fun _ => if_neg (by omega)

theorem exec_sampleOff : exec .sampleOff s = .next (({ s with adm := { s.adm with samples := mdel ctx s.adm.samples } } : State).fwEnd k 0 []) := by
  change execSampleOff s = _
  exact hs.service fun _ => rfl

/-! ## Record and replay (R281 to R283, R289 to R291) -/

/-- The event of a RECSESS that begins. -/
def sessEvent (replay : Bool) : Instr := if replay then .recsessReplay else .recsessRecord

theorem exec_sessEvent (replay : Bool) : exec (sessEvent replay) s = .next (s.sessStart replay k ctx a) := by
  cases replay
  · change execRecsessRecord s = _
    exact hs.service fun _ => rfl
  · change execRecsessReplay s = _
    exact hs.service fun _ => rfl

theorem exec_sessEvent_running (h : (mget ctx s.adm.sess).isSome = true) (replay : Bool) : exec (sessEvent replay) s = .next (s.fwEnd k 6 []) :=
  (exec_sessEvent hs replay).trans (congrArg _ (if_pos h))

section
variable (hn : mget ctx s.adm.sess = none)
include hn

theorem exec_sessEvent_badFields (h : a 4 / 2 ≠ 0 ∨ a 3 < 0x8080) (replay : Bool) : exec (sessEvent replay) s = .next (s.fwEnd k 1 []) :=
  (exec_sessEvent hs replay).trans (congrArg _ ((if_neg (by simp [hn])).trans (if_pos h)))

section
variable (h4 : a 4 / 2 = 0) (h3 : 0x8080 ≤ a 3)
include h4 h3

theorem exec_sessEvent_gated (replay : Bool) : s.Gated k ctx (sessEvent replay) .read (a 2) (a 3) := by
  apply State.gated_read
  refine (exec_sessEvent hs replay).trans (congrArg _ ?_)
  exact (if_neg (by simp [hn])).trans (if_neg (by omega))

/-- A session begins: its record says what it is, and that nothing has been recorded or replayed. -/
theorem exec_sessEvent_begins (replay : Bool) {w v : State} {h : List Byte} (hw : s.fwReady k ctx .read (a 2) (a 3) = (.ok, w))
    (hv : (w.readRecs ctx (BitVec.ofNat 64 (a 2)) (a 3)).fwReady k ctx .write (a 2) (a 3) = (.ok, v))
    (hr : v.vread ctx (BitVec.ofNat 64 (a 2)) 128 = .ok h) (hh : headerOk h (a 3) = true) :
    ∃ (u : State) (y : Sess), exec (sessEvent replay) s = .next (u.fwEnd k 0 []) ∧ mget ctx u.adm.sess = some y ∧ y.replay = replay ∧
      y.buf = BitVec.ofNat 64 (a 2) ∧ y.size = a 3 ∧ (y.stopdiv = true ↔ a 4 % 2 = 1) ∧ y.nlaunch = 0 ∧ y.ngang = 0 ∧ y.hcnt = 0 ∧ y.full = false ∧
      y.diverged = false ∧ y.ids = [] ∧ y.seqs = [] := by
  have begins : s.sessStart replay k ctx a = _ := (if_neg (by simp [hn])).trans ((if_neg (by omega)).trans
    ((State.fwBuffer_reads hw).trans (State.fwBuffer_writes hv)))
  simp only [hr, hh, Bool.not_true, Bool.false_eq_true, if_false] at begins
  exact ⟨_, _, (exec_sessEvent hs replay).trans (congrArg _ begins), mget_mput_same _ _ _, rfl, rfl, rfl, beq_iff_eq, rfl, rfl, rfl, rfl, rfl, rfl, rfl⟩

end

theorem exec_recsessEnd_none (hb : s.clk.subj.b = 0) : exec .recsessEnd s = .next (s.fwEnd k 6 []) := by
  change execRecsessEnd s = _
  refine hs.service fun _ => ?_
  simp only [hn, hb, if_true]

end

section
variable {x : Sess} (hx : mget ctx s.adm.sess = some x)
include hx

theorem exec_recsessEnd_over (hb : s.clk.subj.b = 1) (hc : x.serial = s.clk.subj.c) :
    exec .recsessEnd s = .next (({ s with adm := { s.adm with sess := mdel ctx s.adm.sess } } : State).fwEnd k 0 []) := by
  change execRecsessEnd s = _
  refine hs.service fun _ => ?_
  simp only [hx, hb, if_true, hc]

theorem exec_recsessEnd_performed (hb : s.clk.subj.b = 2) :
    exec .recsessEnd s = .next (s.sched (s.writeTime ctx x.buf x.size) .recsessEnd k 1 s.clk.subj.c) := by
  change execRecsessEnd s = _
  refine hs.service fun _ => ?_
  simp only [hx, hb, if_true, Nat.reduceEqDiff, if_false]

theorem exec_recsessEnd_badField (hb : s.clk.subj.b = 0) (h4 : a 4 / 2 ≠ 0) : exec .recsessEnd s = .next (s.fwEnd k 1 []) := by
  change execRecsessEnd s = _
  refine hs.service fun _ => ?_
  simp only [hx, hb, zero_ne_one, OfNat.zero_ne_ofNat, if_false, h4, ne_eq, not_false_eq_true, if_true]

/-- The gates of a session have opened: STATE is on its way, and what waits at them wakes (R290). -/
def State.gatesOpen (s : State) (k ctx : Nat) (x : Sess) : State :=
  ((if x.full || x.diverged then s else s.sessPut ctx (((s.gang? k).map Gang.die).getD 0) (x.buf + 1) [1]).modSess ctx
    (fun x => { x with full := true, diverged := false })).wakeWhere (fun _ q p => q.ctx == ctx && (match p.st with
      | .cistern 0x0305 _ _ => true
      | _ => false))

theorem exec_recsessEnd (hb : s.clk.subj.b = 0) (h4 : a 4 / 2 = 0) : exec .recsessEnd s = .next ((s.gatesOpen k ctx x).sched
    ((((mget ctx (s.gatesOpen k ctx x).adm.sess).map (fun y => y.late.map (fun w => w.1))).getD []).foldl max s.clk.now + 1) .recsessEnd k 2 x.serial) := by
  change execRecsessEnd s = _
  refine hs.service fun _ => ?_
  simp only [hx, hb, zero_ne_one, OfNat.zero_ne_ofNat, if_false, h4, ne_eq, not_true_eq_false]
  rfl

end

end

/-- Settles O58: each service goes by its arguments, its buffer and what it finds; the path that waits for it goes on with its status. -/
theorem services : Obligations.Services := by
  unfold Obligations.Services
  refine ⟨fun s k st g p res hg hp => State.fwEnd_eq hg hp st res, fun s k ctx g l hk ha hc => ?_⟩
  obtain ⟨a, hs, e1, e2, e3, e4⟩ : ∃ a, s.Calls k ctx a ∧ a 1 = l.getD 0 0 ∧ a 2 = l.getD 1 0 ∧ a 3 = l.getD 2 0 ∧ a 4 = l.getD 3 0 :=
    ⟨_, ⟨hk, g, l, ha, hc, rfl⟩, rfl, rfl, rfl, rfl⟩
  rw [← e1, ← e2, ← e3, ← e4]
  clear e1 e2 e3 e4 hk ha hc
  dsimp only
  refine ⟨?_, ?_, ?_, ?_, ?_, ?_, ?_, ?_, ?_, ?_, ?_, ?_, ?_, ?_, ?_, ?_, ?_, ?_, ?_, ?_, ?_, ?_, ?_, ?_, ?_, ?_, ?_, ?_, ?_⟩
  · exact ⟨fun hb => ⟨State.mapEnd_answers (exec_mapins hs hb), State.mapEnd_answers (exec_maprem hs hb)⟩,
      fun hb => ⟨State.mapEnd_answers (exec_mapins_again hs hb), State.mapEnd_answers (exec_maprem_again hs hb)⟩⟩
  · exact exec_mapget_badField hs
  · exact exec_mapget_noRoot hs
  · exact fun root level at_ => exec_mapget hs
  · exact fun h => exec_context0_only hs h _ (by simp)
  · exact fun h => exec_context0_only hs h _ (by simp)
  · exact fun h => exec_context0_only hs h _ (by simp)
  · exact fun h => exec_context0_only hs h _ (by simp)
  · intro h0
    subst h0
    refine ⟨⟨exec_grant_badFields hs, exec_grant_taken hs, exec_grant hs⟩, exec_partset_badFields hs, exec_partset_gated hs, fun u bs h1 h2 h3 hu hr => ?_,
      ⟨exec_ctxpart_badFields hs, fun h busy => ?_, fun h idle => ?_⟩, ⟨exec_sluiceset_badFields hs, exec_sluiceset hs⟩⟩
    · obtain ⟨w, hw, rfl⟩ := hu
      have e := exec_partset_read hs h1 h2 h3 hw hr
      exact ⟨fun h => e.trans (congrArg _ (if_pos h)), fun h busy => e.trans (congrArg _ ((if_neg (Nat.not_le.2 h)).trans (if_pos busy))),
        fun h idle => e.trans (congrArg _ ((if_neg (Nat.not_le.2 h)).trans (if_neg (Bool.eq_false_iff.1 idle))))⟩
    · exact (exec_ctxpart_fields hs h.1 h.2.1 h.2.2).trans (congrArg _ (if_pos busy))
    · exact (exec_ctxpart_fields hs h.1 h.2.1 h.2.2).trans (congrArg _ (if_neg (Bool.eq_false_iff.1 idle)))
  · exact exec_sluiceget_badFields hs
  · exact exec_sluiceget_denied hs
  · exact exec_sluiceget hs
  · exact ⟨fun c hc => ⟨exec_peerbind hs hc, exec_peerbind_badFields hs hc⟩, exec_peerbind_none hs⟩
  · exact exec_censusStart_gated hs
  · rintro _ bs hn ⟨w, hw, rfl⟩ hr
    exact exec_censusStart hs hn hw hr
  · exact exec_censusStart_running hs
  · exact exec_censusStop_none hs
  · intro h
    obtain ⟨c, hc⟩ := Option.isSome_iff_exists.1 h
    exact State.gated_write (exec_censusStop_buffer hs hc)
  · exact fun c u hc hu => (exec_censusStop_buffer hs hc).trans (congrArg _ (State.fwBuffer_writes hu))
  · exact exec_sampleOn_badFields hs
  · exact fun h2 h3 h3' => State.gated_write (exec_sampleOn_buffer hs ⟨h2, h3, h3'⟩)
  · exact fun u v h2 h3 h3' hu hv => (exec_sampleOn_buffer hs ⟨h2, h3, h3'⟩).trans (congrArg _ ((State.fwBuffer_writes hu).trans (State.fwBuffer_writes hv)))
  · exact exec_sampleOff hs
  · exact fun h => ⟨exec_sessEvent_running hs h false, exec_sessEvent_running hs h true⟩
  · exact fun hn h => ⟨exec_sessEvent_badFields hs hn h false, exec_sessEvent_badFields hs hn h true⟩
  · exact fun hn h4 h3 => ⟨exec_sessEvent_gated hs hn h4 h3 false, exec_sessEvent_gated hs hn h4 h3 true⟩
  · rintro _ v h replay hn h4 h3 ⟨w, hw, rfl⟩ hv hr hh
    exact exec_sessEvent_begins hs hn h4 h3 replay hw hv hr hh
  · exact exec_recsessEnd_none hs
  · exact fun x hx => ⟨exec_recsessEnd_over hs hx, exec_recsessEnd_performed hs hx, exec_recsessEnd_badField hs hx, exec_recsessEnd hs hx⟩

end Sys2Proof.Machine
end

section
/-! SUPPORT. The events of the memory system: what each does when it is due, and the statement that they settle. -/

namespace Sys2Proof.Machine

/-! ## Walks and shared queues (R87, R96, R202, R206) -/

/-- The state in which a walk of the present generation has filled the buffers and its waiters have gone on. -/
def State.walkEnds (s : State) (k : Walk) : State :=
  let w := s.walkNow k.die k.ctx (k.page * 65536)
  let u := s.walkFill k.die k.ctx k.page k.gen w
  k.waiters.foldl (fun (v : State) y => match y with
    | .part r b => v.walkPart r b w.1
    | .fetch who => v.walkFetch who k.ctx k.page w.1
    | .op id => v.walkOp id k.page (match w.1 with
      | .leaf _ _ => true
      | _ => false)) { u with mem := { u.mem with walks := mdel s.clk.subj.a u.mem.walks } }

section
variable {s : State} {k : Walk} (hk : mget s.clk.subj.a s.mem.walks = some k)
include hk

theorem exec_walkComplete_old (hg : k.gen ≠ s.gen k.die k.ctx) : exec .walkComplete s = .next (({ s with mem := { s.mem with
    wcache := s.mem.wcache.filter (fun w => decide (¬ (w.die = k.die ∧ w.ctx = k.ctx))) } } : State).walkBegin s.clk.subj.a) := by
  have hf : (fun w : WcEnt => decide (¬ (w.die = k.die ∧ w.ctx = k.ctx))) = fun w => !(w.die == k.die && w.ctx == k.ctx) := by
    funext w
    simp only [decide_not, Bool.decide_and, beq_eq_decide]
  rw [hf]
  change execWalkComplete s = _
  simp only [execWalkComplete, hk, if_pos hg]

theorem exec_walkComplete_present (hg : k.gen = s.gen k.die k.ctx) :
    exec .walkComplete s = .next (match (s.walkEnds k).mem.walks.find? (fun y => y.2.die == k.die && !y.2.started) with
      | none => s.walkEnds k
      | some y => (s.walkEnds k).walkBegin y.1) := by
  have he : exec .walkComplete s = match (s.walkEnds k).mem.walks.find? (fun y => y.2.die == k.die && !y.2.started) with
      | none => .next (s.walkEnds k)
      | some y => .next ((s.walkEnds k).walkBegin y.1) := by
    change execWalkComplete s = _
    simp only [execWalkComplete, hk, if_neg (not_not_intro hg)]
    rfl
  rw [he]
  cases (s.walkEnds k).mem.walks.find? (fun y => y.2.die == k.die && !y.2.started) <;> rfl

end

theorem exec_sluiceBounce_op {s : State} (hc : s.clk.subj.c = 1) : exec .sluiceBounce s = .next (s.opSluiced s.clk.subj.a) := by
  change execSluiceBounce s = _
  simp [execSluiceBounce, hc]

theorem exec_sluiceBounce_unc {s : State} (hc : s.clk.subj.c = 2) : exec .sluiceBounce s = .next (s.uncSluiced s.clk.subj.a) := by
  change execSluiceBounce s = _
  simp [execSluiceBounce, hc]

theorem exec_sluiceBounce_part {s : State} (hc : s.clk.subj.c = 0) :
    exec .sluiceBounce s = .next (s.sluiced s.clk.subj.a s.clk.subj.b) := by
  change execSluiceBounce s = _
  simp [execSluiceBounce, hc]

section
variable {s : State} {r b cls till : Nat} {q : Req} {p : Part} (hq : s.req? r = some q) (hp : q.parts[b]? = some p)
  (ht : p.till = some (cls, till))
include hq hp ht

theorem State.sluiced_early (h : s.clk.now < till) (hs : p.st = .walking ∨ p.st = .flying) : s.sluiced r b = s := by
  obtain hs | hs := hs <;> simp only [State.sluiced, hq, hp, ht, hs, if_neg (Nat.not_le.mpr h)]

theorem State.sluiced_silent (h : till ≤ s.clk.now) (hk : q.kind.silent = true) (hs : p.st = .walking ∨ p.st = .flying) :
    s.sluiced r b = s.failPart r b 0 := by
  obtain hs | hs := hs <;> simp only [State.sluiced, hq, hp, ht, hs, if_pos h, hk, if_true]

theorem State.sluiced_walking (h : till ≤ s.clk.now) (hk : q.kind.silent = false) (hs : p.st = .walking) :
    s.sluiced r b = s.park r b 0x0301 0 2 := by
  simp only [State.sluiced, hq, hp, ht, hs, if_pos h, hk, Bool.false_eq_true, if_false]

theorem State.sluiced_flying (h : till ≤ s.clk.now) (hk : q.kind.silent = false) (hs : p.st = .flying) :
    s.sluiced r b = s.bounceSluice r b q.ctx cls := by
  simp only [State.sluiced, hq, hp, ht, hs, if_pos h, hk, Bool.false_eq_true, if_false]

end

/-! ## Wakes of parts in cisterns (R209, R211) -/

theorem State.kickReissue_frame (s : State) (port : Nat) : (s.kickReissue port).mem = s.mem ∧ (s.kickReissue port).work = s.work := by
  unfold State.kickReissue
  extract_lets at_
  split <;> exact ⟨rfl, rfl⟩

theorem State.kickReissues_frame (ports : List Nat) (s : State) :
    (ports.foldl State.kickReissue s).mem = s.mem ∧ (ports.foldl State.kickReissue s).work = s.work :=
  ⟨foldl_keeps State.mem (fun s port => (s.kickReissue_frame port).1) ports s, foldl_keeps State.work (fun s port => (s.kickReissue_frame port).2) ports s⟩

theorem State.wakeOps_frame (s : State) (f : Nat → Nat → Nat → Nat × Nat × Nat → Bool) :
    (s.wakeOps f).mem = s.mem ∧ (s.wakeOps f).work.gangs = s.work.gangs := by
  unfold State.wakeOps
  dsimp only
  split
  · exact ⟨rfl, rfl⟩
  · refine ⟨(State.kickReissues_frame _ _).1.trans ?_, (congrArg Work.gangs (State.kickReissues_frame _ _).2).trans ?_⟩ <;> rfl

/-- A predicate of parts that agrees, on the parts in cisterns, with the one by which parts are woken says which parts are woken. -/
theorem State.wakeWhere_frame (s : State) {f : Nat → Req → Part → Bool} {due : Nat → Part → Bool}
    (hf : ∀ r q p cause key cls, p.st = .cistern cause key cls → f r q p = due r p)
    (hn : ∀ r p, (∀ cause key cls, p.st ≠ .cistern cause key cls) → due r p = false) :
    (s.wakeWhere f).mem.bytes = s.mem.bytes ∧ (s.wakeWhere f).work = s.work ∧
    (s.wakeWhere f).mem.reqs = s.mem.reqs.map (fun r => (r.1, { r.2 with
      parts := r.2.parts.map (fun p => if due r.1 p then { p with st := .woken s.clk.now } else p) })) := by
  unfold State.wakeWhere
  dsimp only
  rw [(State.kickReissues_frame _ _).1, (State.kickReissues_frame _ _).2]
  refine ⟨rfl, rfl, List.map_congr_left fun r _ => congrArg (fun l => (r.1, { r.2 with parts := l })) (List.map_congr_left fun p _ => ?_)⟩
  refine congrArg (fun c : Bool => if c then { p with st := .woken s.clk.now } else p) ?_
  split
  next cause key cls hp => rw [hf r.1 r.2 p cause key cls hp, Bool.true_and]
  next hp => rw [hn r.1 p hp, Bool.false_and]

/-- The parts that CISTERN_WAKE wakes: those whose order gate has opened (`c` 1), else those whose time has come and those whose chain has ended. -/
def State.wakeDue (s : State) (r : Nat) (p : Part) : Bool :=
  match p.st with
  | .cistern cause key _ =>
    if s.clk.subj.c = 1 then decide (r = s.clk.subj.a ∧ cause = 0x0305)
    else decide ((cause = 0x0301 ∧ r = s.clk.subj.a ∧ key ≠ 0 ∧ key ≤ s.clk.now) ∨ (cause = 0x0302 ∧ key = s.clk.subj.a ∧ s.req? s.clk.subj.a = none))
  | _ => false

theorem State.wakeDue_elsewhere (s : State) (r : Nat) (p : Part) (hp : ∀ cause key cls, p.st ≠ .cistern cause key cls) : s.wakeDue r p = false := by
  unfold State.wakeDue
  split
  next cause key cls h => exact absurd h (hp cause key cls)
  next => rfl

theorem State.wakeDue_gate {s : State} (hc : s.clk.subj.c = 1) {p : Part} {cause key cls : Nat} (hp : p.st = .cistern cause key cls) (r : Nat) :
    (r == s.clk.subj.a && (match p.st with
      | .cistern 0x0305 _ _ => true
      | _ => false)) = s.wakeDue r p := by
  simp only [State.wakeDue, hp, hc, if_true]
  split
  next h => simp_all [beq_eq_decide]
  next h => simp_all

theorem State.wakeDue_timer {s : State} (hc : s.clk.subj.c ≠ 1) {p : Part} {cause key cls : Nat} (hp : p.st = .cistern cause key cls) (r : Nat) :
    (match p.st with
      | .cistern 0x0301 key _ => r == s.clk.subj.a && key != 0 && decide (key ≤ s.clk.now)
      | .cistern 0x0302 key _ => key == s.clk.subj.a && (s.req? s.clk.subj.a).isNone
      | _ => false) = s.wakeDue r p := by
  simp only [State.wakeDue, hp, if_neg hc]
  split
  next h => simp_all [Bool.and_assoc, bne, beq_eq_decide]
  next h => simp_all [beq_eq_decide, ← Option.isNone_iff_eq_none]
  next h1 h2 => simp_all

theorem exec_cisternWake (s : State) : ∃ t, exec .cisternWake s = .next t ∧ t.mem.bytes = s.mem.bytes ∧ t.work.gangs = s.work.gangs ∧
    t.mem.reqs = s.mem.reqs.map (fun r => (r.1, { r.2 with
      parts := r.2.parts.map (fun p => if s.wakeDue r.1 p then { p with st := .woken s.clk.now } else p) })) := by
  by_cases hc : s.clk.subj.c = 1
  · obtain ⟨hb, hw, hr⟩ := s.wakeWhere_frame (fun r _ _ _ _ _ hp => s.wakeDue_gate hc hp r) s.wakeDue_elsewhere
    exact ⟨_, if_pos hc, hb, congrArg Work.gangs hw, hr⟩
  · obtain ⟨hb, hw, hr⟩ := s.wakeWhere_frame (fun r _ _ _ _ _ hp => s.wakeDue_timer hc hp r) s.wakeDue_elsewhere
    have ho := State.wakeOps_frame
    exact ⟨_, if_neg hc, (congrArg Mem.bytes (ho _ _).1).trans hb, (ho _ _).2.trans (congrArg Work.gangs hw), (congrArg Mem.reqs (ho _ _).1).trans hr⟩

/-! ## The reissue port (R211) -/

theorem exec_reissue_none {s : State} (h : s.reissueNext s.clk.subj.a = none) : exec .reissue s = .next s := by
  change execReissue s = _
  simp only [execReissue, h]

/-- The state in which a port has reissued in this clk. -/
def State.portUsed (s : State) : State := { s with mem := { s.mem with reissued := mput s.clk.subj.a s.clk.now s.mem.reissued } }

/-- The port of the event works on in the next clk when an entry is left. -/
def State.portGoesOn (s u : State) : State := if (u.reissueNext s.clk.subj.a).isSome then u.kickReissue s.clk.subj.a else u

theorem exec_reissue_req {s : State} {r : Nat} {q : Req} (h : s.reissueNext s.clk.subj.a = some (.req r)) (hq : s.req? r = some q) :
    exec .reissue s = .next (s.portGoesOn ((List.range q.parts.length).foldl
      (fun (u : State) b => if ((q.parts[b]?).bind Part.wokenAt).isSome then u.sendPart r b else u) s.portUsed)) := by
  have hr : s.portUsed.reissueReq r = (List.range q.parts.length).foldl
      (fun (u : State) b => if ((q.parts[b]?).bind Part.wokenAt).isSome then u.sendPart r b else u) s.portUsed := by
    have hq' : s.portUsed.req? r = some q := hq
    simp only [State.reissueReq, hq']
    congr 1
    funext u b
    cases (q.parts[b]?).bind Part.wokenAt <;> rfl
  rw [← hr]
  change execReissue s = _
  simp only [execReissue, h]
  rfl

theorem exec_reissue_op {s : State} {id : Nat} (h : s.reissueNext s.clk.subj.a = some (.op id)) :
    exec .reissue s = .next (s.portGoesOn (s.portUsed.reissueOp id)) := by
  change execReissue s = _
  simp only [execReissue, h]
  rfl

theorem exec_reissue_unc {s : State} {id : Nat} (h : s.reissueNext s.clk.subj.a = some (.unc id)) :
    exec .reissue s = .next (s.portGoesOn (s.portUsed.reissueUnc id)) := by
  change execReissue s = _
  simp only [execReissue, h]
  rfl

/-! ## Leases, fetches and light faults (R88, R89, R232) -/

theorem exec_leaseExpiry (s : State) : exec .leaseExpiry s = .next { s with mem := { s.mem with
    l1 := s.mem.l1.filter (fun l => decide (¬ (l.cluster = s.clk.subj.a ∧ l.loc = s.clk.subj.b ∧ l.expiry ≤ s.clk.now))) } } := by
  have hf : (fun l : L1Line => decide (¬ (l.cluster = s.clk.subj.a ∧ l.loc = s.clk.subj.b ∧ l.expiry ≤ s.clk.now))) =
      fun l => !(l.cluster == s.clk.subj.a && l.loc == s.clk.subj.b && decide (l.expiry ≤ s.clk.now)) := by
    funext l
    simp only [decide_not, Bool.decide_and, beq_eq_decide, Bool.and_assoc]
  rw [hf]
  rfl

theorem exec_fetchWake (s : State) : exec .fetchWake s = .next { s with mem := { s.mem with
    fetches := s.mem.fetches.filter (fun y => decide (¬ (y.ctx = s.clk.subj.a ∧ y.page = s.clk.subj.b ∧ bounces y.cause = true))) } } := by
  have hf : (fun y : FetchWait => decide (¬ (y.ctx = s.clk.subj.a ∧ y.page = s.clk.subj.b ∧ bounces y.cause = true))) =
      fun y => !(y.ctx == s.clk.subj.a && y.page == s.clk.subj.b && bounces y.cause) := by
    funext y
    simp only [decide_not, Bool.decide_and, beq_eq_decide, Bool.and_assoc, Bool.decide_eq_true]
  rw [hf]
  rfl

theorem State.lightServe_leaf {s : State} {ctx va at_ size : Nat} {e : DWord} (w : Bool) (ha : s.pteAddr ctx va = some at_)
    (hl : (s.walkNow 0 ctx va).1 = .leaf e size) :
    s.lightServe ctx va w = (s.tableWrite at_ (e ||| 0x40 ||| (if w then 0x20 else 0))).dropTlb ctx
      (pageOf va / (pageBytes size / 65536) * (pageBytes size / 65536)) (pageBytes size / 65536) := by
  simp only [State.lightServe, ha, hl]

section
variable {s : State} {ctx : Nat} {va : DWord} {w : Bool}

theorem exec_lightFault_leaf {e : DWord} {size : Nat} (h : (s.lightServe ctx (ptrVa va) w).leafOf ctx (ptrVa va) = .leaf e size) :
    exec (.lightFault ctx va w) s = .next ((s.lightServe ctx (ptrVa va) w).wakePages ctx
      (pageOf (ptrVa va) / (pageBytes size / 65536) * (pageBytes size / 65536)) (pageBytes size / 65536) 0x0101) := by
  change execLightFault ctx va w s = _
  simp only [execLightFault, h]

theorem exec_lightFault_other (h : ∀ e size, (s.lightServe ctx (ptrVa va) w).leafOf ctx (ptrVa va) ≠ .leaf e size) :
    exec (.lightFault ctx va w) s = .next ((s.lightServe ctx (ptrVa va) w).wakePages ctx (pageOf (ptrVa va)) 1 0x0101) := by
  change execLightFault ctx va w s = _
  unfold execLightFault
  dsimp only
  split
  next e size hl => exact absurd hl (h e size)
  next => rfl

end

/-! ## Groups of protected teams (R253, R263) -/

/-- Every gang of a team has waited, at a scope, for what stands before an operation. -/
def State.teamDone (s : State) (tm : Team) (before : Nat) (sc : Scope) : Prop :=
  ∀ k ∈ tm.gangs, ∀ g, s.gang? k = some g → g.relDone s.clk.now before sc = true

theorem State.teamDone_iff (s : State) (tm : Team) (before : Nat) (sc : Scope) :
    tm.gangs.all (fun k => ((s.gang? k).map (fun g => g.relDone s.clk.now before sc)).getD true) = true ↔ s.teamDone tm before sc := by
  rw [List.all_eq_true]
  refine forall₂_congr fun k _ => ?_
  cases s.gang? k <;> simp

section
variable {s : State} {tm : Team} {p : Prot} (ht : s.team? s.clk.subj.a = some tm) (hp : tm.prot = some p)
include ht hp

theorem exec_groupRelease_arrives (hc : s.clk.subj.c = 2) : exec .groupRelease s = .next (s.arriveHeld s.clk.subj.a s.clk.subj.b) := by
  change execGroupRelease s = _
  simp only [execGroupRelease, ht, hp, if_pos hc]

theorem exec_groupRelease_closed {c : Nat × Nat} {rest : List (Nat × Nat)} (hc : s.clk.subj.c = 0) (hl : p.closed = c :: rest) :
    (s.clk.now < c.2 → exec .groupRelease s = .next s) ∧
    (c.2 ≤ s.clk.now →
      let later := p.snaps.filter (fun y => decide (c.1 < y.group))
      let snaps := if later = [] then p.snaps.drop (p.snaps.length - 1) else later
      let u := s.setTeam s.clk.subj.a { tm with prot := some { p with
        closed := rest, snaps := snaps.map (fun y => { y with rolls := 0 }), recs := p.recs.filter (fun h => h.1 ≠ c.1) } }
      exec .groupRelease s = .next (((p.recs.filter (fun h => h.1 = c.1)).foldl State.releaseRec u).sendGroup s.clk.subj.a c.1)) := by
  have h2 : ¬ s.clk.subj.c = 2 := by omega
  have h1 : ¬ s.clk.subj.c = 1 := by omega
  refine ⟨fun h => ?_, fun h => ?_⟩
  · change execGroupRelease s = _
    simp only [execGroupRelease, ht, hp, if_neg h2, if_neg h1, hl, if_pos h]
  · change execGroupRelease s = _
    simp only [execGroupRelease, ht, hp, if_neg h2, if_neg h1, hl, if_neg (Nat.not_lt.mpr h)]

theorem exec_groupRelease_next (hc : s.clk.subj.c = 1) :
    let ready := s.teamDone tm (((s.heldOf s.clk.subj.a s.clk.subj.b).map Prod.fst).foldl min s.clk.fresh)
      (scopeOfSub (((s.heldOf s.clk.subj.a s.clk.subj.b).map (fun y => y.2.2)).foldl min 65536))
    (ready → exec .groupRelease s = .next (s.sendGroup s.clk.subj.a s.clk.subj.b)) ∧
    (¬ ready → exec .groupRelease s = .next (s.sched (s.clk.now + 1) .groupRelease s.clk.subj.a s.clk.subj.b 1)) := by
  have h2 : ¬ s.clk.subj.c = 2 := by omega
  change (_ → execGroupRelease s = _) ∧ (_ → execGroupRelease s = _)
  simp only [execGroupRelease, ht, hp, if_neg h2, if_pos hc]
  exact ⟨fun h => if_pos ((s.teamDone_iff tm _ _).mpr h), fun h => if_neg (mt (s.teamDone_iff tm _ _).mp h)⟩

end

/-! ## Retention (R232, R273) -/

section
variable {s : State}

theorem exec_retentionEntry_idle (h : (s.arrNow s.clk.subj.a).st = .active) (hl : (s.arrNow s.clk.subj.a).last + 1200000 ≤ s.clk.now) :
    exec .retentionEntry s = .next ((s.setArr s.clk.subj.a { s.arrNow s.clk.subj.a with st := .entering s.clk.now }).sched
      (s.clk.now + 4 * arrKib s.clk.subj.a) .retentionEntryDone s.clk.subj.a s.clk.now) := by
  change execRetentionEntry s = _
  simp only [execRetentionEntry, h]
  exact if_pos hl

theorem exec_retentionEntry_used (h : (s.arrNow s.clk.subj.a).st = .active) (hl : s.clk.now < (s.arrNow s.clk.subj.a).last + 1200000) :
    exec .retentionEntry s = .next (s.sched ((s.arrNow s.clk.subj.a).last + 1200000) .retentionEntry s.clk.subj.a) := by
  change execRetentionEntry s = _
  simp only [execRetentionEntry, h]
  exact if_neg (Nat.not_le.mpr hl)

theorem exec_retentionEntry_other (h : (s.arrNow s.clk.subj.a).st ≠ .active) : exec .retentionEntry s = .next s := by
  change execRetentionEntry s = _
  unfold execRetentionEntry
  dsimp only
  split
  next ha => exact absurd ha h
  next => rfl

theorem exec_retentionEntryDone {n : Nat} (h : (s.arrNow s.clk.subj.a).st = .entering n) :
    exec .retentionEntryDone s = if n = s.clk.subj.b then .next (s.setArr s.clk.subj.a { s.arrNow s.clk.subj.a with st := .retained }) else .next s := by
  change execRetentionEntryDone s = _
  simp only [execRetentionEntryDone, h]

theorem exec_retentionExitDone {till : Nat} (h : (s.arrNow s.clk.subj.a).st = .leaving till) :
    exec .retentionExitDone s = if till ≤ s.clk.now then
      .next ((s.setArr s.clk.subj.a { s.arrNow s.clk.subj.a with st := .active }).sched ((s.arrNow s.clk.subj.a).last + 1200000) .retentionEntry s.clk.subj.a)
    else .next s := by
  change execRetentionExitDone s = _
  simp only [execRetentionExitDone, h]
  rfl

end

/-! ## A stalled replay (R287) -/

/-- Some part of a context waits on the order gate of a die. -/
def State.waitsOnGate (s : State) (ctx die : Nat) : Prop :=
  ∃ r ∈ s.mem.reqs, r.2.ctx = ctx ∧ ∃ p ∈ r.2.parts, ∃ key, p.st = .cistern 0x0305 die key

/-- What REPLAY_STALL looks for among the requests. -/
def State.gateWaits (s : State) (ctx die : Nat) : Bool :=
  s.mem.reqs.any (fun r => r.2.ctx == ctx && r.2.parts.any (fun p => match p.st with
    | .cistern 0x0305 d _ => d == die
    | _ => false))

theorem State.gateWaits_iff (s : State) (ctx die : Nat) : s.gateWaits ctx die = true ↔ s.waitsOnGate ctx die := by
  simp only [State.gateWaits, State.waitsOnGate, List.any_eq_true, Bool.and_eq_true, beq_iff_eq]
  refine exists_congr fun r => and_congr_right fun _ => and_congr_right fun _ => exists_congr fun p => and_congr_right fun _ => ?_
  split
  next d key hp => simp [hp]
  next hp => exact ⟨nofun, fun ⟨key, h⟩ => absurd h (hp die key)⟩

section
variable {s : State} {x : Sess} (hx : mget s.clk.subj.a s.adm.sess = some x)
include hx

theorem exec_replayStall_eq : exec .replayStall s =
    if !s.gateWaits s.clk.subj.a s.clk.subj.b || x.diverged then .next s
    else if s.clk.now < x.moved.getD s.clk.subj.b 0 + 1200000 then
      .next (s.sched (x.moved.getD s.clk.subj.b 0 + 1200000) .replayStall s.clk.subj.a s.clk.subj.b)
    else .next (s.diverge s.clk.subj.a 5 s.clk.subj.b none 0 ((s.gateWord s.clk.subj.a s.clk.subj.b x).getD 0) 0xFFFF (x.word.getD s.clk.subj.b 0) 0) := by
  change execReplayStall s = _
  simp only [execReplayStall, hx]
  rfl

theorem exec_replayStall_none (h : ¬ s.waitsOnGate s.clk.subj.a s.clk.subj.b ∨ x.diverged = true) : exec .replayStall s = .next s := by
  rw [← State.gateWaits_iff] at h
  exact (exec_replayStall_eq hx).trans (if_pos (by simpa using h))

theorem exec_replayStall_waits (h : s.waitsOnGate s.clk.subj.a s.clk.subj.b) (hd : x.diverged = false) :
    exec .replayStall s = if s.clk.now < x.moved.getD s.clk.subj.b 0 + 1200000 then
      .next (s.sched (x.moved.getD s.clk.subj.b 0 + 1200000) .replayStall s.clk.subj.a s.clk.subj.b)
    else .next (s.diverge s.clk.subj.a 5 s.clk.subj.b none 0 ((s.gateWord s.clk.subj.a s.clk.subj.b x).getD 0) 0xFFFF (x.word.getD s.clk.subj.b 0) 0) := by
  rw [← State.gateWaits_iff] at h
  exact (exec_replayStall_eq hx).trans (if_neg (by simp [h, hd]))

end

/-! ## The statement -/

/-- Settles O59: each event's own lemma above, read for the walk, part, entry, page, team, array or session that it concerns. -/
theorem memorySystemEvents : Obligations.MemorySystemEvents := by
  unfold Obligations.MemorySystemEvents
  intro s
  refine ⟨?_, exec_sluiceBounce_op, exec_sluiceBounce_unc, ?_, ?_, ?_, exec_leaseExpiry s, exec_fetchWake s, ?_, ?_, ?_, ?_⟩
  · exact fun k hk => ⟨exec_walkComplete_old hk, exec_walkComplete_present hk⟩
  · intro q p cls till hc hq hp ht hs
    have he := exec_sluiceBounce_part hc
    exact ⟨fun h => he.trans (congrArg _ (State.sluiced_early hq hp ht h hs)), fun h hk => he.trans (congrArg _ (State.sluiced_silent hq hp ht h hk hs)),
      fun h hk hw => he.trans (congrArg _ (State.sluiced_walking hq hp ht h hk hw)),
      fun h hk hf => he.trans (congrArg _ (State.sluiced_flying hq hp ht h hk hf))⟩
  · exact exec_cisternWake s
  · exact ⟨exec_reissue_none, fun r q h hq => exec_reissue_req h hq, fun id h => exec_reissue_op h, fun id h => exec_reissue_unc h⟩
  · exact fun ctx va w => ⟨fun at_ e size ha hl => State.lightServe_leaf w ha hl, fun e size h => exec_lightFault_leaf h, exec_lightFault_other⟩
  · exact fun tm p ht hp => ⟨exec_groupRelease_arrives ht hp, fun c rest hc hl => exec_groupRelease_closed ht hp hc hl, exec_groupRelease_next ht hp⟩
  · exact ⟨exec_retentionEntry_idle, exec_retentionEntry_used, exec_retentionEntry_other,
      fun h => (exec_retentionEntryDone h).trans (if_pos rfl), fun n h hn => (exec_retentionEntryDone h).trans (if_neg hn),
      fun till h ht => (exec_retentionExitDone h).trans (if_pos ht), fun till h ht => (exec_retentionExitDone h).trans (if_neg (Nat.not_le.mpr ht))⟩
  · exact fun y hy => ⟨exec_replayStall_none hy, fun hw hd h => (exec_replayStall_waits hy hw hd).trans (if_pos h),
      fun hw hd h => (exec_replayStall_waits hy hw hd).trans (if_neg (Nat.not_lt.mpr h))⟩

end Sys2Proof.Machine
end

section
/-! SUPPORT. Answers of homes: results that land now, the end of a request, its last part, the bytes of a value, and the statement that they settle. -/

namespace Sys2Proof.Machine

/-! ## Bytes of a value (R3, R447) -/

theorem toBytes_length (n v : Nat) : (toBytes n v).length = n := by
  induction n generalizing v with
  | zero => rfl
  | succ n ih => rw [toBytes, List.length_cons, ih]

theorem ofBytes_toBytes (n v : Nat) : ofBytes (toBytes n v) = v % 2 ^ (8 * n) := by
  induction n generalizing v with
  | zero => simp [toBytes, ofBytes, Nat.mod_one]
  | succ n ih =>
    rw [toBytes, ofBytes, ih, BitVec.toNat_ofNat, Nat.mul_succ, Nat.pow_add, Nat.mul_comm (2 ^ (8 * n)), Nat.mod_mul]

theorem extendBytes_failed {bs : List (Option Byte)} (h : none ∈ bs) (sg : Bool) : extendBytes sg bs = 0xFFFFFFFF :=
  if_pos (List.any_eq_true.2 ⟨none, h, rfl⟩)

/-- The bytes of a number, all of them there, extended: its two's complement where it is signed. -/
theorem extendBytes_some (sg : Bool) (bs : List Byte) : extendBytes sg (bs.map some) =
    if sg ∧ 2 ^ (8 * bs.length - 1) ≤ ofBytes bs then BitVec.ofInt 32 ((ofBytes bs : Int) - (2 ^ (8 * bs.length) : Nat)) else BitVec.ofNat 32 (ofBytes bs) := by
  have hn : (bs.map some).any Option.isNone = false := by simp
  simp [extendBytes, hn]

theorem extendBytes_toBytes {n : Nat} (h0 : 0 < n) (sg : Bool) (v : BitVec (8 * n)) :
    extendBytes sg ((toBytes n v.toNat).map some) = if sg then v.signExtend 32 else v.setWidth 32 := by
  have hp : 2 ^ (8 * n) = 2 * 2 ^ (8 * n - 1) := by rw [← Nat.pow_succ']; congr 1; omega
  rw [extendBytes_some, toBytes_length, ofBytes_toBytes, Nat.mod_eq_of_lt v.isLt]
  cases sg with
  | false => simp
  | true =>
    rw [BitVec.signExtend, BitVec.toInt_eq_toNat_cond]
    by_cases h : 2 ^ (8 * n - 1) ≤ v.toNat
    · rw [if_pos ⟨rfl, h⟩, if_pos rfl, if_neg (by omega)]
    · rw [if_neg (fun hc => h hc.2), if_pos rfl, if_pos (by omega), BitVec.ofInt_natCast]

/-! ## Results that land now (R183, R185, R377) -/

theorem Gang.push_variable (g : Gang) {x : Pend} (h : x.fixed = false) : g.push x = { g with pend := pendInsert x g.pend } :=
  if_neg (by simp [h])

/-- In `u` the writes `ws` of a gang land now, each with a variable latency, and nothing else of the gang, of its team or of memory has changed since `s`. -/
structure State.Lands (s u : State) (k : Nat) (g : Gang) (ws : List Write) : Prop where
  mem : u.mem = s.mem
  now : u.clk.now = s.clk.now
  teams : u.work.teams = s.work.teams
  gang : ∃ l ys, u.gang? k = some { g with pend := l } ∧ l.Perm (ys ++ g.pend) ∧ ys.map Pend.w = ws ∧ ∀ y ∈ ys, y.land = s.clk.now ∧ y.fixed = false

theorem State.lands_push {s u : State} {k : Nat} {g : Gang} {x : Pend} (hu : u = { s with clk := u.clk }) (hn : u.clk.now = s.clk.now)
    (hl : x.land = s.clk.now) (hf : x.fixed = false) : s.Lands (u.setGang k (g.push x)) k g [x.w] := by
  refine ⟨by rw [hu]; rfl, hn, by rw [hu]; rfl, _, [x], ?_, pendInsert_perm x g.pend, rfl, by simp [hl, hf]⟩
  rw [Gang.push_variable g hf]
  exact mget_mput_same ..

section
variable {s : State} {k : Nat} {g : Gang} (hg : s.gang? k = some g)
include hg

theorem State.landVar1_lands (run : Nat) (lanes : Mask) (addr : DWord) (t : Tag) (w : Write) : s.Lands (s.landVar1 k run lanes addr t w) k g [w] := by
  simp only [State.landVar1, hg]
  split
  · exact State.lands_push rfl rfl rfl rfl
  · split
    · exact State.lands_push rfl rfl rfl rfl
    · exact State.lands_push (u := s.drawFree.2) rfl rfl rfl rfl

theorem State.landVar_lands (run : Nat) (lanes : Mask) (addr : DWord) (t : Tag) (ws : List Write) : s.Lands (s.landVar k run lanes addr t ws) k g ws := by
  induction ws generalizing s g with
  | nil => exact ⟨rfl, rfl, rfl, g.pend, [], hg, .refl _, rfl, by simp⟩
  | cons w ws ih =>
    have h1 := State.landVar1_lands hg run lanes addr t w
    obtain ⟨l1, ys1, g1, p1, w1, y1⟩ := h1.gang
    have h2 := ih g1
    obtain ⟨l2, ys2, g2, p2, w2, y2⟩ := h2.gang
    refine ⟨h2.mem.trans h1.mem, h2.now.trans h1.now, h2.teams.trans h1.teams, l2, ys1 ++ ys2, g2, ?_, by simp [w1, w2], ?_⟩
    · calc l2.Perm (ys2 ++ l1) := p2
        _ |>.Perm (ys2 ++ (ys1 ++ g.pend)) := p1.append_left ys2
        _ |>.Perm (ys1 ++ ys2 ++ g.pend) := by rw [← List.append_assoc]; exact List.perm_append_comm.append_right g.pend
    · intro y hy
      rcases List.mem_append.1 hy with hy | hy
      · exact y1 y hy
      · exact ⟨(y2 y hy).1.trans h1.now, (y2 y hy).2⟩

/-- A result of a gang whose team is not protected lands in the gang alone. -/
theorem State.landOp_lands (hp : s.prot? g.team = none) (id run : Nat) (plan : Mask) (pc : DWord) (ws : List Write) :
    s.Lands (s.landOp k id run plan pc ws) k g ws := by
  have h := State.landVar_lands hg run plan pc .general ws
  have hp' : (s.landVar k run plan pc .general ws).prot? g.team = none := by rw [State.prot?, State.team?, h.teams]; exact hp
  simpa only [State.landOp, hg, hp'] using h

end

/-! ## The end of a request (R188, R209, R233) -/

/-- The request leaves, and entries chained behind it wake in the next clk. -/
def State.dropReq (s : State) (r : Nat) : State :=
  let t := { s with mem := { s.mem with reqs := mdel r s.mem.reqs, noFill := s.mem.noFill.filter (fun n => n.2.2 ≠ r) } }
  if t.mem.reqs.any (fun x => x.2.parts.any (fun p => match p.st with
    | .cistern 0x0302 key _ => key == r
    | _ => false)) then t.sched (s.clk.now + 1) .cisternWake r else t

theorem State.dropReq_frame (s : State) (r : Nat) :
    (s.dropReq r).work = s.work ∧ (s.dropReq r).mem.bytes = s.mem.bytes ∧ (s.dropReq r).mem.reqs = mdel r s.mem.reqs := by
  unfold State.dropReq
  dsimp only
  split <;> exact ⟨rfl, rfl, rfl⟩

/-- The latest GWCT of a request's parts. -/
def Req.gwct (q : Req) : Nat := q.parts.foldl (fun m p => max m p.gwct) 0

/-- A part has a peer as its home while the timebase is locked: its GWCT is of another module's time. -/
def State.farPart (s : State) (p : Part) : Bool := match p.home with
  | some (.peer _ false) => s.adm.locked
  | _ => false

section
variable {s : State} {r : Nat} {q : Req}

/-- A load has landed its values before it ends: its counter is left to lower. -/
theorem State.finishReq_load (h : q.kind = .ld ∨ q.kind = .uld ∨ q.kind = .dget) : s.finishReq r q = (s.opComplete q.gang r q.cls).dropReq r := by
  rcases h with h | h | h <;> simp only [State.finishReq, h] <;> rfl

/-- A store ends with the acknowledgement of its write. -/
theorem State.finishReq_store (h : q.kind = .st ∨ q.kind = .ust ∨ q.kind = .dset) :
    s.finishReq r q = ((s.ackWrite q.gang r q.gwct (q.parts.any s.farPart)).opComplete q.gang r q.cls).dropReq r := by
  rcases h with h | h | h <;> simp only [State.finishReq, h] <;> rfl

end

/-- A gang without an operation of it that has completed. -/
def Gang.completed (g : Gang) (id cls : Nat) : Gang :=
  { g with
    ops := if cls < 4 then dropDone cls (g.ops.map (fun o => if o.id = id ∧ o.cls = cls then { o with done := true } else o)) else g.ops
    acq := g.acq.filter (· ≠ id) }

theorem State.opComplete_gang {s : State} {k : Nat} {g : Gang} (hg : s.gang? k = some g) (id cls : Nat) :
    (s.opComplete k id cls).gang? k = some (g.completed id cls) := by
  rw [State.gang?] at hg
  simp only [State.opComplete, State.gang?, State.modGang_gangs, mget_mmod, if_true, hg, Option.map_some, Gang.completed, Gang.opDone]
  split <;> rfl

/-- A gang whose write has been acknowledged. -/
def Gang.acked (g : Gang) (id gwct : Nat) (far : Bool) : Gang :=
  { g with writes := g.writes.map (fun w => if w.req = id then { w with acked := true, gwct := max w.gwct gwct, far := w.far || far } else w) }

theorem State.ackWrite_gang {s : State} {k : Nat} {g : Gang} (hg : s.gang? k = some g) (id gwct : Nat) (far : Bool) :
    (s.ackWrite k id gwct far).gang? k = some (g.acked id gwct far) := by
  rw [State.gang?] at hg
  simp only [State.ackWrite, State.gang?, State.modGang_gangs, mget_mmod, if_true, hg, Option.map_some]
  rfl

/-! ## The lanes of a request that are done -/

theorem Mask.mem_slots {m : Mask} {l : Nat} : l ∈ m.slots ↔ l < 32 ∧ m.has l = true := by
  simp [Mask.slots, Mask.has]

theorem Mask.slots_union (ls : List Nat) (m : Mask) (i : Nat) (hi : i < 32) :
    (ls.foldl (fun m l => m ||| Mask.one l) m).getLsbD i = (m.getLsbD i || decide (i ∈ ls)) := by
  induction ls generalizing m with
  | nil => simp
  | cons l ls ih =>
    rw [List.foldl_cons, ih, BitVec.getLsbD_or, Mask.one, BitVec.getLsbD_twoPow, Bool.or_assoc]
    rcases eq_or_ne i l with rfl | h
    · simp [hi]
    · simp [h, h.symm]

theorem Req.lanesDone_all {q : Req} (h : ∀ p ∈ q.parts, p.st = .done) : q.lanesDone = q.lanes := by
  have hf : q.parts.filter (fun p => p.st != .done) = [] := List.filter_eq_nil_iff.2 fun p hp => by simp [h p hp]
  simp only [Req.lanesDone, hf, List.flatMap_nil, List.contains_nil, Bool.false_eq_true, if_false]
  refine BitVec.eq_of_getLsbD_eq fun i hi => ?_
  rw [Mask.slots_union _ _ i hi]
  simp [Mask.mem_slots, Mask.has, hi]

theorem Req.lanesDone_none {q : Req} (h : ∀ l < 32, q.lanes.has l = true → ∃ p ∈ q.parts, p.st ≠ .done ∧ ∃ y ∈ p.accs, y.lane = l) :
    q.lanesDone = 0 := by
  refine foldl_fixed_of_mem fun l hl => if_pos ?_
  obtain ⟨hl, hm⟩ := Mask.mem_slots.1 hl
  obtain ⟨p, hp, hs, y, hy, e⟩ := h l hl hm
  simp only [List.contains_iff_mem, List.mem_flatMap, List.mem_filter, List.mem_map]
  exact ⟨p, ⟨hp, by simpa using hs⟩, y, hy, e⟩

/-! ## The last part of a request (R105, R106) -/

/-- A request whose parts are all done. -/
def Req.ended (q : Req) : Req := { q with parts := q.parts.map (fun p => { p with st := .done }) }

theorem Req.laneBytes_ended (q : Req) (l : Nat) : q.ended.laneBytes l = q.laneBytes l := by
  simp only [Req.laneBytes, Req.bytesOf, Req.ended, List.findSome?_map]
  rfl

theorem Req.value_ended (q : Req) (l : Nat) : q.ended.value l = q.value l := by
  simp only [Req.value, Req.laneBytes_ended]
  rfl

/-- What a request brings does not depend on how far its parts have come. -/
theorem Req.lands_ended (q : Req) (m : Mask) : q.ended.lands m = q.lands m := by
  simp only [Req.lands, Req.value_ended, Req.laneBytes_ended]
  rfl

@[simp] theorem Req.ended_kind (q : Req) : q.ended.kind = q.kind := rfl
@[simp] theorem Req.ended_sample (q : Req) : q.ended.sample = q.sample := rfl

theorem Req.ended_done (q : Req) : ∀ p ∈ q.ended.parts, p.st = .done := by
  intro p hp
  obtain ⟨p, _, rfl⟩ := List.mem_map.1 hp
  rfl

theorem Req.ended_all (q : Req) : q.ended.parts.all (fun p => p.st == .done) = true :=
  List.all_eq_true.2 fun p hp => by simp [q.ended_done p hp]

section
variable {s : State} {r : Nat} {q : Req} {p : Part} (hq : s.req? r = some q) (hp : q.parts = [p])
include hq hp

theorem State.modPart_ended : s.modPart r 0 (fun p => { p with st := .done }) = s.setReq r q.ended := by
  unfold State.modPart State.modReq State.setReq
  rw [mmod_some hq, Req.ended, hp]
  rfl

/-- The one part of a load that is left is done: the values of all lanes land, and the request ends. -/
theorem State.partDone_load (hs : q.sample = none) (hk : q.kind = .ld ∨ q.kind = .uld ∨ q.kind = .dget) (h0 : q.lanes ≠ 0) (hl : q.lanesDone = 0) :
    s.partDone r 0 = ((s.setReq r q.ended).landOp q.gang r q.run q.plan q.pc (q.lands q.lanes)).finishReq r q.ended := by
  have hr : (s.setReq r q.ended).req? r = some q.ended := mget_mput_same ..
  have hm : q.ended.lanesDone &&& ~~~q.lanesDone = q.lanes := by
    rw [hl, Req.lanesDone_all q.ended_done]
    exact BitVec.and_allOnes
  simp only [State.partDone, hq, State.modPart_ended hq hp, hr, hm, if_neg h0, Req.lands_ended, q.ended_all, if_true, Req.ended_kind, Req.ended_sample, hs]
  rcases hk with hk | hk | hk <;> simp only [hk] <;> rfl

/-- The one part of a store that is left is done: the request ends. -/
theorem State.partDone_store (hs : q.sample = none) (hk : q.kind = .st ∨ q.kind = .ust ∨ q.kind = .dset) :
    s.partDone r 0 = (s.setReq r q.ended).finishReq r q.ended := by
  have hr : (s.setReq r q.ended).req? r = some q.ended := mget_mput_same ..
  simp only [State.partDone, hq, State.modPart_ended hq hp, hr, q.ended_all, if_true, Req.ended_kind, Req.ended_sample, hs]
  rcases hk with hk | hk | hk <;> simp only [hk] <;> rfl

/-- An answer of a home that exists, without a line for an L1, ends its part. -/
theorem State.answer_accepted (ha : p.st = .accepted) (hh : ∀ d, p.home ≠ some (.out d)) (hl : p.line = none) : s.answer r 0 = s.partDone r 0 := by
  have h0 : q.parts[0]? = some p := by rw [hp]; rfl
  -- By `hh` the home is none that does not exist, and by `hl` no line enters an L1: what is left is `partDone`.
  simp only [State.answer, hq, h0, ha, hl]

end

/-! ## The two answers (R105, R106, R188, R233) -/

/-- A request has gone, and no byte of memory has changed since `s`. -/
def State.Gone (s t : State) (r : Nat) : Prop := t.req? r = none ∧ ∀ a, readByte t.mem.bytes a = readByte s.mem.bytes a

theorem State.dropReq_gone {s u : State} {r : Nat} {q : Req} (hw : Map.wf s.mem.reqs = true) (h : u.mem = (s.setReq r q).mem) : s.Gone (u.dropReq r) r := by
  obtain ⟨_, hb, hr⟩ := u.dropReq_frame r
  refine ⟨?_, fun a => by rw [hb, h]; rfl⟩
  rw [State.req?, hr, h, State.setReq_reqs, mget_mdel r r (Map.wfFrom_mput q (Nat.zero_le r) hw), if_pos rfl]

theorem State.dropReq_gang? (s : State) (r k : Nat) : (s.dropReq r).gang? k = s.gang? k := by
  rw [State.gang?, (s.dropReq_frame r).1, State.gang?]

section
variable {s : State} {r : Nat} {q : Req} {p : Part} {g : Gang} (hq : s.req? r = some q) (hg : s.gang? q.gang = some g) (hp : q.parts = [p])
  (hs : q.sample = none) (hw : Map.wf s.mem.reqs = true)
include hq hg hp hs hw

/-- When the one part of a load is done, its values land now and its counter falls. -/
theorem State.partDone_load_spec (hr : s.prot? g.team = none) (hk : q.kind = .ld ∨ q.kind = .uld ∨ q.kind = .dget) (h0 : q.lanes ≠ 0) (hl : q.lanesDone = 0) :
    s.Gone (s.partDone r 0) r ∧ ∃ l ys, (s.partDone r 0).gang? q.gang = some { g.completed r q.cls with pend := l } ∧ l.Perm (ys ++ g.pend) ∧
      ys.map Pend.w = q.lands q.lanes ∧ ∀ y ∈ ys, y.land = s.clk.now ∧ y.fixed = false := by
  have h := State.landOp_lands (s := s.setReq r q.ended) hg hr r q.run q.plan q.pc (q.lands q.lanes)
  obtain ⟨l, ys, hl', hys⟩ := h.gang
  rw [State.partDone_load hq hp hs hk h0 hl, State.finishReq_load (q := q.ended) hk]
  refine ⟨State.dropReq_gone hw h.mem, l, ys, ?_, hys⟩
  rw [State.dropReq_gang?]
  exact State.opComplete_gang hl' r q.cls

/-- When the one part of a store is done, its write is acknowledged with the GWCT of its home, and its counter falls. -/
theorem State.partDone_store_spec (hk : q.kind = .st ∨ q.kind = .ust ∨ q.kind = .dset) :
    s.Gone (s.partDone r 0) r ∧ (s.partDone r 0).gang? q.gang = some ((g.acked r p.gwct (s.farPart p)).completed r q.cls) := by
  have hgw : q.ended.gwct = p.gwct := by simp [Req.gwct, Req.ended, hp]
  have hfar : q.ended.parts.any (s.setReq r q.ended).farPart = s.farPart p := by
    rw [Req.ended, hp]
    exact Bool.or_false _
  rw [State.partDone_store hq hp hs hk, State.finishReq_store (q := q.ended) hk, hgw, hfar]
  refine ⟨State.dropReq_gone hw rfl, ?_⟩
  rw [State.dropReq_gang?]
  exact State.opComplete_gang (State.ackWrite_gang (s := s.setReq r q.ended) hg r _ _) r q.cls

end

/-! ## The statement -/

/-- Settles O47: the answer of an accepted part is its end, `partDone`; a value is read off its bytes. -/
theorem answers : Obligations.Answers := by
  unfold Obligations.Answers
  refine ⟨fun s r q p g hq hg hp ha hh hs hn hr hw hsa hsb hsc => ⟨?_, ?_⟩,
    fun n v bs sg h0 _ => ⟨extendBytes_toBytes h0 sg v, fun h => extendBytes_failed h sg⟩⟩
  · intro hk h0 hacc
    have hl : q.lanesDone = 0 := Req.lanesDone_none fun l h32 hm => ⟨p, by simp [hp], by simp [ha], hacc l h32 hm⟩
    obtain ⟨hgone, l, ys, hgang, hperm, hws, hys⟩ := State.partDone_load_spec hq hg hp hs hw hr hk h0 hl
    have he : exec .loadComplete s = .next (s.partDone r 0) := by
      change Host.Outcome.next (s.answer s.clk.subj.a s.clk.subj.b) = _
      rw [hsa, hsb, State.answer_accepted hq hp ha hh hn]
    refine ⟨_, _, he, hgone, hgang, rfl, fun w hm => ?_, fun y hy => ?_⟩
    · obtain ⟨y, hy, rfl⟩ := List.mem_map.1 (hws ▸ hm)
      exact ⟨y, hperm.mem_iff.2 (List.mem_append_left _ hy), rfl, hys y hy⟩
    · rw [← hws]
      exact (List.mem_append.1 (hperm.mem_iff.1 hy)).symm.imp_right (List.mem_map_of_mem (f := Pend.w))
  · intro hk
    obtain ⟨hgone, hgang⟩ := State.partDone_store_spec hq hg hp hs hw hk
    have he : exec .storeAck s = .next (s.partDone r 0) := by
      change Host.Outcome.next (if s.clk.subj.c = 1 then s.eackDue s.clk.subj.a else s.answer s.clk.subj.a s.clk.subj.b) = _
      rw [hsa, hsb, hsc, if_neg (by decide), State.answer_accepted hq hp ha hh hn]
    exact ⟨_, he, hgone, hgang⟩

end Sys2Proof.Machine
end

section
/-! SUPPORT. The schedulers' events: one equation per case of each, and the statement that they settle. -/

namespace Sys2Proof.Machine

/-! ## The order of candidates (R113, R127 to R129, R158) -/

/-- Puts `c` behind the elements that stand above it, as `State.ordered` does with each candidate. -/
def insertBelow {α : Type} (above : α → α → Bool) (acc : List α) (c : α) : List α :=
  acc.takeWhile (fun x => above x c) ++ [c] ++ acc.dropWhile (fun x => above x c)

section
variable {α : Type} (above : α → α → Bool)

theorem insertBelow_perm (acc : List α) (c : α) : (insertBelow above acc c).Perm (c :: acc) := by
  unfold insertBelow
  rw [List.append_assoc, List.singleton_append]
  refine List.perm_middle.trans (List.Perm.of_eq ?_)
  rw [List.takeWhile_append_dropWhile]

theorem foldl_insertBelow_perm (l acc : List α) : (l.foldl (insertBelow above) acc).Perm (acc ++ l) := by
  induction l generalizing acc with
  | nil => rw [List.foldl_nil, List.append_nil]
  | cons c l ih => exact (ih _).trans (((insertBelow_perm above acc c).append_right l).trans List.perm_middle.symm)

variable {above} {r : α → α → Prop} (ht : ∀ a b c, r a b → r b c → r a c) (hr : ∀ a b, if above a b = true then r a b else r b a)
include ht hr

theorem insertBelow_pairwise {acc : List α} (c : α) (h : acc.Pairwise r) : (insertBelow above acc c).Pairwise r := by
  induction acc with
  | nil => exact List.pairwise_singleton r c
  | cons y l ih =>
    obtain ⟨hy, hl⟩ := List.pairwise_cons.1 h
    have hyc := hr y c
    by_cases ha : above y c = true
    · rw [if_pos ha] at hyc
      have hi : insertBelow above (y :: l) c = y :: insertBelow above l c := by simp [insertBelow, ha]
      rw [hi]
      refine List.pairwise_cons.2 ⟨fun z hz => ?_, ih hl⟩
      obtain rfl | hz := List.mem_cons.1 ((insertBelow_perm above l c).mem_iff.1 hz)
      · exact hyc
      · exact hy z hz
    · rw [if_neg ha] at hyc
      have hi : insertBelow above (y :: l) c = c :: y :: l := by simp [insertBelow, ha]
      rw [hi]
      refine List.pairwise_cons.2 ⟨fun z hz => ?_, h⟩
      obtain rfl | hz := List.mem_cons.1 hz
      · exact hyc
      · exact ht c y z hyc (hy z hz)

theorem foldl_insertBelow_pairwise (l : List α) {acc : List α} (h : acc.Pairwise r) : (l.foldl (insertBelow above) acc).Pairwise r := by
  induction l generalizing acc with
  | nil => exact h
  | cons c l ih => exact ih (insertBelow_pairwise ht hr c h)

end

/-- Candidates are inserted one after another, by an order that looks at their levels first. -/
theorem State.ordered_eq_foldl (s : State) (die : Nat) (cs : List DCand) : ∃ above : DCand → DCand → Bool,
    (∀ a b, if above a b = true then b.level ≤ a.level else a.level ≤ b.level) ∧ s.ordered die cs = cs.foldl (insertBelow above) [] := by
  refine ⟨_, fun a b => ?_, rfl⟩
  by_cases hl : a.level = b.level
  · rw [hl, ite_self]
  · simp only [ne_eq, hl, not_false_eq_true, if_true, decide_eq_true_eq]
    split <;> omega

theorem State.ordered_perm (s : State) (die : Nat) (cs : List DCand) : (s.ordered die cs).Perm cs := by
  obtain ⟨above, -, he⟩ := s.ordered_eq_foldl die cs
  exact he ▸ foldl_insertBelow_perm above cs []

theorem State.ordered_levels (s : State) (die : Nat) (cs : List DCand) : (s.ordered die cs).Pairwise (fun c d => d.level ≤ c.level) := by
  obtain ⟨above, ha, he⟩ := s.ordered_eq_foldl die cs
  exact he ▸ foldl_insertBelow_pairwise (fun _ _ _ hab hbc => hbc.trans hab) ha cs .nil

/-- What is picked is a candidate that could be placed, with the state in which it has been. -/
theorem State.pick_spec {s : State} {die : Nat} {c : DCand} {u : State} (h : s.pick die = some (c, u)) :
    c ∈ s.ordered die (s.dcands die) ∧ ∃ v, s.place die c = some v ∧
      u = { v with work := { v.work with lastSource := mput (4 * die + c.level) c.source v.work.lastSource } } := by
  obtain ⟨d, hd, hp⟩ := List.exists_of_findSome?_eq_some h
  obtain ⟨v, hv, he⟩ := Option.map_eq_some_iff.1 hp
  obtain ⟨rfl, rfl⟩ := Prod.mk.inj he
  exact ⟨hd, v, hv, rfl⟩

/-! ## Placing (R113, R127) -/

section
variable {s u : State} {c : DCand} {n : Nat}

theorem exec_teamPlace_launch (h : s.pick s.clk.subj.a = some (c, u)) (hk : c.kind = .launch n) :
    exec .teamPlace s = .next (u.dispatch s.clk.subj.a) := by
  obtain ⟨kind, _, _, _, _, _, _, _⟩ := c
  obtain rfl : kind = .launch n := hk
  change execTeamPlace s = _
  simp only [execTeamPlace, h]

theorem exec_teamPlace_other (h : ∀ c u, s.pick s.clk.subj.a = some (c, u) → ∀ n, c.kind ≠ .launch n) : exec .teamPlace s = .next s := by
  change execTeamPlace s = _
  unfold execTeamPlace
  split
  next hp => exact absurd rfl (h _ _ hp _)
  next => rfl

theorem exec_taskDispatch_task (h : s.pick s.clk.subj.a = some (c, u)) (hk : c.kind = .task n) :
    exec .taskDispatch s = .next (u.dispatch s.clk.subj.a) := by
  obtain ⟨kind, _, _, _, _, _, _, _⟩ := c
  obtain rfl : kind = .task n := hk
  change execTaskDispatch s = _
  simp only [execTaskDispatch, h]

theorem exec_taskDispatch_other (h : ∀ c u, s.pick s.clk.subj.a = some (c, u) → ∀ n, c.kind ≠ .task n) : exec .taskDispatch s = .next s := by
  change execTaskDispatch s = _
  unfold execTaskDispatch
  split
  next hp => exact absurd rfl (h _ _ hp _)
  next => rfl

end

/-! ## Teams that come back, are saved and estivate (R134, R135, R137) -/

/-- A team that has left its cluster may come back: its save has ended, nothing has killed it, and its rival runs. -/
def State.mayResume (s : State) (tm : Team) : Prop := tm.saveTill = 0 ∧ tm.kill = false ∧ s.rivalMayRun tm.rival = true

section
variable {s : State} {tm : Team} (ht : s.team? s.clk.subj.a = some tm)
include ht

theorem exec_teamResume_turn {c : DCand} {u : State} (hs : tm.st = .candidate) (hp : s.pick (s.teamDie s.clk.subj.a) = some (c, u))
    (hk : c.kind = .team s.clk.subj.a) : exec .teamResume s = .next (u.dispatch (s.teamDie s.clk.subj.a)) := by
  obtain ⟨kind, _, _, _, _, _, _, _⟩ := c
  obtain rfl : kind = .team s.clk.subj.a := hk
  change execTeamResume s = _
  simp only [execTeamResume, ht, hs, hp, if_true]

theorem exec_teamResume_waits (hs : tm.st = .candidate)
    (hp : ∀ c u, s.pick (s.teamDie s.clk.subj.a) = some (c, u) → c.kind ≠ .team s.clk.subj.a) : exec .teamResume s = .next s := by
  change execTeamResume s = _
  simp only [execTeamResume, ht, hs]
  split
  next hq => rw [if_neg fun he => hp _ _ hq (congrArg CandKind.team he)]
  next => rfl

theorem exec_teamResume_here (hs : tm.st = .placed ∨ tm.st = .stopping ∨ tm.st = .ended) : exec .teamResume s = .next s := by
  change execTeamResume s = _
  obtain hs | hs | hs := hs <;> simp only [execTeamResume, ht, hs]

theorem exec_teamResume_away (hs : tm.st = .stopped ∨ tm.st = .estivated) :
    (s.mayResume tm → exec .teamResume s = .next (((s.setTeam s.clk.subj.a
      { tm with st := .candidate, since := s.clk.now, age := 0, bound := s.sluiceOf tm.ctx 5 }).ageFrom 2 s.clk.subj.a).dispatch (s.teamDie s.clk.subj.a))) ∧
    (¬ s.mayResume tm → exec .teamResume s = .next s) := by
  change (_ → execTeamResume s = _) ∧ (_ → execTeamResume s = _)
  obtain hs | hs := hs <;> simp only [execTeamResume, ht, hs] <;> exact ⟨fun h => if_pos h, fun h => if_neg h⟩

theorem exec_saveComplete_due (h : tm.saveTill ≤ s.clk.now) :
    exec .saveComplete s = .next ((s.setTeam s.clk.subj.a { tm with saveTill := 0 }).dispatch (s.teamDie s.clk.subj.a)) := by
  change execSaveComplete s = _
  simp only [execSaveComplete, ht, if_pos h]

theorem exec_saveComplete_early (h : s.clk.now < tm.saveTill) : exec .saveComplete s = .next s := by
  change execSaveComplete s = _
  simp only [execSaveComplete, ht, if_neg (Nat.not_le.2 h)]

theorem exec_estivate_due {c : Nat} (hw : tm.waitFrom = some c) (hs : tm.st = .placed) (ha : s.teamWaits tm = true)
    (h : c + tm.estiv ≤ s.clk.now) : exec .estivate s = .next (s.vacate s.clk.subj.a .estivated) := by
  change execEstivate s = _
  simp only [execEstivate, ht, hw]
  exact if_pos ⟨hs, ha, h⟩

theorem exec_estivate_not (h : ∀ c, tm.waitFrom = some c → tm.st = .placed → s.teamWaits tm = true → s.clk.now < c + tm.estiv) :
    exec .estivate s = .next s := by
  change execEstivate s = _
  simp only [execEstivate, ht]
  split
  next c hw => exact if_neg fun ⟨hs, ha, hn⟩ => Nat.not_le.2 (h c hw hs ha) hn
  next => rfl

end

/-! ## Ageing (R129) -/

section
variable {s : State}

theorem exec_priorityAging_launch {l : Launch} (ha : s.clk.subj.a = 0) (hl : mget s.clk.subj.b s.work.launches = some l)
    (hs : l.since = s.clk.subj.c) (h3 : l.age < 3) :
    let u : State := { s with work := { s.work with launches := mput s.clk.subj.b { l with age := l.age + 1 } s.work.launches } }
    exec .priorityAging s = .next (if l.age < 2 then u.sched (s.clk.now + 65536) .priorityAging 0 s.clk.subj.b l.since else u) := by
  change execPriorityAging s = _
  simp only [execPriorityAging, ha, hl, hs, h3, and_self, if_true]

theorem exec_priorityAging_task {t : Task} (ha : s.clk.subj.a = 1) (ht : mget s.clk.subj.b s.work.tasks = some t)
    (hs : t.since = s.clk.subj.c) (hr : t.st = .ready) (h3 : t.age < 3) :
    let u : State := { s with work := { s.work with tasks := mput s.clk.subj.b { t with age := t.age + 1 } s.work.tasks } }
    exec .priorityAging s = .next (if t.age < 2 then u.sched (s.clk.now + 65536) .priorityAging 1 s.clk.subj.b t.since else u) := by
  change execPriorityAging s = _
  simp only [execPriorityAging, ha, ht, hs, hr, h3, and_self, if_true, Nat.one_ne_zero, if_false]

theorem exec_priorityAging_team {t : Team} (ha : s.clk.subj.a = 2) (ht : s.team? s.clk.subj.b = some t)
    (hs : t.since = s.clk.subj.c) (hc : t.st = .candidate) (h3 : t.age < 3) :
    let u := s.setTeam s.clk.subj.b { t with age := t.age + 1 }
    exec .priorityAging s = .next (if t.age < 2 then u.sched (s.clk.now + 65536) .priorityAging 2 s.clk.subj.b t.since else u) := by
  have h0 : ¬ s.clk.subj.a = 0 := by omega
  have h1 : ¬ s.clk.subj.a = 1 := by omega
  change execPriorityAging s = _
  simp only [execPriorityAging, if_neg h0, if_neg h1, ht, hs, hc, h3, and_self, if_true]
  rw [ha]
  rfl

end

/-! ## Stealing (R114, R115) -/

section
variable {s : State} {l : Launch} (hl : mget s.clk.subj.a s.work.launches = some l)
include hl

theorem exec_stealRequest_busy (hp : (s.dispatch s.clk.subj.c).placing s.clk.subj.c = true) :
    exec .stealRequest s = .next ((s.dispatch s.clk.subj.c).sched s.clk.now .stealRequest s.clk.subj.a s.clk.subj.b s.clk.subj.c) := by
  change execStealRequest s = _
  simp only [execStealRequest, hl, hp, if_true]

theorem exec_stealRequest_empty (hp : (s.dispatch s.clk.subj.c).placing s.clk.subj.c = false) (hc : mgetD [] s.clk.subj.c l.shares = []) :
    exec .stealRequest s = .next (s.sched (s.clk.now + 260) .stealAnswer s.clk.subj.a s.clk.subj.b s.clk.subj.c 0) := by
  change execStealRequest s = _
  simp only [execStealRequest, hl, hp, hc, Bool.false_eq_true, if_false, List.getLast?_nil]

theorem exec_stealRequest_gives {cs : List Nat} {c : Nat} (hp : (s.dispatch s.clk.subj.c).placing s.clk.subj.c = false)
    (hc : mgetD [] s.clk.subj.c l.shares = cs ++ [c]) :
    exec .stealRequest s = .next (({ s with work := { s.work with
      launches := mput s.clk.subj.a { l with shares := mput s.clk.subj.c cs l.shares } s.work.launches } } : State).sched
        (s.clk.now + 260) .stealAnswer s.clk.subj.a s.clk.subj.b s.clk.subj.c (c + 1)) := by
  change execStealRequest s = _
  simp only [execStealRequest, hl, hp, hc, Bool.false_eq_true, if_false, List.getLast?_append, List.getLast?_singleton, Option.some_or, List.dropLast_concat]

theorem exec_stealAnswer_empty (hd : s.clk.subj.d = 0) : exec .stealAnswer s = .next { s with work := { s.work with
    launches := mput s.clk.subj.a { l with dry := l.dry ++ [4 * s.clk.subj.b + s.clk.subj.c] } s.work.launches } } := by
  change execStealAnswer s = _
  simp only [execStealAnswer, hl, hd, if_true]

theorem exec_stealAnswer_chunk {c : Nat} (hd : s.clk.subj.d = c + 1) : exec .stealAnswer s = .next { s with work := { s.work with
    launches := mput s.clk.subj.a { l with
      shares := mput s.clk.subj.b (mgetD [] s.clk.subj.b l.shares ++ [c]) l.shares, dry := l.dry.filter (fun d => d / 4 != s.clk.subj.b) } s.work.launches } } := by
  change execStealAnswer s = _
  simp only [execStealAnswer, hl, hd, Nat.succ_ne_zero, if_false, Nat.add_sub_cancel]

end

/-! ## Pre-emption and stops (R130, R139) -/

theorem Gang.ask_eq (g : Gang) (now : Nat) : g.ask now = { g with stop := if g.stop = .run then .asking (max 1 now) else g.stop } := by
  unfold Gang.ask
  split
  next h => rw [if_pos h]
  next h => rw [if_neg h]

theorem State.askAll_eq (l : List Nat) (s : State) : l.foldl (fun (u : State) k => u.modGang k (fun g => g.ask u.clk.now)) s =
    l.foldl (fun (u : State) k => u.modGang k (fun g => { g with stop := if g.stop = .run then .asking (max 1 s.clk.now) else g.stop })) s := by
  induction l generalizing s with
  | nil => rfl
  | cons k l ih =>
    rw [List.foldl_cons, List.foldl_cons, ih]
    simp only [Gang.ask_eq, modGang_clk]

theorem State.stopTeam_placed {s : State} {t : Nat} {tm : Team} (ht : s.team? t = some tm) (hs : tm.st = .placed) :
    s.stopTeam t = (tm.gangs.foldl (fun (u : State) k => u.modGang k
      (fun g => { g with stop := if g.stop = .run then .asking (max 1 s.clk.now) else g.stop })) s).modTeam t (fun y => { y with st := .stopping }) := by
  rw [← State.askAll_eq]
  simp only [State.stopTeam, ht, hs]

theorem exec_preempt_none {s : State} (h : s.victim s.clk.subj.a = none) : exec .preempt s = .next s := by
  change execPreempt s = _
  simp only [execPreempt, h]

theorem exec_preempt_victim {s : State} {t : Nat} (h : s.victim s.clk.subj.a = some t) : exec .preempt s = .next (s.stopTeam t) := by
  change execPreempt s = _
  simp only [execPreempt, h]

section
variable {s : State} {g : Gang} (hg : s.gang? s.clk.subj.a = some g)
include hg

theorem exec_stopTimeout_asked {c : Nat} (hc : g.stop = .asked c) : exec .stopTimeout s =
    .next (s.setGang s.clk.subj.a { g with stop := if c + 65536 ≤ s.clk.now then .asked 0 else .asked c }) := by
  change Host.Outcome.next (s.modGang _ _) = _
  rw [State.modGang, mmod_some hg, ← State.setGang]
  simp only [hc]
  by_cases h : c + 65536 ≤ s.clk.now
  · rw [if_pos h, if_pos h]
  · rw [if_neg h, if_neg h, ← hc]

theorem exec_stopTimeout_other (hc : ∀ c, g.stop ≠ .asked c) : exec .stopTimeout s = .next (s.setGang s.clk.subj.a g) := by
  change Host.Outcome.next (s.modGang _ _) = _
  rw [State.modGang, mmod_some hg, ← State.setGang]
  split
  next c h => exact absurd h (hc c)
  next => rfl

end

/-! ## Compaction (R117, R118) -/

section
variable {s : State}

theorem exec_compaction_again (h : (mget s.clk.subj.a s.work.compact).isSome = true) : exec .compaction s = .next s := if_pos h

theorem exec_compaction_begins (h : mget s.clk.subj.a s.work.compact = none) :
    let x := s.evict s.clk.subj.a (s.keptBlocks s.clk.subj.a).length
    exec .compaction s = .next (({ x.2 with work := { x.2.work with
      compact := mput s.clk.subj.a ⟨s.clk.now + x.1, false⟩ x.2.work.compact } } : State).compactTick s.clk.subj.a) :=
  if_neg (by rw [h]; decide)

theorem exec_compactionDone_kept (h : s.keptBlocks s.clk.subj.a ≠ []) :
    let x := s.evict s.clk.subj.a (s.keptBlocks s.clk.subj.a).length
    exec .compactionDone s = .next (x.2.sched (s.clk.now + x.1) .compactionDone s.clk.subj.a) := if_pos h

theorem exec_compactionDone_packs (h : s.keptBlocks s.clk.subj.a = []) :
    let u := (packBlocks (s.liveGangs s.clk.subj.a)).foldl (fun (u : State) b => u.modGang b.1 (fun g => { g with base := b.2.1 })) s
    exec .compactionDone s = .next (({ u with work := { u.work with compact := mdel s.clk.subj.a u.work.compact } } : State).dispatch (dieOf s.clk.subj.a)) :=
  if_neg (not_not_intro h)

end

/-! ## The end of a regroup window (R173 to R175) -/

/-- The state without its gangs: all that the end of a regroup window keeps. -/
def State.sansGangs (s : State) : State := { s with work := { s.work with gangs := [] } }

theorem State.eq_withGangs_of_sansGangs {s t : State} (h : t.sansGangs = s.sansGangs) :
    t = { s with work := { s.work with gangs := t.work.gangs } } :=
  congrArg (fun u : State => { u with work := { u.work with gangs := t.work.gangs } }) h

theorem State.regroupClass_sansGangs (s : State) (gs : List (Nat × Gang)) : (s.regroupClass gs).sansGangs = s.sansGangs := by
  unfold State.regroupClass
  extract_lets lanes packs
  split
  · exact foldl_keeps State.sansGangs (f := fun (s : State) (g : Nat × Gang) => s.setGang g.1 g.2.leaveUnit) (fun _ _ => rfl) gs s
  · refine foldl_keeps State.sansGangs (fun u i => ?_) _ s
    split <;> rfl

/-- The gangs of a window that wait at its address with all their paths. -/
def State.waitingIn (s : State) (w : Window) : List (Nat × Gang) :=
  (w.gangs.filterMap (fun k => (s.gang? k).map (fun g => (k, g.settled s.clk.now)))).filter (fun g =>
    g.2.paths != [] && g.2.paths.all (fun p => p.wait == .regroup w.addr))

/-- What two gangs of a window share when they regroup together. -/
def Window.key (w : Window) (g : Gang) : List DWord × List Bool × Nat :=
  ((List.range 8).map (fun i => if w.liveG.getLsbD i then g.g.getD i 0 else 0),
    (List.range 7).map (fun i => w.liveQ.getLsbD i && g.q.getD (i + 1) false), g.rows)

/-- A window ends: its gangs regroup, class by class. -/
def State.windowOver (s : State) (w : Window) : State := (classesOf w.key (s.waitingIn w)).foldl State.regroupClass s

theorem State.windowOver_sansGangs (s : State) (w : Window) : (s.windowOver w).sansGangs = s.sansGangs :=
  foldl_keeps State.sansGangs State.regroupClass_sansGangs _ s

/-- A window that REGROUP_WINDOW_END ends. -/
def State.windowDue (s : State) (w : Window) : Bool := decide (w.cluster = s.clk.subj.a ∧ w.due ≤ s.clk.now)

/-- The state without the windows that end. -/
def State.windowsLeft (s : State) : State := { s with work := { s.work with windows := s.work.windows.filter (fun w => !s.windowDue w) } }

theorem exec_regroupWindowEnd (s : State) :
    exec .regroupWindowEnd s = .next ((s.work.windows.filter s.windowDue).foldl State.windowOver s.windowsLeft) := by
  have hd : s.windowDue = fun w => w.cluster == s.clk.subj.a && decide (w.due ≤ s.clk.now) := by
    funext w
    simp only [State.windowDue, Bool.decide_and, beq_eq_decide]
  rw [State.windowsLeft, hd]
  rfl

theorem exec_regroupWindowEnd_gangs (s : State) :
    ∃ gs, exec .regroupWindowEnd s = .next { s.windowsLeft with work := { s.windowsLeft.work with gangs := gs } } :=
  ⟨_, (exec_regroupWindowEnd s).trans (congrArg _ (State.eq_withGangs_of_sansGangs
    (foldl_keeps State.sansGangs State.windowOver_sansGangs (s.work.windows.filter s.windowDue) s.windowsLeft)))⟩

theorem exec_regroupWindowEnd_none {s : State} (h : s.work.windows.filter s.windowDue = []) : exec .regroupWindowEnd s = .next s.windowsLeft := by
  rw [exec_regroupWindowEnd, h, List.foldl_nil]

section
variable {s : State} {w : Window} {k : Nat} {g : Gang} (hw : s.work.windows.filter s.windowDue = [w]) (hk : w.gangs = [k]) (hg : s.gang? k = some g)
include hw hk hg

theorem exec_regroupWindowEnd_waits (hn : (g.settled s.clk.now).paths ≠ []) (ha : ∀ p ∈ (g.settled s.clk.now).paths, p.wait = .regroup w.addr) :
    exec .regroupWindowEnd s = .next (s.windowsLeft.regroupClass [(k, g.settled s.clk.now)]) := by
  have hm : s.windowsLeft.waitingIn w = [(k, g.settled s.clk.now)] := by
    have hg' : s.windowsLeft.gang? k = some g := hg
    have hc : s.windowsLeft.clk.now = s.clk.now := rfl
    simpa [State.waitingIn, hk, hg', hc, hn] using ha
  rw [exec_regroupWindowEnd, hw, List.foldl_cons, List.foldl_nil, State.windowOver, hm]
  rfl

theorem exec_regroupWindowEnd_gone (h : (g.settled s.clk.now).paths = [] ∨ ∃ p ∈ (g.settled s.clk.now).paths, p.wait ≠ .regroup w.addr) :
    exec .regroupWindowEnd s = .next s.windowsLeft := by
  have hm : s.windowsLeft.waitingIn w = [] := by
    have hg' : s.windowsLeft.gang? k = some g := hg
    have hc : s.windowsLeft.clk.now = s.clk.now := rfl
    simpa [State.waitingIn, hk, hg', hc, or_iff_not_imp_left] using h
  rw [exec_regroupWindowEnd, hw, List.foldl_cons, List.foldl_nil, State.windowOver, hm]
  rfl

end

/-! ## The statement -/

/-- Settles O60: the order of candidates is an insertion by level; each event goes by its own lemma above. -/
theorem scheduling : Obligations.Scheduling := by
  unfold Obligations.Scheduling
  refine ⟨fun s die cs => ⟨s.ordered_perm die cs, s.ordered_levels die cs⟩, fun s die c u => State.pick_spec, fun s => ?_⟩
  refine ⟨?placing, ?idle, ?teams, ?ageLaunch, ?ageTask, ?ageTeam, ?steal, ?noVictim, ?victim, ?timeout,
    exec_compaction_again, exec_compaction_begins, exec_compactionDone_kept, exec_compactionDone_packs, ?window⟩
  case placing =>
    intro c u hp
    refine ⟨fun ⟨n, hk⟩ => exec_teamPlace_launch hp hk, fun hk => exec_teamPlace_other fun d v hq => ?_,
      fun ⟨n, hk⟩ => exec_taskDispatch_task hp hk, fun hk => exec_taskDispatch_other fun d v hq => ?_⟩ <;>
    · obtain ⟨rfl, rfl⟩ := Prod.mk.inj (Option.some.inj (hp.symm.trans hq))
      exact hk
  case idle =>
    exact fun hp => ⟨exec_teamPlace_other fun c u hq => absurd (hp.symm.trans hq) nofun, exec_taskDispatch_other fun c u hq => absurd (hp.symm.trans hq) nofun⟩
  case teams =>
    intro tm ht
    refine ⟨fun c u hs hp hk => exec_teamResume_turn ht hs hp hk, exec_teamResume_waits ht, exec_teamResume_here ht, fun hs => ?_,
      exec_saveComplete_due ht, exec_saveComplete_early ht, fun c => exec_estivate_due ht, fun h => exec_estivate_not ht fun c hw hs ha => ?_,
      fun c hw h => exec_estivate_not ht fun d hd _ _ => ?_⟩
    · obtain ⟨hgo, hstay⟩ := exec_teamResume_away ht hs
      refine ⟨fun h0 hk hr => hgo ⟨h0, hk, hr⟩, fun h => hstay fun ⟨h0, hk, hr⟩ => ?_⟩
      simp [h0, hk, hr] at h
    · simp [hw, hs, ha] at h
    · obtain rfl := Option.some.inj (hw.symm.trans hd)
      exact h
  case ageLaunch => exact fun l => exec_priorityAging_launch
  case ageTask => exact fun t => exec_priorityAging_task
  case ageTeam => exact fun t => exec_priorityAging_team
  case steal =>
    exact fun l hl => ⟨exec_stealRequest_busy hl, exec_stealRequest_empty hl, fun cs c => exec_stealRequest_gives hl,
      exec_stealAnswer_empty hl, fun c => exec_stealAnswer_chunk hl⟩
  case noVictim => exact exec_preempt_none
  case victim => exact fun t tm hv ht hs => (exec_preempt_victim hv).trans (congrArg _ (State.stopTeam_placed ht hs))
  case timeout =>
    intro g hg
    split
    next c hc => exact exec_stopTimeout_asked hg hc
    next hc => exact exec_stopTimeout_other hg fun c h => hc c h
  case window =>
    exact ⟨exec_regroupWindowEnd_gangs s, exec_regroupWindowEnd_none, fun w k g hw hk hg =>
      ⟨exec_regroupWindowEnd_waits hw hk hg, exec_regroupWindowEnd_gone hw hk hg⟩⟩

end Sys2Proof.Machine
end

section
/-! SUPPORT. Taking a trap: the trap that is delivered, the one that is not, and the statement that they settle. -/

namespace Sys2Proof.Machine

/-! ## A trap that is delivered (R190) -/

/-- The run in which the path of these lanes stands. -/
def Gang.runOf (g : Gang) (lanes : Mask) : Option Run := (g.path? lanes).bind Path.run

@[simp] theorem Gang.land_paths (g : Gang) (t : Tag) (w : Write) : (g.land t w).paths = g.paths := by
  cases w with
  | p n _ _ => simp only [Gang.land]; split <;> rfl
  | q n _ => simp only [Gang.land]; split <;> rfl
  | sr trapvec _ => cases trapvec <;> rfl
  | _ => rfl

/-- A reader sees results in registers only, so the paths stand where they stand. -/
@[simp] theorem Gang.view_paths (g : Gang) (now run pos : Nat) (lanes : Mask) : (g.view now run pos lanes).paths = g.paths := by
  unfold Gang.view
  generalize g.pend = xs
  induction xs generalizing g with
  | nil => rfl
  | cons x xs ih =>
    rw [List.foldl_cons, ih]
    split
    · exact Gang.land_paths ..
    · rfl

@[simp] theorem Gang.view_path? (g : Gang) (now run pos : Nat) (lanes of : Mask) : (g.view now run pos lanes).path? of = g.path? of := by
  rw [Gang.path?, Gang.view_paths, ← Gang.path?]

/-- The trap that the path of `lanes` takes at `pc`: inside a run it resumes at the run's RUNB (R190, R192). -/
def Gang.trapAt (g : Gang) (lanes : Mask) (pc : DWord) (cause : Nat) : TrapPend :=
  let run := g.runOf lanes
  ⟨cause, lanes, run.isSome, (run.map Run.hdr).getD pc, pc⟩

/-- The results that stay on their way when the path traps: those of the run that it leaves belong to no open run any more, and writes of TRAPVEC that
have landed stand in the register. -/
def Gang.pendAtTrap (g : Gang) (now : Nat) (lanes : Mask) : List Pend :=
  (((g.runOf lanes).map (fun r => (g.closeRun r.uid).pend)).getD g.pend).filter (fun x => match x.w with
    | .sr true _ => decide (now < x.land)
    | _ => true)

/-- The gang with a trap that waits: its path has left its run and stands at the address resumed at. -/
def Gang.stopAtTrap (g : Gang) (now : Nat) (lanes : Mask) (pc : DWord) (cause : Nat) : Gang :=
  let t := g.trapAt lanes pc cause
  { g with
    trapvec := (g.view now 0 0 lanes).trapvec
    pend := g.pendAtTrap now lanes
    paths := g.paths.map (fun p => if p.lanes = lanes then { p with pc := t.resume, run := none, wait := .none } else p)
    trapPend := some t }

theorem Gang.trapReady_iff (g : Gang) : g.trapReady = true ↔ g.sfu = 0 ∧ ∀ p ∈ g.paths, p.run = none := by
  simp [Gang.trapReady]

theorem Gang.tryTrap_pending {g : Gang} {t : TrapPend} (ht : g.trapPend = some t) (now : Nat) :
    g.tryTrap now = if g.sfu = 0 ∧ (∀ p ∈ g.paths, p.run = none) then g.enterTrap now t else g := by
  simp only [Gang.tryTrap, ht, Gang.trapReady_iff]

section
variable {s : State} {k : Nat} {g : Gang} {lanes : Mask} (hg : s.gang? k = some g) (hr : s.rivalOf g = none)
include hg hr

theorem State.trap_delivered (hv : (g.view s.clk.now 0 0 lanes).trapvec ≠ 0) (hh : g.inHandler = false) (pc : DWord) (cause : Nat) :
    s.trap k lanes pc cause = s.setGang k ((g.stopAtTrap s.clk.now lanes pc cause).tryTrap s.clk.now) := by
  have taken : ¬ ((g.view s.clk.now 0 0 lanes).trapvec = 0 ∨ g.inHandler = true ∨ (s.rivalOf g).isSome = true) := by
    simp only [hv, hh, hr]; decide
  simp only [State.trap, hg, if_neg taken]
  cases hrun : (g.path? lanes).bind Path.run <;>
    simp only [Gang.stopAtTrap, Gang.trapAt, Gang.pendAtTrap, Gang.runOf, hrun] <;> rfl

/-! ## A trap that is not delivered (R150, R190) -/

theorem State.trap_undelivered (h : (g.view s.clk.now 0 0 lanes).trapvec = 0 ∨ g.inHandler = true) {cause : Nat} (hc : cause < 256) (pc : DWord) :
    s.trap k lanes pc cause =
      (s.logGang g (if g.inHandler then 0x000A else cause) 3 pc lanes (((g.runOf lanes).map Run.hdr).getD 0)).modGang k
        (fun g => g.finish pc) := by
  have lost : (g.view s.clk.now 0 0 lanes).trapvec = 0 ∨ g.inHandler = true ∨ (s.rivalOf g).isSome = true := h.imp_right Or.inl
  have unrecorded : ¬ (cause / 256 = 1 ∧ (!g.inHandler) = true) := fun ⟨h1, _⟩ => by omega
  simp only [State.trap, hg, if_pos lost, if_neg unrecorded]
  rw [hr]
  rfl

end

/-- A record that a gang writes changes no gang, so what is then done to the gang is done to it as it stood. -/
theorem State.gang?_modGang_logGang {s : State} {k : Nat} {g : Gang} (hg : s.gang? k = some g) (e : Gang) (cause access : Nat) (addr : DWord)
    (lanes : Mask) (hdr : DWord) (f : Gang → Gang) : ((s.logGang e cause access addr lanes hdr).modGang k f).gang? k = some (f g) := by
  rw [State.gang?] at hg
  simp only [State.gang?, State.modGang_gangs, State.logGang, State.log_work, mget_mmod, if_true, hg, Option.map_some]

/-! ## The statement -/

/-- Settles O41: a delivered trap stops its path, and `Gang.tryTrap` enters it or lets it wait; another one writes its record and ends the gang.
That the record has ACCESS 3, the instruction's address and the path's lanes is the model's choice (log 19). -/
theorem trapTaken : Obligations.TrapTaken := by
  unfold Obligations.TrapTaken
  refine ⟨?delivered, ?undelivered⟩
  case delivered =>
    intro s k lanes pc cause g hg hv hh hr
    simp only [Gang.view_path?]
    exact ⟨_, g.stopAtTrap s.clk.now lanes pc cause, State.trap_delivered hg hr hv hh pc cause, rfl, rfl, rfl, rfl, rfl, rfl, rfl, rfl, rfl, rfl,
      Gang.tryTrap_pending rfl s.clk.now⟩
  case undelivered =>
    intro s k lanes pc cause g hg hr hc h
    exact ⟨_, g.finish pc, _, State.trap_undelivered hg hr h hc pc, State.gang?_modGang_logGang hg .., rfl, rfl, rfl, rfl, rfl, rfl, rfl,
      rfl, rfl, rfl, rfl, rfl, rfl, rfl⟩

end Sys2Proof.Machine
end

section
/-! SUPPORT. Results on their way: what a reader sees of each register, the order in which results take their effect, what is written into the registers. -/

namespace Sys2Proof.Machine

/-! ## Lists (registers and results) -/

theorem lset_length {α : Type} (l : List α) (n : Nat) (a : α) : (lset l n a).length = l.length := by
  induction l generalizing n with
  | nil => rfl
  | cons b l ih => cases n with
    | zero => rfl
    | succ n => simp only [lset, List.length_cons, ih]

theorem lset_getD {α : Type} {l : List α} {n : Nat} (h : n < l.length) (m : Nat) (a d : α) :
    (lset l m a).getD n d = if m = n then a else l.getD n d := by
  induction l generalizing n m with
  | nil => cases h
  | cons b l ih =>
    cases m with
    | zero => cases n with
      | zero => rfl
      | succ n => simp [lset]
    | succ m => cases n with
      | zero => simp [lset]
      | succ n =>
        have := ih (n := n) (by simpa using h) m
        simpa [lset] using this

theorem lmod_length {α : Type} (l : List α) (n : Nat) (f : α → α) : (lmod l n f).length = l.length := by
  induction l generalizing n with
  | nil => rfl
  | cons b l ih => cases n with
    | zero => rfl
    | succ n => simp only [lmod, List.length_cons, ih]

theorem lmod_getD {α : Type} {l : List α} {n : Nat} (h : n < l.length) (m : Nat) (f : α → α) (d : α) :
    (lmod l m f).getD n d = if m = n then f (l.getD n d) else l.getD n d := by
  induction l generalizing n m with
  | nil => cases h
  | cons b l ih =>
    cases m with
    | zero => cases n with
      | zero => rfl
      | succ n => simp [lmod]
    | succ m => cases n with
      | zero => simp [lmod]
      | succ n =>
        have := ih (n := n) (by simpa using h) m
        simpa [lmod] using this

/-- What is read after a chain of steps: the last value that a step writes, or what was read before. -/
theorem foldl_getLast {σ α β : Type} {P : σ → Prop} {f : σ → α → σ} {read : σ → β} {w : α → Option β} (keep : ∀ s a, P s → P (f s a))
    (one : ∀ s a, P s → read (f s a) = (w a).getD (read s)) (l : List α) {s : σ} (hs : P s) :
    read (l.foldl f s) = ((l.filterMap w).getLast?).getD (read s) := by
  induction l generalizing s with
  | nil => rfl
  | cons a l ih =>
    rw [List.foldl_cons, ih (keep s a hs), one s a hs, List.filterMap_cons]
    cases h : w a with
    | none => rfl
    | some b => rw [List.getLast?_cons]; rfl

/-! ## What one result writes (R355, R379, R414) -/

theorem Gang.land_p (g : Gang) (t : Tag) (n : Nat) (lanes bits : Mask) : g.land t (.p n lanes bits) =
    { g with p := if n = 0 then g.p else lmod g.p n (fun m => (m &&& ~~~lanes) ||| (bits &&& lanes)) } := by
  simp only [Gang.land]; split <;> rfl

theorem Gang.land_q (g : Gang) (t : Tag) (n : Nat) (val : Bool) : g.land t (.q n val) = { g with q := if n = 0 then g.q else lset g.q n val } := by
  simp only [Gang.land]; split <;> rfl

theorem Gang.land_sr (g : Gang) (t : Tag) (vec : Bool) (val : DWord) : g.land t (.sr vec val) =
    { g with trapvec := if vec then val else g.trapvec, storehash := if vec then g.storehash else val } := by
  cases vec <;> rfl

/-- No result changes how many registers a gang has. -/
theorem Gang.land_lengths (g : Gang) (t : Tag) (w : Write) : (g.land t w).g.length = g.g.length ∧ (g.land t w).q.length = g.q.length ∧
    (g.land t w).v.length = g.v.length ∧ (g.land t w).t.length = g.t.length ∧ (g.land t w).p.length = g.p.length := by
  cases w with
  | v n _ _ => exact ⟨rfl, rfl, lmod_length .., rfl, rfl⟩
  | t n _ _ => exact ⟨rfl, rfl, rfl, lmod_length .., rfl⟩
  | g n _ => exact ⟨lset_length .., rfl, rfl, rfl, rfl⟩
  | p n _ _ => rw [Gang.land_p]; refine ⟨rfl, rfl, rfl, rfl, ?_⟩; dsimp only; split; exacts [rfl, lmod_length ..]
  | q n _ => rw [Gang.land_q]; refine ⟨rfl, ?_, rfl, rfl, rfl⟩; dsimp only; split; exacts [rfl, lset_length ..]
  | sr vec _ => rw [Gang.land_sr]; exact ⟨rfl, rfl, rfl, rfl, rfl⟩

/-! ## Reading one register after one result -/

/-- The value that a result writes to a G register. -/
def Write.toG (n : Nat) : Write → Option DWord
  | .g m val => if m = n then some val else none
  | _ => none

/-- The value that a result writes to a Q register. -/
def Write.toQ (n : Nat) : Write → Option Bool
  | .q m val => if m = n then some val else none
  | _ => none

/-- The value that a result writes to a lane of a V register. -/
def Write.toV (n l : Nat) : Write → Option Word
  | .v m ls row => if m = n ∧ ls.has l then some (row.getD l 0) else none
  | _ => none

/-- The value that a result writes to a lane of a T register. -/
def Write.toT (n l : Nat) : Write → Option Word
  | .t m ls row => if m = n ∧ ls.has l then some (row.getD l 0) else none
  | _ => none

/-- The value that a result writes to a slot of a P register. -/
def Write.toP (n l : Nat) : Write → Option Bool
  | .p m ls bits => if m = n ∧ ls.has l then some (bits.has l) else none
  | _ => none

theorem mergeRow_getD {l : Nat} (h : l < 32) (lanes : Mask) (new old : Row) :
    (mergeRow lanes new old).getD l 0 = if lanes.has l then new.getD l 0 else old.getD l 0 := by
  simp [mergeRow, List.getD_eq_getElem?_getD, h]

theorem Mask.has_merge {l : Nat} (h : l < 32) (m lanes bits : Mask) :
    Mask.has ((m &&& ~~~lanes) ||| (bits &&& lanes)) l = if lanes.has l then bits.has l else m.has l := by
  simp only [Mask.has, BitVec.getLsbD_or, BitVec.getLsbD_and, BitVec.getLsbD_not, h, decide_true, Bool.true_and]
  by_cases hl : lanes.getLsbD l = true <;> simp [hl]

section
variable {g : Gang} {n l : Nat} (t : Tag) (w : Write)

theorem Gang.land_g_getD (h : n < g.g.length) : (g.land t w).g.getD n 0 = (w.toG n).getD (g.g.getD n 0) := by
  cases w with
  | g m val => simp only [Gang.land, Write.toG, lset_getD h]; split <;> rfl
  | p => rw [Gang.land_p]; rfl
  | q => rw [Gang.land_q]; rfl
  | sr => rw [Gang.land_sr]; rfl
  | v | t => rfl

theorem Gang.land_q_getD (h : n < g.q.length) (h0 : n ≠ 0) : (g.land t w).q.getD n false = (w.toQ n).getD (g.q.getD n false) := by
  cases w with
  | q m val =>
    rw [Gang.land_q, Write.toQ]
    by_cases hm : m = 0
    · simp only [if_pos hm, if_neg (show ¬ m = n by omega)]; rfl
    · simp only [if_neg hm, lset_getD h]; split <;> rfl
  | p => rw [Gang.land_p]; rfl
  | sr => rw [Gang.land_sr]; rfl
  | v | t | g => rfl

theorem Gang.land_vlane (h : n < g.v.length) (hl : l < 32) : (g.land t w).vlane n l = (w.toV n l).getD (g.vlane n l) := by
  cases w with
  | v m ls row =>
    simp only [Gang.land, Write.toV, Gang.vlane, lmod_getD h]
    by_cases hm : m = n
    · simp only [hm, if_true, true_and, mergeRow_getD hl]; split <;> rfl
    · simp only [hm, if_false, false_and]; rfl
  | p => rw [Gang.land_p]; rfl
  | q => rw [Gang.land_q]; rfl
  | sr => rw [Gang.land_sr]; rfl
  | t | g => rfl

theorem Gang.land_tlane (h : n < g.t.length) (hl : l < 32) : (g.land t w).tlane n l = (w.toT n l).getD (g.tlane n l) := by
  cases w with
  | t m ls row =>
    simp only [Gang.land, Write.toT, Gang.tlane, lmod_getD h]
    by_cases hm : m = n
    · simp only [hm, if_true, true_and, mergeRow_getD hl]; split <;> rfl
    · simp only [hm, if_false, false_and]; rfl
  | p => rw [Gang.land_p]; rfl
  | q => rw [Gang.land_q]; rfl
  | sr => rw [Gang.land_sr]; rfl
  | v | g => rfl

theorem Gang.land_p_has (h : n < g.p.length) (h0 : n ≠ 0) (hl : l < 32) :
    ((g.land t w).p.getD n 0).has l = (w.toP n l).getD ((g.p.getD n 0).has l) := by
  cases w with
  | p m ls bits =>
    rw [Gang.land_p, Write.toP]
    by_cases hm : m = 0
    · simp only [if_pos hm, if_neg (show ¬ (m = n ∧ ls.has l = true) by omega)]; rfl
    · simp only [if_neg hm, lmod_getD h]
      by_cases hn : m = n
      · simp only [hn, if_true, true_and, Mask.has_merge hl]; split <;> rfl
      · simp only [hn, if_false, false_and]; rfl
  | q => rw [Gang.land_q]; rfl
  | sr => rw [Gang.land_sr]; rfl
  | v | t | g => rfl

theorem lset_getD_zero {α : Type} (l : List α) {m : Nat} (h : m ≠ 0) (a d : α) : (lset l m a).getD 0 d = l.getD 0 d := by
  obtain ⟨m, rfl⟩ := Nat.exists_eq_succ_of_ne_zero h
  cases l <;> rfl

theorem lmod_getD_zero {α : Type} (l : List α) {m : Nat} (h : m ≠ 0) (f : α → α) (d : α) : (lmod l m f).getD 0 d = l.getD 0 d := by
  obtain ⟨m, rfl⟩ := Nat.exists_eq_succ_of_ne_zero h
  cases l <;> rfl

theorem Gang.land_q_zero (g : Gang) : (g.land t w).q.getD 0 false = g.q.getD 0 false := by
  cases w with
  | q m val => rw [Gang.land_q]; dsimp only; split; exacts [rfl, lset_getD_zero _ ‹_› ..]
  | p => rw [Gang.land_p]
  | sr => rw [Gang.land_sr]
  | v | t | g => rfl

theorem Gang.land_p_zero (g : Gang) : (g.land t w).p.getD 0 0 = g.p.getD 0 0 := by
  cases w with
  | p m _ _ => rw [Gang.land_p]; dsimp only; split; exacts [rfl, lmod_getD_zero _ ‹_› ..]
  | q => rw [Gang.land_q]
  | sr => rw [Gang.land_sr]
  | v | t | g => rfl

end

/-! ## What a reader sees -/

/-- The writes of the results that a reader sees, in the order of their effects. -/
def Gang.seen (g : Gang) (now run pos : Nat) (lanes : Mask) : List Write := (g.pend.filter (fun y => y.seen now run pos lanes)).map Pend.w

/-- The effect of a result, as one step of the fold that a view is. -/
def Gang.landPend (g : Gang) (x : Pend) : Gang := g.land x.tag x.w

theorem Gang.view_eq_foldl (g : Gang) (now run pos : Nat) (lanes : Mask) :
    g.view now run pos lanes = (g.pend.filter (fun y => y.seen now run pos lanes)).foldl Gang.landPend g := by
  rw [List.foldl_filter]; rfl

/-- A register of a view holds the last value that a result which the reader sees writes to it. -/
theorem Gang.view_read {β : Type} (P : Gang → Prop) (read : Gang → β) (wr : Write → Option β) {g : Gang} (hg : P g)
    (keep : ∀ h t w, P h → P (Gang.land h t w)) (one : ∀ h t w, P h → read (Gang.land h t w) = (wr w).getD (read h)) (now run pos : Nat) (lanes : Mask) :
    read (g.view now run pos lanes) = (((g.seen now run pos lanes).filterMap wr).getLast?).getD (read g) := by
  rw [Gang.view_eq_foldl, Gang.seen, List.filterMap_map]
  exact foldl_getLast (fun h (x : Pend) => keep h x.tag x.w) (fun h (x : Pend) => one h x.tag x.w) _ hg

/-- What no result writes, every reader sees as it stands. -/
theorem Gang.view_keeps {β : Type} {read : Gang → β} (one : ∀ h t w, read (Gang.land h t w) = read h) (g : Gang) (now run pos : Nat) (lanes : Mask) :
    read (g.view now run pos lanes) = read g := by
  rw [Gang.view_eq_foldl]
  exact foldl_keeps read (fun h (x : Pend) => one h x.tag x.w) _ g

/-- Settles O8: of each register, a view reads the last write among those that the reader sees. -/
theorem readersSeeLastLanded : Obligations.ReadersSeeLastLanded := by
  unfold Obligations.ReadersSeeLastLanded
  intro g now run pos lanes
  refine ⟨fun n hn => ?_, fun n hn h0 => ?_, fun n hn l hl => ?_, fun n hn l hl => ?_, fun n hn h0 l hl => ?_, ?_, ?_⟩
  · exact Gang.view_read (fun h => n < h.g.length) (fun h => h.g.getD n 0) (Write.toG n) hn (fun h t w hh => by rwa [(h.land_lengths t w).1])
      (fun h t w hh => Gang.land_g_getD t w hh) now run pos lanes
  · exact Gang.view_read (fun h => n < h.q.length) (fun h => h.q.getD n false) (Write.toQ n) hn (fun h t w hh => by rwa [(h.land_lengths t w).2.1])
      (fun h t w hh => Gang.land_q_getD t w hh h0) now run pos lanes
  · exact Gang.view_read (fun h => n < h.v.length) (fun h => h.vlane n l) (Write.toV n l) hn (fun h t w hh => by rwa [(h.land_lengths t w).2.2.1])
      (fun h t w hh => Gang.land_vlane t w hh hl) now run pos lanes
  · exact Gang.view_read (fun h => n < h.t.length) (fun h => h.tlane n l) (Write.toT n l) hn (fun h t w hh => by rwa [(h.land_lengths t w).2.2.2.1])
      (fun h t w hh => Gang.land_tlane t w hh hl) now run pos lanes
  · exact Gang.view_read (fun h => n < h.p.length) (fun h => (h.p.getD n 0).has l) (Write.toP n l) hn (fun h t w hh => by rwa [(h.land_lengths t w).2.2.2.2])
      (fun h t w hh => Gang.land_p_has t w hh h0 hl) now run pos lanes
  · exact Gang.view_keeps (read := fun h => h.q.getD 0 false) (fun h t w => Gang.land_q_zero t w h) g now run pos lanes
  · exact Gang.view_keeps (read := fun h => h.p.getD 0 0) (fun h t w => Gang.land_p_zero t w h) g now run pos lanes

/-! ## Which results a reader sees, and the order of their effects (R172, R182, R183, R377) -/

section
variable (y : Pend) (now pos : Nat) (lanes : Mask)

theorem Pend.seen_outside : y.seen now 0 pos lanes = true ↔ y.land ≤ now := by simp [Pend.seen]

variable {run : Nat}

theorem Pend.seen_samePath (hy : y.run ≠ run) (hl : y.lanes &&& lanes ≠ 0) : y.seen now run pos lanes = true ↔ y.land ≤ now := by
  have other : ¬ (run ≠ 0 ∧ y.run = run) := fun h => hy h.2
  have own : ¬ (run ≠ 0 ∧ y.lanes &&& lanes = 0) := fun h => hl h.2
  rw [Pend.seen, if_neg other, if_neg own, decide_eq_true_iff]

variable (h : run ≠ 0)
include h

theorem Pend.seen_own (hy : y.run = run) : y.seen now run pos lanes = true ↔ y.pos ≤ pos := by simp [Pend.seen, h, hy]

theorem Pend.seen_otherPath (hy : y.run ≠ run) (hl : y.lanes &&& lanes = 0) : y.seen now run pos lanes = true ↔ y.land + 1 ≤ now := by
  have other : ¬ (run ≠ 0 ∧ y.run = run) := fun h' => hy h'.2
  rw [Pend.seen, if_neg other, if_pos ⟨h, hl⟩, decide_eq_true_iff, Nat.succ_le_iff]

end

/-- `a` takes effect before `b`, whichever of them has been issued first. -/
def Pend.precedes (a b : Pend) : Prop := a.before b = true ∧ b.before a = false

section
variable {a b : Pend}

theorem Pend.precedes_of_land (h : a.land < b.land) : a.precedes b := by
  have ne : a.land ≠ b.land := by omega
  have ng : ¬ b.land < a.land := by omega
  exact ⟨by simp only [Pend.before, if_pos ne, h, decide_true], by simp only [Pend.before, if_pos ne.symm, ng, decide_false]⟩

variable (hl : a.land = b.land)
include hl

theorem Pend.precedes_of_variable (ha : a.fixed = false) (hb : b.fixed = true) : a.precedes b := by
  constructor <;> simp [Pend.before, hl, ha, hb]

variable (hf : a.fixed = b.fixed)
include hf

theorem Pend.precedes_of_position (ho : a.own = b.own) (h0 : a.own ≠ 0) (hp : a.pos < b.pos) : a.precedes b := by
  have h0' : b.own ≠ 0 := ho ▸ h0
  constructor <;> simp [Pend.before, hl, hf, ho, h0', hp, Nat.le_of_lt hp]

variable (ho : a.own = b.own → a.own = 0) (hd : a.lanes &&& b.lanes = 0)
include ho hd

theorem Pend.before_paths : a.before b = (if Mask.count a.lanes ≠ Mask.count b.lanes then decide (Mask.count a.lanes < Mask.count b.lanes)
    else decide (b.addr.toNat < a.addr.toNat)) := by
  have no : ¬ (a.own = b.own ∧ a.own ≠ 0) := fun h => h.2 (ho h.1)
  simp only [Pend.before, hl, hf, ne_eq, not_true_eq_false, if_false, no, hd]

theorem Pend.precedes_of_fewerLanes (hc : Mask.count a.lanes < Mask.count b.lanes) : a.precedes b := by
  have back := Pend.before_paths (a := b) (b := a) hl.symm hf.symm (fun h => h.trans (ho h.symm)) (by rwa [BitVec.and_comm])
  constructor
  · rw [Pend.before_paths hl hf ho hd, if_pos (by omega), decide_eq_true hc]
  · rw [back, if_pos (by omega), decide_eq_false (by omega)]

theorem Pend.precedes_of_higherAddress (hc : Mask.count a.lanes = Mask.count b.lanes) (ha : b.addr.toNat < a.addr.toNat) : a.precedes b := by
  have back := Pend.before_paths (a := b) (b := a) hl.symm hf.symm (fun h => h.trans (ho h.symm)) (by rwa [BitVec.and_comm])
  constructor
  · rw [Pend.before_paths hl hf ho hd, if_neg (by omega), decide_eq_true ha]
  · rw [back, if_neg (by omega), decide_eq_false (by omega)]

end

/-- Settles O9: what a reader sees goes by its run and path; the order of two results by the first rule of R172, R182 and R183 that tells them apart. -/
theorem resultOrder : Obligations.ResultOrder := by
  unfold Obligations.ResultOrder
  refine ⟨fun y now run pos lanes => ⟨?_, ?_, ?_, ?_⟩, fun a b => ⟨?_, ?_, ?_, ?_, ?_⟩⟩
  · rintro rfl; exact Pend.seen_outside y now pos lanes
  · exact Pend.seen_own y now pos lanes
  · exact fun _ => Pend.seen_samePath y now pos lanes
  · exact Pend.seen_otherPath y now pos lanes
  · exact Pend.precedes_of_land
  · exact Pend.precedes_of_variable
  · exact Pend.precedes_of_position
  · exact Pend.precedes_of_fewerLanes
  · exact Pend.precedes_of_higherAddress

/-! ## Results that take their effect in the registers (R172, R377) -/

/-- A gang without what is on its way. -/
def Gang.registers (g : Gang) : Gang := { g with pend := [] }

theorem Gang.land_registers (g : Gang) (t : Tag) (w : Write) : (g.land t w).registers = g.registers.land t w := by
  cases w with
  | p => rw [Gang.land_p, Gang.land_p]; rfl
  | q => rw [Gang.land_q, Gang.land_q]; rfl
  | sr => rw [Gang.land_sr, Gang.land_sr]; rfl
  | v | t | g => rfl

/-- The view of a gang's registers with the results `l` on their way. -/
def viewOf (now run pos : Nat) (lanes : Mask) (l : List Pend) (g : Gang) : Gang :=
  l.foldl (fun g x => if x.seen now run pos lanes then g.land x.tag x.w else g) g

theorem Gang.view_eq_viewOf (g : Gang) (now run pos : Nat) (lanes : Mask) : g.view now run pos lanes = viewOf now run pos lanes g.pend g := rfl

theorem viewOf_registers (now run pos : Nat) (lanes : Mask) (l : List Pend) (g : Gang) :
    (viewOf now run pos lanes l g).registers = viewOf now run pos lanes l g.registers := by
  induction l generalizing g with
  | nil => rfl
  | cons x l ih =>
    simp only [viewOf, List.foldl_cons]
    split
    · rw [← Gang.land_registers]; exact ih _
    · exact ih _

/-- A result of no open run that has landed before now is seen by every reader. -/
theorem Pend.seen_of_landed {x : Pend} {now : Nat} (h0 : x.run = 0) (h : x.land < now) (run pos : Nat) (lanes : Mask) :
    x.seen now run pos lanes = true := by
  by_cases hr : run = 0
  · subst hr; exact (Pend.seen_outside x now pos lanes).2 (Nat.le_of_lt h)
  · have hx : x.run ≠ run := by omega
    by_cases hl : x.lanes &&& lanes = 0
    · exact (Pend.seen_otherPath x now pos lanes hr hx hl).2 h
    · exact (Pend.seen_samePath x now pos lanes hx hl).2 (Nat.le_of_lt h)

theorem settleList_view {clk now : Nat} (hc : clk ≤ now) (run pos : Nat) (lanes : Mask) (l : List Pend) (g : Gang) :
    ((settleList clk l g).view now run pos lanes).registers = viewOf now run pos lanes l g.registers := by
  induction l generalizing g with
  | nil => rfl
  | cons x l ih =>
    unfold settleList
    split
    · rename_i landed
      rw [ih, Gang.land_registers, viewOf, viewOf, List.foldl_cons, if_pos (Pend.seen_of_landed landed.1 (by omega) run pos lanes)]
    · rw [Gang.view_eq_viewOf, viewOf_registers]; rfl

/-- Settles O10: each result that is written has landed, so every reader sees it already. -/
theorem landingKeepsReads : Obligations.LandingKeepsReads := by
  unfold Obligations.LandingKeepsReads
  intro g clk now run pos lanes hc
  show ((g.settle clk).view now run pos lanes).registers = (g.view now run pos lanes).registers
  rw [Gang.settle, settleList_view hc, Gang.view_eq_viewOf, viewOf_registers]

end Sys2Proof.Machine
end

section
/-! SUPPORT. Traps: the instructions that raise them, what is saved and changed as one is entered, where the lanes go as it returns. -/

namespace Sys2Proof.Machine

/-! ## Instructions that trap (R189, R370, R371, R399, R400) -/

section
variable {s : State} {x : Iss} (hx : s.iss = some x)
include hx

theorem exec_unassignedEncoding (rsv : Bool) :
    exec (.unassignedEncoding rsv) s = .next (s.trap x.k x.path.lanes x.pc (if rsv then 0x0002 else 0x0001)) := State.issue_some hx _

variable {p : Pred} (hp : x.qp p = true)
include hp

theorem exec_bkpt (tag : BitVec 16) : exec (.bkpt p tag) s = .next (s.trap x.k x.path.lanes x.pc 0x0008) := State.uni_true hx hp _

theorem exec_trap (ret : Bool) : exec (.trap p ret) s = .next (if ret && x.g.inHandler then s.modGang x.k (fun g => g.trapReturn s.clk.now (x.g.g.getD 60 0))
    else s.trap x.k x.path.lanes x.pc 0x0007) := State.uni_true hx hp _

theorem exec_trapRet_inHandler (h : x.g.inHandler = true) :
    exec (.trap p true) s = .next (s.modGang x.k (fun g => g.trapReturn s.clk.now (x.g.g.getD 60 0))) := by
  rw [exec_trap hx hp, h]; rfl

theorem exec_trapRet_outside (h : x.g.inHandler = false) : exec (.trap p true) s = .next (s.trap x.k x.path.lanes x.pc 0x0007) := by
  rw [exec_trap hx hp, h]; rfl

end

/-- Settles O39: each instruction raises its own cause; TRAP.ret goes by whether the gang is in a handler. -/
theorem trapInstructions : Obligations.TrapInstructions := by
  unfold Obligations.TrapInstructions
  intro s x p tag hx raise
  exact ⟨fun hp => ⟨exec_trap hx hp false, exec_bkpt hx hp tag, exec_trapRet_outside hx hp, exec_trapRet_inHandler hx hp⟩,
    exec_unassignedEncoding hx false, exec_unassignedEncoding hx true⟩

/-! ## TRAPCAUSE (R192) -/

/-- A 64-bit number made of a high half, the bit below it at place 16, and 16 low bits, taken apart again. -/
theorem trapcause_fields (m : Mask) (b : Bool) {c : Nat} (hc : c < 2 ^ 16) :
    let w := BitVec.ofNat 64 (m.toNat * 2 ^ 32 + (if b then 2 ^ 16 else 0) + c)
    w.extractLsb' 32 32 = m ∧ w.extractLsb' 17 15 = 0 ∧ w.getLsbD 16 = b ∧ w.extractLsb' 0 16 = BitVec.ofNat 16 c := by
  have hm := m.isLt
  have hw : (BitVec.ofNat 64 (m.toNat * 2 ^ 32 + (if b then 2 ^ 16 else 0) + c)).toNat = m.toNat * 2 ^ 32 + (if b then 2 ^ 16 else 0) + c := by
    rw [BitVec.toNat_ofNat, Nat.mod_eq_of_lt (by split <;> omega)]
  have part (i n : Nat) {v : BitVec n} (h : (m.toNat * 2 ^ 32 + (if b then 2 ^ 16 else 0) + c) / 2 ^ i % 2 ^ n = v.toNat) :
      (BitVec.ofNat 64 (m.toNat * 2 ^ 32 + (if b then 2 ^ 16 else 0) + c)).extractLsb' i n = v := by
    apply BitVec.eq_of_toNat_eq
    rw [BitVec.extractLsb'_toNat, hw, Nat.shiftRight_eq_div_pow, h]
  refine ⟨part 32 32 ?_, part 17 15 ?_, ?_, part 0 16 ?_⟩
  · split <;> omega
  · show _ = 0
    split <;> omega
  · rw [BitVec.getLsbD, hw, Nat.testBit_eq_decide_div_mod_eq]
    cases b
    · exact decide_eq_false (by simp only [Bool.false_eq_true, if_false]; omega)
    · exact decide_eq_true (by simp only [if_true]; omega)
  · rw [BitVec.toNat_ofNat]
    split <;> omega

/-! ## Taking a trap (R190, R192) -/

/-- Settles O40: the fields of the gang are those of `Gang.enterTrap`; TRAPCAUSE is taken apart into the fields of R192. -/
theorem trapEntry : Obligations.TrapEntry := by
  unfold Obligations.TrapEntry
  intro g now t
  refine ⟨rfl, trapcause_fields t.lanes t.inRun, fun hl => ?_⟩
  have h60 : 60 < (g.settle (now + 1)).g.length := by omega
  have h61 : 61 < (g.settle (now + 1)).g.length := by omega
  constructor
  · show (lset (lset _ 60 t.resume) 61 t.pc).getD 60 0 = t.resume
    rw [lset_getD (by rwa [lset_length]), if_neg (by decide), lset_getD h60, if_pos rfl]
  · show (lset (lset _ 60 t.resume) 61 t.pc).getD 61 0 = t.pc
    rw [lset_getD (by rwa [lset_length]), if_pos rfl]

/-! ## Returning from a trap (R166, R191, R378) -/

/-- A path stands among others, alone or joined with what stands at its address. -/
def StandsIn (x : Path) (l : List Path) : Prop := ∃ p ∈ l, (∀ i, x.lanes.has i = true → p.lanes.has i = true) ∧ p.pc = x.pc ∧ p.run = none

theorem Mask.has_or (a b : Mask) (i : Nat) : Mask.has (a ||| b) i = (a.has i || b.has i) := BitVec.getLsbD_or

theorem joinPath_standsIn {x : Path} (hx : x.run = none) (l : List Path) : StandsIn x (joinPath x l) := by
  induction l with
  | nil => exact ⟨x, List.mem_cons_self, fun _ h => h, rfl, hx⟩
  | cons p l ih =>
    unfold joinPath
    split
    · rename_i h
      exact ⟨_, List.mem_cons_self, fun i hi => by rw [Mask.has_or, hi, Bool.or_true], h.1, h.2.1⟩
    · obtain ⟨q, hq, hq'⟩ := ih
      exact ⟨q, List.mem_cons_of_mem _ hq, hq'⟩

theorem StandsIn.joinPath {x : Path} {l : List Path} (h : StandsIn x l) (y : Path) : StandsIn x (joinPath y l) := by
  induction l with
  | nil => obtain ⟨p, hp, _⟩ := h; cases hp
  | cons p l ih =>
    obtain ⟨q, hq, lanes, pc, run⟩ := h
    unfold Machine.joinPath
    split
    · rcases List.mem_cons.1 hq with rfl | hq
      · exact ⟨_, List.mem_cons_self, fun i hi => by rw [Mask.has_or, lanes i hi, Bool.true_or], pc, run⟩
      · exact ⟨q, List.mem_cons_of_mem _ hq, lanes, pc, run⟩
    · rcases List.mem_cons.1 hq with rfl | hq
      · exact ⟨q, List.mem_cons_self, lanes, pc, run⟩
      · obtain ⟨r, hr, hr'⟩ := ih ⟨q, hq, lanes, pc, run⟩
        exact ⟨r, List.mem_cons_of_mem _ hr, hr'⟩

theorem foldl_joinPath_standsIn {x : Path} (hx : x.run = none) {l acc : List Path} (h : x ∈ l ∨ StandsIn x acc) :
    StandsIn x (l.foldl (fun acc p => joinPath p acc) acc) := by
  induction l generalizing acc with
  | nil => exact h.resolve_left List.not_mem_nil
  | cons y l ih =>
    refine ih ?_
    rcases h with h | h
    · rcases List.mem_cons.1 h with rfl | h
      · exact .inr (joinPath_standsIn hx acc)
      · exact .inl h
    · exact .inr (h.joinPath y)

/-- The path on which lanes go on at an address. -/
def Path.at_ (pc : DWord) (lanes : Mask) : Path := ⟨pc, lanes, none, 0, 0, .none, 0⟩

/-- The paths on which the live lanes of a gang go on: the trapping path's at the address that TRAP.ret reads, the others at their saved addresses. -/
def Gang.returnPaths (u : Gang) (g60 : DWord) : List Path :=
  Path.at_ g60 (u.trapLanes &&& u.live) :: u.saved.map (fun x => Path.at_ x.2 (x.1 &&& u.live))

theorem Gang.trapReturn_paths (g : Gang) (now : Nat) (g60 : DWord) : (g.trapReturn now g60).paths =
    (((g.settle (now + 1)).returnPaths g60).filter (fun p => decide (p.lanes ≠ 0))).foldl (fun acc p => joinPath p acc) [] := rfl

/-- Live lanes among those that are to go on at an address go on there. -/
theorem Gang.trapReturn_goesOn {g u : Gang} {now : Nat} (hu : u = g.settle (now + 1)) {g60 pc : DWord} {m : Mask} {l : Nat}
    (h : Path.at_ pc (m &&& u.live) ∈ u.returnPaths g60) (hm : m.has l = true) (hl : u.live.has l = true) :
    ∃ p ∈ (g.trapReturn now g60).paths, p.lanes.has l = true ∧ p.pc = pc ∧ p.run = none := by
  have has : Mask.has (m &&& u.live) l = true := by
    simp only [Mask.has, BitVec.getLsbD_and, Bool.and_eq_true] at hm hl ⊢; exact ⟨hm, hl⟩
  have ne : m &&& u.live ≠ 0 := fun h0 => by rw [h0] at has; simp [Mask.has] at has
  have mem : Path.at_ pc (m &&& u.live) ∈ (u.returnPaths g60).filter (fun p => decide (p.lanes ≠ 0)) := List.mem_filter.2 ⟨h, decide_eq_true ne⟩
  obtain ⟨p, hp, lanes, hpc, run⟩ := foldl_joinPath_standsIn rfl (acc := []) (.inl mem)
  exact ⟨p, by rwa [Gang.trapReturn_paths, ← hu], lanes l has, hpc, run⟩

/-- Settles O42: the fields are those of `Gang.trapReturn`; a path that goes on is joined with others at its address, never lost. -/
theorem trapReturn : Obligations.TrapReturn := by
  unfold Obligations.TrapReturn
  intro g now g60
  refine ⟨rfl, fun l _ live => ⟨fun hl _ => ?_, fun y hy hl => ?_⟩⟩
  · exact Gang.trapReturn_goesOn rfl List.mem_cons_self hl live
  · exact Gang.trapReturn_goesOn rfl (List.mem_cons_of_mem _ (List.mem_map_of_mem hy)) hl live

end Sys2Proof.Machine
end

section
/-! SUPPORT. The special function unit: an operation that enters its cluster's queue, one that leaves it with its result, the functions' special sources. -/

namespace Sys2Proof.Machine

/-! ## An operation enters the queue (R184, R440, R441) -/

/-- The functions of F64, which hold the unit for 16 issue clk. -/
theorem sfuTimes_wide_iff (fn : SfuFn) : sfuTimes fn = (16, 48) ↔ fn ∈ [SfuFn.recip64, .rroot64, .root64] := by cases fn <;> decide

theorem sfuTimes_hold (fn : SfuFn) : (sfuTimes fn).1 = if fn ∈ [SfuFn.recip64, .rroot64, .root64] then 16 else 4 := by cases fn <;> rfl

theorem sfuTimes_latency (fn : SfuFn) : (sfuTimes fn).2 = if fn ∈ [SfuFn.recip64, .rroot64, .root64] then 48 else 24 := by cases fn <;> rfl

/-- The instruction of a function. -/
def sfuInstr (fn : SfuFn) (p : Pred) (d : LDst) (a : LSrc) : Instr :=
  match fn with
  | .recip32 => .recipF32 p d a
  | .rroot32 => .rrootF32 p d a
  | .root32 => .rootF32 p d a
  | .pow2 => .pow2F32 p d a
  | .log2 => .log2F32 p d a
  | .sine => .sineF32 p d a
  | .cosine => .cosineF32 p d a
  | .htan => .htanF32 p d a
  | .recip64 => .recipF64 p d a
  | .rroot64 => .rrootF64 p d a
  | .root64 => .rootF64 p d a

theorem exec_sfuInstr (fn : SfuFn) (p : Pred) (d : LDst) (a : LSrc) (s : State) : exec (sfuInstr fn p d a) s = s.sfuIssue p fn d a := by cases fn <;> rfl

/-- The extra issue clk of an instruction whose results come later changes the issue slots alone. -/
theorem State.expandAt_frame (s : State) (x : Iss) (ws : List Write) :
    (s.expandAt x ws).work = s.work ∧ (s.expandAt x ws).mem = s.mem ∧ (s.expandAt x ws).adm = s.adm := by
  unfold State.expandAt
  cases s.gang? x.k with
  | none => exact ⟨rfl, rfl, rfl⟩
  | some g => exact ⟨s.expandFor_work g ws, s.expandFor_mem g ws, s.expandFor_adm g ws⟩

/-- The operation that an instruction puts into the queue `q` of its cluster: it leaves the head when the unit is free, and its result lands no earlier than those of its gang's
operations before it. -/
def State.sfuOp (s : State) (x : Iss) (p : Pred) (fn : SfuFn) (d : LDst) (a : LSrc) (q : List SfuOp) : SfuOp :=
  let head := s.sfuStart x.g.cluster q
  ⟨x.k, head, s.sfuDue x.g.cluster x.k head (sfuTimes fn).2 q, fn, d, x.act p, (List.range 32).map (fun l =>
    if decide (sfuTimes fn = (16, 48)) then x.f64 a l else (x.w32 a l).setWidth 64), x.run, x.pc, x.runPc, (0, 0), x.tagU [a]⟩

/-- The operation stands at the end of the queue `q`, its gang has one operation more, and its path goes on. -/
def State.sfuEnter (u : State) (x : Iss) (q : List SfuOp) (o : SfuOp) : State :=
  ((({ u with work := { u.work with sfu := mput x.g.cluster (q ++ [o]) u.work.sfu } }).sched o.due .sfuResult x.g.cluster).modGang x.k
    (fun g => { g with sfu := g.sfu + 1 })).pass x

theorem State.sfuIssue_eq {s : State} {x : Iss} (hx : s.iss = some x) (p : Pred) (fn : SfuFn) (d : LDst) (a : LSrc) :
    let q := (mget x.g.cluster s.work.sfu).getD []
    ∃ ws, s.sfuIssue p fn d a = .next ((s.expandAt x ws).sfuEnter x q (s.sfuOp x p fn d a q)) :=
  ⟨_, State.issue_some hx _⟩

section
variable {u : State} {x : Iss} {q : List SfuOp} {o : SfuOp}

theorem State.sfuEnter_gang? {g : Gang} (hg : u.gang? x.k = some g) :
    (u.sfuEnter x q o).gang? x.k = some { g with sfu := g.sfu + 1, paths := g.behind x } := by
  rw [State.gang?] at hg
  simp only [State.sfuEnter, State.pass, State.gang?, State.modGang_gangs, State.sched_work, mget_mmod, if_true, hg, Option.map_some]
  rfl

theorem State.sfuEnter_gang?_ne {k : Nat} (hk : k ≠ x.k) : (u.sfuEnter x q o).gang? k = u.gang? k := by
  simp only [State.sfuEnter, State.pass, State.gang?, State.modGang_gangs, State.sched_work, mget_mmod, if_neg hk]

theorem State.sfuEnter_queue : mget x.g.cluster (u.sfuEnter x q o).work.sfu = some (q ++ [o]) := mget_mput_same ..

end

/-- Settles O31: the entry is `State.sfuOp`, with the times of R184 and R441 for F32 and F64 functions. -/
theorem sfuIssue : Obligations.SfuIssue := by
  unfold Obligations.SfuIssue
  intro s x p fn d a hx i wide q hold head due
  obtain ⟨g, hg⟩ := State.iss_gang hx
  obtain ⟨ws, he⟩ := State.sfuIssue_eq hx p fn d a
  obtain ⟨hwork, hmem, hadm⟩ := s.expandAt_frame x ws
  have gangs (k : Nat) : (s.expandAt x ws).gang? k = s.gang? k := by rw [State.gang?, hwork, ← State.gang?]
  have hhead : head = s.sfuStart x.g.cluster q := by
    simp only [head, hold, State.sfuStart, sfuTimes_hold]; rfl
  have hdue : due = s.sfuDue x.g.cluster x.k head (sfuTimes fn).2 q := by
    simp only [due, State.sfuDue, sfuTimes_latency]; rfl
  refine ⟨_, g, _, (exec_sfuInstr fn p d a s).trans he, hg, State.sfuEnter_gang? ((gangs x.k).trans hg), ?_, rfl, hmem, hadm,
    fun k hk => (State.sfuEnter_gang?_ne hk).trans (gangs k)⟩
  rw [State.sfuEnter_queue, State.sfuOp, ← hhead, ← hdue]
  simp only [sfuTimes_wide_iff, wide, decide_eq_true_eq]
  rfl

/-! ## The operation that is due leaves the queue (R184) -/

theorem sfuTake_due {now : Nat} {pre rest : List SfuOp} {o : SfuOp} (hp : ∀ y ∈ pre, now < y.due) (ho : o.due ≤ now) :
    sfuTake now (pre ++ o :: rest) = some (o, pre ++ rest) := by
  induction pre with
  | nil => simp only [List.nil_append, sfuTake, if_pos ho]
  | cons y pre ih =>
    have hy : ¬ y.due ≤ now := Nat.not_le.2 (hp y List.mem_cons_self)
    rw [List.cons_append, sfuTake, if_neg hy, ih (fun z hz => hp z (List.mem_cons_of_mem _ hz))]
    rfl

theorem sfuTake_none {now : Nat} {q : List SfuOp} (h : ∀ y ∈ q, now < y.due) : sfuTake now q = none := by
  induction q with
  | nil => rfl
  | cons y q ih =>
    have hy : ¬ y.due ≤ now := Nat.not_le.2 (h y List.mem_cons_self)
    rw [sfuTake, if_neg hy, ih (fun z hz => h z (List.mem_cons_of_mem _ hz))]
    rfl

theorem exec_sfuResult_due {s : State} {q rest : List SfuOp} {o : SfuOp} (hq : mget s.clk.subj.a s.work.sfu = some q)
    (h : sfuTake s.clk.now q = some (o, rest)) : exec .sfuResult s = .next (s.sfuLand s.clk.subj.a o rest) := by
  show execSfuResult s = _
  simp only [execSfuResult, hq, Option.getD_some, h]

theorem exec_sfuResult_none {s : State} {q : List SfuOp} (hq : mget s.clk.subj.a s.work.sfu = some q)
    (h : sfuTake s.clk.now q = none) : exec .sfuResult s = .next s := by
  show execSfuResult s = _
  simp only [execSfuResult, hq, Option.getD_some, h]

/-! ## Masks and rows are made of 32 slots -/

theorem maskOf_congr {a b : Mask} {f g : Nat → Bool} (h : ∀ l < 32, (a.has l && f l) = (b.has l && g l)) : maskOf a f = maskOf b g :=
  List.foldl_ext _ _ 0 (fun m l hl => by rw [h l (List.mem_range.1 hl)])

theorem rowOf_congr {f g : Nat → Word} (h : ∀ l < 32, f l = g l) : rowOf f = rowOf g :=
  List.map_congr_left (fun l hl => h l (List.mem_range.1 hl))

theorem write32_congr {f g : Nat → Word} (h : ∀ l < 32, f l = g l) (d : LDst) (lanes : Mask) : write32 d lanes f = write32 d lanes g := by
  simp only [write32, rowOf_congr h]

theorem write64_congr {f g : Nat → DWord} (h : ∀ l < 32, f l = g l) (d : LDst) (lanes : Mask) : write64 d lanes f = write64 d lanes g := by
  have lo := rowOf_congr (f := fun l => (f l).setWidth 32) (g := fun l => (g l).setWidth 32) (fun l hl => by rw [h l hl])
  have hi := rowOf_congr (f := fun l => (f l >>> 32).setWidth 32) (g := fun l => (g l >>> 32).setWidth 32) (fun l hl => by rw [h l hl])
  simp only [write64, lo, hi]

/-! ## Results and causes of the lanes (R193, R298) -/

theorem laneRes_getD {l : Nat} (hl : l < 32) (act : Mask) (f : Nat → List FRes) : (laneRes act f).getD l [] = if act.has l then f l else [] := by
  simp [laneRes, List.getD_eq_getElem?_getD, hl]

theorem causeMask_laneRes (act : Mask) (f : Nat → List FRes) (e : FRes → Bool) : causeMask (laneRes act f) e = maskOf act (fun l => (f l).any e) := by
  refine maskOf_congr (fun l hl => ?_)
  have full : Mask.has 0xFFFFFFFF l = true := by
    have : ∀ i : Fin 32, Mask.has 0xFFFFFFFF i.val = true := by decide
    exact this ⟨l, hl⟩
  rw [laneRes_getD hl, full]
  cases act.has l <;> rfl

/-- Each lane has `n` results: the causes are those of the statements. -/
theorem causes_laneRes (n : Nat) (act : Mask) (r : Nat → Nat → FRes) :
    causes (laneRes act (fun l => (List.range n).map (r l))) = floatErrs n act r := by
  simp only [causes, floatErrs, causeMask_laneRes]

/-- The result of an operation in lane `l`. -/
def SfuOp.res (o : SfuOp) (l i : Nat) : FRes := if i = 0 then sfuEval o.fn (o.src.getD l 0).toNat else { bits := 0 }

theorem State.arith_now (s : State) (k : Nat) (g : Gang) (run : Nat) (hdr : DWord) (c : Nat) (m : Mask) :
    (s.arith k g run hdr c m).clk.now = s.clk.now := by
  unfold State.arith
  split
  · rfl
  · split <;> rfl

theorem foldl_arith_now (k run : Nat) (hdr : DWord) (cs : List (Nat × Mask)) (s : State) :
    (cs.foldl (fun (w : State) c => ((w.gang? k).map (fun g => w.arith k g run hdr c.1 c.2)).getD w) s).clk.now = s.clk.now := by
  refine foldl_keeps (fun w => w.clk.now) (fun w c => ?_) cs s
  cases w.gang? k with
  | none => rfl
  | some g => exact State.arith_now w k g run hdr c.1 c.2

theorem State.sfuLand_eq (s : State) (cl : Nat) (o : SfuOp) (rest : List SfuOp) :
    let u := { s with work := { s.work with sfu := mput cl rest s.work.sfu } }
    let v := fun (l : Nat) => if o.lanes.has l then (o.res l 0).bits else 0
    let ws := if o.fn ∈ [SfuFn.recip64, .rroot64, .root64] then write64 o.d o.lanes (fun l => BitVec.ofNat 64 (v l))
      else write32 o.d o.lanes (fun l => BitVec.ofNat 32 (v l))
    let e := (floatErrs 1 o.lanes o.res).foldl (fun (w : State) c => ((w.gang? o.gang).map (fun g => w.arith o.gang g o.run o.hdr c.1 c.2)).getD w) u
    s.sfuLand cl o rest = (e.landVar o.gang o.run o.lanes o.pc o.tag (cancelWrites o.cancel ws)).modGang o.gang
      (fun g => ({ g with sfu := g.sfu - 1 } : Gang).tryTrap s.clk.now) := by
  intro u v ws e
  have hr : causes (laneRes o.lanes (fun l => [sfuEval o.fn (o.src.getD l 0).toNat])) = floatErrs 1 o.lanes o.res := causes_laneRes 1 o.lanes o.res
  have hv : ∀ l < 32, (((laneRes o.lanes (fun l => [sfuEval o.fn (o.src.getD l 0).toNat])).getD l []).map FRes.bits).getD 0 0 = v l := fun l hl => by
    rw [laneRes_getD hl]; simp only [v]; split <;> rfl
  have h64 := write64_congr (d := o.d) (lanes := o.lanes) (fun l hl => congrArg (BitVec.ofNat 64) (hv l hl))
  have h32 := write32_congr (d := o.d) (lanes := o.lanes) (fun l hl => congrArg (BitVec.ofNat 32) (hv l hl))
  have hstep : (fun (w : State) (c : Nat × Mask) => ((w.gang? o.gang).map (fun g => w.arith o.gang g o.run o.hdr c.1 c.2)).getD w) =
      (fun (w : State) (c : Nat × Mask) => match w.gang? o.gang with
        | none => w
        | some g => w.arith o.gang g o.run o.hdr c.1 c.2) := by
    funext w c; cases w.gang? o.gang <;> rfl
  rw [← foldl_arith_now o.gang o.run o.hdr (floatErrs 1 o.lanes o.res) u]
  simp only [State.sfuLand, hr, h64, h32, decide_eq_true_eq, sfuTimes_wide_iff, e, ws, u, hstep] <;> rfl

/-! ## Special sources (R443) -/

theorem sfuEval_nan {fn : SfuFn} (h : fn ∈ [SfuFn.recip32, .rroot32, .root32, .pow2, .log2, .sine, .cosine, .htan]) :
    sfuEval fn 0x7FC00001 = { bits := 0x7FC00000 } ∧ sfuEval fn 0x7F800001 = { bits := 0x7FC00000, inv := true } := by
  simp only [List.mem_cons, List.not_mem_nil, or_false] at h
  rcases h with rfl | rfl | rfl | rfl | rfl | rfl | rfl | rfl <;> exact ⟨rfl, rfl⟩

/-- The hyperbolic tangent of -∞ is -1. -/
theorem sfuEval_htan_negInf : sfuEval .htan 0xFF800000 = { bits := 0xBF800000 } := by
  have one : Fmt.f32.roundMag .rne true 1 0 = 0x3F800000 := rfl
  show Fmt.f32.round .rne (.fin true 1 0) = _
  simp only [Fmt.round, one]
  rfl

/-- A negative number of F32 that is no subnormal is read as it stands, and is not zero. -/
theorem Fmt.f32_decode_negative {n : Nat} (h1 : 0x80800000 ≤ n) (h2 : n < 0xFF800000) :
    Fmt.f32.ftz true n = n ∧ ∃ m e, Fmt.f32.decode n = .fin true m e ∧ m ≠ 0 := by
  have hneg : Fmt.f32.neg n = true := decide_eq_true (show n / 2 ^ 31 % 2 = 1 by omega)
  have hlow : ¬ Fmt.f32.mag n < 2 ^ 23 := by show ¬ n % 2 ^ 31 < 2 ^ 23; omega
  have hfin : Fmt.f32.mag n ≤ 0x7F7FFFFF := by show n % 2 ^ 31 ≤ 0x7F7FFFFF; omega
  have hexp : Fmt.f32.mag n / 2 ^ 23 ≠ 0 := by omega
  refine ⟨if_neg (fun h => hlow h.2), 2 ^ 23 + Fmt.f32.mag n % 2 ^ 23, ((Fmt.f32.mag n / 2 ^ 23 : Nat) : Int) - 127 - 23, ?_, by omega⟩
  rw [Fmt.decode, hneg]
  exact (if_pos hfin).trans (if_neg hexp)

/-- A root, a reciprocal root or a logarithm of a negative number is invalid. -/
theorem sfuEval_negative {fn : SfuFn} (h : fn ∈ [SfuFn.rroot32, .root32, .log2]) {n : Nat} (h1 : 0x80800000 ≤ n) (h2 : n < 0xFF800000) :
    sfuEval fn n = { bits := 0x7FC00000, inv := true } := by
  obtain ⟨hftz, m, e, hdec, hm⟩ := Fmt.f32_decode_negative h1 h2
  simp only [List.mem_cons, List.not_mem_nil, or_false] at h
  rcases h with rfl | rfl | rfl <;>
    simp only [sfuEval, Bool.false_eq_true, if_false, Bool.not_false, hftz, hdec, if_neg hm, if_true] <;> rfl

/-- Settles O32: the operation that leaves the queue lands as `State.sfuLand` says; the special sources are evaluated, the negative ones by their sign. -/
theorem sfuResult : Obligations.SfuResult := by
  unfold Obligations.SfuResult
  refine ⟨?lands, ?special⟩
  case lands =>
    intro s pre o rest hq hp r v ws u e
    refine ⟨fun ho => ?_, fun ho hr => ?_⟩
    · rw [exec_sfuResult_due hq (sfuTake_due hp ho), State.sfuLand_eq]
      rfl
    · refine exec_sfuResult_none hq (sfuTake_none (fun y hy => ?_))
      rcases List.mem_append.1 hy with h | h
      · exact hp y h
      · rcases List.mem_cons.1 h with rfl | h
        · exact ho
        · exact hr y h
  case special =>
    dsimp only
    exact ⟨rfl, rfl, rfl, rfl, rfl, rfl, rfl, rfl, rfl, rfl, rfl, rfl, rfl, rfl, rfl, rfl, rfl, rfl, rfl, rfl, rfl, rfl, rfl, rfl, rfl, rfl, rfl, rfl,
      rfl, rfl, sfuEval_htan_negInf, rfl, rfl, rfl, fun fn => sfuEval_nan, fun n h1 h2 => ⟨sfuEval_negative (by decide) h1 h2, sfuEval_negative (by decide) h1 h2,
      sfuEval_negative (by decide) h1 h2⟩⟩

end Sys2Proof.Machine
end

section
/-! SUPPORT. Runs and waits: RUNB opens a run, RUNE ends it, the instructions at which a path waits, FENCE_RESUME. -/

namespace Sys2Proof.Machine

/-! ## RUNE (R180, R185, R374, R383, R418, R420) -/

/-- The form of a RUNE's range (R18, R374). -/
def runeForm (va : BitVec 7) (k : BitVec 4) : Prop := k.toNat ≤ 8 ∧ va.toNat + k.toNat ≤ 112

/-- The paths of a gang once a path has left its run. -/
def Gang.pathsLeft (g : Gang) (x : Iss) (r : Run) : List Path :=
  g.paths.flatMap (fun q => if q.lanes = x.path.lanes then leaveRun r q (x.pc + BitVec.ofNat 64 (4 * x.len)) else [q])

/-- The registers of a published range that have a pending write, beside those noted before (R185). -/
def State.published (s : State) (x : Iss) (g : Gang) (r : Run) (va k : Nat) : List Nat :=
  g.pub ++ (((List.range k).map (fun i => va + i)).filter (fun n => (s.vWaits x.k (g.closeRun r.uid)).contains n)).filter (fun n => !g.pub.contains n)

/-- A gang whose path has left its run: it ends where no lane is left. -/
def Gang.leftRun (g : Gang) (x : Iss) (r : Run) (pub : List Nat) : Gang :=
  let h := { g.closeRun r.uid with paths := g.pathsLeft x r, pub := pub }
  if g.pathsLeft x r = [] then h.finish x.pc else h

section
variable {s : State} {x : Iss} {g : Gang} (hx : s.iss = some x)
include hx

theorem exec_rune_outside (h : x.path.run = none) (va : BitVec 7) (k : BitVec 4) : exec (.rune va k) s = .next (s.trap x.k x.path.lanes x.pc 0x0005) := by
  refine (State.issue_some hx _).trans ?_
  rw [h]

variable {va : BitVec 7} {k : BitVec 4} {r : Run} (hr : x.path.run = some r)
include hr

theorem exec_rune_badForm (h : ¬ runeForm va k) : exec (.rune va k) s = .next (s.trap x.k x.path.lanes x.pc 0x0005) := by
  have bad : 8 < k.toNat ∨ 112 < va.toNat + k.toNat := by unfold runeForm at h; omega
  refine (State.issue_some hx _).trans ?_
  simp only [hr, if_pos bad]

theorem exec_rune_ordinary (h : runeForm va k) (hc : r.closes = false) : exec (.rune va k) s = .next (s.runeLeave x r va.toNat k.toNat) := by
  have good : ¬ (8 < k.toNat ∨ 112 < va.toNat + k.toNat) := by unfold runeForm at h; omega
  refine (State.issue_some hx _).trans ?_
  simp only [hr, if_neg good, hc, Bool.false_eq_true, if_false]

end

theorem State.runeLeave_ordinary {s : State} {x : Iss} {g : Gang} (hg : s.gang? x.k = some g) {r : Run}
    (h : r.regroup = none ∨ s.mayRegroup x.k g x.path.lanes = false) (va k : Nat) :
    s.runeLeave x r va k = s.setGang x.k (g.leftRun x r (s.published x g r va k)) := by
  simp only [State.runeLeave, hg, Gang.leftRun]
  by_cases hp : g.pathsLeft x r = []
  · rw [if_pos hp]; exact if_pos hp
  · rw [if_neg hp]
    refine (if_neg hp).trans ?_
    cases hrg : r.regroup with
    | none => rfl
    | some l =>
      have stays : s.mayRegroup x.k g x.path.lanes = false := h.resolve_left (by rw [hrg]; exact Option.some_ne_none l)
      simp only [stays, Bool.false_and, Bool.false_eq_true, if_false]
      rfl

theorem State.mem_published (s : State) (x : Iss) (g : Gang) (r : Run) (va k n : Nat) :
    n ∈ s.published x g r va k ↔ n ∈ g.pub ∨ (va ≤ n ∧ n < va + k ∧ n ∈ s.vWaits x.k (g.closeRun r.uid)) := by
  have range : n ∈ (List.range k).map (fun i => va + i) ↔ va ≤ n ∧ n < va + k := by
    rw [List.mem_map]
    constructor
    · rintro ⟨i, hi, rfl⟩; rw [List.mem_range] at hi; omega
    · rintro ⟨h1, h2⟩; exact ⟨n - va, List.mem_range.2 (by omega), by omega⟩
  simp only [State.published, List.mem_append, List.mem_filter, range, List.contains_eq_mem, decide_eq_true_eq, Bool.not_eq_true', decide_eq_false_iff_not]
  tauto

theorem Gang.leftRun_frame (g : Gang) (x : Iss) (r : Run) (pub : List Nat) :
    let h := g.leftRun x r pub
    h.paths = g.pathsLeft x r ∧ h.pend = (g.closeRun r.uid).pend ∧ h.pub = pub ∧ h.stop = (if g.pathsLeft x r = [] then .ending else g.stop) ∧
    h.v = g.v ∧ h.t = g.t ∧ h.p = g.p ∧ h.g = g.g ∧ h.q = g.q ∧ h.ops = g.ops := by
  by_cases hp : g.pathsLeft x r = []
  · rw [show g.leftRun x r pub = _ from if_pos hp]
    exact ⟨hp.symm, rfl, rfl, (if_pos hp).symm, rfl, rfl, rfl, rfl, rfl, rfl⟩
  · rw [show g.leftRun x r pub = _ from if_neg hp]
    exact ⟨rfl, rfl, rfl, (if_neg hp).symm, rfl, rfl, rfl, rfl, rfl, rfl⟩

theorem State.gang?_setGang_same (s : State) (k : Nat) (g : Gang) : (s.setGang k g).gang? k = some g := mget_mput_same ..

theorem State.gang?_setGang_ne {j k : Nat} (h : j ≠ k) (s : State) (g : Gang) : (s.setGang k g).gang? j = s.gang? j := mget_mput_ne h ..

/-- Settles O36: RUNE of an ordinary run leaves it as `Gang.leftRun` says. -/
theorem runEnd : Obligations.RunEnd := by
  unfold Obligations.RunEnd
  intro s x va k g hx hg good
  refine ⟨fun h => ?_, fun r hr hgood hc hre => ?_⟩
  · cases hr : x.path.run with
    | none => exact exec_rune_outside hx hr va k
    | some r => exact exec_rune_badForm hx hr (h.resolve_left (by rw [hr]; exact Option.some_ne_none r))
  · obtain ⟨hpaths, hpend, hpub, hstop, rest⟩ := g.leftRun_frame x r (s.published x g r va.toNat k.toNat)
    refine ⟨s.setGang x.k (g.leftRun x r (s.published x g r va.toNat k.toNat)), _, ?_, State.gang?_setGang_same .., hpaths, hpend, fun n => ?_, hstop, ?_⟩
    · rw [exec_rune_ordinary hx hr hgood hc, State.runeLeave_ordinary hg hre]
    · rw [hpub, State.mem_published]
    · obtain ⟨hv, ht, hp, hgr, hq, ho⟩ := rest
      exact ⟨hv, ht, hp, hgr, hq, ho, rfl, rfl, fun j hj => State.gang?_setGang_ne hj ..⟩

/-! ## RUNB (R178, R180 to R182, R374, R383) -/

/-- The form of a run header that stands outside a run (R374). -/
def runbForm (x : Iss) (n : BitVec 5) (va : BitVec 7) (k : BitVec 4) : Prop :=
  x.run = 0 ∧ 1 ≤ n.toNat ∧ n.toNat ≤ 24 ∧ k.toNat ≤ 8 ∧ va.toNat + k.toNat ≤ 112

section
variable {s : State} {x : Iss} (hx : s.iss = some x) {n : BitVec 5} {va : BitVec 7} {k : BitVec 4}
include hx

theorem exec_runb_badForm (h : ¬ runbForm x n va k) : exec (.runb n va k) s = .next (s.trap x.k x.path.lanes x.pc 0x0005) := by
  have bad : x.run ≠ 0 ∨ n.toNat = 0 ∨ 24 < n.toNat ∨ 8 < k.toNat ∨ 112 < va.toNat + k.toNat := by unfold runbForm at h; omega
  exact (State.issue_some hx _).trans (congrArg _ (if_pos bad))

variable (h : runbForm x n va k)
include h

theorem exec_runb_badWord {c : Nat} {pc : DWord} (hs : s.scanRun x.g x.ctx n.toNat va.toNat k.toNat (n.toNat + 1) 0 (x.pc + 4) = .bad c pc) :
    exec (.runb n va k) s = .next ((s.openRun x n.toNat va.toNat k.toNat).trap x.k x.path.lanes pc c) := by
  have good : ¬ (x.run ≠ 0 ∨ n.toNat = 0 ∨ 24 < n.toNat ∨ 8 < k.toNat ∨ 112 < va.toNat + k.toNat) := by unfold runbForm at h; omega
  refine (State.issue_some hx _).trans (congrArg _ ?_)
  simp only [if_neg good, hs]

theorem exec_runb_opens (hs : s.scanRun x.g x.ctx n.toNat va.toNat k.toNat (n.toNat + 1) 0 (x.pc + 4) = .ok) :
    exec (.runb n va k) s = .next ((s.openRun x n.toNat va.toNat k.toNat).runbClose x n.toNat) := by
  have good : ¬ (x.run ≠ 0 ∨ n.toNat = 0 ∨ 24 < n.toNat ∨ 8 < k.toNat ∨ 112 < va.toNat + k.toNat) := by unfold runbForm at h; omega
  refine (State.issue_some hx _).trans (congrArg _ ?_)
  simp only [if_neg good, hs]

end

/-- A lane result: of a V, T or P register. -/
def Write.ofLanes : Write → Bool
  | .v _ _ _ | .t _ _ _ | .p _ _ _ => true
  | _ => false

theorem Gang.land_ofLanes {w : Write} (h : w.ofLanes = true) (g : Gang) (t : Tag) :
    (g.land t w).g = g.g ∧ (g.land t w).q = g.q ∧ (g.land t w).ops = g.ops ∧ (g.land t w).paths = g.paths ∧ (g.land t w).t.length = g.t.length := by
  refine ⟨?_, ?_, ?_, g.land_paths t w, (g.land_lengths t w).2.2.2.1⟩ <;>
  · cases w with
    | p => rw [Gang.land_p]
    | v | t => rfl
    | g | q | sr => cases h

theorem Gang.foldl_landPend_ofLanes {l : List Pend} (h : ∀ y ∈ l, y.w.ofLanes = true) (g : Gang) :
    let u := l.foldl Gang.landPend g
    u.g = g.g ∧ u.q = g.q ∧ u.ops = g.ops ∧ u.paths = g.paths ∧ u.t.length = g.t.length := by
  induction l generalizing g with
  | nil => exact ⟨rfl, rfl, rfl, rfl, rfl⟩
  | cons y l ih =>
    obtain ⟨hg, hq, ho, hp, ht⟩ := ih (fun z hz => h z (List.mem_cons_of_mem _ hz)) (g.landPend y)
    obtain ⟨hg', hq', ho', hp', ht'⟩ := Gang.land_ofLanes (h y List.mem_cons_self) g y.tag
    exact ⟨hg.trans hg', hq.trans hq', ho.trans ho', hp.trans hp', ht.trans ht'⟩

/-- Where a run opens, lane results that have landed take their effect, and no other result does. -/
theorem Gang.settleLanes_frame (g : Gang) (now : Nat) (lanes : Mask) :
    let u := g.settleLanes now lanes
    u.g = g.g ∧ u.q = g.q ∧ u.ops = g.ops ∧ u.paths = g.paths ∧ u.t.length = g.t.length :=
  Gang.foldl_landPend_ofLanes (fun _ hy => (Bool.and_eq_true_iff.1 (List.mem_filter.1 hy).2).2) _

theorem Gang.clearT_tlane (g : Gang) {lanes : Mask} {i l : Nat} (hi : i < g.t.length) (hl : l < 32) (h : lanes.has l = true) :
    (g.clearT lanes).tlane i l = 0 := by
  simp only [Gang.clearT, Gang.tlane, List.getD_eq_getElem?_getD, List.getElem?_map, List.getElem?_eq_getElem hi, Option.map_some, Option.getD_some]
  rw [← List.getD_eq_getElem?_getD, mergeRow_getD hl, if_pos h]
  rfl

/-- The gang of a run that opens on the path of `x`: staging until clk `till`, positions from 0, temporaries 0. -/
def Gang.openedRun (g : Gang) (now uid : Nat) (x : Iss) (n va k till : Nat) : Gang :=
  ((g.settleLanes now x.path.lanes).clearT x.path.lanes).modPath x.path.lanes (fun p => { p with
    pc := x.pc + 4, hold := till, run := some ⟨uid, x.pc, n, va, k, 0, till, [], 0, none, false, 0⟩ })

theorem State.openRun_eq {s : State} {x : Iss} {g : Gang} (hg : s.gang? x.k = some g) (n va k : Nat) :
    s.openRun x n va k = s.takeFresh.2.setGang x.k (g.openedRun s.clk.now s.clk.fresh x n va k (s.issueClk g.die ((g.halves va k + 7) / 8))) := by
  have hg' : s.takeFresh.2.gang? x.k = some g := hg
  simp only [State.openRun, hg']
  rfl

theorem Gang.openedRun_frame (g : Gang) (now uid : Nat) (x : Iss) (n va k till : Nat) :
    let h := g.openedRun now uid x n va k till
    h.paths = g.paths.map (fun q => if q.lanes = x.path.lanes then
      { q with pc := x.pc + 4, hold := till, run := some ⟨uid, x.pc, n, va, k, 0, till, [], 0, none, false, 0⟩ } else q) ∧
    h.g = g.g ∧ h.q = g.q ∧ h.ops = g.ops ∧ ∀ i < g.t.length, ∀ l < 32, x.path.lanes.has l = true → h.tlane i l = 0 := by
  obtain ⟨hg, hq, ho, hp, ht⟩ := g.settleLanes_frame now x.path.lanes
  refine ⟨?_, hg, hq, ho, fun i hi l hl hm => Gang.clearT_tlane _ (by rwa [ht]) hl hm⟩
  rw [← hp]; rfl

theorem State.runbClose_unprotected {s : State} {x : Iss} (h : s.prot? x.g.team = none) (n : Nat) : s.runbClose x n = s := by
  unfold State.runbClose
  rw [h]; rfl

/-- Settles O37: a header of a good form whose words are good opens the run as `Gang.openedRun` says. -/
theorem runBegin : Obligations.RunBegin := by
  unfold Obligations.RunBegin
  intro s x n va k g hx hg good scan
  refine ⟨fun h => exec_runb_badForm hx h, fun h c pc hs => exec_runb_badWord hx h hs, fun h hs hp => ?_⟩
  obtain ⟨hpaths, hgr, hq, ho, ht⟩ := g.openedRun_frame s.clk.now s.clk.fresh x n.toNat va.toNat k.toNat (s.issueClk g.die ((g.halves va.toNat k.toNat + 7) / 8))
  have hopen := State.openRun_eq hg n.toNat va.toNat k.toNat
  have hprot : (s.openRun x n.toNat va.toNat k.toNat).prot? x.g.team = none := by rw [hopen]; exact hp
  refine ⟨s.openRun x n.toNat va.toNat k.toNat, _, ?_, ?_, hpaths, ht, hgr, hq, ho, ?_⟩
  · rw [exec_runb_opens hx h hs, State.runbClose_unprotected hprot]
  · rw [hopen, State.gang?_setGang_same]
  · rw [hopen]
    exact ⟨rfl, rfl, fun j hj => State.gang?_setGang_ne hj ..⟩

/-! ## Paths that wait (R384, R385, R458, R467, R470, R488) -/

theorem Gang.ctrOk_iff (g : Gang) (a b c d : Nat) : g.ctrOk a b c d = true ↔ g.count 0 ≤ a ∧ g.count 1 ≤ b ∧ g.count 2 ≤ c ∧ g.count 3 ≤ d := by
  simp only [Gang.ctrOk, Bool.and_eq_true, decide_eq_true_eq, and_assoc]

theorem Gang.fenceDone_iff (g : Gang) (now upto : Nat) (kind : FKind) (sc : Scope) :
    g.fenceDone now upto kind sc = true ↔ (kind = .acq ∨ g.relDone now upto sc = true) ∧ (kind = .rel ∨ g.acqDone upto = true) := by
  cases kind <;> simp [Gang.fenceDone]

section
variable {s : State} {x : Iss} {p : Pred} (hx : s.iss = some x) (hp : x.qp p = true)
include hx hp

theorem exec_waitc_passes {a b c d : BitVec 4} (h : x.g.ctrOk a.toNat b.toNat c.toNat d.toNat = true) : Passes (.waitc p a b c d) s x :=
  (State.uni_true hx hp _).trans (congrArg _ (if_pos h))

theorem exec_waitc_waits {a b c d : BitVec 4} (h : ¬ x.g.ctrOk a.toNat b.toNat c.toNat d.toNat = true) :
    Waits (.waitc p a b c d) s x (.ctr a.toNat b.toNat c.toNat d.toNat) :=
  (State.uni_true hx hp _).trans (congrArg _ (if_neg h))

theorem exec_bartm : Waits (.bartm p) s x .bar := State.uni_true hx hp _

theorem exec_flacq (e : UDst) (u : USrc) : Waits (.flacq p e u) s x (.flacq (x.u u) e (s.clk.now + 20)) := State.uni_true hx hp _

theorem exec_bowait (u : USrc) : Waits (.bowait p u) s x (.bo (x.u u) (s.clk.now + 20)) := State.uni_true hx hp _

theorem exec_taskdone_passes (h : s.tasksDone x.k x.g = true) : Passes (.taskdone p) s x :=
  (State.uni_true hx hp _).trans (congrArg _ (if_pos h))

theorem exec_taskdone_waits (h : s.tasksDone x.k x.g = false) : Waits (.taskdone p) s x (.task x.pc) :=
  (State.uni_true hx hp _).trans (congrArg _ (if_neg (by rw [h]; exact Bool.false_ne_true)))

/-- Outside protected teams a fence closes nothing. -/
theorem exec_fence_unprotected (hn : s.prot? x.g.team = none) (kind : FKind) (sc : Scope) : exec (.fence p kind sc) s =
    .next (if x.g.fenceDone s.clk.now (s.upto x.path) kind sc then s.pass x else s.await x (.fence kind sc (s.upto x.path))) := by
  refine (State.uni_true hx hp _).trans (congrArg _ ?_)
  simp only [hn, ite_self]

theorem exec_fence_passes (hn : s.prot? x.g.team = none) {kind : FKind} {sc : Scope} (h : x.g.fenceDone s.clk.now (s.upto x.path) kind sc = true) :
    Passes (.fence p kind sc) s x :=
  (exec_fence_unprotected hx hp hn kind sc).trans (congrArg _ (if_pos h))

theorem exec_fence_waits (hn : s.prot? x.g.team = none) {kind : FKind} {sc : Scope} (h : ¬ x.g.fenceDone s.clk.now (s.upto x.path) kind sc = true) :
    Waits (.fence p kind sc) s x (.fence kind sc (s.upto x.path)) :=
  (exec_fence_unprotected hx hp hn kind sc).trans (congrArg _ (if_neg h))

end

theorem State.modGang_of_gang? {s : State} {k : Nat} {g : Gang} (h : s.gang? k = some g) (f : Gang → Gang) : s.modGang k f = s.setGang k (f g) := by
  rw [State.gang?] at h
  rw [State.modGang, mmod_some h, State.setGang]

/-- Settles O38: each instruction passes or waits by its own condition. That FLACQ and BOWAIT always wait, until the clk at which their access arrives at the
scratchpad, is the model's choice (log 50). -/
theorem pathsWait : Obligations.PathsWait := by
  unfold Obligations.PathsWait
  refine ⟨?waits, ?fences⟩
  case waits =>
    intro s x p a b c d u e hx hp ok
    have hok : x.g.ctrOk a.toNat b.toNat c.toNat d.toNat = true ↔ ok := Gang.ctrOk_iff ..
    exact ⟨fun h => exec_waitc_passes hx hp (hok.2 h), fun h => exec_waitc_waits hx hp (fun h' => h (hok.1 h')), exec_bartm hx hp, exec_flacq hx hp e u,
      exec_bowait hx hp u, exec_taskdone_passes hx hp, exec_taskdone_waits hx hp⟩
  case fences =>
    intro s x p kind sc hx hp upto rel acq done
    have hdone : x.g.fenceDone s.clk.now upto kind sc = true ↔ done := Gang.fenceDone_iff ..
    refine ⟨fun hn => ⟨fun h => exec_fence_passes hx hp hn (hdone.2 h), fun h => exec_fence_waits hx hp hn (fun h' => h (hdone.1 h'))⟩, fun u g hg => ?_⟩
    exact congrArg _ (State.modGang_of_gang? hg _)

end Sys2Proof.Machine
end

section
/-! SUPPORT. One step: the turn of a path, the words at its address, and that every step answers a next state (R6, R88, R165 to R168,
R189, R370, R371). -/

namespace Sys2Proof.Machine

/-! ## Instructions and their issuer -/

theorem State.ite_issues (s : State) (c : Prop) [Decidable c] (f g : Iss → State) : ∃ h, (if c then s.issue f else s.issue g) = s.issue h := by
  split
  · exact ⟨f, rfl⟩
  · exact ⟨g, rfl⟩

/-- Every instruction of the table means something for the instruction that issues; only an event has no shape. -/
theorem exec_issues {i : Instr} (h : i.shape ≠ none) (s : State) : ∃ f, exec i s = s.issue f := by
  cases i with
  | nop | sreg | lbr | lexit | lbrRg | iadd | isub | imul | and | or | xor | shl | shrN32 | shrI32 | iminI32 | imaxI32 | iminN32 |
    imaxN32 | icmp | fcmpF32 | faddF32 | fsubF32 | fmulF32 | ffmaF32 | fminF32 | fmaxF32 | fminnF32 | fmaxnF32 | faddF64 | fmulF64 |
    ffmaF64 | faddBf16X2 | fmulBf16X2 | ffmaBf16X2 | faddF16X2 | fmulF16X2 | redux | shfl | recipF32 | rrootF32 | rootF32 | pow2F32 |
    log2F32 | sineF32 | cosineF32 | htanF32 | recipF64 | rrootF64 | rootF64 | mov | ld | st | lds | sts | atom | atomNoret | icmpLong |
    faddLong | fsubLong | fmulLong | ffmaLong | fminLong | fmaxLong | fminnLong | fmaxnLong | fabs | fneg | fcmpLong | fclass | cvt |
    qblk | qblks | dqblk | shflLong | ldLong | stLong | ldsLong | stsLong | atomLong | atoms | pref | dset | dget | stmc | stred | runb
    | rune | waitc | bartm | fence | exit | bra | braq | call | ret | jmpg | trap | bkpt | fwcall | gadd | gsub | gmul | gmulhiN64 |
    gmulhiI64 | gand | gor | gxor | gandn | gnot | gpopc | gclz | gshl | gshr | gsar | grotl | gminI64 | gmaxI64 | gminN64 | gmaxN64 |
    gmov | gmovN32 | gmovI32 | gcmp | gsel | qand | qor | qxor | sregUniform | sregw | vtog | gtov | vote | pmark | ldUniform |
    stUniform | qsend | flinit | flacq | flrel | boarm | bowait | mres | mrel | mmaq | mdelta | mdrain | mzero | mstat | rsvinv |
    rsvinvClear | rsvq | copyt | kick | tdload | tasksub | taskdone | fapp | ftake | dryw | topen | trival | tscore | tstat | tclose |
    tcloseAbort | spgrow | rgive | rclaim => exact ⟨_, rfl⟩
  | iaddLong | isubLong | imulLong | imulhi | imad | andLong | orLong | xorLong | andn | not | shlLong | shrLong | iminLong | imaxLong |
    iabs | ineg | popc | clz | bitrev | xfld | ifld | sel | movLong => exact State.ite_issues ..
  | _ => exact absurd rfl h

/-- The paths of a gang, where it is there. -/
def State.paths? (s : State) (k : Nat) : Option (List Path) := (s.gang? k).map Gang.paths

theorem State.iss_withCur {s : State} {k : Nat} {lanes : Mask} (h : ((s.paths? k).bind (List.find? (fun p => p.lanes = lanes))).isSome)
    (pc : DWord) (len : Nat) (w : Word) : ∃ x, (s.withCur k lanes pc len w).iss = some x := by
  cases hg : s.gang? k with
  | none => simp [State.paths?, hg] at h
  | some g =>
    have hp : (g.path? lanes).isSome := by rwa [State.paths?, hg] at h
    obtain ⟨p, hp⟩ := Option.isSome_iff_exists.1 hp
    have hg' : (s.withCur k lanes pc len w).gang? k = some g := hg
    rw [State.iss, show (s.withCur k lanes pc len w).clk.cur = some ⟨k, lanes, pc, len, w⟩ from rfl]
    simp only [hg', hp]
    exact ⟨_, rfl⟩

/-! ## What an instruction brings before it issues changes no path -/

theorem State.paths?_of_gangs {s t : State} (h : t.work.gangs = s.work.gangs) : t.paths? = s.paths? := by
  funext k
  rw [State.paths?, State.paths?, State.gang?, State.gang?, h]

theorem State.paths?_modGang {f : Gang → Gang} (h : ∀ g, (f g).paths = g.paths) (s : State) (k : Nat) : (s.modGang k f).paths? = s.paths? := by
  funext j
  have := mget_mmod k j f s.work.gangs
  by_cases hj : j = k <;> simp_all [State.paths?, State.gang?, Function.comp_def]

theorem State.paths?_stopSession (s : State) (ctx serial : Nat) : (s.stopSession ctx serial).paths? = s.paths? := by
  unfold State.stopSession
  extract_lets lids mine
  refine foldl_keeps State.paths? (fun u t => foldl_keeps State.paths? (fun u k => State.paths?_modGang (fun g => ?_) u k) _ u) mine s
  split <;> rfl

theorem State.wakeWhere_gangs (s : State) (f : Nat → Req → Part → Bool) : (s.wakeWhere f).work.gangs = s.work.gangs :=
  (congrArg Work.gangs (State.kickReissues_frame _ _).2).trans rfl

theorem State.paths?_diverge (s : State) (ctx kind die : Nat) (gang : Option (Nat × Gang)) (pc : DWord) (want found sq : Nat) (runpc : DWord) :
    (s.diverge ctx kind die gang pc want found sq runpc).paths? = s.paths? := by
  unfold State.diverge
  split
  · rfl
  · split
    · rfl
    · extract_lets _ _ _ s2 _ _ s3 s4
      have h4 : s4.paths? = s.paths? :=
        calc s4.paths? = s3.paths? := rfl
          _ = s2.paths? := rfl
          _ = s.paths? := rfl
      split
      · exact (State.paths?_stopSession ..).trans h4
      · exact (State.paths?_of_gangs (State.wakeWhere_gangs ..)).trans h4

theorem State.paths?_sessFull (s : State) (ctx die : Nat) : (s.sessFull ctx die).paths? = s.paths? := by
  unfold State.sessFull
  split <;> rfl

theorem State.paths?_sessEnter (s : State) (k : Nat) : (s.sessEnter k).paths? = s.paths? := by
  unfold State.sessEnter
  split
  · rfl
  split
  · rfl
  split
  · rfl
  extract_lets e
  split
  · split
    · split
      · rfl
      · exact State.paths?_diverge ..
    · exact State.paths?_diverge ..
  · split
    · exact State.paths?_sessFull ..
    · rfl

theorem State.paths?_firstSnap (s : State) (t : Nat) : (s.firstSnap t).paths? = s.paths? := by
  unfold State.firstSnap
  repeat' split
  all_goals rfl

theorem State.paths?_countIssue (s : State) (g : Gang) : (s.countIssue g).paths? = s.paths? := by
  unfold State.countIssue
  split
  · rfl
  · extract_lets s1
    split
    · rfl
    · split
      · rfl
      · split <;> rfl

theorem State.paths?_beforeIssue (s : State) (k : Nat) (g : Gang) (lanes : Mask) : (s.beforeIssue k g lanes).paths? = s.paths? := by
  have h1 : ((s.sessEnter k).firstSnap g.team).paths? = s.paths? := (State.paths?_firstSnap ..).trans (s.paths?_sessEnter k)
  unfold State.beforeIssue
  split
  · exact (State.paths?_countIssue ..).trans h1
  · refine (State.paths?_modGang ?_ ..).trans h1
    exact fun _ => rfl

/-- The path whose turn it is issues. -/
theorem State.iss_front {s : State} {k : Nat} {g : Gang} {lanes : Mask} {p : Path} (hg : s.gang? k = some g) (hp : g.path? lanes = some p)
    (pc : DWord) (len : Nat) (w : Word) : ∃ x, ((s.beforeIssue k g lanes).withCur k lanes pc len w).iss = some x := by
  refine State.iss_withCur ?_ pc len w
  rw [State.paths?_beforeIssue, State.paths?, hg]
  exact Option.isSome_iff_exists.2 ⟨p, hp⟩

/-! ## The answer of a step -/

/-- An instruction that a turn executes is one of the table, not an event. -/
theorem State.nextOf_shape {s : State} {g : Gang} {p : Path} {i : Instr} {len : Nat} {w : Word} (h : s.nextOf g p = .instr i len w) :
    i.shape ≠ none := by
  unfold State.nextOf at h
  repeat' split at h
  all_goals simp_all

/-- What a turn executes: the instruction that stands there, or the trap of an encoding that is none; the path of the turn issues it. -/
theorem State.front_run {s u : State} {t : Turn} {i : Instr} (h : s.front t = .run i u) :
    ∃ (g : Gang) (p : Path) (len : Nat) (w : Word), s.gang? t.gang = some g ∧ g.path? t.lanes = some p ∧
      u = (s.beforeIssue t.gang g t.lanes).withCur t.gang t.lanes p.pc len w ∧ (i.shape ≠ none ∨ ∃ rsv, i = .unassignedEncoding rsv) := by
  unfold State.front at h
  split at h
  · cases h
  · next g hg =>
    split at h
    · cases h
    · next p hp =>
      split at h
      · next len w hn =>
        split at h
        · cases h
        · split at h <;> cases h
          exact ⟨g, p, len, w, hg, hp, rfl, .inl (State.nextOf_shape hn)⟩
      · cases h
      · extract_lets s1 at h
        split at h
        · cases h
        · split at h <;> cases h
          exact ⟨g, p, 1, 0, hg, hp, rfl, .inr ⟨_, rfl⟩⟩

theorem State.front_answers {s u : State} {t : Turn} {i : Instr} (h : s.front t = .run i u) : ∃ v, exec i u = .next v := by
  obtain ⟨g, p, len, w, hg, hp, rfl, hi⟩ := State.front_run h
  obtain ⟨x, hx⟩ := State.iss_front hg hp p.pc len w
  obtain hi | ⟨rsv, rfl⟩ := hi
  · obtain ⟨f, hf⟩ := exec_issues hi ((s.beforeIssue t.gang g t.lanes).withCur t.gang t.lanes p.pc len w)
    exact ⟨f x, hf.trans (State.issue_some hx f)⟩
  · exact ⟨_, State.issue_some hx _⟩

theorem State.turn_answers (s : State) (t : Turn) : ∃ v, s.turn t = .next v := by
  unfold State.turn
  split
  · next h => exact State.front_answers h
  · exact ⟨_, rfl⟩

theorem State.runItem_answers (s : State) (i : Item) : ∃ v, s.runItem i = .next v := by
  unfold State.runItem
  split
  · exact ⟨_, rfl⟩
  · next r _ => exact nomatch r
  · exact ⟨_, rfl⟩

theorem State.tick_answers (s : State) : ∃ v, s.tick = .next v := by
  unfold State.tick
  split
  · split
    · exact State.runItem_answers ..
    · exact ⟨_, rfl⟩
  · exact ⟨_, rfl⟩

/-- Settles O2: a turn executes only what its path issues, and every instruction of the table answers its issuer; an event that is refused
leaves the state as it is. -/
theorem stepAnswers : Obligations.StepAnswers := by
  unfold Obligations.StepAnswers
  intro s
  unfold step
  split
  · exact State.turn_answers ..
  · exact s.tick_answers

/-! ## A turn by the words at the path's address -/

section
variable {s : State} {t : Turn} {g : Gang} {p : Path} (hg : s.gang? t.gang = some g) (hp : g.path? t.lanes = some p)
include hg hp

theorem State.turn_instr {i : Instr} {len : Nat} {w : Word} (h : s.nextOf g p = .instr i len w) (hr : s.runbAwaits g p i = none)
    (hm : ((i.shape.map Shape.mem).getD false && g.ordered p) = false) :
    s.turn t = exec i ((s.beforeIssue t.gang g t.lanes).withCur t.gang t.lanes p.pc len w) := by
  simp only [State.turn, State.front, hg, hp, h, hr, hm, Bool.false_eq_true, if_false]

theorem State.turn_noInstr (rsv : Bool) (h : s.nextOf g p = .trap (if rsv then 0x0002 else 0x0001) none) :
    s.turn t = exec (.unassignedEncoding rsv) ((s.beforeIssue t.gang g t.lanes).withCur t.gang t.lanes p.pc 1 0) := by
  cases rsv <;> simp [State.turn, State.front, hg, hp, h]

end

section
variable {s : State} {g : Gang} {p : Path}

theorem State.nextOf_decoded {i : Instr} {n : Nat} {f : Shape} (hd : decode (s.fetchWords g (s.ctxOf g) p.pc 3).1 = .ok (i, n)) (hf : i.shape = some f)
    (hc : p.run = none → f.cause g.core.isSome g.rows = none) :
    s.nextOf g p = .instr i n ((s.fetchWords g (s.ctxOf g) p.pc 3).1.headD 0) := by
  cases hr : p.run with
  | none => simp [State.nextOf, State.fetchInstr, hd, hf, hr, hc hr]
  | some r => simp [State.nextOf, State.fetchInstr, hd, hf, hr]

theorem State.nextOf_illenc (hd : decode (s.fetchWords g (s.ctxOf g) p.pc 3).1 = .error .illenc) : s.nextOf g p = .trap 0x0001 none := by
  simp [State.nextOf, State.fetchInstr, hd]

theorem State.nextOf_rsvfield (hd : decode (s.fetchWords g (s.ctxOf g) p.pc 3).1 = .error .rsvfield) : s.nextOf g p = .trap 0x0002 none := by
  simp [State.nextOf, State.fetchInstr, hd]

end

theorem toNat_append_byte {n : Nat} (x : BitVec n) (y : Byte) : (x ++ y).toNat = 256 * x.toNat + y.toNat := by
  rw [BitVec.toNat_append, ← Nat.shiftLeft_add_eq_or_of_lt y.isLt, Nat.shiftLeft_eq, Nat.mul_comm]

/-- Four bytes as the word that they hold, little-endian (R3). -/
theorem ofBytes_word (b0 b1 b2 b3 : Byte) : BitVec.ofNat 32 (ofBytes [b0, b1, b2, b3]) = b3 ++ b2 ++ b1 ++ b0 := by
  apply BitVec.eq_of_toNat_eq
  have h : ofBytes [b0, b1, b2, b3] = (b3 ++ b2 ++ b1 ++ b0).toNat := by
    simp only [ofBytes, toNat_append_byte]
    omega
  rw [h, BitVec.ofNat_toNat, BitVec.setWidth_eq]

theorem readBytes_four (m : List Host.Cell) (a : Nat) :
    readBytes m a 4 = [readByte m a, readByte m (a + 1), readByte m (a + 2), readByte m (a + 3)] := rfl

theorem State.fetchWord_eq {s : State} {g : Gang} {ctx : Nat} {a : DWord} {e : TlbEnt} {m : Nat} (hok : ptrOk a = true)
    (hl : (s.lookup g.place g.die ctx (pageOf (ptrVa a))).1 = some e) (hx : leafCause .exec e.leaf = none)
    (hm : s.placeOf ctx e.leaf e.size (ptrVa a) = some (4 * m)) (hpa : leafPeer e.leaf = 0 → paOk (leafAddr e.leaf e.size (ptrVa a)) = true) :
    s.fetchWord g ctx a = .word (readByte s.mem.bytes (4 * m + 3) ++ readByte s.mem.bytes (4 * m + 2) ++
      readByte s.mem.bytes (4 * m + 1) ++ readByte s.mem.bytes (4 * m)) := by
  have hn : ¬ (leafPeer e.leaf = 0 ∧ (!paOk (leafAddr e.leaf e.size (ptrVa a))) = true) := by
    rintro ⟨h0, h1⟩
    simp [hpa h0] at h1
  simp only [State.fetchWord, hok, hl, hx, hm, if_neg hn, Bool.not_true, Bool.false_eq_true, if_false]
  rw [Nat.mul_div_cancel_left m (by decide : 0 < 4), Nat.mul_comm m 4, readBytes_four, ofBytes_word]

/-- Settles O1: the turn goes by what decodes at the path's address; the fetch of a word reads the four bytes at the place of its page. -/
theorem stepRunsDecoded : Obligations.StepRunsDecoded := by
  unfold Obligations.StepRunsDecoded
  intro s t ts g p hts u hg hp ws
  have hstep : step s = u.turn t := by simp only [step, hts]; rfl
  rw [hstep]
  refine ⟨fun i n f hd hf hc hr hm => ?_, fun hd => ?_, fun hd => ?_, fun a e m hok hl hx hpl hpa => ?_⟩
  · refine State.turn_instr hg hp (State.nextOf_decoded hd hf hc) hr ?_
    rw [hf]
    cases h : f.mem <;> simp_all
  · exact State.turn_noInstr hg hp false (State.nextOf_illenc hd)
  · exact State.turn_noInstr hg hp true (State.nextOf_rsvfield hd)
  · exact State.fetchWord_eq hok hl hx hpl hpa

end Sys2Proof.Machine
end

section
/-! SUPPORT. A table of requests that lists one number twice and out of order, and a request that issues there: where the request ends as
it issues, the older one of its number is the one that goes on. -/

namespace Sys2Proof.Machine

/-! ## A request that fails as it issues (R88, R105, R187) -/

/-- A load of lane 0 of gang 1 from two blocks of page 1 of context 0. -/
def twoBlockLoad (sample : Option Nat) : Req where
  gang := 1
  ctx := 0
  kind := .ld
  pc := 0x1234
  runpc := 0
  run := 0
  base := 0x10000
  word := 0
  lanes := 1
  bad := 0
  dest := .none
  sz := 4
  signed := false
  op := .add
  idx := []
  data := []
  cmp := []
  fill := false
  home := false
  acq := false
  cls := 0
  btime := 0
  seq := 0
  issued := 0
  plan := 1
  cancel := (0, 0)
  sel := 0
  denied := 0
  sample := sample
  grp := none
  parts := [.new 0x10000 [⟨0, 0x10000, 4, 0, 0⟩] false, .new 0x10040 [⟨0, 0x10040, 4, 0, 0⟩] false]

/-- The next number is 2, and the table holds a sampled request of that number behind one of number 3. Page 1 may not be read; the records
of sampled loads go to 0x8000 of the management window. -/
def numberTwice : State :=
  let s := State.reset
  { s with
    clk := { s.clk with fresh := 2 }
    mem := { s.mem with tlb := [⟨.cluster 0, 0, 1, 0, 0, 0, 0⟩], reqs := [(3, twoBlockLoad none), (2, twoBlockLoad (some 0))] }
    adm := { s.adm with samples := [(0, ⟨1, 0x8000, 0, 0x9000, [], 0, []⟩)] }
    work := { s.work with gangs := [(1, codeGang 0 false)] } }

/-- The load meets a cause that does not bounce on the page of its first block, so both its blocks fail with it (R105) and it ends. What the
table then holds under number 2 is the sampled load, which fails in its place: the first byte of its record, the low byte of its address, stands
in the window. -/
theorem numberTwice_newReq :
    let t := numberTwice.newReq (twoBlockLoad none)
    leafCause .read 0 = some 0x0104 ∧ bounces 0x0104 = false ∧ (twoBlockLoad none).together 0 = [0, 1] ∧
      t.req? 2 = some (twoBlockLoad (some 0)) ∧ readByte t.mem.bytes 0x10000008000 = 0x34 :=
  ⟨rfl, rfl, rfl, by decide +kernel, by decide +kernel⟩

/-- Refutes O44, which does not ask that the table of requests is canonical: in `numberTwice` the request that issues is not sampled, fails
and ends, and the sampled one of its number, uncovered, fails in its place and writes its record to memory. -/
theorem not_requestsChangeNothingElse : ¬ Obligations.RequestsChangeNothingElse := by
  unfold Obligations.RequestsChangeNothingElse
  intro h
  obtain ⟨hbytes, -, -⟩ := h numberTwice (twoBlockLoad none) rfl
  obtain ⟨-, -, -, -, hafter⟩ := numberTwice_newReq
  have hbefore : readByte numberTwice.mem.bytes 0x10000008000 = 0 := rfl
  exact absurd (hafter.symm.trans ((hbytes 0x10000008000).trans hbefore)) (by decide)

end Sys2Proof.Machine
end


section
/-! SUPPORT. Memory in its canonical form (R198, R233, R55): every function of the model keeps it, and so every step does. A function that
leaves memory alone does so by computation; the few that write it write through `writeMasked`, `writeByte` or a filter. -/

namespace Sys2Proof.Machine

/-! ## Canonical memory through the combinators of the model -/

/-- The bytes of memory stand in canonical form. -/
def State.MemWf (s : State) : Prop := Memory.wf s.mem.bytes = true

/-- Where an outcome is a next state, its memory is canonical. -/
def EndsWf (o : Host.Outcome State Fault Refusal) : Prop := ∀ t, o = .next t → t.MemWf

section
variable {s t : State}

theorem State.MemWf.next (h : t.MemWf) : EndsWf (.next t) := fun _ e => Host.Outcome.next.inj e ▸ h

theorem EndsWf.refused (r : Refusal) : EndsWf (.refused r) := fun _ e => nomatch e

theorem EndsWf.ite {c : Prop} [Decidable c] {o o' : Host.Outcome State Fault Refusal} (h : EndsWf o) (h' : EndsWf o') :
    EndsWf (if c then o else o') := by
  split
  · exact h
  · exact h'

theorem State.MemWf.ite {c : Prop} [Decidable c] (hs : s.MemWf) (ht : t.MemWf) : (if c then s else t).MemWf := by
  split
  · exact hs
  · exact ht

theorem State.MemWf.ite_snd {α : Type} {c : Prop} [Decidable c] {p q : α × State} (hp : p.2.MemWf) (hq : q.2.MemWf) :
    (if c then p else q).2.MemWf := by
  split
  · exact hp
  · exact hq

/-- What a state's memory keeps is read off its memory alone. -/
theorem State.MemWf.of_mem (h : s.MemWf) (e : t.mem = s.mem) : t.MemWf := by
  unfold State.MemWf
  rw [e]
  exact h

theorem Map.wfFrom_filter {α : Type} (p : Nat × α → Bool) {lo : Nat} {m : Map α} (w : Map.wfFrom lo m = true) :
    Map.wfFrom lo (m.filter p) = true := by
  induction m generalizing lo with
  | nil => rfl
  | cons x m ih =>
    obtain ⟨i, b⟩ := x
    simp only [Map.wfFrom, Bool.and_eq_true, decide_eq_true_eq] at w
    rw [List.filter_cons]
    split
    · simpa only [Map.wfFrom, Bool.and_eq_true, decide_eq_true_eq] using ⟨w.1, ih w.2⟩
    · exact Map.wfFrom_mono (by omega) (ih w.2)

theorem Memory.wf_filter (p : Host.Cell → Bool) {m : List Host.Cell} (w : Memory.wf m = true) : Memory.wf (m.filter p) = true := by
  rw [Memory.wf, Memory.wfFrom_iff] at w ⊢
  exact ⟨Map.wfFrom_filter p w.1, fun x hx => w.2 x (List.mem_of_mem_filter hx)⟩

theorem State.MemWf.of_fst {α : Type} {p : State × α} {a : α} (e : p = (t, a)) (h : p.1.MemWf) : t.MemWf := by
  subst e; exact h

theorem State.MemWf.of_snd {α : Type} {p : α × State} {a : α} (e : p = (a, t)) (h : p.2.MemWf) : t.MemWf := by
  subst e; exact h

theorem State.MemWf.of_thd {α β : Type} {p : α × β × State} {a : α} {b : β} (e : p = (a, b, t)) (h : p.2.2.MemWf) : t.MemWf := by
  subst e; exact h

theorem State.MemWf.of_fth {α β γ : Type} {p : α × β × γ × State} {a : α} {b : β} {c : γ} (e : p = (a, b, c, t)) (h : p.2.2.2.MemWf) : t.MemWf := by
  subst e; exact h

theorem foldl_memWf {σ α : Type} (π : σ → State) {f : σ → α → σ} (hf : ∀ s x, (π s).MemWf → (π (f s x)).MemWf) (l : List α) {s : σ}
    (h : (π s).MemWf) : (π (l.foldl f s)).MemWf := by
  induction l generalizing s with
  | nil => exact h
  | cons x l ih => exact ih (hf s x h)

theorem State.MemWf.foldl {α : Type} {l : List α} {f : State → α → State} (h : s.MemWf) (hf : ∀ s x, s.MemWf → (f s x).MemWf) :
    (l.foldl f s).MemWf := foldl_memWf id hf l h

theorem State.MemWf.foldl_fst {α β : Type} {l : List α} {f : State × β → α → State × β} {p : State × β} (h : p.1.MemWf)
    (hf : ∀ r x, r.1.MemWf → (f r x).1.MemWf) : (l.foldl f p).1.MemWf := foldl_memWf Prod.fst hf l h

theorem State.MemWf.foldl_snd {α β : Type} {l : List α} {f : β × State → α → β × State} {p : β × State} (h : p.2.MemWf)
    (hf : ∀ r x, r.2.MemWf → (f r x).2.MemWf) : (l.foldl f p).2.MemWf := foldl_memWf Prod.snd hf l h

theorem State.MemWf.issue (h : ∀ x, (f x).MemWf) : EndsWf (s.issue f) := by
  unfold State.issue
  split
  · exact .refused _
  · exact (h _).next

end

/-! ## The named operations over the state -/

theorem State.MemWf.modGang {s : State} {k : ℕ} {f : Gang → Gang} (h : s.MemWf) : (s.modGang k f).MemWf := h

theorem State.MemWf.orRecord {s : State} {ctx n : ℕ} {lanes : Mask} (h : s.MemWf) : (s.orRecord ctx n lanes).MemWf := h

theorem State.MemWf.log {s : State} {e : ErrRec} (h : s.MemWf) : (s.log e).MemWf := h

theorem State.MemWf.logGang {s : State} {g : Gang} {cause access : ℕ} {addr : DWord} {lanes : Mask} {runpc : DWord}
    (h : s.MemWf) : (s.logGang g cause access addr lanes runpc).MemWf :=
  h

theorem State.MemWf.arith {s : State} {k : ℕ} {g : Gang} {run : ℕ} {hdr : DWord} {cause : ℕ} {lanes : Mask}
    (h : s.MemWf) : (s.arith k g run hdr cause lanes).MemWf := by
  refine .ite h ?_
  split
  · exact h.orRecord
  · exact h.logGang.modGang

theorem State.MemWf.setGang {s : State} {k : ℕ} {g : Gang} (h : s.MemWf) : (s.setGang k g).MemWf := h

theorem State.MemWf.sched {s : State} {due : ℕ} {ev : Instr} {a b c d : ℕ} (h : s.MemWf) : (s.sched due ev a b c d).MemWf := h

theorem State.MemWf.faultRival {s : State} {sc i : ℕ} (h : s.MemWf) : (s.faultRival sc i).MemWf := h

theorem State.MemWf.trap {s : State} {k : ℕ} {lanes : Mask} {pc : DWord} {cause : ℕ} (h : s.MemWf) : (s.trap k lanes pc cause).MemWf := by
  unfold State.trap
  split
  · exact h
  · refine .ite ?_ h.setGang
    extract_lets -underBinder s' s'2
    have h' : s'.MemWf := .ite h h.logGang
    have h'2 : s'2.MemWf := by
      unfold s'2
      split
      · exact h'
      · exact h'.faultRival
    exact h'2.modGang

theorem State.MemWf.trapAccess {s : State} {k : ℕ} {lanes : Mask} {pc : DWord} {cause access : ℕ} {addr : DWord} {met : Mask}
    (h : s.MemWf) : (s.trapAccess k lanes pc cause access addr met).MemWf := by
  unfold State.trapAccess
  split
  · exact h
  · exact h.logGang.trap

theorem State.MemWf.takeFresh {s : State} (h : s.MemWf) : s.takeFresh.2.MemWf := h

theorem State.MemWf.setReq {s : State} {k : ℕ} {r : Req} (h : s.MemWf) : (s.setReq k r).MemWf := h

theorem State.MemWf.drawFree {s : State} (h : s.MemWf) : s.drawFree.2.MemWf := h

theorem State.MemWf.modTeam {s : State} {k : ℕ} {f : Team → Team} (h : s.MemWf) : (s.modTeam k f).MemWf := h

theorem State.MemWf.modReq {s : State} {k : ℕ} {f : Req → Req} (h : s.MemWf) : (s.modReq k f).MemWf := h

theorem State.MemWf.modPart {s : State} {r b : ℕ} {f : Part → Part} (h : s.MemWf) : (s.modPart r b f).MemWf := h

theorem State.MemWf.setTeam {s : State} {k : ℕ} {t : Team} (h : s.MemWf) : (s.setTeam k t).MemWf := h

/-! ## What an instruction that issues sees -/

theorem State.MemWf.pass {s : State} {x : Iss} (h : s.MemWf) : (s.pass x).MemWf := h

theorem State.MemWf.ariths {s : State} {x : Iss} {errs : List (ℕ × Mask)} (h : s.MemWf) : (s.ariths x errs).MemWf := by
  refine h.foldl fun s1 x1 h1 => ?_
  split
  · exact h1
  · exact h1.arith

theorem State.MemWf.expand {s : State} {g : Gang} (h : s.MemWf) : (s.expand g).MemWf := h

theorem State.MemWf.expandFor {s : State} {g : Gang} {ws : List Write} (h : s.MemWf) : (s.expandFor g ws).MemWf :=
  .ite h.expand h

theorem State.MemWf.regs {s : State} {x : Iss} {lat : ℕ} {tag : Tag} {ws : List Write} {errs : List (ℕ × Mask)}
    (h : s.MemWf) : (s.regs x lat tag ws errs).MemWf := by
  unfold State.regs
  extract_lets -underBinder s'
  have h' : s'.MemWf := h.ariths
  split
  · exact h'
  · exact h'.setGang.expandFor

theorem State.MemWf.lane32 {s : State} {p : Pred} {lat : ℕ} {d : LDst} {tag : Iss → Tag} {f : Iss → ℕ → Word}
    (h : s.MemWf) : EndsWf (s.lane32 p lat d tag f) :=
  .issue fun _ => h.regs

theorem State.MemWf.expandAt {s : State} {x : Iss} {ws : List Write} (h : s.MemWf) : (s.expandAt x ws).MemWf := by
  unfold State.expandAt
  split
  · exact h
  · exact h.expandFor

theorem State.MemWf.landVar1 {s : State} {k run : ℕ} {lanes : Mask} {addr : DWord} {t : Tag} {w : Write}
    (h : s.MemWf) : (s.landVar1 k run lanes addr t w).MemWf := by
  unfold State.landVar1
  split
  · exact h
  · refine .ite h.setGang ?_
    beta_reduce
    split
    · exact h.setGang
    · exact h.drawFree.setGang

theorem State.MemWf.landVar {s : State} {k run : ℕ} {lanes : Mask} {addr : DWord} {t : Tag} {ws : List Write}
    (h : s.MemWf) : (s.landVar k run lanes addr t ws).MemWf :=
  h.foldl fun _ _ h1 => h1.landVar1

theorem State.MemWf.lane64 {s : State} {p : Pred} {lat : ℕ} {d : LDst} {tag : Iss → Tag} {f : Iss → ℕ → DWord}
    (h : s.MemWf) : EndsWf (s.lane64 p lat d tag f) :=
  .issue fun _ => h.regs

theorem State.MemWf.uni {s : State} {p : Pred} {f : Iss → State} (h : s.MemWf) (hf : ∀ x, (f x).MemWf) : EndsWf (s.uni p f) :=
  .issue (fun _ => .ite (hf _) h.pass)

theorem State.MemWf.gres {s : State} {p : Pred} {d : UDst} {f : Iss → DWord} (h : s.MemWf) : EndsWf (s.gres p d f) :=
  h.uni fun _ => h.regs

theorem State.MemWf.qres {s : State} {p : Pred} {d : Fin 8} {f : Iss → Bool} (h : s.MemWf) : EndsWf (s.qres p d f) :=
  h.uni fun _ => h.regs

/-! ## Conditions and predicates -/

theorem State.MemWf.laneP {s : State} {p : Pred} {lat : ℕ} {d : Fin 8} {f : Iss → ℕ → Bool} (h : s.MemWf) : EndsWf (s.laneP p lat d f) :=
  .issue fun _ => h.regs

/-! ## Pointers, page tables, translation buffers and walks -/

theorem State.MemWf.tlbTouch {s : State} {place : Place} {ctx page : ℕ} (h : s.MemWf) : (s.tlbTouch place ctx page).MemWf := h

theorem State.MemWf.tlbFill {s : State} {place : Place} {ctx page size gen : ℕ} {leaf : DWord}
    (h : s.MemWf) : (s.tlbFill place ctx page size gen leaf).MemWf :=
  h

theorem State.MemWf.lookup {s : State} {first : Place} {die ctx page : ℕ} (h : s.MemWf) : (s.lookup first die ctx page).2.MemWf := by
  unfold State.lookup
  split
  · exact h
  · split
    · exact h.tlbTouch
    · split
      · exact h.tlbTouch.tlbFill
      · exact h

theorem State.MemWf.wcTouch {s : State} {die ctx va : ℕ} (h : s.MemWf) : (s.wcTouch die ctx va).MemWf := by
  unfold State.wcTouch
  split
  · exact h
  · exact h

theorem State.MemWf.walkBegin {s : State} {w : ℕ} (h : s.MemWf) : (s.walkBegin w).MemWf := by
  unfold State.walkBegin
  split
  · exact h
  · extract_lets -underBinder _ _ _ s'
    have h' : s'.MemWf := h
    exact h'.wcTouch.sched

theorem State.MemWf.walkFor {s : State} {die ctx page : ℕ} {x : Waiter} (h : s.MemWf) : (s.walkFor die ctx page x).MemWf := by
  unfold State.walkFor
  split
  · exact h
  · exact .ite (.walkBegin h) h

theorem State.MemWf.sliceTouch {s : State} {loc ctx : ℕ} (h : s.MemWf) : (s.sliceTouch loc ctx).MemWf := h

theorem State.MemWf.sliceFill {s : State} {loc ctx : ℕ} {pinned : Bool} {filled : ℕ} (h : s.MemWf) : (s.sliceFill loc ctx pinned filled).MemWf :=
  .ite h.sliceTouch h

theorem State.MemWf.walkRecs {s : State} {ctx page : ℕ} {pas : List ℕ} (h : s.MemWf) : (s.walkRecs ctx page pas).MemWf :=
  .ite h h.log

theorem State.MemWf.wcFill {s : State} {die ctx va level : ℕ} {ent : DWord} (h : s.MemWf) : (s.wcFill die ctx va level ent).MemWf :=
  .ite h h

theorem State.MemWf.walkFill {s : State} {die ctx page gen : ℕ} {w : Found × List ℕ × List (ℕ × DWord)}
    (h : s.MemWf) : (s.walkFill die ctx page gen w).MemWf := by
  unfold State.walkFill
  extract_lets -underBinder s1 s2
  have h1 : s1.MemWf := h.walkRecs.foldl fun _ _ h1 => h1.sliceFill
  have h2 : s2.MemWf := h1.foldl fun _ _ h2 => h2.wcFill
  split
  · exact h2.tlbFill
  · exact h2

theorem State.MemWf.dieWalks {s : State} {die ctx : ℕ} {pages : List ℕ} (h : s.MemWf) : (s.dieWalks die ctx pages).2.MemWf := by
  unfold State.dieWalks
  refine h.foldl_snd fun r x h => ?_
  split
  next e => exact .of_snd e h.lookup
  · extract_lets -underBinder
    split
    next e _ _ _ _ _ => exact .walkFill (.wcTouch (.of_snd e h.lookup))
    next e _ _ _ => exact .walkRecs (.of_snd e h.lookup)

theorem State.MemWf.dropTlb {s : State} {ctx page n : ℕ} (h : s.MemWf) : (s.dropTlb ctx page n).MemWf := h

theorem State.MemWf.dropWc {s : State} {ctx page n : ℕ} (h : s.MemWf) : (s.dropWc ctx page n).MemWf := h

theorem State.MemWf.invalidate {s : State} {ctx page n : ℕ} (h : s.MemWf) : (s.invalidate ctx page n).MemWf := h

/-! ## Blocks as their homes keep them -/

theorem State.MemWf.dropL1 {s : State} {cl loc : ℕ} (h : s.MemWf) : (s.dropL1 cl loc).MemWf := h

theorem State.MemWf.setTag {s : State} {loc tag : ℕ} (h : s.MemWf) : (s.setTag loc tag).MemWf := h

theorem State.MemWf.bumpVersion {s : State} {ctx idx : ℕ} (h : s.MemWf) : (s.bumpVersion ctx idx).MemWf := h

theorem State.MemWf.watchBump {s : State} {loc : ℕ} (h : s.MemWf) : (s.watchBump loc).MemWf :=
  h.foldl fun _ _ h1 => h1.bumpVersion

theorem State.MemWf.newVersion {s : State} {loc : ℕ} (h : s.MemWf) : (s.newVersion loc).MemWf :=
  .watchBump h

theorem State.MemWf.writeAt {s : State} {a : ℕ} {data : List (Option Byte)} (h : s.MemWf) : (s.writeAt a data).MemWf :=
  State.MemWf.newVersion (writeMasked_wf _ h _)

theorem State.MemWf.vwrite {s : State} {ctx : ℕ} {ptr : DWord} {data : List Byte} (h : s.MemWf) : (s.vwrite ctx ptr data).1.MemWf := by
  unfold State.vwrite
  extract_lets -underBinder r
  have hr : r.1.MemWf := by
    unfold r
    refine h.foldl_fst fun r x h => ?_
    split
    · exact h
    · extract_lets -underBinder
      split
      · exact h
      · split
        · exact h.log
        · exact h.writeAt.setTag
  exact hr

theorem State.MemWf.eccFix {s : State} {loc pos val : ℕ} (h : s.MemWf) : (s.eccFix loc pos val).MemWf := h

theorem State.MemWf.setDesc {s : State} {loc : ℕ} {d : BitVec 16} (h : s.MemWf) : (s.setDesc loc d).MemWf :=
  .ite h h

theorem State.MemWf.eccPoison {s : State} {loc : ℕ} (h : s.MemWf) : (s.eccPoison loc).MemWf := by
  unfold State.eccPoison
  extract_lets -underBinder _ _ _ s1
  have h1 : s1.MemWf := writeBytes_wf _ h _
  exact h1.setDesc

theorem State.MemWf.eccRead {s : State} {loc ctx : ℕ} {tag : Option ℕ} (h : s.MemWf) : (s.eccRead loc ctx tag).2.MemWf := by
  unfold State.eccRead
  extract_lets -underBinder
  split
  · exact h.eccFix
  · exact h.eccPoison
  · exact h.eccPoison
  · exact h

theorem State.MemWf.readHome {s : State} {loc ctx : ℕ} {tag : Option ℕ} (h : s.MemWf) : (s.readHome loc ctx tag).2.2.2.MemWf := by
  unfold State.readHome
  extract_lets -underBinder
  split
  next e => exact .of_snd e h.eccRead
  next e => exact .of_snd e h.eccRead
  next e => exact .of_snd e h.eccRead

theorem State.MemWf.readRecs {s : State} {ctx : ℕ} {ptr : DWord} {n : ℕ} (h : s.MemWf) : (s.readRecs ctx ptr n).MemWf := by
  refine h.foldl fun s1 x h1 => ?_
  extract_lets -underBinder
  split
  · exact h1
  · refine .ite h1.log ?_
    beta_reduce
    split
    next e => exact .log (.of_fth e h1.readHome)
    next e => exact .of_fth e h1.readHome

theorem State.MemWf.cancelFills {s : State} {cl loc ver : ℕ} (h : s.MemWf) : (s.cancelFills cl loc ver).MemWf :=
  .ite h h

theorem State.MemWf.ownWrite {s : State} {mine : Option ℕ} {loc : ℕ} (h : s.MemWf) : (s.ownWrite mine loc).MemWf := by
  unfold State.ownWrite
  split
  · exact h
  · extract_lets -underBinder s1
    have h1 : s1.MemWf := h.dropL1.cancelFills
    exact h1

theorem State.MemWf.grantLease {s : State} {x : Lease} (h : s.MemWf) : (s.grantLease x).MemWf := h

theorem State.MemWf.tableWrite {s : State} {pa : ℕ} {e : DWord} (h : s.MemWf) : (s.tableWrite pa e).MemWf :=
  writeBytes_wf _ h _

theorem State.MemWf.lightServe {s : State} {ctx va : ℕ} {write : Bool} (h : s.MemWf) : (s.lightServe ctx va write).MemWf := by
  unfold State.lightServe
  split
  · exact h.tableWrite.dropTlb
  · exact h

theorem State.MemWf.fillL1 {s : State} {x : L1Line} (h : s.MemWf) : (s.fillL1 x).MemWf := by
  refine .ite h ?_
  split
  · exact .ite h (.sched h)
  · exact .sched h

/-! ## The ownership table of granules, and the areas that firmware takes from them -/

theorem State.MemWf.setOwner {s : State} {g : ℕ} {e : BitVec 16} (h : s.MemWf) : (s.setOwner g e).MemWf := h

theorem State.MemWf.areaTake {s t : State} {ctx die bytes : ℕ} {a : ℕ × ℕ} (h : s.MemWf) (e : s.areaTake ctx die bytes = some (a, t)) : t.MemWf := by
  obtain ⟨g, -, hg⟩ := Option.map_eq_some_iff.1 e
  cases hg
  exact h.foldl fun _ _ hu => hu.setOwner

theorem State.MemWf.areaFree {s : State} {a : ℕ × ℕ} (h : s.MemWf) : (s.areaFree a).MemWf :=
  h.foldl fun _ _ h1 => h1.setOwner

/-! ## Cisterns -/

theorem State.MemWf.park {s : State} {r b cause key qclass : ℕ} (h : s.MemWf) : (s.park r b cause key qclass).MemWf := h

theorem State.MemWf.kickReissue {s : State} {port : ℕ} (h : s.MemWf) : (s.kickReissue port).MemWf :=
  .ite h h.sched

theorem State.MemWf.wakeWhere {s : State} {f : ℕ → Req → Part → Bool} (h : s.MemWf) : (s.wakeWhere f).MemWf :=
  .foldl h fun _ _ h1 => h1.kickReissue

theorem State.MemWf.mapOps {s : State} {f : ℕ → ℕ → OpBounce → OpBounce} (h : s.MemWf) : (s.mapOps f).MemWf := h

theorem State.MemWf.wakeOps {s : State} {f : ℕ → ℕ → ℕ → ℕ × ℕ × ℕ → Bool} (h : s.MemWf) : (s.wakeOps f).MemWf :=
  .ite h (h.mapOps.foldl (fun _ _ h1 => h1.kickReissue))

theorem State.MemWf.walkOp {s : State} {id page : ℕ} {leaf : Bool} (h : s.MemWf) : (s.walkOp id page leaf).MemWf := by
  unfold State.walkOp
  split
  · exact h
  · extract_lets -underBinder _ s1
    have h1 : s1.MemWf := .ite h h
    split
    · exact .ite h1.mapOps h
    · exact h1.wakeOps
    · exact h

theorem State.MemWf.uncSluiced {s : State} {id : ℕ} (h : s.MemWf) : (s.uncSluiced id).MemWf := by
  unfold State.uncSluiced
  split
  · exact h
  · exact .ite h h

theorem State.MemWf.opSluiced {s : State} {id : ℕ} (h : s.MemWf) : (s.opSluiced id).MemWf := by
  unfold State.opSluiced
  split
  · exact h
  · extract_lets -underBinder
    split
    · exact .ite h h
    · exact .ite (.sched h) (.ite h h)
    · split
      · exact h
      · exact .ite (.sched h) h
    · exact h

theorem State.MemWf.bounceSluice {s : State} {r b ctx cls : ℕ} (h : s.MemWf) : (s.bounceSluice r b ctx cls).MemWf := h

theorem State.MemWf.opStall {s : State} {id : ℕ} {b : ℕ × ℕ × ℕ} (h : s.MemWf) : (s.opStall id b).MemWf := by
  unfold State.opStall
  split
  · exact h
  · extract_lets -underBinder _ _ _ s1 s2
    have h1 : s1.MemWf := h
    have h2 : s2.MemWf := .ite h1 h1.sched
    split
    · exact h2.walkFor
    · exact .ite h2.sched h2

/-! ## Record and replay sessions -/

theorem State.MemWf.modSess {s : State} {ctx : ℕ} {f : Sess → Sess} (h : s.MemWf) : (s.modSess ctx f).MemWf := h

theorem State.MemWf.sessPut {s : State} {ctx die : ℕ} {a : DWord} {data : List Byte} (h : s.MemWf) : (s.sessPut ctx die a data).MemWf := h

theorem State.MemWf.stopSession {s : State} {ctx serial : ℕ} (h : s.MemWf) : (s.stopSession ctx serial).MemWf :=
  h.foldl (fun _ _ h1 => h1.foldl (fun _ _ h2 => h2.modGang))

theorem State.MemWf.diverge {s : State} {ctx kind die : ℕ} {gang : Option (ℕ × Gang)} {pc : DWord} {want found sq : ℕ} {runpc : DWord}
    (h : s.MemWf) : (s.diverge ctx kind die gang pc want found sq runpc).MemWf := by
  unfold State.diverge
  split
  · exact h
  · refine .ite h ?_
    extract_lets -underBinder _ _ _ s2 _ _ s3 s4
    have h2 : s2.MemWf := h
    have h3 : s3.MemWf := h2
    have h4 : s4.MemWf := h3
    exact .ite h4.stopSession h4.wakeWhere

theorem State.MemWf.sessFull {s : State} {ctx die : ℕ} (h : s.MemWf) : (s.sessFull ctx die).MemWf := by
  unfold State.sessFull
  split
  · exact h
  · exact h.sessPut.modSess

theorem State.MemWf.checkpoint {s : State} {k : ℕ} {g : Gang} {pc : DWord} (h : s.MemWf) : (s.checkpoint k g pc).MemWf := by
  unfold State.checkpoint
  split
  · exact h
  · refine .ite h ?_
    split
    · exact h
    · extract_lets -underBinder _ s1 s2
      have h1 : s1.MemWf := h
      have h2 : s2.MemWf := h1
      refine .ite ?_ (.ite h1.sessFull h2.sessPut.sessPut)
      split
      · exact h1.diverge
      · exact .ite h1 h1.diverge

theorem State.MemWf.sessRecord {s : State} {ctx die : ℕ} {x : Sess} {id : ℕ} (h : s.MemWf) : (s.sessRecord ctx die x id).MemWf := by
  refine .ite h.modSess.sessPut (.ite h.sessFull ?_)
  extract_lets -underBinder s1
  have h1 : s1.MemWf := h
  exact h1.sessPut.sessPut

theorem State.MemWf.orderWake {s : State} {die : ℕ} {f : Req → Part → Bool} (h : s.MemWf) : (s.orderWake die f).MemWf := by
  refine h.foldl fun s1 x h1 => ?_
  split
  · exact h1
  · exact h1.sched

theorem State.MemWf.gateTake {s : State} {ctx die : ℕ} {x : Sess} {word : ℕ} (h : s.MemWf) : (s.gateTake ctx die x word).MemWf := by
  unfold State.gateTake
  extract_lets -underBinder _ s1 s2
  have h1 : s1.MemWf := h
  have h2 : s2.MemWf := h1
  refine .ite h1 ?_
  split
  · exact h2
  · exact h2.orderWake

theorem State.MemWf.gate {s : State} {k : ℕ} {g : Gang} {die : ℕ} {pc runpc : DWord} (h : s.MemWf) : (s.gate k g die pc runpc).2.MemWf := by
  unfold State.gate
  split
  · exact h
  next ctx _ x _ =>
    split
    · exact h
    · split
      · exact h
      · split
        · exact h
        next id _ =>
          have hr : (s.sessRecord ctx die x id).MemWf := h.sessRecord
          split
          · exact hr
          · split
            · have hd : (s.diverge ctx 3 die (some (k, g)) pc 0 id (x.word.getD die 0) runpc).MemWf := h.diverge
              exact hd
            next w _ =>
              have hg : (s.gateTake ctx die x w).MemWf := h.gateTake
              split
              · exact hg
              · exact h

theorem State.MemWf.sessTick {s : State} {ctx : ℕ} {x : Sess} (h : s.MemWf) : (s.sessTick ctx x).MemWf := by
  refine .ite h (h.modSess.foldl (fun s1 x1 h1 => ?_))
  split
  next e _ => exact .ite (.of_fst e h1.vwrite) (.sessFull (.of_fst e h1.vwrite))
  next e _ => exact .of_fst e h1.vwrite

theorem State.MemWf.sessExit {s : State} {k : ℕ} {g : Gang} {pc : DWord} (h : s.MemWf) : (s.sessExit k g pc).MemWf := by
  unfold State.sessExit
  extract_lets -underBinder s1
  have h1 : s1.MemWf := h.checkpoint
  split
  · exact h1
  · split
    · exact h1
    · refine .ite h1 ?_
      split
      · exact h1
      · exact h1.diverge

theorem State.MemWf.sessEnter {s : State} {k : ℕ} (h : s.MemWf) : (s.sessEnter k).MemWf := by
  unfold State.sessEnter
  split
  · exact h
  · split
    · exact h
    · refine .ite h (.ite ?_ (.ite h.sessFull ?_))
      · split
        · split
          · exact h.modSess
          · exact h.diverge
        · exact h.diverge
      · extract_lets -underBinder s1
        have h1 : s1.MemWf := h
        exact h1.sessPut.sessPut

/-! ## Lane instructions, integer part -/

theorem State.MemWf.laneI {s : State} {p : Pred} {ty : ITy} {sat : Bool} {d : LDst} {tag : Iss → Tag} {f : Iss → ℕ → ℤ}
    (h : s.MemWf) : EndsWf (s.laneI p ty sat d tag f) :=
  .ite h.lane64 h.lane32

theorem State.MemWf.laneB {s : State} {p : Pred} {ty : ITy} {d : LDst} {l : List LSrc} {f : Iss → ℕ → DWord}
    (h : s.MemWf) : EndsWf (s.laneB p ty d l f) :=
  .ite h.lane64 h.lane32

/-! ## Lane instructions, floating-point part -/

theorem State.MemWf.laneCmp {s : State} {p : Pred} {ty : FTy} {cc : FCC} {ftz : Bool} {pd : Fin 8} {a b : LSrc}
    (h : s.MemWf) : EndsWf (s.laneCmp p ty cc ftz pd a b) :=
  .issue fun _ => h.regs

theorem State.MemWf.laneF {s : State} {p : Pred} {ty : FTy} {lat : ℕ} {d : LDst} {srcs : List LSrc} {f : Fmt → List ℕ → FRes}
    (h : s.MemWf) : EndsWf (s.laneF p ty lat d srcs f) :=
  .issue fun _ => h.regs

theorem State.MemWf.sfuIssue {s : State} {p : Pred} {fn : SfuFn} {d : LDst} {a : LSrc} (h : s.MemWf) : EndsWf (s.sfuIssue p fn d a) := by
  refine .issue fun x1 => ?_
  extract_lets -underBinder _ _ _ _ _ _ s1 _ s2
  have h1 : s1.MemWf := h.expandAt
  have h2 : s2.MemWf := h1
  exact h2.sched.modGang.pass

theorem State.MemWf.sfuLand {s : State} {cl : ℕ} {o : SfuOp} {rest : List SfuOp} (h : s.MemWf) : (s.sfuLand cl o rest).MemWf := by
  unfold State.sfuLand
  extract_lets -underBinder _ s' _ _ _ _ s'2
  have h' : s'.MemWf := h
  have h'2 : s'2.MemWf := by
    refine h'.foldl fun s1 x h1 => ?_
    split
    · exact h1
    · exact h1.arith
  exact h'2.landVar.modGang

/-! ## The uniform set -/

theorem State.MemWf.openRun {s : State} {x : Iss} {n va k : ℕ} (h : s.MemWf) : (s.openRun x n va k).MemWf := by
  unfold State.openRun
  split
  · split
    next e _ _ => exact .of_snd e h.takeFresh
    next e _ _ _ => exact .setGang (.of_snd e h.takeFresh)

theorem State.MemWf.await {s : State} {x : Iss} {w : Wait} (h : s.MemWf) : (s.await x w).MemWf := h

theorem State.MemWf.jump {s : State} {x : Iss} {t : DWord} (h : s.MemWf) : (s.jump x t).MemWf := h

theorem State.MemWf.fwcall {s : State} {x : Iss} {svc : ℕ} {ev : Option Instr} {lat : ℕ} (h : s.MemWf) : (s.fwcall x svc ev lat).MemWf := by
  unfold State.fwcall
  extract_lets -underBinder s1
  have h1 : s1.MemWf := h
  split
  · exact h1.sched
  · exact h1

/-! ## Protected launches -/

theorem State.MemWf.closeGroup {s : State} {t : ℕ} {snapshot : Bool} (h : s.MemWf) : (s.closeGroup t snapshot).MemWf := by
  unfold State.closeGroup
  split
  · exact h
  · split
    · exact h
    · extract_lets -underBinder _ s1
      have h1 : s1.MemWf := h
      exact h1.sched

theorem State.MemWf.closeBy {s : State} {x : Iss} {sc : Option Scope} (h : s.MemWf) : (s.closeBy x sc).MemWf := by
  unfold State.closeBy
  split
  · exact h
  · refine .ite h.closeGroup ?_
    split
    · exact h.modGang
    · exact h

theorem State.MemWf.recFree {s : State} {key : ℕ} (h : s.MemWf) : (s.recFree key).MemWf :=
  .wakeOps h

theorem State.MemWf.recsFree {s : State} {f : ℕ → ℕ → Bool} (h : s.MemWf) : (s.recsFree f).MemWf :=
  h.foldl fun _ _ h1 => h1.recFree

theorem State.MemWf.discard {s : State} {gangs : List ℕ} {point : ℕ} (h : s.MemWf) : (s.discard gangs point).MemWf := by
  unfold State.discard
  extract_lets -underBinder _ s'
  have h' : s'.MemWf := h.recsFree
  exact h'

theorem State.MemWf.endTeam {s : State} {t : ℕ} (h : s.MemWf) : (s.endTeam t).MemWf := by
  unfold State.endTeam
  split
  · exact h
  · exact h.foldl fun _ _ h1 => h1.modGang

theorem State.MemWf.rollback {s : State} {t acc : ℕ} (h : s.MemWf) : (s.rollback t acc).MemWf := by
  unfold State.rollback
  split
  · exact h
  · split
    · exact h
    · refine .ite ?_ ?_
      · extract_lets -underBinder s1 s2
        have h1 : s1.MemWf := h
        have h2 : s2.MemWf := h1.discard
        exact h2.endTeam
      · extract_lets -underBinder _ s1 _ _ s2 s3 s4
        have h1 : s1.MemWf := h.discard
        have h2 : s2.MemWf := h1
        have h3 : s3.MemWf := h2.foldl fun _ _ h3 => h3.modGang
        have h4 : s4.MemWf := .ite h3.areaFree.modTeam h3
        exact h4

theorem State.MemWf.consume {s : State} {g : Gang} {acc : ℕ} (h : s.MemWf) : (s.consume g acc).MemWf := by
  unfold State.consume
  split
  · exact h
  · exact h.rollback

theorem State.MemWf.wantBlks {s : State} {t : ℕ} {blks : List ℕ} (h : s.MemWf) : (s.wantBlks t blks).MemWf := h

theorem State.MemWf.wantRows {s : State} {k : ℕ} {g : Gang} {rows : List ℕ} (h : s.MemWf) : (s.wantRows k g rows).MemWf := h

theorem State.MemWf.protTick {s : State} {t : ℕ} {tm : Team} (h : s.MemWf) : (s.protTick t tm).MemWf := by
  unfold State.protTick
  split
  · exact h
  · refine .ite h ?_
    extract_lets -underBinder _ s1
    have h1 : s1.MemWf := h.foldl fun _ _ h1 => h1.modGang
    exact h1.setTeam

theorem State.MemWf.firstSnap {s : State} {t : ℕ} (h : s.MemWf) : (s.firstSnap t).MemWf := by
  unfold State.firstSnap
  split
  · exact h
  · split
    · exact h
    · exact .ite h.setTeam h

/-! ## Retention of SRAM arrays -/

theorem State.MemWf.setArr {s : State} {arr : ℕ} {a : RetArr} (h : s.MemWf) : (s.setArr arr a).MemWf := h

theorem State.MemWf.arrUse {s : State} {arr : ℕ} (h : s.MemWf) : (s.arrUse arr).2.MemWf := by
  unfold State.arrUse
  extract_lets -underBinder
  split
  · extract_lets -underBinder s1
    have h1 : s1.MemWf := h
    exact .ite h1 h1.sched
  · exact h.setArr.sched
  · exact h.setArr.sched
  · exact h.setArr

/-! ## Memory requests -/

theorem State.MemWf.storeDrop {s : State} {cl r loc : ℕ} (h : s.MemWf) : (s.storeDrop cl r loc).MemWf := by
  unfold State.storeDrop
  extract_lets -underBinder s1
  have h1 : s1.MemWf := h
  exact .ite h1 h1

theorem State.MemWf.issueDrop {s : State} {r : ℕ} (h : s.MemWf) : (s.issueDrop r).MemWf := by
  unfold State.issueDrop
  split
  · exact h
  · split
    · exact h
    · refine .ite h (h.foldl (fun s1 x h1 => .ite h1 ?_))
      split
      · split
        · exact h1.storeDrop
        · exact h1
      · exact h1

theorem State.MemWf.landOp {s : State} {k id run : ℕ} {plan : Mask} {pc : DWord} {ws : List Write}
    (h : s.MemWf) : (s.landOp k id run plan pc ws).MemWf := by
  unfold State.landOp
  split
  · exact h
  · extract_lets -underBinder s1
    have h1 : s1.MemWf := h.landVar
    split
    · exact h1
    · exact h1.modTeam

theorem State.MemWf.ackWrite {s : State} {k id gwct : ℕ} {far : Bool} (h : s.MemWf) : (s.ackWrite k id gwct far).MemWf := h

theorem State.MemWf.opComplete {s : State} {k id cls : ℕ} (h : s.MemWf) : (s.opComplete k id cls).MemWf := h

theorem State.MemWf.finishReq {s : State} {r : ℕ} {q : Req} (h : s.MemWf) : (s.finishReq r q).MemWf := by
  unfold State.finishReq
  extract_lets -underBinder s1 _ _ s2 s3 _ s4
  have h1 : s1.MemWf := by
    unfold s1
    split
    · exact h.landOp
    · split
      · exact h.landOp
      · exact h
    · split
      · exact h.landOp
      · exact h
    · exact h
  have h2 : s2.MemWf := .ite h1.ackWrite h1
  have h3 : s3.MemWf := by
    unfold s3
    split
    · exact h2
    · exact h2.opComplete
  have h4 : s4.MemWf := h3
  exact .ite h4.sched h4

theorem State.MemWf.reqRecord {s : State} {q : Req} {p : Part} {cause : ℕ} {lanes : Mask} (h : s.MemWf) : (s.reqRecord q p cause lanes).MemWf := by
  unfold State.reqRecord
  split
  · exact h
  · exact h.logGang

theorem State.MemWf.deny {s : State} {r : ℕ} {q : Req} {p : Part} {cause : ℕ} {hit : Acc → Bool} (h : s.MemWf) : (s.deny r q p cause hit).MemWf := by
  refine h.foldl fun s1 x h1 => ?_
  split
  · exact h1
  · exact .ite h1 h1.reqRecord.modReq

theorem State.MemWf.reply {s : State} {conn code : ℕ} {data : List Byte} (h : s.MemWf) : (s.reply conn code data).MemWf := h

theorem State.MemWf.startPull {s : State} {ctx page : ℕ} (h : s.MemWf) : (s.startPull ctx page).MemWf :=
  .ite h (.sched h)

theorem State.MemWf.sampleFlush {s : State} {ctx n : ℕ} (h : s.MemWf) : (s.sampleFlush ctx n).MemWf := by
  induction n generalizing s with
  | zero => exact h
  | succ n ih =>
    unfold State.sampleFlush
    split
    · exact h
    · split
      · exact h
      · extract_lets at_ stop taken
        have taken_memWf {u : State} (hu : u.MemWf) : (taken u).MemWf := hu
        clear_value stop
        split
        · exact ih (taken_memWf h.vwrite.vwrite)
        · exact .ite (.ite h h.sched) (.ite h.startPull (ih (taken_memWf h.log)))

theorem State.MemWf.writeSample {s : State} {q : Req} {l : ℕ} {p : Part} (h : s.MemWf) : (s.writeSample q l p).MemWf := by
  unfold State.writeSample
  split
  · extract_lets -underBinder _ _ _ _ _ _ s1
    have h1 : s1.MemWf := h
    exact h1.sampleFlush
  · exact h

theorem State.MemWf.multicast {s : State} {r : ℕ} {q : Req} (h : s.MemWf) : (s.multicast r q).MemWf := by
  unfold State.multicast
  extract_lets -underBinder
  split
  · exact h
  · refine .ite h.setReq.finishReq ?_
    extract_lets -underBinder _ _ _ _ _ _ s1
    have h1 : s1.MemWf := by
      refine h.setReq.issueDrop.foldl fun s2 x h1 => ?_
      split
      · exact h1
      · exact h1.logGang.modReq
    exact .ite h1.finishReq h1

theorem State.MemWf.partDone {s : State} {r b : ℕ} (h : s.MemWf) : (s.partDone r b).MemWf := by
  unfold State.partDone
  split
  · exact h
  · extract_lets -underBinder _ s1
    have h1 : s1.MemWf := h
    split
    · exact h1
    · extract_lets -underBinder s2 s3
      have h2 : s2.MemWf := by
        unfold s2
        split
        · exact h1.landOp
        · exact h1.landOp
        · exact h1.landOp
        · exact h1
      have h3 : s3.MemWf := by
        unfold s3
        split
        · exact .ite h2.writeSample h2
        · exact h2
      exact .ite (.ite h3.multicast h3.finishReq) h3

theorem State.MemWf.failOne {s : State} {r b cause : ℕ} {rcd : Bool} (h : s.MemWf) : (s.failOne r b cause rcd).MemWf := by
  unfold State.failOne
  split
  · exact h
  · split
    · exact h
    · extract_lets -underBinder s1 s2 s3
      have h1 : s1.MemWf := by
        refine .ite h ?_
        split
        · exact h.deny
        · exact h.deny
        · exact .ite h.reqRecord h
      have h2 : s2.MemWf := h1
      have h3 : s3.MemWf := by
        unfold s3
        split
        · exact .ite h2 h2.faultRival
        · exact h2
      exact h3.partDone

theorem State.MemWf.failPart {s : State} {r b cause : ℕ} (h : s.MemWf) : (s.failPart r b cause).MemWf :=
  h.failOne

theorem State.MemWf.serveCause {s : State} {ctx va cause : ℕ} {write : Bool} (h : s.MemWf) : (s.serveCause ctx va cause write).MemWf :=
  .ite h.sched (.ite h.startPull h)

theorem State.MemWf.causePart {s : State} {r b cause : ℕ} (h : s.MemWf) : (s.causePart r b cause).MemWf := by
  unfold State.causePart
  split
  · exact h
  · split
    · exact h
    · refine .ite h.failPart (.ite ?_ ?_)
      · extract_lets -underBinder s1
        have h1 : s1.MemWf := .ite h.reqRecord h
        exact (h1.foldl (fun _ _ h2 => h2.park)).serveCause
      · extract_lets -underBinder s1
        have h1 : s1.MemWf := by
          unfold s1
          split
          · exact h
          · exact h
          · exact h.reqRecord
        exact h1.foldl fun _ _ h2 => h2.failOne

theorem State.MemWf.poisonRec {s : State} {r : ℕ} {q : Req} {lanes : Mask} (h : s.MemWf) : (s.poisonRec r q lanes).MemWf := by
  unfold State.poisonRec
  split
  · exact h
  · exact h.arith

theorem State.MemWf.sendLeaf {s : State} {r b : ℕ} {leaf : DWord} {size : ℕ} (h : s.MemWf) : (s.sendLeaf r b leaf size).MemWf := by
  unfold State.sendLeaf
  split
  · exact h
  · split
    · extract_lets -underBinder va
      split
      · exact h.causePart
      · split
        · extract_lets -underBinder loc hostAtom cached line
          clear_value hostAtom line
          refine .ite h.causePart (.ite h.failPart ?_)
          split
          · extract_lets -underBinder bad seen _ s1 badLanes s2 desc data s3 s4
            have h1 : s1.MemWf := h
            have h2 : s2.MemWf := by
              refine .ite h1 ?_
              split
              · exact h1.reqRecord.faultRival
              · exact h1.reqRecord
            have h3 : s3.MemWf := .ite h2.poisonRec h2
            exact h3.modPart.sched
          · extract_lets -underBinder hm cl s1 s2
            have h1 : s1.MemWf := by
              refine .ite ?_ h
              clear_value cl
              split
              · exact h.storeDrop
              · exact h
            exact h1.modPart.sched
        · exact h.causePart
    · exact h

theorem State.MemWf.sendPart {s : State} {r b : ℕ} (h : s.MemWf) : (s.sendPart r b).MemWf := by
  unfold State.sendPart
  split
  · exact h
  · split
    · refine .ite h ?_
      split
      next e => exact .sendLeaf (.of_snd e h.lookup)
      · extract_lets -underBinder _ s2
        have h2 : s2.MemWf := by
          rename_i e _
          exact .walkFor (.modPart (.of_snd e h.lookup))
        exact h2.sched
    · exact h

theorem State.MemWf.startPart {s : State} {r b : ℕ} {held : Option (ℕ × ℕ)} (h : s.MemWf) : (s.startPart r b held).MemWf := by
  unfold State.startPart
  split
  · exact h.sendPart
  · exact h.modPart

theorem State.MemWf.newReq {s : State} {q : Req} (h : s.MemWf) : (s.newReq q).MemWf := by
  refine .ite (.finishReq (.issueDrop (.setReq (.modGang h)))) ?_
  extract_lets -underBinder
  split
  · exact .ite (.foldl (.issueDrop (.setReq (.modGang h))) (fun _ _ h1 => h1.sendPart)) (.foldl (.issueDrop (.setReq (.modGang h))) (fun _ _ h1 => h1.park))
  · exact .foldl (.issueDrop (.setReq (.modGang h))) fun _ _ h1 => h1.startPart

theorem State.MemWf.engFault {s : State} {g : Gang} (h : s.MemWf) : (s.engFault g).MemWf := by
  unfold State.engFault
  split
  · exact h
  · exact h.faultRival

theorem State.MemWf.opSettle {s : State} {id : ℕ} (h : s.MemWf) : (s.opSettle id).MemWf := by
  unfold State.opSettle
  split
  · exact h
  · refine .ite h ?_
    extract_lets -underBinder s1
    have h1 : s1.MemWf := .ite h.opComplete h
    exact .ite h1 (.ackWrite h1)

theorem State.MemWf.opEnds {s : State} {k id cls : ℕ} (h : s.MemWf) : (s.opEnds k id cls).MemWf :=
  .opSettle h

theorem State.MemWf.boCount {s : State} {g : Gang} {bo : Option DWord} {n : ℕ} (h : s.MemWf) : (s.boCount g bo n).MemWf := by
  unfold State.boCount
  split
  · exact h.modTeam
  · exact h

theorem State.MemWf.eackAdd {s : State} {x : EAck} (h : s.MemWf) : (s.eackAdd x).MemWf := by
  unfold State.eackAdd
  extract_lets -underBinder _ s1
  have h1 : s1.MemWf := h
  exact .ite h1 (.ite h1.sched (.ite h1.sched h1.sched))

theorem State.MemWf.raiseGwct {s : State} {k id gwct : ℕ} {far : Bool} (h : s.MemWf) : (s.raiseGwct k id gwct far).MemWf := h

theorem State.MemWf.stopRival {s : State} {v : ℕ × ℕ} (h : s.MemWf) : (s.stopRival v).MemWf :=
  h.foldl (fun _ _ h1 => (h1.foldl (fun _ _ h2 => h2.modGang)).modTeam)

theorem State.MemWf.specWrite {s : State} {v : ℕ × ℕ} {blk : DWord} {full : Bool} {mem : List Byte} {new : WBlk}
    (h : s.MemWf) : (s.specWrite v blk full mem new).MemWf := by
  unfold State.specWrite
  split
  · exact h
  · refine .ite ?_ h
    extract_lets -underBinder _ s1
    have h1 : s1.MemWf := h
    exact h1.stopRival

theorem State.MemWf.engAccept {s : State} {g : Gang} {k id acc : ℕ} {ptr leaf : DWord} {h' : Home} {loc : ℕ} {data : List (Option Byte)}
    {desc : Option (BitVec 16)} {bo : Option DWord} (h : s.MemWf) : (s.engAccept g k id acc ptr leaf h' loc data desc bo).MemWf := by
  unfold State.engAccept
  extract_lets -underBinder _ _ s1 s2
  have h1 : s1.MemWf := h.ownWrite.writeAt
  have h2 : s2.MemWf := by
    unfold s2
    unfold State.sliceTouch
    extract_lets -underBinder
    split
    · exact h1.setDesc
    · exact h.ownWrite.writeAt
  exact h2.raiseGwct.eackAdd

theorem State.MemWf.engStore {s : State} {g : Gang} {k id acc : ℕ} {ptr leaf : DWord} {h' : Home} {loc : ℕ} {data : List (Option Byte)}
    {desc : Option (BitVec 16)} {bo : Option DWord} (h : s.MemWf) : (s.engStore g k id acc ptr leaf h' loc data desc bo).MemWf := by
  unfold State.engStore
  split
  · exact h.specWrite.raiseGwct.eackAdd
  · exact h.engAccept

theorem State.MemWf.eackTake {s : State} {f : EAck → Bool} (h : s.MemWf) : (s.eackTake f).MemWf := by
  unfold State.eackTake
  extract_lets -underBinder s1 _ s2
  have h1 : s1.MemWf := by
    refine h.foldl fun s3 x h1 => ?_
    split
    · exact h1.boCount
    · exact h1
  have h2 : s2.MemWf := h1
  exact h2.foldl fun _ _ h3 => h3.opSettle

theorem State.MemWf.failPeer {s : State} {ctx conn : ℕ} (h : s.MemWf) : (s.failPeer ctx conn).MemWf := by
  unfold State.failPeer
  extract_lets -underBinder s1 _ _ _ s2 s3
  have h1 : s1.MemWf := by
    refine h.foldl fun s4 x h1 => .ite h1 ?_
    dsimp only
    split
    · exact h1
    · refine .foldl ?_ fun _ _ h2 => h2.failOne
      split
      · exact h1
      · exact h1
      · exact h1
      · exact h1.reqRecord
      · exact h1
  have h2 : s2.MemWf := by
    refine h1.foldl fun s4 x h2 => ?_
    split
    · exact h2.logGang
    · exact h2
  have h3 : s3.MemWf := h2.foldl fun _ _ h3 => h3.modGang
  exact h3.eackTake

theorem State.MemWf.peerGone {s : State} {ctx peer : ℕ} (h : s.MemWf) : (s.peerGone ctx peer).MemWf := by
  unfold State.peerGone
  split
  · exact h
  · extract_lets -underBinder _ _ _ s1
    have h1 : s1.MemWf := h
    exact h1.failPeer

theorem State.MemWf.wakePages {s : State} {ctx page n cause : ℕ} (h : s.MemWf) : (s.wakePages ctx page n cause).MemWf := by
  unfold State.wakePages
  extract_lets -underBinder _ s1 s1'
  have h1 : s1.MemWf := h.wakeWhere
  have h1' : s1'.MemWf := h1.wakeOps
  exact h1'.foldl fun _ _ h2 => h2.sched

theorem State.MemWf.walkPart {s : State} {r b : ℕ} {f : Found} (h : s.MemWf) : (s.walkPart r b f).MemWf := by
  unfold State.walkPart
  split
  · exact h
  · split
    · extract_lets fill s0
      have fill_memWf {u : State} (hu : u.MemWf) : (fill u).MemWf := by
        unfold fill
        split
        · exact hu.tlbFill
        · exact hu
      have h0 : s0.MemWf := h.modPart
      split
      · split
        · exact (fill_memWf h0).sendLeaf
        · exact h0.causePart
      · split
        · exact (fill_memWf h).modPart.kickReissue
        · exact (fill_memWf h).causePart
      · exact h
    · exact h

theorem State.MemWf.walkFetch {s : State} {who ctx page : ℕ} {f : Found} (h : s.MemWf) : (s.walkFetch who ctx page f).MemWf := by
  unfold State.walkFetch
  extract_lets -underBinder _ s1
  have h1 : s1.MemWf := by
    unfold s1
    split
    · exact h.tlbFill
    · exact h
  split
  · exact h1
  · extract_lets -underBinder _ s2 s3
    have h2 : s2.MemWf := h1
    have h3 : s3.MemWf := by
      unfold s3
      split
      · split
        · exact h2.logGang
        · exact h2
      · exact h2
    exact .ite h3.serveCause h2

theorem State.MemWf.sluiced {s : State} {r b : ℕ} (h : s.MemWf) : (s.sluiced r b).MemWf := by
  unfold State.sluiced
  split
  · exact h
  · split
    · exact h
    · split
      · exact .ite (.ite h.failPart h.park) h
      · exact .ite (.ite h.failPart h.bounceSluice) h
      · exact h

theorem State.MemWf.queueWait {s : State} {r b cls ctx : ℕ} {free : Option ℕ} (h : s.MemWf) : (s.queueWait r b cls ctx free).MemWf := by
  unfold State.queueWait
  extract_lets -underBinder _ _ s1
  have h1 : s1.MemWf := .ite h h.modPart.sched
  split
  · exact .ite h1.sched h1
  · exact h1

theorem State.MemWf.performSpec {s : State} {r b : ℕ} {q : Req} {p : Part} {v : ℕ × ℕ} {ok : List (Acc × Bool)} {block : List Byte} {poison : Bool}
    {tag : Option ℕ} {back : ℕ} (h : s.MemWf) : (s.performSpec r b q p v ok block poison tag back).MemWf :=
  .ite (.ite (.sched (.modPart (.ite h.specWrite h))) (.sched (.modPart (.ite h.specWrite h)))) h.modPart.sched

theorem State.MemWf.perform {s : State} {r b : ℕ} {q : Req} {p : Part} {g : Gang} {hm : Home} (h : s.MemWf) : (s.perform r b q p g hm).MemWf := by
  unfold State.perform
  extract_lets -underBinder _ _ _ _ _ ackAt whole _ bad _ s1 s1' ok s2 s2' s3
  have h1 : s1.MemWf := by
    refine .ite h ?_
    split
    · exact h.deny
    · exact h.deny
    · exact h.reqRecord
  have h1' : s1'.MemWf := by
    unfold s1'
    split
    · exact .ite h1 h1.faultRival
    · exact h1
  clear_value s1' ackAt whole ok
  have h2 : s2.MemWf := by
    unfold s2
    split
    · extract_lets s4 s5
      have h4 : s4.MemWf := .ite h1'.ownWrite h1'
      have h5 : s5.MemWf := h4.foldl fun _ _ hu => .ite (State.MemWf.newVersion hu.setDesc) hu
      exact .ite h5 h5.setTag
    · exact .ite h1' h1'.ownWrite.writeAt.setTag
  refine .ite ?_ (.ite h2.sliceTouch.modPart.sched ?_)
  · split
    · exact h1'.performSpec
    · exact h1'
  split
  next found s4 e =>
    have h4 : s4.MemWf := .of_fth e h1'.readHome
    extract_lets -underBinder s5 eats s6 s7
    have h5 : s5.MemWf := by
      unfold s5
      split
      · exact h4
      · exact .ite h4 h4.reqRecord.consume
    clear_value s5 eats
    have h6 : s6.MemWf := .ite h5.poisonRec h5
    have h7 : s7.MemWf := by
      unfold s7
      split
      · exact h6.cancelFills
      · exact h6
    clear_value s7
    refine .ite h7 (.ite ?_ ?_)
    · split
      · exact h7.performSpec
      · exact h7
    have atomics_memWf {c d : Bool} {t1 t2 t3 : ℕ} {l : List (Option Byte)} {f : Part → Part} :
        (if c then ((if d then (((s7.ownWrite g.l1Of p.loc).writeAt (p.loc * 64) l).setTag p.loc t1).sliceTouch p.loc q.ctx
              else s7.ownWrite g.l1Of p.loc).modPart r b f).sched t2 .loadComplete r b
          else ((if d then (((s7.ownWrite g.l1Of p.loc).writeAt (p.loc * 64) l).setTag p.loc t1).sliceTouch p.loc q.ctx
              else s7.ownWrite g.l1Of p.loc).modPart r b f).sched t3 .storeAck r b).MemWf := by
      have h8 (c : Bool) : (if c then (((s7.ownWrite g.l1Of p.loc).writeAt (p.loc * 64) l).setTag p.loc t1).sliceTouch p.loc q.ctx
          else s7.ownWrite g.l1Of p.loc).MemWf := .ite h7.ownWrite.writeAt.setTag.sliceTouch h7.ownWrite
      exact .ite (h8 d).modPart.sched (h8 d).modPart.sched
    split
    · exact atomics_memWf
    · exact atomics_memWf
    · exact h7.sliceTouch.modPart.sched
    · extract_lets -underBinder _ _ slice s8 _ _ line s9 s10
      have h8 : s8.MemWf := .ite h7.sliceFill h7
      clear_value slice s8
      have h9 : s9.MemWf := by
        unfold s9
        clear_value line
        split
        · exact h8.grantLease
        · exact h8.grantLease
        · exact h8
      exact h9.modPart.sched

theorem State.MemWf.accept {s : State} {r b : ℕ} (h : s.MemWf) : (s.accept r b).MemWf := by
  unfold State.accept
  split
  · exact h
  · split
    · split
      · refine .ite h.queueWait ?_
        extract_lets -underBinder arr s' _ _ gate s2
        have harr : arr.2.MemWf := by
          unfold arr
          split
          · exact h.arrUse
          · exact h.arrUse
          · exact h
        have h' : s'.MemWf := harr
        have hgate : gate.2.MemWf := by
          unfold gate
          split
          · exact h'.gate
          · exact h'
        have h2 : s2.MemWf := hgate
        refine .ite h'.queueWait (.ite h'.queueWait (.ite (.ite h2 h2.sched) ?_))
        split
        · exact .ite h'.queueWait h'.park
        · split
          · exact h'.modPart.sched
          · exact hgate.modPart.perform
      · exact h
    · exact h

theorem State.MemWf.answer {s : State} {r b : ℕ} (h : s.MemWf) : (s.answer r b).MemWf := by
  unfold State.answer
  split
  · exact h
  · split
    · exact h
    · split
      · split
        · exact h.failPart
        · extract_lets -underBinder s1
          have h1 : s1.MemWf := by
            unfold s1
            split
            · exact .ite h h.fillL1
            · exact h
          exact h1.partDone
      · exact h

theorem State.MemWf.eackDue {s : State} {id : ℕ} (h : s.MemWf) : (s.eackDue id).MemWf :=
  h.eackTake

theorem State.MemWf.arriveHeld {s : State} {t num : ℕ} (h : s.MemWf) : (s.arriveHeld t num).MemWf := by
  unfold State.arriveHeld
  split
  · exact h
  · split
    · exact h
    · extract_lets -underBinder
      split
      · refine .ite ?_ (.opSettle (.boCount (.engFault (.logGang h))))
        extract_lets -underBinder s1 s2
        have h1 : s1.MemWf := .ite h.logGang h
        have h2 : s2.MemWf := .ite h1.serveCause h1
        exact h2.sched
      · split
        · exact .opSettle (.boCount (.engFault (.logGang h)))
        · exact .ite (.opSettle (.boCount (.engFault (.logGang h)))) (.engStore h)

theorem State.MemWf.sendHeld {s : State} {t : ℕ} {h' : HeldWrite} (h : s.MemWf) : (s.sendHeld t h').MemWf := by
  unfold State.sendHeld
  split
  · exact h
  · exact h.modTeam.sched

theorem State.MemWf.sendGroup {s : State} {t group : ℕ} (h : s.MemWf) : (s.sendGroup t group).MemWf := by
  unfold State.sendGroup
  extract_lets -underBinder
  split
  · exact h.foldl fun _ _ h1 => h1.sendHeld
  · extract_lets -underBinder _ _ _ s1
    have h1 : s1.MemWf := by
      refine h.foldl fun s2 x h1 => ?_
      split
      · exact h1.sendHeld
      · split
        · exact h1.sendPart
        · exact h1
    exact .ite h1 h1.sched

theorem State.MemWf.releaseRec {s : State} {x : ℕ × ℕ × List Byte} (h : s.MemWf) : (s.releaseRec x).MemWf := h

/-! ## Lane and uniform memory instructions -/

theorem State.MemWf.takeSample {s : State} {x : Iss} {lanes : Mask} (h : s.MemWf) : (s.takeSample x lanes).2.MemWf := by
  unfold State.takeSample
  split
  · extract_lets -underBinder _ _ s1
    have h1 : s1.MemWf := h
    exact h1
  · exact h

theorem State.MemWf.overRun {s : State} {x : Iss} (h : s.MemWf) : (s.overRun x).MemWf :=
  .ite h.modGang h

theorem State.MemWf.memReq {s : State} {x : Iss} {addr : ℕ → DWord} {len : ℕ} {q : Req} (h : s.MemWf) : (s.memReq x addr len q).MemWf := by
  refine .ite h.pass (.ite h.trapAccess ?_)
  extract_lets -underBinder _ s1 _ smp s2
  have h1 : s1.MemWf := .ite h h.logGang
  have hmp : smp.2.MemWf := by
    unfold smp
    split
    · exact h1.takeSample
    · exact h1
  have h2 : s2.MemWf := hmp.expandAt
  exact h2.newReq.overRun.pass

theorem State.MemWf.load {s : State} {p : Pred} {d : LDst} {sz : SZ} {acq : Option Scope} {nl1 : Bool} {base : Iss → DWord} {ws : Option ℕ} {addr : Iss → ℕ → DWord}
    (h : s.MemWf) : EndsWf (s.load p d sz acq nl1 base ws addr) :=
  .issue fun _ => h.memReq

theorem State.MemWf.ordering {s : State} {x : Iss} {rel : Option Scope} (h : s.MemWf) : (s.ordering x rel).MemWf := by
  unfold State.ordering
  split
  · exact h.closeBy
  · exact h

theorem State.MemWf.hash {s : State} {x : Iss} {lanes : Mask} {addr : ℕ → DWord} {data : List DWord}
    (h : s.MemWf) : (s.hash x lanes addr data).MemWf :=
  .ite h h.modGang

theorem State.MemWf.store {s : State} {p : Pred} {a : LSrc} {sz : USZ} {rel : Option Scope} {base : Iss → DWord} {ws : Option ℕ} {addr : Iss → ℕ → DWord}
    (h : s.MemWf) : EndsWf (s.store p a sz rel base ws addr) := by
  refine .issue fun x1 => ?_
  extract_lets -underBinder _ _ s1 _ s2
  have h1 : s1.MemWf := h.ordering
  have h2 : s2.MemWf := .ite h1.hash h
  exact h2.memReq

theorem State.MemWf.spReq {s : State} {x : Iss} {addr : ℕ → DWord} {len : ℕ} {q : Req} (h : s.MemWf) : (s.spReq x addr len q).MemWf := by
  refine .ite h.pass ?_
  extract_lets -underBinder _ s1
  have h1 : s1.MemWf := .ite h h.logGang
  exact .pass (.sched (.setReq (.modGang h1.expandAt)))

theorem State.MemWf.spLoad {s : State} {p : Pred} {d : LDst} {sz : SZ} {base : Iss → DWord} {ws : Option ℕ} {addr : Iss → ℕ → DWord}
    (h : s.MemWf) : EndsWf (s.spLoad p d sz base ws addr) :=
  .issue fun _ => h.spReq

theorem State.MemWf.spStore {s : State} {p : Pred} {a : LSrc} {sz : USZ} {rel : Option Scope} {base : Iss → DWord} {ws : Option ℕ} {addr : Iss → ℕ → DWord}
    (h : s.MemWf) : EndsWf (s.spStore p a sz rel base ws addr) := by
  refine .issue fun x1 => ?_
  extract_lets -underBinder _ s1
  have h1 : s1.MemWf := h.ordering
  exact h1.hash.spReq

theorem State.MemWf.atomic {s : State} {p : Pred} {op : AOp} {len : ℕ} {signed : Bool} {ord : AOrd} {d : Option LDst} {a : LSrc}
    {base : Iss → DWord} {ws : Option ℕ} {addr : Iss → ℕ → DWord} (h : s.MemWf) : EndsWf (s.atomic p op len signed ord d a base ws addr) := by
  refine .issue fun x1 => ?_
  extract_lets -underBinder _ _ _ _ _ _ s1
  have h1 : s1.MemWf := h.ordering
  exact .memReq (.ite h1 h)

theorem State.MemWf.rivalOp {s : State} {x : Iss} {access : ℕ} {addr : DWord} {lanes : Mask}
    (h : s.MemWf) : (s.rivalOp x access addr lanes).MemWf := by
  unfold State.rivalOp
  split
  · exact h
  · exact h.logGang.faultRival

theorem State.MemWf.cast {s : State} {p : Pred} {mc : Bool} {op : AOp} {sz : USZ} {rel : Option Scope} {a : LSrc} {m : LXMem} {gm : Fin 7}
    (h : s.MemWf) : EndsWf (s.cast p mc op sz rel a m gm) := by
  refine .issue (fun x1 => .ite h.landVar.pass (.ite h.rivalOp.pass (.ite h.trapAccess ?_)))
  extract_lets -underBinder _ s1 s2
  have h1 : s1.MemWf := h.ordering
  have h2 : s2.MemWf := by
    refine .ite ?_ h1
    split
    · exact h1.hash
    · exact h1
  exact .ite h2.landVar.pass h2.newReq.pass

/-! ## What performs in scratchpad -/

theorem State.MemWf.spWrite {s : State} {x : Iss} {kind : RKind} {a : DWord} {data : List DWord} (h : s.MemWf) : (s.spWrite x kind a data).MemWf :=
  h

theorem State.MemWf.wakeFlume {s : State} {team addr : ℕ} (h : s.MemWf) : (s.wakeFlume team addr).MemWf :=
  h.wakeOps

theorem State.MemWf.flinitPerform {s : State} {g : Gang} {t : Team} {a : DWord} {n b : ℕ} {runpc : DWord}
    (h : s.MemWf) : (s.flinitPerform g t a n b runpc).MemWf :=
  .ite h.logGang h.modTeam.wakeFlume

theorem State.MemWf.flrelPerform {s : State} {g : Gang} {t : Team} {a runpc : DWord} (h : s.MemWf) : (s.flrelPerform g t a runpc).MemWf := by
  unfold State.flrelPerform
  split
  · exact h.logGang
  · split
    · exact h
    · exact h.modTeam.wakeFlume

theorem State.MemWf.boarmPerform {s : State} {g : Gang} {t : Team} {a count runpc : DWord} (h : s.MemWf) : (s.boarmPerform g t a count runpc).MemWf :=
  .ite h.modTeam h.logGang

theorem State.MemWf.spPerform {s : State} {r : ℕ} {q : Req} {g : Gang} {t : Team} (h : s.MemWf) : (s.spPerform r q g t).MemWf := by
  unfold State.spPerform
  extract_lets -underBinder _ _ _ _ s1 _ s2 _ s3 _ s4 s5
  have h1 : s1.MemWf := .ite h h.logGang
  have h2 : s2.MemWf := .ite h1 h1.poisonRec
  have h3 : s3.MemWf := h2
  have h4 : s4.MemWf := h3.landOp
  have h5 : s5.MemWf := h4
  exact h5

theorem State.MemWf.padOne {s : State} {r : ℕ} (h : s.MemWf) : (s.padOne r).MemWf := by
  unfold State.padOne
  split
  · exact h
  · split
    · exact h
    · split
      · exact h
      · extract_lets -underBinder
        split
        · exact h.flinitPerform
        · exact h.flrelPerform
        · exact h.boarmPerform
        · exact h.spPerform

theorem State.MemWf.padRun {s : State} {a1 : List ℕ} (h : s.MemWf) : (s.padRun a1).MemWf := by
  induction a1 generalizing s with
  | nil =>
    exact h
  | cons y l ih =>
    unfold State.padRun
    split
    · exact ih h
    · exact .ite h.wantBlks.sched (ih h.padOne)

theorem State.MemWf.padWait {s : State} {cl t : ℕ} {blks : List ℕ} {write : Bool} (h : s.MemWf) : (s.padWait cl t blks write).2.MemWf := by
  unfold State.padWait
  extract_lets -underBinder u
  have hu : u.2.MemWf := h.arrUse
  split
  · exact hu
  · split
    · exact hu.wantBlks
    · exact hu

theorem State.MemWf.resume {s : State} {k : ℕ} {lanes : Mask} (h : s.MemWf) : (s.resume k lanes).MemWf := h

theorem State.MemWf.flacqServe {s : State} {tk : ℕ} {t : Team} (h : s.MemWf) : (s.flacqServe tk t).MemWf := by
  unfold State.flacqServe
  split
  · exact h
  · split
    · exact h
    · split
      · exact h
      · split
        · split
          · exact h.logGang.landVar.resume
          · split
            · exact h
            · extract_lets -underBinder s1
              have h1 : s1.MemWf := h
              exact h1.landVar.resume
        · exact h

theorem State.MemWf.bowaitTry {s : State} {k : ℕ} {g : Gang} {lanes : Mask} {a : DWord} (h : s.MemWf) : (s.bowaitTry k g lanes a).MemWf := by
  unfold State.bowaitTry
  split
  · exact h
  · exact .ite (.ite h.resume (.ite h.modTeam.resume h)) h.logGang.resume

/-! ## Issue -/

theorem State.MemWf.fetchForget {s : State} {g : Gang} {pc : DWord} (h : s.MemWf) : (s.fetchForget g pc).MemWf := h

theorem State.MemWf.awaitFetch {s : State} {k : ℕ} {g : Gang} {lanes : Mask} {addr runpc : DWord}
    (h : s.MemWf) : (s.awaitFetch k g lanes addr runpc).MemWf := by
  unfold State.awaitFetch
  extract_lets -underBinder _ _ s1
  have h1 : s1.MemWf := h
  split
  · exact .serveCause h1
  · exact .walkFor h1

theorem State.MemWf.wantTick {s : State} (h : s.MemWf) : s.wantTick.MemWf := by
  refine h.foldl (fun s1 x h1 => .ite h1 (h1.foldl (fun s2 x1 h2 => ?_)))
  split
  · split
    · split
      · exact h2
      · exact h2.wantRows
    · exact h2
  · exact h2

theorem State.MemWf.censusTurn {s : State} {k : ℕ} {ls : List Mask} (h : s.MemWf) : (s.censusTurn k ls).MemWf := by
  unfold State.censusTurn
  split
  · exact h
  · split
    · exact h
    · exact .ite h h

theorem State.MemWf.giveTurns {s : State} (h : s.MemWf) : s.giveTurns.MemWf := by
  refine h.foldl fun s1 x h1 => .ite h1 ?_
  dsimp only
  split
  · exact h1
  · refine .ite ?_ h1
    split
    · exact h1
    · exact h1.censusTurn

theorem State.MemWf.fetchAll {s : State} (h : s.MemWf) : s.fetchAll.MemWf := by
  refine h.foldl (fun s1 x h1 => .ite (h1.foldl (fun s2 x1 h2 => .ite ?_ h2)) h1)
  split
  · exact h2.awaitFetch
  · exact h2

/-! ## Runs -/

theorem State.MemWf.runbClose {s : State} {x : Iss} {n : ℕ} (h : s.MemWf) : (s.runbClose x n).MemWf :=
  .ite h.closeBy.modGang h

theorem State.MemWf.joinWindow {s : State} {k : ℕ} {g : Gang} {addr : DWord} {lg : BitVec 8} {lq : BitVec 7}
    (h : s.MemWf) : (s.joinWindow k g addr lg lq).MemWf := by
  unfold State.joinWindow
  extract_lets -underBinder
  split
  · exact h
  · extract_lets -underBinder s1
    have h1 : s1.MemWf := h
    exact h1.sched

theorem State.MemWf.runeLeave {s : State} {x : Iss} {r : Run} {va k : ℕ} (h : s.MemWf) : (s.runeLeave x r va k).MemWf := by
  unfold State.runeLeave
  split
  · exact h
  · refine .ite h.setGang ?_
    split
    · exact h.setGang
    · exact .ite h.setGang.joinWindow h.setGang

/-! ## Tensor descriptor records, the tile address walker, and the blocks that a cluster's engines read and write -/

theorem State.MemWf.engPage {s : State} {g : Gang} {id acc : ℕ} {ptr : DWord} (h : s.MemWf) : (s.engPage g id acc ptr).2.MemWf := by
  unfold State.engPage
  extract_lets -underBinder
  split
  next e => exact .of_snd e h.lookup
  next e => exact .of_snd e h.lookup

theorem State.MemWf.engBounce {s : State} {g : Gang} {acc cause : ℕ} {ptr runpc : DWord} {write : Bool}
    (h : s.MemWf) : (s.engBounce g acc cause ptr runpc write).MemWf :=
  .serveCause (.ite h.logGang h)

theorem State.MemWf.engQueue {s : State} {g : Gang} {h' : Home} {loc : ℕ} (h : s.MemWf) : (s.engQueue g h' loc).2.MemWf := by
  unfold State.engQueue
  extract_lets -underBinder _ _ arr
  have harr : arr.2.MemWf := by
    unfold arr
    split
    · exact h.arrUse
    · exact h.arrUse
    · exact h
  split
  · exact h
  · split
    · exact h
    · split
      · exact harr
      · exact harr

theorem State.MemWf.engWrite {s : State} {k id acc : ℕ} {ptr runpc : DWord} {data : List (Option Byte)} {desc : Option (BitVec 16)}
    {bo : Option DWord} (h : s.MemWf) : (s.engWrite k id acc ptr runpc data desc bo).2.MemWf := by
  unfold State.engWrite
  split
  · exact h
  · extract_lets -underBinder ctx
    split
    · exact h.takeFresh.modTeam
    · split
      next e => exact .of_snd e h.engPage
      next e =>
        have h1 := State.MemWf.of_snd e h.engPage
        extract_lets failed
        have failed_memWf {u : State} {c : ℕ} (hu : u.MemWf) : (failed u c).2.MemWf := hu.logGang.engFault.boCount
        clear_value failed
        split
        · split
          · exact h1.engBounce
          · exact failed_memWf h1
        · split
          · exact failed_memWf h1
          · extract_lets loc
            split
            next e => exact .of_snd e h1.engQueue
            next e =>
              have h2 := State.MemWf.of_snd e h1.engQueue
              split
              · exact failed_memWf h2
              · exact h2.engStore

theorem State.MemWf.engRead {s : State} {k id acc : ℕ} {ptr runpc : DWord} (h : s.MemWf) : (s.engRead k id acc ptr runpc).2.MemWf := by
  unfold State.engRead
  split
  · exact h
  · split
    next e => exact .of_snd e h.engPage
    next e =>
      have h1 := State.MemWf.of_snd e h.engPage
      extract_lets ctx failed
      have failed_memWf {u : State} {c : ℕ} (hu : u.MemWf) : (failed u c).2.MemWf := hu.logGang.engFault
      clear_value failed
      split
      · split
        · exact h1.engBounce
        · exact failed_memWf h1
      · split
        · exact failed_memWf h1
        · extract_lets loc
          split
          next e => exact .of_snd e h1.engQueue
          next e =>
            have h2 := State.MemWf.of_snd e h1.engQueue
            split
            · exact failed_memWf h2
            · split
              next found s3 e =>
                have h3 : s3.MemWf := .of_fth e h2.readHome
                extract_lets s4 s5
                have h4 : s4.MemWf := by
                  unfold s4
                  split
                  · exact h3
                  · exact h3.logGang.consume
                have h5 : s5.MemWf := .ite h4.sliceFill h4
                split
                · exact h4
                · exact h5

theorem State.MemWf.engBlocks {s : State} {k id acc : ℕ} {runpc : DWord} {a5 : ℕ} {a6 : DWord}
    (h : s.MemWf) : (s.engBlocks k id acc runpc a5 a6).2.MemWf := by
  induction a5 generalizing s k id acc runpc a6 with
  | zero =>
    exact h
  | succ n ih =>
    unfold State.engBlocks
    split
    next e => exact .of_snd e h.engRead
    · split
      next e1 _ _ _ e => exact .of_snd e (ih (.of_snd e1 h.engRead))
      next e1 _ _ _ e => exact .of_snd e (ih (.of_snd e1 h.engRead))

theorem State.MemWf.engRecord {s : State} {k id : ℕ} {ptr runpc : DWord} (h : s.MemWf) : (s.engRecord k id ptr runpc).2.MemWf := by
  unfold State.engRecord
  split
  · exact h
  · split
    next e => exact .of_snd e h.engBlocks
    · split
      next e _ => exact .of_snd e h.engBlocks
      · split
        next e _ _ _ => exact .of_snd e h.engBlocks
        · split
          next e _ _ _ _ _ => exact .of_snd e h.engBlocks
          · split
            next e _ _ _ _ _ _ _ => exact .of_snd e h.engBlocks
            next e _ _ _ _ _ _ _ _ => exact .logGang (.of_snd e h.engBlocks)

/-! ## The matrix engine -/

theorem State.MemWf.setEngine {s : State} {cl : ℕ} {e : Engine} (h : s.MemWf) : (s.setEngine cl e).MemWf := h

theorem State.MemWf.engineFree {s : State} {cl : ℕ} (h : s.MemWf) : (s.engineFree cl).MemWf := by
  unfold State.engineFree
  extract_lets -underBinder _ _ s1
  have h1 : s1.MemWf := h
  split
  · exact h1
  · split
    · exact h1
    · exact h1.areaFree.modTeam

theorem State.MemWf.engineRelease {s : State} {cl : ℕ} (h : s.MemWf) : (s.engineRelease cl).MemWf :=
  .ite h.engineFree h

theorem State.MemWf.mrel {s : State} {cl t : ℕ} (h : s.MemWf) : (s.mrel cl t).MemWf :=
  .ite h.setEngine.engineRelease h

theorem State.MemWf.tileIssue {s : State} {p : Pred} {kind : ℕ} {a : USrc} (h : s.MemWf) : EndsWf (s.tileIssue p kind a) := by
  refine h.uni fun x1 => .ite ?_ ?_
  · extract_lets -underBinder _ s2
    have h2 : s2.MemWf := h
    exact h2.modGang.pass
  · extract_lets -underBinder _ s2
    have h2 : s2.MemWf := h
    exact .ite h2.setEngine.sched.pass h2.sched.pass

theorem State.MemWf.modOp {s : State} {cl id : ℕ} {f : TileOp → TileOp} (h : s.MemWf) : (s.modOp cl id f).MemWf := h

theorem State.MemWf.opRecord {s : State} {op : TileOp} {off : ℕ} (h : s.MemWf) : (s.opRecord op off).2.MemWf :=
  h.engRecord

theorem State.MemWf.mmaqRecs {s : State} {op : TileOp} (h : s.MemWf) : (s.mmaqRecs op).2.MemWf := by
  unfold State.mmaqRecs
  extract_lets -underBinder a b
  have ha : a.2.MemWf := by
    unfold a
    split
    · exact h
    · exact h.opRecord
  have hb : b.2.MemWf := ha.opRecord
  split
  · exact ha
  · exact hb
  · exact hb

theorem State.MemWf.opdN8 {s : State} {op : TileOp} {x : Opd} {kblk kper : ℕ} (h : s.MemWf) : (s.opdN8 op x kblk kper).2.MemWf := by
  unfold State.opdN8
  split
  · exact h
  · split
    next e => exact .of_snd e h.engRead
    next e => exact .of_snd e h.engRead

theorem State.MemWf.outlierRange {s : State} {op : TileOp} {off : ℕ} (h : s.MemWf) : (s.outlierRange op off).MemWf := by
  unfold State.outlierRange
  split
  · exact h
  · split
    · exact h
    · exact .ite h.logGang h

theorem State.MemWf.opdRow {s : State} {op : TileOp} {x : Opd} {accf : ℕ} {n8 : Bool} {step kper i : ℕ}
    (h : s.MemWf) : (s.opdRow op x accf n8 step kper i).2.MemWf := by
  unfold State.opdRow
  extract_lets -underBinder
  split
  · exact h
  · split
    next e => exact .of_snd e h.engRead
    next e => exact .of_snd e h.engRead

theorem State.MemWf.opdRows {s : State} {op : TileOp} {x : Opd} {accf : ℕ} {n8 : Bool} {step kper a7 a8 : ℕ}
    (h : s.MemWf) : (s.opdRows op x accf n8 step kper a7 a8).2.MemWf := by
  induction a7 generalizing s op x accf n8 step kper a8 with
  | zero =>
    exact h
  | succ n ih =>
    unfold State.opdRows
    split
    next e => exact .of_snd e h.opdRow
    · split
      next e1 _ _ _ e => exact .of_snd e (ih (.of_snd e1 h.opdRow))
      next e1 _ _ _ e => exact .of_snd e (ih (.of_snd e1 h.opdRow))

theorem State.MemWf.tileErrs {s : State} {op : TileOp} {es : List (ℕ × Bool)} (h : s.MemWf) : (s.tileErrs op es).MemWf := by
  refine h.foldl fun s1 x h1 => .ite ?_ h1
  split
  · exact h1
  · exact h1.arith

theorem State.MemWf.mmaqRows {s : State} {cl : ℕ} {op : TileOp} {ra : Option TRec} {rb : TRec} {kper : ℕ} {n8 : Bool × Bool}
    (h : s.MemWf) : (s.mmaqRows cl op ra rb kper n8).2.MemWf := by
  unfold State.mmaqRows
  extract_lets -underBinder
  split
  next e => exact .of_snd e h.opdRows
  · extract_lets -underBinder s2
    have h2 : s2.MemWf := by
      rename_i e
      exact .tileErrs (.of_snd e h.opdRows)
    split
    · exact h2.tileErrs
    · split
      next e => exact .of_snd e h2.opdRows
      next e => exact .tileErrs (.of_snd e h2.opdRows)

theorem State.MemWf.mmaqSteps {s : State} {cl : ℕ} {ra : Option TRec} {rb : TRec} {kper : ℕ} {n8 : Bool × Bool} {a6 : ℕ} {a7 : TileOp}
    (h : s.MemWf) : (s.mmaqSteps cl ra rb kper n8 a6 a7).2.2.MemWf := by
  induction a6 generalizing s cl ra rb kper n8 a7 with
  | zero =>
    exact h
  | succ n ih =>
    unfold State.mmaqSteps
    dsimp only
    split
    · exact h.outlierRange
    · split
      next e => exact .of_snd e h.mmaqRows
      next e => exact ih (.tileErrs (.setEngine (.of_snd e h.mmaqRows)))

theorem State.MemWf.mmaqRun {s : State} {cl : ℕ} {op : TileOp} {n : ℕ} (h : s.MemWf) : (s.mmaqRun cl op n).2.2.MemWf := by
  unfold State.mmaqRun
  split
  next e => exact .of_snd e h.mmaqRecs
  next e =>
    have h1 := State.MemWf.of_snd e h.mmaqRecs
    extract_lets -underBinder bs w
    split
    · exact h1
    · extract_lets -underBinder kblk int na nb
      clear_value int
      have ha : na.2.MemWf := by
        unfold na
        split
        · exact h1.opdN8
        · exact h1
      have hb : nb.2.MemWf := .ite_snd ha.opdN8 ha
      clear_value na nb
      split
      · exact ha
      · exact hb
      · exact .mmaqSteps (.ite hb.setEngine hb)
  next e => exact .of_snd e h.mmaqRecs

theorem State.MemWf.tileBounce {s : State} {cl : ℕ} {op : TileOp} {b : ℕ × ℕ × ℕ} (h : s.MemWf) : (s.tileBounce cl op b).MemWf := by
  refine .ite h ?_
  extract_lets -underBinder s1
  have h1 : s1.MemWf := h
  exact .ite h1.opStall h1.modOp

theorem State.MemWf.tileEnd {s : State} {cl : ℕ} {op : TileOp} {status : ℕ} (h : s.MemWf) : (s.tileEnd cl op status).MemWf :=
  h.setEngine.sched.engineRelease

theorem State.MemWf.drainRow {s : State} {cl : ℕ} {op : TileOp} {d : TRec} {i a5 a6 : ℕ} (h : s.MemWf) : (s.drainRow cl op d i a5 a6).2.MemWf := by
  induction a5 generalizing s cl op d i a6 with
  | zero =>
    exact h
  | succ n ih =>
    unfold State.drainRow
    extract_lets -underBinder
    split
    · exact ih h
    · split
      next e => exact .of_snd e h.engWrite
      next e => exact ih (.tileErrs (.of_snd e h.engWrite))

theorem State.MemWf.drainRows {s : State} {cl : ℕ} {d : TRec} {a3 : ℕ} {a4 : TileOp} (h : s.MemWf) : (s.drainRows cl d a3 a4).2.2.MemWf := by
  induction a3 generalizing s cl d a4 with
  | zero =>
    exact h
  | succ n ih =>
    unfold State.drainRows
    split
    · exact h
    · split
      next e => exact ih (.setEngine (.of_snd e h.drainRow))
      next e => exact .of_snd e h.drainRow

theorem State.MemWf.tileStatus {s : State} {cl id off status : ℕ} (h : s.MemWf) : (s.tileStatus cl id off status).MemWf := by
  unfold State.tileStatus
  split
  · exact h
  · split
    next e => exact .sched (.of_snd e h.padWait)
    next e => exact .opEnds (.modTeam (.of_snd e h.padWait))

/-! ## Reservoirs -/

theorem State.MemWf.answered {s : State} {x : Iss} {t : ℕ} (h : s.MemWf) : (s.answered x t).MemWf := h

theorem State.MemWf.answerQ {s : State} {x : Iss} {unit : ℕ} {qd : Fin 8} {v : Bool} (h : s.MemWf) : (s.answerQ x unit qd v).MemWf := by
  unfold State.answerQ
  extract_lets -underBinder
  split
  · exact h
  · exact h.setGang.answered

theorem State.MemWf.uncPut {s : State} {id : ℕ} {u : Unc} (h : s.MemWf) : (s.uncPut id u).MemWf := by
  unfold State.uncPut
  extract_lets -underBinder u'
  have hu' : u'.MemWf := h
  exact hu'

theorem State.MemWf.watchRemove {s : State} {ctx idx : ℕ} (h : s.MemWf) : (s.watchRemove ctx idx).MemWf := h

theorem State.MemWf.recClear {s : State} {ctx idx : ℕ} (h : s.MemWf) : (s.recClear ctx idx).MemWf := h

theorem State.MemWf.rsvinv {s : State} {p : Pred} {a : USrc} {clear : Bool} (h : s.MemWf) : EndsWf (s.rsvinv p a clear) := by
  refine h.uni fun x1 => .ite h.answered ?_
  extract_lets -underBinder s1
  have h1 : s1.MemWf := h
  exact .ite h1.answered (.ite h1.recClear.answered h1.await.modGang)

theorem State.MemWf.workEnter {s : State} {id k queue : ℕ} {e : OpEnt} (h : s.MemWf) : (s.workEnter id k queue e).MemWf := by
  unfold State.workEnter
  unfold State.sched
  unfold State.uncPut
  extract_lets -underBinder _ u
  have hu : u.MemWf := h
  exact hu

theorem State.MemWf.workGate {s : State} {x : Iss} {kind die : ℕ} {f : State → State}
    (h : s.MemWf) (hf : ∀ u, u.MemWf → (f u).MemWf) : (s.workGate x kind die f).MemWf := by
  refine .ite ?_ (hf _ h)
  split
  · exact h.await
  · exact .await (.workEnter h)

theorem State.MemWf.uncDone {s : State} {k id : ℕ} (h : s.MemWf) : (s.uncDone k id).MemWf := h

theorem State.MemWf.uncStay {s : State} {id cause : ℕ} (h : s.MemWf) : (s.uncStay id cause).MemWf := h

theorem State.MemWf.engineRestore {s : State} {cl t : ℕ} (h : s.MemWf) : (s.engineRestore cl t).MemWf := by
  unfold State.engineRestore
  split
  · exact h
  · exact .ite h (.ite h.modTeam h.setEngine.modTeam)

theorem State.MemWf.wScale {s : State} {op : TileOp} {w : TRec} (h : s.MemWf) : (s.wScale op w).2.MemWf := by
  unfold State.wScale
  split
  next e => exact .of_snd e h.engRead
  next e => exact .of_snd e h.engRead

theorem State.MemWf.wBlocks {s : State} {op : TileOp} {w : TRec} {se n a5 a6 : ℕ} (h : s.MemWf) : (s.wBlocks op w se n a5 a6).2.MemWf := by
  induction a5 generalizing s op w se n a6 with
  | zero =>
    exact h
  | succ n ih =>
    unfold State.wBlocks
    extract_lets -underBinder
    split
    next e => exact .of_snd e h.engRead
    · extract_lets -underBinder _ s2
      have h2 : s2.MemWf := by
        rename_i e _
        exact .tileErrs (.of_snd e h.engRead)
      split
      next e => exact .of_snd e (ih h2)
      next e => exact .of_snd e (ih h2)

theorem State.MemWf.wRows {s : State} {op : TileOp} {w : TRec} {se a4 a5 : ℕ} (h : s.MemWf) : (s.wRows op w se a4 a5).2.MemWf := by
  induction a4 generalizing s op w se a5 with
  | zero =>
    exact h
  | succ n ih =>
    unfold State.wRows
    extract_lets -underBinder
    split
    next e => exact .of_snd e h.wBlocks
    · split
      next e1 _ _ _ e => exact .of_snd e (ih (.of_snd e1 h.wBlocks))
      next e1 _ _ _ e => exact .of_snd e (ih (.of_snd e1 h.wBlocks))

theorem State.MemWf.f32Blocks {s : State} {op : TileOp} {a2 : ℕ} {a3 : DWord} (h : s.MemWf) : (s.f32Blocks op a2 a3).2.MemWf := by
  induction a2 generalizing s op a3 with
  | zero =>
    exact h
  | succ n ih =>
    unfold State.f32Blocks
    split
    next e => exact .of_snd e h.engRead
    · extract_lets -underBinder _ _ s2
      have h2 : s2.MemWf := by
        rename_i e _ _
        exact .tileErrs (.of_snd e h.engRead)
      split
      next e => exact .of_snd e (ih h2)
      next e => exact .of_snd e (ih h2)

theorem State.MemWf.mdeltaRead {s : State} {op : TileOp} {w : TRec} {delta : Bool} (h : s.MemWf) : (s.mdeltaRead op w delta).2.MemWf := by
  unfold State.mdeltaRead
  extract_lets bs n c k
  split
  next e => exact .of_snd e h.wScale
  next e =>
    have h1 := State.MemWf.of_snd e h.wScale
    split
    next e => exact .of_snd e h1.wRows
    next e =>
      have h2 := State.MemWf.of_snd e h1.wRows
      split
      next e => exact .of_snd e h2.f32Blocks
      next e =>
        have h3 := State.MemWf.of_snd e h2.f32Blocks
        split
        · exact h3
        · split
          next e => exact .of_snd e h3.f32Blocks
          next e =>
            have h4 := State.MemWf.of_snd e h3.f32Blocks
            split
            next e => exact .of_snd e h4.f32Blocks
            next e => exact .of_snd e h4.f32Blocks

theorem State.MemWf.probe {s : State} {op : TileOp} {n : ℕ} {ptr : DWord} {l : List (Option ℕ)} (h : s.MemWf) : (s.probe op n ptr l).2.MemWf := by
  induction n generalizing s ptr l with
  | zero => exact h
  | succ n ih =>
    unfold State.probe
    split
    · exact h
    · split
      · exact h
      · split
        · exact ih h
        · split
          next e => exact .of_snd e h.engPage
          next e =>
            have h1 := State.MemWf.of_snd e h.engPage
            split
            · split
              · exact h1.engBounce
              · exact ih h1
            · split
              next he =>
                obtain ⟨_, -, hq⟩ := Option.map_eq_some_iff.1 he
                exact .of_snd hq h1.engQueue
              next he =>
                obtain ⟨_, -, hq⟩ := Option.map_eq_some_iff.1 he
                exact ih (.of_snd hq h1.engQueue)
              · exact ih h1

theorem State.MemWf.f32Write {s : State} {op : TileOp} {a2 : ℕ} {a3 : DWord} {a4 : List (Option ℕ)}
    (h : s.MemWf) : (s.f32Write op a2 a3 a4).MemWf := by
  induction a2 generalizing s op a3 a4 with
  | zero =>
    exact h
  | succ n ih =>
    refine .ite (ih h) ?_
    extract_lets -underBinder _ _ s0
    have h0 : s0.MemWf := h
    exact ih h0.engWrite

theorem State.MemWf.recStore {s : State} {t key : ℕ} {r : List Byte} (h : s.MemWf) : (s.recStore t key r).MemWf := by
  unfold State.recStore
  split
  · exact h
  · exact h.modTeam

theorem State.MemWf.mdeltaEnd {s : State} {cl : ℕ} {op : TileOp} (h : s.MemWf) : (s.mdeltaEnd cl op).MemWf := by
  unfold State.mdeltaEnd
  split
  next e => exact (State.MemWf.of_snd e h.opRecord).tileBounce
  next e _ =>
    have h1 := State.MemWf.of_snd e h.opRecord
    split
    next e => exact (State.MemWf.of_snd e h1.mdeltaRead).tileBounce
    next e =>
      have h2 := State.MemWf.of_snd e h1.mdeltaRead
      extract_lets -underBinder _ _ _ _ _ _ _ _ _ _ _ _ _ _ _ _ _ _ _ _ _ _ _ p1 p2
      have hp1 : p1.2.MemWf := h2.probe
      have hp2 : p2.2.MemWf := by
        unfold p2
        split
        · exact hp1
        · exact hp1.probe
      split
      · exact hp1.tileBounce
      · exact hp2.tileBounce
      · extract_lets -underBinder s3 y x _ _ _ _ s4 _ _ _ _ s5
        have hy : y.MemWf := hp2.tileErrs.f32Write
        have h4 : s4.MemWf := State.MemWf.setEngine (.ite hy hy.f32Write)
        have h5 : s5.MemWf := .ite h4 h4.recStore
        exact h5.recFree.tileEnd
  next e _ => exact (State.MemWf.of_snd e h.opRecord).tileEnd

theorem State.MemWf.tileRun {s : State} {cl : ℕ} {op : TileOp} {n : ℕ} (h : s.MemWf) : (s.tileRun cl op n).MemWf := by
  unfold State.tileRun
  split
  · split
    next e => exact (State.MemWf.of_thd e h.mmaqRun).tileBounce
    next e => exact (State.MemWf.of_thd e h.mmaqRun).tileEnd
    next e =>
      have h1 := State.MemWf.of_thd e h.mmaqRun
      exact .ite h1.tileEnd h1.modOp
  · exact h.mdeltaEnd
  · split
    next e => exact (State.MemWf.of_snd e h.opRecord).tileBounce
    next e => exact (State.MemWf.of_snd e h.opRecord).tileEnd
    next e =>
      have h1 := State.MemWf.of_snd e h.opRecord
      split
      next e => exact (State.MemWf.of_thd e h1.drainRows).tileBounce
      next e =>
        have h2 := State.MemWf.of_thd e h1.drainRows
        exact .ite (State.MemWf.ite h2.setEngine h2).tileEnd h2.modOp
  · exact State.MemWf.engineRelease (.opEnds (.setEngine h))

theorem State.MemWf.engineRevoke {s : State} {cl t : ℕ} (h : s.MemWf) : (s.engineRevoke cl t).MemWf := by
  refine .ite h ?_
  refine .ite ?_ (.setEngine (.modTeam ?_))
  · split
    · exact .ite h (.ite h.modOp h.tileRun)
    · exact h
  · split
    · exact .ite h (.ite h.modOp h.tileRun)
    · exact h

theorem State.MemWf.tileRefuse {s : State} {cl : ℕ} {op : TileOp} {err : ℕ} (h : s.MemWf) : (s.tileRefuse cl op err).MemWf :=
  h.setEngine.tileStatus.engineRelease

theorem State.MemWf.tileCheck {s : State} {cl : ℕ} {op : TileOp} (h : s.MemWf) : (s.tileCheck cl op).MemWf := by
  unfold State.tileCheck
  extract_lets accept keep
  have accept_memWf {u : State} {ok : Bool} (hu : u.MemWf) : (accept u ok).MemWf := .ite hu.modOp hu.tileRefuse
  have keep_memWf {u : State} {b : ℕ × ℕ × ℕ} (hu : u.MemWf) : (keep u b).MemWf := hu.modOp.tileBounce
  clear_value accept keep
  split
  · split
    next e => exact keep_memWf (.of_snd e h.mmaqRecs)
    next e => exact accept_memWf (.of_snd e h.mmaqRecs)
  · split
    next e => exact keep_memWf (.of_snd e h.opRecord)
    next e => exact accept_memWf (.of_snd e h.opRecord)
    next e => exact accept_memWf (.of_snd e h.opRecord)
  · split
    next e => exact keep_memWf (.of_snd e h.opRecord)
    next e => exact accept_memWf (.of_snd e h.opRecord)
    next e => exact accept_memWf (.of_snd e h.opRecord)

theorem State.MemWf.tileRead {s : State} {cl id : ℕ} (h : s.MemWf) : (s.tileRead cl id).MemWf := by
  unfold State.tileRead
  extract_lets -underBinder
  split
  · split
    next e => exact .sched (.of_snd e h.padWait)
    next e => exact .tileCheck (.modOp (.of_snd e h.padWait))
  · exact h

theorem State.MemWf.rsvResume {s : State} {k : ℕ} {lanes : Mask} {key : ℕ} (h : s.MemWf) : (s.rsvResume k lanes key).MemWf :=
  .ite h.recClear.resume h

theorem State.MemWf.workResume {s : State} {k : ℕ} {lanes : Mask} {id : ℕ} (h : s.MemWf) : (s.workResume k lanes id).MemWf := by
  unfold State.workResume
  extract_lets -underBinder
  split
  · exact h
  · split
    · exact .ite h h
    · exact h

theorem State.MemWf.tileReady {s : State} {op : TileOp} (h : s.MemWf) : (s.tileReady op).2.MemWf := by
  unfold State.tileReady
  extract_lets bs pages
  have pages_memWf {u : State} {l : List DWord} (hu : u.MemWf) : (pages u l).2.MemWf := by
    refine State.MemWf.foldl_snd (p := (none, u)) hu fun r x hr => ?_
    split
    · split
      · exact hr.engPage
      · exact hr
    · exact hr
  clear_value pages
  split
  · split
    next e => exact .of_snd e h.mmaqRecs
    next e =>
      split
      · exact h
      · exact pages_memWf (.of_snd e h.mmaqRecs)
    · exact h
  · split
    next e => exact .of_snd e h.opRecord
    next e => exact pages_memWf (.of_snd e h.opRecord)
    · exact h
  · split
    next e => exact .of_snd e h.opRecord
    next e => exact pages_memWf (.of_snd e h.opRecord)
    · exact h
  · exact h

theorem State.MemWf.watchInstall {s : State} {ctx idx : ℕ} {ptr : DWord} {len : ℕ} (h : s.MemWf) : (s.watchInstall ctx idx ptr len).2.MemWf := by
  unfold State.watchInstall
  extract_lets -underBinder s1
  have h1 : s1.MemWf := h
  split
  · exact h1
  · extract_lets -underBinder
    split
    · exact h1
    · exact h1

theorem State.MemWf.mdeltaStart {s : State} {cl : ℕ} {op : TileOp} (h : s.MemWf) : (s.mdeltaStart cl op).2.MemWf := by
  unfold State.mdeltaStart
  split
  · exact h
  · extract_lets ctx idx key
    refine .ite_snd h.tileBounce ?_
    split
    next e => exact (State.MemWf.of_snd e h.opRecord).tileBounce
    next e => exact (State.MemWf.of_snd e h.opRecord).tileEnd
    next e =>
      have h1 := State.MemWf.of_snd e h.opRecord
      extract_lets _ s2 r i op1
      have h2 : s2.MemWf := h1
      have hi : i.2.MemWf := h2.watchInstall
      exact .ite_snd h2 hi.modOp

theorem State.MemWf.tileStart {s : State} {cl : ℕ} (h : s.MemWf) : (s.tileStart cl).MemWf := by
  unfold State.tileStart
  extract_lets -underBinder
  split
  · exact h
  · refine .ite h (.ite (.ite h h.tileCheck) (.ite h.tileEnd ?_))
    split
    next e => exact .tileBounce (.of_snd e h.tileReady)
    · extract_lets -underBinder r
      have hr : r.2.MemWf := by
        unfold r
        split
        next e _ => exact .mdeltaStart (.of_snd e h.tileReady)
        next e _ => exact .of_snd e h.tileReady
      split
      · exact hr
      · extract_lets -underBinder _ _ s1
        have h1 : s1.MemWf := hr
        exact h1.modOp.sched

/-! ## Copies -/

theorem State.MemWf.setCopies {s : State} {cl : ℕ} {l : List CopyOp} (h : s.MemWf) : (s.setCopies cl l).MemWf := h

theorem State.MemWf.copyIssue {s : State} {x : Iss} {kick : Bool} {d a b : DWord} (h : s.MemWf) : (s.copyIssue x kick d a b).MemWf := h

theorem State.MemWf.copyEnd {s : State} {cl : ℕ} {o : CopyOp} (h : s.MemWf) : (s.copyEnd cl o).MemWf :=
  h.setCopies.opEnds

theorem State.MemWf.copyForm {s : State} {cl : ℕ} {o : CopyOp} {addr : DWord} (h : s.MemWf) : (s.copyForm cl o addr).MemWf := by
  unfold State.copyForm
  split
  · exact h
  · exact h.logGang.copyEnd

theorem State.MemWf.cached {s : State} {o : CopyOp} {acc : ℕ} {c : Cache} {ptr : DWord} (h : s.MemWf) : (s.cached o acc c ptr).2.2.MemWf := by
  unfold State.cached
  split
  · exact h
  · split
    next e => exact .of_snd e h.engRead
    next e => exact .of_snd e h.engRead

theorem State.MemWf.chain {s : State} {o : CopyOp} {n : ℕ} {ptr : DWord} {c : Chain} (h : s.MemWf) : (s.chain o n ptr c).2.MemWf := by
  induction n generalizing s ptr c with
  | zero => exact h
  | succ n ih =>
    unfold State.chain
    split
    · exact h
    · split
      · exact h
      · split
        next e => exact .of_thd e h.cached
        next e =>
          have h1 := State.MemWf.of_thd e h.cached
          extract_lets -underBinder c1
          split
          · exact h1
          · split
            · exact h1
            · split
              · exact h1
              · split
                · exact h1
                · exact ih h1

theorem State.MemWf.modCopy {s : State} {cl id : ℕ} {f : CopyOp → CopyOp} (h : s.MemWf) : (s.modCopy cl id f).MemWf := h

theorem State.MemWf.copyBounce {s : State} {cl : ℕ} {o : CopyOp} {b : ℕ × ℕ × ℕ} (h : s.MemWf) : (s.copyBounce cl o b).MemWf := by
  refine .ite h ?_
  extract_lets -underBinder s1
  have h1 : s1.MemWf := h
  exact .ite h1.opStall h1.modCopy

theorem State.MemWf.copyRivalOp {s : State} {cl : ℕ} {o : CopyOp} {addr : DWord} (h : s.MemWf) : (s.copyRivalOp cl o addr).MemWf := by
  unfold State.copyRivalOp
  split
  · exact h
  · exact h.logGang.engFault.copyEnd

theorem State.MemWf.putSpans {s : State} {o : CopyOp} {desc : Option (BitVec 16)} {a3 : List (ℕ × ℕ)} {a4 : List Byte} {a5 : ℕ}
    (h : s.MemWf) : (s.putSpans o desc a3 a4 a5).2.MemWf := by
  induction a3 generalizing s o desc a4 a5 with
  | nil =>
    exact h
  | cons y l ih =>
    unfold State.putSpans
    extract_lets -underBinder
    split
    next e => exact .of_snd e h.engWrite
    next e => exact ih (.of_snd e h.engWrite)

theorem State.MemWf.ccbRun {s : State} {o : CopyOp} {x : Ccb} {base a4 a5 : ℕ} {a6 : Pass} (h : s.MemWf) : (s.ccbRun o x base a4 a5 a6).2.MemWf := by
  induction a4 generalizing s o x base a5 a6 with
  | zero =>
    exact h
  | succ n ih =>
    unfold State.ccbRun
    extract_lets -underBinder
    split
    · exact h
    · split
      next e => exact .of_thd e h.cached
      · extract_lets -underBinder r
        have hr : r.2.MemWf := by
          rename_i e _
          exact .putSpans (.of_thd e h.cached)
        split
        · exact hr
        · exact ih hr

theorem State.MemWf.chainRun {s : State} {o : CopyOp} {a2 : List Ccb} {a3 : ℕ} {a4 : Pass} (h : s.MemWf) : (s.chainRun o a2 a3 a4).2.MemWf := by
  induction a2 generalizing s o a3 a4 with
  | nil =>
    exact h
  | cons y l ih =>
    unfold State.chainRun
    extract_lets -underBinder r
    have hr : r.2.MemWf := h.ccbRun
    split
    · exact ih h
    · split
      · exact hr
      · exact ih hr

theorem State.MemWf.kickRun {s : State} {cl : ℕ} {o : CopyOp} (h : s.MemWf) : (s.kickRun cl o).MemWf := by
  unfold State.kickRun
  split
  · exact h
  · split
    · exact h
    · refine .ite h.copyForm ?_
      extract_lets -underBinder c
      have hc : c.2.MemWf := h.chain
      split
      · exact hc.copyBounce
      · split
        · exact hc.copyRivalOp
        · extract_lets -underBinder r
          have hr : r.2.MemWf := hc.chainRun
          split
          · exact hr.copyBounce
          · refine .copyEnd ?_
            split
            · exact hr.logGang
            · exact hr

theorem State.MemWf.packElems {s : State} {o : CopyOp} {x : TRec} {org : List ℕ} {c : Cache} {n i sh acc : ℕ} (h : s.MemWf) :
    (s.packElems o x org c n i sh acc).2.2.MemWf := by
  induction n generalizing s c i sh acc with
  | zero => exact h
  | succ n ih =>
    unfold State.packElems
    extract_lets e at_
    split
    · split
      next hr => exact congrArg Prod.snd hr ▸ ih h
      · exact ih h
    · split
      next hr => exact .of_thd hr h.cached
      next hr =>
        have h1 := State.MemWf.of_thd hr h.cached
        split
        next hr => exact congrArg Prod.snd hr ▸ ih h1
        · exact ih h1

theorem State.MemWf.putBlock {s : State} {o : CopyOp} {d : CDest} {at_ : ℕ} {data : List Byte} {desc : BitVec 16}
    (h : s.MemWf) : (s.putBlock o d at_ data desc).2.MemWf := by
  unfold State.putBlock
  split
  · exact h.engWrite
  · split
    · exact h
    · exact h.modTeam.boCount

theorem State.MemWf.tileBlocks {s : State} {o : CopyOp} {x : TRec} {org : List ℕ} {d : CDest} {place a6 : ℕ} {a7 : Pass}
    (h : s.MemWf) : (s.tileBlocks o x org d place a6 a7).2.MemWf := by
  induction a6 generalizing s o x org d place a7 with
  | zero =>
    exact h
  | succ n ih =>
    unfold State.tileBlocks
    extract_lets -underBinder
    split
    · exact h
    · split
      next e => exact .of_thd e h.packElems
      · split
        next e1 _ _ _ e => exact .of_snd e (.putBlock (.of_thd e1 h.packElems))
        next e1 _ _ e => exact ih (.of_snd e (.putBlock (.of_thd e1 h.packElems)))

theorem State.MemWf.copytRun {s : State} {cl : ℕ} {o : CopyOp} (h : s.MemWf) : (s.copytRun cl o).MemWf := by
  unfold State.copytRun
  split
  · exact h
  · split
    · exact h
    · split
      next e => exact (State.MemWf.of_snd e h.engRecord).copyBounce
      next e => exact (State.MemWf.of_snd e h.engRecord).copyForm
      next e =>
        have h1 := State.MemWf.of_snd e h.engRecord
        split
        · extract_lets _ _ _ wait r
          have wait_memWf {u : State} {off n : ℕ} {f : State → State} (hu : u.MemWf) (hf : ∀ v, v.MemWf → (f v).MemWf) : (wait u off n f).MemWf := by
            unfold wait
            split
            next e => exact (State.MemWf.of_snd e hu.padWait).sched
            next e => exact hf _ (.of_snd e hu.padWait)
          clear_value wait
          refine .ite h1.copyForm ?_
          split
          · refine .ite h1.copyRivalOp ?_
            have hr : r.2.MemWf := h1.tileBlocks
            clear_value r
            split
            · exact hr.copyBounce
            · exact hr.copyEnd
          · refine .ite h1.copyForm (wait_memWf h1 fun u hu => ?_)
            extract_lets r
            have hr : r.2.MemWf := hu.tileBlocks
            split
            · exact hr.copyBounce
            · exact hr.copyEnd
          · split
            · exact h1.copyForm
            · refine .ite h1.copyForm (wait_memWf h1 fun u hu => ?_)
              extract_lets w st fillb s2 _ r filled s3
              have hr : r.2.MemWf := State.MemWf.tileBlocks hu.modTeam
              clear_value r
              refine .ite hu.copyBounce ?_
              split
              · exact hr.modTeam.copyBounce
              · have h3 : s3.MemWf := hr.modTeam
                exact .ite h3.copyEnd h3.modCopy.sched
        · exact h1.copyForm

theorem State.MemWf.copyEvent {s : State} (h : s.MemWf) : s.copyEvent.MemWf := by
  refine .ite ?_ h.eackDue
  split
  · exact h
  · exact .ite (.ite h.kickRun h.copytRun) h

theorem State.MemWf.tdloadDone {s : State} {r : ℕ} {q : Req} (h : s.MemWf) : (s.tdloadDone r q).MemWf := by
  unfold State.tdloadDone
  extract_lets -underBinder _ s0
  have h0 : s0.MemWf := h
  split
  · refine .ite h0.landOp.opComplete ?_
    beta_reduce
    split
    · exact h0.logGang.landOp.opComplete
    · exact .ite h0.landOp.opComplete h0.logGang.logGang.landOp.opComplete
  · exact h0

theorem State.MemWf.copyReady {s : State} {o : CopyOp} (h : s.MemWf) : (s.copyReady o).2.MemWf := by
  unfold State.copyReady
  extract_lets -underBinder c
  have hc : c.2.MemWf := h.chain
  split
  · split
    · exact hc
    · exact h
  · split
    next e => exact .of_snd e h.engRecord
    · exact h
    · exact h

theorem State.MemWf.copyStart {s : State} {cl : ℕ} (h : s.MemWf) : (s.copyStart cl).MemWf := by
  refine .ite h ?_
  split
  · exact h
  · split
    next e => exact .copyBounce (.of_snd e h.copyReady)
    next e => exact .sched (.modCopy (.of_snd e h.copyReady))

/-! ## Room on the clusters -/

theorem State.MemWf.stopTeam {s : State} {t : ℕ} (h : s.MemWf) : (s.stopTeam t).MemWf := by
  unfold State.stopTeam
  split
  · exact h
  · split
    · exact (h.foldl (fun _ _ h1 => h1.modGang)).modTeam
    · exact h

theorem State.MemWf.areasFor {s t : State} {x : Spec} {die bytes : ℕ} {a b : ℕ × ℕ} (h : s.MemWf) (e : s.areasFor x die bytes = some (a, b, t)) :
    t.MemWf := by
  unfold State.areasFor at e
  split at e
  · exact nomatch e
  next ha =>
    split at e
    · split at e
      · exact nomatch e
      next hb => cases e; exact (h.areaTake ha).areaTake hb
    · cases e; exact h.areaTake ha

theorem State.MemWf.evict {s : State} {cl n : ℕ} (h : s.MemWf) : (s.evict cl n).2.MemWf := h

theorem State.MemWf.placeAt {s t : State} {x : Spec} {f : Fit} {n : ℕ} (h : s.MemWf) (e : s.placeAt x f = some (n, t)) : t.MemWf := by
  unfold State.placeAt at e
  split at e
  · exact nomatch e
  next ha =>
    have h1 := h.areasFor ha
    revert e
    split
    next hv =>
      have h2 := State.MemWf.of_snd hv h1.evict
      extract_lets slots v ks _ s3 s4
      intro e
      have h4 : s4.MemWf := State.MemWf.foldl (s := s3) h2 fun _ _ hu => hu.setGang
      exact .of_snd (Option.some.inj e) h4.setTeam

theorem State.MemWf.placeCore {s t : State} {x : Spec} {core n : ℕ} (h : s.MemWf) (e : s.placeCore x core = some (n, t)) : t.MemWf := by
  unfold State.placeCore at e
  split at e
  · exact nomatch e
  next ha =>
    have h1 := h.areaTake ha
    extract_lets v _ s2 s3 at e
    have h2 : s2.MemWf := h1
    have h3 : s3.MemWf := h2.setGang
    exact .of_snd (Option.some.inj e) h3.setTeam

theorem State.MemWf.bringCore {s : State} {t : ℕ} {tm : Team} {core : ℕ} (h : s.MemWf) : (s.bringCore t tm core).MemWf := by
  unfold State.bringCore
  extract_lets -underBinder s1
  have h1 : s1.MemWf := h.foldl fun _ _ h1 => h1.modGang
  exact h1.modTeam.kickReissue

theorem State.MemWf.bringBack {s : State} {t : ℕ} {tm : Team} {f : Fit} {here : Bool} (h : s.MemWf) : (s.bringBack t tm f here).MemWf := by
  unfold State.bringBack
  extract_lets -underBinder _ s0
  have h0 : s0.MemWf := h
  refine .kickReissue (.engineRestore (.modTeam (.foldl h0 (fun s1 x h1 => ?_))))
  extract_lets -underBinder
  split
  · exact h1
  · exact h1.setGang

theorem State.MemWf.vacate {s : State} {t : ℕ} {st : TState} (h : s.MemWf) : (s.vacate t st).MemWf := by
  unfold State.vacate
  split
  · exact h
  · extract_lets -underBinder _ s1
    have h1 : s1.MemWf := h.engineRevoke
    split
    · exact h1
    · extract_lets -underBinder _ _ _ _ s2
      have h2 : s2.MemWf := h1
      exact h2.setTeam.sched

/-! ## Tasks -/

theorem State.MemWf.ageFrom {s : State} {kind n : ℕ} (h : s.MemWf) : (s.ageFrom kind n).MemWf := h

theorem State.MemWf.taskReady {s : State} {tid : ℕ} (h : s.MemWf) : (s.taskReady tid).MemWf := h

theorem State.MemWf.enterTask {s : State} {ctx die : ℕ} {r : List Byte} {rival : Option (ℕ × ℕ)} {parent : Option ℕ} {source : ℕ}
    (h : s.MemWf) : (s.enterTask ctx die r rival parent source).MemWf :=
  .ite h (.ite (.taskReady h) h)

theorem State.MemWf.dropTasks {s : State} {f : ℕ × Task → Bool} (h : s.MemWf) : (s.dropTasks f).MemWf := by
  unfold State.dropTasks
  extract_lets -underBinder s1
  have h1 : s1.MemWf := h.foldl fun _ _ h1 => h1.areaFree
  exact h1

theorem State.MemWf.submit {s : State} {ctx die : ℕ} {r : List Byte} {team parent : Option ℕ} {source : ℕ}
    (h : s.MemWf) : (s.submit ctx die r team parent source).2.MemWf := by
  unfold State.submit
  split
  · exact h
  · split
    · exact h
    · split
      · exact h
      · exact h.enterTask

theorem State.MemWf.retrySub {s : State} {id k : ℕ} {r : List Byte} {die : ℕ} (h : s.MemWf) : (s.retrySub id k r die).MemWf := by
  unfold State.retrySub
  split
  · exact h.uncDone
  · refine .ite h.uncStay ?_
    split
    · exact h.enterTask.uncDone
    · exact h.uncDone

theorem State.MemWf.taskEnd {s : State} {tid : ℕ} (h : s.MemWf) : (s.taskEnd tid).MemWf := by
  unfold State.taskEnd
  extract_lets -underBinder s' _ _ s1
  have h' : s'.MemWf := h.areaFree
  have h1 : s1.MemWf := h'
  exact h1.foldl fun _ _ h2 => h2.taskReady

theorem State.MemWf.decSucc {s : State} {k : Task} (h : s.MemWf) : (s.decSucc k).1.MemWf := by
  unfold State.decSucc
  split
  · exact h
  · split
    · exact h
    · dsimp only
      split
      · exact h
      · exact h
      · split
        · exact h
        · split
          · split
            · exact h
            · split
              next e => exact .of_fth e h.readHome
              next e => exact .specWrite (.of_fth e h.readHome)
          · split
            · exact h
            · split
              next e => exact .of_fth e h.readHome
              next e => exact .sliceTouch (.setTag (.writeAt (.of_fth e h.readHome)))

theorem State.MemWf.retrySucc {s : State} {tid : ℕ} {k : Task} (h : s.MemWf) : (s.retrySucc tid k).MemWf :=
  .ite h (.sched h)

theorem State.MemWf.lateQ {s : State} {k : ℕ} {lanes : Mask} {time qd : ℕ} {v : Bool} (h : s.MemWf) : (s.lateQ k lanes time qd v).MemWf := by
  unfold State.lateQ
  split
  · exact h
  · split
    · exact h
    · exact h.setGang

theorem State.MemWf.tasksubRead {s : State} {id : ℕ} {q : Req} (h : s.MemWf) : (s.tasksubRead id q).MemWf := by
  refine .ite h (.ite (.ite h h.workEnter) ?_)
  extract_lets -underBinder _ s0
  have h0 : s0.MemWf := h
  split
  · exact h0
  · split
    · exact h0.uncDone
    · refine .ite h0.logGang.uncDone.lateQ ?_
      extract_lets -underBinder
      beta_reduce
      split
      next e => exact .lateQ (.uncDone (.logGang (.of_snd e h0.submit)))
      next e => exact .lateQ (.uncDone (.of_snd e h0.submit))
      next e => exact .ite (.lateQ (.uncPut (.of_snd e h0.submit))) (.lateQ (.uncDone (.of_snd e h0.submit)))

/-! ## Furrows -/

theorem State.MemWf.setFurrow {s : State} {f : Furrow} (h : s.MemWf) : (s.setFurrow f).MemWf := h

theorem State.MemWf.withFurrow {s : State} {x : Iss} {a : DWord} {access : ℕ} {f : State → Furrow → State} {bad : State → State}
    (h : s.MemWf) (hf : ∀ u y, u.MemWf → (f u y).MemWf) (hb : ∀ u, u.MemWf → (bad u).MemWf) : (s.withFurrow x a access f bad).MemWf := by
  refine .ite h.trapAccess ?_
  split
  · exact h.workGate fun _ h1 => hf _ _ h1.setFurrow
  · exact hb _ h.logGang
  · exact .ite (.await (.serveCause (.ite h.logGang h))) (hb _ h.logGang.engFault)

theorem State.MemWf.ringStop {s : State} {x : Iss} {access : ℕ} {c : ℕ × DWord} {bad : State → State}
    (h : s.MemWf) (hb : ∀ u, u.MemWf → (bad u).MemWf) : (s.ringStop x access c bad).MemWf :=
  .ite (.await (.serveCause (.ite h.logGang h))) (hb _ h.logGang.engFault)

theorem State.MemWf.setDrought {s : State} {key : ℕ} {d : Drought} (h : s.MemWf) : (s.setDrought key d).MemWf := h

theorem State.MemWf.append {s : State} {f : Furrow} {items : List DWord} (h : s.MemWf) : (s.append f items).MemWf := by
  unfold State.append
  extract_lets -underBinder s1
  have h1 : s1.MemWf := by
    unfold s1
    refine h.foldl_fst fun r x h => ?_
    exact h.vwrite
  exact h1.setFurrow.setDrought

theorem State.MemWf.drainTaken {s : State} {k : ℕ} (h : s.MemWf) : (s.drainTaken k).MemWf := by
  unfold State.drainTaken
  split
  · exact h
  · extract_lets -underBinder _ s1
    have h1 : s1.MemWf := h.foldl fun _ _ h1 => h1
    exact h1.modGang

theorem State.MemWf.retryFapp {s : State} {id k : ℕ} {a : DWord} {items : List DWord} (h : s.MemWf) : (s.retryFapp id k a items).MemWf := by
  unfold State.retryFapp
  split
  · exact h.uncDone
  · extract_lets -underBinder
    split
    · refine .ite h.uncStay ?_
      split
      · exact .ite (.uncStay (.serveCause (.ite h h))) (.uncDone (.engFault h))
      · exact h.setFurrow.append.uncDone
    · exact .uncDone h
    · exact .ite (.uncStay (.serveCause (.ite h h))) (.uncDone (.engFault h))

theorem State.MemWf.writeBack {s : State} {key : ℕ} (h : s.MemWf) : (s.writeBack key).MemWf := by
  unfold State.writeBack
  extract_lets -underBinder _ s1
  have h1 : s1.MemWf := h.foldl fun _ _ h1 => h1.vwrite
  exact h1

theorem State.MemWf.sweepGroup {s : State} {key : ℕ} (h : s.MemWf) : (s.sweepGroup key).MemWf :=
  .ite (.ite h.writeBack.setDrought h.setDrought) h.setDrought

theorem State.MemWf.unitResume {s : State} {k : ℕ} {lanes : Mask} {ctx : ℕ} {ptr : DWord} {write : Bool}
    (h : s.MemWf) : (s.unitResume k lanes ctx ptr write).MemWf := by
  unfold State.unitResume
  split
  · exact .ite h h.modGang
  · exact h.modGang

/-! ## Tournament scopes -/

theorem State.MemWf.scopeAns {s : State} {x : Iss} {qd : Fin 8} {v : Bool} (h : s.MemWf) : (s.scopeAns x qd v).MemWf :=
  h.answerQ

theorem State.MemWf.setScope {s : State} {n : ℕ} {x : Scp} (h : s.MemWf) : (s.setScope n x).MemWf := h

theorem State.MemWf.modScope {s : State} {n : ℕ} {f : Scp → Scp} (h : s.MemWf) : (s.modScope n f).MemWf := h

theorem State.MemWf.modRival {s : State} {v : ℕ × ℕ} {f : Rival → Rival} (h : s.MemWf) : (s.modRival v f).MemWf := h

theorem State.MemWf.unitWrite {s : State} {x : Iss} {t off : ℕ} {bs : List Byte} (h : s.MemWf) : (s.unitWrite x t off bs).MemWf :=
  h.foldl (fun _ _ h1 => .sched (.setReq h1))

theorem State.MemWf.dropOps {s : State} {gangs : List ℕ} (h : s.MemWf) : (s.dropOps gangs).MemWf := by
  unfold State.dropOps
  extract_lets -underBinder _ _ _ _ s1 _ s2
  have h1 : s1.MemWf := h.recsFree
  have h2 : s2.MemWf := h1
  exact h2.foldl fun _ _ h3 => h3.opEnds

theorem State.MemWf.dropReqs {s : State} {gangs : List ℕ} (h : s.MemWf) : (s.dropReqs gangs).MemWf := by
  refine h.foldl fun s1 x h1 => .ite ?_ h1.setReq
  extract_lets -underBinder _ s1'
  have h1' : s1'.MemWf := h1
  exact .opComplete (.ite h1'.ackWrite h1')

theorem State.MemWf.dropCisterns {s : State} {gangs : List ℕ} (h : s.MemWf) : (s.dropCisterns gangs).MemWf := by
  refine h.dropReqs.dropOps.foldl fun s1 x h1 => ?_
  split
  · exact h1.uncDone
  · exact h1

theorem State.MemWf.killTeam {s : State} {t : ℕ} (h : s.MemWf) : (s.killTeam t).MemWf := by
  unfold State.killTeam
  split
  · exact h
  · extract_lets -underBinder s1
    have h1 : s1.MemWf := h.dropCisterns
    exact .ite h1.stopTeam.modTeam (.ite h1 h1.modTeam)

theorem State.MemWf.killRival {s : State} {v : ℕ × ℕ} (h : s.MemWf) : (s.killRival v).MemWf := by
  unfold State.killRival
  extract_lets -underBinder s1
  have h1 : s1.MemWf := h.modRival.dropTasks
  exact h1.foldl fun _ _ h2 => h2.killTeam

theorem State.MemWf.abortScope {s : State} {n : ℕ} (h : s.MemWf) : (s.abortScope n).MemWf := by
  unfold State.abortScope
  split
  · exact h
  · extract_lets -underBinder s1
    have h1 : s1.MemWf := by
      refine h.foldl fun s2 x h1 => ?_
      split
      · exact h1
      · exact h1.killRival
    exact h1.modScope

theorem State.MemWf.commitBlock {s : State} {k id ctx : ℕ} {again prot : Bool} {b : ℕ × WBlk}
    (h : s.MemWf) : (s.commitBlock k id ctx again prot b).2.MemWf := by
  unfold State.commitBlock
  extract_lets -underBinder _ _ _ _ s1 _ s2 r
  have h1 : s1.MemWf := by
    unfold s1
    split
    · exact h.dieWalks
    · exact h
  have h2 : s2.MemWf := h1
  have hr : r.2.MemWf := h2.engWrite
  split
  · exact h
  · exact hr

theorem State.MemWf.commitStep {s : State} {n : ℕ} {x : Scp} {c : ℕ × ℕ × ℕ × Bool} (h : s.MemWf) : (s.commitStep n x c).MemWf := by
  unfold State.commitStep
  extract_lets -underBinder
  split
  · exact h.modScope
  · extract_lets -underBinder _ _ s1 s2 _ s3 _ s4
    have h1 : s1.MemWf := by
      refine h.foldl fun s5 x1 h1 => ?_
      extract_lets -underBinder r
      have hr : r.2.MemWf := h1.commitBlock
      exact .ite hr.modRival hr
    have h2 : s2.MemWf := h1
    have h3 : s3.MemWf := h2
    have h4 : s4.MemWf := h3
    exact .ite h2 (.ite h4 h3)

theorem State.MemWf.settleScope {s : State} {n : ℕ} {left : List ℕ} (h : s.MemWf) : (s.settleScope n left).MemWf := by
  unfold State.settleScope
  split
  · exact h
  · extract_lets -underBinder s1 _ s2
    have h1 : s1.MemWf := h.foldl fun _ _ h1 => h1.killRival
    have h2 : s2.MemWf := h1
    exact .ite h2 h2.modRival

theorem State.MemWf.wakeRival {s : State} {v : ℕ × ℕ} (h : s.MemWf) : (s.wakeRival v).MemWf :=
  h.foldl fun _ _ h1 => h1.sched

theorem State.MemWf.growNow {s : State} {t : ℕ} {tm : Team} (h : s.MemWf) : (s.growNow t tm).MemWf := by
  unfold State.growNow
  split
  · exact h
  · exact .ite h.setTeam h

theorem State.MemWf.scopeTick {s : State} {n : ℕ} (h : s.MemWf) : (s.scopeTick n).MemWf := by
  unfold State.scopeTick
  split
  · exact h
  · refine .ite h ?_
    extract_lets -underBinder s1
    have h1 : s1.MemWf := by
      refine h.foldl fun s2 x h1 => ?_
      split
      · exact h1
      · exact .ite (.ite h1.modRival (.ite h1.modRival h1)) h1
    split
    · exact h1
    · exact .ite h1.sched h1

theorem State.MemWf.dropTeam {s : State} {t : ℕ} (h : s.MemWf) : (s.dropTeam t).MemWf := by
  unfold State.dropTeam
  split
  · exact h
  · extract_lets -underBinder s0 _ s1 s2 s2'
    have h0 : s0.MemWf := .ite h.engineFree h
    have h1 : s1.MemWf := h0.discard
    have h2 : s2.MemWf := h1.areaFree.areaFree
    have h2' : s2'.MemWf := h2.areaFree
    exact h2'

theorem State.MemWf.countIssue {s : State} {g : Gang} (h : s.MemWf) : (s.countIssue g).MemWf := by
  unfold State.countIssue
  split
  · exact h
  · extract_lets -underBinder s1
    have h1 : s1.MemWf := h
    split
    · exact h1
    · split
      · exact h1
      · exact .ite h1.sched h1

/-! ## The schedulers -/

theorem State.MemWf.holdFor {s : State} {x : Iss} {n : ℕ} (h : s.MemWf) : (s.holdFor x n).MemWf := h

theorem State.MemWf.place {s t : State} {die : ℕ} {c : DCand} (h : s.MemWf) (e : s.place die c = some t) : t.MemWf := by
  unfold State.place at e
  split at e
  · split at e
    · exact nomatch e
    · extract_lets x at e
      split at e
      · exact nomatch e
      · obtain ⟨r, hr, rfl⟩ := Option.map_eq_some_iff.1 e
        have h1 := State.MemWf.placeAt (n := r.1) (t := r.2) h hr
        exact h1
  · split at e
    · exact nomatch e
    · extract_lets x run at e
      have run_memWf {r : ℕ × State} (hr : r.2.MemWf) : (run r).MemWf := hr
      split at e
      · obtain ⟨c, -, hc⟩ := Option.bind_eq_some_iff.1 e
        obtain ⟨r, hr, rfl⟩ := Option.map_eq_some_iff.1 hc
        exact run_memWf (h.placeCore hr)
      · split at e
        · exact nomatch e
        · obtain ⟨r, hr, rfl⟩ := Option.map_eq_some_iff.1 e
          exact run_memWf (h.placeAt hr)
  · split at e
    · exact nomatch e
    · split at e
      · obtain ⟨c, -, rfl⟩ := Option.map_eq_some_iff.1 e
        exact h.bringCore
      · obtain ⟨f, -, rfl⟩ := Option.map_eq_some_iff.1 e
        exact h.bringBack

theorem State.MemWf.pick {s t : State} {die : ℕ} {c : DCand} (h : s.MemWf) (e : s.pick die = some (c, t)) : t.MemWf := by
  obtain ⟨d, -, hd⟩ := List.exists_of_findSome?_eq_some e
  obtain ⟨u, hu, hc⟩ := Option.map_eq_some_iff.1 hd
  have h1 := State.MemWf.place h hu
  cases hc
  exact h1

theorem State.MemWf.dispatch {s : State} {die : ℕ} (h : s.MemWf) : (s.dispatch die).MemWf := by
  refine .ite h ?_
  extract_lets -underBinder s1
  have h1 : s1.MemWf := by
    unfold s1
    split
    · exact .ite h h.sched
    · exact h
  split
  · split
    · exact h1.sched
    · exact h1.sched
    · exact h1.sched
  · exact h1

theorem State.MemWf.compactTick {s : State} {cl : ℕ} (h : s.MemWf) : (s.compactTick cl).MemWf := by
  unfold State.compactTick
  split
  · exact h
  · exact .ite h (.sched h)

theorem State.MemWf.regroupClass {s : State} {gs : List (ℕ × Gang)} (h : s.MemWf) : (s.regroupClass gs).MemWf := by
  refine .ite (h.foldl (fun _ _ h1 => h1.setGang)) (h.foldl (fun s1 x h1 => ?_))
  split
  · exact h1.setGang
  · exact h1.setGang
  · exact h1

theorem State.MemWf.askTick {s : State} (h : s.MemWf) : s.askTick.MemWf := by
  refine h.foldl fun s1 x h1 => ?_
  split
  · exact h1.modGang
  · exact h1

theorem State.MemWf.stopGang {s : State} {k : ℕ} {g : Gang} (h : s.MemWf) : (s.stopGang k g).MemWf := by
  unfold State.stopGang
  split
  · exact .ite h (.ite h.setGang h.setGang)
  · exact h

theorem State.MemWf.stopTick {s : State} {t : ℕ} (h : s.MemWf) : (s.stopTick t).MemWf := by
  unfold State.stopTick
  split
  · exact h
  · refine .ite (.ite h.dropTeam h) ?_
    extract_lets -underBinder s1
    have h1 : s1.MemWf := by
      refine h.foldl fun s2 x h1 => ?_
      split
      · split
        · exact .ite h1.stopGang.sched h1.stopGang
        · exact h1
      · exact h1
    exact .ite (.ite h1.dropTeam h1.vacate) h1

theorem State.MemWf.stealTick {s : State} {lid : ℕ} {l : Launch} {thief : ℕ} (h : s.MemWf) : (s.stealTick lid l thief).MemWf := by
  refine .ite h (.ite h ?_)
  split
  · exact h
  · exact h.sched

theorem State.MemWf.loneTick {s : State} (h : s.MemWf) : s.loneTick.MemWf := h

/-! ## Firmware services -/

theorem State.MemWf.ready {s : State} {ctx die : ℕ} {k : AccKind} {ptr : DWord} {n : ℕ} {pull : Bool}
    (h : s.MemWf) : (s.ready ctx die k ptr n pull).2.MemWf := by
  unfold State.ready
  extract_lets -underBinder w s1
  have hw : w.2.MemWf := h.dieWalks
  have h1 : s1.MemWf := hw
  split
  · exact hw
  · split
    · exact h1.serveCause
    · split
      · exact h1.startPull
      · exact h1
    · exact h1

theorem State.MemWf.clearRange {s : State} {a n : ℕ} (h : s.MemWf) : (s.clearRange a n).MemWf := Memory.wf_filter _ h

theorem State.MemWf.newTable {s t : State} {ctx pa : ℕ} (h : s.MemWf) (e : s.newTable ctx = some (pa, t)) : t.MemWf := by
  unfold State.newTable at e
  split at e
  · exact nomatch e
  next ha =>
    cases e
    exact (h.areaTake ha).clearRange

theorem State.MemWf.needRoot {s t : State} {ctx : ℕ} (h : s.MemWf) (e : s.needRoot ctx = some t) : t.MemWf := by
  unfold State.needRoot at e
  split at e
  · exact Option.some.inj e ▸ h
  · split at e
    · exact nomatch e
    next hn =>
      split at e
      · exact nomatch e
      next ha =>
        have ht := State.MemWf.areaTake (h.newTable hn) ha
        cases e
        exact ht

theorem State.MemWf.slotAt {s : State} {ctx va target : ℕ} {make : Bool} {a5 a6 : ℕ} (h : s.MemWf) : (s.slotAt ctx va target make a5 a6).2.MemWf := by
  induction a5 generalizing s ctx va target make a6 with
  | zero =>
    exact h
  | succ n ih =>
    unfold State.slotAt
    extract_lets -underBinder
    split
    · exact h
    · split
      · split
        · exact h
        · exact ih h
      · split
        · exact h
        · split
          · exact h
          next e => exact ih ((h.newTable e).tableWrite)

theorem State.MemWf.homeCount {s : State} {e : DWord} {n : ℕ} {add : Bool} (h : s.MemWf) : (s.homeCount e n add).MemWf :=
  .ite h (.ite h (.ite h h))

theorem State.MemWf.watchPage {s : State} {ctx va n : ℕ} (h : s.MemWf) : (s.watchPage ctx va n).MemWf :=
  h.foldl fun _ _ h1 => h1.bumpVersion

theorem State.MemWf.mapinsPage {s : State} {ctx va pfn size : ℕ} {tmpl : DWord} (h : s.MemWf) : (s.mapinsPage ctx va tmpl pfn size).2.2.MemWf := by
  unfold State.mapinsPage
  extract_lets n e st
  split
  · exact h
  · split
    · exact h
    · split
      next hs => exact .of_snd hs h.slotAt
      next hs =>
        have h1 := State.MemWf.of_snd hs h.slotAt
        extract_lets old beneath taken room s2 s3 s4
        have h2 : s2.MemWf := .ite (h1.foldl fun _ _ hu => hu.areaFree) h1
        have h3 : s3.MemWf := State.MemWf.homeCount (.tableWrite h2)
        clear_value s3
        have h4 : s4.MemWf := .ite (.invalidate h3) h3
        clear_value s4 taken room
        split
        · exact h1
        · split
          · exact h1
          · exact h4.watchPage.wakePages

theorem State.MemWf.mapinsLoop {s : State} {ctx va : ℕ} {tmpl : DWord} {size a5 a6 : ℕ} {a7 : Bool}
    (h : s.MemWf) : (s.mapinsLoop ctx va tmpl size a5 a6 a7).2.MemWf := by
  induction a5 generalizing s ctx va tmpl size a6 a7 with
  | zero =>
    exact h
  | succ n ih =>
    unfold State.mapinsLoop
    split
    next e => exact ih (.of_thd e h.mapinsPage)
    next e => exact .of_thd e h.mapinsPage

theorem State.MemWf.doMapins {s : State} {ctx va : ℕ} {tmpl : DWord} {count size : ℕ}
    (h : s.MemWf) : (s.doMapins ctx va tmpl count size).2.MemWf := by
  unfold State.doMapins
  split
  · exact h
  · split
    · exact h
    · split
      · exact h
      next e => exact (h.needRoot e).mapinsLoop

theorem State.MemWf.mapremPage {s t : State} {ctx va size : ℕ} (h : s.MemWf) (e : s.mapremPage ctx va size = some t) : t.MemWf := by
  unfold State.mapremPage at e
  split at e
  · exact nomatch e
  · split at e
    · extract_lets at e
      split at e
      · exact nomatch e
      · split at e
        · exact Option.some.inj e ▸ h.tableWrite.invalidate
        · split at e
          · exact Option.some.inj e ▸ h.tableWrite.homeCount.invalidate.watchPage
          · exact nomatch e
    · exact nomatch e

theorem State.MemWf.mapremLoop {s : State} {ctx va size a4 a5 : ℕ} (h : s.MemWf) : (s.mapremLoop ctx va size a4 a5).2.MemWf := by
  induction a4 generalizing s ctx va size a5 with
  | zero =>
    exact h
  | succ n ih =>
    unfold State.mapremLoop
    split
    next e => exact ih (h.mapremPage e)
    · exact h

theorem State.MemWf.doMaprem {s : State} {ctx va count size : ℕ} (h : s.MemWf) : (s.doMaprem ctx va count size).2.MemWf := by
  unfold State.doMaprem
  split
  · exact h
  · exact h.mapremLoop

theorem State.MemWf.pullBytes {s : State} {a bytes : ℕ} (h : s.MemWf) : (s.pullBytes a bytes).MemWf :=
  writeBytes_wf _ h _

theorem State.MemWf.pulled {s : State} {ctx page : ℕ} (h : s.MemWf) : (s.pulled ctx page).MemWf := by
  unfold State.pulled
  split
  · exact h
  · refine .ite h ?_
    extract_lets -underBinder s1 s2
    have h1 : s1.MemWf := .ite h.pullBytes h
    have h2 : s2.MemWf := h1.tableWrite.dropTlb.watchPage
    exact h2.wakePages.wakePages

theorem State.MemWf.pullLost {s : State} {ctx page : ℕ} (h : s.MemWf) : (s.pullLost ctx page).MemWf := by
  unfold State.pullLost
  split
  · exact h
  · extract_lets s1 s2 _ s3
    have h1 : s1.MemWf := h.tableWrite.invalidate
    have h2 : s2.MemWf := by
      refine h1.foldl fun u r hu => .ite hu (hu.foldl fun v b hv => ?_)
      split
      · exact hv
      · exact .ite hv.failPart hv
    have h3 : s3.MemWf := h2
    exact h3.wakePages.watchPage

theorem State.MemWf.service {s : State} {f : ℕ → Gang → ℕ → (ℕ → ℕ) → State}
    (h : s.MemWf) (hf : ∀ k g ctx a, (f k g ctx a).MemWf) : EndsWf (s.service f) := by
  unfold State.service
  extract_lets -underBinder
  split
  · exact h.next
  · exact (hf _ _ _ _).next

theorem State.MemWf.fwEnd {s : State} {k status : ℕ} {res : List (ℕ × DWord)} (h : s.MemWf) : (s.fwEnd k status res).MemWf := by
  unfold State.fwEnd
  split
  · exact h
  · split
    · exact h
    · exact h.landVar.modGang

theorem State.MemWf.mapEnd {s : State} {k ctx : ℕ} {ev : Instr} {r : MapRes} (h : s.MemWf) : (s.mapEnd k ctx ev r).MemWf :=
  .ite h.sched h.fwEnd

theorem State.MemWf.fwBuffer {s : State} {k ctx : ℕ} {ev : Instr} {write : Bool} {a n : ℕ} {f : State → State}
    (h : s.MemWf) (hf : ∀ u, u.MemWf → (f u).MemWf) : (s.fwBuffer k ctx ev write a n f).MemWf := by
  unfold State.fwBuffer
  extract_lets -underBinder
  split
  next e => exact hf _ (.ite (.of_snd e h.ready) (.readRecs (.of_snd e h.ready)))
  next e => exact .fwEnd (.of_snd e h.ready)
  next e => exact .sched (.of_snd e h.ready)

/-! ## Casux command queues -/

theorem State.MemWf.modQueue {s : State} {q : ℕ} {f : Queue → Queue} (h : s.MemWf) : (s.modQueue q f).MemWf := h

theorem State.MemWf.qsendPeer {s : State} {x : Iss} {qd : Fin 8} {peer qid : ℕ} {v : Word} (h : s.MemWf) : (s.qsendPeer x qd peer qid v).MemWf := by
  unfold State.qsendPeer
  split
  · exact h.logGang.answerQ
  · refine .ite h.modQueue.answerQ ?_
    split
    · extract_lets -underBinder _ s2
      have h2 : s2.MemWf := by
        rename_i e _
        exact (State.MemWf.of_snd e h.drawFree :)
      split
      · exact h2
      · exact h2.setGang.answered

theorem State.MemWf.wakeQueue {s : State} {ctx qid : ℕ} {v : Word} (h : s.MemWf) : (s.wakeQueue ctx qid v).MemWf := by
  unfold State.wakeQueue
  split
  · exact h.modQueue
  · exact h.modQueue

theorem State.MemWf.cmdRecord {s : State} {ctx cause access : ℕ} {ptr : DWord} (h : s.MemWf) : (s.cmdRecord ctx cause access ptr).MemWf := h

theorem State.MemWf.gateOne {s : State} {x : Queue} {k : AccKind} {ptr : DWord} {n : ℕ} (h : s.MemWf) : (s.gateOne x k ptr n).2.MemWf := by
  unfold State.gateOne
  split
  next e => exact .cmdRecord (.of_snd e h.ready)
  · exact h.ready

theorem State.MemWf.readSlot {s : State} {q : Queue} (h : s.MemWf) : (s.readSlot q).2.MemWf := by
  unfold State.readSlot
  extract_lets -underBinder
  split
  next e => exact .of_snd e h.gateOne
  next e => exact .of_snd e h.gateOne
  · split
    next e _ _ _ => exact .readRecs (.of_snd e h.gateOne)
    next e _ _ _ => exact .of_snd e h.gateOne

theorem State.MemWf.mirrorLater {s : State} {qid : ℕ} {q : Queue} (h : s.MemWf) : (s.mirrorLater qid q).MemWf :=
  .ite h h.sched

theorem State.MemWf.sendSignal {s : State} {x : Queue} {addr : DWord} {tag status qid detail : ℕ}
    (h : s.MemWf) : (s.sendSignal x addr tag status qid detail).2.MemWf := by
  unfold State.sendSignal
  split
  next e => exact .vwrite (.of_snd e h.gateOne)
  next e => exact .of_snd e h.gateOne
  next e => exact .of_snd e h.gateOne

theorem State.MemWf.staleSignal {s : State} {qid : ℕ} (h : s.MemWf) : (s.staleSignal qid).MemWf := by
  unfold State.staleSignal
  split
  · exact h
  · split
    next e => exact .of_snd e h.sendSignal
    next e => exact .sched (.of_snd e h.sendSignal)

theorem State.MemWf.readEntry {s : State} {qid : ℕ} {again : Bool} (h : s.MemWf) : (s.readEntry qid again).MemWf := by
  unfold State.readEntry
  split
  · exact h
  · refine .ite h ?_
    extract_lets -underBinder
    split
    next e => exact .sched (.of_snd e h.readSlot)
    next e => exact .mirrorLater (.modQueue (.of_snd e h.readSlot))
    next e => exact .ite (.sched (.modQueue (.of_snd e h.readSlot))) (.staleSignal (.modQueue (.of_snd e h.readSlot)))

theorem State.MemWf.modEntry {s : State} {q i : ℕ} {f : Entry → Entry} (h : s.MemWf) : (s.modEntry q i f).MemWf := h

theorem State.MemWf.entryGone {s : State} {q i : ℕ} (h : s.MemWf) : (s.entryGone q i).MemWf := h

theorem State.MemWf.entryEnd {s : State} {q i status : ℕ} {detail : Option ℕ} (h : s.MemWf) : (s.entryEnd q i status detail).MemWf := by
  unfold State.entryEnd
  split
  · exact h
  · refine .ite h.entryGone ?_
    split
    next e => exact .entryGone (.of_snd e h.sendSignal)
    next e => exact .sched (.modEntry (.of_snd e h.sendSignal))

theorem State.MemWf.startEntry {s : State} {q i : ℕ} (h : s.MemWf) : (s.startEntry q i).MemWf := by
  unfold State.startEntry
  split
  · exact h
  · extract_lets -underBinder s1
    have h1 : s1.MemWf := h
    split
    · exact h1.entryEnd
    · exact h1.entryEnd
    · exact .ite h1.entryEnd h1.sched

theorem State.MemWf.command {s : State} {f : ℕ → ℕ → Queue → Entry → State}
    (h : s.MemWf) (hf : ∀ q i x e, (f q i x e).MemWf) : EndsWf (s.command f) := by
  unfold State.command
  extract_lets -underBinder
  split
  · exact h.next
  · exact .next (.ite h (hf _ _ _ _))

theorem State.MemWf.gateAll {s : State} {x : Queue} {a2 : List (AccKind × DWord × ℕ)} (h : s.MemWf) : (s.gateAll x a2).2.MemWf := by
  induction a2 generalizing s x with
  | nil =>
    exact h
  | cons y l ih =>
    unfold State.gateAll
    split
    · split
      next e1 _ _ e => exact .ite (.of_snd e (ih (.of_snd e1 h.gateOne))) (.readRecs (.of_snd e (ih (.of_snd e1 h.gateOne))))
      next e _ _ => exact ih (.of_snd e h.gateOne)
    · exact h.gateOne

theorem State.MemWf.withBuffers {s : State} {q i : ℕ} {x : Queue} {ev : Instr} {l : List (AccKind × DWord × ℕ)} {f : State → State}
    (h : s.MemWf) (hf : ∀ u, u.MemWf → (f u).MemWf) : (s.withBuffers q i x ev l f).MemWf := by
  unfold State.withBuffers
  split
  next e => exact hf _ (.of_snd e h.gateAll)
  next e => exact .entryEnd (.of_snd e h.gateAll)
  next e => exact .sched (.of_snd e h.gateAll)

theorem State.MemWf.startLaunch {s t : State} {q i : ℕ} {x : Queue} {e : Entry} {o : Obj} {k h' : List Byte} {params : List (ℕ × DWord)}
    {ext wid : List ℕ} (h : s.MemWf) (he : s.startLaunch q i x e o k h' params ext wid = .ok t) : t.MemWf := by
  unfold State.startLaunch at he
  extract_lets at he
  split at he
  · exact nomatch he
  · cases he
    exact h

theorem State.MemWf.taskRecords {s : State} {q i : ℕ} {x : Queue} {die : ℕ} {e : Entry} {a6 a7 : ℕ}
    (h : s.MemWf) : (s.taskRecords q i x die e a6 a7).MemWf := by
  induction a6 generalizing s q i x die e a7 with
  | zero =>
    exact h.entryEnd
  | succ n ih =>
    unfold State.taskRecords
    split
    next e => exact ih (.of_snd e h.submit)
    next e => exact .modEntry (.of_snd e h.submit)
    next e => exact .entryEnd (.of_snd e h.submit)

theorem State.MemWf.doSignal {s : State} {q i : ℕ} {x : Queue} {e : Entry} {ev : Instr} {f : ℕ → ℕ} (h : s.MemWf) : (s.doSignal q i x e ev f).MemWf :=
  .ite h.entryEnd (.ite h.entryEnd (h.withBuffers (fun _ h1 => .sched (.ite h1 h1.vwrite))))

theorem State.MemWf.cmdMapEnd {s : State} {q i ctx : ℕ} {ev : Instr} {r : MapRes} (h : s.MemWf) : (s.cmdMapEnd q i ctx ev r).MemWf :=
  .ite h.sched h.entryEnd

theorem State.MemWf.retryQsend {s : State} {id k qid : ℕ} {v : Word} (h : s.MemWf) : (s.retryQsend id k qid v).MemWf := by
  unfold State.retryQsend
  split
  · exact h.uncDone
  · split
    · exact h.uncStay
    · exact h.wakeQueue.uncDone

theorem State.MemWf.cmdAt {α : Type} {s : State} {x : Queue} {ptr : DWord} {write : Bool} {p : CmdPass} {f : State → Except ℕ α × State}
    (h : s.MemWf) (hf : ∀ u, u.MemWf → (f u).2.MemWf) : (s.cmdAt x ptr write p f).2.MemWf := by
  unfold State.cmdAt
  extract_lets -underBinder w
  have hw : w.2.MemWf := h.dieWalks
  split
  · exact hw
  · split
    next e => exact .of_snd e (hf _ hw)
    next e => exact .of_snd e (hf _ hw)

theorem State.MemWf.cmdBlock {s : State} {ctx : ℕ} {ptr : DWord} (h : s.MemWf) : (s.cmdBlock ctx ptr).2.MemWf := by
  unfold State.cmdBlock
  split
  · exact h
  · extract_lets -underBinder
    split
    · exact h.cmdRecord
    · split
      · extract_lets -underBinder s2
        have h2 : s2.MemWf := by
          unfold s2
          split
          next e => exact .of_fth e h.readHome
          next e => exact .cmdRecord (.of_fth e h.readHome)
        exact h2

theorem State.MemWf.cmdPut {s : State} {ctx : ℕ} {ptr : DWord} {data : List Byte} {desc : Option (BitVec 16)}
    (h : s.MemWf) : (s.cmdPut ctx ptr data desc).2.MemWf := by
  unfold State.cmdPut
  split
  · exact h
  · extract_lets -underBinder _ _ s1
    have h1 : s1.MemWf := h.writeAt
    split
    · exact h.cmdRecord
    · split
      · exact h1
      · exact h1.setDesc

theorem State.MemWf.cmdSpans {s : State} {x : Queue} {desc : Option (BitVec 16)} {a3 : List (ℕ × ℕ)} {a4 : List Byte} {a5 : CmdPass}
    (h : s.MemWf) : (s.cmdSpans x desc a3 a4 a5).2.MemWf := by
  induction a3 generalizing s x desc a4 a5 with
  | nil =>
    exact h
  | cons y l ih =>
    unfold State.cmdSpans
    extract_lets -underBinder
    split
    next e => exact .of_snd e (h.cmdAt (fun _ h1 => h1.cmdPut))
    next e => exact ih (.of_snd e (h.cmdAt (fun _ h1 => h1.cmdPut)))

theorem State.MemWf.cmdCcb {s : State} {x : Queue} {y : Ccb} {a3 a4 : ℕ} {a5 : CmdPass} (h : s.MemWf) : (s.cmdCcb x y a3 a4 a5).2.MemWf := by
  induction a3 generalizing s x y a4 a5 with
  | zero =>
    exact h
  | succ n ih =>
    unfold State.cmdCcb
    extract_lets -underBinder
    split
    · exact h
    · split
      next e => exact .of_snd e (h.cmdAt (fun _ h1 => h1.cmdBlock))
      · split
        · split
          next e1 _ _ _ e _ => exact .of_snd e (.cmdSpans (.of_snd e1 (h.cmdAt (fun _ h1 => h1.cmdBlock))))
          next e1 _ _ _ e _ => exact ih (.of_snd e (.cmdSpans (.of_snd e1 (h.cmdAt (fun _ h1 => h1.cmdBlock)))))

theorem State.MemWf.cmdChain {s : State} {x : Queue} {a2 : ℕ} {a3 : DWord} {a4 : CmdPass} (h : s.MemWf) : (s.cmdChain x a2 a3 a4).2.MemWf := by
  induction a2 generalizing s x a3 a4 with
  | zero =>
    exact h
  | succ n ih =>
    unfold State.cmdChain
    split
    · exact h
    · split
      next e => exact .of_snd e (h.cmdAt (fun _ h1 => h1.cmdBlock))
      · split
        next e _ _ => exact .of_snd e (h.cmdAt (fun _ h1 => h1.cmdBlock))
        · extract_lets -underBinder r
          have hr : r.2.MemWf := by
            rename_i e _ _ _
            exact .cmdCcb (.of_snd e (h.cmdAt (fun _ h1 => h1.cmdBlock)))
          split
          · exact hr
          · exact ih hr

theorem State.MemWf.cmdCopy {s : State} {q i : ℕ} (h : s.MemWf) : (s.cmdCopy q i).MemWf := by
  unfold State.cmdCopy
  split
  · exact h
  · refine .ite h (.ite h.entryEnd ?_)
    split
    · split
      next e _ _ => exact .sched (.of_snd e h.cmdChain)
      next e _ _ _ _ _ => exact .ite h.entryEnd (.ite h.sched (.ite h.serveCause.sched (.ite h.startPull.sched (.ite h.cmdRecord.entryEnd (.sched (.cmdRecord (.of_snd e h.cmdChain)))))))

theorem State.MemWf.pumpQueue {s : State} {qid : ℕ} (h : s.MemWf) : (s.pumpQueue qid).MemWf := by
  unfold State.pumpQueue
  split
  · exact h
  · extract_lets -underBinder _ s1 s2
    have h1 : s1.MemWf := .ite h.sched h
    have h2 : s2.MemWf := by
      unfold s2
      split
      · exact h1
      · exact .ite (.ite h1 h1.sched) h1.startEntry
      · exact .ite h1 h1.sched
    refine h2.foldl (fun s3 x h3 => .ite h3 (.ite ?_ (.ite (.ite h3 h3.sched) h3)))
    split
    · exact h3
    · exact .ite h3 h3.sched

/-! ## Management commands, flash images, module reset, ports, connections and arriving RMA -/

theorem State.MemWf.portBack {s : State} {port : ℕ} (h : s.MemWf) : (s.portBack port).MemWf := by
  refine h.foldl (fun s1 x h1 => h1.foldl (fun s2 x1 h2 => ?_))
  split
  · exact h2
  · split
    · exact .ite h2.sched h2
    · exact h2

theorem State.MemWf.peersGone {s : State} {conn : ℕ} (h : s.MemWf) : (s.peersGone conn).MemWf :=
  h.foldl fun _ _ h1 => h1.peerGone

theorem State.MemWf.event {s : State} {what : ℕ} (h : s.MemWf) : (s.event what).MemWf := h

theorem State.MemWf.rmaRecord {s : State} {ctx cause : ℕ} {at_ : DWord} (h : s.MemWf) : (s.rmaRecord ctx cause at_).MemWf := h

theorem State.MemWf.rmaSpan {s : State} {ctx die : ℕ} {k : AccKind} {at_ : DWord} (h : s.MemWf) : (s.rmaSpan ctx die k at_).2.MemWf := by
  unfold State.rmaSpan
  extract_lets -underBinder
  split
  · exact h
  · split
    · exact h
    · exact h
    · exact h
    · exact h.serveCause
    · exact h.startPull
    · exact h.rmaRecord

theorem State.MemWf.rmaCheck {s : State} {c : Conn} {k : AccKind} {addr : DWord} {n : ℕ} (h : s.MemWf) : (s.rmaCheck c k addr n).2.MemWf := by
  unfold State.rmaCheck
  extract_lets die w
  have hw : w.2.MemWf := h.dieWalks
  split
  · exact hw
  · refine foldl_memWf Prod.snd (fun r x hr => ?_) _ hw
    split
    · exact hr.rmaSpan
    · exact hr

theorem State.MemWf.rma {s : State} {conn : ℕ} {k : AccKind} {addr : DWord} {n : ℕ} {ev : Instr} {f : Conn → State → State}
    (h : s.MemWf) (hf : ∀ c u, u.MemWf → (f c u).MemWf) : EndsWf (s.rma conn k addr n ev f) := by
  unfold State.rma
  split
  · exact h.next
  · refine .ite h.next (.ite h.next (.ite (.next h) (.ite h.reply.next (.ite (.next (.ite h.sched h.takeFresh.sched)) (.ite h.reply.next ?_)))))
    beta_reduce
    split
    next e => exact .next (.reply (.of_snd e h.rmaCheck))
    next e => exact .next (.reply (.of_snd e h.rmaCheck))
    next e => exact .next (.ite (.sched (.of_snd e h.rmaCheck)) (.sched (.takeFresh (.of_snd e h.rmaCheck))))
    next e => exact .ite (.next (.ite (.sched (.of_snd e h.rmaCheck)) (.sched (.takeFresh (.of_snd e h.rmaCheck))))) ((hf _ _ (.of_snd e h.rmaCheck)).next)

theorem State.MemWf.rmaPut {s : State} {ctx : ℕ} {at_ : DWord} {data : List Byte} (h : s.MemWf) : (s.rmaPut ctx at_ data).2.MemWf := by
  unfold State.rmaPut
  split
  · exact h.rmaRecord
  · split
    · exact h.rmaRecord
    · exact h.writeAt.setTag.sliceTouch

theorem State.MemWf.rmaBlock {s : State} {conn ctx : ℕ} {at_ : DWord} {n : ℕ} (h : s.MemWf) : (s.rmaBlock conn ctx at_ n).2.MemWf := by
  unfold State.rmaBlock
  split
  · exact h.rmaRecord
  · extract_lets -underBinder
    split
    · exact h.rmaRecord
    · split
      · extract_lets -underBinder s2 _ _ s3
        have h2 : s2.MemWf := by
          unfold s2
          split
          next e _ _ => exact .of_fth e h.readHome
          next e _ _ => exact .rmaRecord (.of_fth e h.readHome)
        have h3 : s3.MemWf := .ite h2.grantLease h2
        split
        · exact h2
        · exact h3.sliceTouch

theorem State.MemWf.fatalError {s : State} {what : ℕ} (h : s.MemWf) : (s.fatalError what).MemWf := h

theorem State.MemWf.syncStep {s : State} {offset : ℤ} (h : s.MemWf) : (s.syncStep offset).MemWf :=
  .ite h h

theorem State.MemWf.setLock {s : State} {on : Bool} (h : s.MemWf) : (s.setLock on).MemWf := by
  refine .ite h ?_
  extract_lets -underBinder _ s1
  have h1 : s1.MemWf := h
  exact .ite h1 h1

theorem State.MemWf.setMhz {s : State} {die n : ℕ} (h : s.MemWf) : (s.setMhz die n).MemWf := by
  unfold State.setMhz
  extract_lets -underBinder _ _ _ _ _ _ s1
  have h1 : s1.MemWf := h
  exact h1.foldl (fun _ _ h2 => .ite (h2.foldl (fun _ _ h3 => h3.sched)) h2)

theorem State.MemWf.cold {s : State} : s.cold.MemWf := reset_memory_wf

theorem State.MemWf.recover {s : State} {step : ℕ} (h : s.MemWf) : (s.recover step).MemWf := h

theorem State.MemWf.useCfg {s : State} {slot : ℕ} (h : s.MemWf) : (s.useCfg slot).MemWf := h

theorem State.MemWf.useFw {s : State} {slot : ℕ} (h : s.MemWf) : (s.useFw slot).MemWf := h

theorem State.MemWf.manage {s : State} {own : Bool} {f : ℕ → ℕ → Queue → Entry → State}
    (h : s.MemWf) (hf : ∀ q i x e, (f q i x e).MemWf) : EndsWf (s.manage own f) :=
  h.command (fun _ _ _ _ => .ite h.entryEnd (.ite h.entryEnd (hf _ _ _ _)))

theorem State.MemWf.writeResult {s : State} {q i : ℕ} {x : Queue} {ev : Instr} {at_ : DWord} {bs : List Byte}
    (h : s.MemWf) : (s.writeResult q i x ev at_ bs).MemWf :=
  .ite h.entryEnd (h.withBuffers (fun _ h1 => h1.vwrite.sched))

theorem State.MemWf.queueGone {s : State} {t q i : ℕ} (h : s.MemWf) : (s.queueGone t q i).MemWf := by
  unfold State.queueGone
  split
  · exact h
  · exact .ite h h.sched

theorem State.MemWf.ctxStop {s : State} {ctx q : ℕ} (h : s.MemWf) : (s.ctxStop ctx q).MemWf := by
  unfold State.ctxStop
  extract_lets -underBinder _ _ s1 s1' _ s2
  have h1 : s1.MemWf := h
  have h1' : s1'.MemWf := h1.dropTasks
  have h2 : s2.MemWf := h1'.foldl fun _ _ h2 => h2.abortScope
  exact h2.foldl fun _ _ h3 => h3.killTeam

theorem State.MemWf.ctxClear {s : State} {ctx : ℕ} (h : s.MemWf) : (s.ctxClear ctx).MemWf := by
  unfold State.ctxClear
  extract_lets -underBinder _ s'
  have h' : s'.MemWf := h.dropTasks
  exact h'

theorem State.MemWf.dropLaunches {s : State} {ctx q : ℕ} (h : s.MemWf) : (s.dropLaunches ctx q).MemWf :=
  h.foldl fun _ _ h1 => h1.entryGone

/-! ## The reissue port of a cluster or control core, and cistern entries as they are written out -/

theorem State.MemWf.reissueReq {s : State} {r : ℕ} (h : s.MemWf) : (s.reissueReq r).MemWf := by
  unfold State.reissueReq
  split
  · exact h
  · refine h.foldl fun s1 x h1 => ?_
    split
    · exact h1.sendPart
    · exact h1

theorem State.MemWf.reissueOp {s : State} {id : ℕ} (h : s.MemWf) : (s.reissueOp id).MemWf := by
  unfold State.reissueOp
  split
  · exact h.mapOps
  · split
    · exact h
    · extract_lets -underBinder _ _ _ _ s1
      have h1 : s1.MemWf := h
      exact h1.setCopies.sched

theorem State.MemWf.reissueUnc {s : State} {id : ℕ} (h : s.MemWf) : (s.reissueUnc id).MemWf := by
  unfold State.reissueUnc
  split
  · exact h
  · split
    · exact h.retrySub
    · exact h.retryFapp
    · exact h.retryQsend
    · exact h.uncDone

theorem State.MemWf.uncTick {s : State} (h : s.MemWf) : s.uncTick.MemWf := by
  refine h.foldl fun s1 x h1 => ?_
  split
  · exact h1
  · refine .ite h1 ?_
    extract_lets -underBinder _ _ s1'
    have h1' : s1'.MemWf := h1
    split
    · exact h1'.kickReissue
    · exact h1'

theorem State.MemWf.overTick {s : State} {a1 : ℕ} {tm : Team} (h : s.MemWf) : (s.overTick a1 tm).MemWf := by
  refine .ite h (h.foldl (fun s1 x h1 => ?_))
  split
  · exact h1
  · exact h1.foldl fun _ _ h2 => writeBytes_wf _ h2 _

/-! ## Strikes, the debugger, unassigned encodings, the lane-cycle census, sampled loads, record and replay sessions -/

theorem State.MemWf.sessStart {s : State} {replay : Bool} {k ctx : ℕ} {a : ℕ → ℕ} (h : s.MemWf) : (s.sessStart replay k ctx a).MemWf := by
  refine .ite h.fwEnd (.ite h.fwEnd (h.fwBuffer (fun u1 h1 => h1.fwBuffer (fun u2 h2 => ?_))))
  extract_lets -underBinder
  split
  · exact h.fwEnd
  · refine .ite h.fwEnd ?_
    extract_lets -underBinder _ _ s3 s4 s5
    have h3 : s3.MemWf := h2.vwrite
    have h4 : s4.MemWf := h3.vwrite
    have h5 : s5.MemWf := .ite h4 (.vwrite (.vwrite (.vwrite h4.vwrite)))
    exact .fwEnd h5

theorem State.MemWf.breakTick {s : State} {i : ℕ} (h : s.MemWf) : (s.breakTick i).MemWf := by
  unfold State.breakTick
  split
  · exact h
  · dsimp only
    split
    · exact h
    · split
      · exact h
      · exact .ite (.ite h (.modGang (.sched h))) (.ite h h)

/-! ## What is looked at once in each clk, before the issue turns -/

theorem State.MemWf.eachTeam {s : State} {f : State → ℕ → Team → State}
    (h : s.MemWf) (hf : ∀ u t tm, u.MemWf → (f u t tm).MemWf) : (s.eachTeam f).MemWf := by
  refine h.foldl fun s1 x h1 => ?_
  split
  · exact h1
  · exact hf _ _ _ h1

theorem State.MemWf.idleTick {s : State} (h : s.MemWf) : s.idleTick.MemWf := by
  refine h.foldl (fun s1 x h1 => h1.foldl (fun s2 x1 h2 => ?_))
  split
  · exact h2.sendPart
  · exact h2

theorem State.MemWf.eachGang {s : State} {f : State → ℕ → Gang → State}
    (h : s.MemWf) (hf : ∀ u k g, u.MemWf → (f u k g).MemWf) : (s.eachGang f).MemWf := by
  refine h.foldl fun s1 x h1 => ?_
  split
  · exact h1
  · exact hf _ _ _ h1

theorem State.MemWf.settleTick {s : State} {k : ℕ} {g : Gang} (h : s.MemWf) : (s.settleTick k g).MemWf := h

theorem State.MemWf.waitTick {s : State} {k : ℕ} {lanes : Mask} (h : s.MemWf) : (s.waitTick k lanes).MemWf := by
  unfold State.waitTick
  split
  · exact h
  · split
    · exact h
    · split
      · exact .ite h.resume h
      · exact .ite h.sched h
      · exact .ite h.bowaitTry h
      · exact .ite h.resume h
      · exact .ite h.resume h
      · exact .ite h.modGang h
      · exact .ite h.rsvResume h
      · exact h.unitResume
      · exact h.workResume
      · exact h
      · exact h
      · exact h
      · exact h
      · exact h
      · exact h

theorem State.MemWf.barClose {s : State} {t : ℕ} {gs : List (ℕ × Gang)} (h : s.MemWf) : (s.barClose t gs).MemWf := by
  unfold State.barClose
  extract_lets -underBinder s1 s2
  have h1 : s1.MemWf := h.foldl fun _ _ h1 => h1.setGang
  have h2 : s2.MemWf := h1.closeGroup
  exact h2.foldl fun _ _ h3 => h3.setGang

theorem State.MemWf.barTick {s : State} {t : ℕ} {tm : Team} (h : s.MemWf) : (s.barTick t tm).MemWf :=
  .ite h (.ite (.ite h.barClose h) (.ite ((h.foldl (fun _ _ h1 => h1.setGang)).modTeam) h))

theorem State.MemWf.succTick {s : State} (h : s.MemWf) : s.succTick.MemWf := by
  refine h.foldl fun s1 x h1 => ?_
  split
  · exact .ite h1.retrySucc h1
  · exact h1

theorem State.MemWf.inboxTick {s : State} (h : s.MemWf) : s.inboxTick.MemWf := by
  refine h.foldl fun s1 x h1 => ?_
  split
  · exact h1
  · exact .ite h1.tdloadDone h1.tasksubRead

theorem State.MemWf.unitTick {s : State} (h : s.MemWf) : s.unitTick.MemWf := by
  unfold State.unitTick
  extract_lets -underBinder s1 s2 s3
  have h1 : s1.MemWf := h.foldl fun _ _ h1 => h1.tileStart.engineRelease
  have h2 : s2.MemWf := h1.foldl fun _ _ h2 => h2.copyStart
  have h3 : s3.MemWf := by
    refine h2.foldl fun s4 x h3 => ?_
    split
    · split
      · exact h3.commitStep
      · exact h3.scopeTick
    · exact h3
  exact h3.foldl fun _ _ h4 => h4.compactTick

theorem State.MemWf.endTick {s : State} {k : ℕ} {g : Gang} (h : s.MemWf) : (s.endTick k g).MemWf := by
  unfold State.endTick
  split
  · exact h.sessExit.drainTaken.modGang
  · exact .ite h.modGang h
  · exact h

theorem State.MemWf.teamEnd {s : State} {t : ℕ} {tm : Team} (h : s.MemWf) : (s.teamEnd t tm).MemWf := by
  refine .ite h ?_
  dsimp only
  split
  · refine .ite (.ite h.closeGroup.modTeam h) (.ite h ?_)
    split
    · exact h.modTeam.mrel.abortScope
    · exact h.modTeam.mrel
  · split
    · exact h.modTeam.mrel.abortScope
    · exact h.modTeam.mrel

theorem State.MemWf.teamReap {s : State} {t : ℕ} {tm : Team} (h : s.MemWf) : (s.teamReap t tm).MemWf := by
  refine .ite h ?_
  split
  · extract_lets -underBinder s1
    have h1 : s1.MemWf := h.dropTeam
    split
    · exact h1
    · extract_lets -underBinder _ s2
      have h2 : s2.MemWf := h1
      exact .ite h2.sched h2
  · extract_lets -underBinder _ s1
    have h1 : s1.MemWf := .dropTeam (.ite h.setTeam h)
    exact .sched h1

theorem State.MemWf.debugTick {s : State} {k : ℕ} {g : Gang} (h : s.MemWf) : (s.debugTick k g).MemWf := by
  unfold State.debugTick
  split
  · exact .ite h.stopGang h
  · exact .ite h.stopGang h
  · exact h

theorem State.MemWf.waitNote {s : State} {k : ℕ} {g : Gang} (h : s.MemWf) : (s.waitNote k g).MemWf :=
  .ite (.ite h h.setGang) (.ite h.setGang h)

theorem State.MemWf.estivTick {s : State} {t : ℕ} {tm : Team} (h : s.MemWf) : (s.estivTick t tm).MemWf := by
  refine .ite h (.ite ?_ (.ite h.setTeam h))
  extract_lets -underBinder _ s1
  have h1 : s1.MemWf := .ite h h.setTeam
  exact .ite h1.sched h1

theorem State.MemWf.wakeTick {s : State} {t : ℕ} {tm : Team} (h : s.MemWf) : (s.wakeTick t tm).MemWf :=
  .ite h.sched h

theorem State.MemWf.schedTick {s : State} (h : s.MemWf) : s.schedTick.MemWf := by
  refine h.loneTick.foldl fun s1 x h1 => ?_
  extract_lets -underBinder s1' s2
  have h1' : s1'.MemWf := h1.dispatch
  have h2 : s2.MemWf := h1'.foldl fun _ _ h2 => h2.stealTick
  exact .ite h2.sched h2

theorem State.MemWf.poll {s : State} (h : s.MemWf) : s.poll.MemWf := by
  unfold State.poll
  extract_lets -underBinder s0 s1 s2 s3 s4 s5 s6 s7 s8 s9 s10 s11 s12 s13 s14 s15
  have h0 : s0.MemWf := (((h.foldl (fun _ _ h1 => h1.sessTick)).askTick).wantTick).eachTeam fun _ _ _ h1 => h1.protTick
  have h1 : s1.MemWf := (h0.eachGang (fun _ _ _ h1 => h1.settleTick)).idleTick
  have h2 : s2.MemWf := h1.eachTeam fun _ _ _ h2 => h2.growNow
  have h3 : s3.MemWf := h2.eachTeam fun _ _ _ h3 => h3.flacqServe
  have h4 : s4.MemWf := h3.eachGang (fun _ _ _ h4 => h4.foldl (fun _ _ h5 => h5.waitTick))
  have h5 : s5.MemWf := h4.eachTeam fun _ _ _ h5 => h5.barTick
  have h6 : s6.MemWf := h5.inboxTick.uncTick.succTick
  have h7 : s7.MemWf := h6.unitTick
  have h8 : s8.MemWf := (h7.eachGang (fun _ _ _ h8 => h8.endTick)).eachTeam fun _ _ _ h8 => h8.teamEnd
  have h9 : s9.MemWf := h8.eachTeam fun _ _ _ h9 => h9.teamReap
  have h10 : s10.MemWf := h9.eachTeam fun _ _ _ h10 => h10.stopTick
  have h11 : s11.MemWf := h10.eachGang fun _ _ _ h11 => h11.debugTick
  have h12 : s12.MemWf := ((h11.eachGang (fun _ _ _ h12 => h12.waitNote)).eachTeam (fun _ _ _ h12 => h12.estivTick)).eachTeam fun _ _ _ h12 => h12.wakeTick
  have h13 : s13.MemWf := h12.schedTick
  have h14 : s14.MemWf := h13.foldl fun _ _ h14 => h14.pumpQueue
  have h15 : s15.MemWf := h14.foldl fun _ _ h15 => .ite h15 h15.sampleFlush
  exact (h15.eachTeam (fun _ _ _ h16 => h16.overTick)).foldl fun _ _ h16 => h16.breakTick

/-! ## The parts of a step -/

theorem State.MemWf.begin {s : State} {i : Item} (h : s.MemWf) : (s.begin i).MemWf := h

theorem State.MemWf.turns {s : State} (h : s.MemWf) : s.turns.MemWf :=
  h.askTick.fetchAll.giveTurns

theorem State.MemWf.advance {s : State} (h : s.MemWf) : s.advance.MemWf := h

theorem State.MemWf.withCur {s : State} {k : ℕ} {lanes : Mask} {pc : DWord} {len : ℕ} {w : Word} (h : s.MemWf) : (s.withCur k lanes pc len w).MemWf :=
  h

theorem State.MemWf.beforeIssue {s : State} {k : ℕ} {g : Gang} {lanes : Mask} (h : s.MemWf) : (s.beforeIssue k g lanes).MemWf := by
  unfold State.beforeIssue
  extract_lets -underBinder s1
  have h1 : s1.MemWf := h.sessEnter.firstSnap
  exact .ite h1.countIssue h1.modGang

/-! ## The instructions and events that take more than one step -/

theorem execReplayStall_memWf {s : State} (h : s.MemWf) : EndsWf (execReplayStall s) := by
  unfold execReplayStall
  extract_lets -underBinder
  split
  · exact h.next
  · exact .ite h.next (.ite h.sched.next h.diverge.next)

theorem execRedux_memWf {p : Pred} {op : ROp} {ty : RTy} {d : LDst} {a : LSrc} {s : State} (h : s.MemWf) : EndsWf (execRedux p op ty d a s) := by
  refine .issue fun x1 => ?_
  extract_lets -underBinder
  split
  · exact h.pass
  · exact h.regs

theorem execSfuResult_memWf {s : State} (h : s.MemWf) : EndsWf (execSfuResult s) := by
  unfold execSfuResult
  extract_lets -underBinder
  split
  · exact h.next
  · exact h.sfuLand.next

theorem execSregw_memWf {p : Pred} {sr : SReg} {a : USrc} {s : State} (h : s.MemWf) : EndsWf (execSregw p sr a s) := by
  refine h.uni fun x1 => ?_
  split
  · exact .ite h.regs h.trap
  · exact h.regs
  · exact h.trap

theorem execCall_memWf {p : Pred} {d : UDst} {ofs : BitVec 15} {s : State} (h : s.MemWf) : EndsWf (execCall p d ofs s) := by
  refine h.uni fun x1 => ?_
  extract_lets -underBinder s1
  have h1 : s1.MemWf := h.regs
  exact h1.modGang.modGang

theorem execFence_memWf {p : Pred} {kind : FKind} {sc : Scope} {s : State} (h : s.MemWf) : EndsWf (execFence p kind sc s) := by
  refine h.uni fun x1 => ?_
  extract_lets -underBinder _ _ s1
  have h1 : s1.MemWf := .ite h.pass h.await
  refine .ite ?_ h1
  split
  · exact h1
  · extract_lets -underBinder s2
    have h2 : s2.MemWf := h.pass.closeBy
    exact .ite h2 h2.modGang

theorem execRetentionEntry_memWf {s : State} (h : s.MemWf) : EndsWf (execRetentionEntry s) := by
  unfold execRetentionEntry
  extract_lets -underBinder
  split
  · exact .ite h.setArr.sched.next h.sched.next
  · exact h.next

theorem execRetentionEntryDone_memWf {s : State} (h : s.MemWf) : EndsWf (execRetentionEntryDone s) := by
  unfold execRetentionEntryDone
  extract_lets -underBinder
  split
  · exact .ite h.setArr.next h.next
  · exact h.next

theorem execRetentionExitDone_memWf {s : State} (h : s.MemWf) : EndsWf (execRetentionExitDone s) := by
  unfold execRetentionExitDone
  extract_lets -underBinder
  split
  · exact .ite h.setArr.sched.next h.next
  · exact h.next

theorem execWalkComplete_memWf {s : State} (h : s.MemWf) : EndsWf (execWalkComplete s) := by
  unfold execWalkComplete
  extract_lets -underBinder
  split
  · exact h.next
  · refine .ite ?_ ?_
    · extract_lets -underBinder _ s1
      have h1 : s1.MemWf := h
      exact h1.walkBegin.next
    · extract_lets -underBinder _ _ s3 _ s4 s5
      have h3 : s3.MemWf := h.walkFill
      have h4 : s4.MemWf := h3
      have h5 : s5.MemWf := by
        refine h4.foldl fun s1 x h1 => ?_
        split
        · exact h1.walkPart
        · exact h1.walkFetch
        · exact h1.walkOp
      split
      · exact h5.next
      · exact h5.walkBegin.next

theorem execLightFault_memWf {ctx : ℕ} {va : DWord} {write : Bool} {s : State} (h : s.MemWf) : EndsWf (execLightFault ctx va write s) := by
  unfold execLightFault
  extract_lets -underBinder s1
  have h1 : s1.MemWf := h.lightServe
  split
  · exact h1.wakePages.next
  · exact h1.wakePages.next

theorem execGroupRelease_memWf {s : State} (h : s.MemWf) : EndsWf (execGroupRelease s) := by
  unfold execGroupRelease
  extract_lets -underBinder
  split
  · exact h.next
  · split
    · exact h.next
    · refine .ite h.arriveHeld.next (.ite (.ite h.sendGroup.next h.sched.next) ?_)
      split
      · exact h.next
      · refine .ite h.next ?_
        extract_lets -underBinder _ _ _ s1 s2
        have h1 : s1.MemWf := h
        have h2 : s2.MemWf := h1.foldl fun _ _ h2 => h2.releaseRec
        exact h2.sendGroup.next

theorem execStUniform_memWf {p : Pred} {sz : USZ} {a : UDst} {b : USrc} {off : UOff} {s : State}
    (h : s.MemWf) : EndsWf (execStUniform p sz a b off s) := by
  refine h.uni fun x1 => ?_
  extract_lets -underBinder _ _ s1 s2
  have h1 : s1.MemWf := .ite h.closeBy h
  have h2 : s2.MemWf := .ite h1.hash h1
  exact h2.memReq

theorem execScratchpadPerform_memWf {s : State} (h : s.MemWf) : EndsWf (execScratchpadPerform s) := by
  unfold execScratchpadPerform
  extract_lets -underBinder
  split
  · exact h.next
  · extract_lets -underBinder u
    have hu : u.2.MemWf := h.arrUse
    exact .ite hu.sched.next hu.padRun.next

theorem execRunb_memWf {n : BitVec 5} {va : BitVec 7} {k : BitVec 4} {s : State} (h : s.MemWf) : EndsWf (execRunb n va k s) := by
  refine .issue fun x1 => .ite h.trap ?_
  split
  · exact h.openRun.runbClose
  · exact h.openRun.trap
  · split
    · exact h.openRun.trapAccess.fetchForget
    · exact h.awaitFetch
  · exact .ite h.awaitFetch h.openRun.trapAccess
  · exact h.openRun.trap

theorem execRune_memWf {va : BitVec 7} {k : BitVec 4} {s : State} (h : s.MemWf) : EndsWf (execRune va k s) := by
  refine .issue fun x1 => ?_
  split
  · exact h.trap
  · refine .ite h.trap ?_
    extract_lets -underBinder s1
    have h1 : s1.MemWf := h.runeLeave
    exact .ite h1.closeGroup h1

theorem execMres_memWf {s : State} {p : Pred} {qd : Fin 8} (h : s.MemWf) : EndsWf (execMres p qd s) := by
  refine h.uni fun x => ?_
  extract_lets cl t e clear out _ take
  have clear_memWf {u : State} (hu : u.MemWf) : (clear u).MemWf := hu
  have out_memWf {u : State} {b : Bool} (hu : u.MemWf) : (out u b).MemWf := hu.regs
  have take_memWf {u : State} (hu : u.MemWf) : (take u).MemWf := hu
  refine .ite (out_memWf (clear_memWf h)) (.ite (out_memWf h) ?_)
  split
  · exact out_memWf (take_memWf h)
  · split
    · exact out_memWf h
    next e => exact out_memWf (take_memWf (h.areaTake e).modTeam)

theorem execMatrixOpComplete_memWf {s : State} (h : s.MemWf) : EndsWf (execMatrixOpComplete s) := by
  unfold execMatrixOpComplete
  extract_lets -underBinder
  split
  · split
    · exact .ite h.tileRun.next h.next
    · exact h.next
  · exact h.tileStatus.next
  · exact h.tileRead.next
  · exact h.tileStatus.next
  · exact h.eackDue.next

theorem execTasksub_memWf {p : Pred} {space : Bool} {qd : Fin 8} {a : USrc} {s : State} (h : s.MemWf) : EndsWf (execTasksub p space qd a s) := by
  refine h.uni (fun x1 => .ite h.trapAccess (.ite h.logGang.answerQ ?_))
  extract_lets -underBinder _ _ _ s1
  have h1 : s1.MemWf := h.newReq
  exact h1.modGang.await

theorem execTaskComplete_memWf {s : State} (h : s.MemWf) : EndsWf (execTaskComplete s) := by
  unfold execTaskComplete
  extract_lets -underBinder
  split
  · exact h.next
  · refine .ite h.taskEnd.next ?_
    beta_reduce
    split
    next e => exact .next (.sched (State.MemWf.of_fst e h.decSucc :))
    next e => exact .ite (.next (.serveCause (.ite (.log (.of_fst e h.decSucc)) (.of_fst e h.decSucc)))) (.next (.taskEnd (.log (.of_fst e h.decSucc))))

theorem execFapp_memWf {p : Pred} {g : USrc} {v : Fin 112} {s : State} (h : s.MemWf) : EndsWf (execFapp p g v s) := by
  refine h.uni (fun x1 => h.withFurrow (fun u1 y1 h1 => .ite (.modGang (.answered (.uncPut h1))) ?_) (fun _ h1 => h1.answered.modGang))
  beta_reduce
  split
  · exact h1.ringStop fun _ h2 => h2.answered.modGang
  · exact h1.append.answered.modGang

theorem execFtake_memWf {p : Pred} {g : USrc} {v : Fin 112} {pd : Fin 8} {s : State} (h : s.MemWf) : EndsWf (execFtake p g v pd s) := by
  refine h.uni (fun x1 => h.drainTaken.withFurrow (fun u1 y1 h1 => ?_) (fun u1 h1 => ?_))
  · extract_lets -underBinder
    beta_reduce
    split
    · refine h1.ringStop fun u2 h2 => ?_
      extract_lets -underBinder
      split
      · exact h2
      · exact h2.setGang.expandFor.answered
    · extract_lets -underBinder _ _ s0 s1 _ s2
      have h0 : s0.MemWf := h1.foldl fun _ _ h2 => h2.readRecs
      have h1' : s1.MemWf := h0
      have h2 : s2.MemWf := h1'
      split
      · exact h2
      · exact h2.setGang.expandFor.answered
  · beta_reduce
    split
    · exact h1
    · exact h1.setGang.expandFor.answered

theorem execDryw_memWf {p : Pred} {a : USrc} {s : State} (h : s.MemWf) : EndsWf (execDryw p a s) := by
  refine h.uni fun x1 => ?_
  extract_lets -underBinder _ s1
  have h1 : s1.MemWf := h.drainTaken
  refine .ite h1.trapAccess ?_
  split
  · exact .ite h1.pass h1.await
  · exact h1.logGang.pass
  · exact .ite (.await (.serveCause (.ite h1.logGang h1))) h1.logGang.pass

theorem execTopen_memWf {p : Pred} {qd : Fin 8} {a : USrc} {s : State} (h : s.MemWf) : EndsWf (execTopen p qd a s) := by
  refine h.uni (fun x1 => h.workGate (fun u1 h1 => ?_))
  extract_lets -underBinder
  split
  · exact h1.scopeAns
  · exact .ite h1.scopeAns (.scopeAns (.setScope h1))

theorem execTrival_memWf {p : Pred} {qd : Fin 8} {a : USrc} {s : State} (h : s.MemWf) : EndsWf (execTrival p qd a s) := by
  refine h.uni (fun x1 => h.workGate (fun u1 h1 => ?_))
  extract_lets -underBinder
  split
  · exact h1.scopeAns
  · refine .ite h1.scopeAns ?_
    split
    · exact h1.scopeAns
    · exact .await (.serveCause (.ite h1.logGang h1))
    · refine .ite h1.scopeAns ?_
      extract_lets -underBinder _ s1 s2
      have h1' : s1.MemWf := h1
      have h2 : s2.MemWf := h1'.foldl fun _ _ h2 => h2.enterTask
      exact h2.scopeAns

theorem execTscore_memWf {p : Pred} {qd : Fin 8} {s : State} (h : s.MemWf) : EndsWf (execTscore p qd s) := by
  refine h.uni (fun x1 => h.workGate (fun u1 h1 => ?_))
  split
  · exact h1.scopeAns
  · split
    · exact h1.scopeAns
    · split
      · exact h1.modRival.scopeAns
      · exact h1.modRival.scopeAns
      · exact h1.scopeAns

theorem execTstat_memWf {p : Pred} {qd : Fin 8} {b : USrc} {s : State} (h : s.MemWf) : EndsWf (execTstat p qd b s) := by
  refine h.uni (fun x1 => h.workGate (fun u1 h1 => ?_))
  extract_lets -underBinder
  split
  · exact h1.scopeAns
  · exact .ite h1.scopeAns h1.unitWrite.scopeAns

theorem execTcloseAbort_memWf {p : Pred} {qd : Fin 8} {s : State} (h : s.MemWf) : EndsWf (execTcloseAbort p qd s) := by
  refine h.uni (fun x1 => h.workGate (fun u1 h1 => ?_))
  split
  · exact h1.abortScope.scopeAns
  · exact h1.scopeAns

theorem execTclose_memWf {p : Pred} {qd : Fin 8} {s : State} (h : s.MemWf) : EndsWf (execTclose p qd s) := by
  refine h.uni (fun x1 => h.workGate (fun u1 h1 => ?_))
  split
  · refine .ite h1.scopeAns (.ite h1.abortScope.scopeAns (.ite ?_ h1.scopeAns))
    extract_lets -underBinder s0
    have h0 : s0.MemWf := .ite h1.closeBy h1
    exact .scopeAns (.commitStep (.setScope (.modGang h0)))
  · exact h1.scopeAns

theorem execSpgrow_memWf {p : Pred} {qd : Fin 8} {s : State} (h : s.MemWf) : EndsWf (execSpgrow p qd s) := by
  refine h.uni (fun x1 => h.workGate (fun u1 h1 => ?_))
  split
  · exact h1.scopeAns
  · exact .ite h1.modTeam.scopeAns h1.scopeAns

theorem execRoundEnd_memWf {s : State} (h : s.MemWf) : EndsWf (execRoundEnd s) := by
  unfold execRoundEnd
  extract_lets n
  split
  · exact h.next
  · refine .ite h.next ?_
    extract_lets order keep s1 left fin _ s2 won s3 s4
    have h2 : s2.MemWf := State.MemWf.foldl (l := order.drop keep) h fun _ _ hu => hu.killRival
    have h3 : s3.MemWf := State.MemWf.settleScope h2
    have h4 : s4.MemWf := State.MemWf.modScope h2
    refine .ite (.next ?_) (.next (.foldl h4 fun _ _ hu => hu.modRival.wakeRival))
    clear_value left
    split
    · exact h3.wakeRival
    · exact h3

theorem execTeamPlace_memWf {s : State} (h : s.MemWf) : EndsWf (execTeamPlace s) := by
  unfold execTeamPlace
  split
  next e => exact ((h.pick e).dispatch).next
  · exact h.next

theorem execTaskDispatch_memWf {s : State} (h : s.MemWf) : EndsWf (execTaskDispatch s) := by
  unfold execTaskDispatch
  split
  next e => exact ((h.pick e).dispatch).next
  · exact h.next

theorem execTeamResume_memWf {s : State} (h : s.MemWf) : EndsWf (execTeamResume s) := by
  unfold execTeamResume
  extract_lets -underBinder
  split
  · exact h.next
  · split
    · extract_lets -underBinder
      split
      next e => exact .next (.ite ((h.pick e).dispatch) h)
      · exact h.next
    · exact h.next
    · exact h.next
    · exact h.next
    · exact .ite h.setTeam.ageFrom.dispatch.next h.next

theorem execPriorityAging_memWf {s : State} (h : s.MemWf) : EndsWf (execPriorityAging s) := by
  refine .ite ?_ (.ite ?_ ?_)
  · beta_reduce
    split
    · exact .ite (.next (.ite (.sched h) h)) h.next
    · exact h.next
  · beta_reduce
    split
    · exact .ite (.next (.ite (.sched h) h)) h.next
    · exact h.next
  · beta_reduce
    split
    · exact .ite (.next (.ite h.setTeam.sched h.setTeam)) h.next
    · exact h.next

theorem execStealRequest_memWf {s : State} (h : s.MemWf) : EndsWf (execStealRequest s) := by
  unfold execStealRequest
  extract_lets -underBinder
  split
  · exact h.next
  · extract_lets -underBinder own
    have hown : own.MemWf := h.dispatch
    refine .ite hown.sched.next ?_
    split
    · exact h.sched.next
    · exact .next (.sched h)

theorem execStealAnswer_memWf {s : State} (h : s.MemWf) : EndsWf (execStealAnswer s) := by
  unfold execStealAnswer
  extract_lets -underBinder
  split
  · exact h.next
  · exact .next h

theorem execPreempt_memWf {s : State} (h : s.MemWf) : EndsWf (execPreempt s) := by
  unfold execPreempt
  split
  · exact h.next
  · exact h.stopTeam.next

theorem execEstivate_memWf {s : State} (h : s.MemWf) : EndsWf (execEstivate s) := by
  unfold execEstivate
  extract_lets -underBinder
  split
  · exact h.next
  · split
    · exact .ite h.vacate.next h.next
    · exact h.next

theorem execSaveComplete_memWf {s : State} (h : s.MemWf) : EndsWf (execSaveComplete s) := by
  unfold execSaveComplete
  extract_lets -underBinder
  split
  · exact h.next
  · exact .ite h.setTeam.dispatch.next h.next

theorem execRgive_memWf {p : Pred} {qd : Fin 8} {s : State} (h : s.MemWf) : EndsWf (execRgive p qd s) := by
  refine h.uni fun x1 => .ite h.regs ?_
  extract_lets -underBinder s1
  have h1 : s1.MemWf := h
  exact h1.regs.holdFor

theorem execRclaim_memWf {p : Pred} {qd : Fin 8} {s : State} (h : s.MemWf) : EndsWf (execRclaim p qd s) := by
  refine h.uni fun x1 => .ite h.regs ?_
  beta_reduce
  split
  · exact h
  · split
    · exact h.setGang.holdFor
    · extract_lets -underBinder _ _ s1
      have h1 : s1.MemWf := h.regs
      exact .ite h1.sched h1

theorem execRegroupWindowEnd_memWf {s : State} (h : s.MemWf) : EndsWf (execRegroupWindowEnd s) := by
  unfold execRegroupWindowEnd
  extract_lets -underBinder _ _ _ s1
  have h1 : s1.MemWf := h
  exact (h1.foldl (fun _ _ h2 => h2.foldl (fun _ _ h3 => h3.regroupClass))).next

theorem execFwcall_memWf {p : Pred} {svc : BitVec 12} {s : State} (h : s.MemWf) : EndsWf (execFwcall p svc s) := by
  refine h.uni fun x1 => ?_
  extract_lets -underBinder
  split
  · exact h.fwcall
  · split
    · exact h
    · exact h.setGang.answered

theorem execMapins_memWf {s : State} (h : s.MemWf) : EndsWf (execMapins s) := by
  refine h.service fun k g ctx a => .ite h.mapEnd ?_
  split
  next e => exact (State.MemWf.of_snd e h.doMapins).mapEnd

theorem execMaprem_memWf {s : State} (h : s.MemWf) : EndsWf (execMaprem s) := by
  refine h.service fun k g ctx a => .ite h.mapEnd ?_
  split
  next e => exact (State.MemWf.of_snd e h.doMaprem).mapEnd

theorem execMapget_memWf {s : State} (h : s.MemWf) : EndsWf (execMapget s) := by
  refine h.service fun k1 g1 ctx1 a1 => .ite h.fwEnd ?_
  split
  · exact h.fwEnd
  · split
    · exact h.fwEnd
    · exact h

theorem execGrant_memWf {s : State} (h : s.MemWf) : EndsWf (execGrant s) := by
  refine h.service (fun k1 g1 ctx1 a1 => .ite h.fwEnd (.ite h.fwEnd (.ite h.fwEnd ?_)))
  extract_lets -underBinder s1
  have h1 : s1.MemWf := h.foldl fun _ _ h1 => h1.setOwner
  exact h1.clearRange.fwEnd

theorem execPeerbind_memWf {s : State} (h : s.MemWf) : EndsWf (execPeerbind s) := by
  refine h.service fun k1 g1 ctx1 a1 => ?_
  split
  · exact .ite h.fwEnd (.fwEnd h)
  · exact h.fwEnd

theorem execPartset_memWf {s : State} (h : s.MemWf) : EndsWf (execPartset s) := by
  refine h.service (fun k1 g1 ctx1 a1 => .ite h.fwEnd (.ite h.fwEnd (h.fwBuffer (fun u1 h1 => ?_))))
  split
  · exact h1.fwEnd
  · exact .ite h1.fwEnd (.ite h1.fwEnd (.fwEnd h1))

theorem execWakeMessage_memWf {conn qid : ℕ} {widx : Word} {s : State} (h : s.MemWf) : EndsWf (execWakeMessage conn qid widx s) := by
  unfold execWakeMessage
  split
  · exact .next (.ite h.wakeQueue h)
  · exact h.next

theorem execQsend_memWf {p : Pred} {space : Bool} {qd : Fin 8} {a b : USrc} {s : State} (h : s.MemWf) : EndsWf (execQsend p space qd a b s) := by
  refine h.uni (fun x1 => .ite h.rivalOp (.ite h.modQueue.answerQ (.ite h.qsendPeer ?_)))
  extract_lets -underBinder
  split
  · exact h.wakeQueue.answerQ
  · exact h.wakeQueue.answerQ
  · exact .ite (.answerQ (.uncPut h)) h.answerQ

theorem execMirrorWrite_memWf {s : State} (h : s.MemWf) : EndsWf (execMirrorWrite s) := by
  unfold execMirrorWrite
  extract_lets -underBinder
  split
  · exact h.next
  · refine .ite h.next (.next ?_)
    split
    next e => exact .sched (.of_snd e h.gateOne)
    next e => exact .modQueue (.of_snd e h.gateOne)
    next e => exact .modQueue (.vwrite (.of_snd e h.gateOne))

theorem execCommandRestart_memWf {s : State} (h : s.MemWf) : EndsWf (execCommandRestart s) := by
  unfold execCommandRestart
  extract_lets -underBinder
  split
  · exact h.next
  · exact .ite h.entryEnd.next (.ite h.startEntry.next h.modEntry.sched.next)

theorem execLaunch_memWf {s : State} (h : s.MemWf) : EndsWf (execLaunch s) := by
  refine h.command (fun q1 i1 x1 e1 => .ite h.entryEnd (h.withBuffers (fun u1 h1 => ?_)))
  split
  · exact h1.entryEnd
  · refine .ite h1.entryEnd ?_
    split
    · exact h1.entryEnd
    · refine h1.withBuffers fun u2 h2 => ?_
      extract_lets -underBinder
      split
      · exact h2.entryEnd
      · split
        · exact h2.entryEnd
        next e => exact h2.startLaunch e

theorem execLaunchComplete_memWf {s : State} (h : s.MemWf) : EndsWf (execLaunchComplete s) := by
  unfold execLaunchComplete
  extract_lets -underBinder
  split
  · exact h.next
  · exact .next (.entryEnd h)

theorem execWait_memWf {s : State} (h : s.MemWf) : EndsWf (execWait s) := by
  refine h.command fun q1 i1 x1 e1 => .ite h.entryEnd ?_
  extract_lets -underBinder _ s0 s1
  have h0 : s0.MemWf := h
  have h1 : s1.MemWf := .ite h0 h0.sched
  exact h1.withBuffers fun _ h2 => .ite h2.entryEnd h2

theorem execMapInstall_memWf {s : State} (h : s.MemWf) : EndsWf (execMapInstall s) := by
  refine h.command fun q i x e => ?_
  extract_lets y
  refine .ite h.cmdMapEnd (.ite h.entryEnd ?_)
  split
  next e => exact .ite h.entryEnd (State.MemWf.of_snd e h.doMapins).cmdMapEnd

theorem execMapRemove_memWf {s : State} (h : s.MemWf) : EndsWf (execMapRemove s) := by
  refine h.command fun q i x e => ?_
  extract_lets y
  refine .ite h.cmdMapEnd (.ite h.entryEnd ?_)
  split
  next e => exact (State.MemWf.of_snd e h.doMaprem).cmdMapEnd

theorem execMapGiveToHost_memWf {s : State} (h : s.MemWf) : EndsWf (execMapGiveToHost s) := by
  refine h.command (fun q1 i1 x1 e1 => .ite h.entryEnd (.ite h.entryEnd (.ite h.entryEnd (.ite ?_ (.ite (.ite h.sched (.ite h.sched h.reply.sched)) ?_)))))
  · split
    · exact h.entryEnd
    · exact .ite h.sched h.tableWrite.invalidate.watchPage.sched
  · split
    · exact h.entryEnd
    · extract_lets -underBinder _ s1 _ s2
      have h1 : s1.MemWf := h.tableWrite
      have h2 : s2.MemWf := h1
      exact h2.wakePages.sched

theorem execMapTakeFromHost_memWf {s : State} (h : s.MemWf) : EndsWf (execMapTakeFromHost s) := by
  refine h.command (fun q1 i1 x1 e1 => .ite h.entryEnd (.ite h.entryEnd (.ite h.entryEnd ?_)))
  split
  · exact h.entryEnd
  · exact .ite h.startPull.sched h.sched

theorem execMigrationPullDone_memWf {s : State} (h : s.MemWf) : EndsWf (execMigrationPullDone s) := by
  unfold execMigrationPullDone
  split
  · exact h.next
  · exact .next (.pulled h)

theorem execMigrationPullFail_memWf {s : State} (h : s.MemWf) : EndsWf (execMigrationPullFail s) := by
  unfold execMigrationPullFail
  split
  · exact h.next
  · exact .next (.pullLost h)

theorem execQcreate_memWf {s : State} (h : s.MemWf) : EndsWf (execQcreate s) := by
  refine h.manage (fun q1 i1 x1 e1 => .ite h.entryEnd (.ite h.entryEnd (.ite h.entryEnd ?_)))
  split
  · exact .entryEnd h
  · exact h.entryEnd

theorem execQdestroy_memWf {s : State} (h : s.MemWf) : EndsWf (execQdestroy s) := by
  refine .ite h.queueGone.next (h.manage (fun q1 i1 x1 e1 => ?_))
  extract_lets -underBinder
  split
  · exact h.entryEnd
  · refine .ite h.entryEnd ?_
    extract_lets -underBinder s1
    have h1 : s1.MemWf := h
    exact .ite h1.entryEnd.queueGone h1.sched

theorem execCtxreset_memWf {s : State} (h : s.MemWf) : EndsWf (execCtxreset s) := by
  refine h.manage fun q1 i1 x1 e1 => .ite h.entryEnd ?_
  extract_lets -underBinder s1
  have h1 : s1.MemWf := .ite h h.ctxStop
  exact .ite h1.sched h1.dropLaunches.ctxClear.entryEnd

theorem execFlashwrite_memWf {s : State} (h : s.MemWf) : EndsWf (execFlashwrite s) := by
  refine h.manage fun q1 i1 x1 e1 => .ite h.entryEnd ?_
  extract_lets -underBinder _ _ _ s1
  have h1 : s1.MemWf := h
  exact h1.entryEnd

theorem execModuleReset_memWf {s : State} : EndsWf (execModuleReset s) := by
  unfold execModuleReset
  extract_lets -underBinder s0
  have h0 : s0.MemWf := .cold
  refine .next ?_
  split
  · exact .recover h0
  · extract_lets -underBinder s1
    have h1 : s1.MemWf := h0
    split
    · exact h1.recover
    · extract_lets -underBinder s2
      have h2 : s2.MemWf := h1
      exact .ite h2.recover (.ite h2.recover h2)

theorem execConnectionAuth_memWf {conn : ℕ} {port : Fin 32} {key : List Byte} {s : State}
    (h : s.MemWf) : EndsWf (execConnectionAuth conn port key s) := by
  unfold execConnectionAuth
  split
  · exact .next h.peersGone
  · extract_lets -underBinder s1
    have h1 : s1.MemWf := h.peersGone
    exact .next (.event h1)

theorem execRmaWrite_memWf {conn : ℕ} {addr : DWord} {data : List Byte} {s : State} (h : s.MemWf) : EndsWf (execRmaWrite conn addr data s) := by
  refine h.rma fun c u hu => ?_
  extract_lets r
  have hr : r.2.2.MemWf := foldl_memWf (fun r : ℕ × List Byte × State => r.2.2) (fun _ _ hv => hv.rmaPut) _ hu
  exact hr.reply

theorem execRmaRead_memWf {conn : ℕ} {addr : DWord} {len : ℕ} {s : State} (h : s.MemWf) : EndsWf (execRmaRead conn addr len s) := by
  refine h.rma fun c1 u1 h1 => ?_
  extract_lets -underBinder r
  have hr : r.2.MemWf := by
    unfold r
    refine h1.foldl_snd fun r x h => ?_
    extract_lets -underBinder y
    have hy : y.2.MemWf := h.rmaBlock
    exact hy
  exact hr.reply

theorem execRmaAtomic_memWf {conn : ℕ} {addr : DWord} {op : AOp} {sz : SZ} {data cmp : DWord} {s : State} (h : s.MemWf) :
    EndsWf (execRmaAtomic conn addr op sz data cmp s) := by
  refine .ite (.next ?_) (h.rma fun c u hu => ?_)
  · split
    · exact .ite h.reply h
    · exact h
  · extract_lets ones
    split
    · exact hu.rmaRecord.reply
    · refine .ite hu.rmaRecord.reply ?_
      split
      next found s2 e =>
        have h2 : s2.MemWf := .of_fth e hu.readHome
        extract_lets s3 old
        have h3 : s3.MemWf := by
          unfold s3
          split
          · exact h2
          · exact h2.rmaRecord
        clear_value s3
        refine .ite h3.reply ?_
        split
        · exact h3.reply
        · exact h3.writeAt.setTag.sliceTouch.reply

theorem execSyncMessage_memWf {offset : ℤ} {s : State} (h : s.MemWf) : EndsWf (execSyncMessage offset s) := by
  refine .ite h.next ?_
  extract_lets -underBinder s1
  have h1 : s1.MemWf := h.syncStep
  exact .next (.sched (.setLock h1))

theorem execPowerStep_memWf {watts : ℕ} {s : State} (h : s.MemWf) : EndsWf (execPowerStep watts s) := by
  unfold execPowerStep
  extract_lets -underBinder _ s0
  have h0 : s0.MemWf := h
  exact .ite h0.next (.next (.setMhz h0))

theorem execTempThrottle_memWf {die : Fin 4} {s : State} (h : s.MemWf) : EndsWf (execTempThrottle die s) := by
  refine .ite h.next ?_
  extract_lets -underBinder s1
  have h1 : s1.MemWf := h.setMhz
  exact .next (.ite h1 h1.sched)

theorem execReissue_memWf {s : State} (h : s.MemWf) : EndsWf (execReissue s) := by
  unfold execReissue
  extract_lets -underBinder
  split
  · exact h.next
  · extract_lets -underBinder _ s0 s1
    have h0 : s0.MemWf := h
    have h1 : s1.MemWf := by
      unfold s1
      split
      · exact h0.reissueReq
      · exact h0.reissueOp
      · exact h0.reissueUnc
    exact .next (.ite h1.kickReissue h1)

theorem execStrikeReport_memWf {die : Fin 4} {cluster : Option ℕ} {s : State} (h : s.MemWf) : EndsWf (execStrikeReport die cluster s) := by
  unfold execStrikeReport
  extract_lets -underBinder _ s1 _ _ s2
  have h1 : s1.MemWf := h
  have h2 : s2.MemWf := h1.foldl fun _ _ h2 => h2.log
  exact (h2.foldl (fun _ _ h3 => .ite h3.rollback h3)).next

theorem execDebugRegWrite_memWf {gang : ℕ} {reg : BitVec 8} {lanes : Mask} {value : DWord} {s : State}
    (h : s.MemWf) : EndsWf (execDebugRegWrite gang reg lanes value s) := by
  unfold execDebugRegWrite
  split
  · exact h.next
  · refine .ite h.next ?_
    extract_lets -underBinder _ _ _ _ s1
    have h1 : s1.MemWf := h
    exact .next h1

theorem execCensusStart_memWf {s : State} (h : s.MemWf) : EndsWf (execCensusStart s) := by
  refine h.service (fun k1 g1 ctx1 a1 => .ite h.fwEnd (h.fwBuffer (fun u1 h1 => ?_)))
  split
  · exact h.fwEnd
  · exact .fwEnd h1

theorem execCensusStop_memWf {s : State} (h : s.MemWf) : EndsWf (execCensusStop s) := by
  refine h.service fun k g ctx a => ?_
  split
  · exact h.fwEnd
  · exact h.fwBuffer fun u hu => State.MemWf.fwEnd (.of_mem hu.vwrite rfl)

theorem execRecsessEnd_memWf {s : State} (h : s.MemWf) : EndsWf (execRecsessEnd s) := by
  refine h.service fun k1 g1 ctx1 a1 => ?_
  split
  · exact h.fwEnd
  · refine .ite (.ite (.fwEnd h) h.fwEnd) (.ite h.sched (.ite h.fwEnd ?_))
    extract_lets -underBinder s1 s2
    have h1 : s1.MemWf := .ite h h.sessPut
    have h2 : s2.MemWf := h1.modSess.wakeWhere
    exact h2.sched

/-! ## The step -/

/-- Every instruction and event keeps memory in canonical form. -/
theorem exec_memWf {s : State} (h : s.MemWf) (i : Instr) : EndsWf (exec i s) := by
  unfold exec
  cases i with
  | nop => exact .issue fun _ => h.pass
  | sreg | iadd | isub | imul | and | or | xor | shl | shrN32 | shrI32 | iminI32 | imaxI32 | iminN32 | imaxN32 | shfl | mov | fclass =>
    exact h.lane32
  | lbr | lexit | lbrRg => exact .issue fun _ => h.modGang
  | icmp | icmpLong => exact h.laneP
  | fcmpF32 | fcmpLong => exact h.laneCmp
  | faddF32 | fsubF32 | fmulF32 | ffmaF32 | fminF32 | fmaxF32 | fminnF32 | fmaxnF32 | faddF64 | fmulF64 | ffmaF64 | faddBf16X2 |
    fmulBf16X2 | ffmaBf16X2 | faddF16X2 | fmulF16X2 | faddLong | fsubLong | fmulLong | ffmaLong | fminLong | fmaxLong | fminnLong |
    fmaxnLong | fabs | fneg => exact h.laneF
  | redux => exact execRedux_memWf h
  | recipF32 | rrootF32 | rootF32 | pow2F32 | log2F32 | sineF32 | cosineF32 | htanF32 | recipF64 | rrootF64 | rootF64 => exact
    h.sfuIssue
  | ld | ldLong => exact h.load
  | st | stLong => exact h.store
  | lds | ldsLong => exact h.spLoad
  | sts | stsLong => exact h.spStore
  | atom | atomNoret | atomLong => exact h.atomic
  | iaddLong | isubLong | imulLong | imulhi | imad | shrLong | iminLong | imaxLong | iabs | ineg => exact h.laneI
  | andLong | orLong | xorLong | andn | not | popc | clz | bitrev | xfld | ifld => exact h.laneB
  | shlLong | sel | movLong => exact .ite h.lane64 h.lane32
  | cvt | qblk | qblks | dqblk | shflLong => exact .issue fun _ => h.regs
  | atoms => exact .issue fun _ => h.spReq
  | pref | dset | dget => exact .issue fun _ => h.memReq
  | stmc | stred => exact h.cast
  | runb => exact execRunb_memWf h
  | rune => exact execRune_memWf h
  | waitc | taskdone => exact h.uni fun _ => .ite h.pass h.await
  | bartm | flacq | bowait => exact h.uni fun _ => h.await
  | fence => exact execFence_memWf h
  | exit => exact h.uni fun _ => h.modGang
  | bra | jmpg => exact h.uni fun _ => h.jump
  | braq => exact h.uni fun _ => .ite h.jump h.pass
  | call => exact execCall_memWf h
  | ret => exact h.uni fun _ => h.jump.modGang
  | trap => exact h.uni fun _ => .ite h.modGang h.trap
  | bkpt => exact h.uni fun _ => h.trap
  | fwcall => exact execFwcall_memWf h
  | gadd | gsub | gmul | gmulhiN64 | gmulhiI64 | gand | gor | gxor | gandn | gnot | gpopc | gclz | gshl | gshr | gsar | grotl | gminI64
    | gmaxI64 | gminN64 | gmaxN64 | gmov | gmovN32 | gmovI32 | gsel | sregUniform | mstat => exact h.gres
  | gcmp | qand | qor | qxor => exact h.qres
  | sregw => exact execSregw_memWf h
  | vtog | gtov | vote => exact h.uni fun _ => h.regs
  | pmark => exact h.uni fun _ => h.checkpoint.pass
  | ldUniform => exact h.uni fun _ => h.memReq
  | stUniform => exact execStUniform_memWf h
  | qsend => exact execQsend_memWf h
  | flinit | flrel | boarm => exact h.uni fun _ => h.spWrite
  | mres => exact execMres_memWf h
  | mrel => exact h.uni fun _ => h.mrel.pass
  | mmaq | mdelta | mdrain => exact h.tileIssue
  | mzero => exact h.uni (fun _ => .ite (.pass (.modGang (.setEngine h))) (.pass (.modGang (.modTeam h))))
  | rsvinv | rsvinvClear => exact h.rsvinv
  | rsvq => exact h.uni (fun _ => .ite h.logGang.answered (.answered (.sched (.setReq h))))
  | copyt | kick => exact h.uni fun _ => h.copyIssue
  | tdload => exact h.uni fun _ => .ite h.trapAccess h.newReq.pass
  | tasksub => exact execTasksub_memWf h
  | fapp => exact execFapp_memWf h
  | ftake => exact execFtake_memWf h
  | dryw => exact execDryw_memWf h
  | topen => exact execTopen_memWf h
  | trival => exact execTrival_memWf h
  | tscore => exact execTscore_memWf h
  | tstat => exact execTstat_memWf h
  | tclose => exact execTclose_memWf h
  | tcloseAbort => exact execTcloseAbort_memWf h
  | spgrow => exact execSpgrow_memWf h
  | rgive => exact execRgive_memWf h
  | rclaim => exact execRclaim_memWf h
  | portLinkUp => exact .ite h.next (.next (.portBack h))
  | portLinkDown | flowControlFrame | oversizePacket | meshLinkRetry | leaseExpiry | fetchWake => exact .next h
  | connectionFailure => exact .next (.peersGone h)
  | connectionAuth => exact execConnectionAuth_memWf h
  | uudPacket => exact .next (.reply h)
  | rmaWrite => exact execRmaWrite_memWf h
  | rmaRead => exact execRmaRead_memWf h
  | peerDown => exact h.peerGone.next
  | meshLinkFatal => exact h.fatalError.next
  | syncMessage => exact execSyncMessage_memWf h
  | powerStep => exact execPowerStep_memWf h
  | tempThrottle => exact execTempThrottle_memWf h
  | monitorFatal => exact .next (.ite h.fatalError h)
  | wakeMessage => exact execWakeMessage_memWf h
  | lightFault => exact execLightFault_memWf h
  | strikeReport => exact execStrikeReport_memWf h
  | debugRegWrite => exact execDebugRegWrite_memWf h
  | debugBreakpoint | fenceResume | stopTimeout => exact h.modGang.next
  | unassignedEncoding => exact .issue fun _ => h.trap
  | rmaAtomic => exact execRmaAtomic_memWf h
  | moduleReset => exact execModuleReset_memWf
  | syncTimeout => exact .next (.ite h.setLock h)
  | entryRead => exact h.readEntry.next
  | entryReread => exact .next (.ite h.staleSignal h.readEntry)
  | mirrorWrite => exact execMirrorWrite_memWf h
  | commandBounce => exact h.modEntry.next
  | commandRestart => exact execCommandRestart_memWf h
  | launch => exact execLaunch_memWf h
  | launchComplete => exact execLaunchComplete_memWf h
  | task => exact h.command (fun _ _ _ _ => .ite h.entryEnd (h.withBuffers (fun _ h1 => .ite h1.entryEnd (.ite h1.entryEnd
    h1.taskRecords))))
  | copy => exact h.command fun _ _ _ _ => .ite h.entryEnd h.sched
  | signalStore | signalAdd => exact h.command fun _ _ _ _ => h.doSignal
  | wait => exact execWait_memWf h
  | waitTimeout | mgmtUnassigned => exact h.command fun _ _ _ _ => h.entryEnd
  | mapInstall => exact execMapInstall_memWf h
  | mapRemove => exact execMapRemove_memWf h
  | mapGiveToHost => exact execMapGiveToHost_memWf h
  | mapTakeFromHost => exact execMapTakeFromHost_memWf h
  | status | monitors | attest => exact h.manage fun _ _ _ _ => h.writeResult
  | qcreate => exact execQcreate_memWf h
  | qdestroy => exact execQdestroy_memWf h
  | ctxbind => exact h.manage (fun _ _ _ _ => .ite h.entryEnd (.entryEnd h))
  | ctxreset => exact execCtxreset_memWf h
  | flashwrite => exact execFlashwrite_memWf h
  | flashverify => exact h.manage fun _ _ _ _ => .ite h.entryEnd h.writeResult
  | modreset => exact .ite (.next (.ite h.sched h.sched)) (h.manage (fun _ _ _ _ => h.entryEnd.sched))
  | migrationPullDone => exact execMigrationPullDone_memWf h
  | migrationPullFail => exact execMigrationPullFail_memWf h
  | walkComplete => exact execWalkComplete_memWf h
  | sluiceBounce => exact .next (.ite h.uncSluiced (.ite h.opSluiced h.sluiced))
  | cisternWake => exact .ite h.wakeWhere.next h.wakeWhere.wakeOps.next
  | reissue => exact execReissue_memWf h
  | requestAccept => exact h.accept.next
  | loadComplete => exact h.answer.next
  | storeAck => exact .next (.ite h.eackDue h.answer)
  | scratchpadPerform => exact execScratchpadPerform_memWf h
  | sfuResult => exact execSfuResult_memWf h
  | teamPlace => exact execTeamPlace_memWf h
  | stealRequest => exact execStealRequest_memWf h
  | stealAnswer => exact execStealAnswer_memWf h
  | priorityAging => exact execPriorityAging_memWf h
  | preempt => exact execPreempt_memWf h
  | estivate => exact execEstivate_memWf h
  | teamResume => exact execTeamResume_memWf h
  | taskDispatch => exact execTaskDispatch_memWf h
  | taskComplete => exact execTaskComplete_memWf h
  | compaction => exact .ite h.next (.next (.compactTick h))
  | regroupWindowEnd => exact execRegroupWindowEnd_memWf h
  | droughtSweep => exact ((h.foldl (fun _ _ h1 => h1.sweepGroup)).sched).next
  | allowanceReached => exact h.stopRival.next
  | roundEnd => exact execRoundEnd_memWf h
  | groupRelease => exact execGroupRelease_memWf h
  | retentionEntry => exact execRetentionEntry_memWf h
  | retentionExitDone => exact execRetentionExitDone_memWf h
  | replayStall => exact execReplayStall_memWf h
  | matrixOpComplete => exact execMatrixOpComplete_memWf h
  | copyComplete => exact .next (.ite h.cmdCopy h.copyEvent)
  | mapins => exact execMapins_memWf h
  | maprem => exact execMaprem_memWf h
  | mapget => exact execMapget_memWf h
  | grant => exact execGrant_memWf h
  | peerbind => exact execPeerbind_memWf h
  | partset => exact execPartset_memWf h
  | ctxpart => exact h.service (fun _ _ _ _ => .ite h.fwEnd (.ite h.fwEnd (.ite h.fwEnd (.fwEnd h))))
  | sluiceset => exact h.service (fun _ _ _ _ => .ite h.fwEnd (.ite h.fwEnd (.fwEnd h)))
  | sluiceget => exact h.service (fun _ _ _ _ => .ite h.fwEnd (.ite h.fwEnd h.fwEnd))
  | censusStart => exact execCensusStart_memWf h
  | censusStop => exact execCensusStop_memWf h
  | sampleOn => exact h.service (fun _ _ _ _ => .ite h.fwEnd (h.fwBuffer (fun _ h1 => h1.fwBuffer (fun _ h2 => .fwEnd h2))))
  | sampleOff => exact h.service fun _ _ _ _ => .fwEnd h
  | recsessRecord | recsessReplay => exact h.service fun _ _ _ _ => h.sessStart
  | recsessEnd => exact execRecsessEnd_memWf h
  | compactionDone => exact .ite h.evict.sched.next (State.MemWf.next (.dispatch (.of_mem (h.foldl fun _ _ hu => hu.modGang) rfl)))
  | saveComplete => exact execSaveComplete_memWf h
  | retentionEntryDone => exact execRetentionEntryDone_memWf h

theorem State.MemWf.runItem {s : State} {i : Item} (h : s.MemWf) : EndsWf (s.runItem i) := by
  unfold State.runItem
  split
  next e => exact (exec_memWf h.begin i.ev _ e).next
  · exact fun _ e => nomatch e
  · exact h.next

theorem State.MemWf.between {s : State} (h : s.MemWf) : EndsWf s.between := by
  have hp := h.poll
  have ht := h.turns
  have ha := h.advance
  unfold State.between
  generalize s.poll = u at hp ⊢
  generalize s.turns = v at ht ⊢
  generalize s.advance = w at ha ⊢
  refine .next ?_
  split
  · exact hp
  · exact ht
  · exact ha

theorem State.MemWf.tick {s : State} (h : s.MemWf) : EndsWf s.tick := by
  unfold State.tick
  split
  · exact .ite (State.MemWf.runItem (.of_mem h rfl)) h.between
  · exact h.between

/-- What stands before an issue turn's instruction has left memory canonical. -/
def Front.MemWf : Front → Prop
  | .run _ u => u.MemWf
  | .done u => u.MemWf

theorem State.MemWf.front {s : State} {t : Turn} (h : s.MemWf) : (s.front t).MemWf := by
  unfold State.front
  split
  · exact h
  · split
    · exact h
    · split
      · split
        · exact h.awaitFetch
        · split
          · exact h
          · exact h.beforeIssue.withCur
      · exact h.awaitFetch
      · extract_lets s1
        have h1 : s1.MemWf := h.beforeIssue
        split
        · exact h1.trapAccess.fetchForget
        · split
          · exact h1.withCur
          · exact h1.trap

theorem State.MemWf.turn {s : State} {t : Turn} (h : s.MemWf) : EndsWf (s.turn t) := by
  have hf := h.front (t := t)
  unfold State.turn
  split
  next e =>
    rw [e] at hf
    exact exec_memWf hf _
  next e =>
    rw [e] at hf
    exact hf.next

theorem step_memWf {s : State} (h : s.MemWf) : EndsWf (step s) := by
  unfold step
  split
  · exact State.MemWf.turn (.of_mem h rfl)
  · exact h.tick

/-- Settles O3: what every function of the model keeps, the step keeps. -/
theorem stepKeepsMemoryWf : Obligations.StepKeepsMemoryWf := by
  intro s t w e
  exact step_memWf w t e

end Sys2Proof.Machine
end


section
/-! SUPPORT. The accesses that scratchpad instructions issue, and the statement that they settle. -/

namespace Sys2Proof.Machine

/-! ## Requests of scratchpad instructions (R197, R228, R449, R450, R455, R466, R469) -/

section
variable {s u : State} {x : Iss} {p : Pred} {i : Instr}

/-- An instruction that is one call of the operation that issues scratchpad accesses, with a lane and a counter of its own, issues that access. -/
theorem asksPad_of_spReq {a : Nat → DWord} {len : Nat} {align : Bool} {q : Req} (he : exec i s = .next (u.spReq x a len q)) (hl : q.lanes ≠ 0)
    (hc : q.cls < 4) (hk : q.kind.aligned = align) : AsksPad i s u x a len align q := by
  subst hk
  unfold AsksPad
  rw [he]
  unfold State.spReq
  simp only [if_neg hl, if_pos hc, beq_iff_eq]
  rfl

variable (hx : s.iss = some x)
include hx

theorem asksPad_spLoad {d : LDst} {sz : SZ} {base : Iss → DWord} {ws : Option Nat} {addr : Iss → Nat → DWord} (ha : x.act p ≠ 0)
    (he : exec i s = s.spLoad p d sz base ws addr) :
    AsksPad i s s x (addr x) sz.bytes false
      { x.req .lds (base x) (x.indexRow ws) (x.act p) sz.bytes 0 with dest := destOf d sz.wide, signed := sz.sgn } :=
  asksPad_of_spReq (he.trans (State.issue_some hx _)) ha (show 0 < 4 by decide) rfl

theorem asksPad_spStore {a : LSrc} {sz : USZ} {rel : Option Scope} {base : Iss → DWord} {ws : Option Nat} {addr : Iss → Nat → DWord}
    (ha : x.act p ≠ 0) (he : exec i s = s.spStore p a sz rel base ws addr) :
    let data := cutData sz.bytes (x.dataOf sz.wide a)
    AsksPad i s ((s.ordering x rel).hash x (x.act p) (addr x) data) x (addr x) sz.bytes false
      { x.req .sts (base x) (x.indexRow ws) (x.act p) sz.bytes 1 with data := data } := by
  intro data
  refine asksPad_of_spReq (he.trans ((State.issue_some hx _).trans ?_)) ha (show 1 < 4 by decide) rfl
  rw [if_neg ha]

theorem asksPad_atoms (op : AOp) (sz : SZ) (d : Option LDst) (m : LXMem) (a : LSrc) (ha : x.act p ≠ 0) :
    AsksPad (.atoms p op sz d m a) s s x (m.at_ x) sz.bytes true
      { x.req .atoms (m.baseOf x) (x.indexRow m.ws) (x.act p) sz.bytes (if d.isSome then 0 else 1) with
        dest := (d.map (fun r => destOf r sz.wide)).getD .none
        op := op, signed := sz.cmpSigned
        data := if op = .cas then x.casOf sz.wide a else x.dataOf sz.wide a
        cmp := x.dataOf sz.wide a } := by
  refine asksPad_of_spReq ((State.issue_some hx _).trans ?_) ha ?_ rfl
  · cases op <;> cases d <;> rfl
  · cases d
    · exact (show 1 < 4 by decide)
    · exact (show 0 < 4 by decide)

end

/-- Settles O48: each instruction is one call of the operation that issues scratchpad accesses, of lanes or of the uniform path. -/
theorem scratchpadRequests : Obligations.ScratchpadRequests := by
  unfold Obligations.ScratchpadRequests
  intro s x p hx act
  refine ⟨fun ha => ⟨fun d m => ?_, fun sz acq d m => ?_, fun a m => ?_, fun sz rel a m => ?_, fun op sz d m a => ?_⟩, fun hq a b n sb => ⟨?_, ?_, ?_⟩⟩
  · exact (asksPad_spLoad hx ha (show exec (.lds p d m) s = s.spLoad p d .n32 m.baseOf m.ws m.at_ from rfl) :)
  · exact (asksPad_spLoad hx ha (show exec (.ldsLong p sz acq d m) s = s.spLoad p d sz m.baseOf m.ws m.at_ from rfl) :)
  · exact (asksPad_spStore hx ha (show exec (.sts p a m) s = s.spStore p a .n32 none m.baseOf m.ws m.at_ from rfl) :)
  · exact (asksPad_spStore hx ha (show exec (.stsLong p sz rel a m) s = s.spStore p a sz rel m.baseOf m.ws m.at_ from rfl) :)
  · exact asksPad_atoms hx op sz d m a ha
  · exact State.uni_true hx hq _
  · exact State.uni_true hx hq _
  · exact State.uni_true hx hq _

end Sys2Proof.Machine
end


section
/-! SUPPORT. A scratchpad store of more bytes than its lane's data has, and the statement that it refutes. -/

namespace Sys2Proof.Machine

/-- A store to scratchpad by lane 0 of gang 1, at 0x100, which claims 16 bytes. -/
def longStore : Req :=
  { twoBlockLoad none with kind := .sts, base := 0x100, data := [7], parts := [.pad [⟨0, 0x100, 16, 0, 0⟩] 0] }

/-- The store is due; the scratchpad of its team holds 5 at 0x108. -/
def longStoreDue : State :=
  let s := State.reset
  { s with
    clk := { s.clk with subj := ⟨9, 0, 0, 0⟩, now := 50 }
    mem := { s.mem with reqs := [(9, longStore)] }
    work := { s.work with gangs := [(1, codeGang 0 false)], teams := [(0, { codeTeam 0 with sp := [(0x108, 5)] })] } }

/-- The store performs: its array is awake, it alone is due, and nothing holds it back. -/
theorem longStoreDue_performs : (longStoreDue.arrUse (spArr 0)).1 ≤ 50 ∧ longStoreDue.padDue 0 = [9] ∧
    longStoreDue.spWaits 0 longStore.padBlks.1 longStore.padBlks.2 = false := by
  decide +kernel

/-- A lane has 8 bytes of data, so the byte at 0x108 stays. -/
theorem longStoreDue_keeps : ∃ u, exec .scratchpadPerform longStoreDue = .next u ∧ (u.team? 0).map (fun t => readByte t.sp 0x108) = some 5 :=
  ⟨_, rfl, by decide +kernel⟩

/-- Refutes O49, which bounds no access by the 8 bytes that a lane's data has: of the 16 bytes that `longStore` claims, it writes 8, where the
statement has the others become 0. -/
theorem not_scratchpadPerforms : ¬ Obligations.ScratchpadPerforms := by
  unfold Obligations.ScratchpadPerforms
  intro h
  obtain ⟨hawake, hdue, hfree⟩ := longStoreDue_performs
  obtain ⟨hstore, -⟩ := h.1 longStoreDue 9 longStore (codeGang 0 false) { codeTeam 0 with sp := [(0x108, 5)] } rfl rfl rfl rfl rfl hawake hdue hfree
  obtain ⟨u, tm, he, htm, hsp, -⟩ := hstore rfl
  obtain ⟨v, hv, h5⟩ := longStoreDue_keeps
  cases Host.Outcome.next.inj (he.symm.trans hv)
  rw [show u.team? 0 = some tm from htm] at h5
  exact absurd ((Option.some.inj h5).symm.trans (hsp 0x108)) (by decide +kernel)

end Sys2Proof.Machine
end


section
/-! SUPPORT. How a home accepts a request and what it then does with loads, stores and atomics, and the statement that they settle. -/

namespace Sys2Proof.Machine

/-! ## Frames of what a home does with a request -/

/-- A request whose parts have changed. -/
def Req.mapParts (f : Part → Part) (q : Req) : Req := { q with parts := q.parts.map f }

/-- A state in which the parts of every request have changed. -/
def State.mapParts (s : State) (f : Part → Part) : State :=
  { s with mem := { s.mem with reqs := s.mem.reqs.map (fun r => (r.1, r.2.mapParts f)) } }

/-- The part is as it was, or has lost its line. -/
def KeepsButLine (f : Part → Part) : Prop := ∀ p, f p = p ∨ f p = { p with line := none }

/-- A home that cancels fills takes the line from some parts, and changes nothing else. -/
theorem State.cancelFills_eq (s : State) (cl loc ver : Nat) : ∃ f, KeepsButLine f ∧ s.cancelFills cl loc ver = s.mapParts f := by
  unfold State.cancelFills
  extract_lets old
  split
  · refine ⟨fun p => if old p then { p with line := none } else p, fun p => ?_, rfl⟩
    by_cases hp : old p
    · exact .inr (if_pos hp)
    · exact .inl (if_neg hp)
  · refine ⟨id, fun _ => .inl rfl, ?_⟩
    simp only [State.mapParts, Req.mapParts, List.map_id, List.map_id']

theorem KeepsButLine.accs {f : Part → Part} (hf : KeepsButLine f) (p : Part) : (f p).accs = p.accs := by rcases hf p with h | h <;> rw [h]
theorem KeepsButLine.blk {f : Part → Part} (hf : KeepsButLine f) (p : Part) : (f p).blk = p.blk := by rcases hf p with h | h <;> rw [h]
theorem KeepsButLine.st {f : Part → Part} (hf : KeepsButLine f) (p : Part) : (f p).st = p.st := by rcases hf p with h | h <;> rw [h]

/-- What a home does before it serves a load or an atomic: an L1 that would still fill with an older version does not. -/
def State.fillsOff (s : State) (mine : Option Nat) (loc : Nat) : State :=
  match mine with
  | some c => s.cancelFills c loc (mgetD 0 loc s.mem.vers)
  | none => s

theorem State.cancelFills_bytes (s : State) (cl loc ver : Nat) : (s.cancelFills cl loc ver).mem.bytes = s.mem.bytes := by
  obtain ⟨f, -, h⟩ := s.cancelFills_eq cl loc ver
  rw [h]
  rfl

theorem State.fillsOff_bytes (s : State) (mine : Option Nat) (loc : Nat) : (s.fillsOff mine loc).mem.bytes = s.mem.bytes := by
  cases mine with
  | none => rfl
  | some c => exact s.cancelFills_bytes c loc _

theorem State.ownWrite_bytes (s : State) (mine : Option Nat) (loc : Nat) : (s.ownWrite mine loc).mem.bytes = s.mem.bytes := by
  cases mine with
  | none => rfl
  | some c => exact State.cancelFills_bytes (s.dropL1 c loc) _ _ _

theorem State.watchBump_mem (s : State) (loc : Nat) : (s.watchBump loc).mem = s.mem :=
  foldl_keeps (f := fun (u : State) (w : Watch) => u.bumpVersion w.ctx w.idx) State.mem (fun _ _ => rfl) _ _

theorem State.writeAt_bytes {a : Nat} (hw : windowZero a = false) (s : State) (data : List (Option Byte)) :
    (s.writeAt a data).mem.bytes = writeMasked s.mem.bytes a data := by
  unfold State.writeAt State.newVersion
  rw [State.watchBump_mem]
  simp only [hw, Bool.false_eq_true, if_false]

/-! ## The mask of a store -/

/-- The last access that covers a byte gives it; where none does, nothing is written. -/
theorem Req.storeMask_getD (q : Req) (accs : List Acc) {i : Nat} (hi : i < 64) :
    (q.storeMask (accs.map (fun a => (a, true)))).getD i none =
      ((accs.filter (fun y => decide (y.addr.toNat % 64 ≤ i ∧ i < y.addr.toNat % 64 + y.len))).getLast?).map
        (fun y => (q.accBytes y).getD (i - y.addr.toNat % 64) 0) := by
  unfold Req.storeMask
  induction accs using List.reverseRecOn with
  | nil =>
    rw [List.map_nil, List.foldl_nil, List.getD_eq_getElem?_getD, List.getElem?_replicate, if_pos hi]
    rfl
  | append_singleton accs a ih =>
    rw [List.map_append, List.foldl_append, List.filter_append, List.getLast?_append]
    simp only [List.map_cons, List.map_nil, List.foldl_cons, List.foldl_nil, if_true]
    rw [List.getD_eq_getElem?_getD, List.getElem?_map, List.getElem?_range hi, Option.map_some, Option.getD_some]
    by_cases hc : a.addr.toNat % 64 ≤ i ∧ i < a.addr.toNat % 64 + a.len
    · simp [hc]
    · rw [if_neg hc, ih]
      simp [hc]

theorem Req.storeMask_length (q : Req) (accs : List (Acc × Bool)) : (q.storeMask accs).length = 64 := by
  unfold Req.storeMask
  induction accs using List.reverseRecOn with
  | nil => exact List.length_replicate
  | append_singleton accs a ih =>
    rw [List.foldl_append, List.foldl_cons, List.foldl_nil]
    split
    · rw [List.length_map, List.length_range]
    · exact ih

/-- A mask over a block changes the bytes of that block which it gives, and no other. -/
theorem readByte_writeMasked_block {m : List Host.Cell} (w : Memory.wf m = true) {bs : List (Option Byte)} (hb : bs.length = 64) (loc a : Nat) :
    readByte (writeMasked m (loc * 64) bs) a = if a / 64 = loc then (bs.getD (a % 64) none).getD (readByte m a) else readByte m a := by
  rw [readByte_writeMasked bs w]
  by_cases h : a / 64 = loc
  · rw [if_pos (by omega), if_pos h, show a - loc * 64 = a % 64 by omega, List.getD_eq_getElem?_getD]
    cases bs[a % 64]? with
    | none => rfl
    | some b => rfl
  · rw [if_neg h]
    by_cases hl : loc * 64 ≤ a
    · rw [if_pos hl, List.getElem?_eq_none (by omega)]
      rfl
    · rw [if_neg hl]
      rfl

/-! ## Reads at a home -/

theorem State.storedByte_clean {s : State} {loc : Nat} (hf : s.flipsOf loc = []) {a : Nat} (ha : a / 64 = loc) : s.storedByte a = readByte s.mem.bytes a := by
  refine foldl_fixed_of_mem (fun f hm => if_neg fun hp => ?_)
  have := List.map_eq_nil_iff.1 hf
  exact List.filter_eq_nil_iff.1 this f hm (by simp [hp.1, ha])

theorem State.stored_clean {s : State} {loc : Nat} (hf : s.flipsOf loc = []) : s.stored (loc * 64) 64 = readBytes s.mem.bytes (loc * 64) 64 := by
  refine List.ext_getElem (by rw [State.stored, List.length_map, List.length_range, readBytes_length]) fun i hi hj => ?_
  rw [State.stored, List.length_map, List.length_range] at hi
  have hb := readBytes_getD s.mem.bytes (loc * 64) 64 i hi
  rw [List.getD_eq_getElem _ _ hj] at hb
  simp only [State.stored, List.getElem_map, List.getElem_range]
  rw [State.storedByte_clean hf (by omega), hb]

/-- A block without stored errors that is not poisoned is read as it stands. -/
theorem State.readHome_clean {s : State} {loc : Nat} (hf : s.flipsOf loc = []) (hp : poisoned (s.descOf loc) = false) (ctx : Nat) :
    s.readHome loc ctx none = (readBytes s.mem.bytes (loc * 64) 64, false, none, s) := by
  have he : s.eccRead loc ctx none = (.clean, s) := by
    unfold State.eccRead
    simp only [hf, ite_self, List.append_nil]
    rfl
  unfold State.readHome
  simp only [he, State.stored_clean hf, hp]

/-! ## A part after its home has served it -/

/-- The table of requests holds part `b` of request `r`, with these accesses. -/
def State.HasPart (s : State) (r b : Nat) (accs : List Acc) : Prop := ∃ q p, s.req? r = some q ∧ q.parts[b]? = some p ∧ p.accs = accs

/-- Part `b` of request `r` has been accepted, with the data `d`. -/
def State.Accepted (s : State) (r b : Nat) (d : List (List Byte)) : Prop :=
  ∃ q p, s.req? r = some q ∧ q.parts[b]? = some p ∧ p.st = .accepted ∧ p.data = d

theorem lmod_getElem?_self {α : Type} (l : List α) (n : Nat) (f : α → α) : (lmod l n f)[n]? = (l[n]?).map f := by
  induction l generalizing n with
  | nil => rfl
  | cons x l ih =>
    cases n with
    | zero => rfl
    | succ n => exact ih n

section
variable {s t : State} {r b : Nat} {accs : List Acc} (h : s.HasPart r b accs)
include h

theorem State.HasPart.of_reqs (e : t.mem.reqs = s.mem.reqs) : t.HasPart r b accs := by
  obtain ⟨q, p, hq, hp⟩ := h
  exact ⟨q, p, by rwa [State.req?, e], hp⟩

theorem State.HasPart.cancelFills (cl loc ver : Nat) : (s.cancelFills cl loc ver).HasPart r b accs := by
  obtain ⟨q, p, hq, hp, ha⟩ := h
  obtain ⟨f, hf, e⟩ := s.cancelFills_eq cl loc ver
  rw [e]
  refine ⟨q.mapParts f, f p, ?_, ?_, (hf.accs p).trans ha⟩
  · exact (mget_map_snd (Req.mapParts f) r s.mem.reqs).trans (congrArg _ hq)
  · rw [Req.mapParts, List.getElem?_map, hp]
    rfl

theorem State.HasPart.fillsOff (mine : Option Nat) (loc : Nat) : (s.fillsOff mine loc).HasPart r b accs := by
  cases mine with
  | none => exact h
  | some c => exact h.cancelFills c loc _

theorem State.HasPart.ownWrite (mine : Option Nat) (loc : Nat) : (s.ownWrite mine loc).HasPart r b accs := by
  cases mine with
  | none => exact h
  | some c =>
    have h1 : (s.dropL1 c loc).HasPart r b accs := h
    exact (h1.cancelFills c loc _).of_reqs rfl

theorem State.HasPart.writeAt (a : Nat) (data : List (Option Byte)) : (s.writeAt a data).HasPart r b accs :=
  h.of_reqs (by unfold State.writeAt State.newVersion; rw [State.watchBump_mem])

theorem State.HasPart.isSome : (s.req? r).isNone = false := by
  obtain ⟨q, p, hq, -⟩ := h
  rw [hq]
  rfl

theorem State.HasPart.accepted {f : Part → Part} {d : List (List Byte)} (hf : ∀ p, p.accs = accs → (f p).st = .accepted ∧ (f p).data = d) :
    (s.modPart r b f).Accepted r b d := by
  obtain ⟨q, p, hq, hp, ha⟩ := h
  refine ⟨{ q with parts := lmod q.parts b f }, f p, ?_, ?_, hf p ha⟩
  · rw [State.req?] at hq
    rw [State.req?, State.modPart_reqs, mget_mmod, if_pos rfl, hq]
    rfl
  · rw [lmod_getElem?_self, hp]
    rfl

end

/-! ## Held writes do not see the lines of fills (R253) -/

/-- A held write of a request whose parts have changed. -/
def HeldAt.mapParts (f : Part → Part) : HeldAt → HeldAt
  | .part q p => .part (q.mapParts f) (f p)
  | .eng h => .eng h

/-- A numbered held write of a request whose parts have changed. -/
def heldMap (f : Part → Part) (x : Nat × HeldAt) : Nat × HeldAt := (x.1, x.2.mapParts f)

theorem heldInsert_heldMap (f : Part → Part) (n : Nat) (h : HeldWrite) (l : List (Nat × HeldAt)) :
    heldInsert n (.eng h) (l.map (heldMap f)) = (heldInsert n (.eng h) l).map (heldMap f) := by
  induction l with
  | nil => rfl
  | cons y l ih =>
    simp only [heldInsert, List.map_cons, ih, heldMap]
    split
    · rfl
    · rfl

section
variable {f : Part → Part} (hf : KeepsButLine f)
include hf

theorem KeepsButLine.over (x : HeldAt) : (x.mapParts f).over = x.over := by
  funext b
  cases x with
  | eng h => rfl
  | part q p =>
    simp only [HeldAt.mapParts, HeldAt.over, hf.accs]
    rfl

theorem KeepsButLine.heldAt (s : State) (t upto : Nat) (blk : DWord) :
    (s.mapParts f).heldAt t upto blk = (s.heldAt t upto blk).map (heldMap f) := by
  unfold State.heldAt
  extract_lets here reqs' reqs
  have hreqs : reqs' = reqs.map (heldMap f) := by
    have hm : (s.mapParts f).mem.reqs = s.mem.reqs.map (fun r => (r.1, r.2.mapParts f)) := rfl
    simp only [reqs', reqs, hm, List.flatMap_map, List.map_flatMap]
    refine List.flatMap_congr fun x _ => ?_
    rw [apply_ite (List.map (heldMap f)), List.map_filterMap, List.map_nil]
    refine if_congr Iff.rfl ?_ rfl
    simp only [Req.mapParts, List.filterMap_map]
    refine List.filterMap_congr fun y _ => ?_
    simp only [Function.comp_apply, hf.st, hf.blk]
    cases y.st with
    | held =>
      dsimp only
      split
      · rfl
      · rfl
    | _ => rfl
  have hprot : (s.mapParts f).prot? t = s.prot? t := rfl
  rw [hprot]
  cases s.prot? t with
  | none => exact hreqs
  | some pr =>
    rw [hreqs]
    exact List.foldl_hom (List.map (heldMap f)) (fun l h => heldInsert_heldMap f h.id h l)

theorem KeepsButLine.reqView (s : State) (r : Nat) (q : Req) (blk : DWord) (b : List Byte × BitVec 16) :
    (s.mapParts f).reqView r q blk b = s.reqView r q blk b := by
  have h (t : Nat) : (s.mapParts f).teamView t r blk b = s.teamView t r blk b := by
    rw [State.teamView, State.teamView, hf.heldAt, List.foldl_map]
    simp only [heldMap, hf.over]
  unfold State.reqView
  simp only [h]
  rfl

end

theorem State.reqView_fillsOff (s : State) (mine : Option Nat) (loc r : Nat) (q : Req) (blk : DWord) (b : List Byte × BitVec 16) :
    (s.fillsOff mine loc).reqView r q blk b = s.reqView r q blk b := by
  cases mine with
  | none => rfl
  | some c =>
    obtain ⟨f, hf, e⟩ := s.cancelFills_eq c loc (mgetD 0 loc s.mem.vers)
    exact (congrArg (State.reqView · r q blk b) e).trans (hf.reqView s r q blk b)

theorem State.descOf_fillsOff (s : State) (mine : Option Nat) (loc l : Nat) : (s.fillsOff mine loc).descOf l = s.descOf l := by
  cases mine with
  | none => rfl
  | some c =>
    obtain ⟨f, -, e⟩ := s.cancelFills_eq c loc (mgetD 0 loc s.mem.vers)
    exact (congrArg (State.descOf · l) e).trans rfl

theorem State.sliceFill_reqs (s : State) (loc ctx : Nat) (pinned : Bool) (filled : Nat) : (s.sliceFill loc ctx pinned filled).mem.reqs = s.mem.reqs := by
  unfold State.sliceFill
  extract_lets m
  split
  · rfl
  · rfl

theorem State.sliceFill_bytes (s : State) (loc ctx : Nat) (pinned : Bool) (filled : Nat) : (s.sliceFill loc ctx pinned filled).mem.bytes = s.mem.bytes := by
  unfold State.sliceFill
  extract_lets m
  split
  · rfl
  · rfl

/-- All lanes of a part get their bytes. -/
theorem zip_slice (accs : List Acc) (l : List (List Byte)) (hl : l.length = accs.length) :
    ((accs.map (fun a => (a, true))).zip l).map (fun x => if x.1.2 && !false then x.2 else []) = l := by
  rw [List.zip_map_left, List.map_map]
  exact (List.map_congr_left fun x _ => rfl).trans (List.map_snd_zip hl.le)

section
variable {s : State} {r b : Nat} {q : Req} {p : Part} {g : Gang} {h : Home}
variable (htc : leafTagck p.leaf = false) (hs : p.spec = false) (hr : s.rivalOf g = none)
include htc hs hr

theorem State.perform_store_bytes (hk : q.kind = .st ∨ q.kind = .ust) (hw : windowZero (p.loc * 64) = false) :
    let m := q.storeMask (p.accs.map (fun a => (a, true)))
    (s.perform r b q p g h).mem.bytes = if m.all Option.isNone then s.mem.bytes else writeMasked s.mem.bytes (p.loc * 64) m := by
  intro m
  have hacc : q.kind.acc = .write := by rcases hk with hk | hk <;> rw [hk] <;> rfl
  have hds : q.kind ≠ .dset := by rcases hk with hk | hk <;> rw [hk] <;> decide
  unfold State.perform
  simp only [htc, hs, hr, hacc, Bool.false_and, Bool.and_false, Bool.not_false, List.filter_false, List.foldl_nil, Bool.false_eq_true, if_false, if_true,
    beq_self_eq_true, decide_true, Bool.true_or]
  refine (apply_ite (fun u : State => u.mem.bytes) _ _ _).trans ?_
  split
  · rfl
  · exact (State.writeAt_bytes hw _ m).trans (congrArg (writeMasked · _ m) (State.ownWrite_bytes ..))



/-- How a home serves a load or an atomic where no tag is checked and nothing is wrong with the block: a load is answered with the block as its
team sees it; an atomic with the old values, and where one of its accesses writes, the bytes that differ are written. -/
theorem State.perform_reads (hk : q.kind = .ld ∨ q.kind = .atom) (hp : s.HasPart r b p.accs) (hf : s.flipsOf p.loc = []) (hd : poisoned (s.descOf p.loc) = false) :
    let t := s.perform r b q p g h
    let block := readBytes s.mem.bytes (p.loc * 64) 64
    let x := q.atomics (p.accs.map (fun a => (a, true))) block
    (q.kind = .ld → t.Accepted r b (p.slice (s.reqView r q p.blk (block, s.descOf p.loc)).1) ∧ t.mem.bytes = s.mem.bytes) ∧
    (q.kind = .atom → windowZero (p.loc * 64) = false → t.Accepted r b x.2.1 ∧ t.mem.bytes =
      if x.2.2 then writeMasked s.mem.bytes (p.loc * 64) ((x.1.zip block).map (fun y => if y.1 = y.2 then none else some y.1)) else s.mem.bytes) := by
  intro t block x
  have ht : s.perform r b q p g h = t := rfl
  clear_value t
  unfold State.perform at ht
  extract_lets -underBinder loc way tagck tag rd ackAt whole blkTag bad badLanes s1 s1' ok s2 s2' s3 at ht
  have htag : tag = none := if_neg (ne_true_of_eq_false htc)
  have hbad : bad = fun _ => false := by
    funext a
    simp only [bad, tagck, htc, Bool.false_and]
  have hlanes : badLanes = 0 := by
    simp only [badLanes, hbad, List.filter_false, List.foldl_nil]
  have h1 : s1 = s := by simp only [s1, hlanes, decide_true, Bool.true_or, if_true]
  have h1' : s1' = s := by simp only [s1', hr, h1]
  have hok : ok = p.accs.map (fun a => (a, true)) := by simp only [ok, hbad, Bool.not_false]
  have hacc : (q.kind.acc == AccKind.write) = false := by rcases hk with hk | hk <;> rw [hk] <;> rfl
  rw [hacc, Bool.false_and, if_neg Bool.false_ne_true, if_neg Bool.false_ne_true, h1', htag, State.readHome_clean hf hd] at ht
  dsimp -zeta only at ht
  extract_lets -underBinder s4 eats s5 s6 at ht
  have h6 : s6 = s.fillsOff g.l1Of loc := by
    simp only [s6, s5, s4, Bool.false_and, Bool.false_eq_true, if_false]
    rfl
  have hp6 : s6.HasPart r b p.accs := h6 ▸ hp.fillsOff _ _
  have hb6 : s6.mem.bytes = s.mem.bytes := h6 ▸ State.fillsOff_bytes ..
  rw [hp6.isSome, if_neg Bool.false_ne_true, hs, Bool.false_and, if_neg Bool.false_ne_true] at ht
  refine ⟨fun hld => ?_, fun hatom hw => ?_⟩
  · rw [hld] at ht
    dsimp -zeta only at ht
    extract_lets -underBinder seen cached slice s7 exp noHost line s8 s9 at ht
    have h7 : s7.mem.reqs = s6.mem.reqs ∧ s7.mem.bytes = s6.mem.bytes := by
      unfold s7
      split
      · exact ⟨State.sliceFill_reqs .., State.sliceFill_bytes ..⟩
      · exact ⟨rfl, rfl⟩
    have h8 : s8.mem.reqs = s7.mem.reqs ∧ s8.mem.bytes = s7.mem.bytes := by
      unfold s8
      clear_value line
      split
      · exact ⟨rfl, rfl⟩
      · exact ⟨rfl, rfl⟩
      · exact ⟨rfl, rfl⟩
    rw [← ht]
    refine ⟨?_, h8.2.trans (h7.2.trans hb6)⟩
    have hp8 : s8.HasPart r b p.accs := hp6.of_reqs (h8.1.trans h7.1)
    refine (hp8.accepted fun y hy => ⟨rfl, ?_⟩ : s9.Accepted r b _)
    simp only [hok, seen, h6, State.reqView_fillsOff, State.descOf_fillsOff, Part.slice, hy]
    exact zip_slice _ _ (List.length_map _)
  · rw [hatom] at ht
    have hall : ok.map (fun x => (x.1, x.2 && !false)) = p.accs.map (fun a => (a, true)) := by
      rw [hok, List.map_map]
      rfl
    dsimp -zeta only at ht
    rw [hall] at ht
    extract_lets -underBinder s7 gw s8 at ht
    have h7 : s7.HasPart r b p.accs := by
      unfold s7
      split
      · exact ((hp6.ownWrite _ _).writeAt _ _).of_reqs rfl
      · exact hp6.ownWrite _ _
    have hb7 : s7.mem.bytes = if x.2.2 then writeMasked s.mem.bytes (loc * 64) ((x.1.zip block).map (fun y => if y.1 = y.2 then none else some y.1))
        else s.mem.bytes := by
      unfold s7
      split
      · exact (State.writeAt_bytes hw _ _).trans (congrArg (writeMasked · _ _) ((State.ownWrite_bytes ..).trans hb6))
      · exact (State.ownWrite_bytes ..).trans hb6
    have h8 : s8.Accepted r b x.2.1 := h7.accepted fun y _ => ⟨rfl, rfl⟩
    rw [← ht]
    split
    · exact ⟨h8, hb7⟩
    · exact ⟨h8, hb7⟩

end

/-! ## Acceptance (R35, R199, R205, R225) -/

/-- A use of an array moves no clock but the array's own, and leaves queues and sessions alone. -/
theorem State.arrUse_frame (s : State) (arr : Nat) :
    (s.arrUse arr).2.clk.now = s.clk.now ∧ (s.arrUse arr).2.mem.busy = s.mem.busy ∧ (s.arrUse arr).2.sessOf = s.sessOf := by
  unfold State.arrUse
  extract_lets -underBinder a now
  split
  · dsimp only
    split
    · exact ⟨rfl, rfl, rfl⟩
    · exact ⟨rfl, rfl, rfl⟩
  · exact ⟨rfl, rfl, rfl⟩
  · exact ⟨rfl, rfl, rfl⟩
  · exact ⟨rfl, rfl, rfl⟩

/-- The clk at which the array of a home is awake, and the state after its use. -/
def State.homeUse (s : State) (p : Part) (h : Home) : Nat × State :=
  match h with
  | .slice d => s.arrUse (bankArr d p.loc)
  | .window c => s.arrUse (spArr c)
  | _ => (s.clk.now, s)

theorem State.homeUse_frame (s : State) (p : Part) (h : Home) :
    (s.homeUse p h).2.clk.now = s.clk.now ∧ (s.homeUse p h).2.mem.busy = s.mem.busy ∧ (s.homeUse p h).2.sessOf = s.sessOf := by
  cases h with
  | slice d => exact s.arrUse_frame _
  | window c => exact s.arrUse_frame _
  | _ => exact ⟨rfl, rfl, rfl⟩

section
variable {s : State} {r b : Nat} {q : Req} {p : Part} {g : Gang} {h : Home}

theorem State.gate_unrecorded (hn : s.sessOf g = none) (k die : Nat) (pc runpc : DWord) : s.gate k g die pc runpc = (true, s) := by
  unfold State.gate
  rw [hn]

theorem State.accept_performs (hq : s.req? r = some q) (hp : q.parts[b]? = some p) (hg : s.gang? q.gang = some g) (hh : p.home = some h)
    (hst : p.st = .flying) (hout : ∀ d, h ≠ .out d) (hport : (s.homeUse p h).2.portDown h = false)
    (hlink : s.homeDie h = g.die ∨ mgetD 0 (meshQueue g.die (s.homeDie h)) s.mem.busy ≤ s.clk.now)
    (hbusy : max (s.homeUse p h).1 (mgetD 0 h.queue s.mem.busy) ≤ s.clk.now) (hsess : q.kind ≠ .atom ∨ s.sessOf g = none)
    (hearly : (s.homeUse p h).2.earlier r q p (leafTso p.leaf) = none) :
    s.accept r b = ((s.homeUse p h).2.modPart r b (fun p => { p with till := none })).perform r b q p g h := by
  obtain ⟨hnow, hqueue, hsessOf⟩ := s.homeUse_frame p h
  unfold State.accept
  rw [hq]
  dsimp -zeta only
  rw [hp, hg]
  dsimp -zeta only
  rw [hst, hh]
  dsimp -zeta only
  extract_lets -underBinder far link onMesh arr u busy local_ gate
  have hfree : (onMesh && decide (s.clk.now < link)) = false := by
    rcases hlink with hlink | hlink
    · have : onMesh = false := by simp only [onMesh, far, hlink, bne_self_eq_false, Bool.false_and]
      rw [this, Bool.false_and]
    · rw [decide_eq_false (Nat.not_lt.2 hlink), Bool.and_false]
  have hu : u = (s.homeUse p h).2 := rfl
  have hbusy' : busy = max (s.homeUse p h).1 (mgetD 0 h.queue u.mem.busy) := rfl
  have hgate : gate = (true, u) := by
    unfold gate
    split
    next hc =>
      rcases hsess with hsess | hsess
      · simp [hsess] at hc
      · exact State.gate_unrecorded (by rw [hu, hsessOf, hsess]) ..
    · rfl
  clear_value onMesh u busy gate
  subst hu hgate
  rw [hfree, if_neg Bool.false_ne_true, hport, if_neg Bool.false_ne_true, if_neg (by rw [hbusy', hnow, hqueue]; exact Nat.not_lt.2 hbusy)]
  dsimp -zeta only
  rw [Bool.not_true, if_neg Bool.false_ne_true, hearly]
  dsimp -zeta only
  split
  · exact absurd rfl (hout _)
  · rfl

end

/-! ## The bytes that an acceptance leaves (R227, R233, R455) -/

theorem getD_of_all_isNone {α : Type} {m : List (Option α)} (h : m.all Option.isNone = true) (i : Nat) : m.getD i none = none := by
  rw [List.getD_eq_getElem?_getD]
  cases hi : m[i]? with
  | none => rfl
  | some o => exact Option.isNone_iff_eq_none.1 (List.all_eq_true.1 h o (List.mem_of_getElem? hi))

theorem overlayBytes_length {block bs : List Byte} {at_ : Nat} (h : at_ + bs.length ≤ block.length) : (overlayBytes block at_ bs).length = block.length := by
  simp only [overlayBytes, List.length_append, List.length_take, List.length_drop]
  omega

theorem overlayBytes_getD {block bs : List Byte} {at_ : Nat} (h : at_ + bs.length ≤ block.length) (i : Nat) :
    (overlayBytes block at_ bs).getD i 0 = if at_ ≤ i ∧ i < at_ + bs.length then bs.getD (i - at_) 0 else block.getD i 0 := by
  have ht : (block.take at_).length = at_ := List.length_take_of_le (by omega)
  simp only [List.getD_eq_getElem?_getD, overlayBytes]
  by_cases hl : i < at_
  · rw [if_neg (by omega), List.append_assoc, List.getElem?_append_left (by omega), List.getElem?_take_of_lt hl]
  · rw [List.append_assoc, List.getElem?_append_right (by omega), ht]
    by_cases hr : i < at_ + bs.length
    · rw [if_pos ⟨by omega, hr⟩, List.getElem?_append_left (by omega)]
    · rw [if_neg (by omega), List.getElem?_append_right (by omega), List.getElem?_drop, show at_ + bs.length + (i - at_ - bs.length) = i by omega]

/-- A mask of the bytes in which a block has changed gives the changed block. -/
theorem mask_of_changes {after block : List Byte} (h : after.length = block.length) {i : Nat} (hi : i < block.length) :
    (((after.zip block).map (fun y => if y.1 = y.2 then none else some y.1)).getD i none).getD (block.getD i 0) = after.getD i 0 := by
  have ha : i < after.length := h ▸ hi
  have hz : (after.zip block)[i]? = some (after[i], block[i]) := List.getElem?_zip_eq_some.2 ⟨List.getElem?_eq_getElem ha, List.getElem?_eq_getElem hi⟩
  simp only [List.getD_eq_getElem?_getD, List.getElem?_map, hz, List.getElem?_eq_getElem ha, List.getElem?_eq_getElem hi, Option.map_some, Option.getD_some]
  split
  next e => exact e.symm
  · rfl

section
variable {s : State} {r b : Nat} {q : Req} {p : Part} {g : Gang} {h : Home}
variable (htc : leafTagck p.leaf = false) (hs : p.spec = false) (hr : s.rivalOf g = none)
include htc hs hr

theorem State.perform_store_readByte (hk : q.kind = .st ∨ q.kind = .ust) (w : Memory.wf s.mem.bytes = true) (hw : windowZero (p.loc * 64) = false) (a : Nat) :
    readByte (s.perform r b q p g h).mem.bytes a =
      match (p.accs.filter (fun y => decide (a / 64 = p.loc ∧ y.addr.toNat % 64 ≤ a % 64 ∧ a % 64 < y.addr.toNat % 64 + y.len))).getLast? with
      | some y => (q.accBytes y).getD (a % 64 - y.addr.toNat % 64) 0
      | none => readByte s.mem.bytes a := by
  have hm := q.storeMask_length (p.accs.map (fun a => (a, true)))
  have hbytes : readByte (s.perform r b q p g h).mem.bytes a =
      readByte (writeMasked s.mem.bytes (p.loc * 64) (q.storeMask (p.accs.map (fun a => (a, true))))) a := by
    rw [State.perform_store_bytes htc hs hr hk hw]
    split
    next hn => rw [readByte_writeMasked_block w hm, getD_of_all_isNone hn, Option.getD_none, ite_self]
    · rfl
  rw [hbytes, readByte_writeMasked_block w hm, q.storeMask_getD p.accs (Nat.mod_lt a (by decide))]
  by_cases ha : a / 64 = p.loc
  · simp only [ha, if_true, true_and]
    cases (p.accs.filter (fun y => decide (y.addr.toNat % 64 ≤ a % 64 ∧ a % 64 < y.addr.toNat % 64 + y.len))).getLast? <;> rfl
  · simp only [ha, if_false, false_and, decide_false, List.filter_false, List.getLast?_nil]

/-- An atomic of one access that writes leaves its new value at its place. -/
theorem State.perform_atom_one (hk : q.kind = .atom) (hp : s.HasPart r b p.accs) (hf : s.flipsOf p.loc = []) (hd : poisoned (s.descOf p.loc) = false)
    (w : Memory.wf s.mem.bytes = true) (hw : windowZero (p.loc * 64) = false) {y : Acc} (hy : p.accs = [y]) (hin : y.addr.toNat % 64 + y.len ≤ 64) {v : Nat} :
    let base := p.loc * 64
    let t := s.perform r b q p g h
    let old := ((readBytes s.mem.bytes base 64).drop (y.addr.toNat % 64)).take y.len
    atomNew q.op q.signed (8 * y.len) (ofBytes old) (q.data.getD y.lane 0).toNat (q.cmp.getD y.lane 0).toNat = some v →
      t.Accepted r b [old] ∧ ∀ a, readByte t.mem.bytes a =
        if base + y.addr.toNat % 64 ≤ a ∧ a < base + y.addr.toNat % 64 + y.len then (toBytes y.len v).getD (a - (base + y.addr.toNat % 64)) 0
        else readByte s.mem.bytes a := by
  intro base t old hv
  have hx : q.atomics (p.accs.map (fun a => (a, true))) (readBytes s.mem.bytes base 64) =
      (overlayBytes (readBytes s.mem.bytes base 64) (y.addr.toNat % 64) (toBytes y.len v), [old], true) := by
    rw [hy]
    simp only [Req.atomics, List.map_cons, List.map_nil, List.foldl_cons, List.foldl_nil, Bool.not_true, Bool.false_eq_true, if_false, List.nil_append]
    rw [hv]
  obtain ⟨hacc, hbytes⟩ := (State.perform_reads htc hs hr (.inr hk) hp hf hd (h := h)).2 hk hw
  rw [hx] at hacc hbytes
  refine ⟨hacc, fun a => ?_⟩
  have hlen := readBytes_length s.mem.bytes base 64
  have hfit : y.addr.toNat % 64 + (toBytes y.len v).length ≤ (readBytes s.mem.bytes base 64).length := by
    rw [toBytes_length, hlen]
    exact hin
  have hov := overlayBytes_length hfit
  rw [hbytes, if_pos rfl, readByte_writeMasked_block w (by rw [List.length_map, List.length_zip, hov, hlen, Nat.min_self])]
  by_cases ha : a / 64 = p.loc
  · have hi : a % 64 < 64 := Nat.mod_lt a (by decide)
    have hold := readBytes_getD s.mem.bytes base 64 (a % 64) hi
    have hplace : base + a % 64 = a := by omega
    rw [hplace] at hold
    rw [if_pos ha, ← hold, mask_of_changes hov (hlen.symm ▸ hi), overlayBytes_getD hfit, toBytes_length,
      show a - (base + y.addr.toNat % 64) = a % 64 - y.addr.toNat % 64 by omega]
    exact if_congr (by omega) rfl rfl
  · rw [if_neg ha, if_neg (by omega)]

end

/-- Settles O45: acceptance is the use of the home's array and the performance of the access; a store writes its mask, a load is answered with
the block as its team sees it, an atomic writes the bytes that it changes. -/
theorem homeAccepts : Obligations.HomeAccepts := by
  unfold Obligations.HomeAccepts
  intro s r b q p g h hq hpart hg hhome u
  refine ⟨fun ha hb hst hout hport hlink hbusy hsess hearly => ?_, fun htc hs hr => ⟨fun hk w hw a => ?_, fun hf hd => ⟨fun hk => ?_, ?_⟩⟩⟩
  · subst ha hb
    exact congrArg _ (State.accept_performs hq hpart hg hhome hst hout hport hlink hbusy hsess hearly)
  · exact State.perform_store_readByte htc hs hr hk w hw a
  · obtain ⟨hacc, hbytes⟩ := (State.perform_reads htc hs hr (.inl hk) ⟨q, p, hq, hpart, rfl⟩ hf hd (h := h)).1 hk
    exact ⟨hacc, fun a => congrArg (readByte · a) hbytes⟩
  · exact fun y v hk hy hin w hw hv => State.perform_atom_one htc hs hr hk ⟨q, p, hq, hpart, rfl⟩ hf hd w hw hy hin hv

end Sys2Proof.Machine
end

section
/-! SUPPORT. Number formats (R294 to R302): what an encoding decodes to, that rounding a number of the format gives its encoding back, that the order of
the operands of a sum or product does not matter, and what a conversion to an integer gives. -/

namespace Sys2Proof.Machine

/-! ## Decoding (R294, R295) -/

/-- A format of 16 bits or more, whose infinity stands just above its greatest finite number. -/
def Fmt.Wide (f : Fmt) : Prop := 16 ≤ f.w ∧ f.inf = some (f.maxFin + 1)

theorem Fmt.wide_of_mem {f : Fmt} (h : f ∈ [Fmt.f32, Fmt.f64, Fmt.bf16, Fmt.f16]) : f.Wide := by
  simp only [List.mem_cons, List.not_mem_nil, or_false] at h
  rcases h with rfl | rfl | rfl | rfl <;> exact ⟨by decide, rfl⟩

section
variable {f : Fmt} {b : Nat}

/-- An encoding is its sign and its magnitude. -/
theorem Fmt.signBits_add_mag (hw : 0 < f.w) (hb : b < 2 ^ f.w) : f.signBits (f.neg b) + f.mag b = b := by
  have htop : b / 2 ^ (f.w - 1) < 2 := by
    rw [Nat.div_lt_iff_lt_mul (Nat.two_pow_pos _), ← Nat.pow_succ', Nat.succ_eq_add_one, Nat.sub_add_cancel hw]
    exact hb
  have hsplit := Nat.div_add_mod b (2 ^ (f.w - 1))
  simp only [Fmt.signBits, Fmt.neg, Fmt.mag, Nat.mod_eq_of_lt htop, decide_eq_true_eq]
  obtain h | h := Nat.le_one_iff_eq_zero_or_eq_one.1 (Nat.le_of_lt_succ htop) <;> rw [h] at hsplit ⊢ <;> simpa using hsplit

theorem Fmt.decode_subnormal (hm : f.mag b ≤ f.maxFin) (h : f.mag b < 2 ^ f.mb) :
    f.decode b = .fin (f.neg b) (f.mag b) (1 - f.bias - f.mb) := by
  simp only [Fmt.decode, if_pos hm, Nat.div_eq_of_lt h, Nat.mod_eq_of_lt h, if_true]

theorem Fmt.decode_normal (hm : f.mag b ≤ f.maxFin) (h : 2 ^ f.mb ≤ f.mag b) :
    f.decode b = .fin (f.neg b) (2 ^ f.mb + f.mag b % 2 ^ f.mb) ((f.mag b / 2 ^ f.mb : Nat) - f.bias - f.mb) := by
  simp only [Fmt.decode, if_pos hm, if_neg (Nat.div_pos h (Nat.two_pow_pos _)).ne']

theorem Fmt.decode_inf (hf : f.Wide) (h : f.mag b = f.maxFin + 1) : f.decode b = .inf (f.neg b) := by
  simp only [Fmt.decode, h, hf.2, if_true, if_neg (Nat.not_succ_le_self f.maxFin)]

theorem Fmt.decode_nan (hf : f.Wide) (h : f.maxFin + 1 < f.mag b) : f.decode b = .nan (decide (f.mag b / 2 ^ (f.mb - 1) % 2 = 0)) := by
  have hne : ¬ f.inf = some (f.mag b) := by rw [hf.2, Option.some.injEq]; exact h.ne
  simp only [Fmt.decode, if_neg (Nat.not_le.2 (Nat.lt_of_succ_lt h)), if_neg hne, decide_eq_true hf.1, Bool.true_and]

theorem Fmt.decode_zero (h : f.mag b = 0) : f.decode b = .fin (f.neg b) 0 (1 - f.bias - f.mb) := by
  rw [Fmt.decode_subnormal (h ▸ Nat.zero_le _) (h ▸ Nat.two_pow_pos _), h]

/-! ## Rounding gives a number of the format back (R296) -/

/-- A subnormal has the least exponent: it is its own fraction. -/
theorem Fmt.roundMag_subnormal (rm : RMode) (neg : Bool) {m : Nat} (h : m < 2 ^ f.mb) : f.roundMag rm neg m (1 - f.bias - f.mb) = m := by
  obtain rfl | hm := Nat.eq_zero_or_pos m
  · rfl
  have hlog : Nat.log2 m < f.mb := (Nat.log2_lt hm.ne').2 h
  have hq : max ((Nat.log2 m : Int) + (1 - f.bias - f.mb) - f.mb) (1 - f.bias - f.mb) = 1 - f.bias - f.mb := max_eq_right (by omega)
  simp [Fmt.roundMag, hm.ne', hq]

/-- A normal number keeps its exponent, which stands above its fraction. -/
theorem Fmt.roundMag_normal (rm : RMode) (neg : Bool) {ex fr : Nat} (hex : 1 ≤ ex) (hfr : fr < 2 ^ f.mb) :
    f.roundMag rm neg (2 ^ f.mb + fr) (ex - f.bias - f.mb) = ex * 2 ^ f.mb + fr := by
  have hpos : 2 ^ f.mb + fr ≠ 0 := (Nat.add_pos_left (Nat.two_pow_pos _) _).ne'
  have hlog : Nat.log2 (2 ^ f.mb + fr) = f.mb := (Nat.log2_eq_iff hpos).2 ⟨Nat.le_add_right _ _, by rw [Nat.pow_succ]; omega⟩
  have hq : max ((f.mb : Int) + (ex - f.bias - f.mb) - f.mb) (1 - f.bias - f.mb) = ex - f.bias - f.mb := by
    rw [max_eq_left (by omega)]; omega
  have hexp : ((ex : Int) - f.bias - f.mb - (1 - f.bias - f.mb)).toNat = ex - 1 := by omega
  simp only [Fmt.roundMag, if_neg hpos, hlog, hq, le_refl, if_true, sub_self, Int.toNat_zero, pow_zero, mul_one, hexp]
  obtain ⟨k, rfl⟩ := Nat.exists_eq_add_of_le' hex
  rw [Nat.add_sub_cancel, Nat.succ_mul]
  omega

/-- A finite number of a format rounds to itself. -/
theorem Fmt.round_finite (rm : RMode) (hw : 0 < f.w) (hb : b < 2 ^ f.w) (hm : f.mag b ≤ f.maxFin) : f.round rm (f.decode b) = { bits := b } := by
  have back {m : Nat} {e : Int} (h : f.roundMag rm (f.neg b) m e = f.mag b) : f.round rm (.fin (f.neg b) m e) = { bits := b } := by
    simp only [Fmt.round, h, if_pos hm, Fmt.signBits_add_mag hw hb]
  obtain h | h := Nat.lt_or_ge (f.mag b) (2 ^ f.mb)
  · rw [Fmt.decode_subnormal hm h]
    exact back (Fmt.roundMag_subnormal rm _ h)
  · rw [Fmt.decode_normal hm h]
    refine back ((Fmt.roundMag_normal rm _ (Nat.div_pos h (Nat.two_pow_pos _)) (Nat.mod_lt _ (Nat.two_pow_pos _))).trans ?_)
    exact Nat.div_add_mod' _ _

theorem Fmt.round_inf (rm : RMode) (hf : f.Wide) (hb : b < 2 ^ f.w) (h : f.mag b = f.maxFin + 1) : f.round rm (f.decode b) = { bits := b } := by
  have hw : 0 < f.w := Nat.lt_of_lt_of_le (by decide) hf.1
  rw [Fmt.decode_inf hf h, Fmt.round, Fmt.infBits, hf.2, Option.getD_some, ← h, Fmt.signBits_add_mag hw hb]

end

/-! ## Sums and products (R295, R296, R298) -/

theorem FVal.add_comm (rm : RMode) (a b : FVal) : a.add rm b = b.add rm a := by
  cases a with
  | nan s => cases b with
    | nan t => simp only [FVal.add, Bool.or_comm]
    | inf k => rfl
    | fin k l e => rfl
  | inf n => cases b with
    | nan t => rfl
    | inf k =>
      by_cases h : n = k
      · rw [h]
      · simp only [FVal.add, if_neg h, if_neg (Ne.symm h)]
    | fin k l e => rfl
  | fin n m e => cases b with
    | nan t => rfl
    | inf k => rfl
    | fin k l e' =>
      have hzero : (if m = 0 ∧ l = 0 ∧ n = k then FVal.fin n 0 0 else .fin (rm == .rd) 0 0) =
          if l = 0 ∧ m = 0 ∧ k = n then FVal.fin k 0 0 else .fin (rm == .rd) 0 0 := by
        by_cases h : n = k
        · subst h; simp only [and_true, true_and, and_comm (a := m = 0)]
        · simp only [h, Ne.symm h, and_false, if_false]
      simp only [FVal.add, min_comm e' e, hzero, Int.add_comm (signed k _)]

theorem FVal.mul_comm (a b : FVal) : a.mul b = b.mul a := by
  cases a with
  | nan s => cases b with
    | nan t => simp only [FVal.mul, Bool.or_comm]
    | inf k => rfl
    | fin k l e => rfl
  | inf n => cases b with
    | nan t => rfl
    | inf k => simp only [FVal.mul, bne_comm]
    | fin k l e => rfl
  | fin n m e => cases b with
    | nan t => rfl
    | inf k => rfl
    | fin k l e' => simp only [FVal.mul, bne_comm, Nat.mul_comm m, Int.add_comm e]

/-- Settles O26: a finite number decodes to a fraction and exponent that `Fmt.roundMag` puts together again; sums and products of values commute. -/
theorem floatLaws : Obligations.FloatLaws := by
  unfold Obligations.FloatLaws
  refine ⟨fun f rm b hf hb => ?_, fun f rm a b hf => ?_⟩ <;> have hwide := Fmt.wide_of_mem hf
  · refine ⟨fun h => ?_, fun h => ?_, fun h => ?_⟩
    · simp [Fmt.round_finite rm (Nat.lt_of_lt_of_le (by decide) hwide.1) hb h]
    · simp [Fmt.round_inf rm hwide hb h]
    · simp [Fmt.decode_nan hwide h, Fmt.round]
  · refine ⟨?_, ?_, fun ha hb hne => ?_, fun ha hb => ?_⟩
    · simp only [Fmt.add, FVal.add_comm rm (f.decode a)]
    · simp only [Fmt.mul, FVal.mul_comm (f.decode a)]
    · simp [Fmt.add, Fmt.decode_inf hwide ha, Fmt.decode_inf hwide hb, FVal.add, hne, Fmt.arith, Fmt.round]
    · simp [Fmt.mul, Fmt.decode_inf hwide ha, Fmt.decode_zero hb, FVal.mul, Fmt.arith, Fmt.round]

/-! ## Conversions to integers (R302, R434) -/

theorem intRange_eq (w : Nat) (sg : Bool) :
    intRange w sg = ((if sg then -2 ^ (w - 1) else 0 : Int), (if sg then 2 ^ (w - 1) - 1 else 2 ^ w - 1 : Int)) := by
  cases sg <;> simp [intRange]

theorem intRange_le (w : Nat) (sg : Bool) : (intRange w sg).1 ≤ (intRange w sg).2 := by
  have h1 := Int.pow_pos (n := 2) (m := w - 1) (by decide)
  have h2 := Int.pow_pos (n := 2) (m := w) (by decide)
  rw [intRange_eq]
  cases sg
  · simp only [Bool.false_eq_true, if_false]; omega
  · simp only [if_true]; omega

/-- The bits of an integer are its residue. -/
theorem ofInt_toNat_cast (w : Nat) (n : Int) : ((BitVec.ofInt w n).toNat : Int) = n % 2 ^ w := by
  rw [BitVec.toNat_ofInt, Int.toNat_of_nonneg (Int.emod_nonneg _ (by positivity))]
  simp

/-- A finite value is rounded and clamped to the range; INVALID says that it lay outside. -/
theorem toInteger_fin (rm : RMode) (sat : Bool) {lo hi : Int} (hle : lo ≤ hi) (neg : Bool) (m : Nat) (e : Int) :
    let k := roundInt rm neg m e
    (toInteger rm sat lo hi (.fin neg m e)).1 = max lo (min hi k) ∧
    ((toInteger rm sat lo hi (.fin neg m e)).2 = true ↔ sat = false ∧ (k < lo ∨ hi < k)) := by
  intro k
  have hcases : toInteger rm sat lo hi (.fin neg m e) = if k < lo then (lo, !sat) else if hi < k then (hi, !sat) else (k, false) := rfl
  rw [hcases]
  split
  next h => exact ⟨by omega, by simp [h]⟩
  next h =>
    split
    next h' => exact ⟨by omega, by simp [h']⟩
    next h' => exact ⟨by omega, by simp [h, h']⟩

/-- Settles O28: an integer result is the residue of what the range leaves of the source's value. -/
theorem integerConversions : Obligations.IntegerConversions := by
  unfold Obligations.IntegerConversions
  intro w v sg sv ftz sat rm f b _ _ _ n r lo hi
  have hrange : intRange w sg = (lo, hi) := intRange_eq w sg
  have hle : lo ≤ hi := by simpa only [hrange] using intRange_le w sg
  refine ⟨⟨rfl, rfl, rfl⟩, ?_, ?_, ?_⟩
  · rintro rfl
    exact ofInt_toNat_cast w n
  · rintro rfl
    refine (ofInt_toNat_cast w _).trans ?_
    rw [hrange]; rfl
  · intro q
    have hq : q = { bits := (BitVec.ofInt w (toInteger rm sat lo hi ((Elem.flt f).src ftz b)).1).toNat, inv := (toInteger rm sat lo hi ((Elem.flt f).src ftz b)).2 } := by
      simp only [q, cvtOne, hrange]
    rw [hq]
    cases (Elem.flt f).src ftz b with
    | nan sig => exact ⟨by simp [toInteger], rfl⟩
    | inf neg => exact ⟨ofInt_toNat_cast w _, rfl⟩
    | fin neg m e =>
      obtain ⟨hval, hinv⟩ := toInteger_fin rm sat hle neg m e
      exact ⟨hval ▸ ofInt_toNat_cast w _, hinv⟩

end Sys2Proof.Machine
end

section
/-! SUPPORT. The long float forms and the block forms: an instruction's results are those of the elements of each active lane. -/

namespace Sys2Proof.Machine

/-! ## Elements of a lane (R426) -/

theorem Iss.elems_eq (x : Iss) (ty : FTy) (a : LSrc) (l : Nat) : x.elems ty a l = (List.range (ftyElems ty)).map (x.elem ty a l) := by
  have pair (w : Word) : [w.toNat % 2 ^ 16, w.toNat / 2 ^ 16] = [w.toNat / 2 ^ (16 * 0) % 2 ^ 16, w.toNat / 2 ^ (16 * 1) % 2 ^ 16] := by
    rw [Nat.mul_one, Nat.mod_eq_of_lt (a := w.toNat / 2 ^ 16) (by have := w.isLt; omega), Nat.mul_zero, Nat.pow_zero, Nat.div_one]
  cases ty with
  | f32 => rfl
  | f64 => rfl
  | bf16x2 => exact pair _
  | f16x2 => exact pair _

theorem Iss.elems_getD (x : Iss) (ty : FTy) (a : LSrc) (l : Nat) {i : Nat} (hi : i < ftyElems ty) : (x.elems ty a l).getD i 0 = x.elem ty a l i := by
  simp [Iss.elems_eq, List.getD_eq_getElem?_getD, hi]

/-- An element has the bits of its format alone. -/
theorem Iss.elem_lt (x : Iss) (ty : FTy) (a : LSrc) (l i : Nat) : x.elem ty a l i < 2 ^ (ftyFmt ty).w := by
  cases ty with
  | f32 => exact (x.w32 a l).isLt
  | f64 => exact (x.f64 a l).isLt
  | bf16x2 => exact Nat.mod_lt _ (by decide)
  | f16x2 => exact Nat.mod_lt _ (by decide)

theorem ftyLat_eq (ty : FTy) : ftyLat ty = if ty = .f64 then 8 else 4 := by cases ty <;> rfl

/-! ## A float instruction (R425, R429) -/

/-- The results of the elements of lane `l`. -/
def Iss.elemRes (x : Iss) (ty : FTy) (srcs : List LSrc) (f : Fmt → List Nat → FRes) (l : Nat) : List FRes :=
  let es := srcs.map (fun a => x.elems ty a l)
  (List.range (ftyElems ty)).map (fun i => f (ftyFmt ty) (es.map (fun e => e.getD i 0)))

theorem Iss.elemRes_eq (x : Iss) (ty : FTy) (srcs : List LSrc) (f : Fmt → List Nat → FRes) (l : Nat) :
    x.elemRes ty srcs f l = (List.range (ftyElems ty)).map (fun i => f (ftyFmt ty) (srcs.map (fun a => x.elem ty a l i))) := by
  refine List.map_congr_left fun i hi => ?_
  rw [List.map_map]
  exact congrArg _ (List.map_congr_left fun a _ => x.elems_getD ty a l (List.mem_range.1 hi))

/-- The writes of the results `rs` of all slots. -/
def laneWrites (ty : FTy) (d : LDst) (act : Mask) (rs : List (List FRes)) : List Write :=
  let v := fun (l : Nat) => packElems ty ((rs.getD l []).map FRes.bits)
  match ty with
  | .f64 => write64 d act (fun l => BitVec.ofNat 64 (v l))
  | _ => write32 d act (fun l => BitVec.ofNat 32 (v l))

theorem laneRes_map_bits {l : Nat} (hl : l < 32) (act : Mask) (r : Nat → List FRes) :
    ((laneRes act r).getD l []).map FRes.bits = if act.has l then (r l).map FRes.bits else [] := by
  rw [laneRes_getD hl]
  cases act.has l <;> rfl

/-- The bits of result `j` of lane `l`: 0 where the lane is not active. -/
theorem laneRes_bits {n l j : Nat} (hl : l < 32) (hj : j < n) (act : Mask) (r : Nat → Nat → FRes) :
    (((laneRes act (fun l => (List.range n).map (r l))).getD l []).map FRes.bits).getD j 0 = if act.has l then (r l j).bits else 0 := by
  rw [laneRes_map_bits hl]
  cases act.has l
  · rfl
  · simp [List.getD_eq_getElem?_getD, hj]

theorem causes_laneRes_any (act : Mask) (r : Nat → List FRes) :
    let any := fun (g : FRes → Bool) => maskOf act (fun l => (r l).any g)
    causes (laneRes act r) = [(0x201, any FRes.inv), (0x202, any FRes.dz), (0x203, any FRes.ovf)].filter (fun c => c.2 ≠ 0) := by
  simp only [causes, causeMask_laneRes]

theorem laneWrites_laneRes (ty : FTy) (d : LDst) (act : Mask) (r : Nat → Nat → FRes) :
    laneWrites ty d act (laneRes act (fun l => (List.range (ftyElems ty)).map (r l))) = floatWrites ty d act r := by
  have pair {l : Nat} (hl : l < 32) := congrArg₂ (fun lo hi => BitVec.ofNat 32 (lo + hi * 2 ^ 16))
    (laneRes_bits (n := 2) (j := 0) hl (by decide) act r) (laneRes_bits (n := 2) (j := 1) hl (by decide) act r)
  have single {l : Nat} (hl : l < 32) := laneRes_bits (n := 1) (j := 0) hl (by decide) act r
  cases ty with
  | f32 => exact write32_congr (fun l hl => congrArg (BitVec.ofNat 32) (single hl)) d act
  | f64 => exact write64_congr (fun l hl => congrArg (BitVec.ofNat 64) (single hl)) d act
  | bf16x2 => exact write32_congr (fun l hl => pair hl) d act
  | f16x2 => exact write32_congr (fun l hl => pair hl) d act

theorem State.laneF_eq {s : State} {x : Iss} (hx : s.iss = some x) (p : Pred) (ty : FTy) (lat : Nat) (d : LDst) (srcs : List LSrc)
    (f : Fmt → List Nat → FRes) : s.laneF p ty lat d srcs f =
      .next (s.regs x lat (x.tagU srcs) (laneWrites ty d (x.act p) (laneRes (x.act p) (x.elemRes ty srcs f))) (causes (laneRes (x.act p) (x.elemRes ty srcs f)))) :=
  State.issue_some hx _

section
variable {i : Instr} {s : State} {x : Iss} (hx : s.iss = some x)
include hx

/-- A float instruction sends the results of its active lanes' elements. -/
theorem sendsFloat_of_laneF {p : Pred} {ty : FTy} {lat : Nat} {d : LDst} {srcs : List LSrc} {f : Fmt → List Nat → FRes} {r : Nat → Nat → FRes}
    (he : exec i s = s.laneF p ty lat d srcs f) (hr : ∀ l j, f (ftyFmt ty) (srcs.map (fun a => x.elem ty a l j)) = r l j) :
    SendsFloat i s x p ty lat d r := by
  have hres : laneRes (x.act p) (x.elemRes ty srcs f) = laneRes (x.act p) (fun l => (List.range (ftyElems ty)).map (r l)) := by
    refine congrArg _ (funext fun l => ?_)
    simp only [Iss.elemRes_eq, hr]
  refine sends_of_regs lat (x.tagU srcs) _ _ hx ?_
  rw [he, State.laneF_eq hx, hres, laneWrites_laneRes, causes_laneRes]

theorem sends_of_laneCmp {p : Pred} {ty : FTy} {cc : FCC} {ftz : Bool} {pd : Fin 8} {a b : LSrc}
    (he : exec i s = s.laneCmp p ty cc ftz pd a b) :
    let f := ftyFmt ty
    let r := fun (l : Nat) => f.cmp cc (f.ftz ftz (x.elem ty a l 0)) (f.ftz ftz (x.elem ty b l 0))
    let inv := maskOf (x.act p) (fun l => (r l).2)
    Sends i s x (ftyLat ty) [.p pd.val (x.act p) (maskOf (x.act p) (fun l => (r l).1))] (if inv = 0 then [] else [(0x201, inv)]) := by
  have hpos : 0 < ftyElems ty := by cases ty <;> decide
  refine sends_of_regs _ .general _ _ hx ?_
  simp only [he, State.laneCmp, State.issue_some hx, x.elems_getD ty _ _ hpos]

/-- A lane instruction of one 32-bit result sends that of each lane. -/
theorem sends_of_lane32 {p : Pred} {lat : Nat} {d : LDst} {tag : Iss → Tag} {f : Iss → Nat → Word} {v : Nat → Word}
    (he : exec i s = s.lane32 p lat d tag f) (hv : ∀ l, f x l = v l) : Sends i s x lat (write32 d (x.act p) v) :=
  sends_of_regs lat (tag x) _ _ hx (by rw [he, State.lane32, State.issue_some hx, funext hv])

end

theorem exec_fabs (p : Pred) (ty : FTy) (d : LDst) (a : LSrc) (s : State) :
    exec (.fabs p ty d a) s = s.laneF p ty (ftyLat ty) d [a] (fun f es => { bits := f.mag (es.getD 0 0) }) := rfl

theorem exec_fneg (p : Pred) (ty : FTy) (d : LDst) (a : LSrc) (s : State) :
    exec (.fneg p ty d a) s = s.laneF p ty (ftyLat ty) d [a] (fun f es => { bits := f.mag (es.getD 0 0) + f.signBits (!f.neg (es.getD 0 0)) }) := rfl

theorem xor_two_pow_of_lt {n k : Nat} (h : n < 2 ^ k) : n ^^^ 2 ^ k = 2 ^ k + n := by
  refine Nat.eq_of_testBit_eq fun i => ?_
  rw [Nat.testBit_xor, Nat.testBit_two_pow]
  obtain hi | rfl | hi := Nat.lt_trichotomy i k
  · rw [Nat.testBit_two_pow_add_gt hi, decide_eq_false hi.ne', Bool.xor_false]
  · rw [Nat.testBit_two_pow_add_eq, decide_eq_true rfl, Bool.xor_true]
  · have hn : n < 2 ^ i := h.trans_le (Nat.pow_le_pow_right (by decide) hi.le)
    have hs : 2 ^ k + n < 2 ^ i := by
      have := Nat.pow_le_pow_right (n := 2) (by decide) (Nat.succ_le_of_lt hi)
      rw [Nat.pow_succ] at this
      omega
    rw [Nat.testBit_lt_two_pow hn, Nat.testBit_lt_two_pow hs, decide_eq_false hi.ne, Bool.xor_false]

/-- The other sign with the same magnitude inverts the sign bit. -/
theorem Fmt.negate_eq_xor {f : Fmt} (hw : 0 < f.w) {b : Nat} (hb : b < 2 ^ f.w) : f.mag b + f.signBits (!f.neg b) = Nat.xor b (2 ^ (f.w - 1)) := by
  have hsum := Fmt.signBits_add_mag hw hb
  have hmag : f.mag b ^^^ 2 ^ (f.w - 1) = 2 ^ (f.w - 1) + f.mag b := xor_two_pow_of_lt (Nat.mod_lt _ (Nat.two_pow_pos _))
  change _ = b ^^^ 2 ^ (f.w - 1)
  cases hn : f.neg b with
  | false =>
    simp only [hn, Fmt.signBits, Bool.false_eq_true, if_false, Nat.zero_add] at hsum
    conv_rhs => rw [← hsum, hmag, Nat.add_comm]
    rfl
  | true =>
    simp only [hn, Fmt.signBits, if_true] at hsum
    rw [← hmag] at hsum
    conv_rhs => rw [← hsum, Nat.xor_assoc, Nat.xor_self, Nat.xor_zero]
    rfl

/-- The class words of a register's elements. -/
theorem packElems_class (x : Iss) (ty : FTy) (a : LSrc) (l : Nat) (c : Nat → Nat) :
    packElems ty ((x.elems ty a l).map c) = c (x.elem ty a l 0) + (if ftyElems ty = 2 then c (x.elem ty a l 1) * 2 ^ 16 else 0) := by
  rw [Iss.elems_eq]
  cases ty <;> rfl

/-- Settles O25: each form is a float instruction with its own operation, a compare, or one 32-bit result. -/
theorem longFloats : Obligations.LongFloats := by
  unfold Obligations.LongFloats
  intro s x p ty rm ftz w d a b c cc pd hx f z A B C lat out g
  have hlat : lat = ftyLat ty := (ftyLat_eq ty).symm
  have hw : 0 < f.w := by cases ty <;> decide
  have float {i : Instr} {srcs : List LSrc} {op : Fmt → List Nat → FRes} {r : Nat → Nat → FRes} (he : exec i s = s.laneF p ty (ftyLat ty) d srcs op)
      (hr : ∀ l j, op f (srcs.map (fun a => x.elem ty a l j)) = r l j) : g i r := by
    simp only [g, hlat]; exact sendsFloat_of_laneF hx he hr
  refine ⟨float rfl fun _ _ => rfl, float rfl fun _ _ => rfl, float rfl fun _ _ => rfl, float rfl fun _ _ => rfl, float rfl fun _ _ => rfl,
    float rfl fun _ _ => rfl, float rfl fun _ _ => rfl, float rfl fun _ _ => rfl, float (exec_fabs ..) fun _ _ => rfl, ?fneg, ?fclass, ?fcmp⟩
  case fneg =>
    exact float (exec_fneg ..) fun l j => congrArg (fun n => ({ bits := n } : FRes)) (Fmt.negate_eq_xor hw (x.elem_lt ty a l j))
  case fclass =>
    rw [hlat]
    exact sends_of_lane32 hx rfl fun l => congrArg (BitVec.ofNat 32) (packElems_class x ty a l _)
  case fcmp =>
    cases w with
    | false => exact sends_of_laneCmp hx rfl
    | true => exact sends_of_laneCmp hx rfl

/-! ## Blocks (R306 to R309, R435 to R438) -/

theorem seE_eq {se : Nat} (h : se < 2 ^ 12) : seE se = se / 16 := Nat.mod_eq_of_lt (by omega)

theorem dqAccepts_iff (four : Bool) (k : Nat) : dqAccepts four k = true ↔ if four = true then k ∈ [0, 3, 6] else k ∈ [0, 1, 2, 4, 5] := by
  cases four <;> simp [dqAccepts, or_assoc]

/-- A field of the low half of a register is the same field of the register. -/
theorem mod_div_mod_two_pow {n a b : Nat} (h : a + b ≤ 16) : n % 2 ^ 16 / 2 ^ a % 2 ^ b = n / 2 ^ a % 2 ^ b := by
  obtain ⟨c, hc⟩ := Nat.exists_eq_add_of_le h
  rw [hc, Nat.add_assoc, Nat.pow_add, Nat.mod_mul_right_div_self, Nat.pow_add, Nat.mod_mul_right_mod]

/-- A choice between pairs is a choice in each place. -/
theorem ite_pair_eq_map {P Q : Prop} [Decidable P] [Decidable Q] {α : Type} (u v : α) (f : Nat → α) :
    (if P then [u, u] else if Q then [v, v] else [f 0, f 1]) = (List.range 2).map (fun i => if P then u else if Q then v else f i) := by
  split_ifs <;> rfl

section
variable {s : State} {x : Iss} (hx : s.iss = some x) (p : Pred) {ty : QTy} (rm : RMode) (d : LDst) (a : LSrc) {c : Option LSrc}
include hx

/-- QBLK: the block of all slots is quantised at once. -/
theorem qblk_sends (hc : c.isSome = (ty == .e2m1)) :
    let n := if ty = .e2m1 then 4 else 2
    let own := fun (l : Nat) => if (x.act p).has l then (x.quads a c l).map Fmt.f32.decode else List.replicate n (.fin false 0 0)
    let q := quantBlock (qtyCode ty) rm ((List.range 32).flatMap own)
    let bad := maskOf (x.act p) (fun l => (x.quads a c l).any (fun v => !(Fmt.f32.decode v).isFinite))
    Sends (.qblk p ty rm d a c) s x 6 (write32 d (x.act p) (fun l =>
      BitVec.ofNat 32 (qtyCode ty * 2 ^ 28 + q.1 * 2 ^ 16 + packQ (ty == .e2m1) ((q.2.1.drop (n * l)).take n)))) (if bad = 0 then [] else [(0x201, bad)]) := by
  refine sends_of_regs 6 .general _ _ hx ?_
  change execQblk p ty rm d a c s = _
  simp only [execQblk, State.issue_some hx, hc, beq_iff_eq]

/-- QBLKS: each lane quantises its own elements. -/
theorem qblks_sends (sat : Bool) (b : LSrc) (hc : c.isSome = (ty == .e2m1)) :
    let se := fun (l : Nat) => (x.w32 b l).toNat % 2 ^ 12
    let r := fun (l : Nat) => (x.quads a c l).map (fun v => quantGiven (qtyCode ty) (se l) rm sat (Fmt.f32.decode v))
    let any := fun (g : FRes → Bool) => maskOf (x.act p) (fun l => (r l).any g)
    Sends (.qblks p ty rm sat d a b c) s x 4 (write32 d (x.act p) (fun l =>
      BitVec.ofNat 32 (qtyCode ty * 2 ^ 28 + se l * 2 ^ 16 + packQ (ty == .e2m1) (if (x.act p).has l then (r l).map FRes.bits else []))))
      ([(0x201, any FRes.inv), (0x202, any FRes.dz), (0x203, any FRes.ovf)].filter (fun c => c.2 ≠ 0)) := by
  intro se r any
  refine sends_of_regs 4 (x.tagU (a :: b :: c.toList)) _ _ hx ?_
  have hbits := write32_congr (d := d) (lanes := x.act p) fun l hl =>
    congrArg (fun e => BitVec.ofNat 32 (qtyCode ty * 2 ^ 28 + se l * 2 ^ 16 + packQ (ty == .e2m1) e)) (laneRes_map_bits hl (x.act p) r)
  rw [← hbits, ← causes_laneRes_any, ← hc]
  change execQblks p ty rm sat d a b c s = _
  refine (State.issue_some hx _).trans ?_
  cases c <;> rfl

/-- DQBLK: each lane's register is decoded by the code it carries. -/
theorem dqblk_sends (ftz : Bool) (hc : c.isSome = (ty == .e2m1)) :
    let k := fun (l : Nat) => (x.w32 a l).toNat / 2 ^ 28
    let se := fun (l : Nat) => (x.w32 a l).toNat / 2 ^ 16 % 2 ^ 12
    let e := fun (l : Nat) => se l / 16
    let accepted := fun (l : Nat) => if ty = .e2m1 then k l ∈ [0, 3, 6] else k l ∈ [0, 1, 2, 4, 5]
    let poison := fun (l : Nat) => decide (e l = 255 ∨ ¬ accepted l)
    let el := fun (l i : Nat) => if ty = .e2m1 then (x.w32 a l).toNat / 2 ^ (8 * ((c.map (fun o => (x.w32 o l).toNat % 2)).getD 0) + 4 * i) % 16
      else (x.w32 a l).toNat / 2 ^ (8 * i) % 256
    let r := fun (l i : Nat) => if poison l then ({ bits := 0x7FC00000 } : FRes) else if k l ≠ 0 ∧ e l = 0 then { bits := 0 }
      else dqOne ((elemOf (if k l = 0 then qtyCode ty else k l)).getD (.flt .e4m3)) (decide (k l ≠ 0)) (se l) rm ftz (el l i)
    let v := fun (l i : Nat) => if (x.act p).has l then (r l i).bits else 0
    Sends (.dqblk p ty rm ftz d a c) s x 4 (write64 d (x.act p) (fun l => BitVec.ofNat 64 (v l 0 + v l 1 * 2 ^ 32)))
      (floatErrs 2 (x.act p) r ++ [(0x204, maskOf (x.act p) poison), (0x205, maskOf (x.act p) (fun l => poison l && decide (11 ≤ k l)))].filter (fun c => c.2 ≠ 0)) := by
  intro k se e accepted poison el r v
  have hse (l : Nat) : seE (se l) = e l := seE_eq (Nat.mod_lt _ (by decide))
  have hpoison (l : Nat) : (seE (se l) == 255 || !dqAccepts c.isSome (k l)) = poison l := by
    rw [Bool.eq_iff_iff]
    simp only [poison, accepted, hse, Bool.or_eq_true, beq_iff_eq, Bool.not_eq_true', decide_eq_true_eq, ← Bool.not_eq_true, dqAccepts_iff, hc]
  have hel (l i : Nat) (hi : i < 2) : (if c.isSome = true then (x.w32 a l).toNat % 2 ^ 16 / 2 ^ (8 * ((c.map (fun o => (x.w32 o l).toNat % 2)).getD 0) + 4 * i) % 2 ^ 4
      else (x.w32 a l).toNat % 2 ^ 16 / 2 ^ (8 * i) % 2 ^ 8) = el l i := by
    have hsel : (c.map (fun o => (x.w32 o l).toNat % 2)).getD 0 < 2 := by
      cases c with
      | none => exact Nat.two_pos
      | some o => exact Nat.mod_lt _ Nat.two_pos
    rw [mod_div_mod_two_pow (by omega), mod_div_mod_two_pow (by omega), hc]
    simp only [beq_iff_eq, el]
    rfl
  have hlane (l : Nat) : (if (seE (se l) == 255 || !dqAccepts c.isSome (k l)) = true then [({ bits := Fmt.f32.canon } : FRes), { bits := Fmt.f32.canon }]
      else if k l ≠ 0 ∧ seE (se l) = 0 then [{ bits := 0 }, { bits := 0 }]
      else
        let f := (elemOf (if k l = 0 then qtyCode ty else k l)).getD (.flt .e4m3)
        [dqOne f (k l != 0) (se l) rm ftz (el l 0), dqOne f (k l != 0) (se l) rm ftz (el l 1)]) = (List.range 2).map (r l) := by
    have hk : (k l != 0) = decide (k l ≠ 0) := by by_cases h : k l = 0 <;> simp [h]
    rw [hpoison, hse, hk]
    exact ite_pair_eq_map (P := poison l = true) (Q := k l ≠ 0 ∧ e l = 0) { bits := Fmt.f32.canon } { bits := 0 }
      (fun i => dqOne ((elemOf (if k l = 0 then qtyCode ty else k l)).getD (.flt .e4m3)) (decide (k l ≠ 0)) (se l) rm ftz (el l i))
  have hbits := write64_congr (d := d) (lanes := x.act p) fun l hl => congrArg₂ (fun lo hi => BitVec.ofNat 64 (lo + hi * 2 ^ 32))
    (laneRes_bits (n := 2) (j := 0) hl (by decide) (x.act p) r) (laneRes_bits (n := 2) (j := 1) hl (by decide) (x.act p) r)
  refine sends_of_regs 4 (x.tagU (a :: c.toList)) _ _ hx ?_
  rw [← hbits, ← causes_laneRes, ← funext hlane, ← funext hpoison]
  simp only [← hel _ 0 Nat.two_pos, ← hel _ 1 Nat.one_lt_two]
  change execDqblk p ty rm ftz d a c s = _
  refine (State.issue_some hx _).trans ?_
  cases c <;> rfl

end

/-- Settles O29: each of the three instructions by its own lemma. -/
theorem blocks : Obligations.Blocks := by
  unfold Obligations.Blocks
  intro s x p ty rm ftz sat d a b c hx act code f32
  refine ⟨fun hc => ⟨?qblk, ?qblks⟩, fun hc => ?dqblk⟩
  case qblk => exact qblk_sends hx p rm d a hc
  case qblks => exact qblks_sends hx p rm d a sat b hc
  case dqblk => exact dqblk_sends hx p rm d a ftz hc

end Sys2Proof.Machine
end

section
/-! SUPPORT. Cross-lane instructions: the member lane that a selector names, and what the tree of a reduction gives whatever its order. -/

namespace Sys2Proof.Machine

/-! ## The tree of a reduction (R314) -/

/-- What a node of the tree stands for: no slot, or the slots `ls`, whose values have the combination `v` without a cause. `P` says which values are a combination. -/
def Node.Holds (P : DWord → List Nat → Prop) (a : Node) (ls : List Nat) : Prop :=
  (a = none ∧ ls = []) ∨ ∃ v, a = some (v, false, false) ∧ P v ls

section
variable {P : DWord → List Nat → Prop} {f : DWord → DWord → DWord × Bool × Bool}

/-- An operation keeps `P` where it combines the values of two lists of slots to one of both, without a cause. -/
def Combines (P : DWord → List Nat → Prop) (f : DWord → DWord → DWord × Bool × Bool) : Prop :=
  ∀ x y ls ks, P x ls → P y ks → ∃ v, f x y = (v, false, false) ∧ P v (ls ++ ks)

/-- Fewer than two nodes stay as they are. -/
theorem treeLevel_short (f : DWord → DWord → DWord × Bool × Bool) {l : List Node} (hl : ∀ a b k, l = a :: b :: k → False) : treeLevel f l = l := by
  match l with
  | [] => rfl
  | [_] => rfl
  | a :: b :: k => exact (hl a b k rfl).elim

/-- A level of the tree keeps the slots, and halves the number of nodes. -/
theorem treeLevel_holds (hf : Combines P f) {l : List Node} {lss : List (List Nat)} (h : List.Forall₂ (Node.Holds P) l lss) :
    ∃ kss, List.Forall₂ (Node.Holds P) (treeLevel f l) kss ∧ kss.flatten = lss.flatten := by
  induction l using treeLevel.induct generalizing lss with
  | case1 a b l ih =>
    obtain _ | ⟨ha, _ | ⟨hb, hl⟩⟩ := h
    rename_i ls ks lss
    obtain ⟨kss, hk, hflat⟩ := ih hl
    refine ⟨(ls ++ ks) :: kss, .cons ?_ hk, by simp [hflat]⟩
    obtain ⟨rfl, rfl⟩ | ⟨x, rfl, hx⟩ := ha
    · simpa using hb
    · obtain ⟨rfl, rfl⟩ | ⟨y, rfl, hy⟩ := hb
      · exact .inr ⟨x, rfl, by simpa using hx⟩
      · obtain ⟨v, hv, hp⟩ := hf x y ls ks hx hy
        exact .inr ⟨v, by simp [hv], hp⟩
  | case2 l hl =>
    exact ⟨lss, by rwa [treeLevel_short f hl], rfl⟩

theorem treeLevel_length (f : DWord → DWord → DWord × Bool × Bool) (l : List Node) : (treeLevel f l).length = (l.length + 1) / 2 := by
  induction l using treeLevel.induct with
  | case1 a b l ih => simp only [treeLevel, List.length_cons, ih]; omega
  | case2 l hl =>
    rw [treeLevel_short f hl]
    match l with
    | [] => rfl
    | [_] => simp
    | a :: b :: l => exact (hl a b l rfl).elim

/-- The tree over 32 slots stands for all of them. -/
theorem treeReduce_holds (hf : Combines P f) {l : List Node} {lss : List (List Nat)} (h : List.Forall₂ (Node.Holds P) l lss) (h32 : l.length = 32) :
    Node.Holds P (treeReduce f l) lss.flatten := by
  obtain ⟨lss1, h1, e1⟩ := treeLevel_holds hf h
  obtain ⟨lss2, h2, e2⟩ := treeLevel_holds hf h1
  obtain ⟨lss3, h3, e3⟩ := treeLevel_holds hf h2
  obtain ⟨lss4, h4, e4⟩ := treeLevel_holds hf h3
  obtain ⟨lss5, h5, e5⟩ := treeLevel_holds hf h4
  have hlen : (treeLevel f (treeLevel f (treeLevel f (treeLevel f (treeLevel f l))))).length = 1 := by simp only [treeLevel_length, h32]
  rw [← e1, ← e2, ← e3, ← e4, ← e5, treeReduce]
  obtain ⟨a, ha⟩ := List.length_eq_one_iff.1 hlen
  rw [ha] at h5 ⊢
  obtain _ | ⟨hd, _ | _⟩ := h5
  simpa using hd

/-- The tree over the active lanes combines the values of all of them, in the order of their slots. -/
theorem treeReduce_lanes (hf : Combines P f) {act : Mask} (hact : act ≠ 0) {v : Nat → DWord} (hv : ∀ l, P (v l) [l]) :
    ∃ r, treeReduce f ((List.range 32).map (fun l => if act.has l then some (v l, false, false) else none)) = some (r, false, false) ∧
      P r ((List.range 32).filter act.has) := by
  have hleaf : List.Forall₂ (Node.Holds P) ((List.range 32).map (fun l => if act.has l then some (v l, false, false) else none))
      ((List.range 32).map (fun l => if act.has l then [l] else [])) := by
    rw [List.forall₂_map_left_iff, List.forall₂_map_right_iff]
    refine List.forall₂_same.2 fun l _ => ?_
    cases act.has l
    · exact .inl ⟨rfl, rfl⟩
    · exact .inr ⟨v l, rfl, hv l⟩
  have hflat : ((List.range 32).map (fun l => if act.has l then [l] else [])).flatten = (List.range 32).filter act.has := by
    generalize List.range 32 = l
    induction l with
    | nil => rfl
    | cons a l ih => cases h : act.has a <;> simp [h, ih]
  obtain ⟨_, hnone⟩ | h := hflat ▸ treeReduce_holds hf hleaf (by simp)
  · refine absurd (BitVec.eq_of_getLsbD_eq fun i hi => ?_) hact
    have := List.filter_eq_nil_iff.1 hnone i (List.mem_range.2 hi)
    simpa [Mask.has] using this
  · exact h

end

/-! ## Integer reductions: what is combined, without its order (R314, R423) -/

section
variable (v : Nat → DWord)

/-- The sum of the values of slots. -/
def laneSum (ls : List Nat) : Nat := (ls.map (fun l => (v l).toNat)).sum

theorem laneSum_append (ls ks : List Nat) : laneSum v (ls ++ ks) = laneSum v ls + laneSum v ks := by simp [laneSum]

theorem add64_combines : Combines (fun r ls => r = BitVec.ofNat 64 (laneSum v ls)) (reduxOp .add .n64) := by
  rintro _ _ ls ks rfl rfl
  refine ⟨_, rfl, ?_⟩
  change _ = BitVec.ofNat 64 (laneSum v (ls ++ ks))
  rw [laneSum_append, BitVec.ofNat_add]

/-- A sum of 32 bits wraps modulo 2^32 in each node. -/
theorem add32_combines : Combines (fun r ls => r = BitVec.ofNat 64 (laneSum v ls % 2 ^ 32)) (reduxOp .add .n32) := by
  rintro _ _ ls ks rfl rfl
  refine ⟨_, rfl, BitVec.eq_of_toNat_eq ?_⟩
  rw [laneSum_append]
  simp only [BitVec.toNat_setWidth, BitVec.toNat_add, BitVec.toNat_ofNat]
  omega

/-- A value of one of the slots that stands in `le` to the values of all of them. -/
def Extreme (le : DWord → DWord → Prop) (r : DWord) (ls : List Nat) : Prop := ∃ l ∈ ls, r = v l ∧ ∀ k ∈ ls, le (v l) (v k)

/-- An operation that gives the operand that stands in `le` to the other. -/
def Selects (le : DWord → DWord → Prop) (f : DWord → DWord → DWord × Bool × Bool) : Prop :=
  ∀ x y, (f x y = (x, false, false) ∧ le x y) ∨ (f x y = (y, false, false) ∧ le y x)

theorem extreme_combines {le : DWord → DWord → Prop} {f : DWord → DWord → DWord × Bool × Bool} (trans : ∀ x y z, le x y → le y z → le x z)
    (hf : Selects le f) : Combines (Extreme v le) f := by
  rintro _ _ ls ks ⟨l, hl, rfl, hls⟩ ⟨k, hk, rfl, hks⟩
  simp only [Extreme, List.mem_append]
  obtain ⟨h, hle⟩ | ⟨h, hle⟩ := hf (v l) (v k)
  · exact ⟨v l, h, l, .inl hl, rfl, fun j hj => hj.elim (hls j) (fun hj => trans _ _ _ hle (hks j hj))⟩
  · exact ⟨v k, h, k, .inr hk, rfl, fun j hj => hj.elim (fun hj => trans _ _ _ hle (hls j hj)) (hks j)⟩

theorem selects_ite {le c : DWord → DWord → Prop} [∀ x y, Decidable (c x y)] (hy : ∀ x y, c x y → le y x) (hx : ∀ x y, ¬ c x y → le x y) :
    Selects le (fun x y => (if c x y then y else x, false, false)) := by
  intro x y
  by_cases h : c x y
  · exact .inr ⟨by simp only [if_pos h], hy x y h⟩
  · exact .inl ⟨by simp only [if_neg h], hx x y h⟩

/-- The reduction by an operation that selects gives an extreme value of the active lanes. -/
theorem treeReduce_extreme {le : DWord → DWord → Prop} {f : DWord → DWord → DWord × Bool × Bool} (refl : ∀ x, le x x)
    (trans : ∀ x y z, le x y → le y z → le x z) (hf : Selects le f) {act : Mask} (hact : act ≠ 0) :
    ∃ l ∈ (List.range 32).filter act.has, treeReduce f ((List.range 32).map (fun l => if act.has l then some (v l, false, false) else none)) =
      some (v l, false, false) ∧ ∀ k ∈ (List.range 32).filter act.has, le (v l) (v k) := by
  obtain ⟨_, hr, l, hl, rfl, hle⟩ := treeReduce_lanes (extreme_combines v trans hf) hact (v := v)
    (fun l => ⟨l, List.mem_singleton_self l, rfl, fun k hk => List.mem_singleton.1 hk ▸ refl _⟩)
  exact ⟨l, hl, hr, hle⟩

/-- Each bit of `r` is what `c` makes of that bit of the values of slots. -/
def BitsOf (c : List Bool → Bool) (r : DWord) (ls : List Nat) : Prop := ∀ i < 64, r.getLsbD i = c (ls.map (fun l => (v l).getLsbD i))

/-- The reduction by an operation on single bits. -/
theorem treeReduce_bits {g : DWord → DWord → DWord} {b : Bool → Bool → Bool} {c : List Bool → Bool} (hg : ∀ x y i, (g x y).getLsbD i = b (x.getLsbD i) (y.getLsbD i))
    (hone : ∀ a, c [a] = a) (happ : ∀ k l, c (k ++ l) = b (c k) (c l)) {act : Mask} (hact : act ≠ 0) :
    ∃ r, treeReduce (fun x y => (g x y, false, false)) ((List.range 32).map (fun l => if act.has l then some (v l, false, false) else none)) = some (r, false, false) ∧
      BitsOf v c r ((List.range 32).filter act.has) := by
  refine treeReduce_lanes (fun x y ls ks hx hy => ⟨_, rfl, fun i hi => ?_⟩) hact (fun l i _ => (hone _).symm)
  rw [hg, hx i hi, hy i hi, List.map_append, happ]

/-- The parity of a list of bits. -/
def parity (l : List Bool) : Bool := decide ((l.filter id).length % 2 = 1)

theorem parity_append (k l : List Bool) : parity (k ++ l) = (parity k ^^ parity l) := by
  simp only [parity, List.filter_append, List.length_append]
  rcases Nat.mod_two_eq_zero_or_one (k.filter id).length with hk | hk <;> rcases Nat.mod_two_eq_zero_or_one (l.filter id).length with hl | hl <;>
    simp [Nat.add_mod, hk, hl]

end

/-! ## The instructions (R421 to R423) -/

/-- The member lane of a selector: the lane that it names, where that is a lane of the path. -/
theorem Iss.member_eq (x : Iss) (tlid : Bool) (i : Nat) :
    x.member tlid i = match (if tlid then x.g.slotOf i else if i < 32 then some i else none) with
      | some k => if x.path.lanes.has k then some k else none
      | none => none := by
  unfold Iss.member
  generalize (if tlid = true then x.g.slotOf i else if i < 32 then some i else none) = o
  cases o <;> rfl

/-- The value of a lane in a reduction. -/
def Iss.reduxVal (x : Iss) (ty : RTy) (a : LSrc) (l : Nat) : DWord :=
  match ty with
  | .f64 => x.f64 a l
  | .n64 | .i64 => x.w64 a l
  | _ => (x.w32 a l).setWidth 64

/-- The slots of a reduction: those that are active have their values. -/
def Iss.reduxSlots (x : Iss) (p : Pred) (ty : RTy) (a : LSrc) : List Node :=
  (List.range 32).map (fun l => if (x.act p).has l then some (x.reduxVal ty a l, false, false) else none)

/-- The latency of a reduction. -/
def reduxLat : RTy → Nat
  | .f64 => 8
  | _ => 6

/-- A reduction whose tree gives `o`: its value goes to every active lane. -/
def State.reduxEnd (s : State) (x : Iss) (p : Pred) (ty : RTy) (d : LDst) (o : Node) : State :=
  match o with
  | none => s.pass x
  | some r => s.regs x (reduxLat ty) .uniform (if ty.wide then write64 d (x.act p) (fun _ => r.1) else write32 d (x.act p) (fun _ => r.1.setWidth 32))
      ([(0x201, if r.2.1 then x.act p else 0), (0x203, if r.2.2 then x.act p else 0)].filter (fun c => c.2 ≠ (0 : Mask)))

section
variable {s : State} {x : Iss} (hx : s.iss = some x) {p : Pred} {op : ROp} {ty : RTy} {d : LDst} {a : LSrc}
include hx

theorem exec_redux : exec (.redux p op ty d a) s = .next (s.reduxEnd x p ty d (treeReduce (reduxOp op ty) (x.reduxSlots p ty a))) :=
  (State.issue_some hx _).trans rfl

end

/-- With no active lane there is nothing to combine. -/
theorem reduxSlots_none (x : Iss) {p : Pred} (hact : x.act p = 0) (ty : RTy) (a : LSrc) (f : DWord → DWord → DWord × Bool × Bool) :
    treeReduce f (x.reduxSlots p ty a) = none := by
  have h (l : Nat) : Mask.has 0 l = false := by simp [Mask.has]
  simp only [Iss.reduxSlots, hact, h, Bool.false_eq_true, if_false]
  rfl

/-- Settles O30: shuffles by the member lane of each selector; the tree of a reduction by what each of its nodes stands for. -/
theorem crossLane : Obligations.CrossLane := by
  unfold Obligations.CrossLane
  refine ⟨?instructions, ?order⟩
  case instructions =>
    intro s x p op ty d a b pd tlid hx act path named src w
    have hsrc (l : Nat) : x.member tlid (x.w32 b l).toNat = src l := x.member_eq tlid _
    refine ⟨?shfl, ?shflPred, ?short, ?idle, ?redux⟩
    case shfl =>
      refine sends_of_regs 6 .general _ _ hx ?_
      change execShflLong p tlid ty d a b none s = _
      simp only [execShflLong, State.issue_some hx, hsrc, List.append_nil, w, act]
    case shflPred =>
      refine sends_of_regs 6 .general _ _ hx ?_
      change execShflLong p tlid ty d a b (some pd) s = _
      simp only [execShflLong, State.issue_some hx, hsrc, w, act]
    case short =>
      rintro rfl
      refine sends_of_regs 6 .general _ _ hx ?_
      change execShfl p d a b s = _
      simp only [execShfl, State.lane32, State.issue_some hx, hsrc, act]
    case idle =>
      intro hact
      exact (exec_redux hx).trans (by rw [reduxSlots_none x hact]; rfl)
    case redux =>
      intro val r hr
      have hend := congrArg (s.reduxEnd x p ty d) hr
      exact sends_of_regs _ .uniform _ _ hx ((exec_redux hx).trans (congrArg Host.Outcome.next hend))
  case order =>
    intro act v hact tree lanes
    refine ⟨?add64, fun hv => ⟨?add32, rfl⟩, ?minN, ?maxN, ?minI, ?maxI, ?and, ?or, ?xor⟩
    case add64 =>
      obtain ⟨_, hr, rfl⟩ := treeReduce_lanes (add64_combines v) hact (v := v) (fun l => by simp [laneSum])
      exact hr
    case add32 =>
      obtain ⟨_, hr, rfl⟩ := treeReduce_lanes (add32_combines v) hact (v := v) (fun l => by simp [laneSum, -Nat.reducePow, Nat.mod_eq_of_lt (hv l)])
      exact hr
    case minN =>
      exact treeReduce_extreme v (le := fun x y => x.toNat ≤ y.toNat) (fun _ => Nat.le_refl _) (fun _ _ _ => Nat.le_trans)
        (selects_ite (c := fun x y => y.toNat < x.toNat) (fun _ _ => Nat.le_of_lt) (fun _ _ => Nat.le_of_not_lt)) hact
    case maxN =>
      exact treeReduce_extreme v (le := fun x y => y.toNat ≤ x.toNat) (fun _ => Nat.le_refl _) (fun _ _ _ h h' => Nat.le_trans h' h)
        (selects_ite (c := fun x y => x.toNat < y.toNat) (fun _ _ => Nat.le_of_lt) (fun _ _ => Nat.le_of_not_lt)) hact
    case minI =>
      exact treeReduce_extreme v (le := fun x y => x.toInt ≤ y.toInt) (fun _ => Int.le_refl _) (fun _ _ _ => Int.le_trans)
        (selects_ite (c := fun x y => y.toInt < x.toInt) (fun _ _ => Int.le_of_lt) (fun _ _ => Int.not_lt.1)) hact
    case maxI =>
      exact treeReduce_extreme v (le := fun x y => y.toInt ≤ x.toInt) (fun _ => Int.le_refl _) (fun _ _ _ h h' => Int.le_trans h' h)
        (selects_ite (c := fun x y => x.toInt < y.toInt) (fun _ _ => Int.le_of_lt) (fun _ _ => Int.not_lt.1)) hact
    case and =>
      obtain ⟨r, hr, hb⟩ := treeReduce_bits v (b := and) (c := (List.all · id)) (fun x y i => BitVec.getLsbD_and) (by simp) (fun _ _ => List.all_append) hact
      exact ⟨r, hr, fun i hi => (hb i hi).trans List.all_map⟩
    case or =>
      obtain ⟨r, hr, hb⟩ := treeReduce_bits v (b := or) (c := (List.any · id)) (fun x y i => BitVec.getLsbD_or) (by simp) (fun _ _ => List.any_append) hact
      exact ⟨r, hr, fun i hi => (hb i hi).trans List.any_map⟩
    case xor =>
      obtain ⟨r, hr, hb⟩ := treeReduce_bits v (b := xor) (c := parity) (fun x y i => BitVec.getLsbD_xor) (by decide) parity_append hact
      refine ⟨r, hr, fun i hi => (hb i hi).trans ?_⟩
      simp only [parity, List.filter_map, List.length_map]
      rfl

end Sys2Proof.Machine
end

section
/-! SUPPORT. The decoder and the encoder agree on every instruction with an encoding. -/

namespace Sys2Proof.Laws.RoundTrip

/-- Settles O6: each instruction by the round trip of its own words; an event has none. -/
theorem encodeDecode : Obligations.EncodeDecode := by
  unfold Obligations.EncodeDecode
  intro i
  cases i with
  | nop p => exact nop p
  | sreg p d sr => exact sreg p d sr
  | lbr p ofs => exact lbr p ofs
  | lexit p => exact lexit p
  | lbrRg p ofs liveG liveQ => exact lbrRg p ofs liveG liveQ
  | iadd p d a b => exact iadd p d a b
  | isub p d a b => exact isub p d a b
  | imul p d a b => exact imul p d a b
  | and p d a b => exact and p d a b
  | or p d a b => exact or p d a b
  | xor p d a b => exact xor p d a b
  | shl p d a b => exact shl p d a b
  | shrN32 p d a b => exact shrN32 p d a b
  | shrI32 p d a b => exact shrI32 p d a b
  | iminI32 p d a b => exact iminI32 p d a b
  | imaxI32 p d a b => exact imaxI32 p d a b
  | iminN32 p d a b => exact iminN32 p d a b
  | imaxN32 p d a b => exact imaxN32 p d a b
  | icmp p cc pd a b => exact icmp p cc pd a b
  | fcmpF32 p cc pd a b => exact fcmpF32 p cc pd a b
  | faddF32 p d a b => exact faddF32 p d a b
  | fsubF32 p d a b => exact fsubF32 p d a b
  | fmulF32 p d a b => exact fmulF32 p d a b
  | ffmaF32 p d a b => exact ffmaF32 p d a b
  | fminF32 p d a b => exact fminF32 p d a b
  | fmaxF32 p d a b => exact fmaxF32 p d a b
  | fminnF32 p d a b => exact fminnF32 p d a b
  | fmaxnF32 p d a b => exact fmaxnF32 p d a b
  | faddF64 p d a b => exact faddF64 p d a b
  | fmulF64 p d a b => exact fmulF64 p d a b
  | ffmaF64 p d a b => exact ffmaF64 p d a b
  | faddBf16X2 p d a b => exact faddBf16X2 p d a b
  | fmulBf16X2 p d a b => exact fmulBf16X2 p d a b
  | ffmaBf16X2 p d a b => exact ffmaBf16X2 p d a b
  | faddF16X2 p d a b => exact faddF16X2 p d a b
  | fmulF16X2 p d a b => exact fmulF16X2 p d a b
  | redux p op ty d a => exact redux p op ty d a
  | shfl p d a b => exact shfl p d a b
  | recipF32 p d a => exact recipF32 p d a
  | rrootF32 p d a => exact rrootF32 p d a
  | rootF32 p d a => exact rootF32 p d a
  | pow2F32 p d a => exact pow2F32 p d a
  | log2F32 p d a => exact log2F32 p d a
  | sineF32 p d a => exact sineF32 p d a
  | cosineF32 p d a => exact cosineF32 p d a
  | htanF32 p d a => exact htanF32 p d a
  | recipF64 p d a => exact recipF64 p d a
  | rrootF64 p d a => exact rrootF64 p d a
  | rootF64 p d a => exact rootF64 p d a
  | mov p d a => exact mov p d a
  | ld p d m => exact ld p d m
  | st p s m => exact st p s m
  | lds p d m => exact lds p d m
  | sts p s m => exact sts p s m
  | atom p op d base s => exact atom p op d base s
  | atomNoret p op base s => exact atomNoret p op base s
  | iaddLong p ty sat d a b => exact iaddLong p ty sat d a b
  | isubLong p ty sat d a b => exact isubLong p ty sat d a b
  | imulLong p ty sat d a b => exact imulLong p ty sat d a b
  | imulhi p ty d a b => exact imulhi p ty d a b
  | imad p ty sat d a b c => exact imad p ty sat d a b c
  | andLong p ty d a b => exact andLong p ty d a b
  | orLong p ty d a b => exact orLong p ty d a b
  | xorLong p ty d a b => exact xorLong p ty d a b
  | andn p ty d a b => exact andn p ty d a b
  | not p ty d a => exact not p ty d a
  | shlLong p ty d a b => exact shlLong p ty d a b
  | shrLong p ty d a b => exact shrLong p ty d a b
  | iminLong p ty d a b => exact iminLong p ty d a b
  | imaxLong p ty d a b => exact imaxLong p ty d a b
  | iabs p ty sat d a => exact iabs p ty sat d a
  | ineg p ty sat d a => exact ineg p ty sat d a
  | popc p ty d a => exact popc p ty d a
  | clz p ty d a => exact clz p ty d a
  | bitrev p ty d a => exact bitrev p ty d a
  | xfld p ty d a b => exact xfld p ty d a b
  | ifld p ty d a b c => exact ifld p ty d a b c
  | icmpLong p ty cc pd a b => exact icmpLong p ty cc pd a b
  | sel p ty ps pn d a b => exact sel p ty ps pn d a b
  | movLong p ty d a => exact movLong p ty d a
  | faddLong p ty rm ftz d a b => exact faddLong p ty rm ftz d a b
  | fsubLong p ty rm ftz d a b => exact fsubLong p ty rm ftz d a b
  | fmulLong p ty rm ftz d a b => exact fmulLong p ty rm ftz d a b
  | ffmaLong p ty rm ftz d a b c => exact ffmaLong p ty rm ftz d a b c
  | fminLong p ty ftz d a b => exact fminLong p ty ftz d a b
  | fmaxLong p ty ftz d a b => exact fmaxLong p ty ftz d a b
  | fminnLong p ty ftz d a b => exact fminnLong p ty ftz d a b
  | fmaxnLong p ty ftz d a b => exact fmaxnLong p ty ftz d a b
  | fabs p ty d a => exact fabs p ty d a
  | fneg p ty d a => exact fneg p ty d a
  | fcmpLong p f64 cc ftz pd a b => exact fcmpLong p f64 cc ftz pd a b
  | fclass p ty ftz d a => exact fclass p ty ftz d a
  | cvt p dty sty rm ftz sat d a b => exact cvt p dty sty rm ftz sat d a b
  | qblk p ty rm d a b => exact qblk p ty rm d a b
  | qblks p ty rm sat d a b c => exact qblks p ty rm sat d a b c
  | dqblk p ty rm ftz d a b => exact dqblk p ty rm ftz d a b
  | shflLong p bytlid ty d a b pd => exact shflLong p bytlid ty d a b pd
  | ldLong p sz acq nl1 d m => exact ldLong p sz acq nl1 d m
  | stLong p sz rel s m => exact stLong p sz rel s m
  | ldsLong p sz acq d m => exact ldsLong p sz acq d m
  | stsLong p sz rel s m => exact stsLong p sz rel s m
  | atomLong p op sz ord d m s => exact atomLong p op sz ord d m s
  | atoms p op sz d m s => exact atoms p op sz d m s
  | pref p slice m => exact pref p slice m
  | dset p s m => exact dset p s m
  | dget p d m => exact dget p d m
  | stmc p sz rel s m gm => exact stmc p sz rel s m gm
  | stred p op sz rel s m gm => exact stred p op sz rel s m gm
  | runb n va k => exact runb n va k
  | rune va k => exact rune va k
  | waitc p a b c d => exact waitc p a b c d
  | bartm p => exact bartm p
  | fence p kind scope => exact fence p kind scope
  | exit p => exact exit p
  | bra p ofs => exact bra p ofs
  | braq p pl all ofs => exact braq p pl all ofs
  | call p d ofs => exact call p d ofs
  | ret p a => exact ret p a
  | jmpg p a => exact jmpg p a
  | trap p ret => exact trap p ret
  | bkpt p tag => exact bkpt p tag
  | fwcall p svc => exact fwcall p svc
  | gadd p d a b => exact gadd p d a b
  | gsub p d a b => exact gsub p d a b
  | gmul p d a b => exact gmul p d a b
  | gmulhiN64 p d a b => exact gmulhiN64 p d a b
  | gmulhiI64 p d a b => exact gmulhiI64 p d a b
  | gand p d a b => exact gand p d a b
  | gor p d a b => exact gor p d a b
  | gxor p d a b => exact gxor p d a b
  | gandn p d a b => exact gandn p d a b
  | gnot p d a => exact gnot p d a
  | gpopc p d a => exact gpopc p d a
  | gclz p d a => exact gclz p d a
  | gshl p d a b => exact gshl p d a b
  | gshr p d a b => exact gshr p d a b
  | gsar p d a b => exact gsar p d a b
  | grotl p d a b => exact grotl p d a b
  | gminI64 p d a b => exact gminI64 p d a b
  | gmaxI64 p d a b => exact gmaxI64 p d a b
  | gminN64 p d a b => exact gminN64 p d a b
  | gmaxN64 p d a b => exact gmaxN64 p d a b
  | gmov p d a => exact gmov p d a
  | gmovN32 p d a => exact gmovN32 p d a
  | gmovI32 p d a => exact gmovI32 p d a
  | gcmp p cc lo qd a b => exact gcmp p cc lo qd a b
  | gsel p f d a b => exact gsel p f d a b
  | qand p qd qa na qb nb => exact qand p qd qa na qb nb
  | qor p qd qa na qb nb => exact qor p qd qa na qb nb
  | qxor p qd qa na qb nb => exact qxor p qd qa na qb nb
  | sregUniform p d sr => exact sregUniform p d sr
  | sregw p sr a => exact sregw p sr a
  | vtog p m d v x => exact vtog p m d v x
  | gtov p pair v g => exact gtov p pair v g
  | vote p m d pl => exact vote p m d pl
  | pmark p => exact pmark p
  | ldUniform p sz d b off => exact ldUniform p sz d b off
  | stUniform p sz s b off => exact stUniform p sz s b off
  | qsend p space qd a b => exact qsend p space qd a b
  | flinit p a nslot1 slotb1 => exact flinit p a nslot1 slotb1
  | flacq p d a => exact flacq p d a
  | flrel p a => exact flrel p a
  | boarm p a b => exact boarm p a b
  | bowait p a => exact bowait p a
  | mres p qd => exact mres p qd
  | mrel p => exact mrel p
  | mmaq p a => exact mmaq p a
  | mdelta p a => exact mdelta p a
  | mdrain p a => exact mdrain p a
  | mzero p tile st => exact mzero p tile st
  | mstat p d => exact mstat p d
  | rsvinv p a => exact rsvinv p a
  | rsvinvClear p a => exact rsvinvClear p a
  | rsvq p a b => exact rsvq p a b
  | copyt p d a b => exact copyt p d a b
  | kick p d a => exact kick p d a
  | tdload p d a => exact tdload p d a
  | tasksub p space qd a => exact tasksub p space qd a
  | taskdone p => exact taskdone p
  | fapp p g v => exact fapp p g v
  | ftake p g v pd => exact ftake p g v pd
  | dryw p a => exact dryw p a
  | topen p qd a => exact topen p qd a
  | trival p qd a => exact trival p qd a
  | tscore p qd => exact tscore p qd
  | tstat p qd b => exact tstat p qd b
  | tclose p qd => exact tclose p qd
  | tcloseAbort p qd => exact tcloseAbort p qd
  | spgrow p qd => exact spgrow p qd
  | rgive p qd => exact rgive p qd
  | rclaim p qd => exact rclaim p qd
  | _ => exact fun _ h => absurd rfl h

end Sys2Proof.Laws.RoundTrip
end

section
/-! SUPPORT. The decoder read backwards: what it answers is a well-formed instruction, and the words that it read are that instruction's own (R351 to R375).
The lemmas under Laws/Decode.lean say that a field of an encoded word is the code put there; here a word is put together again from its fields. -/

namespace Sys2Proof

/-! ## Fields of a word and the codes read from them -/

theorem bits_lt (n lo k : Nat) : bits n lo k < 2 ^ k := Nat.mod_lt _ (Nat.two_pow_pos k)

@[simp] theorem b2n_bits_one (n lo : Nat) : b2n (bits n lo 1 == 1) = bits n lo 1 := by
  obtain h | h := Nat.le_one_iff_eq_zero_or_eq_one.1 (Nat.le_of_lt_succ (bits_lt n lo 1)) <;> rw [h] <;> rfl

theorem bit_eq_zero {n lo : Nat} (h : (bits n lo 1 == 1) = false) : bits n lo 1 = 0 :=
  Nat.lt_one_iff.1 (Nat.lt_of_le_of_ne (Nat.le_of_lt_succ (bits_lt n lo 1)) (beq_eq_false_iff_ne.1 h))

@[simp] theorem b2n_true : b2n true = 1 := rfl
@[simp] theorem b2n_false : b2n false = 0 := rfl

theorem b2n_of_lt_two {n : Nat} (h : n < 2) : b2n (n == 1) = n := by
  obtain rfl | rfl : n = 0 ∨ n = 1 := by omega
  · rfl
  · rfl

theorem b2n_mod_two (n : Nat) : b2n (n % 2 == 1) = n % 2 := by
  obtain h | h := Nat.mod_two_eq_zero_or_one n <;> rw [h] <;> rfl

@[simp] theorem bits_two_mod (n lo : Nat) : bits n lo 2 % 4 = bits n lo 2 := Nat.mod_eq_of_lt (bits_lt ..)
@[simp] theorem bits_three_mod (n lo : Nat) : bits n lo 3 % 8 = bits n lo 3 := Nat.mod_eq_of_lt (bits_lt ..)
@[simp] theorem bits_four_mod (n lo : Nat) : bits n lo 4 % 16 = bits n lo 4 := Nat.mod_eq_of_lt (bits_lt ..)

@[simp] theorem toNat_ofNat_bits (n lo k : Nat) : (BitVec.ofNat k (bits n lo k)).toNat = bits n lo k :=
  Nat.mod_eq_of_lt (bits_lt n lo k)

theorem code_predOf : ∀ c < 16, (predOf c).code = c := by decide
theorem code_ldstOf : ∀ c < 120, (ldstOf c).code = c := by decide
theorem code_udstOf : ∀ c < 63, (udstOf c).code = c := by decide
theorem code_iccOf : ∀ c < 10, (iccOf c).code = c := by decide
theorem code_fccOf : ∀ c < 8, (fccOf c).code = c := by decide
theorem code_ityOf : ∀ c < 4, (ityOf c).code = c := by decide
theorem code_ftyOf : ∀ c < 8, 4 ≤ c → (ftyOf c).code = c := by decide
theorem code_rtyOf : ∀ c < 6, (rtyOf c).code = c := by decide
theorem code_tyOf : ∀ c < 19, (tyOf c).code = c := by decide
theorem code_rmodeOf : ∀ c < 4, (rmodeOf c).code = c := by decide
theorem code_ropOf : ∀ c < 6, (ropOf c).code = c := by decide
theorem code_aopOf : ∀ c < 8, (aopOf c).code = c := by decide
theorem code_saopOf : ∀ c < 7, (saopOf c).code = c := by decide
theorem code_szOf : ∀ c < 6, (szOf c).code = c := by decide
theorem code_scopeOf : ∀ c < 5, (scopeOf c).code = c := by decide
theorem code_sregOf : ∀ c < 19, (sregOf c).code = c := by decide
theorem code_tileStateOf : ∀ c < 4, (tileStateOf c).code = c := by decide
theorem code_fkindOf : ∀ c < 3, (fkindOf c).code = c := by decide

theorem code_qtyOf {c : Nat} {q : QTy} (h : qtyOf c = some q) : q.code = c := by
  unfold qtyOf at h; split at h <;> cases h <;> rfl
theorem code_uszOf {c : Nat} {u : USZ} (h : uszOf c = some u) : u.code = c := by
  unfold uszOf at h; split at h <;> cases h <;> rfl
theorem code_stredOf {c : Nat} {o : StredOp} (h : stredOf c = some o) : o.code = c := by
  unfold stredOf at h; split at h <;> cases h <;> rfl

theorem code_lsrcOf (v : Word) : ∀ c < 128, (lsrcOf c v).code = c := by
  intro c hc
  unfold lsrcOf
  split
  · exact Nat.mod_eq_of_lt ‹_›
  · split
    · simp only [LSrc.code, Fin.val_ofNat]; omega
    · split
      · simp only [LSrc.code, Fin.val_ofNat]; omega
      · simp only [LSrc.code]; omega

theorem code_usrcOf (v : Word) : ∀ c < 64, (usrcOf c v).code = c := by
  intro c hc
  unfold usrcOf
  split
  · exact Nat.mod_eq_of_lt ‹_›
  · split
    · exact Eq.symm ‹_›
    · simp only [USrc.code]; omega

@[simp] theorem code_lsrcOf_bits (n lo : Nat) (v : Word) : (lsrcOf (bits n lo 7) v).code = bits n lo 7 := code_lsrcOf v _ (bits_lt ..)
@[simp] theorem code_usrcOf_bits (n lo : Nat) (v : Word) : (usrcOf (bits n lo 6) v).code = bits n lo 6 := code_usrcOf v _ (bits_lt ..)
@[simp] theorem code_rmodeOf_bits (n lo : Nat) : (rmodeOf (bits n lo 2)).code = bits n lo 2 := code_rmodeOf _ (bits_lt ..)

/-! ## The literal among the operands (R355) -/

theorem lsrcOf_cases {c : Nat} (hc : c < 128) (v : Word) : (isL c = 1 ∧ lsrcOf c v = .lit v) ∨ (isL c = 0 ∧ (lsrcOf c v).isLit = false) := by
  by_cases h : c = 127
  · subst h; exact .inl ⟨rfl, rfl⟩
  · refine .inr ⟨by simp [isL, b2n, h], ?_⟩
    unfold lsrcOf
    split
    · rfl
    · split
      · rfl
      · rw [if_pos (by omega)]; rfl

theorem lsrcOf_not_lit {c : Nat} (hc : c < 128) (h : c ≠ 127) (v : Word) : isL c = 0 ∧ (lsrcOf c v).isLit = false :=
  (lsrcOf_cases hc v).resolve_left fun h' => by simp [isL, b2n, h] at h'

theorem usrcOf_cases {c : Nat} (hc : c < 64) (v : Word) : (isU c = 1 ∧ usrcOf c v = .lit v) ∨ (isU c = 0 ∧ (usrcOf c v).isLit = false) := by
  by_cases h : c = 63
  · subst h; exact .inl ⟨rfl, rfl⟩
  · refine .inr ⟨by simp [isU, b2n, h], ?_⟩
    unfold usrcOf
    split
    · rfl
    · rw [if_pos (by omega)]; rfl

theorem LSrc.not_lit_cons {a : LSrc} (h : a.isLit = false) (r : List LSrc) : lLits (a :: r) = lLits r ∧ lCount (a :: r) = lCount r := by
  cases a with
  | v | t | g => exact ⟨rfl, rfl⟩
  | lit => cases h

theorem USrc.not_lit_cons {a : USrc} (h : a.isLit = false) (r : List USrc) : uLits (a :: r) = uLits r ∧ uCount (a :: r) = uCount r := by
  cases a with
  | g | zero => exact ⟨rfl, rfl⟩
  | lit => cases h

/-- Of the operands read from lane codes, as many name the literal as their codes say, and where no more than one does, it stands once behind the words. -/
theorem lsrcs_lits (v : Word) (cs : List Nat) (hc : ∀ c ∈ cs, c < 128) (h : (cs.map isL).sum ≤ 1) :
    lLits (cs.map (lsrcOf · v)) = List.replicate (cs.map isL).sum v ∧ lCount (cs.map (lsrcOf · v)) = (cs.map isL).sum := by
  induction cs with
  | nil => exact ⟨rfl, rfl⟩
  | cons c cs ih =>
    simp only [List.map_cons, List.sum_cons] at h ⊢
    obtain ⟨hlits, hcount⟩ := ih (fun c hm => hc c (List.mem_cons_of_mem _ hm)) (by omega)
    obtain ⟨h1, ha⟩ | ⟨h0, ha⟩ := lsrcOf_cases (hc c List.mem_cons_self) v
    · have hz : (cs.map isL).sum = 0 := by omega
      rw [ha, h1, hz]
      exact ⟨rfl, congrArg (1 + ·) (hcount.trans hz)⟩
    · rw [h0, Nat.zero_add, (LSrc.not_lit_cons ha _).1, (LSrc.not_lit_cons ha _).2]
      exact ⟨hlits, hcount⟩

/-- The same of uniform operands. -/
theorem usrcs_lits (v : Word) (cs : List Nat) (hc : ∀ c ∈ cs, c < 64) (h : (cs.map isU).sum ≤ 1) :
    uLits (cs.map (usrcOf · v)) = List.replicate (cs.map isU).sum v ∧ uCount (cs.map (usrcOf · v)) = (cs.map isU).sum := by
  induction cs with
  | nil => exact ⟨rfl, rfl⟩
  | cons c cs ih =>
    simp only [List.map_cons, List.sum_cons] at h ⊢
    obtain ⟨hlits, hcount⟩ := ih (fun c hm => hc c (List.mem_cons_of_mem _ hm)) (by omega)
    obtain ⟨h1, ha⟩ | ⟨h0, ha⟩ := usrcOf_cases (hc c List.mem_cons_self) v
    · have hz : (cs.map isU).sum = 0 := by omega
      rw [ha, h1, hz]
      exact ⟨rfl, congrArg (1 + ·) (hcount.trans hz)⟩
    · rw [h0, Nat.zero_add, (USrc.not_lit_cons ha _).1, (USrc.not_lit_cons ha _).2]
      exact ⟨hlits, hcount⟩

theorem optIsLit_some (a : LSrc) : optIsLit (some a) = a.isLit := by cases a <;> rfl

theorem isL_le_one (c : Nat) : isL c ≤ 1 := Nat.le_of_lt_succ (b2n_lt _)
theorem isU_le_one (c : Nat) : isU c ≤ 1 := Nat.le_of_lt_succ (b2n_lt _)

section
variable {a b c : Nat} (v : Word)

theorem lCount_lsrcOf (ha : a < 128) : lCount [lsrcOf a v] = isL a :=
  (lsrcs_lits v [a] (by simpa using ha) (by simpa using isL_le_one a)).2

theorem lCount_lsrcOf_le (ha : a < 128) : lCount [lsrcOf a v] ≤ 1 := (lCount_lsrcOf v ha).trans_le (isL_le_one a)

theorem lLits_lsrcOf (ha : a < 128) : lLits [lsrcOf a v] = List.replicate (isL a) v :=
  (lsrcs_lits v [a] (by simpa using ha) (by simpa using isL_le_one a)).1

theorem lLits_lsrcOf₂ (ha : a < 128) (hb : b < 128) (h : isL a + isL b ≤ 1) :
    lLits [lsrcOf a v, lsrcOf b v] = List.replicate (isL a + isL b) v ∧ decide (lCount [lsrcOf a v, lsrcOf b v] ≤ 1) = true := by
  obtain ⟨hl, hc⟩ := lsrcs_lits v [a, b] (by simp [ha, hb]) (by simpa using h)
  exact ⟨by simpa using hl, decide_eq_true (hc.trans_le (by simpa using h))⟩

theorem lLits_lsrcOf₃ (ha : a < 128) (hb : b < 128) (hc : c < 128) (h : isL a + isL b + isL c ≤ 1) :
    lLits [lsrcOf a v, lsrcOf b v, lsrcOf c v] = List.replicate (isL a + isL b + isL c) v ∧
    decide (lCount [lsrcOf a v, lsrcOf b v, lsrcOf c v] ≤ 1) = true := by
  obtain ⟨hl, hn⟩ := lsrcs_lits v [a, b, c] (by simp [ha, hb, hc]) (by simpa [Nat.add_assoc] using h)
  exact ⟨by simpa [Nat.add_assoc] using hl, decide_eq_true (hn.trans_le (by simpa [Nat.add_assoc] using h))⟩

theorem uCount_usrcOf (ha : a < 64) : uCount [usrcOf a v] = isU a :=
  (usrcs_lits v [a] (by simpa using ha) (by simpa using isU_le_one a)).2

theorem uLits_usrcOf (ha : a < 64) : uLits [usrcOf a v] = List.replicate (isU a) v :=
  (usrcs_lits v [a] (by simpa using ha) (by simpa using isU_le_one a)).1

theorem uLits_usrcOf₂ (ha : a < 64) (hb : b < 64) (h : isU a + isU b ≤ 1) :
    uLits [usrcOf a v, usrcOf b v] = List.replicate (isU a + isU b) v ∧ decide (uCount [usrcOf a v, usrcOf b v] ≤ 1) = true := by
  obtain ⟨hl, hc⟩ := usrcs_lits v [a, b] (by simp [ha, hb]) (by simpa using h)
  exact ⟨by simpa using hl, decide_eq_true (hc.trans_le (by simpa using h))⟩

theorem uLits_usrcOf₃ (ha : a < 64) (hb : b < 64) (hc : c < 64) (h : isU a + isU b + isU c ≤ 1) :
    uLits [usrcOf a v, usrcOf b v, usrcOf c v] = List.replicate (isU a + isU b + isU c) v ∧
    decide (uCount [usrcOf a v, usrcOf b v, usrcOf c v] ≤ 1) = true := by
  obtain ⟨hl, hn⟩ := usrcs_lits v [a, b, c] (by simp [ha, hb, hc]) (by simpa [Nat.add_assoc] using h)
  exact ⟨by simpa [Nat.add_assoc] using hl, decide_eq_true (hn.trans_le (by simpa [Nat.add_assoc] using h))⟩

end

/-! ## What it is for an answer of the decoder to be sound -/

/-- An instruction is well-formed and these are its words. -/
def Instr.HasWords (i : Instr) (ws : List Word) : Prop := i.wf = true ∧ encode i = ws

/-- Where this is what the decoder answers for `ws`, the instruction is well-formed and its words are the first of `ws`, as many as the answer says. -/
def DecRes.Sound (ws : List Word) (r : DecRes) : Prop := ∀ i n, r = .ok (i, n) → i.HasWords (ws.take n)

theorem DecRes.Sound.of_error (ws : List Word) (e : DecErr) : DecRes.Sound ws (.error e) := fun _ _ h => by cases h

/-- The end of a decode is sound where the instruction made with any literal has the words read so far, and the literal behind them if a field names it. -/
theorem DecRes.Sound.of_fin {ws rest : List Word} {legal zero : Bool} {nl : Nat} {mk : Word → Instr}
    (h : legal = true → zero = true → nl ≤ 1 → ∀ v, (mk v).HasWords (ws ++ List.replicate nl v)) :
    DecRes.Sound (ws ++ rest) (fin legal zero nl ws.length rest.head? mk) := by
  intro i n hi
  unfold fin at hi
  split at hi
  · cases hi
  split at hi
  · cases hi
  split at hi
  · cases hi
  have hw := h (by simpa using ‹¬ legal = false›) (by simpa using ‹¬ zero = false›) (Nat.le_of_not_lt ‹_›)
  split at hi
  · next hnl =>
    subst hnl
    cases rest with
    | nil => cases hi
    | cons v rest =>
      cases hi
      rw [List.append_cons, List.take_left' (by simp)]
      exact hw v
  · next hnl =>
    obtain rfl : nl = 0 := by omega
    cases hi
    rw [List.take_left]
    simpa using hw 0

/-- A word is put together from its four parts (R351). -/
theorem wHead_bits (w : Word) : wHead (bits w.toNat 31 1) (bits w.toNat 25 6) (bits w.toNat 21 4) (bits w.toNat 0 21) = w := by
  have := w.isLt
  apply BitVec.eq_of_toNat_eq
  simp only [wHead, bits, BitVec.toNat_ofNat]
  omega

/-- An instruction of one word and its literals: its body is put together from its fields. -/
theorem Instr.HasWords.of_body {i : Instr} {set maj pc n body nl : Nat} {lits : List Word} {v : Word} (hw : i.wf = true)
    (he : encode i = wHead set maj pc n :: lits) (hn : n = body) (hl : lits = List.replicate nl v) :
    i.HasWords ([wHead set maj pc body] ++ List.replicate nl v) := ⟨hw, by rw [he, hn, hl]; rfl⟩

end Sys2Proof
end

section
/-! SUPPORT. Long arithmetic words, read backwards (R362, R408, R428, R433 to R438). -/

namespace Sys2Proof

/-! ## Long arithmetic words (R362) -/

/-! The rows that share a form have one encoding. -/

theorem lxABsat_encode {xf : Nat} {mk : Pred → ITy → Bool → LDst → LSrc → LSrc → Instr} (h : lxABsat xf = some mk) (p : Pred) (ty : ITy) (sat : Bool) (d : LDst) (a b : LSrc) :
    (mk p ty sat d a b).wf = decide (lCount [a, b] ≤ 1) ∧ encode (mk p ty sat d a b) = encLX p d.code a.code b.code (lxExt xf 0 ty.code 0 0 (b2n sat) 0 0 0) (lLits [a, b]) := by
  unfold lxABsat at h
  split at h <;> cases h <;> exact ⟨rfl, rfl⟩

theorem lxAB_encode {xf : Nat} {mk : Pred → ITy → LDst → LSrc → LSrc → Instr} (h : lxAB xf = some mk) (p : Pred) (ty : ITy) (d : LDst) (a b : LSrc) :
    (mk p ty d a b).wf = decide (lCount [a, b] ≤ 1) ∧ encode (mk p ty d a b) = encLX p d.code a.code b.code (lxExt xf 0 ty.code 0 0 0 0 0 0) (lLits [a, b]) := by
  unfold lxAB at h
  split at h <;> cases h <;> exact ⟨rfl, rfl⟩

theorem lxA_encode {xf : Nat} {mk : Pred → ITy → LDst → LSrc → Instr} (h : lxA xf = some mk) (p : Pred) (ty : ITy) (d : LDst) (a : LSrc) :
    (mk p ty d a).wf = true ∧ encode (mk p ty d a) = encLX p d.code a.code 0 (lxExt xf 0 ty.code 0 0 0 0 0 0) (lLits [a]) := by
  unfold lxA at h
  split at h <;> cases h <;> exact ⟨rfl, rfl⟩

theorem lxAsat_encode {xf : Nat} {mk : Pred → ITy → Bool → LDst → LSrc → Instr} (h : lxAsat xf = some mk) (p : Pred) (ty : ITy) (sat : Bool) (d : LDst) (a : LSrc) :
    (mk p ty sat d a).wf = true ∧ encode (mk p ty sat d a) = encLX p d.code a.code 0 (lxExt xf 0 ty.code 0 0 (b2n sat) 0 0 0) (lLits [a]) := by
  unfold lxAsat at h
  split at h <;> cases h <;> exact ⟨rfl, rfl⟩

theorem lxFrm_encode {xf : Nat} {mk : Pred → FTy → RMode → Bool → LDst → LSrc → LSrc → Instr} (h : lxFrm xf = some mk) (p : Pred) (ty : FTy) (rm : RMode) (z : Bool) (d : LDst) (a b : LSrc) :
    (mk p ty rm z d a b).wf = decide (lCount [a, b] ≤ 1) ∧ encode (mk p ty rm z d a b) = encLX p d.code a.code b.code (lxExt xf 0 ty.code rm.code (b2n z) 0 0 0 0) (lLits [a, b]) := by
  unfold lxFrm at h
  split at h <;> cases h <;> exact ⟨rfl, rfl⟩

theorem lxFmm_encode {xf : Nat} {mk : Pred → FTy → Bool → LDst → LSrc → LSrc → Instr} (h : lxFmm xf = some mk) (p : Pred) (ty : FTy) (z : Bool) (d : LDst) (a b : LSrc) :
    (mk p ty z d a b).wf = decide (lCount [a, b] ≤ 1) ∧ encode (mk p ty z d a b) = encLX p d.code a.code b.code (lxExt xf 0 ty.code 0 (b2n z) 0 0 0 0) (lLits [a, b]) := by
  unfold lxFmm at h
  split at h <;> cases h <;> exact ⟨rfl, rfl⟩

/-- TY of FCMP: F32 or F64 (R361). -/
theorem f64Bit {n : Nat} (h4 : 4 ≤ n) (h6 : n < 6) : 4 + b2n (n == 5) = n := by
  obtain rfl | rfl : n = 4 ∨ n = 5 := by omega
  · rfl
  · rfl

/-- The ten fields of an extension word, of which the last is zero, in two steps: those above bit 10, and those below. -/
theorem bits_lx_self {n : Nat} (hn : n < 2 ^ 32) (h0 : bits n 0 3 = 0) :
    bits n 24 8 * 2 ^ 24 + bits n 17 7 * 2 ^ 17 + bits n 12 5 * 2 ^ 12 + bits n 10 2 * 2 ^ 10 + bits n 9 1 * 2 ^ 9 + bits n 8 1 * 2 ^ 8 +
      bits n 5 3 * 2 ^ 5 + bits n 4 1 * 2 ^ 4 + bits n 3 1 * 2 ^ 3 = n := by
  have high : ∀ m < 2 ^ 32, bits m 24 8 * 2 ^ 24 + bits m 17 7 * 2 ^ 17 + bits m 12 5 * 2 ^ 12 + bits m 10 2 * 2 ^ 10 = bits m 10 22 * 2 ^ 10 := by
    intro m hm; simp only [bits]; omega
  rw [high n hn]
  simp only [bits] at h0 ⊢
  omega

/-- A field that an instruction takes, or that is zero. -/
theorem cond_taken {f : Bool} {n : Nat} (h : (f || n == 0) = true) : cond f n 0 = n := by
  cases f with
  | true => rfl
  | false => exact (eq_of_beq h).symm

/-- The fields of an extension word put it together; those that the instruction does not take are zero. -/
theorem lxExt_self {x : Word} {c rm z s ps pn pv : Bool} (h : lxZero x.toNat c rm z s ps pn pv = true) :
    lxExt (bits x.toNat 24 8) (cond c (bits x.toNat 17 7) 0) (bits x.toNat 12 5) (cond rm (bits x.toNat 10 2) 0) (cond z (bits x.toNat 9 1) 0)
      (cond s (bits x.toNat 8 1) 0) (cond ps (bits x.toNat 5 3) 0) (cond pn (bits x.toNat 4 1) 0) (cond pv (bits x.toNat 3 1) 0) = x := by
  simp only [lxZero, Bool.and_eq_true] at h
  obtain ⟨⟨⟨⟨⟨⟨⟨hc, hrm⟩, hz⟩, hs⟩, hps⟩, hpn⟩, hpv⟩, h0⟩ := h
  rw [cond_taken hc, cond_taken hrm, cond_taken hz, cond_taken hs, cond_taken hps, cond_taken hpn, cond_taken hpv]
  rw [lxExt, bits_lx_self x.isLt (eq_of_beq h0), BitVec.ofNat_toNat, BitVec.setWidth_eq]

/-- A flag that an instruction takes, or that is not set. -/
theorem flag_taken {f : Bool} {n : Nat} (h : (f || n == 0) = true) : (f || !(n == 1)) = true := by
  cases f with
  | true => rfl
  | false => rw [eq_of_beq h]; rfl

theorem lxZero_flags {x : Nat} {c rm z s ps pn pv : Bool} (h : lxZero x c rm z s ps pn pv = true) :
    (z || bits x 9 1 == 0) = true ∧ (s || bits x 8 1 == 0) = true := by
  simp only [lxZero, Bool.and_eq_true] at h
  obtain ⟨⟨⟨⟨⟨⟨⟨_, _⟩, hz⟩, hs⟩, _⟩, _⟩, _⟩, _⟩ := h
  exact ⟨hz, hs⟩

section
variable (p : Pred) {body : Nat} (hb : body < 2 ^ 21) (v : Word) {x : Word}
include hb

/-- Three fields of seven bits make a body. -/
theorem bits_777_self : bits body 14 7 * 2 ^ 14 + bits body 7 7 * 2 ^ 7 + bits body 0 7 = body := by
  simp only [bits]; omega

/-- A long arithmetic instruction: its two words are put together from their fields, its literal stands behind them. -/
theorem Instr.HasWords.of_lx {p : Pred} {i : Instr} {c rm z s ps pn pv : Bool} {lits : List Word} (hw : i.wf = true)
    (hz : lxZero x.toNat c rm z s ps pn pv = true)
    {d a b : Nat} {e : Word} {l : List Word} (he : encode i = encLX p d a b e l)
    (hf : encLX p d a b e l = encLX p (bits body 14 7) (bits body 7 7) (bits body 0 7) (lxExt (bits x.toNat 24 8) (cond c (bits x.toNat 17 7) 0) (bits x.toNat 12 5)
      (cond rm (bits x.toNat 10 2) 0) (cond z (bits x.toNat 9 1) 0)
      (cond s (bits x.toNat 8 1) 0) (cond ps (bits x.toNat 5 3) 0) (cond pn (bits x.toNat 4 1) 0) (cond pv (bits x.toNat 3 1) 0)) lits) :
    i.HasWords ([wHead 0 0x07 p.code body, x] ++ lits) := by
  refine ⟨hw, ?_⟩
  rw [he, hf, lxExt_self hz, encLX, bits_777_self hb]
  rfl

/-- CVT: its second operand stands in the word where it packs (R433). -/
theorem hasWords_cvt {dty sty : Ty} (hxf : bits x.toNat 24 8 = 0x40) (hd : bits body 14 7 < 120) (hdty : dty.code = bits x.toNat 12 5)
    (hsty : sty.code = bits x.toNat 17 7) (hok : cvtOk dty sty = true)
    (hz : lxZero x.toNat true true (cvtFtz dty sty) (cvtSat dty) false false false = true) (hb0 : cvtPacks dty sty = true ∨ bits body 0 7 = 0)
    (hn : isL (bits body 7 7) + (if cvtPacks dty sty = true then isL (bits body 0 7) else 0) ≤ 1) :
    (Instr.cvt p dty sty (rmodeOf (bits x.toNat 10 2)) (bits x.toNat 9 1 == 1) (bits x.toNat 8 1 == 1) (ldstOf (bits body 14 7))
      (lsrcOf (bits body 7 7) v) (if cvtPacks dty sty = true then some (lsrcOf (bits body 0 7) v) else none)).HasWords
      ([wHead 0 0x07 p.code body, x] ++ List.replicate (isL (bits body 7 7) + if cvtPacks dty sty = true then isL (bits body 0 7) else 0) v) := by
  obtain ⟨hftz, hsat⟩ := lxZero_flags hz
  have hflags : (cvtOk dty sty && (cvtFtz dty sty || !(bits x.toNat 9 1 == 1)) && (cvtSat dty || !(bits x.toNat 8 1 == 1))) = true := by
    rw [hok, flag_taken hftz, flag_taken hsat]; rfl
  cases hp : cvtPacks dty sty with
  | true =>
    simp only [hp, if_true] at hn ⊢
    obtain ⟨hlit, hcnt⟩ := lLits_lsrcOf₂ v (bits_lt body 7 7) (bits_lt body 0 7) hn
    refine .of_lx hb ?_ hz rfl (by simp [code_ldstOf _ hd, hdty, hsty, optLSrc, optList, hlit, hxf, cond_taken hftz, cond_taken hsat])
    simp only [Instr.wf, hflags, hp]
    exact hcnt
  | false =>
    have hb0 : bits body 0 7 = 0 := hb0.resolve_left (by rw [hp]; exact Bool.false_ne_true)
    simp only [hp, Bool.false_eq_true, if_false, Nat.add_zero] at hn ⊢
    refine .of_lx hb ?_ hz rfl (by
      simp [code_ldstOf _ hd, hdty, hsty, hb0, optLSrc, optList, lLits_lsrcOf v (bits_lt body 7 7), hxf, cond_taken hftz, cond_taken hsat])
    simp only [Instr.wf, hflags, hp]
    exact decide_eq_true (lCount_lsrcOf_le v (bits_lt body 7 7))

/-- QBLK: no operand names a literal; a block of 4-bit elements takes a second one (R436, R439). -/
theorem hasWords_qblk {q : QTy} (hxf : bits x.toNat 24 8 = 0x41) (hd : bits body 14 7 < 120) (hq : q.code = bits x.toNat 12 5) (ha : bits body 7 7 ≠ 127)
    (hb1 : q ≠ .e2m1 ∨ bits body 0 7 ≠ 127) (hz : lxZero x.toNat false true false false false false false = true) (hb0 : q = .e2m1 ∨ bits body 0 7 = 0) :
    (Instr.qblk p q (rmodeOf (bits x.toNat 10 2)) (ldstOf (bits body 14 7)) (lsrcOf (bits body 7 7) v)
      (if q = .e2m1 then some (lsrcOf (bits body 0 7) v) else none)).HasWords ([wHead 0 0x07 p.code body, x] ++ List.replicate 0 v) := by
  obtain ⟨_, ha⟩ := lsrcOf_not_lit (bits_lt body 7 7) ha v
  by_cases h : q = .e2m1
  · subst h
    obtain ⟨_, hb1⟩ := lsrcOf_not_lit (bits_lt body 0 7) (hb1.resolve_left fun h => h rfl) v
    refine .of_lx hb ?_ hz rfl (by simp [code_ldstOf _ hd, hq, optLSrc, optList, LSrc.not_lit_cons ha, LSrc.not_lit_cons hb1, lLits, hxf])
    simp [Instr.wf, ha, optIsLit_some, hb1]
  · simp only [h, if_false]
    refine .of_lx hb ?_ hz rfl (by simp [code_ldstOf _ hd, hq, hb0.resolve_left h, optLSrc, optList, LSrc.not_lit_cons ha, lLits, hxf])
    simp [Instr.wf, ha, optIsLit, h]

/-- QBLKS: only its scale may name a literal; a block of 4-bit elements takes a third operand (R437, R439). -/
theorem hasWords_qblks {q : QTy} (hxf : bits x.toNat 24 8 = 0x42) (hd : bits body 14 7 < 120) (hq : q.code = bits x.toNat 12 5) (ha : bits body 7 7 ≠ 127)
    (hc : q ≠ .e2m1 ∨ bits x.toNat 17 7 ≠ 127) (hz : lxZero x.toNat (q == .e2m1) true false true false false false = true) :
    (Instr.qblks p q (rmodeOf (bits x.toNat 10 2)) (bits x.toNat 8 1 == 1) (ldstOf (bits body 14 7)) (lsrcOf (bits body 7 7) v) (lsrcOf (bits body 0 7) v)
      (if q = .e2m1 then some (lsrcOf (bits x.toNat 17 7) v) else none)).HasWords
      ([wHead 0 0x07 p.code body, x] ++ List.replicate (isL (bits body 0 7)) v) := by
  obtain ⟨_, ha⟩ := lsrcOf_not_lit (bits_lt body 7 7) ha v
  by_cases h : q = .e2m1
  · subst h
    obtain ⟨hc0, hc⟩ := lsrcOf_not_lit (bits_lt x.toNat 17 7) (hc.resolve_left fun h => h rfl) v
    have hlit : lLits [lsrcOf (bits body 0 7) v, lsrcOf (bits x.toNat 17 7) v] = List.replicate (isL (bits body 0 7)) v := by
      simpa [hc0] using (lLits_lsrcOf₂ v (bits_lt body 0 7) (bits_lt x.toNat 17 7) (by rw [hc0]; exact isL_le_one _)).1
    refine .of_lx hb ?_ hz rfl (by simp [code_ldstOf _ hd, hq, optLSrc, optList, LSrc.not_lit_cons ha, hlit, hxf])
    simp [Instr.wf, ha, optIsLit_some, hc]
  · simp only [h, if_false]
    rw [beq_eq_false_iff_ne.2 h] at hz
    refine .of_lx hb ?_ hz rfl (by simp [code_ldstOf _ hd, hq, optLSrc, optList, LSrc.not_lit_cons ha, lLits_lsrcOf v (bits_lt body 0 7), hxf])
    simp [Instr.wf, ha, optIsLit, h]

/-- DQBLK: a block of 4-bit elements takes a second operand (R438). -/
theorem hasWords_dqblk {q : QTy} (hxf : bits x.toNat 24 8 = 0x43) (hd : bits body 14 7 < 120) (hq : q.code = bits x.toNat 12 5)
    (hz : lxZero x.toNat false true true false false false false = true) (hb0 : q = .e2m1 ∨ bits body 0 7 = 0)
    (hn : isL (bits body 7 7) + (if q = .e2m1 then isL (bits body 0 7) else 0) ≤ 1) :
    (Instr.dqblk p q (rmodeOf (bits x.toNat 10 2)) (bits x.toNat 9 1 == 1) (ldstOf (bits body 14 7)) (lsrcOf (bits body 7 7) v)
      (if q = .e2m1 then some (lsrcOf (bits body 0 7) v) else none)).HasWords
      ([wHead 0 0x07 p.code body, x] ++ List.replicate (isL (bits body 7 7) + if q = .e2m1 then isL (bits body 0 7) else 0) v) := by
  by_cases h : q = .e2m1
  · subst h
    obtain ⟨hlit, hcnt⟩ := lLits_lsrcOf₂ v (bits_lt body 7 7) (bits_lt body 0 7) hn
    exact .of_lx hb hcnt hz rfl (by simp [code_ldstOf _ hd, hq, optLSrc, optList, hlit, hxf])
  · simp only [h, if_false, Nat.add_zero]
    refine .of_lx hb ?_ hz rfl (by simp [code_ldstOf _ hd, hq, hb0.resolve_left h, optLSrc, optList, lLits_lsrcOf v (bits_lt body 7 7), hxf])
    simp only [Instr.wf, beq_eq_false_iff_ne.2 h]
    exact decide_eq_true (lCount_lsrcOf_le v (bits_lt body 7 7))

/-- What a long arithmetic word and its extension decode to is well-formed, and they are its words. -/
theorem decodeLX_sound (rest : List Word) :
    DecRes.Sound (wHead 0 0x07 p.code body :: x :: rest)
      (decodeLX p (bits body 14 7) (bits body 7 7) (bits body 0 7) x.toNat rest.head?) := by
  have ha := bits_lt body 7 7
  have hb' := bits_lt body 0 7
  have hc := bits_lt x.toNat 17 7
  unfold decodeLX
  dsimp only
  split
  · next mk h => -- two operands and `.sat`
    refine .of_fin (ws := [_, _]) fun hl hz hn v => ?_
    simp only [Bool.and_eq_true, decide_eq_true_eq] at hl
    obtain ⟨hd, hty⟩ := hl
    obtain ⟨hlit, hcnt⟩ := lLits_lsrcOf₂ v ha hb' hn
    exact .of_lx hb ((lxABsat_encode h ..).1.trans hcnt) hz (lxABsat_encode h ..).2 (by simp [code_ldstOf _ hd, code_ityOf _ hty, hlit])
  split
  · next mk h => -- two operands
    refine .of_fin (ws := [_, _]) fun hl hz hn v => ?_
    simp only [Bool.and_eq_true, decide_eq_true_eq] at hl
    obtain ⟨hd, hty⟩ := hl
    obtain ⟨hlit, hcnt⟩ := lLits_lsrcOf₂ v ha hb' hn
    exact .of_lx hb ((lxAB_encode h ..).1.trans hcnt) hz (lxAB_encode h ..).2 (by simp [code_ldstOf _ hd, code_ityOf _ hty, hlit])
  split
  · next mk h => -- one operand
    refine .of_fin (ws := [_, _]) fun hl hz hn v => ?_
    simp only [Bool.and_eq_true, decide_eq_true_eq] at hl
    obtain ⟨hd, hty⟩ := hl
    simp only [Bool.and_eq_true, beq_iff_eq] at hz
    obtain ⟨hz, hB⟩ := hz
    exact .of_lx hb (lxA_encode h ..).1 hz (lxA_encode h ..).2 (by simp [code_ldstOf _ hd, code_ityOf _ hty, hB, lLits_lsrcOf v ha])
  split
  · next mk h => -- one operand and `.sat`
    refine .of_fin (ws := [_, _]) fun hl hz hn v => ?_
    simp only [Bool.and_eq_true, decide_eq_true_eq] at hl
    obtain ⟨hd, hty⟩ := hl
    simp only [Bool.and_eq_true, beq_iff_eq] at hz
    obtain ⟨hz, hB⟩ := hz
    exact .of_lx hb (lxAsat_encode h ..).1 hz (lxAsat_encode h ..).2 (by simp [code_ldstOf _ hd, code_ityOf _ hty, hB, lLits_lsrcOf v ha])
  split
  · next mk h => -- float, with rounding
    refine .of_fin (ws := [_, _]) fun hl hz hn v => ?_
    simp only [Bool.and_eq_true, decide_eq_true_eq] at hl
    obtain ⟨hd, hlo, hhi⟩ := hl
    obtain ⟨hlit, hcnt⟩ := lLits_lsrcOf₂ v ha hb' hn
    exact .of_lx hb ((lxFrm_encode h ..).1.trans hcnt) hz (lxFrm_encode h ..).2 (by simp [code_ldstOf _ hd, code_ftyOf _ hhi hlo, hlit])
  split
  · next mk h => -- float minimum and maximum
    refine .of_fin (ws := [_, _]) fun hl hz hn v => ?_
    simp only [Bool.and_eq_true, decide_eq_true_eq] at hl
    obtain ⟨hd, hlo, hhi⟩ := hl
    obtain ⟨hlit, hcnt⟩ := lLits_lsrcOf₂ v ha hb' hn
    exact .of_lx hb ((lxFmm_encode h ..).1.trans hcnt) hz (lxFmm_encode h ..).2 (by simp [code_ldstOf _ hd, code_ftyOf _ hhi hlo, hlit])
  split
  · next hxf => -- IMAD
    refine .of_fin (ws := [_, _]) fun hl hz hn v => ?_
    simp only [Bool.and_eq_true, decide_eq_true_eq] at hl
    obtain ⟨hd, hty⟩ := hl
    obtain ⟨hlit, hcnt⟩ := lLits_lsrcOf₃ v ha hb' hc hn
    exact .of_lx hb hcnt hz rfl (by simp [code_ldstOf _ hd, code_ityOf _ hty, hlit, hxf])
  · next hxf => -- IFLD
    refine .of_fin (ws := [_, _]) fun hl hz hn v => ?_
    simp only [Bool.and_eq_true, decide_eq_true_eq] at hl
    obtain ⟨hd, hty⟩ := hl
    obtain ⟨hlit, hcnt⟩ := lLits_lsrcOf₃ v ha hb' hc hn
    exact .of_lx hb hcnt hz rfl (by simp [code_ldstOf _ hd, code_ityOf _ hty, hlit, hxf])
  · next hxf => -- ICMP
    refine .of_fin (ws := [_, _]) fun hl hz hn v => ?_
    simp only [Bool.and_eq_true, decide_eq_true_eq] at hl
    obtain ⟨hty, hcode⟩ := hl
    simp only [Bool.and_eq_true, beq_iff_eq] at hz
    obtain ⟨⟨hz, hcc⟩, hd⟩ := hz
    obtain ⟨hlit, hcnt⟩ := lLits_lsrcOf₂ v ha hb' hn
    have hcc : bits x.toNat 17 7 % 16 = bits x.toNat 17 7 := by omega
    exact .of_lx hb hcnt hz rfl (by simp [code_ityOf _ hty, code_iccOf _ (hcc ▸ hcode), hcc, hd, hlit, hxf])
  · next hxf => -- SEL
    refine .of_fin (ws := [_, _]) fun hl hz hn v => ?_
    simp only [Bool.and_eq_true, decide_eq_true_eq] at hl
    obtain ⟨hd, hty⟩ := hl
    obtain ⟨hlit, hcnt⟩ := lLits_lsrcOf₂ v ha hb' hn
    exact .of_lx hb hcnt hz rfl (by simp [code_ldstOf _ hd, code_ityOf _ hty, hlit, hxf])
  · next hxf => -- FFMA
    refine .of_fin (ws := [_, _]) fun hl hz hn v => ?_
    simp only [Bool.and_eq_true, decide_eq_true_eq] at hl
    obtain ⟨hd, hlo, hhi⟩ := hl
    obtain ⟨hlit, hcnt⟩ := lLits_lsrcOf₃ v ha hb' hc hn
    exact .of_lx hb hcnt hz rfl (by simp [code_ldstOf _ hd, code_ftyOf _ hhi hlo, hlit, hxf])
  · next hxf => -- FABS
    refine .of_fin (ws := [_, _]) fun hl hz hn v => ?_
    simp only [Bool.and_eq_true, decide_eq_true_eq] at hl
    obtain ⟨hd, hlo, hhi⟩ := hl
    simp only [Bool.and_eq_true, beq_iff_eq] at hz
    obtain ⟨hz, hB⟩ := hz
    exact .of_lx hb rfl hz rfl (by simp [code_ldstOf _ hd, code_ftyOf _ hhi hlo, hB, lLits_lsrcOf v ha, hxf])
  · next hxf => -- FNEG
    refine .of_fin (ws := [_, _]) fun hl hz hn v => ?_
    simp only [Bool.and_eq_true, decide_eq_true_eq] at hl
    obtain ⟨hd, hlo, hhi⟩ := hl
    simp only [Bool.and_eq_true, beq_iff_eq] at hz
    obtain ⟨hz, hB⟩ := hz
    exact .of_lx hb rfl hz rfl (by simp [code_ldstOf _ hd, code_ftyOf _ hhi hlo, hB, lLits_lsrcOf v ha, hxf])
  · next hxf => -- FCMP
    refine .of_fin (ws := [_, _]) fun hl hz hn v => ?_
    simp only [Bool.and_eq_true, decide_eq_true_eq] at hl
    obtain ⟨⟨hlo, hhi⟩, hcode⟩ := hl
    simp only [Bool.and_eq_true, beq_iff_eq] at hz
    obtain ⟨⟨hz, hcc⟩, hd⟩ := hz
    obtain ⟨hlit, hcnt⟩ := lLits_lsrcOf₂ v ha hb' hn
    have hcc : bits x.toNat 17 7 % 16 = bits x.toNat 17 7 := by omega
    exact .of_lx hb hcnt hz rfl (by simp [f64Bit hlo hhi, code_fccOf _ (hcc ▸ hcode), hcc, hd, hlit, hxf])
  · next hxf => -- FCLASS
    refine .of_fin (ws := [_, _]) fun hl hz hn v => ?_
    simp only [Bool.and_eq_true, decide_eq_true_eq] at hl
    obtain ⟨hd, hlo, hhi⟩ := hl
    simp only [Bool.and_eq_true, beq_iff_eq] at hz
    obtain ⟨hz, hB⟩ := hz
    exact .of_lx hb rfl hz rfl (by simp [code_ldstOf _ hd, code_ftyOf _ hhi hlo, hB, lLits_lsrcOf v ha, hxf])
  · next hxf => -- CVT
    refine .of_fin (ws := [_, _]) fun hl hz hn v => ?_
    simp only [Bool.and_eq_true, decide_eq_true_eq] at hl
    obtain ⟨⟨⟨hd, hdty⟩, hsty⟩, hok⟩ := hl
    simp only [Bool.and_eq_true, Bool.or_eq_true, beq_iff_eq] at hz
    obtain ⟨⟨hz, hsc⟩, hb0⟩ := hz
    exact hasWords_cvt p hb v hxf hd (code_tyOf _ hdty) ((code_tyOf _ hsty).trans (by omega)) hok hz hb0 hn
  · next hxf => -- QBLK
    split
    · exact .of_error _ _
    · next q hq =>
      refine .of_fin (ws := [_, _]) fun hl hz hn v => ?_
      simp only [Bool.and_eq_true, Bool.or_eq_true, decide_eq_true_eq, bne_iff_ne, beq_iff_eq] at hl hz
      obtain ⟨⟨hd, hA⟩, hB⟩ := hl
      obtain ⟨hz, hB0⟩ := hz
      exact hasWords_qblk p hb v hxf hd (code_qtyOf hq) hA hB hz hB0
  · next hxf => -- QBLKS
    split
    · exact .of_error _ _
    · next q hq =>
      refine .of_fin (ws := [_, _]) fun hl hz hn v => ?_
      simp only [Bool.and_eq_true, Bool.or_eq_true, decide_eq_true_eq, bne_iff_ne] at hl
      obtain ⟨⟨hd, hA⟩, hC⟩ := hl
      exact hasWords_qblks p hb v hxf hd (code_qtyOf hq) hA hC hz
  · next hxf => -- DQBLK
    split
    · exact .of_error _ _
    · next q hq =>
      refine .of_fin (ws := [_, _]) fun hl hz hn v => ?_
      simp only [Bool.and_eq_true, Bool.or_eq_true, decide_eq_true_eq, beq_iff_eq] at hl hz
      obtain ⟨hz, hB0⟩ := hz
      exact hasWords_dqblk p hb v hxf hl (code_qtyOf hq) hz hB0 hn
  · next hxf => -- SHFL
    refine .of_fin (ws := [_, _]) fun hl hz hn v => ?_
    simp only [Bool.and_eq_true, decide_eq_true_eq, beq_iff_eq] at hl hz
    obtain ⟨hd, hty⟩ := hl
    obtain ⟨hz, hc⟩ := hz
    obtain ⟨hlit, hcnt⟩ := lLits_lsrcOf₂ v ha hb' hn
    have hm : b2n (bits x.toNat 17 7 % 2 == 1) = bits x.toNat 17 7 := by rw [b2n_mod_two]; omega
    refine .of_lx hb hcnt hz rfl ?_
    cases h : bits x.toNat 3 1 == 1 with
    | true => simp [code_ldstOf _ hd, code_rtyOf _ hty, hm, hlit, hxf, eq_of_beq h]
    | false => simp [code_ldstOf _ hd, code_rtyOf _ hty, hm, hlit, hxf, bit_eq_zero h]
  · exact .of_error _ _

end

end Sys2Proof
end

section
/-! SUPPORT. Long memory words, read backwards (R358, R363, R451, R456, R461). -/

namespace Sys2Proof

/-! ## Long memory words (R358, R363) -/

/-- The memory operand of a long memory word: base, index and scale from its body, the literal where the extension word says so. -/
def lxmemOf (body x : Nat) (w : Word) : LXMem :=
  ⟨if bits body 8 6 < 62 then some (Fin.ofNat 62 (bits body 8 6)) else none,
   if bits body 7 1 = 1 then some (Fin.ofNat 8 (bits body 4 3), Fin.ofNat 4 (bits body 2 2)) else none,
   if bits x 1 1 = 1 then some w else none⟩

/-- The zero fields of a long memory word, whichever instruction it is. -/
def LMXZero (body x : Nat) : Prop :=
  ((bits body 1 1 = 0 ∧ (bits body 7 1 = 1 ∨ bits body 4 3 = 0 ∧ bits body 2 2 = 0)) ∧ bits x 2 7 = 0) ∧ bits x 0 1 = 0

section
variable {body : Nat}

theorem lxmemOf_base (x : Nat) (w : Word) (hb : bits body 8 6 ≠ 63) :
    (lxmemOf body x w).baseCode = bits body 8 6 := by
  by_cases h : bits body 8 6 < 62
  · simp [lxmemOf, LXMem.baseCode, h, Nat.mod_eq_of_lt h]
  · have := bits_lt body 8 6
    simp only [lxmemOf, LXMem.baseCode, h, if_false]
    omega

theorem lxmemOf_idx {x : Nat} (w : Word) (hz : LMXZero body x) :
    (lxmemOf body x w).idxCode =
      bits body 7 1 * 2 ^ 7 + bits body 4 3 * 2 ^ 4 + bits body 2 2 * 2 ^ 2 := by
  obtain ⟨⟨⟨_, hidx⟩, _⟩, _⟩ := hz
  by_cases h : bits body 7 1 = 1
  · simp [lxmemOf, LXMem.idxCode, h]
  · obtain ⟨h4, h2⟩ := hidx.resolve_left h
    simp [lxmemOf, LXMem.idxCode, h4, h2, bit_eq_zero (beq_eq_false_iff_ne.2 h)]

/-- The body of a long memory word is put together from D, the address and bit 0 (R358). -/
theorem lmxBody_self {x : Nat} (hb : body < 2 ^ 21) (w : Word) (hbase : bits body 8 6 ≠ 63) (hz : LMXZero body x) :
    bits body 14 7 * 2 ^ 14 + (lxmemOf body x w).baseCode * 2 ^ 8 +
      (lxmemOf body x w).idxCode + bits body 0 1 = body := by
  rw [lxmemOf_base x w hbase, lxmemOf_idx w hz]
  obtain ⟨⟨⟨h1, _⟩, _⟩, _⟩ := hz
  simp only [bits] at h1 ⊢
  omega

/-- The fields of a long memory word's extension, of which bits [8:2] and bit 0 are zero, put it together. -/
theorem lmxExt_self {x : Word} (h2 : bits x.toNat 2 7 = 0) (h0 : bits x.toNat 0 1 = 0) :
    lmxExt (bits x.toNat 26 6) (bits x.toNat 23 3) (bits x.toNat 21 2) (bits x.toNat 18 3) (bits x.toNat 16 2) (bits x.toNat 9 7)
      (bits x.toNat 1 1) = x := by
  have hx := x.isLt
  apply BitVec.eq_of_toNat_eq
  simp only [lmxExt, bits, BitVec.toNat_ofNat] at h2 h0 ⊢
  omega

theorem lxmemOf_offLits (x : Nat) (v : Word) : offLits (lxmemOf body x v).off = List.replicate (bits x 1 1) v := by
  by_cases h : bits x 1 1 = 1
  · simp [lxmemOf, h, offLits]
  · simp [lxmemOf, bit_eq_zero (beq_eq_false_iff_ne.2 h), offLits]

theorem lxmemOf_offCount (x : Nat) (v : Word) : offCount (lxmemOf body x v).off = bits x 1 1 := by
  by_cases h : bits x 1 1 = 1
  · simp [lxmemOf, h, offCount]
  · simp [lxmemOf, bit_eq_zero (beq_eq_false_iff_ne.2 h), offCount]

theorem lxmemOf_count {x c : Nat} {v : Word} (hc : c < 128) (h : bits x 1 1 + isL c ≤ 1) :
    decide (offCount (lxmemOf body x v).off + lCount [lsrcOf c v] ≤ 1) = true := by
  rw [lxmemOf_offCount, lCount_lsrcOf v hc]
  exact decide_eq_true h

theorem lxmemOf_off_isSome (x : Nat) (v : Word) : b2n (lxmemOf body x v).off.isSome = bits x 1 1 := by
  by_cases h : bits x 1 1 = 1
  · simp [lxmemOf, h]
  · simp [lxmemOf, bit_eq_zero (beq_eq_false_iff_ne.2 h)]

end

/-! Orders and scopes (R363): ORD 1 acquires, 2 releases; SCOPE is zero where nothing is ordered. -/

section
variable {ord scp : Nat} (hz : ord ≠ 0 ∨ scp = 0)
include hz

theorem acq_fields (ho : ord < 2) (hs : ord = 0 ∨ scp < 5) :
    b2n (if ord = 1 then some (scopeOf scp) else none).isSome = ord ∧ optScope (if ord = 1 then some (scopeOf scp) else none) = scp := by
  obtain rfl | rfl : ord = 0 ∨ ord = 1 := by omega
  · exact ⟨rfl, (hz.resolve_left fun h => h rfl).symm⟩
  · exact ⟨rfl, code_scopeOf _ (hs.resolve_left Nat.one_ne_zero)⟩

theorem rel_fields (ho : ord = 0 ∨ ord = 2) (hs : ord = 0 ∨ scp < 5) :
    2 * b2n (if ord = 2 then some (scopeOf scp) else none).isSome = ord ∧ optScope (if ord = 2 then some (scopeOf scp) else none) = scp := by
  obtain rfl | rfl := ho
  · exact ⟨rfl, (hz.resolve_left fun h => h rfl).symm⟩
  · exact ⟨rfl, code_scopeOf _ (hs.resolve_left (by decide))⟩

theorem aord_fields (ho : ord < 4) (hs : ord = 0 ∨ scp < 5) : (aordOf ord scp).code = ord ∧ (aordOf ord scp).scopeCode = scp := by
  obtain rfl | h := Nat.eq_zero_or_pos ord
  · exact ⟨rfl, (hz.resolve_left fun h => h rfl).symm⟩
  · have hcode := code_scopeOf _ (hs.resolve_left h.ne')
    obtain rfl | rfl | rfl : ord = 1 ∨ ord = 2 ∨ ord = 3 := by omega
    · exact ⟨rfl, hcode⟩
    · exact ⟨rfl, hcode⟩
    · exact ⟨rfl, hcode⟩

omit hz in
/-- The scopes of scratchpad orders (R451). -/
theorem spadScope_of {o : Nat} (hs : ord = 0 ∨ scp < 2) (h : o ≠ 0) : spadScope (if ord = o then some (scopeOf scp) else none) = true := by
  split
  · obtain rfl | rfl : scp = 0 ∨ scp = 1 := by omega
    · rfl
    · rfl
  · rfl

end

/-- The returned register of an atomic: D, unless bit 0 of the body says that none is returned (R363). -/
theorem casBase_fields {nr d : Nat} (hn : nr < 2) (hd : nr = 1 ∨ d < 120) (hd0 : nr = 0 ∨ d = 0) :
    casBase (if nr = 1 then none else some (ldstOf d)) = d ∧ b2n (if nr = 1 then none else some (ldstOf d)).isNone = nr := by
  by_cases h : nr = 1
  · subst h
    exact ⟨(hd0.resolve_left Nat.one_ne_zero).symm, rfl⟩
  · obtain rfl : nr = 0 := by omega
    exact ⟨code_ldstOf _ (hd.resolve_left h), rfl⟩

/-- A cas names a V or T register (R456). -/
theorem casSrc_of {o : AOp} {sz : SZ} {c : Nat} (v : Word) (hc : c < 128) (h : o ≠ .cas ∨ casOk sz c = true) : casSrc o sz (lsrcOf c v) = true := by
  cases o with
  | cas =>
    have h := h.resolve_left fun h => h rfl
    simp only [casOk, Bool.and_eq_true, Bool.or_eq_true, decide_eq_true_eq, bne_iff_ne] at h
    obtain ⟨⟨h120, h119⟩, h118⟩ := h
    unfold lsrcOf
    by_cases hv : c < 112
    · rw [if_pos hv]; rfl
    · rw [if_neg hv, if_pos h120]
      have hn : (Fin.ofNat 8 (c - 112)).val = c - 112 := Nat.mod_eq_of_lt (by omega)
      simp only [casSrc, hn, Bool.and_eq_true, Bool.or_eq_true, bne_iff_ne]
      exact ⟨by omega, h118.imp_right fun h => by omega⟩
  | _ => rfl

/-- The G register of a multicast (R461). -/
theorem selReg {s : Nat} (hlo : 120 ≤ s) (hhi : s < 127) : 120 + (Fin.ofNat 7 (s - 120)).val = s := by
  rw [Fin.val_ofNat, Nat.mod_eq_of_lt (by omega)]; omega

section
variable (p : Pred) {body : Nat} (hb : body < 2 ^ 21) (v : Word) {x : Word}
include hb

/-- A long memory instruction: its two words are put together from their fields, its literals stand behind them. -/
theorem Instr.HasWords.of_lmx {p : Pred} {i : Instr} {v : Word} {d nr op sz ord sc hint s nl : Nat} {l : List Word} (hw : i.wf = true)
    (hbase : bits body 8 6 ≠ 63) (hz : LMXZero body x.toNat)
    (he : encode i = encLMX p d nr (lxmemOf body x.toNat v) op sz ord sc hint s l)
    (hf : encLMX p d nr (lxmemOf body x.toNat v) op sz ord sc hint s l =
      encLMX p (bits body 14 7) (bits body 0 1) (lxmemOf body x.toNat v) (bits x.toNat 26 6) (bits x.toNat 23 3) (bits x.toNat 21 2)
        (bits x.toNat 18 3) (bits x.toNat 16 2) (bits x.toNat 9 7) (List.replicate nl v)) :
    i.HasWords ([wHead 0 0x36 p.code body, x] ++ List.replicate (bits x.toNat 1 1 + nl) v) := by
  obtain ⟨⟨_, hmid⟩, hlow⟩ := id hz
  refine ⟨hw, he.trans (hf.trans ?_)⟩
  rw [encLMX_eq, lmxBody_self hb v hbase hz, lxmemOf_off_isSome, lmxExt_self hmid hlow, lxmemOf_offLits, List.replicate_append_replicate]
  rfl

/-- What a long memory word and its extension decode to is well-formed, and they are its words. -/
theorem decodeLMX_sound (rest : List Word) :
    DecRes.Sound (wHead 0 0x36 p.code body :: x :: rest) (decodeLMX p body x.toNat rest.head?) := by
  unfold decodeLMX
  dsimp only
  split
  · next hop => -- LD
    refine .of_fin (ws := [_, _]) fun hl hz hn v => ?_
    simp only [Bool.and_eq_true, Bool.or_eq_true, decide_eq_true_eq, beq_iff_eq, bne_iff_ne] at hl hz
    obtain ⟨⟨⟨⟨⟨hbase, hd⟩, hsz⟩, hord⟩, hsc⟩, hhint⟩ := hl
    obtain ⟨⟨⟨hz, hnr⟩, hs⟩, hscz⟩ := hz
    obtain ⟨ho, hsc⟩ := acq_fields hscz hord hsc
    exact .of_lmx (nl := 0) hb rfl hbase hz rfl (by simp [code_ldstOf _ hd, code_szOf _ hsz, hop, ho, hsc, hnr, hs, b2n_of_lt_two hhint])
  · next hop => -- LDS
    refine .of_fin (ws := [_, _]) fun hl hz hn v => ?_
    simp only [Bool.and_eq_true, Bool.or_eq_true, decide_eq_true_eq, beq_iff_eq, bne_iff_ne] at hl hz
    obtain ⟨⟨⟨⟨hbase, hd⟩, hsz⟩, hord⟩, hsc⟩ := hl
    obtain ⟨⟨⟨⟨hz, hnr⟩, hs⟩, hscz⟩, hhint⟩ := hz
    have hspad := spadScope_of hsc Nat.one_ne_zero
    obtain ⟨ho, hsc⟩ := acq_fields hscz hord (hsc.imp_right fun h => by omega)
    exact .of_lmx (nl := 0) hb hspad hbase hz rfl (by simp [code_ldstOf _ hd, code_szOf _ hsz, hop, ho, hsc, hnr, hs, hhint])
  · next hop => -- PREF
    refine .of_fin (ws := [_, _]) fun hl hz hn v => ?_
    simp only [Bool.and_eq_true, decide_eq_true_eq, Bool.or_eq_true, beq_iff_eq, bne_iff_ne] at hl hz
    obtain ⟨hbase, hhint⟩ := hl
    obtain ⟨⟨⟨⟨⟨⟨hz, hnr⟩, hs⟩, hsz⟩, hord⟩, hsc⟩, hd⟩ := hz
    exact .of_lmx (nl := 0) hb rfl hbase hz rfl (by simp [hop, hd, hnr, hs, hsz, hord, hsc, b2n_of_lt_two hhint])
  · next hop => -- DSET
    refine .of_fin (ws := [_, _]) fun hl hz hn v => ?_
    simp only [Bool.and_eq_true, Bool.or_eq_true, beq_iff_eq, bne_iff_ne] at hl hz
    obtain ⟨⟨⟨⟨⟨⟨hz, hnr⟩, hs⟩, hsz⟩, hord⟩, hsc⟩, hhint⟩ := hz
    exact .of_lmx hb (lxmemOf_count (bits_lt body 14 7) hn) hl hz rfl (by
      simp [hop, hnr, hs, hsz, hord, hsc, hhint, lLits_lsrcOf v (bits_lt body 14 7)])
  · next hop => -- DGET
    refine .of_fin (ws := [_, _]) fun hl hz hn v => ?_
    simp only [Bool.and_eq_true, decide_eq_true_eq, Bool.or_eq_true, beq_iff_eq, bne_iff_ne] at hl hz
    obtain ⟨hbase, hd⟩ := hl
    obtain ⟨⟨⟨⟨⟨⟨hz, hnr⟩, hs⟩, hsz⟩, hord⟩, hsc⟩, hhint⟩ := hz
    exact .of_lmx (nl := 0) hb rfl hbase hz rfl (by simp [code_ldstOf _ hd, hop, hnr, hs, hsz, hord, hsc, hhint])
  split
  · next hop => -- ATOM
    refine .of_fin (ws := [_, _]) fun hl hz hn v => ?_
    simp only [Bool.and_eq_true, decide_eq_true_eq, Bool.or_eq_true, beq_iff_eq, bne_iff_ne] at hl hz
    obtain ⟨⟨⟨⟨hbase, hsz⟩, hsc⟩, hd⟩, hcas⟩ := hl
    obtain ⟨⟨⟨hz, hscz⟩, hhint⟩, hd0⟩ := hz
    obtain ⟨ho, hsc⟩ := aord_fields hscz (bits_lt x.toNat 21 2) hsc
    obtain ⟨hbaseCode, hnr⟩ := casBase_fields (bits_lt body 0 1) hd hd0
    have hop' : 8 + (aopOf (bits x.toNat 26 6 - 8)).code = bits x.toNat 26 6 := by rw [code_aopOf _ (by omega)]; omega
    exact .of_lmx hb (Bool.and_eq_true_iff.2 ⟨casSrc_of v (bits_lt x.toNat 9 7) hcas, lxmemOf_count (bits_lt x.toNat 9 7) hn⟩) hbase hz rfl (by
      rw [hbaseCode, hnr, hop', ho, hsc]
      simp [code_szOf _ hsz, hhint, lLits_lsrcOf v (bits_lt x.toNat 9 7)])
  split
  · next hop => -- ATOMS
    refine .of_fin (ws := [_, _]) fun hl hz hn v => ?_
    simp only [Bool.and_eq_true, decide_eq_true_eq, Bool.or_eq_true, beq_iff_eq, bne_iff_ne] at hl hz
    obtain ⟨⟨⟨⟨hbase, hsz⟩, hord⟩, hd⟩, hcas⟩ := hl
    obtain ⟨⟨⟨hz, hscz⟩, hhint⟩, hd0⟩ := hz
    obtain ⟨hbaseCode, hnr⟩ := casBase_fields (bits_lt body 0 1) hd hd0
    have hop' : 16 + (aopOf (bits x.toNat 26 6 - 16)).code = bits x.toNat 26 6 := by rw [code_aopOf _ (by omega)]; omega
    exact .of_lmx hb (Bool.and_eq_true_iff.2 ⟨casSrc_of v (bits_lt x.toNat 9 7) hcas, lxmemOf_count (bits_lt x.toNat 9 7) hn⟩) hbase hz rfl (by
      rw [hbaseCode, hnr, hop']
      simp [code_szOf _ hsz, hhint, hord, hscz.resolve_left fun h => h hord, lLits_lsrcOf v (bits_lt x.toNat 9 7)])
  split
  · exact .of_error _ _
  next u hu =>
  split
  · next hop => -- ST
    refine .of_fin (ws := [_, _]) fun hl hz hn v => ?_
    simp only [Bool.and_eq_true, decide_eq_true_eq, Bool.or_eq_true, beq_iff_eq, bne_iff_ne] at hl hz
    obtain ⟨⟨hbase, hord⟩, hsc⟩ := hl
    obtain ⟨⟨⟨⟨hz, hnr⟩, hs⟩, hscz⟩, hhint⟩ := hz
    obtain ⟨ho, hsc⟩ := rel_fields hscz hord hsc
    exact .of_lmx hb (lxmemOf_count (bits_lt body 14 7) hn) hbase hz rfl (by
      simp [code_uszOf hu, hop, ho, hsc, hnr, hs, hhint, lLits_lsrcOf v (bits_lt body 14 7)])
  · next hop => -- STS
    refine .of_fin (ws := [_, _]) fun hl hz hn v => ?_
    simp only [Bool.and_eq_true, decide_eq_true_eq, Bool.or_eq_true, beq_iff_eq, bne_iff_ne] at hl hz
    obtain ⟨⟨hbase, hord⟩, hsc⟩ := hl
    obtain ⟨⟨⟨⟨hz, hnr⟩, hs⟩, hscz⟩, hhint⟩ := hz
    have hspad := spadScope_of (o := 2) hsc (by decide)
    obtain ⟨ho, hsc⟩ := rel_fields hscz hord (hsc.imp_right fun h => by omega)
    exact .of_lmx hb (Bool.and_eq_true_iff.2 ⟨hspad, lxmemOf_count (bits_lt body 14 7) hn⟩) hbase hz rfl (by
      simp [code_uszOf hu, hop, ho, hsc, hnr, hs, hhint, lLits_lsrcOf v (bits_lt body 14 7)])
  · next hop => -- STMC
    refine .of_fin (ws := [_, _]) fun hl hz hn v => ?_
    simp only [Bool.and_eq_true, decide_eq_true_eq, Bool.or_eq_true, beq_iff_eq, bne_iff_ne] at hl hz
    obtain ⟨⟨⟨⟨hbase, hord⟩, hsc⟩, hlo⟩, hhi⟩ := hl
    obtain ⟨⟨⟨hz, hnr⟩, hscz⟩, hhint⟩ := hz
    obtain ⟨ho, hsc⟩ := rel_fields hscz hord hsc
    exact .of_lmx hb (lxmemOf_count (bits_lt body 14 7) hn) hbase hz rfl (by
      rw [selReg hlo hhi]
      simp [code_uszOf hu, hop, ho, hsc, hnr, hhint, lLits_lsrcOf v (bits_lt body 14 7)])
  split
  · exact .of_error _ _
  next so hso => -- STRED
    refine .of_fin (ws := [_, _]) fun hl hz hn v => ?_
    simp only [Bool.and_eq_true, decide_eq_true_eq, Bool.or_eq_true, beq_iff_eq, bne_iff_ne] at hl hz
    obtain ⟨⟨⟨⟨⟨⟨hlo24, _⟩, hbase⟩, hord⟩, hsc⟩, hlo⟩, hhi⟩ := hl
    obtain ⟨⟨⟨hz, hnr⟩, hscz⟩, hhint⟩ := hz
    obtain ⟨ho, hsc⟩ := rel_fields hscz hord hsc
    have hop : 0x18 + so.code = bits x.toNat 26 6 := by rw [code_stredOf hso]; omega
    exact .of_lmx hb (lxmemOf_count (bits_lt body 14 7) hn) hbase hz rfl (by
      rw [selReg hlo hhi, hop]
      simp [code_uszOf hu, ho, hsc, hnr, hhint, lLits_lsrcOf v (bits_lt body 14 7)])

end

end Sys2Proof
end

section
/-! SUPPORT. Lane words, read backwards (R356 to R361, R417, R423). -/

namespace Sys2Proof

/-! ## Lane words (R356 to R361) -/

/-- The rows of format L3 have one encoding. -/
theorem l3Of_encode {maj : Nat} {mk : Pred → LDst → LSrc → LSrc → Instr} (h : l3Of maj = some mk) (p : Pred) (d : LDst) (a b : LSrc) :
    (mk p d a b).wf = decide (lCount [a, b] ≤ 1) ∧ encode (mk p d a b) = encL3 maj p d a b := by
  unfold l3Of at h
  split at h <;> cases h <;> exact ⟨rfl, rfl⟩

theorem sfuOf_encode {f : Nat} {mk : Pred → LDst → LSrc → Instr} (h : sfuOf f = some mk) (p : Pred) (d : LDst) (a : LSrc) :
    (mk p d a).wf = true ∧ encode (mk p d a) = encL2 0x2A p d a f := by
  unfold sfuOf at h
  split at h <;> cases h <;> exact ⟨rfl, rfl⟩

/-- A base of four bits: 15 is none (R358). -/
theorem baseCode15_bits (n lo : Nat) : baseCode15 (if bits n lo 4 < 15 then some (Fin.ofNat 15 (bits n lo 4)) else none) = bits n lo 4 := by
  have := bits_lt n lo 4
  by_cases h : bits n lo 4 < 15
  · simp [baseCode15, h, Nat.mod_eq_of_lt h]
  · simp only [h, if_false, baseCode15]
    omega

/-- The second word of LBR.RG is put together from its lists (R417). -/
theorem lbrRgExt_self {x : Word} (hz : bits x.toNat 15 17 = 0) : BitVec.ofNat 32 (bits x.toNat 8 7 * 2 ^ 8 + bits x.toNat 0 8) = x := by
  have hx := x.isLt
  apply BitVec.eq_of_toNat_eq
  simp only [bits, BitVec.toNat_ofNat] at hz ⊢
  omega

theorem redux_wf {op ty : Nat} (h : op < 3 ∨ ty < 4) (p : Pred) (d : LDst) (a : LSrc) :
    (Instr.redux p (ropOf op) (rtyOf ty) d a).wf = true := by
  obtain h | h := h
  · obtain rfl | rfl | rfl : op = 0 ∨ op = 1 ∨ op = 2 := by omega
    all_goals rfl
  · obtain rfl | rfl | rfl | rfl : ty = 0 ∨ ty = 1 ∨ ty = 2 ∨ ty = 3 := by omega
    all_goals cases ropOf op <;> rfl

section
variable (p : Pred) {body : Nat} (hb : body < 2 ^ 21)
include hb

/-- The body of a short memory word is put together from D and the address (R358). -/
theorem lmBody_self : bits body 14 7 * 2 ^ 14 + baseCode15 (lmemOf body).base * 2 ^ 10 + (lmemOf body).addr.enc = body := by
  have hbase : baseCode15 (lmemOf body).base = bits body 10 4 := baseCode15_bits body 10
  rw [hbase]
  clear hbase
  by_cases h : bits body 9 1 = 1
  · simp only [lmemOf, h, if_true, LMAddr.enc, Fin.val_ofNat, bits_two_mod, bits_three_mod, bits_four_mod]
    simp only [bits] at h ⊢
    omega
  · have h0 := bit_eq_zero (beq_eq_false_iff_ne.2 h)
    simp only [lmemOf, h, if_false, LMAddr.enc, toNat_ofNat_bits]
    simp only [bits] at h0 ⊢
    omega

/-- What a lane word, with the words behind it, decodes to is well-formed, and the words that it takes are its own. -/
theorem decodeLane_sound (maj : Nat) (rest : List Word) :
    DecRes.Sound (wHead 0 maj p.code body :: rest) (decodeLane maj p body rest) := by
  unfold decodeLane
  dsimp only
  split
  · next mk h => -- format L3
    refine .of_fin (ws := [_]) fun hl _ hn v => ?_
    obtain ⟨hlit, hcnt⟩ := lLits_lsrcOf₂ v (bits_lt body 7 7) (bits_lt body 0 7) hn
    exact .of_body ((l3Of_encode h ..).1.trans hcnt) (l3Of_encode h ..).2 (by
      rw [code_ldstOf _ (of_decide_eq_true hl), code_lsrcOf_bits, code_lsrcOf_bits, bits_777_self hb]) hlit
  split
  · -- NOP
    exact .of_fin (ws := [_]) fun _ hz _ v => .of_body rfl rfl (eq_of_beq hz).symm rfl
  · -- SREG
    refine .of_fin (ws := [_]) fun hl hz _ v => ?_
    simp only [Bool.and_eq_true, decide_eq_true_eq, beq_iff_eq] at hl hz
    obtain ⟨hd, hsr⟩ := hl
    refine .of_body rfl rfl ?_ rfl
    rw [code_ldstOf _ hd, code_sregOf _ hsr]
    simp only [bits] at hz ⊢
    omega
  · -- LBR
    exact .of_fin (ws := [_]) fun _ _ _ v => .of_body rfl rfl (Nat.mod_eq_of_lt hb) rfl
  · -- LEXIT
    exact .of_fin (ws := [_]) fun _ hz _ v => .of_body rfl rfl (eq_of_beq hz).symm rfl
  · -- LBR.RG
    split
    · exact .of_error _ _
    · next x r =>
      refine .of_fin (ws := [_, _]) fun _ hz _ v => ⟨(rfl : (Instr.lbrRg _ _ _ _).wf = true), ?_⟩
      show [wHead 0 5 p.code (BitVec.ofNat 21 body).toNat, BitVec.ofNat 32 ((BitVec.ofNat 7 (bits x.toNat 8 7)).toNat * 2 ^ 8 + (BitVec.ofNat 8 (bits x.toNat 0 8)).toNat)] = _
      rw [toNat_ofNat_bits, toNat_ofNat_bits, lbrRgExt_self (eq_of_beq hz), BitVec.toNat_ofNat, Nat.mod_eq_of_lt hb]
      rfl
  · -- long arithmetic
    split
    · exact .of_error _ _
    · exact decodeLX_sound p hb _
  · -- ICMP
    refine .of_fin (ws := [_]) fun hl _ hn v => ?_
    obtain ⟨hlit, hcnt⟩ := lLits_lsrcOf₂ v (bits_lt body 7 7) (bits_lt body 0 7) hn
    refine .of_body hcnt rfl ?_ hlit
    simp only [code_iccOf _ (of_decide_eq_true hl), code_lsrcOf_bits, Fin.val_ofNat, bits_three_mod]
    simp only [bits]
    omega
  · -- FCMP
    refine .of_fin (ws := [_]) fun hl _ hn v => ?_
    obtain ⟨hlit, hcnt⟩ := lLits_lsrcOf₂ v (bits_lt body 7 7) (bits_lt body 0 7) hn
    refine .of_body hcnt rfl ?_ hlit
    simp only [code_fccOf _ (of_decide_eq_true hl), code_lsrcOf_bits, Fin.val_ofNat, bits_three_mod]
    simp only [bits]
    omega
  · -- REDUX
    refine .of_fin (ws := [_]) fun hl _ hn v => ?_
    simp only [Bool.and_eq_true, Bool.or_eq_true, decide_eq_true_eq] at hl
    obtain ⟨⟨⟨hd, hop⟩, hty⟩, hfloat⟩ := hl
    refine .of_body (redux_wf hfloat ..) rfl ?_ (lLits_lsrcOf v (bits_lt body 7 7))
    rw [code_ldstOf _ hd, code_ropOf _ hop, code_rtyOf _ hty, code_lsrcOf_bits]
    simp only [bits]
    omega
  · -- SFU functions
    split
    · exact .of_error _ _
    · next mk h =>
      refine .of_fin (ws := [_]) fun hl _ _ v => ?_
      exact .of_body (sfuOf_encode h ..).1 (sfuOf_encode h ..).2 (by rw [code_ldstOf _ (of_decide_eq_true hl), code_lsrcOf_bits, bits_777_self hb]) (lLits_lsrcOf v (bits_lt body 7 7))
  · -- MOV
    refine .of_fin (ws := [_]) fun hl hz _ v => ?_
    refine .of_body rfl rfl ?_ (lLits_lsrcOf v (bits_lt body 7 7))
    rw [code_ldstOf _ (of_decide_eq_true hl), code_lsrcOf_bits, ← eq_of_beq hz, bits_777_self hb]
  · -- LD
    refine .of_fin (ws := [_]) fun hl _ _ v => .of_body rfl rfl ?_ rfl
    rw [code_ldstOf _ (of_decide_eq_true hl), lmBody_self hb]
  · -- ST
    refine .of_fin (ws := [_]) fun _ _ _ v => .of_body rfl rfl ?_ (lLits_lsrcOf v (bits_lt body 14 7))
    rw [code_lsrcOf_bits, lmBody_self hb]
  · -- LDS
    refine .of_fin (ws := [_]) fun hl _ _ v => .of_body rfl rfl ?_ rfl
    rw [code_ldstOf _ (of_decide_eq_true hl), lmBody_self hb]
  · -- STS
    refine .of_fin (ws := [_]) fun _ _ _ v => .of_body rfl rfl ?_ (lLits_lsrcOf v (bits_lt body 14 7))
    rw [code_lsrcOf_bits, lmBody_self hb]
  · -- ATOM
    refine .of_fin (ws := [_]) fun hl _ _ v => ?_
    simp only [Bool.and_eq_true, decide_eq_true_eq] at hl
    obtain ⟨hd, hop⟩ := hl
    refine .of_body rfl rfl ?_ (lLits_lsrcOf v (bits_lt body 7 7))
    rw [code_ldstOf _ hd, code_saopOf _ hop, code_lsrcOf_bits, baseCode15_bits]
    simp only [bits]
    omega
  · -- ATOM without a result
    refine .of_fin (ws := [_]) fun hl hz _ v => ?_
    refine .of_body rfl rfl ?_ (lLits_lsrcOf v (bits_lt body 7 7))
    rw [code_saopOf _ (of_decide_eq_true hl), code_lsrcOf_bits, baseCode15_bits]
    simp only [bits, beq_iff_eq] at hz ⊢
    omega
  · -- long memory
    split
    · exact .of_error _ _
    · exact decodeLMX_sound p hb _
  · exact .of_error _ _

end

end Sys2Proof
end

section
/-! SUPPORT. Uniform words, read backwards (R359, R364, R365, R383 to R398), and the statement that the decoder accepts nothing but encodings. -/

namespace Sys2Proof

/-! ## Uniform words (R359, R364, R365) -/

theorem uzOf_encode {maj : Nat} {mk : Pred → Instr} (h : uzOf maj = some mk) (p : Pred) :
    (mk p).wf = true ∧ encode (mk p) = encUZ maj p := by
  unfold uzOf at h
  split at h <;> cases h <;> exact ⟨rfl, rfl⟩

theorem uqOnly_encode {maj f : Nat} {mk : Pred → Fin 8 → Instr} (h : uqOnly maj f = some mk) (p : Pred) (qd : Fin 8) :
    (mk p qd).wf = true ∧ encode (mk p qd) = encUQ maj p qd f 0 0 0 [] := by
  unfold uqOnly at h
  split at h <;> cases h <;> exact ⟨rfl, rfl⟩

/-- The three logic operations on predicates, by OP (R389). -/
theorem uqlOf_encode {op : Nat} {mk : Pred → Fin 8 → Fin 8 → Bool → Fin 8 → Bool → Instr} (h : uqlOf op = some mk) (p : Pred) (qd qa : Fin 8) (na : Bool)
    (qb : Fin 8) (nb : Bool) : (mk p qd qa na qb nb).wf = true ∧ encode (mk p qd qa na qb nb) =
      [wHead 1 0x17 p.code (qd.val * 2 ^ 18 + qa.val * 2 ^ 15 + b2n na * 2 ^ 14 + qb.val * 2 ^ 11 + b2n nb * 2 ^ 10 + op * 2 ^ 8)] := by
  have words {n m : Nat} (h : n = m) : [wHead 1 0x17 p.code n] = [wHead 1 0x17 p.code m] := by rw [h]
  unfold uqlOf at h
  split at h <;> cases h <;> exact ⟨rfl, words (by omega)⟩

theorem ugABOf_encode {maj f : Nat} {mk : Pred → UDst → USrc → USrc → Instr} (h : ugABOf maj f = some mk) (p : Pred) (d : UDst) (a b : USrc) :
    (mk p d a b).wf = decide (uCount [a, b] ≤ 1) ∧ encode (mk p d a b) = encUG maj p d.code a.code b.code f (uLits [a, b]) := by
  unfold ugABOf at h
  split at h <;> cases h <;> exact ⟨rfl, rfl⟩

theorem ugAOf_encode {maj f : Nat} {mk : Pred → UDst → USrc → Instr} (h : ugAOf maj f = some mk) (p : Pred) (d : UDst) (a : USrc) :
    (mk p d a).wf = true ∧ encode (mk p d a) = encUG maj p d.code a.code 0 f (uLits [a]) := by
  unfold ugAOf at h
  split at h <;> cases h <;> exact ⟨rfl, rfl⟩

theorem ugSOf_encode {maj f : Nat} {mk : Pred → USrc → Instr} (h : ugSOf maj f = some mk) (p : Pred) (a : USrc) :
    (mk p a).wf = true ∧ encode (mk p a) = encUG maj p 0 a.code 0 f (uLits [a]) := by
  unfold ugSOf at h
  split at h <;> cases h <;> exact ⟨rfl, rfl⟩

theorem ugSSOf_encode {maj f : Nat} {mk : Pred → USrc → USrc → Instr} (h : ugSSOf maj f = some mk) (p : Pred) (a b : USrc) :
    (mk p a b).wf = decide (uCount [a, b] ≤ 1) ∧ encode (mk p a b) = encUG maj p 0 a.code b.code f (uLits [a, b]) := by
  unfold ugSSOf at h
  split at h <;> cases h <;> exact ⟨rfl, rfl⟩

theorem vtog_encode {n : Nat} (h : n < 3) (p : Pred) (d : UDst) (v : Fin 112) (x : USrc) :
    encode (.vtog p (if n = 0 then .zext else if n = 1 then .sext else .pair) d v x) = encUV 0x1A p d.code v.val x.code n (uLits [x]) := by
  obtain rfl | rfl | rfl : n = 0 ∨ n = 1 ∨ n = 2 := by omega
  · rfl
  · rfl
  · rfl

theorem vote_encode {n : Nat} (h : n < 3) (p : Pred) (d : UDst) (pl : Fin 8) :
    encode (.vote p (if n = 0 then .mask else if n = 1 then .some else .every) d pl) =
      [wHead 1 0x1C p.code (d.code * 2 ^ 15 + pl.val * 2 ^ 12 + n * 2 ^ 10)] := by
  obtain rfl | rfl | rfl : n = 0 ∨ n = 1 ∨ n = 2 := by omega
  · rfl
  · rfl
  · rfl

/-- A run header without registers names no first register (R374). -/
theorem runs_wf {n : Nat} (h : (bits n 5 4 != 0 || bits n 9 7 == 0) = true) :
    (BitVec.ofNat 4 (bits n 5 4) != 0 || BitVec.ofNat 7 (bits n 9 7) == 0) = true := by
  simp only [Bool.or_eq_true, bne_iff_ne, beq_iff_eq] at h ⊢
  refine h.imp (fun h h' => h ?_) (fun h => by rw [h]; rfl)
  rw [← toNat_ofNat_bits, h']
  rfl

/-- A tile of two slots has an even number (R327). -/
theorem mzero_wf {t st : Nat} (h : st < 2 ∨ t % 2 = 0) (ht : t < 16) (p : Pred) : (Instr.mzero p (Fin.ofNat 16 t) (tileStateOf st)).wf = true := by
  obtain h | h := h
  · obtain rfl | rfl : st = 0 ∨ st = 1 := by omega
    · rfl
    · rfl
  · have : ((Fin.ofNat 16 t).val % 2 == 0) = true := by rw [Fin.val_ofNat, Nat.mod_eq_of_lt ht, h]; rfl
    cases hst : tileStateOf st with
    | none | f32 => rfl
    | f64 | i64 => exact this

/-- The offset of a uniform memory operand (R359): five bits, or the literal. -/
def uoffOf (body : Nat) (w : Word) : UOff := if bits body 5 1 = 1 then .lit w else .imm (BitVec.ofNat 5 (bits body 0 5))

theorem uoffOf_enc {body : Nat} (v : Word) (h : bits body 5 1 = 0 ∨ bits body 0 5 = 0) :
    (uoffOf body v).enc = bits body 5 1 * 2 ^ 5 + bits body 0 5 := by
  by_cases h1 : bits body 5 1 = 1
  · rw [uoffOf, if_pos h1, h1, h.resolve_left (by omega)]; rfl
  · rw [uoffOf, if_neg h1, bit_eq_zero (beq_eq_false_iff_ne.2 h1), UOff.enc, toNat_ofNat_bits, Nat.zero_mul, Nat.zero_add]

theorem uoffOf_lits (body : Nat) (v : Word) : (uoffOf body v).lits = List.replicate (bits body 5 1) v ∧ (uoffOf body v).count = bits body 5 1 := by
  by_cases h1 : bits body 5 1 = 1
  · rw [uoffOf, if_pos h1, h1]; exact ⟨rfl, rfl⟩
  · rw [uoffOf, if_neg h1, bit_eq_zero (beq_eq_false_iff_ne.2 h1)]; exact ⟨rfl, rfl⟩

/-- The literals of a uniform memory instruction: the base's or the offset's. -/
theorem umem_lits {body c : Nat} {v : Word} (hc : c < 64) (h : isU c + bits body 5 1 ≤ 1) :
    uLits [usrcOf c v] ++ (uoffOf body v).lits = List.replicate (isU c + bits body 5 1) v ∧
    decide (uCount [usrcOf c v] + (uoffOf body v).count ≤ 1) = true := by
  obtain ⟨hlits, hcount⟩ := uoffOf_lits body v
  rw [hlits, hcount, uLits_usrcOf v hc, uCount_usrcOf v hc, List.replicate_append_replicate]
  exact ⟨rfl, decide_eq_true h⟩

/-- F is a zero field of the majors that name no sub-function (R365). -/
theorem ugF_self {maj n : Nat} (h : (!ugNoF maj || n == 0) = true) : (if ugNoF maj = true then 0 else n) = n := by
  cases hf : ugNoF maj with
  | true => rw [hf] at h; exact (eq_of_beq h).symm
  | false => rfl

theorem code_udstOf_of_ne {c : Nat} (hc : c < 64) (h : c ≠ 63) : (udstOf c).code = c := code_udstOf c (by omega)

section
variable (p : Pred) {body : Nat} (hb : body < 2 ^ 21)
include hb

/-- The fields of format UG make a body. -/
theorem ugBody {d a b f : Nat} (hd : d = bits body 15 6) (ha : a = bits body 9 6) (hB : b = bits body 3 6) (hf : f = bits body 0 3) :
    d * 2 ^ 15 + a * 2 ^ 9 + b * 2 ^ 3 + f = body := by
  subst hd ha hB hf
  simp only [bits]; omega

/-- The fields of format UQ make a body. -/
theorem uqBody {q f a b m : Nat} (hq : q = bits body 18 3) (hf : f = bits body 14 4) (ha : a = bits body 8 6) (hB : b = bits body 2 6)
    (hm : m = bits body 0 2) : q * 2 ^ 18 + f * 2 ^ 14 + a * 2 ^ 8 + b * 2 ^ 2 + m = body := by
  subst hq hf ha hB hm
  simp only [bits]; omega

/-- The fields of format UV make a body. -/
theorem uvBody {g w x m : Nat} (hg : g = bits body 15 6) (hw : w = bits body 8 7) (hx : x = bits body 2 6) (hm : m = bits body 0 2) :
    g * 2 ^ 15 + w * 2 ^ 8 + x * 2 ^ 2 + m = body := by
  subst hg hw hx hm
  simp only [bits]; omega

/-- The fields of format UM make a body. -/
theorem umBody {d b z o : Nat} (hd : d = bits body 15 6) (hB : b = bits body 9 6) (hz : z = bits body 6 3) (ho : o = bits body 5 1 * 2 ^ 5 + bits body 0 5) :
    d * 2 ^ 15 + b * 2 ^ 9 + z * 2 ^ 6 + o = body := by
  subst hd hB hz ho
  simp only [bits]; omega

/-- What a word of format UG decodes to is well-formed, and the words are its own. -/
theorem decodeUG_sound (maj : Nat) (rest : List Word) :
    DecRes.Sound (wHead 1 maj p.code body :: rest) (decodeUG maj p body rest.head?) := by
  unfold decodeUG
  dsimp only
  split
  · next mk h =>
    refine .of_fin (ws := [_]) fun hl hz hn v => ?_
    obtain ⟨hlit, hcnt⟩ := uLits_usrcOf₂ v (bits_lt body 9 6) (bits_lt body 3 6) hn
    rw [ugF_self hz] at h
    exact .of_body ((ugABOf_encode h ..).1.trans hcnt) (ugABOf_encode h ..).2
      (ugBody hb (code_udstOf_of_ne (bits_lt ..) (bne_iff_ne.1 hl)) (code_usrcOf_bits ..) (code_usrcOf_bits ..) rfl) hlit
  split
  · next mk h =>
    refine .of_fin (ws := [_]) fun hl hz hn v => ?_
    obtain ⟨hz, hB⟩ := Bool.and_eq_true_iff.1 hz
    rw [ugF_self hz] at h
    exact .of_body (ugAOf_encode h ..).1 (ugAOf_encode h ..).2
      (ugBody hb (code_udstOf_of_ne (bits_lt ..) (bne_iff_ne.1 hl)) (code_usrcOf_bits ..) (eq_of_beq hB).symm rfl) (uLits_usrcOf v (bits_lt ..))
  split
  · next mk h =>
    refine .of_fin (ws := [_]) fun hl hz hn v => ?_
    simp only [Bool.and_eq_true, beq_iff_eq] at hz
    obtain ⟨⟨hz, hB⟩, hD⟩ := hz
    rw [ugF_self hz] at h
    exact .of_body (ugSOf_encode h ..).1 (ugSOf_encode h ..).2 (ugBody hb hD.symm (code_usrcOf_bits ..) hB.symm rfl) (uLits_usrcOf v (bits_lt ..))
  split
  · next mk h =>
    refine .of_fin (ws := [_]) fun hl hz hn v => ?_
    obtain ⟨hlit, hcnt⟩ := uLits_usrcOf₂ v (bits_lt body 9 6) (bits_lt body 3 6) hn
    obtain ⟨hz, hD⟩ := Bool.and_eq_true_iff.1 hz
    rw [ugF_self hz] at h
    exact .of_body ((ugSSOf_encode h ..).1.trans hcnt) (ugSSOf_encode h ..).2
      (ugBody hb (eq_of_beq hD).symm (code_usrcOf_bits ..) (code_usrcOf_bits ..) rfl) hlit
  split
  · refine .of_fin (ws := [_]) fun hl hz _ v => ?_
    simp only [Bool.and_eq_true, beq_iff_eq] at hz
    obtain ⟨⟨hz, hA⟩, hB⟩ := hz
    exact .of_body rfl rfl (ugBody hb (code_udstOf_of_ne (bits_lt ..) (bne_iff_ne.1 hl)) hA.symm hB.symm (eq_of_beq hz).symm) rfl
  · next hF =>
    refine .of_fin (ws := [_]) fun _ _ hn v => ?_
    obtain ⟨hlit, hcnt⟩ := uLits_usrcOf₃ v (bits_lt body 15 6) (bits_lt body 9 6) (bits_lt body 3 6) hn
    exact .of_body hcnt rfl (ugBody hb (code_usrcOf_bits ..) (code_usrcOf_bits ..) (code_usrcOf_bits ..) (Eq.symm hF)) hlit
  · next hF =>
    refine .of_fin (ws := [_]) fun _ hB hn v => ?_
    obtain ⟨hlit, hcnt⟩ := uLits_usrcOf₂ v (bits_lt body 15 6) (bits_lt body 9 6) hn
    exact .of_body hcnt rfl (ugBody hb (code_usrcOf_bits ..) (code_usrcOf_bits ..) (eq_of_beq hB).symm (Eq.symm hF)) hlit
  · exact .of_error _ _

/-- What a uniform word, with the literal behind it, decodes to is well-formed, and the words that it takes are its own. -/
theorem decodeUni_sound (maj : Nat) (rest : List Word) :
    DecRes.Sound (wHead 1 maj p.code body :: rest) (decodeUni maj p p.code body rest.head?) := by
  unfold decodeUni
  dsimp only
  split
  · next mk h =>
    exact .of_fin (ws := [_]) fun _ hz _ v => .of_body (uzOf_encode h p).1 (uzOf_encode h p).2 (eq_of_beq hz).symm rfl
  split
  · -- RUNB
    refine .of_fin (ws := [_]) fun _ hz _ v => ?_
    simp only [Bool.and_eq_true, beq_iff_eq] at hz
    obtain ⟨⟨hp, hlow⟩, hva⟩ := hz
    rw [hp]
    refine .of_body (runs_wf hva) rfl ?_ rfl
    simp only [toNat_ofNat_bits]
    simp only [bits] at hlow ⊢
    omega
  · -- RUNE
    refine .of_fin (ws := [_]) fun _ hz _ v => ?_
    simp only [Bool.and_eq_true, beq_iff_eq] at hz
    obtain ⟨⟨⟨hp, htop⟩, hlow⟩, hva⟩ := hz
    rw [hp]
    refine .of_body (runs_wf hva) rfl ?_ rfl
    simp only [toNat_ofNat_bits]
    simp only [bits] at htop hlow ⊢
    omega
  · -- WAITC
    refine .of_fin (ws := [_]) fun _ hz _ v => .of_body rfl rfl ?_ rfl
    simp only [toNat_ofNat_bits]
    simp only [bits, beq_iff_eq] at hz ⊢
    omega
  · -- FENCE
    refine .of_fin (ws := [_]) fun hl hz _ v => .of_body rfl rfl ?_ rfl
    simp only [Bool.and_eq_true, decide_eq_true_eq] at hl
    obtain ⟨hkind, hscope⟩ := hl
    rw [code_fkindOf _ hkind, code_scopeOf _ hscope]
    simp only [bits, beq_iff_eq] at hz ⊢
    omega
  · -- BRA
    exact .of_fin (ws := [_]) fun _ _ _ v => .of_body rfl rfl (Nat.mod_eq_of_lt hb) rfl
  · -- BRAQ
    refine .of_fin (ws := [_]) fun _ _ _ v => .of_body rfl rfl ?_ rfl
    simp only [toNat_ofNat_bits, Fin.val_ofNat, bits_three_mod, b2n_bits_one]
    simp only [bits]
    omega
  · -- CALL
    refine .of_fin (ws := [_]) fun hl _ _ v => .of_body rfl rfl ?_ rfl
    rw [code_udstOf_of_ne (bits_lt ..) (bne_iff_ne.1 hl), toNat_ofNat_bits]
    simp only [bits]
    omega
  · -- TRAP
    refine .of_fin (ws := [_]) fun _ hz _ v => .of_body rfl rfl ?_ rfl
    rw [b2n_bits_one]
    simp only [bits, beq_iff_eq] at hz ⊢
    omega
  · -- BKPT
    refine .of_fin (ws := [_]) fun _ hz _ v => .of_body rfl rfl ?_ rfl
    rw [toNat_ofNat_bits]
    simp only [bits, beq_iff_eq] at hz ⊢
    omega
  · -- FWCALL
    refine .of_fin (ws := [_]) fun _ hz _ v => .of_body rfl rfl ?_ rfl
    rw [toNat_ofNat_bits]
    simp only [bits, beq_iff_eq] at hz ⊢
    omega
  · -- GCMP
    refine .of_fin (ws := [_]) fun hl _ hn v => ?_
    simp only [Bool.and_eq_true, decide_eq_true_eq] at hl
    obtain ⟨hcode, hlo⟩ := hl
    obtain ⟨hlit, hcnt⟩ := uLits_usrcOf₂ v (bits_lt body 8 6) (bits_lt body 2 6) hn
    exact .of_body hcnt rfl
      (uqBody hb (bits_three_mod ..) (code_iccOf _ hcode) (code_usrcOf_bits ..) (code_usrcOf_bits ..) (b2n_of_lt_two hlo)) hlit
  · -- GSEL
    refine .of_fin (ws := [_]) fun hl _ hn v => ?_
    obtain ⟨hlit, hcnt⟩ := uLits_usrcOf₂ v (bits_lt body 9 6) (bits_lt body 3 6) hn
    exact .of_body hcnt rfl
      (ugBody hb (code_udstOf_of_ne (bits_lt ..) (bne_iff_ne.1 hl)) (code_usrcOf_bits ..) (code_usrcOf_bits ..) (bits_three_mod ..)) hlit
  · -- QAND, QOR, QXOR
    split
    · exact .of_error _ _
    · next mk h =>
      refine .of_fin (ws := [_]) fun _ hz _ v => .of_body (uqlOf_encode h ..).1 (uqlOf_encode h ..).2 ?_ rfl
      simp only [Fin.val_ofNat, bits_three_mod, b2n_bits_one]
      simp only [bits, beq_iff_eq] at hz ⊢
      omega
  · -- SREG
    refine .of_fin (ws := [_]) fun hl hz _ v => .of_body rfl rfl ?_ rfl
    simp only [Bool.and_eq_true, decide_eq_true_eq, bne_iff_ne] at hl
    obtain ⟨hd, hsr⟩ := hl
    rw [code_udstOf_of_ne (bits_lt ..) hd, code_sregOf _ hsr]
    simp only [bits, beq_iff_eq] at hz ⊢
    omega
  · -- SREGW
    refine .of_fin (ws := [_]) fun hl hz _ v => .of_body rfl rfl ?_ (uLits_usrcOf v (bits_lt ..))
    rw [code_sregOf _ (of_decide_eq_true hl), code_usrcOf_bits]
    simp only [bits, beq_iff_eq] at hz ⊢
    omega
  · -- VTOG
    refine .of_fin (ws := [_]) fun hl _ _ v => ?_
    simp only [Bool.and_eq_true, decide_eq_true_eq, bne_iff_ne] at hl
    obtain ⟨⟨hd, hv⟩, hm⟩ := hl
    exact .of_body rfl (vtog_encode hm ..)
      (uvBody hb (code_udstOf_of_ne (bits_lt ..) hd) (Nat.mod_eq_of_lt hv) (code_usrcOf_bits ..) rfl) (uLits_usrcOf v (bits_lt ..))
  · -- GTOV
    refine .of_fin (ws := [_]) fun hl hz _ v => ?_
    obtain ⟨hX, hM⟩ : bits body 2 6 = 0 ∧ bits body 0 2 = bits body 0 1 := by simp only [bits, beq_iff_eq] at hz ⊢; omega
    exact .of_body rfl rfl
      (uvBody hb (code_usrcOf_bits ..) (Nat.mod_eq_of_lt (of_decide_eq_true hl)) hX.symm ((b2n_bits_one ..).trans hM.symm)) (uLits_usrcOf v (bits_lt ..))
  · -- VOTE
    refine .of_fin (ws := [_]) fun hl hz _ v => ?_
    simp only [Bool.and_eq_true, decide_eq_true_eq, bne_iff_ne] at hl
    obtain ⟨hd, hm⟩ := hl
    refine .of_body rfl (vote_encode hm ..) ?_ rfl
    rw [code_udstOf_of_ne (bits_lt ..) hd, Fin.val_ofNat, bits_three_mod]
    simp only [bits, beq_iff_eq] at hz ⊢
    omega
  · -- LD
    refine .of_fin (ws := [_]) fun hl hz hn v => ?_
    simp only [Bool.and_eq_true, Bool.or_eq_true, decide_eq_true_eq, bne_iff_ne, beq_iff_eq] at hl hz
    obtain ⟨hlit, hcnt⟩ := umem_lits (v := v) (bits_lt body 9 6) hn
    obtain ⟨hd, hsz⟩ := hl
    exact .of_body hcnt rfl (umBody hb (code_udstOf_of_ne (bits_lt ..) hd) (code_usrcOf_bits ..) (code_szOf _ hsz) (uoffOf_enc v hz)) hlit
  · -- ST
    split
    · exact .of_error _ _
    · next u hu =>
      refine .of_fin (ws := [_]) fun hl hz hn v => ?_
      simp only [Bool.or_eq_true, beq_iff_eq] at hz
      obtain ⟨hlit, hcnt⟩ := umem_lits (v := v) (bits_lt body 9 6) hn
      exact .of_body hcnt rfl
        (umBody hb (code_udstOf_of_ne (bits_lt ..) (bne_iff_ne.1 hl)) (code_usrcOf_bits ..) (code_uszOf hu) (uoffOf_enc v hz)) hlit
  · -- QSEND
    refine .of_fin (ws := [_]) fun hl hz hn v => ?_
    obtain ⟨hlit, hcnt⟩ := uLits_usrcOf₂ v (bits_lt body 8 6) (bits_lt body 2 6) hn
    exact .of_body hcnt rfl (uqBody hb (bits_three_mod ..) (eq_of_beq hz).symm (code_usrcOf_bits ..) (code_usrcOf_bits ..)
      (b2n_of_lt_two (of_decide_eq_true hl))) hlit
  · -- FLINIT
    refine .of_fin (ws := [_]) fun _ hz _ v => .of_body rfl rfl ?_ (uLits_usrcOf v (bits_lt ..))
    simp only [code_usrcOf_bits, Fin.val_ofNat, bits_four_mod, toNat_ofNat_bits]
    simp only [bits, beq_iff_eq] at hz ⊢
    omega
  · -- MRES
    refine .of_fin (ws := [_]) fun _ hz _ v => .of_body rfl rfl ?_ rfl
    rw [Fin.val_ofNat, bits_three_mod]
    simp only [bits, beq_iff_eq] at hz ⊢
    omega
  · -- MZERO
    refine .of_fin (ws := [_]) fun hl hz _ v => ?_
    simp only [Bool.or_eq_true, decide_eq_true_eq, beq_iff_eq] at hl
    refine .of_body (mzero_wf hl (bits_lt ..) p) rfl ?_ rfl
    rw [Fin.val_ofNat, bits_four_mod, code_tileStateOf _ (bits_lt ..)]
    simp only [bits, beq_iff_eq] at hz ⊢
    omega
  · -- TASKSUB
    refine .of_fin (ws := [_]) fun hl hz _ v => ?_
    simp only [Bool.and_eq_true, beq_iff_eq] at hz
    obtain ⟨hF, hB⟩ := hz
    exact .of_body rfl rfl (uqBody hb (bits_three_mod ..) hF.symm (code_usrcOf_bits ..) hB.symm
      (b2n_of_lt_two (of_decide_eq_true hl))) (uLits_usrcOf v (bits_lt ..))
  · -- FAPP
    refine .of_fin (ws := [_]) fun hl hz _ v => ?_
    obtain ⟨hX, hM⟩ : bits body 2 6 = 0 ∧ bits body 0 2 = 0 := by simp only [bits, beq_iff_eq] at hz ⊢; omega
    exact .of_body rfl rfl (uvBody hb (code_usrcOf_bits ..) (Nat.mod_eq_of_lt (of_decide_eq_true hl)) hX.symm hM.symm) (uLits_usrcOf v (bits_lt ..))
  · -- FTAKE
    refine .of_fin (ws := [_]) fun hl hz _ v => ?_
    simp only [Bool.and_eq_true, beq_iff_eq] at hz
    obtain ⟨htop, hM⟩ := hz
    have hpd : bits body 2 3 = bits body 2 6 := by simp only [bits] at htop ⊢; omega
    exact .of_body rfl rfl (uvBody hb (code_usrcOf_bits ..) (Nat.mod_eq_of_lt (of_decide_eq_true hl)) ((bits_three_mod ..).trans hpd) hM.symm)
      (uLits_usrcOf v (bits_lt ..))
  split
  · next mk h => -- tournaments and rows that take QD alone
    refine .of_fin (ws := [_]) fun _ hz _ v => ?_
    obtain ⟨hA, hB, hM⟩ : bits body 8 6 = 0 ∧ bits body 2 6 = 0 ∧ bits body 0 2 = 0 := by simp only [bits, beq_iff_eq] at hz ⊢; omega
    exact .of_body (uqOnly_encode h ..).1 (uqOnly_encode h ..).2 (uqBody hb (bits_three_mod ..) rfl hA.symm hB.symm hM.symm) rfl
  split
  · -- TOPEN
    have hF : bits body 14 4 = 0 := ‹_›
    refine .of_fin (ws := [_]) fun _ hz _ v => ?_
    obtain ⟨hB, hM⟩ : bits body 2 6 = 0 ∧ bits body 0 2 = 0 := by simp only [bits, beq_iff_eq] at hz ⊢; omega
    exact .of_body rfl rfl (uqBody hb (bits_three_mod ..) hF.symm (code_usrcOf_bits ..) hB.symm hM.symm) (uLits_usrcOf v (bits_lt ..))
  · -- TRIVAL
    have hF : bits body 14 4 = 1 := ‹_›
    refine .of_fin (ws := [_]) fun _ hz _ v => ?_
    obtain ⟨hB, hM⟩ : bits body 2 6 = 0 ∧ bits body 0 2 = 0 := by simp only [bits, beq_iff_eq] at hz ⊢; omega
    exact .of_body rfl rfl (uqBody hb (bits_three_mod ..) hF.symm (code_usrcOf_bits ..) hB.symm hM.symm) (uLits_usrcOf v (bits_lt ..))
  · -- TSTAT
    have hF : bits body 14 4 = 3 := ‹_›
    refine .of_fin (ws := [_]) fun _ hz _ v => ?_
    simp only [Bool.and_eq_true, beq_iff_eq] at hz
    obtain ⟨hA, hM⟩ := hz
    exact .of_body rfl rfl (uqBody hb (bits_three_mod ..) hF.symm hA.symm (code_usrcOf_bits ..) hM.symm) (uLits_usrcOf v (bits_lt ..))
  · exact decodeUG_sound p hb _ rest

end

/-- Settles O7: a word is its set, major, predicate and body; a lane word and a uniform word are each put together again. -/
theorem decodeSound : Obligations.DecodeSound := by
  unfold Obligations.DecodeSound
  intro ws i n h
  cases ws with
  | nil => cases h
  | cons w rest =>
    have hbody := bits_lt w.toNat 0 21
    have hpred := code_predOf _ (bits_lt w.toNat 21 4)
    have hw := wHead_bits w
    unfold decode at h
    dsimp only at h
    split at h
    · next hset =>
      have hs := decodeLane_sound (predOf (bits w.toNat 21 4)) hbody (bits w.toNat 25 6) rest
      rw [hset] at hw
      rw [hpred, hw] at hs
      exact hs i n h
    · next hset =>
      have hone : bits w.toNat 31 1 = 1 := Nat.eq_of_le_of_lt_succ (Nat.one_le_iff_ne_zero.2 hset) (bits_lt ..)
      have hs := decodeUni_sound (predOf (bits w.toNat 21 4)) hbody (bits w.toNat 25 6) rest
      rw [hone] at hw
      rw [hpred, hw] at hs
      exact hs i n h

end Sys2Proof
end

section
/-! SUPPORT. Branches: the target of each, and the paths that go there. -/

namespace Sys2Proof.Machine

/-- An address with bits [1:0] cleared (R380). -/
theorem and_not_three (v : DWord) : v &&& ~~~3 = v.extractLsb' 2 62 ++ 0#2 := by
  apply BitVec.eq_of_getLsbD_eq
  intro i hi
  rw [show (~~~3 : DWord) = BitVec.allOnes 62 ++ 0#2 from rfl]
  simp only [BitVec.getLsbD_and, BitVec.getLsbD_append, BitVec.getLsbD_extractLsb']
  by_cases h : i < 2
  · simp only [h, if_true, BitVec.getLsbD_zero, Bool.and_false]
  · simp only [h, if_false, BitVec.getLsbD_allOnes, Nat.add_sub_cancel' (Nat.le_of_not_lt h)]
    exact Bool.and_comm ..

section
variable {s : State} {x : Iss} {p : Pred} (hx : s.iss = some x) (hp : x.qp p = true)
include hx hp

theorem exec_bra (ofs : BitVec 21) : exec (.bra p ofs) s = .next (s.jump x (x.target ofs)) := State.uni_true hx hp _

theorem exec_braq_taken {pl : Fin 8} {all : Bool} (h : (if all then x.ballot pl.val == x.path.lanes else x.ballot pl.val != 0) = true) (ofs : BitVec 17) :
    exec (.braq p pl all ofs) s = .next (s.jump x (x.target ofs)) :=
  (State.uni_true hx hp _).trans (congrArg _ (if_pos h))

theorem exec_braq_passes {pl : Fin 8} {all : Bool} (h : (if all then x.ballot pl.val == x.path.lanes else x.ballot pl.val != 0) = false) (ofs : BitVec 17) :
    exec (.braq p pl all ofs) s = .next (s.pass x) :=
  (State.uni_true hx hp _).trans (congrArg _ (if_neg (by rw [h]; exact Bool.false_ne_true)))

theorem exec_jmpg (a : USrc) : exec (.jmpg p a) s = .next (s.jump x ((x.u a).extractLsb' 2 62 ++ 0#2)) := by
  rw [← and_not_three]
  exact State.uni_true hx hp _

theorem exec_ret (a : USrc) : exec (.ret p a) s =
    .next ((s.jump x ((x.u a).extractLsb' 2 62 ++ 0#2)).modGang x.k (fun g => { g with rets := g.rets.drop 1 })) := by
  rw [← and_not_three]
  exact State.uni_true hx hp _

/-- CALL sends its link, notes it for the prediction of returns, and goes to its target. -/
theorem exec_call (d : UDst) (ofs : BitVec 15) : exec (.call p d ofs) s =
    .next (((s.regs x 4 .general (writeG d (x.pc + 4)) []).modGang x.k (fun g => { g with rets := ((x.pc + 4) :: g.rets).take 8 })).onPath x
      (fun q => { q with pc := x.target ofs })) := State.uni_true hx hp _

end

/-- Settles O33: each branch goes to its target or passes, by the votes of its path's lanes; CALL's link is a result of latency 4. -/
theorem branches : Obligations.Branches := by
  unfold Obligations.Branches
  intro s x p pl o21 o17 o15 d a hx hp goes b
  obtain ⟨g, hg⟩ := State.iss_gang hx
  refine ⟨exec_bra hx hp o21, fun h => ?some, fun h => ?none, fun h => ?every, fun h => ?notEvery, exec_jmpg hx hp a, exec_ret hx hp a,
    _, _, exec_call hx hp d o15, State.regs_issued 4 .general _ [] hg, rfl⟩
  case some => exact exec_braq_taken (all := false) hx hp (bne_iff_ne.2 h) o17
  case none => exact exec_braq_passes (all := false) hx hp (bne_eq_false_iff_eq.2 h) o17
  case every => exact exec_braq_taken (all := true) hx hp (beq_iff_eq.2 h) o17
  case notEvery => exact exec_braq_passes (all := true) hx hp (beq_eq_false_iff_ne.2 h) o17

end Sys2Proof.Machine
end

section
/-! SUPPORT. Operands: the constants among them, what a value operand reads, and the conditions on two values. -/

namespace Sys2Proof

/-- The ten conditions of R361 are equality and the orders of signed and unsigned values. -/
theorem ICC.holds_iff {w : Nat} (a b : BitVec w) :
    (ICC.eq.holds a b = true ↔ a = b) ∧ (ICC.ne.holds a b = true ↔ a ≠ b) ∧
    (ICC.lti.holds a b = a.slt b) ∧ (ICC.lei.holds a b = a.sle b) ∧ (ICC.gti.holds a b = b.slt a) ∧ (ICC.gei.holds a b = b.sle a) ∧
    (ICC.ltn.holds a b = a.ult b) ∧ (ICC.len.holds a b = a.ule b) ∧ (ICC.gtn.holds a b = b.ult a) ∧ (ICC.gen.holds a b = b.ule a) :=
  ⟨beq_iff_eq, bne_iff_ne, rfl, rfl, rfl, rfl, rfl, rfl, rfl, rfl⟩

end Sys2Proof

namespace Sys2Proof.Machine

/-- P0 is true in every slot (R414). -/
theorem Iss.pmask_zero_has (x : Iss) {l : Nat} (h : l < 32) : (x.pmask 0).has l = true := by
  show (BitVec.allOnes 32).getLsbD l = true
  rw [BitVec.getLsbD_allOnes, decide_eq_true h]

/-- A pair of V registers reads as the second above the first (R353). -/
theorem Iss.w64_v (x : Iss) (l : Nat) {k j : Fin 112} (h : j.val = k.val + 1) : x.w64 (.v k) l = x.w32 (.v j) l ++ x.w32 (.v k) l := by
  simp only [Iss.w64, Iss.w32, join, h]

/-- Settles O11: the constants and `val` are read off the operands' definitions, the conditions off `ICC.holds`. -/
theorem operandValues : Obligations.OperandValues := by
  unfold Obligations.OperandValues
  refine ⟨?constants, ?values, fun _ => ICC.holds_iff⟩
  case constants =>
    intro x l w n
    exact ⟨x.pmask_zero_has, rfl, rfl, rfl, rfl, rfl, rfl, rfl, rfl, fun _ => rfl, fun _ _ _ => x.w64_v l⟩
  case values => exact fun x a l => ⟨rfl, rfl, rfl, rfl, rfl, rfl, rfl, rfl⟩

end Sys2Proof.Machine
end

section
/-! SUPPORT. Uniform instructions under their Q predicate: where it is false they pass, where it is true they do what their row says (R376, R377). -/

namespace Sys2Proof.Machine

/-! ## The Q predicate (R352, R376) -/

theorem Shape.atomic_lane (p : Pred) (op : AOp) (sz : SZ) (d : Option LDst) (m : LXMem) (a : LSrc) (g : Bool) :
    (Shape.atomic p op sz d m a g).lane = true := by
  cases d <;> rfl

/-- Every uniform instruction but RUNB and RUNE stands under the Q predicate that it names. The last case: lane instructions, and events, which have no shape. -/
theorem exec_uniform {i : Instr} {f : Shape} (hf : i.shape = some f) (hu : f.lane = false) (hb : ∀ n va k, i ≠ .runb n va k) (he : ∀ va k, i ≠ .rune va k)
    (s : State) : ∃ m, exec i s = s.uni f.p m := by
  cases i with
  | runb n va k => exact absurd rfl (hb n va k)
  | rune va k => exact absurd rfl (he va k)
  | waitc | bartm | fence | exit | bra | braq | call | ret | jmpg | trap | bkpt | fwcall | gadd | gsub | gmul | gmulhiN64 | gmulhiI64 | gand | gor | gxor |
    gandn | gnot | gpopc | gclz | gshl | gshr | gsar | grotl | gminI64 | gmaxI64 | gminN64 | gmaxN64 | gmov | gmovN32 | gmovI32 | gcmp | gsel | qand | qor |
    qxor | sregUniform | sregw | vtog | gtov | vote | pmark | ldUniform | stUniform | qsend | flinit | flacq | flrel | boarm | bowait | mres | mrel | mmaq |
    mdelta | mdrain | mzero | mstat | rsvinv | rsvinvClear | rsvq | copyt | kick | tdload | tasksub | taskdone | fapp | ftake | dryw | topen | trival |
    tscore | tstat | tclose | tcloseAbort | spgrow | rgive | rclaim =>
    obtain rfl := Option.some.inj hf
    exact ⟨_, rfl⟩
  | atomLong p op sz _ d m a | atoms p op sz d m a =>
    obtain rfl := Option.some.inj hf
    exact absurd hu (by rw [Shape.atomic_lane]; decide)
  | _ => cases hf <;> cases hu

/-- Settles O12: what stands under a false Q predicate is, whatever the instruction, that its path goes on. -/
theorem falsePrefixHasNoEffect : Obligations.FalsePrefixHasNoEffect := by
  unfold Obligations.FalsePrefixHasNoEffect
  intro s x i f hx hf hu hp hb he
  obtain ⟨m, hm⟩ := exec_uniform hf hu hb he s
  exact hm.trans (State.uni_false hx hp m)

/-! ## Results sent (R377) -/

section
variable {i : Instr} {s : State} {x : Iss} {p : Pred} (hx : s.iss = some x) (hp : x.qp p = true)
include hx hp

/-- A uniform instruction that only writes registers sends its results where its Q predicate is true. -/
theorem sends_of_uni {lat : Nat} {tag : Tag} {f : Iss → List Write} {ws : List Write} (he : exec i s = s.uni p (fun x => s.regs x lat tag (f x) []))
    (hw : f x = ws) : Sends i s x lat ws :=
  sends_of_regs lat tag _ _ hx (by rw [he, State.uni_true hx hp, hw])

theorem sends_of_gres {d : UDst} {f : Iss → DWord} {r : DWord} (he : exec i s = s.gres p d f) (hr : f x = r) : Sends i s x 4 (writeG d r) :=
  sends_of_uni hx hp (f := fun x => writeG d (f x)) he (congrArg _ hr)

theorem sends_of_qres {qd : Fin 8} {f : Iss → Bool} {r : Bool} (he : exec i s = s.qres p qd f) (hr : f x = r) : Sends i s x 4 [.q qd.val r] :=
  sends_of_uni hx hp (f := fun x => [.q qd.val (f x)]) he (congrArg (fun b => [Write.q qd.val b]) hr)

end

end Sys2Proof.Machine
end

section
/-! SUPPORT. Uniform integer instructions and compares: the operations of R386 on bits, and the conditions of R388 on values. -/

namespace Sys2Proof

/-- What a condition of R361 says of two values, read as signed (`i`, `j`) and as unsigned (`m`, `n`). -/
def ICC.onValues (cc : ICC) (i j : Int) (m n : Nat) : Bool :=
  match cc with
  | .eq => decide (m = n)
  | .ne => decide (m ≠ n)
  | .lti => decide (i < j)
  | .lei => decide (i ≤ j)
  | .gti => decide (j < i)
  | .gei => decide (j ≤ i)
  | .ltn => decide (m < n)
  | .len => decide (m ≤ n)
  | .gtn => decide (n < m)
  | .gen => decide (n ≤ m)

theorem ICC.holds_eq_onValues {w : Nat} (cc : ICC) (a b : BitVec w) : cc.holds a b = cc.onValues a.toInt b.toInt a.toNat b.toNat := by
  cases cc with
  | eq => simp only [ICC.holds, ICC.onValues, beq_eq_decide, BitVec.toNat_inj]
  | ne => simp only [ICC.holds, ICC.onValues, bne, beq_eq_decide, ne_eq, decide_not, BitVec.toNat_inj]
  | _ => rfl

end Sys2Proof

namespace Sys2Proof.Machine

/-! ## Counts of bits -/

theorem popcount_eq_length (n v : Nat) : popcount n v = ((List.range n).filter v.testBit).length := by
  induction n generalizing v with
  | zero => rfl
  | succ n ih =>
    have hshift : v.testBit ∘ Nat.succ = (v / 2).testBit := funext fun i => Nat.testBit_succ v i
    rw [List.range_succ_eq_map, List.filter_cons, List.filter_map, hshift, popcount, ih, Nat.testBit_zero]
    obtain h | h := Nat.mod_two_eq_zero_or_one v
    · simp [h]
    · simp [h, Nat.add_comm]

theorem leadZeros_of_lt {n v : Nat} (h : v < 2 ^ n) : leadZeros n v = if v = 0 then n else n - 1 - Nat.log2 v := by
  induction n with
  | zero => rw [if_pos (Nat.lt_one_iff.1 h)]; rfl
  | succ n ih =>
    rw [leadZeros]
    by_cases hv : v < 2 ^ n
    · rw [Nat.div_eq_of_lt hv, if_neg (by decide), ih hv]
      split
      next => omega
      next h0 =>
        have := (Nat.log2_lt h0).2 hv
        omega
    · have hpos : 0 < v := Nat.lt_of_lt_of_le (Nat.two_pow_pos n) (Nat.le_of_not_lt hv)
      have hdiv : v / 2 ^ n = 1 := Nat.div_eq_of_lt_le (by omega) (by rw [Nat.pow_succ] at h; omega)
      have hlog : Nat.log2 v = n := (Nat.log2_eq_iff hpos.ne').2 ⟨Nat.le_of_not_lt hv, h⟩
      rw [hdiv, if_pos rfl, if_neg hpos.ne', hlog]
      omega

theorem ofNat_leadZeros (a : DWord) : BitVec.ofNat 64 (leadZeros 64 a.toNat) = if a = 0 then 64 else BitVec.ofNat 64 (63 - Nat.log2 a.toNat) := by
  have h0 : a.toNat = 0 ↔ a = 0 := BitVec.toNat_inj (y := 0)
  rw [leadZeros_of_lt a.isLt, apply_ite (BitVec.ofNat 64)]
  exact if_congr h0 rfl rfl

/-! ## The high half of a product -/

theorem extractHigh_ofInt (z : Int) : (BitVec.ofInt 128 z).extractLsb' 64 64 = BitVec.ofInt 64 (z / 2 ^ 64) := by
  apply BitVec.eq_of_toNat_eq
  rw [BitVec.extractLsb'_toNat, BitVec.toNat_ofInt, BitVec.toNat_ofInt, Nat.shiftRight_eq_div_pow]
  omega

theorem extractHigh_ofNat (n : Nat) : (BitVec.ofNat 128 n).extractLsb' 64 64 = BitVec.ofNat 64 (n / 2 ^ 64) := by
  apply BitVec.eq_of_toNat_eq
  rw [BitVec.extractLsb'_toNat, BitVec.toNat_ofNat, BitVec.toNat_ofNat, Nat.shiftRight_eq_div_pow]
  omega

theorem mulHigh_unsigned (a b : DWord) : BitVec.ofNat 64 (a.toNat * b.toNat / 2 ^ 64) = (a.zeroExtend 128 * b.zeroExtend 128).extractLsb' 64 64 := by
  rw [← extractHigh_ofNat, BitVec.ofNat_mul, BitVec.ofNat_toNat, BitVec.ofNat_toNat]

theorem mulHigh_signed (a b : DWord) : BitVec.ofInt 64 (a.toInt * b.toInt / (2 ^ 64 : Nat)) = (a.signExtend 128 * b.signExtend 128).extractLsb' 64 64 := by
  rw [BitVec.signExtend, BitVec.signExtend, ← BitVec.ofInt_mul, extractHigh_ofInt]
  rfl

/-! ## Shift amounts and minima -/

theorem shamt_eq (b : DWord) : shamt b = (b.extractLsb' 0 6).toNat := by
  rw [BitVec.extractLsb'_toNat, Nat.shiftRight_zero]
  rfl

theorem minBits_eq_ite {w : Nat} (signed : Bool) (a b : BitVec w) :
    minBits signed a b = if signed then (if a.toInt ≤ b.toInt then a else b) else if a.toNat ≤ b.toNat then a else b := by
  simp only [minBits, ← Int.not_le, ← Nat.not_le, ite_not]

theorem maxBits_eq_ite {w : Nat} (signed : Bool) (a b : BitVec w) :
    maxBits signed a b = if signed then (if b.toInt ≤ a.toInt then a else b) else if b.toNat ≤ a.toNat then a else b := by
  simp only [maxBits, ← Int.not_le, ← Nat.not_le, ite_not]

/-- Settles O14: each instruction is one result of latency 4; its row's operation is the model's, or equal to it on all bits. -/
theorem uniformArithmetic : Obligations.UniformArithmetic := by
  unfold Obligations.UniformArithmetic
  intro s x p d a b hx hp g
  have res {i : Instr} {f : Iss → DWord} {r : DWord} (he : exec i s = s.gres p d f) (hr : f x = r) : g i r := sends_of_gres hx hp he hr
  have hshift := shamt_eq (x.u b)
  have hlow : (x.u a).setWidth 32 = (x.u a).extractLsb' 0 32 := BitVec.setWidth_eq_extractLsb' (by decide)
  exact ⟨res rfl rfl, res rfl rfl, res rfl rfl, res rfl (mulHigh_unsigned ..), res rfl (mulHigh_signed ..), res rfl rfl, res rfl rfl, res rfl rfl,
    res rfl rfl, res rfl rfl, res rfl (congrArg _ (popcount_eq_length 64 _)), res rfl (ofNat_leadZeros _), res rfl (congrArg _ hshift),
    res rfl (congrArg _ hshift), res rfl (congrArg _ hshift), res rfl (congrArg _ hshift), res rfl (minBits_eq_ite true _ _),
    res rfl (maxBits_eq_ite true _ _), res rfl (minBits_eq_ite false _ _), res rfl (maxBits_eq_ite false _ _), res rfl rfl,
    res rfl (congrArg _ hlow), res rfl (congrArg _ hlow), fun _ => res rfl rfl⟩

/-- Settles O15: a condition looks at its two operands' values alone, those of 64 bits or of the low 32. -/
theorem uniformPredicates : Obligations.UniformPredicates := by
  unfold Obligations.UniformPredicates
  intro s x p qd lo a b hx hp q w i
  have gcmp (cc : ICC) : q (.gcmp p cc lo qd a b) (cc.onValues (i a) (i b) (w a) (w b)) := by
    refine sends_of_qres hx hp rfl ?_
    cases lo
    · exact cc.holds_eq_onValues _ _
    · exact cc.holds_eq_onValues _ _
  exact ⟨gcmp .eq, gcmp .ne, gcmp .lti, gcmp .lei, gcmp .gti, gcmp .gei, gcmp .ltn, gcmp .len, gcmp .gtn, gcmp .gen⟩

end Sys2Proof.Machine
end

section
/-! SUPPORT. The logic of Q predicates (R389): its words, of which the one with OP 11 is unassigned, and its results. -/

namespace Sys2Proof

/-- The fields of a word of Q logic below its PRED field (R389). -/
def qLogicBody (qd qa qb : Fin 8) (na nb : Bool) (op : Nat) : Nat :=
  qd.val * 2 ^ 18 + qa.val * 2 ^ 15 + b2n na * 2 ^ 14 + qb.val * 2 ^ 11 + b2n nb * 2 ^ 10 + op * 2 ^ 8

theorem toNat_append_add {m n : Nat} (a : BitVec m) (b : BitVec n) : (a ++ b).toNat = a.toNat * 2 ^ n + b.toNat := by
  rw [BitVec.toNat_append, ← Nat.shiftLeft_add_eq_or_of_lt b.isLt, Nat.shiftLeft_eq]

theorem toNat_ofBool_b2n (b : Bool) : (BitVec.ofBool b).toNat = b2n b := by cases b <;> rfl

section
variable (p : Pred) (qd qa qb : Fin 8) (na nb : Bool)

theorem qLogicWord_eq (op : BitVec 2) : 1#1 ++ 0x17#6 ++ BitVec.ofBool p.neg ++ BitVec.ofNat 3 p.n.val ++ BitVec.ofNat 3 qd.val ++
      BitVec.ofNat 3 qa.val ++ BitVec.ofBool na ++ BitVec.ofNat 3 qb.val ++ BitVec.ofBool nb ++ op ++ 0#8 =
    wHead 1 0x17 p.code (qLogicBody qd qa qb na nb op.toNat) := by
  apply BitVec.eq_of_toNat_eq
  simp only [toNat_append_add, toNat_ofBool_b2n, BitVec.toNat_ofNat, wHead, Pred.code, qLogicBody]
  have := b2n_lt p.neg
  have := b2n_lt na
  have := b2n_lt nb
  omega

theorem qLogicBody_lt {op : Nat} (h : op < 4) : qLogicBody qd qa qb na nb op < 2 ^ 21 := by
  have := b2n_lt na
  have := b2n_lt nb
  unfold qLogicBody
  omega

theorem bits_qLogicBody {op : Nat} (h : op < 4) : bits (qLogicBody qd qa qb na nb op) 8 2 = op := by
  unfold qLogicBody bits
  omega

theorem encode_qand : encode (.qand p qd qa na qb nb) = [wHead 1 0x17 p.code (qLogicBody qd qa qb na nb 0)] := by
  rw [qLogicBody, Nat.zero_mul, Nat.add_zero]
  rfl

theorem encode_qor : encode (.qor p qd qa na qb nb) = [wHead 1 0x17 p.code (qLogicBody qd qa qb na nb 1)] := by
  rw [qLogicBody, Nat.one_mul]
  rfl

theorem encode_qxor : encode (.qxor p qd qa na qb nb) = [wHead 1 0x17 p.code (qLogicBody qd qa qb na nb 2)] := rfl

/-- OP 11 is unassigned. -/
theorem decode_qLogic_unassigned : decode [wHead 1 0x17 p.code (qLogicBody qd qa qb na nb 3)] = .error .illenc := by
  rw [decode_uni 0x17 p.code _ [] (by decide) p.code_lt (qLogicBody_lt qd qa qb na nb (by decide))]
  have hop := bits_qLogicBody qd qa qb na nb (op := 3) (by decide)
  simp only [decodeUni, hop]
  rfl

end

/-- An instruction of one word decodes from that word. -/
theorem decode_of_encode {i : Instr} {w : Word} (h : Laws.RoundTrip.Statement i) (hw : i.wf = true) (he : encode i = [w]) : decode [w] = .ok (i, 1) := by
  have hd := h hw (by rw [he]; exact List.cons_ne_nil _ _) []
  rwa [he] at hd

end Sys2Proof

namespace Sys2Proof.Machine

/-- Settles O16: the words by their fields and the round trip, the results by what each instruction makes of the two predicates. -/
theorem predicateLogic : Obligations.PredicateLogic := by
  unfold Obligations.PredicateLogic
  intro s x p qd qa qb na nb hx word
  have hword (op : BitVec 2) : [word op] = [wHead 1 0x17 p.code (qLogicBody qd qa qb na nb op.toNat)] := congrArg (· :: []) (qLogicWord_eq p qd qa qb na nb op)
  have hand : encode (.qand p qd qa na qb nb) = [word 0] := (encode_qand ..).trans (hword 0).symm
  have hor : encode (.qor p qd qa na qb nb) = [word 1] := (encode_qor ..).trans (hword 1).symm
  have hxor : encode (.qxor p qd qa na qb nb) = [word 2] := (encode_qxor ..).trans (hword 2).symm
  refine ⟨hand, hor, hxor, decode_of_encode (Laws.RoundTrip.qand p qd qa na qb nb) rfl hand, decode_of_encode (Laws.RoundTrip.qor p qd qa na qb nb) rfl hor,
    decode_of_encode (Laws.RoundTrip.qxor p qd qa na qb nb) rfl hxor, ?unassigned, fun hp => ?results, fun hp => ?passes, by decide⟩
  case unassigned =>
    rw [hword]
    exact decode_qLogic_unassigned ..
  case results =>
    have res {i : Instr} {f : Iss → Bool} {r : Bool} (he : exec i s = s.qres p qd f) (hr : f x = r) : Sends i s x 4 [.q qd.val r] :=
      sends_of_qres hx hp he hr
    refine ⟨res rfl rfl, res rfl rfl, res rfl rfl, res rfl ?not, res rfl rfl⟩
    case not =>
      show ((x.q qa.val ^^ false) ^^ true) = !x.q qa.val
      rw [Bool.xor_false, Bool.xor_true]
  case passes => exact ⟨State.uni_false hx hp _, State.uni_false hx hp _, State.uni_false hx hp _⟩

end Sys2Proof.Machine
end

section
/-! SUPPORT. Words that the manual prints. -/

namespace Sys2Proof

/-- Settles O5: the decoder, run on each word. -/
theorem decodeWords : Obligations.DecodeWords := by
  unfold Obligations.DecodeWords
  intro yes
  and_intros <;> decide

end Sys2Proof
end

section
/-! SUPPORT. Moves between lanes and the uniform registers, special registers, and the end of a path (R382, R393 to R397). -/

namespace Sys2Proof.Machine

/-! ## Moves (R393 to R395) -/

theorem Iss.vtogSlot_eq (x : Iss) (u : USrc) : x.vtogSlot u =
    if u ≠ .zero ∧ (x.u u).toNat < 32 ∧ x.path.lanes.has (x.u u).toNat then (x.u u).toNat else Mask.low x.path.lanes := by
  cases u with
  | zero => rfl
  | _ => simp only [Iss.vtogSlot, ne_eq, reduceCtorEq, not_false_eq_true, true_and]

/-- Settles O17: each move is one result; VTOG's slot is the lane named or the lowest. -/
theorem laneUniformMoves : Obligations.LaneUniformMoves := by
  unfold Obligations.LaneUniformMoves
  intro s x p d v u pl hx hp path l ballot
  have hslot : x.vtogSlot u = l := x.vtogSlot_eq u
  refine ⟨sends_of_uni hx hp rfl ?zext, sends_of_uni hx hp rfl ?sext, sends_of_uni hx hp rfl ?pair, sends_of_uni hx hp rfl rfl, sends_of_uni hx hp rfl rfl,
    sends_of_uni hx hp rfl rfl, sends_of_uni hx hp rfl rfl, sends_of_uni hx hp rfl rfl⟩
  case zext => exact congrArg (fun k => writeG d ((x.g.vlane v.val k).zeroExtend 64)) hslot
  case sext => exact congrArg (fun k => writeG d ((x.g.vlane v.val k).signExtend 64)) hslot
  case pair => exact congrArg (fun k => writeG d (x.g.vlane (v.val + 1) k ++ x.g.vlane v.val k)) hslot

/-! ## Special registers (R396, R397) -/

theorem State.iss_now {s : State} {x : Iss} (h : s.iss = some x) : x.now = s.clk.now := by
  unfold State.iss at h
  split at h
  · cases h
  · split at h
    · cases h
    · split at h
      · cases h
      · obtain rfl := Option.some.inj h
        rfl

theorem ofNat_wid_low (v : DWord) : BitVec.ofNat 64 (v.toNat % 2 ^ 32) = (v.extractLsb' 0 32).zeroExtend 64 := by
  apply BitVec.eq_of_toNat_eq
  simp only [BitVec.toNat_setWidth, BitVec.extractLsb'_toNat, BitVec.toNat_ofNat, Nat.shiftRight_zero]

theorem ofNat_wid_high (v : DWord) : BitVec.ofNat 64 (v.toNat / 2 ^ 32) = (v.extractLsb' 32 32).zeroExtend 64 := by
  have hlt : v.toNat / 2 ^ 32 < 2 ^ 32 := by omega
  apply BitVec.eq_of_toNat_eq
  simp only [BitVec.toNat_setWidth, BitVec.extractLsb'_toNat, BitVec.toNat_ofNat, Nat.shiftRight_eq_div_pow, Nat.mod_eq_of_lt hlt]

/-- Settles O18: both forms send what `sregVal` reads, which is the register's value in that slot. -/
theorem specialRegisterReads : Obligations.SpecialRegisterReads := by
  unfold Obligations.SpecialRegisterReads
  intro s x p d e sr hx lane on val
  have hval (l : Nat) : s.sregVal x sr l = val l := by
    cases sr with
    | tlid => exact congrArg (fun n => on (BitVec.ofNat 64 n)) (Option.getD_map Lane.tlid ⟨0, 0⟩ _)
    | widlo => exact congrArg on ((congrArg (fun v => BitVec.ofNat 64 (BitVec.toNat v % 2 ^ 32)) (Option.getD_map Lane.wid ⟨0, 0⟩ _)).trans (ofNat_wid_low _))
    | widhi => exact congrArg on ((congrArg (fun v => BitVec.ofNat 64 (BitVec.toNat v / 2 ^ 32)) (Option.getD_map Lane.wid ⟨0, 0⟩ _)).trans (ofNat_wid_high _))
    | now => exact congrArg (BitVec.ofNat 64) (State.iss_now hx)
    | _ => rfl
  exact ⟨fun hp => sends_of_gres hx hp rfl (hval 0), sends_of_lane32 hx rfl fun l => congrArg _ (hval l)⟩

theorem trapvecOk_iff (v : DWord) : trapvecOk v = true ↔ v.extractLsb' 57 7 = 0 ∧ v.extractLsb' 0 2 = 0 := by
  have part (lo n : Nat) : field v lo n = 0 ↔ v.extractLsb' lo n = 0 := by
    rw [← BitVec.toNat_inj, BitVec.extractLsb'_toNat, Nat.shiftRight_eq_div_pow]
    exact Iff.rfl
  rw [trapvecOk, Bool.and_eq_true, beq_iff_eq, beq_iff_eq, part, part]

section
variable {s : State} {x : Iss} {p : Pred} (hx : s.iss = some x) (hp : x.qp p = true)
include hx hp

theorem sends_sregw_trapvec {a : USrc} (h : trapvecOk (x.u a) = true) : Sends (.sregw p .trapvec a) s x 4 [.sr true (x.u a)] :=
  sends_of_regs 4 .general _ _ hx ((State.uni_true hx hp _).trans (congrArg _ (if_pos h)))

theorem exec_sregw_trapvec_rsvfield {a : USrc} (h : ¬ trapvecOk (x.u a) = true) : exec (.sregw p .trapvec a) s = .next (s.trap x.k x.path.lanes x.pc 0x0002) :=
  (State.uni_true hx hp _).trans (congrArg _ (if_neg h))

theorem sends_sregw_storehash (a : USrc) : Sends (.sregw p .storehash a) s x 4 [.sr false (x.u a)] :=
  sends_of_uni hx hp rfl rfl

theorem exec_sregw_readOnly {sr : SReg} (a : USrc) (ht : sr ≠ .trapvec) (hs : sr ≠ .storehash) :
    exec (.sregw p sr a) s = .next (s.trap x.k x.path.lanes x.pc 0x0009) := by
  refine (State.uni_true hx hp _).trans (congrArg _ ?_)
  cases sr with
  | trapvec => exact absurd rfl ht
  | storehash => exact absurd rfl hs
  | _ => rfl

end

/-- Settles O19: TRAPVEC by whether it takes the value, STOREHASH always, every other register by a trap. -/
theorem specialRegisterWrites : Obligations.SpecialRegisterWrites := by
  unfold Obligations.SpecialRegisterWrites
  intro s x p sr a hx hp ok
  have hok : trapvecOk (x.u a) = true ↔ ok := trapvecOk_iff _
  exact ⟨fun h => sends_sregw_trapvec hx hp (hok.2 h), fun h => exec_sregw_trapvec_rsvfield hx hp (fun h' => h (hok.1 h')), sends_sregw_storehash hx hp a,
    exec_sregw_readOnly hx hp a, fun _ _ _ => ⟨rfl, rfl⟩⟩

/-! ## The end of a path (R382) -/

theorem Gang.dropPath_eq (g : Gang) (lanes : Mask) (pc : DWord) :
    let left := g.paths.filter (fun q => q.lanes ≠ lanes)
    g.dropPath lanes pc = if left = [] then { g with paths := [], stop := .ending, exitPc := pc, trapPend := none } else { g with paths := left } := rfl

/-- Settles O34: what is left of the gang's paths decides whether the gang ends. -/
theorem exitEndsLanes : Obligations.ExitEndsLanes := by
  unfold Obligations.ExitEndsLanes
  intro s x p g hx hp hg left
  calc exec (.exit p) s = .next (s.modGang x.k (fun g => g.dropPath x.path.lanes x.pc)) := State.uni_true hx hp _
    _ = .next (s.setGang x.k (g.dropPath x.path.lanes x.pc)) := congrArg _ (State.modGang_of_gang? hg _)
    _ = .next (s.setGang x.k _) := congrArg (fun h => Host.Outcome.next (s.setGang x.k h)) (g.dropPath_eq x.path.lanes x.pc)

end Sys2Proof.Machine
end


section
/-! SUPPORT. Bit fields: the fields that XFLD, IFLD and BITREV name, bit by bit, and the statement that they settle. -/

namespace Sys2Proof.Machine

/-! ## Results of lane instructions on 32 or 64 bits (R404, R405) -/

theorem bitWrites_eq (ty : ITy) (d : LDst) (act : Mask) (f : Nat → DWord) :
    bitWrites ty d act f = if ty.wide then write64 d act f else write32 d act (fun l => (f l).setWidth 32) := by
  cases ty <;> rfl

section
variable {i : Instr} {s : State} {x : Iss} (hx : s.iss = some x)
include hx

/-- A lane instruction of one lane predicate sends that of each lane. -/
theorem sends_of_laneP {p : Pred} {lat : Nat} {pd : Fin 8} {f : Iss → Nat → Bool} {v : Nat → Bool} (he : exec i s = s.laneP p lat pd f)
    (hv : ∀ l, f x l = v l) : Sends i s x lat [.p pd.val (x.act p) (maskOf (x.act p) v)] :=
  sends_of_regs lat .general _ _ hx (by rw [he, State.laneP, State.issue_some hx, funext hv])

/-- A lane instruction whose type says its width sends one 64-bit or one 32-bit result of each lane. -/
theorem sends_of_byWidth {p : Pred} {ty : ITy} {d : LDst} {t u : Iss → Tag} {f : Iss → Nat → DWord} {g : Iss → Nat → Word}
    (he : exec i s = if ty.wide then s.lane64 p 4 d t f else s.lane32 p 4 d u g) :
    Sends i s x 4 (if ty.wide then write64 d (x.act p) (f x) else write32 d (x.act p) (g x)) := by
  cases h : ty.wide with
  | true => exact sends_of_regs 4 (t x) _ _ hx (by rw [he, h, if_pos rfl, State.lane64, State.issue_some hx]; rfl)
  | false => exact sends_of_regs 4 (u x) _ _ hx (by rw [he, h, if_neg Bool.false_ne_true, State.lane32, State.issue_some hx]; rfl)

/-- A long integer instruction on bits sends the bits of each lane. -/
theorem sends_of_laneB {p : Pred} {ty : ITy} {d : LDst} {srcs : List LSrc} {f : Iss → Nat → DWord} {r : Nat → DWord}
    (he : exec i s = s.laneB p ty d srcs f) (hr : ∀ l, f x l = r l) : Sends i s x 4 (bitWrites ty d (x.act p) r) := by
  rw [bitWrites_eq, ← funext hr]
  exact sends_of_byWidth hx he

end

/-! ## Reversal of bits (R408) -/

theorem bitReverse_lt (n v : Nat) : bitReverse n v < 2 ^ n := by
  induction n generalizing v with
  | zero => exact Nat.one_pos
  | succ n ih =>
    have hlow := ih (v / 2)
    have hbit : v % 2 * 2 ^ n ≤ 1 * 2 ^ n := Nat.mul_le_mul_right _ (by omega)
    rw [bitReverse, Nat.pow_succ]
    omega

theorem bitReverse_testBit {n i : Nat} (hi : i < n) (v : Nat) : (bitReverse n v).testBit i = v.testBit (n - 1 - i) := by
  induction n generalizing v with
  | zero => omega
  | succ n ih =>
    rw [bitReverse, Nat.mul_comm, Nat.testBit_two_pow_mul_add _ (bitReverse_lt n _)]
    split
    next h =>
      rw [ih h, ← Nat.testBit_succ]
      congr 1
      omega
    next h =>
      obtain rfl : i = n := by omega
      simp [Nat.testBit_zero]

/-! ## The field that an operand names (R411) -/

/-- Bits [7:0] of the operand say where the field begins. -/
theorem fieldPos_eq (b : Word) : b.toNat % 256 = (b.extractLsb' 0 8).toNat := by
  rw [BitVec.extractLsb'_toNat, Nat.shiftRight_zero]

/-- Bits [15:8] of the operand say how long the field is. -/
theorem fieldLen_eq (w : Nat) (b : Word) : fieldLen w b =
    if w ≤ (b.extractLsb' 0 8).toNat then 0 else min (b.extractLsb' 8 8).toNat (w - (b.extractLsb' 0 8).toNat) := by
  rw [← fieldPos_eq, BitVec.extractLsb'_toNat, Nat.shiftRight_eq_div_pow]
  rfl

/-- The number with bit n − 1 of weight −2^(n − 1) is the sign extension. -/
theorem signExtend_eq_ite {n : Nat} (f : BitVec n) :
    (if 0 < n ∧ f.toNat / 2 ^ (n - 1) = 1 then BitVec.ofInt 64 ((f.toNat : Int) - (2 ^ n : Nat)) else BitVec.ofNat 64 f.toNat) = f.signExtend 64 := by
  rw [BitVec.signExtend, BitVec.toInt_eq_msb_cond, BitVec.msb_eq_decide, apply_ite (BitVec.ofInt 64), BitVec.ofInt_natCast]
  refine if_congr ?_ rfl rfl
  cases n with
  | zero => simp [BitVec.eq_nil f]
  | succ n =>
    have hlt := f.isLt
    rw [Nat.pow_succ] at hlt
    rw [decide_eq_true_eq, Nat.add_sub_cancel, Nat.div_eq_iff (Nat.two_pow_pos n)]
    omega

section
variable {w pos n : Nat} {b : Word} (hpos : b.toNat % 256 = pos) (hn : fieldLen w b = n)
include hpos hn

/-- XFLD takes the field out of A and extends it. -/
theorem extractField_eq (sg : Bool) (a : DWord) :
    extractField sg w a b = if sg then (a.extractLsb' pos n).signExtend 64 else (a.extractLsb' pos n).setWidth 64 := by
  have hf : a.toNat / 2 ^ pos % 2 ^ n = (a.extractLsb' pos n).toNat := by
    rw [BitVec.extractLsb'_toNat, Nat.shiftRight_eq_div_pow]
  unfold extractField
  dsimp only
  rw [hpos, hn, hf]
  cases sg with
  | false => simp only [Bool.false_eq_true, false_and, if_false, BitVec.ofNat_toNat]
  | true =>
    simp only [true_and, if_true]
    exact signExtend_eq_ite _

theorem extractField_getLsbD (sg : Bool) (a : DWord) {i : Nat} (hi : i < 64) :
    (extractField sg w a b).getLsbD i = if i < n then a.getLsbD (pos + i) else sg && decide (0 < n) && a.getLsbD (pos + n - 1) := by
  have hfield (j : Nat) : (a.extractLsb' pos n).getLsbD j = (decide (j < n) && a.getLsbD (pos + j)) := BitVec.getLsbD_extractLsb' ..
  have hmsb : (a.extractLsb' pos n).msb = (decide (0 < n) && a.getLsbD (pos + n - 1)) := by
    rw [BitVec.msb_eq_getLsbD_last, hfield]
    by_cases h : 0 < n
    · rw [decide_eq_true h, decide_eq_true (by omega : n - 1 < n), Nat.add_sub_assoc h]
    · rw [decide_eq_false h, decide_eq_false (by omega : ¬ n - 1 < n)]
      rfl
  rw [extractField_eq hpos hn]
  cases sg with
  | false =>
    rw [if_neg Bool.false_ne_true, BitVec.getLsbD_setWidth, hfield, decide_eq_true hi]
    by_cases h : i < n <;> simp [h]
  | true =>
    rw [if_pos rfl, BitVec.getLsbD_signExtend, hfield, hmsb, decide_eq_true hi]
    by_cases h : i < n <;> simp [h]

theorem insertField_eq (a c : DWord) : insertField w a b c =
    if n = 0 then c else (c &&& ~~~(BitVec.ofNat 64 (2 ^ n - 1) <<< pos)) ||| ((a &&& BitVec.ofNat 64 (2 ^ n - 1)) <<< pos) := by
  subst hpos hn
  rfl

/-- IFLD changes the bits of the field alone: there stand the low bits of A. -/
theorem insertField_getLsbD (a c : DWord) {i : Nat} (hi : i < 64) :
    (insertField w a b c).getLsbD i = if pos ≤ i ∧ i < pos + n then a.getLsbD (i - pos) else c.getLsbD i := by
  have hmask : (BitVec.ofNat 64 (2 ^ n - 1)).getLsbD (i - pos) = decide (i - pos < n) := by
    rw [BitVec.getLsbD_ofNat, Nat.testBit_two_pow_sub_one, decide_eq_true (by omega : i - pos < 64), Bool.true_and]
  rw [insertField_eq hpos hn]
  by_cases h0 : n = 0
  · rw [if_pos h0, if_neg (by omega)]
  · rw [if_neg h0]
    simp only [BitVec.getLsbD_or, BitVec.getLsbD_and, BitVec.getLsbD_not, BitVec.getLsbD_shiftLeft, hmask, hi]
    by_cases hp : i < pos
    · simp [hp, show ¬ pos ≤ i by omega]
    · by_cases hin : i - pos < n
      · simp [hp, hin, show pos ≤ i ∧ i < pos + n by omega]
      · simp [hp, hin, show ¬ i < pos + n by omega]

end

/-- Settles O23: a reversal bit by bit; XFLD as an extension of a field of A, IFLD as a field put under a mask. -/
theorem bitFields : Obligations.BitFields := by
  unfold Obligations.BitFields
  refine ⟨fun s x p ty d a b c hx => ⟨sends_of_laneB hx rfl fun _ => rfl, sends_of_laneB hx rfl fun _ => rfl⟩, by decide, ?bits⟩
  case bits =>
    intro w sg A C B hw _ pos len n
    have hpos : B.toNat % 256 = pos := fieldPos_eq B
    have hn : fieldLen w B = n := fieldLen_eq w B
    refine ⟨fun i hi => ?reverse, fun i hi => extractField_getLsbD hpos hn sg A hi, fun i hi => insertField_getLsbD hpos hn A C hi⟩
    case reverse =>
      have h64 : i < 64 := by omega
      rw [BitVec.getLsbD_ofNat, bitReverse_testBit hi, decide_eq_true h64, Bool.true_and]
      rfl

end Sys2Proof.Machine
end

section
/-! SUPPORT. Lane branches: what a path's run notes at the branch, where the lanes go at RUNE, and the statement that they settle. -/

namespace Sys2Proof.Machine

/-! ## The branch (R418, R419) -/

/-- A path goes on with a note in its run. -/
def Path.noted (x : Iss) (f : Run → Run) (q : Path) : Path :=
  { q with pc := q.pc + BitVec.ofNat 64 (4 * x.len), run := q.run.map (fun y => { f y with pos := (f y).pos + 1 }) }

/-- A note in the path's run, and the path goes on. -/
theorem Gang.noted_goOn (g : Gang) (x : Iss) (f : Run → Run) :
    (g.modPath x.path.lanes (fun q => { q with run := q.run.map f })).goOn x =
      { g with paths := g.paths.map (fun q => if q.lanes = x.path.lanes then q.noted x f else q) } := by
  simp only [Gang.goOn, Gang.modPath, List.map_map]
  congr 1
  refine List.map_congr_left fun q _ => ?_
  by_cases h : q.lanes = x.path.lanes
  · simp only [Function.comp, if_pos h, Path.next, Path.noted, Option.map_map]
    rfl
  · simp only [Function.comp, if_neg h]

/-- A lane branch notes its lanes in the run of its path; nothing else changes. -/
theorem moves_of_note {i : Instr} {s : State} {x : Iss} (hx : s.iss = some x) (f : Iss → Run → Run)
    (he : exec i s = s.issue fun x => s.modGang x.k (fun g => (g.modPath x.path.lanes (fun q => { q with run := q.run.map (f x) })).goOn x)) :
    Moves i s x (Path.noted x (f x)) := by
  unfold Moves
  rw [he, State.issue_some hx]
  exact congrArg (fun h => Host.Outcome.next (s.modGang x.k h)) (funext fun g => g.noted_goOn x (f x))

/-! ## The paths that leave a run (R418) -/

/-- Where lanes stand outside of every run. -/
def Path.stand (q : Path) : Mask × DWord × Option Run := (q.lanes, q.pc, q.run)

/-- The places that lanes leave a run for, each with its lanes; a place without lanes is none. -/
theorem leaveRun_stand (r : Run) (q : Path) (next : DWord) :
    (leaveRun r q next).map Path.stand = (r.branch.map (fun (b : Mask × DWord) => ((b.1, b.2, none) : Mask × DWord × Option Run)) ++
      [(q.lanes &&& ~~~(r.branch.foldl (fun (m : Mask) (b : Mask × DWord) => m ||| b.1) 0) &&& ~~~r.exits, next, none)]).filter (fun z => z.1 ≠ 0) := by
  have hfilter (l : List Path) : (l.filter (fun p => p.lanes ≠ 0)).map Path.stand = (l.map Path.stand).filter (fun z => z.1 ≠ 0) := by
    rw [List.filter_map]
    rfl
  unfold leaveRun
  rw [hfilter, List.map_append, List.map_map]
  rfl

/-- Settles O35: each branch is one note in its path's run; the places at RUNE are read off the notes. -/
theorem laneBranches : Obligations.LaneBranches := by
  unfold Obligations.LaneBranches
  intro s x p ofs lg lq r hx _ on target
  have all (k : Mask) : k &&& ~~~(0 : Mask) = k := BitVec.and_allOnes
  refine ⟨moves_of_note hx (fun x => Run.note (x.act p) (x.pc + 4 * ofs.signExtend 64) none) rfl,
    moves_of_note hx (fun x => Run.note (x.act p) (x.pc + 4 * ofs.signExtend 64) (some (lg, lq))) rfl,
    moves_of_note hx (fun x r => { r with exits := r.exits ||| x.act p }) rfl, fun y q next m t => ⟨fun hb he hm => ?taken, fun hb => ?stays⟩⟩
  case taken =>
    refine (leaveRun_stand y q next).trans ?_
    rw [hb, he, List.foldl_cons, List.foldl_nil, all, show (0 : Mask) ||| m = m from BitVec.zero_or]
    rfl
  case stays =>
    refine (leaveRun_stand y q next).trans ?_
    rw [hb, List.foldl_nil, all]
    rfl

end Sys2Proof.Machine
end

section
/-! SUPPORT. Lane integer instructions: the short forms, the long forms on values and on bits, and the statements that they settle. -/

namespace Sys2Proof.Machine

/-! ## Short forms (R404, R407) -/

theorem minBits_true_eq_min {w : Nat} (a b : BitVec w) : minBits true a b = BitVec.ofInt w (min a.toInt b.toInt) := by
  rw [minBits_eq_ite, if_pos rfl, min_def, apply_ite (BitVec.ofInt w), BitVec.ofInt_toInt, BitVec.ofInt_toInt]

theorem maxBits_true_eq_max {w : Nat} (a b : BitVec w) : maxBits true a b = BitVec.ofInt w (max a.toInt b.toInt) := by
  rw [maxBits_eq_ite, if_pos rfl, max_comm, max_def, apply_ite (BitVec.ofInt w), BitVec.ofInt_toInt, BitVec.ofInt_toInt]

theorem minBits_false_eq_min {w : Nat} (a b : BitVec w) : minBits false a b = BitVec.ofNat w (min a.toNat b.toNat) := by
  rw [minBits_eq_ite, if_neg Bool.false_ne_true, min_def, apply_ite (BitVec.ofNat w), BitVec.ofNat_toNat, BitVec.ofNat_toNat, BitVec.setWidth_eq,
    BitVec.setWidth_eq]

theorem maxBits_false_eq_max {w : Nat} (a b : BitVec w) : maxBits false a b = BitVec.ofNat w (max a.toNat b.toNat) := by
  rw [maxBits_eq_ite, if_neg Bool.false_ne_true, max_comm, max_def, apply_ite (BitVec.ofNat w), BitVec.ofNat_toNat, BitVec.ofNat_toNat,
    BitVec.setWidth_eq, BitVec.setWidth_eq]

/-- Settles O20: each form is one 32-bit result, ICMP a predicate; NOP is its path going on. -/
theorem shortIntegers : Obligations.ShortIntegers := by
  unfold Obligations.ShortIntegers
  intro s x p d a b cc pd hx A B g sh
  have res {i : Instr} {tag : Iss → Tag} {f : Iss → Nat → Word} {r : Nat → Word} (he : exec i s = s.lane32 p 4 d tag f) (hr : ∀ l, f x l = r l) :
      g i r := sends_of_lane32 hx he hr
  have hsh (l : Nat) : (B l).toNat % 32 = sh l := by
    simp only [sh, BitVec.extractLsb'_toNat, Nat.shiftRight_zero]
  exact ⟨res rfl fun _ => rfl, res rfl fun _ => rfl, res rfl fun _ => rfl, res rfl fun _ => rfl, res rfl fun _ => rfl, res rfl fun _ => rfl,
    res rfl fun l => congrArg (A l <<< ·) (hsh l), res rfl fun l => congrArg (A l >>> ·) (hsh l), res rfl fun l => congrArg (A l).sshiftRight (hsh l),
    res rfl fun _ => minBits_true_eq_min _ _, res rfl fun _ => maxBits_true_eq_max _ _, res rfl fun _ => minBits_false_eq_min _ _,
    res rfl fun _ => maxBits_false_eq_max _ _, res rfl fun _ => rfl, sends_of_laneP hx rfl fun _ => rfl, State.issue_some hx _⟩

/-! ## Long forms on values (R405, R406, R409, R410) -/

theorem intWrites_eq (ty : ITy) (d : LDst) (act : Mask) (f : Nat → Int) :
    intWrites ty d act f = if ty.wide then write64 d act (fun l => BitVec.ofInt 64 (f l)) else write32 d act (fun l => BitVec.ofInt 32 (f l)) := by
  cases ty <;> rfl

theorem clampTo_eq (ty : ITy) (sat : Bool) (v : Int) : clampTo ty sat v = if sat then ty.sat v else v := by
  cases sat
  · rfl
  · cases ty <;> rfl

theorem ofInt_val_wide {ty : ITy} (h : ty.wide = true) (x : Iss) (a : LSrc) (l : Nat) : BitVec.ofInt 64 (x.val ty a l) = x.w64 a l := by
  cases ty with
  | n64 => exact (BitVec.ofInt_natCast ..).trans ((BitVec.ofNat_toNat ..).trans (BitVec.setWidth_eq ..))
  | i64 => exact BitVec.ofInt_toInt
  | _ => cases h

theorem ofInt_val_narrow {ty : ITy} (h : ty.wide = false) (x : Iss) (a : LSrc) (l : Nat) : BitVec.ofInt 32 (x.val ty a l) = x.w32 a l := by
  cases ty with
  | n32 => exact (BitVec.ofInt_natCast ..).trans ((BitVec.ofNat_toNat ..).trans (BitVec.setWidth_eq ..))
  | i32 => exact BitVec.ofInt_toInt
  | _ => cases h

/-- A value times a power of two has the bits of the shifted bits. -/
theorem ofInt_mul_two_pow (w : Nat) (v : Int) (n : Nat) : BitVec.ofInt w (v * 2 ^ n) = BitVec.ofInt w v <<< n := by
  have hpow : BitVec.ofInt w (2 ^ n) = BitVec.twoPow w n := by
    rw [show (2 ^ n : Int) = ((2 ^ n : Nat) : Int) by norm_cast, BitVec.ofInt_natCast]
    exact BitVec.eq_of_toNat_eq (by rw [BitVec.toNat_ofNat, BitVec.toNat_twoPow])
  rw [BitVec.ofInt_mul, BitVec.shiftLeft_eq_mul_twoPow, hpow]

section
variable {i : Instr} {s : State} {x : Iss} (hx : s.iss = some x)
include hx

/-- A long integer instruction sends the values of the lanes, clamped under `.sat`. -/
theorem sends_of_laneI {p : Pred} {ty : ITy} {sat : Bool} {d : LDst} {tag : Iss → Tag} {f : Iss → Nat → Int} {r : Nat → Int}
    (he : exec i s = s.laneI p ty sat d tag f) (hr : ∀ l, f x l = r l) :
    Sends i s x 4 (intWrites ty d (x.act p) (fun l => clampTo ty sat (r l))) := by
  simp only [intWrites_eq, clampTo_eq, ← hr]
  exact sends_of_byWidth hx he

/-- A long instruction whose width picks its result sends values that have those bits. -/
theorem sendsInt_of_byWidth {p : Pred} {ty : ITy} {d : LDst} {t u : Iss → Tag} {f : Iss → Nat → DWord} {g : Iss → Nat → Word} {r : Nat → Int}
    (he : exec i s = if ty.wide then s.lane64 p 4 d t f else s.lane32 p 4 d u g) (hf : ty.wide = true → ∀ l, f x l = BitVec.ofInt 64 (r l))
    (hg : ty.wide = false → ∀ l, g x l = BitVec.ofInt 32 (r l)) : Sends i s x 4 (intWrites ty d (x.act p) r) := by
  have h := sends_of_byWidth hx he
  rw [intWrites_eq]
  cases hw : ty.wide with
  | true => rwa [hw, if_pos rfl, funext (hf hw)] at h
  | false => rwa [hw, if_neg Bool.false_ne_true, funext (hg hw)] at h

end

/-- Settles O21: each form sends the value of its row; shifts to the left and moves act on bits, which are those of the value. -/
theorem longIntegers : Obligations.LongIntegers := by
  unfold Obligations.LongIntegers
  intro s x p ty sat d a b c hx A B C g n
  have clamped {i : Instr} {tag : Iss → Tag} {f : Iss → Nat → Int} {r : Nat → Int} (he : exec i s = s.laneI p ty sat d tag f)
      (hr : ∀ l, f x l = r l) : g i r := sends_of_laneI hx he hr
  have whole {i : Instr} {tag : Iss → Tag} {f : Iss → Nat → Int} {r : Nat → Int} (he : exec i s = s.laneI p ty false d tag f)
      (hr : ∀ l, f x l = r l) : n i r := sends_of_laneI hx he hr
  refine ⟨clamped rfl fun _ => rfl, clamped rfl fun _ => rfl, clamped rfl fun _ => rfl, clamped rfl fun _ => rfl,
    clamped rfl fun l => (Int.abs_eq_natAbs (A l)).symm, clamped rfl fun _ => rfl, whole rfl fun l => (Int.shiftRight_eq_div_pow _ _).symm,
    whole rfl fun _ => rfl, whole rfl fun _ => rfl, whole rfl fun l => (Int.shiftRight_eq_div_pow _ _).symm, ?shl, ?mov⟩
  case shl =>
    refine sendsInt_of_byWidth hx rfl (fun hw l => ?_) (fun hw l => ?_)
    · rw [ofInt_mul_two_pow, ofInt_val_wide hw, ITy.w, if_pos hw]
    · rw [ofInt_mul_two_pow, ofInt_val_narrow hw, ITy.w, if_neg (ne_true_of_eq_false hw)]
  case mov => exact sendsInt_of_byWidth hx rfl (fun hw l => (ofInt_val_wide hw x a l).symm) (fun hw l => (ofInt_val_narrow hw x a l).symm)

/-! ## Long forms on bits (R408, R409, R412, R413) -/

/-- An operand has the bits of its width alone. -/
theorem Iss.wty_lt (x : Iss) (ty : ITy) (a : LSrc) (l : Nat) : (x.wty ty a l).toNat < 2 ^ ty.w := by
  unfold Iss.wty ITy.w
  split
  · exact BitVec.isLt _
  · rw [BitVec.toNat_setWidth_of_le (by decide)]
    exact BitVec.isLt _

theorem Iss.wty_wide {ty : ITy} (h : ty.wide = true) (x : Iss) (a : LSrc) (l : Nat) : x.wty ty a l = x.w64 a l := if_pos h

theorem Iss.wty_narrow {ty : ITy} (h : ty.wide = false) (x : Iss) (a : LSrc) (l : Nat) : (x.wty ty a l).setWidth 32 = x.w32 a l := by
  rw [Iss.wty, h, if_neg Bool.false_ne_true, BitVec.setWidth_setWidth_of_le _ (by decide), BitVec.setWidth_eq]

/-- SEL sends, in each lane, the source that its predicate picks. -/
theorem sends_sel {s : State} {x : Iss} (hx : s.iss = some x) (p : Pred) (ty : ITy) (ps : Fin 8) (pn : Bool) (d : LDst) (a b : LSrc) :
    Sends (.sel p ty ps pn d a b) s x 4
      (bitWrites ty d (x.act p) (fun l => if ((x.pmask ps.val).has l ^^ pn) then x.wty ty a l else x.wty ty b l)) := by
  have h := sends_of_byWidth (i := .sel p ty ps pn d a b) hx rfl
  rw [bitWrites_eq]
  cases hw : ty.wide with
  | true => simpa only [hw, if_true, Iss.wty_wide hw] using h
  | false => simpa only [hw, Bool.false_eq_true, if_false, apply_ite (BitVec.setWidth 32), Iss.wty_narrow hw] using h

/-- Settles O22: each form is one result on bits; a count of bits is a number below 2^w read off them. -/
theorem longLogic : Obligations.LongLogic := by
  unfold Obligations.LongLogic
  intro s x p ty d a b c cc pd ps pn hx A B g count
  have res {i : Instr} {srcs : List LSrc} {f : Iss → Nat → DWord} {r : Nat → DWord} (he : exec i s = s.laneB p ty d srcs f) (hr : ∀ l, f x l = r l) :
      g i r := sends_of_laneB hx he hr
  have hclz (l : Nat) : leadZeros ty.w (A l).toNat = if A l = 0 then ty.w else ty.w - 1 - Nat.log2 (A l).toNat := by
    rw [leadZeros_of_lt (x.wty_lt ty a l)]
    exact if_congr (BitVec.toNat_inj (y := 0)) rfl rfl
  exact ⟨res rfl fun _ => rfl, res rfl fun _ => rfl, res rfl fun _ => rfl, res rfl fun _ => rfl, res rfl fun _ => rfl,
    res rfl fun _ => congrArg _ (popcount_eq_length ty.w _), res rfl fun l => congrArg _ (hclz l), res rfl fun _ => rfl, res rfl fun _ => rfl,
    res rfl fun _ => rfl, sends_sel hx p ty ps pn d a b, sends_of_laneP hx rfl fun _ => rfl⟩

end Sys2Proof.Machine
end

section
/-! SUPPORT. The short float forms and conversions, and the statements that they settle. -/

namespace Sys2Proof.Machine

/-! ## Short float forms (R425, R427, R429, R430, R432) -/

/-- Without `.ftz` a subnormal stays. -/
theorem Fmt.ftz_off (f : Fmt) (b : Nat) : f.ftz false b = b := if_neg fun h => Bool.false_ne_true h.1

/-- Settles O24: each form is a float instruction under RNE; D is the third source of the short FFMA. -/
theorem shortFloats : Obligations.ShortFloats := by
  unfold Obligations.ShortFloats
  intro s x p d a b cc pd hx A B D g
  have float (ty : FTy) {i : Instr} {srcs : List LSrc} {op : Fmt → List Nat → FRes} {r : Nat → Nat → FRes}
      (he : exec i s = s.laneF p ty (ftyLat ty) d srcs op) (hr : ∀ l j, op (ftyFmt ty) (srcs.map (fun a => x.elem ty a l j)) = r l j) : g i ty r := by
    simp only [g, ← ftyLat_eq]
    exact sendsFloat_of_laneF hx he hr
  have cmp := sends_of_laneCmp (i := .fcmpF32 p cc pd a b) (p := p) (ty := .f32) (cc := cc) (ftz := false) (pd := pd) (a := a) (b := b) hx rfl
  simp only [Fmt.ftz_off] at cmp
  exact ⟨float .f32 rfl fun _ _ => rfl, float .f32 rfl fun _ _ => rfl, float .f32 rfl fun _ _ => rfl, float .f32 rfl fun _ _ => rfl,
    float .f32 rfl fun _ _ => rfl, float .f32 rfl fun _ _ => rfl, float .f32 rfl fun _ _ => rfl, float .f32 rfl fun _ _ => rfl,
    float .f64 rfl fun _ _ => rfl, float .f64 rfl fun _ _ => rfl, float .f64 rfl fun _ _ => rfl, float .bf16x2 rfl fun _ _ => rfl,
    float .bf16x2 rfl fun _ _ => rfl, float .bf16x2 rfl fun _ _ => rfl, float .f16x2 rfl fun _ _ => rfl, float .f16x2 rfl fun _ _ => rfl,
    cmp⟩

/-! ## The source of a conversion (R433) -/

/-- The bits of a source of CVT: a pair for the 64-bit types. -/
def Iss.cvtSrc (x : Iss) (sty : Ty) (o : LSrc) (l : Nat) : Nat :=
  match sty with
  | .f64 => (x.f64 o l).toNat
  | .n64 | .i64 => (x.w64 o l).toNat
  | _ => (x.w32 o l).toNat

/-- The bits of element `i` of CVT's source: of a second source, of a packed pair, or the source itself. -/
def Iss.cvtBits (x : Iss) (dty sty : Ty) (a : LSrc) (b : Option LSrc) (l i : Nat) : Nat :=
  match b with
  | some o => if i = 0 then x.cvtSrc sty a l else x.cvtSrc sty o l
  | none => if dty.isX2 then x.cvtSrc sty a l / 2 ^ (16 * i) % 2 ^ 16 else x.cvtSrc sty a l

/-- The bits of a source as the model reads them, by the width and kind of its element. -/
def Iss.cvtGet (x : Iss) (sty : Ty) (o : LSrc) (l : Nat) : Nat :=
  if (cvtElem sty).1.w = 64 then
    (match (cvtElem sty).1 with
      | .flt _ => (x.f64 o l).toNat
      | _ => (x.w64 o l).toNat)
  else (x.w32 o l).toNat

theorem Iss.cvtGet_eq (x : Iss) (sty : Ty) (o : LSrc) (l : Nat) : x.cvtGet sty o l = x.cvtSrc sty o l := by
  cases sty <;> rfl

theorem cvtElem_isX2 (ty : Ty) : (cvtElem ty).2 = ty.isX2 := by cases ty <;> rfl

/-- A packed pair fills one register. -/
theorem Iss.cvtSrc_lt {sty : Ty} (h : sty.isX2 = true) (x : Iss) (o : LSrc) (l : Nat) : x.cvtSrc sty o l < 2 ^ 32 := by
  cases sty with
  | bf16x2 | f16x2 | n16x2 | i16x2 => exact BitVec.isLt _
  | _ => cases h

/-- Elements that CVT writes. -/
def cvtCount (dty : Ty) : Nat := if dty.isX2 then 2 else 1

/-- The results of a lane as the model makes them: of two sources, of the halves of one, or of one. -/
def Iss.cvtLane (x : Iss) (dty sty : Ty) (one : Nat → FRes) (a : LSrc) (b : Option LSrc) (l : Nat) : List FRes :=
  match b with
  | some o => [one (x.cvtGet sty a l), one (x.cvtGet sty o l)]
  | none => if (cvtElem dty).2 then [one (x.cvtGet sty a l % 2 ^ 16), one (x.cvtGet sty a l / 2 ^ 16)] else [one (x.cvtGet sty a l)]

/-- A second source stands where two elements are packed; where a pair is made of one source, that is a pair. -/
theorem Iss.cvtLane_eq {dty sty : Ty} {b : Option LSrc} (hok : cvtOk dty sty = true) (hb : b.isSome = cvtPacks dty sty) (x : Iss) (one : Nat → FRes)
    (a : LSrc) (l : Nat) : x.cvtLane dty sty one a b l = (List.range (cvtCount dty)).map (fun i => one (x.cvtBits dty sty a b l i)) := by
  unfold Iss.cvtLane
  simp only [Iss.cvtGet_eq]
  cases b with
  | some o =>
    have hx2 : dty.isX2 = true := (Bool.and_eq_true_iff.1 hb.symm).1
    simp only [cvtCount, hx2, if_true]
    rfl
  | none =>
    rw [cvtElem_isX2]
    cases hx2 : dty.isX2 with
    | false =>
      simp only [cvtCount, Iss.cvtBits, hx2, Bool.false_eq_true, if_false]
      rfl
    | true =>
      have hpair : sty.isX2 = true := by
        have hp : cvtPacks dty sty = false := hb.symm
        simp only [cvtOk, hp, hx2, Bool.or_false, Bool.and_eq_true, beq_iff_eq] at hok
        exact hok.2.symm
      have hlt := x.cvtSrc_lt hpair a l
      have hhigh : x.cvtSrc sty a l / 2 ^ 16 % 2 ^ 16 = x.cvtSrc sty a l / 2 ^ 16 := Nat.mod_eq_of_lt (by omega)
      simp only [cvtCount, Iss.cvtBits, hx2, if_true]
      change _ = [one (x.cvtSrc sty a l / 1 % 2 ^ 16), one (x.cvtSrc sty a l / 2 ^ 16 % 2 ^ 16)]
      rw [hhigh, Nat.div_one]

/-! ## The register of a conversion (R426) -/

/-- The register or pair that CVT writes in a lane whose elements have the bits `e`. -/
def cvtReg (dty : Ty) (e : Nat → Nat) : Nat := if (cvtElem dty).2 then e 0 + e 1 * 2 ^ 16 else cvtWiden (cvtElem dty).1 (e 0)

/-- A register shows the elements that its type has. -/
theorem cvtReg_congr {dty : Ty} {e f : Nat → Nat} (h : ∀ j < cvtCount dty, e j = f j) : cvtReg dty e = cvtReg dty f := by
  unfold cvtReg
  rw [cvtElem_isX2]
  cases hx2 : dty.isX2 with
  | true =>
    have hn : cvtCount dty = 2 := if_pos hx2
    rw [if_pos rfl, if_pos rfl, h 0 (by omega), h 1 (by omega)]
  | false =>
    have hn : cvtCount dty = 1 := if_neg (ne_true_of_eq_false hx2)
    rw [if_neg Bool.false_ne_true, if_neg Bool.false_ne_true, h 0 (by omega)]

/-- The value of a signed element. -/
theorem intOf_true {w : Nat} (hw : 0 < w) (b : Nat) : intOf w true b = (BitVec.ofNat w b).toInt := by
  have heven : 2 ^ w = 2 * 2 ^ (w - 1) := by rw [← Nat.pow_succ']; congr 1; omega
  simp only [intOf, true_and, BitVec.toInt_eq_toNat_cond, BitVec.toNat_ofNat]
  split <;> split <;> omega

/-- A signed element of fewer than 32 bits is sign-extended. -/
theorem cvtWiden_signed {w : Nat} (h0 : 0 < w) (hw : w < 32) (b : Nat) :
    BitVec.ofNat 32 (cvtWiden (.int w true) b) = (BitVec.ofNat w b).signExtend 32 := by
  rw [cvtWiden, if_pos hw, intOf_true h0, BitVec.ofNat_toNat, BitVec.setWidth_eq]
  rfl

/-- The writes of a conversion whose elements have the bits `e` in each lane. -/
def cvtWrites (dty : Ty) (d : LDst) (act : Mask) (e : Nat → Nat → Nat) : List Write :=
  match dty with
  | .f64 | .n64 | .i64 => write64 d act (fun l => BitVec.ofNat 64 (e l 0))
  | .bf16x2 | .f16x2 | .n16x2 | .i16x2 => write32 d act (fun l => BitVec.ofNat 32 (e l 0 + e l 1 * 2 ^ 16))
  | .i8 => write32 d act (fun l => (BitVec.ofNat 8 (e l 0)).signExtend 32)
  | .i16 => write32 d act (fun l => (BitVec.ofNat 16 (e l 0)).signExtend 32)
  | _ => write32 d act (fun l => BitVec.ofNat 32 (e l 0))

/-- The writes as the model makes them: a pair for an element of 64 bits, else a register. -/
def cvtStore (dty : Ty) (d : LDst) (act : Mask) (e : Nat → Nat → Nat) : List Write :=
  if (cvtElem dty).1.w = 64 then write64 d act (fun l => BitVec.ofNat 64 (cvtReg dty (e l)))
  else write32 d act (fun l => BitVec.ofNat 32 (cvtReg dty (e l)))

theorem cvtStore_congr {dty : Ty} {e f : Nat → Nat → Nat} (h : ∀ l < 32, ∀ j < cvtCount dty, e l j = f l j) (d : LDst) (act : Mask) :
    cvtStore dty d act e = cvtStore dty d act f := by
  unfold cvtStore
  rw [write64_congr (fun l hl => congrArg _ (cvtReg_congr (h l hl))) d act, write32_congr (fun l hl => congrArg _ (cvtReg_congr (h l hl))) d act]

theorem cvtStore_eq (dty : Ty) (d : LDst) (act : Mask) (e : Nat → Nat → Nat) : cvtStore dty d act e = cvtWrites dty d act e := by
  cases dty with
  | i8 => exact congrArg (write32 d act) (funext fun l => cvtWiden_signed (w := 8) (by decide) (by decide) (e l 0))
  | i16 => exact congrArg (write32 d act) (funext fun l => cvtWiden_signed (w := 16) (by decide) (by decide) (e l 0))
  | _ => rfl

/-! ## CVT (R433, R434) -/

/-- The result of element `i` of lane `l`. -/
def Iss.cvtRes (x : Iss) (dty sty : Ty) (rm : RMode) (ftz sat : Bool) (a : LSrc) (b : Option LSrc) (l i : Nat) : FRes :=
  cvtOne (cvtElem dty).1 (cvtElem sty).1 rm ftz sat (x.cvtBits dty sty a b l i)

theorem cvtOk_of_wf {p : Pred} {dty sty : Ty} {rm : RMode} {ftz sat : Bool} {d : LDst} {a : LSrc} {b : Option LSrc}
    (h : (Instr.cvt p dty sty rm ftz sat d a b).wf = true) : cvtOk dty sty = true ∧ b.isSome = cvtPacks dty sty := by
  have hw : (cvtOk dty sty && (cvtFtz dty sty || !ftz) && (cvtSat dty || !sat) && b.isSome == cvtPacks dty sty &&
    decide (lCount (a :: optL b) ≤ 1)) = true := h
  simp only [Bool.and_eq_true, beq_iff_eq] at hw
  obtain ⟨⟨⟨⟨hok, -⟩, -⟩, hb⟩, -⟩ := hw
  exact ⟨hok, hb⟩

/-- What the model does for CVT, with the lanes' results in a list. -/
theorem exec_cvt {s : State} {x : Iss} (hx : s.iss = some x) (p : Pred) (dty sty : Ty) (rm : RMode) (ftz sat : Bool) (d : LDst) (a : LSrc) (b : Option LSrc) :
    let rs := laneRes (x.act p) (x.cvtLane dty sty (cvtOne (cvtElem dty).1 (cvtElem sty).1 rm ftz sat) a b)
    ∃ tag, exec (.cvt p dty sty rm ftz sat d a b) s = .next (s.regs x (if dty == .f64 || sty == .f64 then 8 else 4) tag
      (cvtStore dty d (x.act p) (fun l i => ((rs.getD l []).map FRes.bits).getD i 0)) (causes rs)) :=
  ⟨_, State.issue_some hx _⟩

theorem sends_cvt {s : State} {x : Iss} (hx : s.iss = some x) {dty sty : Ty} {b : Option LSrc} (hok : cvtOk dty sty = true)
    (hb : b.isSome = cvtPacks dty sty) (p : Pred) (rm : RMode) (ftz sat : Bool) (d : LDst) (a : LSrc) :
    let act := x.act p
    let r := x.cvtRes dty sty rm ftz sat a b
    Sends (.cvt p dty sty rm ftz sat d a b) s x (if dty = .f64 ∨ sty = .f64 then 8 else 4)
      (cvtWrites dty d act (fun l i => if act.has l then (r l i).bits else 0)) (floatErrs (cvtCount dty) act r) := by
  intro act r
  obtain ⟨tag, he⟩ := exec_cvt hx p dty sty rm ftz sat d a b
  have hlane : x.cvtLane dty sty (cvtOne (cvtElem dty).1 (cvtElem sty).1 rm ftz sat) a b = fun l => (List.range (cvtCount dty)).map (r l) :=
    funext fun l => x.cvtLane_eq hok hb _ a l
  have hws := cvtStore_congr (dty := dty) (fun l hl j hj => laneRes_bits (n := cvtCount dty) hl hj act r) d act
  simp only [hlane, causes_laneRes, Bool.or_eq_true, beq_iff_eq] at he
  rw [hws, cvtStore_eq] at he
  exact sends_of_regs _ tag _ _ hx he

/-- Settles O27: each element by its own source; the register is put together by its type. -/
theorem conversions : Obligations.Conversions := by
  unfold Obligations.Conversions
  intro s x p dty sty rm ftz sat d a b hx hwf src one r e
  obtain ⟨hok, hb⟩ := cvtOk_of_wf hwf
  exact sends_cvt hx hok hb p rm ftz sat d a

end Sys2Proof.Machine
end

section
/-! SUPPORT. Lane memory instructions without an active lane, and the statement that they settle. -/

namespace Sys2Proof.Machine

/-! ## No active lane (R404, R448) -/

theorem maskOf_zero (f : Nat → Bool) : maskOf 0 f = 0 := by
  rw [maskOf, foldl_fixed_of_mem]
  intro l _
  simp [Mask.has]

theorem State.memReq_noLane {q : Req} (h : q.lanes = 0) (s : State) (x : Iss) (a : Nat → DWord) (len : Nat) : s.memReq x a len q = s.pass x := if_pos h

theorem State.spReq_noLane {q : Req} (h : q.lanes = 0) (s : State) (x : Iss) (a : Nat → DWord) (len : Nat) : s.spReq x a len q = s.pass x := if_pos h

theorem State.hash_noLane (s : State) (x : Iss) (a : Nat → DWord) (data : List DWord) : s.hash x 0 a data = s := if_pos rfl

section
variable {i : Instr} {s : State} {x : Iss} {p : Pred} (hx : s.iss = some x) (ha : x.act p = 0)
include hx ha

theorem passes_of_load {d : LDst} {sz : SZ} {acq : Option Scope} {nl : Bool} {base : Iss → DWord} {ws : Option Nat} {addr : Iss → Nat → DWord}
    (he : exec i s = s.load p d sz acq nl base ws addr) : Passes i s x :=
  he.trans ((State.issue_some hx _).trans (congrArg _ (State.memReq_noLane ha ..)))

theorem passes_of_spLoad {d : LDst} {sz : SZ} {base : Iss → DWord} {ws : Option Nat} {addr : Iss → Nat → DWord}
    (he : exec i s = s.spLoad p d sz base ws addr) : Passes i s x :=
  he.trans ((State.issue_some hx _).trans (congrArg _ (State.spReq_noLane ha ..)))

theorem passes_of_store {a : LSrc} {sz : USZ} {rel : Option Scope} {base : Iss → DWord} {ws : Option Nat} {addr : Iss → Nat → DWord}
    (he : exec i s = s.store p a sz rel base ws addr) : Passes i s x := by
  refine he.trans ((State.issue_some hx _).trans (congrArg _ ?_))
  simp only [ha, if_true, maskOf_zero, State.hash_noLane]
  exact State.memReq_noLane rfl ..

theorem passes_of_spStore {a : LSrc} {sz : USZ} {rel : Option Scope} {base : Iss → DWord} {ws : Option Nat} {addr : Iss → Nat → DWord}
    (he : exec i s = s.spStore p a sz rel base ws addr) : Passes i s x := by
  refine he.trans ((State.issue_some hx _).trans (congrArg _ ?_))
  simp only [ha, if_true, State.hash_noLane]
  exact State.spReq_noLane rfl ..

theorem passes_of_atomic {op : AOp} {len : Nat} {signed : Bool} {ord : AOrd} {d : Option LDst} {a : LSrc} {base : Iss → DWord} {ws : Option Nat}
    {addr : Iss → Nat → DWord} (he : exec i s = s.atomic p op len signed ord d a base ws addr) : Passes i s x := by
  refine he.trans ((State.issue_some hx _).trans (congrArg _ ?_))
  simp only [ha, if_true, maskOf_zero]
  exact State.memReq_noLane rfl ..

theorem passes_redux (op : ROp) (ty : RTy) (d : LDst) (a : LSrc) : Passes (.redux p op ty d a) s x :=
  (exec_redux hx).trans (by rw [reduxSlots_none x ha]; rfl)

end

/-- Settles O13: without a lane a request is none, a release orders nothing, no store enters the hash, and a reduction has no value. -/
theorem noActiveLane : Obligations.NoActiveLane := by
  unfold Obligations.NoActiveLane
  intro s x p hx ha
  refine ⟨fun d m => passes_of_load hx ha (exec_ld d m), fun a m => passes_of_store hx ha (exec_st a m),
    fun sz acq nl d m => passes_of_load hx ha (exec_ldLong sz acq nl d m), fun sz rel a m => passes_of_store hx ha (exec_stLong sz rel a m),
    fun d m => passes_of_spLoad hx ha rfl, fun a m => passes_of_spStore hx ha rfl, fun sz acq d m => passes_of_spLoad hx ha rfl,
    fun sz rel a m => passes_of_spStore hx ha rfl, fun op d b a => passes_of_atomic hx ha (exec_atom op d b a),
    fun op b a => passes_of_atomic hx ha (exec_atomNoret op b a), fun op sz o d m a => passes_of_atomic hx ha (exec_atomLong op sz o d m a),
    fun op sz d m a => ?atoms, fun sl m => ?pref, fun a m => ?dset, fun d m => ?dget, fun op ty d a => passes_redux hx ha op ty d a⟩
  case atoms => exact (State.issue_some hx _).trans (congrArg _ (State.spReq_noLane ha ..))
  case pref => exact (State.issue_some hx _).trans (congrArg _ (State.memReq_noLane ha ..))
  case dset => exact (State.issue_some hx _).trans (congrArg _ (State.memReq_noLane ha ..))
  case dget => exact (State.issue_some hx _).trans (congrArg _ (State.memReq_noLane ha ..))

end Sys2Proof.Machine
end

section
/-! SUPPORT. The values that atomics write, and the statement that they settle. -/

namespace Sys2Proof.Machine

/-! ## The values of atomics (R454, R455) -/

/-- A value of `w` bits as an atomic compares it. -/
def atomVal {w : Nat} (sg : Bool) (b : BitVec w) : Int := if sg then b.toInt else b.toNat

theorem atomVal_eq {w : Nat} (hw : 0 < w) (sg : Bool) (b : BitVec w) :
    (if sg = true ∧ 2 ^ w / 2 ≤ b.toNat then (b.toNat : Int) - (2 ^ w : Nat) else (b.toNat : Int)) = atomVal sg b := by
  cases sg with
  | false => simp [atomVal]
  | true =>
    have heven : 2 ^ w = 2 * 2 ^ (w - 1) := by rw [← Nat.pow_succ']; congr 1; omega
    simp only [atomVal, true_and, if_true, BitVec.toInt_eq_toNat_cond]
    split <;> split <;> omega

theorem atomVal_lt_iff {w : Nat} (sg : Bool) (a b : BitVec w) :
    atomVal sg a < atomVal sg b ↔ if sg then a.toInt < b.toInt else a.toNat < b.toNat := by
  cases sg
  · exact Int.ofNat_lt
  · exact Iff.rfl

section
variable {w : Nat} (sg : Bool) (o v c : BitVec w)

theorem atomNew_cas : atomNew .cas sg w o.toNat v.toNat c.toNat = if o = c then some v.toNat else none := by
  simp only [atomNew, Nat.mod_eq_of_lt v.isLt, Nat.mod_eq_of_lt c.isLt, BitVec.toNat_inj]

variable (hw : 0 < w)
include hw

theorem atomNew_min : atomNew .min sg w o.toNat v.toNat c.toNat = some (if atomVal sg v < atomVal sg o then v.toNat else o.toNat) := by
  simp only [atomNew, Nat.mod_eq_of_lt v.isLt, atomVal_eq hw]

theorem atomNew_max : atomNew .max sg w o.toNat v.toNat c.toNat = some (if atomVal sg o < atomVal sg v then v.toNat else o.toNat) := by
  simp only [atomNew, Nat.mod_eq_of_lt v.isLt, atomVal_eq hw]

end

/-- Settles O46: an operand of w bits is its own residue; min, max and cas go by their comparison. -/
theorem atomicValues : Obligations.AtomicValues := by
  unfold Obligations.AtomicValues
  intro w sg o v c hw r less
  have hv : v.toNat % 2 ^ w = v.toNat := Nat.mod_eq_of_lt v.isLt
  have hmin := atomNew_min sg o v c hw
  have hmax := atomNew_max sg o v c hw
  have hcas := atomNew_cas sg o v c
  have hless (a b : BitVec w) : atomVal sg a < atomVal sg b ↔ less a b := atomVal_lt_iff sg a b
  simp only [hless] at hmin hmax
  refine ⟨congrArg some (BitVec.toNat_add o v).symm, congrArg some hv, ?and, ?or, ?xor, fun h => ?_, fun h => ?_, fun h => ?_, fun h => ?_,
    fun h => ?_, fun h => ?_⟩
  case and => exact congrArg some (congrArg (Nat.land o.toNat) hv)
  case or => exact congrArg some (congrArg (Nat.lor o.toNat) hv)
  case xor => exact congrArg some (congrArg (Nat.xor o.toNat) hv)
  · exact hmin.trans (by rw [if_pos h])
  · exact hmin.trans (by rw [if_neg h])
  · exact hmax.trans (by rw [if_pos h])
  · exact hmax.trans (by rw [if_neg h])
  · exact hcas.trans (if_pos h)
  · exact hcas.trans (if_neg h)

end Sys2Proof.Machine
end
